-- ==== Sys2Proof/Syntax.lean ====
section
/-!
DEFINITION. The commands of the CG3248: one constructor of `Instr` per row of spec/opcode_table.json, in the table's
order. A command is one whole step of the part (95_what_each_step_holds.md): a host access, a core instruction, a
chain instruction, an event of one of its engines, or an event of its surroundings. Operands carry what the part
does not decide itself: a written value, a received frame, a sensor's reading.
-/

namespace Sys2Proof

/-- What SECDED finds in the word that an access reads (R62, R63), with the syndrome. -/
inductive Ecc where
  | ok
  | ce (synd : BitVec 8)
  | ue (synd : BitVec 8)
  deriving DecidableEq, Repr

/-- An offset in BAR2, with what SECDED finds in each of the words that the access reads, as far as it is listed. -/
structure MemAt (w : Nat) where
  offset : BitVec w
  eccs : List Ecc
  deriving DecidableEq, Repr

/-- What every core instruction carries: the tile that issues it; E, the predicate and its sense, bits of the instruction
word (R106); `ill` for a word that no instruction has, which R107 makes illegal; and what SECDED finds in the fetched word,
in the C-stream word that the bundle reads, and in the word that a store of less than 64 bits merges into (R62, R63). -/
structure Head where
  cl  : Fin 32
  t   : Fin 12
  e   : Bool
  q   : Fin 8
  n   : Bool
  ill : Bool
  fetch : Ecc
  cs : Ecc
  merge : Ecc
  deriving DecidableEq, Repr

/-- An SRAM bank (R23): of a die's Cellar or trace memory, of a cluster's store or kernel ROM, or of a tile (X 0 to 3,
Y 4 to 7, C 8 and 9, P 10 and 11, loop cache 12, register spill 13). -/
inductive Bank where
  | cellar (d : Fin 2) (b : Fin 512)
  | trace  (d : Fin 2) (b : Fin 64)
  | store  (cl : Fin 32) (b : Fin 32)
  | rom    (cl : Fin 32) (b : Fin 32)
  | tile   (cl : Fin 32) (t : Fin 12) (b : Fin 14)
  deriving DecidableEq, Repr

/-- How the PCIe link leaves service (R324). -/
inductive LinkEvt where
  | linkDown
  | hotReset
  | d3hot
  deriving DecidableEq, Repr

/-- The commands, one per row of the table. -/
inductive Instr where
  /-- REGISTER_WRITE (R17). A host write to a register that has no row of its own sets its fields or is discarded and counted. -/
  | registerWrite (off : BitVec 26) (be : BitVec 4) (val : BitVec 32)
  /-- HOST_MEMORY_WRITE (R46). A host write through BAR2 to memory applies exactly its enabled bytes, by read-modify-write for partial words. -/
  | hostMemoryWrite (o : MemAt 30) (bytes : List (Option (BitVec 8)))
  /-- HIF_FENCE_READ (R58). A host read of HIF.FENCE completes only after every earlier accepted host write has reached its target or been discarded. -/
  | hifFenceRead
  /-- KEYWAY_READ_BAR0 (R325). A Keyway frame with OP 0b00 reads 1-64 words of BAR0 and returns them after wait bytes and a start byte. -/
  | keywayReadBar0 (addr : BitVec 32) (count : BitVec 6)
  /-- KEYWAY_WRITE_BAR0 (R325). A Keyway frame with OP 0b01 writes 1-64 words of BAR0, each performed when its last bit arrives. -/
  | keywayWriteBar0 (addr : BitVec 32) (words : List (BitVec 32))
  /-- KEYWAY_READ_BAR2 (R325). A Keyway frame with OP 0b10 reads 1-64 words through the BAR2 aperture. -/
  | keywayReadBar2 (addr : MemAt 32) (count : BitVec 6)
  /-- KEYWAY_WRITE_BAR2 (R325). A Keyway frame with OP 0b11 writes 1-64 words through the BAR2 aperture. -/
  | keywayWriteBar2 (addr : MemAt 32) (words : List (BitVec 32))
  /-- KEYWAY_CS_RISE_EARLY (R326). KW_CS_N rising early keeps completed words, discards an incomplete write word and counts it in KWABORT. -/
  | keywayCsRiseEarly (write bar2 : Bool) (addr : BitVec 32) (words : List (BitVec 32))
  /-- PCIE_LINK_DOWN (R324). A PCIe hot reset, link-down, PERST_N assertion or D3hot entry resets configuration space and MSI-X table, stops every DMA channel and releases vectors in service. -/
  | pcieLinkDown (cause : LinkEvt)
  /-- HINGE_FLIT_RETRY (R29). A flit received on a Hinge lane with a CRC error is retried from the sender's replay buffer. -/
  | hingeFlitRetry (lane : Fin 4) (attempt : Fin 8)
  /-- CROSSBAR_FLIT_RETRY (R415). A crossbar flit that fails its CRC is retried, and after eight failures sets class 235 and holds the package in reset. -/
  | crossbarFlitRetry (d : Fin 2) (port : Fin 32) (attempt : Fin 8)
  /-- DVFS_REQ (R73). A DVFS request from the host or a Warden is judged against R69, OFF, R70 and R71 and applied or refused with a code. -/
  | dvfsReq (island : BitVec 6) (point : BitVec 2) (trim : BitVec 3)
  /-- DVFS_TRANSITION_END (R72). An accepted operating-point transition ends after its voltage ramp and clock switch. -/
  | dvfsTransitionEnd
  /-- THERMAL_SAMPLE (R74). Every 100 us each island's sensor is sampled and judged against the coolest reading, +105 C, WARN_C and +115 C. -/
  | thermalSample (readings : List Int)
  /-- CEIL_STEP (R75). At each 1 ms mark the CEIL of an out-of-limit or over-temperature island falls one point, with budgets and capacities recomputed. -/
  | ceilStep
  /-- CEIL_RISE (R75). After each further 10 ms with the difference at 25.00 C or below, an island's CEIL rises one point. -/
  | ceilRise (island : BitVec 6)
  /-- PWR_ENTER (R78). A write of GLB.PWR.ENTER starts entry to DORMANT if every cluster is OFF, or is refused. -/
  | pwrEnter
  /-- DORMANT_ENTRY_COMPLETE (R78). Entry to DORMANT completes within 2 ms and posts GLB.PWR_STATUS. -/
  | dormantEntryComplete
  /-- PWR_EXIT (R79). A write of GLB.PWR.EXIT starts exit from DORMANT. -/
  | pwrExit
  /-- WAKE_N (R79). WAKE_N low for at least 1 us with WAKE_PIN set starts exit from DORMANT. -/
  | wakeN (lowNs : Nat)
  /-- DORMANT_EXIT_COMPLETE (R79). The package becomes ACTIVE with every cluster OFF and the cause latched in WAKE_CAUSE. -/
  | dormantExitComplete
  /-- ADD (R111). RD := RS + RT, wrapping. -/
  | add (h : Head) (rd rs rt : Fin 32)
  /-- SUB (R111). RD := RS - RT, wrapping. -/
  | sub (h : Head) (rd rs rt : Fin 32)
  /-- ADDS (R111). RD := RS + RT saturated to 32 bits. -/
  | adds (h : Head) (rd rs rt : Fin 32)
  /-- SUBS (R111). RD := RS - RT saturated to 32 bits. -/
  | subs (h : Head) (rd rs rt : Fin 32)
  /-- ADD2 (R111). Adds each 16-bit half, wrapping. -/
  | add2 (h : Head) (rd rs rt : Fin 32)
  /-- SUB2 (R111). Subtracts each 16-bit half, wrapping. -/
  | sub2 (h : Head) (rd rs rt : Fin 32)
  /-- ADD2S (R111). Adds each 16-bit half, saturated to 16 bits. -/
  | add2s (h : Head) (rd rs rt : Fin 32)
  /-- SUB2S (R111). Subtracts each 16-bit half, saturated to 16 bits. -/
  | sub2s (h : Head) (rd rs rt : Fin 32)
  /-- AND (R111). RD := RS & RT. -/
  | and (h : Head) (rd rs rt : Fin 32)
  /-- OR (R111). RD := RS | RT. -/
  | or (h : Head) (rd rs rt : Fin 32)
  /-- XOR (R111). RD := RS ^ RT. -/
  | xor (h : Head) (rd rs rt : Fin 32)
  /-- ANDN (R111). RD := RS & ~RT. -/
  | andn (h : Head) (rd rs rt : Fin 32)
  /-- SHL (R111). Logical left shift by register amount. -/
  | shl (h : Head) (rd rs rt : Fin 32)
  /-- SHR (R111). Logical right shift by register amount. -/
  | shr (h : Head) (rd rs rt : Fin 32)
  /-- SRA (R111). Arithmetic right shift by register amount. -/
  | sra (h : Head) (rd rs rt : Fin 32)
  /-- SHLS (R111). Left shift saturated to 32 bits. -/
  | shls (h : Head) (rd rs rt : Fin 32)
  /-- MIN (R111). Signed minimum. -/
  | min (h : Head) (rd rs rt : Fin 32)
  /-- MAX (R111). Signed maximum. -/
  | max (h : Head) (rd rs rt : Fin 32)
  /-- MINU (R111). Unsigned minimum. -/
  | minu (h : Head) (rd rs rt : Fin 32)
  /-- MAXU (R111). Unsigned maximum. -/
  | maxu (h : Head) (rd rs rt : Fin 32)
  /-- ABS (R111). Absolute value, wrapping. -/
  | abs (h : Head) (rd rs : Fin 32)
  /-- ABSS (R111). Absolute value, saturated. -/
  | abss (h : Head) (rd rs : Fin 32)
  /-- NEG (R111). Negation, wrapping. -/
  | neg (h : Head) (rd rs : Fin 32)
  /-- NEGS (R111). Negation, saturated. -/
  | negs (h : Head) (rd rs : Fin 32)
  /-- MOV (R111). RD := RS. -/
  | mov (h : Head) (rd rs : Fin 32)
  /-- CLZ (R111). Counts leading zero bits. -/
  | clz (h : Head) (rd rs : Fin 32)
  /-- NORM (R111). Counts redundant sign bits of a 32-bit value. -/
  | norm (h : Head) (rd rs : Fin 32)
  /-- NORM16 (R111). Counts redundant sign bits of a 16-bit value. -/
  | norm16 (h : Head) (rd rs : Fin 32)
  /-- PACKLL (R111). Packs the low halves of RS and RT. -/
  | packll (h : Head) (rd rs rt : Fin 32)
  /-- PACKHH (R111). Packs the high halves of RS and RT. -/
  | packhh (h : Head) (rd rs rt : Fin 32)
  /-- SXH (R111). Sign-extends RS[15:0]. -/
  | sxh (h : Head) (rd rs : Fin 32)
  /-- ZXH (R111). Zero-extends RS[15:0]. -/
  | zxh (h : Head) (rd rs : Fin 32)
  /-- SAT16 (R111). Saturates RS to the 16-bit range. -/
  | sat16 (h : Head) (rd rs : Fin 32)
  /-- ADDI (R111). RD := RS + sign-extended IMM11. -/
  | addi (h : Head) (rd rs : Fin 32) (imm : BitVec 11)
  /-- ANDI (R111). RD := RS & zero-extended IMM11. -/
  | andi (h : Head) (rd rs : Fin 32) (imm : BitVec 11)
  /-- ORI (R111). RD := RS | zero-extended IMM11. -/
  | ori (h : Head) (rd rs : Fin 32) (imm : BitVec 11)
  /-- SHI (R111). Shifts RS by an immediate amount as FUNC selects. -/
  | shi (h : Head) (func : BitVec 2) (rd rs : Fin 32) (amt : BitVec 5)
  /-- MOVI (R111). RD := sign-extended IMM16. -/
  | movi (h : Head) (rd : Fin 32) (imm : BitVec 16)
  /-- MOVIH (R111). Replaces RD[31:16] with IMM16. -/
  | movih (h : Head) (rd : Fin 32) (imm : BitVec 16)
  /-- CMP (R112). Writes a predicate with the comparison of two registers. -/
  | cmp (h : Head) (cond : BitVec 4) (qd : Fin 8) (rs rt : Fin 32)
  /-- CMPI (R112). Writes a predicate with the comparison of a register and an immediate. -/
  | cmpi (h : Head) (cond : BitVec 4) (qd : Fin 8) (rs : Fin 32) (imm : BitVec 9)
  /-- QOP (R112). Combines two predicates into a third. -/
  | qop (h : Head) (func : BitVec 2) (qd qa : Fin 8) (na : Bool) (qb : Fin 8) (nb : Bool)
  /-- RND (R113). Shifts right with rounding in the selected mode. -/
  | rnd (h : Head) (rd rs : Fin 32) (amt : BitVec 5) (rndf : BitVec 2)
  /-- DIVS (R113). Performs one step of restoring division. -/
  | divs (h : Head) (rd rs : Fin 32)
  /-- MPY16 (R114). ACC := one 16x16 product. -/
  | mpy16 (h : Head) (accd : Fin 8) (f m14 m13 : Bool) (ra : Fin 32) (bsel : BitVec 6)
  /-- MAC16 (R114). ACC += one 16x16 product. -/
  | mac16 (h : Head) (accd : Fin 8) (f m14 m13 : Bool) (ra : Fin 32) (bsel : BitVec 6)
  /-- MSU16 (R114). ACC -= one 16x16 product. -/
  | msu16 (h : Head) (accd : Fin 8) (f m14 m13 : Bool) (ra : Fin 32) (bsel : BitVec 6)
  /-- MPY2 (R114). ACC := sum of two 16x16 products. -/
  | mpy2 (h : Head) (accd : Fin 8) (f m14 m13 : Bool) (ra : Fin 32) (bsel : BitVec 6)
  /-- MAC2 (R114). ACC += sum of two 16x16 products. -/
  | mac2 (h : Head) (accd : Fin 8) (f m14 m13 : Bool) (ra : Fin 32) (bsel : BitVec 6)
  /-- MSU2 (R114). ACC -= sum of two 16x16 products. -/
  | msu2 (h : Head) (accd : Fin 8) (f m14 m13 : Bool) (ra : Fin 32) (bsel : BitVec 6)
  /-- MPYP (R114). Writes two 16x16 products into an accumulator pair. -/
  | mpyp (h : Head) (accd : Fin 8) (f m14 m13 : Bool) (ra : Fin 32) (bsel : BitVec 6)
  /-- MACP (R114). Adds two 16x16 products into an accumulator pair. -/
  | macp (h : Head) (accd : Fin 8) (f m14 m13 : Bool) (ra : Fin 32) (bsel : BitVec 6)
  /-- MSUP (R114). Subtracts two 16x16 products from an accumulator pair. -/
  | msup (h : Head) (accd : Fin 8) (f m14 m13 : Bool) (ra : Fin 32) (bsel : BitVec 6)
  /-- MPYW (R114). ACC := a 32x16 product. -/
  | mpyw (h : Head) (accd : Fin 8) (f m14 m13 : Bool) (ra : Fin 32) (bsel : BitVec 6)
  /-- MACW (R114). ACC += a 32x16 product. -/
  | macw (h : Head) (accd : Fin 8) (f m14 m13 : Bool) (ra : Fin 32) (bsel : BitVec 6)
  /-- MSUW (R114). ACC -= a 32x16 product. -/
  | msuw (h : Head) (accd : Fin 8) (f m14 m13 : Bool) (ra : Fin 32) (bsel : BitVec 6)
  /-- MPYL (R114). ACC := a 32x32 product using both M slots. -/
  | mpyl (h : Head) (accd : Fin 8) (f m14 m13 : Bool) (ra : Fin 32) (bsel : BitVec 6)
  /-- MACL (R114). ACC += a 32x32 product using both M slots. -/
  | macl (h : Head) (accd : Fin 8) (f m14 m13 : Bool) (ra : Fin 32) (bsel : BitVec 6)
  /-- MSUL (R114). ACC -= a 32x32 product using both M slots. -/
  | msul (h : Head) (accd : Fin 8) (f m14 m13 : Bool) (ra : Fin 32) (bsel : BitVec 6)
  /-- EXT (R115). Extracts a shifted, rounded, saturated part of an accumulator into a G register. -/
  | ext (h : Head) (rd : Fin 32) (accs : Fin 8) (tgt : BitVec 2) (shift : BitVec 5) (rndf : BitVec 2)
  /-- ACLR (R116). Clears an accumulator. -/
  | aclr (h : Head) (accd : Fin 8)
  /-- AMOV (R116). Copies one accumulator to another. -/
  | amov (h : Head) (accd accs : Fin 8)
  /-- AADD (R116). Adds two accumulators, 72-bit wrapping. -/
  | aadd (h : Head) (accd accs : Fin 8)
  /-- ASUB (R116). Subtracts two accumulators, 72-bit wrapping. -/
  | asub (h : Head) (accd accs : Fin 8)
  /-- ANEG (R116). Negates an accumulator. -/
  | aneg (h : Head) (accd accs : Fin 8)
  /-- AABS (R116). Takes the absolute value of an accumulator. -/
  | aabs (h : Head) (accd accs : Fin 8)
  /-- ASHL (R116). Shifts an accumulator left. -/
  | ashl (h : Head) (accd : Fin 8) (amt : BitVec 6)
  /-- ASRA (R116). Shifts an accumulator right arithmetically. -/
  | asra (h : Head) (accd : Fin 8) (amt : BitVec 6)
  /-- NOP (R108). Does nothing for one cycle. -/
  | nop (h : Head)
  /-- LD_B (R117). Loads a sign-extended byte. -/
  | ldB (h : Head) (rd : Fin 32) (pn : Fin 16) (mode : BitVec 2) (off : BitVec 10) (ecc : Ecc)
  /-- LD_BU (R117). Loads a zero-extended byte. -/
  | ldBu (h : Head) (rd : Fin 32) (pn : Fin 16) (mode : BitVec 2) (off : BitVec 10) (ecc : Ecc)
  /-- LD_H (R117). Loads a sign-extended halfword. -/
  | ldH (h : Head) (rd : Fin 32) (pn : Fin 16) (mode : BitVec 2) (off : BitVec 10) (ecc : Ecc)
  /-- LD_HU (R117). Loads a zero-extended halfword. -/
  | ldHu (h : Head) (rd : Fin 32) (pn : Fin 16) (mode : BitVec 2) (off : BitVec 10) (ecc : Ecc)
  /-- LD_W (R117). Loads a 32-bit word. -/
  | ldW (h : Head) (rd : Fin 32) (pn : Fin 16) (mode : BitVec 2) (off : BitVec 10) (ecc : Ecc)
  /-- LD_D (R117). Loads a 64-bit word into a register pair. -/
  | ldD (h : Head) (rd : Fin 32) (pn : Fin 16) (mode : BitVec 2) (off : BitVec 10) (ecc : Ecc)
  /-- ST_B (R117). Stores a byte. -/
  | stB (h : Head) (rs : Fin 32) (pn : Fin 16) (mode : BitVec 2) (off : BitVec 10)
  /-- ST_H (R117). Stores a halfword. -/
  | stH (h : Head) (rs : Fin 32) (pn : Fin 16) (mode : BitVec 2) (off : BitVec 10)
  /-- ST_W (R117). Stores a 32-bit word. -/
  | stW (h : Head) (rs : Fin 32) (pn : Fin 16) (mode : BitVec 2) (off : BitVec 10)
  /-- ST_D (R117). Stores a register pair as a 64-bit word. -/
  | stD (h : Head) (rs : Fin 32) (pn : Fin 16) (mode : BitVec 2) (off : BitVec 10)
  /-- MOVX (R119). Copies between extended register numbers, effective from the next bundle. -/
  | movx (h : Head) (dst src : BitVec 8)
  /-- PMOVI (R121). Loads a pointer with an immediate times 4. -/
  | pmovi (h : Head) (pn : Fin 16) (imm : BitVec 17)
  /-- PADD (R121). Post-modifies a pointer by an immediate or modifier. -/
  | padd (h : Head) (pn : Fin 16) (usem : Bool) (imm : BitVec 16)
  /-- TBRD (R122). Reads TB2 seconds and nanoseconds into a register pair. -/
  | tbrd (h : Head) (rd : Fin 32)
  /-- BR (R123). Branches relative to the instruction. -/
  | br (h : Head) (off : BitVec 21)
  /-- BL (R123). Branches and writes the return address to G31. -/
  | bl (h : Head) (off : BitVec 21)
  /-- JR (R123). Branches to the address in a register. -/
  | jr (h : Head) (rs : Fin 32)
  /-- LOOP (R124). Opens a hardware loop with a register count. -/
  | loop (h : Head) (rs : Fin 32) (body : BitVec 16)
  /-- LOOPI (R124). Opens a hardware loop with an immediate count. -/
  | loopi (h : Head) (body : BitVec 6) (count : BitVec 16)
  /-- RET (R103). Ends the work item, performs the end-of-item fence and returns the result code to the sequencer. -/
  | ret (h : Head)
  /-- FENCE (R126). Orders the core's accesses at the named scope and kind, holding the bundle until complete. -/
  | fence (h : Head) (scope : BitVec 3) (kind : BitVec 2)
  /-- CKW (R128). Offers a 128-bit word to the tile's open packet on a cask and waits for acceptance or refusal. -/
  | ckw (h : Head) (rs rc : Fin 32) (qd : Fin 8)
  /-- CKC (R135). Commits the tile's open packet with a plain doorbell. -/
  | ckc (h : Head) (rc : Fin 32)
  /-- CKC_REL (R127). Performs FENCE REL at scope D or P and then commits the open packet. -/
  | ckcRel (h : Head) (rc : Fin 32)
  /-- CKA (R135). Abandons the tile's open packet on a cask. -/
  | cka (h : Head) (rc : Fin 32)
  /-- CKR (R136). Reads the next word of a cask and its read status word with ACQ semantics. -/
  | ckr (h : Head) (rd rc rs : Fin 32) (ecc : Ecc)
  /-- WPOST (R129). Posts a work item to a cluster's scheduler and waits for acceptance or refusal. -/
  | wpost (h : Head) (rs rt : Fin 32) (qd : Fin 8)
  /-- WDELAY (R129). Arms a one-shot delay-list timer with a work item. -/
  | wdelay (h : Head) (rs rt : Fin 32) (qd : Fin 8)
  /-- OVERRUN (R99). When CYC reaches ILIM the next bundle does not issue and exception 0x07 ends the item. -/
  | overrun (cl : Fin 32) (t : Fin 12)
  /-- HALT (R105). DBG_CTRL.HALT stops the tile at the next bundle boundary. -/
  | halt (cl : Fin 32) (t : Fin 12)
  /-- STEP (R105). DBG_CTRL.STEP executes one bundle and halts again. -/
  | step (cl : Fin 32) (t : Fin 12)
  /-- RESUME (R105). DBG_CTRL.RESUME leaves halt. -/
  | resume (cl : Fin 32) (t : Fin 12)
  /-- BREAKPOINT (R105). A matching armed breakpoint or watchpoint halts the tile before the bundle issues. -/
  | breakpoint (cl : Fin 32) (t : Fin 12)
  /-- SCRUB_READ (R413). Every 10 us each SRAM bank reads the word at its scrub pointer, corrects or poisons it and advances. -/
  | scrubRead (b : Bank) (ecc : Ecc)
  /-- PATROL_SCRUB (R413). A DRAM channel patrol-reads its next line so that the channel is covered once per SCRUBH hours. -/
  | patrolScrub (c : Fin 4) (ecc : Ecc)
  /-- DISPATCH (R150). The scheduler hands the oldest ready item of the highest class to an idle tile in dispatch. -/
  | dispatch (cl : Fin 32)
  /-- KERNEL_LOAD_COMPLETE (R151). The kernel loader finishes loading and verifying an image into a tile, which then starts the item. -/
  | kernelLoadComplete (cl : Fin 32) (t : Fin 12)
  /-- POST (R147). HPCTL OP POST offers the host item to the pending store. -/
  | post (cl : Fin 32)
  /-- DELAY (R154). HPCTL OP DELAY arms a one-shot timer with the host item. -/
  | delay (cl : Fin 32) (us : BitVec 32)
  /-- CANCEL (R157). HPCTL OP CANCEL disarms a one-shot timer the host armed. -/
  | cancel (cl : Fin 32) (timer : BitVec 13)
  /-- DEFERRED_ACCEPT (R147). An item waiting at a delay list, playout unit or sequencer is accepted when room appears in the pending store. -/
  | deferredAccept (cl : Fin 32)
  /-- ONE_SHOT_TIMER_EXPIRY (R154). A one-shot timer expires at its tick and releases its item. -/
  | oneShotTimerExpiry (cl : Fin 32) (timer : BitVec 13)
  /-- PERIODIC_TIMER_EXPIRY (R154). A periodic timer expires at a termination's boundary, releases its chain-run item and re-arms. -/
  | periodicTimerExpiry (cl : Fin 32) (slot : BitVec 13)
  /-- CHAIN_RUN_START (R175). The chain sequencer takes a chain-run item and begins issuing the chain's instructions. -/
  | chainRunStart (cl : Fin 32) (slot : BitVec 13) (chain : Fin 2) (ecc : Ecc)
  /-- DEADLINE (R160). At the deadline of a run that has not issued END, no further instruction is issued and the run is missed. -/
  | deadline (cl : Fin 32) (slot : BitVec 13) (chain : Fin 2)
  /-- ALLOC (R166). ACMD ALLOC reserves the lowest FREE slot for a TID and writes its home record. -/
  | alloc (cl : Fin 32) (tid : BitVec 18)
  /-- FREE (R166). ACMD FREE returns a RESERVED slot to FREE. -/
  | free (cl : Fin 32) (slot : BitVec 13)
  /-- QUERY (R188). ACMD QUERY reports the slot of a TID homed on the cluster. -/
  | query (cl : Fin 32) (tid : BitVec 18)
  /-- COMMIT (R183). A doorbell COMMIT checks a new context version and admits it against budget, units and timers, or rejects it whole. -/
  | commit (cl : Fin 32) (slot : BitVec 13) (keep staged : Bool) (buf : BitVec 6) (version : BitVec 16)
  /-- DELETE (R187). A doorbell DELETE schedules a LIVE or IDLE slot to stop at its switch boundary. -/
  | delete (cl : Fin 32) (slot : BitVec 13) (version : BitVec 16)
  /-- VERSION_SWITCH (R184). At the first boundary after acceptance a pending version takes effect, with classifier entries, home record and charges. -/
  | versionSwitch (cl : Fin 32) (slot : BitVec 13)
  /-- WARDEN_ADJUSTMENT (R186). A Warden adjustment carrying its base version is accepted or discarded by the context engine. -/
  | wardenAdjustment (cl : Fin 32) (slot : BitVec 13) (base : BitVec 16) (area : List (BitVec 32))
  /-- METRICS_INTERVAL_END (R170). At the end of each 1 s metrics interval the data plane rewrites the metrics of each context. -/
  | metricsIntervalEnd (cl : Fin 32) (slot : BitVec 13)
  /-- LINE_IN (R176). Reads the 8 x p frames of the timeslot ending before the boundary into a block. -/
  | lineIn (cl : Fin 32) (slot : BitVec 13) (chain : Fin 2)
  /-- LINE_OUT (R176). Writes 8 x p egress frames starting at the boundary plus OUTLEAD. -/
  | lineOut (cl : Fin 32) (slot : BitVec 13) (chain : Fin 2)
  /-- PKT_IN (R281). Converts the payloads presented by the playout unit into frame records. -/
  | pktIn (cl : Fin 32) (slot : BitVec 13) (chain : Fin 2)
  /-- PKT_OUT (R283). Holds frames and, when FPP are held, builds, protects and commits the packet to TXCASK. -/
  | pktOut (cl : Fin 32) (slot : BitVec 13) (chain : Fin 2)
  /-- EC (R213). Presents the near-end block to the Vat slot and writes the cleaned block. -/
  | ec (cl : Fin 32) (slot : BitVec 13) (chain : Fin 2)
  /-- EC_REF (R214). Delivers a tagged far-end reference block to the own or peer Vat slot. -/
  | ecRef (cl : Fin 32) (slot : BitVec 13) (chain : Fin 2)
  /-- TONE_DET (R217). Scans a block in 5 ms frames, declares signals, posts records and optionally mutes. -/
  | toneDet (cl : Fin 32) (slot : BitVec 13) (chain : Fin 2)
  /-- TONE_GEN (R224). Writes the tone of its generator profile into the block. -/
  | toneGen (cl : Fin 32) (slot : BitVec 13) (chain : Fin 2)
  /-- DEC (R251). Decodes the frames of a block into p ms of PCM, concealing as configured. -/
  | dec (cl : Fin 32) (slot : BitVec 13) (chain : Fin 2)
  /-- ENC (R250). Encodes PCM into frame records on the codec's frame grid. -/
  | enc (cl : Fin 32) (slot : BitVec 13) (chain : Fin 2)
  /-- PLC (R255). Conceals a MISSING block from its history or passes the block on. -/
  | plc (cl : Fin 32) (slot : BitVec 13) (chain : Fin 2)
  /-- VAD (R177). Sets NOISE on a block without speech. -/
  | vad (cl : Fin 32) (slot : BitVec 13) (chain : Fin 2)
  /-- CNG (R177). Replaces a NOISE or SID block with comfort noise. -/
  | cng (cl : Fin 32) (slot : BitVec 13) (chain : Fin 2)
  /-- SRC (R261). Converts a block between sample rates through the resampler. -/
  | src (cl : Fin 32) (slot : BitVec 13) (chain : Fin 2)
  /-- GAIN (R177). Multiplies a block by a gain, saturated to Q15. -/
  | gain (cl : Fin 32) (slot : BitVec 13) (chain : Fin 2)
  /-- MIX (R179). Sums the mixer inputs other than its own with a gain. -/
  | mix (cl : Fin 32) (slot : BitVec 13) (chain : Fin 2)
  /-- VDE_RX (R232). Demodulates a block for fax relay, writing RX records. -/
  | vdeRx (cl : Fin 32) (slot : BitVec 13) (chain : Fin 2)
  /-- VDE_TX (R236). Modulates TX records into line samples. -/
  | vdeTx (cl : Fin 32) (slot : BitVec 13) (chain : Fin 2)
  /-- FAXRELAY (R240). Exchanges T.38 IFP packets between a VDE area and the packet network. -/
  | faxrelay (cl : Fin 32) (slot : BitVec 13) (chain : Fin 2)
  /-- METER (R360). Measures levels and writes the R-factor estimate. -/
  | meter (cl : Fin 32) (slot : BitVec 13) (chain : Fin 2)
  /-- FORK (R177). Copies a block to a mixer input of the peer or to a cask. -/
  | fork (cl : Fin 32) (slot : BitVec 13) (chain : Fin 2)
  /-- CALL (R193). Runs a user kernel of the cluster's table on the block. -/
  | call (cl : Fin 32) (slot : BitVec 13) (chain : Fin 2)
  /-- HANDOFF_SEND (R179). Writes a block to the handoff buffer in the peer's state region and publishes it. -/
  | handoffSend (cl : Fin 32) (slot : BitVec 13) (chain : Fin 2)
  /-- HANDOFF_RECEIVE (R179). Takes the newest complete unread block from the own handoff buffer. -/
  | handoffReceive (cl : Fin 32) (slot : BitVec 13) (chain : Fin 2)
  /-- END (R177). Ends the chain run. -/
  | endRun (cl : Fin 32) (slot : BitVec 13) (chain : Fin 2)
  /-- EC_REQUEST_COMPLETE (R210). The Vat completes a queued EC request and returns the cleaned block. -/
  | ecRequestComplete (cl : Fin 32) (ecc : Ecc)
  /-- VAT_SEARCH (R198). Every 64 ms with far-end speech the Vat searches the tail and places or shadows windows. -/
  | vatSearch (cl : Fin 32) (slot : BitVec 13)
  /-- WINDOW_RELEASE (R199). A window 40 dB below the strongest for 256 ms fades over 16 ms and becomes unused. -/
  | windowRelease (cl : Fin 32) (slot : BitVec 13) (w : Fin 8)
  /-- DOUBLE_TALK_HOLD_END (R201). The double-talk declaration ends DTDHOLD after the last qualifying block. -/
  | doubleTalkHoldEnd (cl : Fin 32) (slot : BitVec 13)
  /-- NLP_RELEASE (R202). The NLP disengages its release time after the engaging condition ends. -/
  | nlpRelease (cl : Fin 32) (slot : BitVec 13)
  /-- DISABLER_RELEASE (R204). The tone disabler state ends when both directions stay below DISLEV for DISHOLD. -/
  | disablerRelease (cl : Fin 32) (slot : BitVec 13)
  /-- TONE_BANK_COMPLETE (R227). The tone bank completes the requests released at one boundary. -/
  | toneBankComplete (cl : Fin 32)
  /-- VDE_COMPLETE (R241). The VDE completes the requests released at one boundary. -/
  | vdeComplete (cl : Fin 32)
  /-- RESAMPLER_COMPLETE (R266). The resampler completes the requests released at one boundary. -/
  | resamplerComplete (cl : Fin 32)
  /-- USER_SET_LOAD (R265). UCMD LOAD copies and checks a user coefficient image into the bank not in force and switches banks. -/
  | userSetLoad (cl : Fin 32) (set : Fin 8)
  /-- CREATE (R143). CSK CMD CREATE checks CFG and BASE and enables the cask. -/
  | create (d : Fin 2) (cask : BitVec 13)
  /-- FLUSH (R139). CSK CMD FLUSH discards committed unread packets and marks open ones for discard. -/
  | flush (d : Fin 2) (cask : BitVec 13)
  /-- DESTROY (R143). CSK CMD DESTROY disables an empty cask. -/
  | destroy (d : Fin 2) (cask : BitVec 13)
  /-- PUSH (R134). HWCTL PUSH offers HWR0-HWR3 to the host's open packet. -/
  | push (d : Fin 2) (cask : BitVec 13)
  /-- HWCTL_COMMIT (R135). HWCTL COMMIT commits the host's open packet. -/
  | hwctlCommit (d : Fin 2) (cask : BitVec 13)
  /-- HWCTL_COMMIT_REL (R52). HWCTL COMMIT with REL holds the doorbell until earlier host writes land, then commits. -/
  | hwctlCommitRel (d : Fin 2) (cask : BitVec 13)
  /-- HWCTL_ABORT (R135). HWCTL ABORT abandons the host's open packet. -/
  | hwctlAbort (d : Fin 2) (cask : BitVec 13)
  /-- ADV (R136). HWCTL ADV consumes the word shown in PEEK. -/
  | adv (d : Fin 2) (cask : BitVec 13)
  /-- GACK (R142). A write to GACK lowers a notice group's pending count. -/
  | gack (d : Fin 2) (grp : Fin 32) (n : BitVec 16)
  /-- FRAME_RECEIVE (R304). A MAC receives a frame, checks it and passes it to the classifier or a host queue. -/
  | frameReceive (m : Fin 5) (frame : List (BitVec 8)) (fcsOk : Bool)
  /-- PACKET_ARRIVAL (R278). The playout unit stores or drops an arriving RTP or UDPTL packet by its sequence number. -/
  | packetArrival (d : Fin 2)
  /-- PLAYOUT_RELEASE (R277). At each boundary the playout unit releases the run and presents the packets due. -/
  | playoutRelease (cl : Fin 32) (slot : BitVec 13)
  /-- PLAYOUT_ADJUST (R279). At the end of each second in which LMIN differs from TGT by more than 2 ms the playout offset moves. -/
  | playoutAdjust (tid : BitVec 18)
  /-- RTCP_SEND (R284). At the first boundary after each RTCP interval the playout unit sends a compound packet. -/
  | rtcpSend (tid : BitVec 18)
  /-- INSERT (R271). CLS CMD INSERT places an entry in both classifier copies, pending until its version switch. -/
  | insert
  /-- REMOVE (R271). CLS CMD REMOVE stops an entry at its version switch or cancels a pending insert. -/
  | remove
  /-- CLS_QUERY (R271). CLS CMD QUERY returns the index of a key from die 0's copy. -/
  | clsQuery
  /-- PLY_ENABLE (R276). Setting PLY.CFG.EN builds both pools' free lists within 10 ms. -/
  | plyEnable
  /-- TDM_ENABLE (R291). Setting CTRL.EN starts a port, numbers frames from 0 and treats the egress buffer as fetched. -/
  | tdmEnable (p : Fin 48) (val : BitVec 32)
  /-- TDM_CALIBRATE (R290). CTRL.CAL starts measurement of the port's on-die path. -/
  | tdmCalibrate (p : Fin 48)
  /-- CALIBRATION_COMPLETE (R290). Calibration writes DLY.AUTO and posts CALSTATUS within 1 ms. -/
  | calibrationComplete (p : Fin 48) (measured : Option (BitVec 8))
  /-- TDM_INGRESS_FRAME (R292). At the end of a frame the port writes its samples and ingress tag to Cellar. -/
  | tdmIngressFrame (p : Fin 48) (octets : List (BitVec 8))
  /-- TDM_EGRESS_FETCH (R292). 2 us before a frame's start the port fetches it, writes its tag and refills the place with IDLEV. -/
  | tdmEgressFetch (p : Fin 48)
  /-- FS_RECEIVED (R289). A slave port tags an FS edge and judges it against the predicted window. -/
  | fsReceived (p : Fin 48)
  /-- HDLC_ENABLE (R298). A write of HCFG.EN = 1 enables an HDLC channel or is refused. -/
  | hdlcEnable (p : Fin 48) (hslot : Fin 64) (val : BitVec 32)
  /-- HDLC_FRAME_RECEIVE (R299). At a closing flag the channel commits the received frame to its receive cask. -/
  | hdlcFrameReceive (p : Fin 48) (hslot : Fin 64) (data : List (BitVec 8)) (stat : BitVec 3)
  /-- HDLC_FRAME_TRANSMIT (R299). The channel takes a committed packet from its transmit cask and sends it as one frame. -/
  | hdlcFrameTransmit (p : Fin 48) (hslot : Fin 64)
  /-- LINK_CHANGE (R303). STATUS.LINK changes and sets EVT.LINKUP or EVT.LINKDN. -/
  | linkChange (m : Fin 5) (lock : BitVec 8)
  /-- MAC_TRANSMIT (R307). At a frame boundary the MAC takes the next frame from the highest-priority member of its egress set. -/
  | macTransmit (m : Fin 5)
  /-- MAC_TRANSMIT_END (R309). After a frame's last bit leaves or it is discarded, the MAC posts its return record or transmit completion. -/
  | macTransmitEnd (m : Fin 5)
  /-- PAUSE_EXPIRY (R314). The pause count runs out and transmission resumes. -/
  | pauseExpiry (m : Fin 5)
  /-- PAUSE_FRAME_SEND (R314). The MAC sends pause frames as free receive buffer crosses 25 % and 50 % and repeats them every 0x8000 quanta. -/
  | pauseFrameSend (m : Fin 5)
  /-- PAUSE_WATCHDOG (R315). A paused interval reaching WDMS resumes transmission and ignores pause for WDMS. -/
  | pauseWatchdog (m : Fin 5)
  /-- COLLISION (R316). A half-duplex collision on MACM sends a jam and backs off, or drops the frame. -/
  | collision (late : Bool)
  /-- RQ_TAIL (R310). A write to a receive queue's TAIL provides descriptors. -/
  | rqTail (q : Fin 64) (tail : BitVec 16) (cells : List (Nat × BitVec 8))
  /-- TQ_TAIL (R312). A write to a transmit queue's TAIL is the doorbell for transmit descriptors. -/
  | tqTail (q : Fin 16) (tail : BitVec 16) (cells : List (Nat × BitVec 8))
  /-- MDIO_C22_READ (R302). MDIOCMD Clause 22 read of a PHY register. -/
  | mdioC22Read (phy reg : BitVec 5) (data : BitVec 16)
  /-- MDIO_C22_WRITE (R302). MDIOCMD Clause 22 write of a PHY register. -/
  | mdioC22Write (phy reg : BitVec 5) (data : BitVec 16)
  /-- MDIO_C45_ADDRESS (R302). MDIOCMD Clause 45 address cycle. -/
  | mdioC45Address (phy dev : BitVec 5) (addr : BitVec 16)
  /-- MDIO_C45_WRITE (R302). MDIOCMD Clause 45 write. -/
  | mdioC45Write (phy dev : BitVec 5) (data : BitVec 16)
  /-- MDIO_C45_READ (R302). MDIOCMD Clause 45 read. -/
  | mdioC45Read (phy dev : BitVec 5) (data : BitVec 16)
  /-- DMA_ENABLE (R331). Writing DMA CFG.EN starts a channel with HEAD reset to HOSTCNT. -/
  | dmaEnable (c : Fin 4) (val : BitVec 32)
  /-- DMA_HOSTCNT (R328). A write to HOSTCNT provides copy descriptors or returns consumed drain entries. -/
  | dmaHostcnt (c : Fin 4) (cnt : BitVec 16) (cells : List (Nat × BitVec 8))
  /-- DMA_DESCRIPTOR (R329). A copy descriptor completes with CODE, DONE and a completion block, or stops the channel. -/
  | dmaDescriptor (c : Fin 4) (hostErr : Bool) (ecc : Ecc)
  /-- DMA_DRAIN_ENTRY (R330). A DRAIN channel reads a committed cask word and writes it as a ring entry. -/
  | dmaDrainEntry (c : Fin 4)
  /-- DMA_DRAIN_REPORT (R330). After 2 us with unreported entries the channel writes the completion block and sets DONE. -/
  | dmaDrainReport (c : Fin 4)
  /-- VACK (R335). A write to EVT.VACK takes vectors out of service and resends those still active. -/
  | vack (w : Fin 2) (mask : BitVec 32)
  /-- MSIX_UNMASK (R335). Clearing an MSI-X mask sends a pending still-active vector or clears its pending bit. -/
  | msixUnmask (v : Fin 64) (addr : BitVec 64) (data : BitVec 32)
  /-- TIME_TICK (R339). Every 2 ns each time base adds its effective increment, applying slews, TB2 correction and PPS output. -/
  | timeTick
  /-- INC_WRITE (R340). A write of INCHI or INCLO sets the frequency increment of TB0 or TB1, clamped. -/
  | incWrite (b : Fin 2) (hi : Bool) (val : BitVec 32)
  /-- ADJ (R341). A write to ADJ starts or replaces a phase slew. -/
  | adj (b : Fin 2) (val : BitVec 32)
  /-- TB_SET (R342). Base command SET loads seconds and nanoseconds. -/
  | tbSet (b : Fin 4)
  /-- TB_STEP (R342). Base command STEP adds or subtracts a value. -/
  | tbStep (b : Fin 4) (neg : Bool)
  /-- ALIGN (R342). Base command ALIGN steps TB2 onto its source. -/
  | align (b : Fin 4)
  /-- CAPTURE (R343). A write to CAPTURE latches all bases and the calendar at one tick. -/
  | capture
  /-- HOLDOVER_ENTRY (R344). After HOLDTO seconds without adjustment a domain enters HOLDOVER at its mean increment. -/
  | holdoverEntry (b : Fin 2)
  /-- TB2CTL_WRITE (R345). A write of TB2CTL sets SLEW, WSEL, AUTOSW and, when permitted, SRC. -/
  | tb2ctlWrite (val : BitVec 32)
  /-- MIRROR_CORRECTION (R347). Every 1 ms die 1's time-base mirror is corrected through the Hinge. -/
  | mirrorCorrection
  /-- REF_LOSS (R348). No 10 MHz edge for 1 us switches the tick to SYSCLK. -/
  | refLoss
  /-- PPS_IN (R351). A PPS_IN edge latches all four bases or is ignored as a glitch. -/
  | ppsIn (rising : Bool)
  /-- CAL_SET (R352). CALCMD SET loads the calendar seconds from CALSET. -/
  | calSet
  /-- SYNC (R352). CALCMD SYNC arranges to load the calendar from a base at its next second boundary. -/
  | sync (src : BitVec 2)
  /-- SYNC_APPLY (R352). At the base's next second boundary the calendar takes its seconds. -/
  | syncApply
  /-- CALENDAR_ALARM (R353). The calendar seconds change to ALARM with ALEN set and set EVT.ALARM or wake the package. -/
  | calendarAlarm
  /-- VBAT_LOW (R352). VBAT below 1.8 V clears VALID and ALEN and restarts the calendar from 0. -/
  | vbatLow
  /-- PCMT (R357). A write to PCMT copies and checks a policy image and puts it in force. -/
  | pcmt (d : Fin 2) (version : BitVec 16)
  /-- WARDEN_POLL (R358). Every 1 ms a Warden reads its die's health and takes PROTECT, POWER and TIMESEL decisions. -/
  | wardenPoll (d : Fin 2)
  /-- WARDEN_METRICS_READ (R359). Once per metrics interval a Warden reads each termination's metrics and issues adjustments or advice. -/
  | wardenMetricsRead (d : Fin 2) (tid : BitVec 18)
  /-- WITHDRAWAL_OVERLOAD_CHECK (R361). 1 s after a tile withdrawal the Warden re-homes groups while LOAD exceeds BUDGET. -/
  | withdrawalOverloadCheck (cl : Fin 32)
  /-- BALANCE (R361). Every BALINT s the Warden moves groups from the most to the least loaded RUN cluster. -/
  | balance (d : Fin 2)
  /-- UP (R362). CLCMD UP brings an OFF or HALT cluster into BRINGUP. -/
  | up (d : Fin 2) (cl : Fin 32)
  /-- RUN (R362). CLCMD RUN promotes a SPARE cluster to RUN. -/
  | run (d : Fin 2) (cl : Fin 32)
  /-- SPARE (R362). CLCMD SPARE turns an empty RUN cluster into a spare. -/
  | spare (d : Fin 2) (cl : Fin 32)
  /-- EVAC (R363). CLCMD EVAC or PROTECT puts a cluster in RECOVER, promotes a spare and moves its groups. -/
  | evac (d : Fin 2) (cl : Fin 32)
  /-- OFF (R362). CLCMD OFF turns a SPARE, HALT or empty RUN cluster off. -/
  | off (d : Fin 2) (cl : Fin 32)
  /-- BRINGUP_COMPLETE (R362). A cluster in BRINGUP moves to TEST once supplies, clocks and memories are initialised. -/
  | bringupComplete (cl : Fin 32)
  /-- SELF_TEST_COMPLETE (R362). A cluster in TEST moves to SPARE, RUN or HALT by its self-test and the spare quota. -/
  | selfTestComplete (cl : Fin 32) (pass : Bool)
  /-- NOROOM_RETRY (R363). Every 1 s the Warden tries again to move groups left on a RECOVER cluster. -/
  | noroomRetry (d : Fin 2)
  /-- MOVE (R365). RHCMD MOVE prepares a re-home of a group to a target cluster. -/
  | move (d : Fin 2) (cl : Fin 32) (tid : BitVec 18)
  /-- REHOME_ABORT (R367). RHCMD ABORT abandons a re-home before its checkpoint. -/
  | rehomeAbort (d : Fin 2) (tid : BitVec 18)
  /-- CHECKPOINT (R365). When the old home's runs of a boundary end it copies the group's contexts to the target's staging area. -/
  | checkpoint (d : Fin 2) (tid : BitVec 18)
  /-- REHOME_COMMIT (R365). On the target's acknowledgement the old home writes the commit records and ownership moves. -/
  | rehomeCommit (d : Fin 2) (tid : BitVec 18)
  /-- PRESS_COMPRESS (R376). The Press takes a COMPRESS job from its job cask and compresses its input. -/
  | pressCompress (d : Fin 2)
  /-- PRESS_DECOMPRESS (R378). The Press takes a DECOMPRESS job from its job cask and decompresses its input. -/
  | pressDecompress (d : Fin 2)
  /-- BADJOB (R373). A job packet of the wrong length or with an invalid OP, WRAP or LEVEL is discarded unread. -/
  | badjob (d : Fin 2)
  /-- PRESS_RESULT (R380). At the end of a job the Press writes its result block behind FENCE P REL and sets events. -/
  | pressResult (d : Fin 2)
  /-- PROBE_ARM (R388). PCFG.EN = 1 checks and arms a trace probe, opening segment 0. -/
  | probeArm (d : Fin 2) (p : Fin 16)
  /-- PROBE_DISARM (R388). PCFG.EN = 0 closes an open segment with FORCED = 1. -/
  | probeDisarm (d : Fin 2) (p : Fin 16)
  /-- SEGMENT_OPEN (R385). The next segment opens within 1 us of a close, or a paused probe resumes. -/
  | segmentOpen (d : Fin 2) (p : Fin 16)
  /-- TRACE_TICK (R383). A tick entry is written after 1 s in an open segment without an entry. -/
  | traceTick (d : Fin 2) (p : Fin 16)
  /-- RDIDX_WRITE (R386). A write to RDIDX releases segments and resumes a paused probe. -/
  | rdidxWrite (d : Fin 2) (p : Fin 16) (val : BitVec 32)
  /-- SKEWCMD (R390). A write to SKEWCMD starts a cross-port skew measurement against a reference port. -/
  | skewcmd (val : BitVec 32)
  /-- SKEW_COMPLETE (R390). After 64 frames the unit posts RESIDn and SKEW_STATUS. -/
  | skewComplete
  /-- BOOT_ROM (R395). After each package reset the boot ROM obtains, verifies and starts the Warden image and sets BOOTED. -/
  | bootRom (primary secondary : Option (List (BitVec 8))) (otpBad : Bool)
  /-- LOAD (R397). BOOTCMD LOAD verifies the host-loaded Warden image and boots it. -/
  | load
  /-- PROGKEY (R392). OTP PROGKEY programs a key slot hash and permissions. -/
  | progkey
  /-- REVOKE (R392). OTP REVOKE sets a slot's revoke bit. -/
  | revoke
  /-- ADVANCE (R392). OTP ADVANCE raises a rollback counter. -/
  | advance
  /-- SUBSYS (R392). OTP SUBSYS programs the PCIe Subsystem ID. -/
  | subsys
  /-- GENID (R392). OTP GENID draws IDK from the TRNG and programs IDPUB. -/
  | genid
  /-- WRCERT (R392). OTP WRCERT programs 32 bytes of the certificate. -/
  | wrcert
  /-- DBGOFF (R392). OTP DBGOFF permanently disables debug unlock. -/
  | dbgoff
  /-- MREXT (R399). MREXT extends a measurement register MR2-MR7. -/
  | mrext (r : BitVec 3)
  /-- QCMD (R400). QCMD starts a signed quote of the selected measurement registers. -/
  | qcmd
  /-- QUOTE_COMPLETE (R400). SEC writes the signed quote behind FENCE P REL, posts QSTATUS and sets EVT.QUOTE. -/
  | quoteComplete
  /-- RNGCMD (R402). RNGCMD places 256 new random bits in RNG0-RNG7. -/
  | rngcmd
  /-- TRNG_HEALTH_FAIL (R402). A failed TRNG health test sets EVT.TRNG and refuses random-dependent commands. -/
  | trngHealthFail
  /-- TRNG_RETEST (R402). Every 10 ms the TRNG repeats its start-up test and clears a failure on a pass. -/
  | trngRetest (pass : Bool)
  /-- CHALLENGE (R403). DBGCMD CHALLENGE places a TRNG nonce in DBGCHAL. -/
  | challenge
  /-- UNLOCK (R403). DBGCMD UNLOCK checks the signed challenge and opens the requested debug scopes. -/
  | unlock
  /-- LOCK (R403). DBGCMD LOCK closes every debug scope and resumes halted tiles. -/
  | lock
  /-- POWER_ON_RESET (R407). A supply ramp, long PGOOD loss or thermal trip resets everything and zeroes all SRAM. -/
  | powerOnReset
  /-- COLD_RESET (R407). PORST_N low for 10 us or more resets all domains while DRAM enters self-refresh. -/
  | coldReset
  /-- PORST_N_RISE (R410). The rise of PORST_N latches HOSTSEL and starts the boot timeline, or ends a held reset. -/
  | porstNRise (hostsel : BitVec 2)
  /-- WARM_RESET (R408). GLB.RESET with KEY 0xA5 and WARM resets the warm domains while keeping Cellar, DRAM and time. -/
  | warmReset
  /-- CLUSTER_RESET (R409). GLB.RESET with CLRST resets one cluster, freeing its slots and incrementing its EPOCH. -/
  | clusterReset (cl : Fin 32)
  /-- WDT_KICK (R412). A write of 0x5A to WDT_KICK restarts the watchdog count. -/
  | wdtKick (val : BitVec 8)
  /-- WDT_CFG_WRITE (R412). A write of WDT_CFG enables, stops or re-times the watchdog. -/
  | wdtCfgWrite (val : BitVec 32)
  /-- WATCHDOG_WARNING (R412). At TIMEOUT / 2 the watchdog sets GLB.EVT.WDWARN. -/
  | watchdogWarning
  /-- WATCHDOG_RESET (R412). At TIMEOUT the watchdog starts a watchdog reset. -/
  | watchdogReset
  /-- PGOOD_LOW (R406). A PGOOD input going low sets class 238 and, after 50 us, starts a power-on reset. -/
  | pgoodLow (rail : Fin 3) (us : Nat)
  /-- REGULATOR_OUT_OF_RANGE (R406). An island regulator more than 30 mV off target for 10 us sets class 238. -/
  | regulatorOutOfRange (island : BitVec 6)
  /-- DDR_ENABLE (R418). Writing DDRc.CFG.EN = 1 starts training of a DDR5 channel, with or without resume. -/
  | ddrEnable (c : Fin 4) (val : BitVec 32)
  /-- DDR_TRAINING_COMPLETE (R418). Training ends within 50 ms and posts TRAINED or a failure code. -/
  | ddrTrainingComplete (c : Fin 4) (ok : Bool)
  /-- PCIE_LINK_UP (R320). The PCIe link completes training and enters L0, setting HIF.STATUS.SPEED and WIDTH. -/
  | pcieLinkUp (speed width : BitVec 4)
  /-- FS_MISSING (R289). A slave port's predicted FS window closes with no FS received, counting FSERR and possibly entering loss of frame. -/
  | fsMissing (p : Fin 48)
  /-- OTP_COMMAND_COMPLETE (R392). An OTP command finishes programming up to 2 ms per field (40 ms for GENID) and posts OTP_STATUS and EVT.OTP. -/
  | otpCommandComplete (verified : Bool)
  /-- POLICY_IN_FORCE (R357). Within 2 ms of PCMT the Warden finishes copying and checking the policy image, posts PSTATUS and puts the image in force or rejects it. -/
  | policyInForce (d : Fin 2)
  /-- PGOOD_RISE (R434). A PGOOD input returns high, ending the power-on reset that a low PGOOD held. -/
  | pgoodRise (rail : Fin 3)
  deriving DecidableEq, Repr

end Sys2Proof
end

