-- ==== Sys2Proof/Word.lean ====
section
/-!
DEFINITION. The words of the part: bytes, 32-bit registers and the 64-bit protected word (R17, R23, R106).
-/

namespace Sys2Proof

abbrev Byte := BitVec 8
abbrev Word := BitVec 32
abbrev DWord := BitVec 64

end Sys2Proof
end

