-- ==== Sys2Proof/Decode.lean ====
section
/-!
DEFINITION. Reading a command from bits. The table gives no row bits: every command is named with its operands. The 32-bit
words of the core's instructions stand here, as the instruction set encodes them (R106 to R129): `coreWord` writes the word
of an instruction, `decodeCore` reads it.
-/

namespace Sys2Proof

/-- The command that a word spells by the table's bits: none, as no row has any (log 1). -/
def decodeTableWord (_nbits _w : Nat) : Option Instr := none

/-! ## The word of an instruction (R106, R108, R110) -/

/-- OP and operands of a word: bits [26:21] and [20:0]. -/
def opWord (op operands : Nat) : Nat := op * 2 ^ 21 + operands

/-- RRR: FUNC, RD, RS, RT. -/
def fmtRRR (func : Nat) (rd rs rt : Fin 32) : Nat :=
  opWord 0x01 (func * 2 ^ 15 + rd.val * 2 ^ 10 + rs.val * 2 ^ 5 + rt.val)

/-- RRI: RD, RS, IMM11. -/
def fmtRRI (op : Nat) (rd rs : Fin 32) (imm : BitVec 11) : Nat := opWord op (rd.val * 2 ^ 16 + rs.val * 2 ^ 11 + imm.toNat)

/-- MAC: ACCD, OPK, F, MODE, RA, BSEL (R114). -/
def fmtMac (op opk : Nat) (accd : Fin 8) (f m14 m13 : Bool) (ra : Fin 32) (bsel : BitVec 6) : Nat :=
  opWord op (accd.val * 2 ^ 18 + opk * 2 ^ 16 + f.toNat * 2 ^ 15 + m14.toNat * 2 ^ 14 + m13.toNat * 2 ^ 13 +
    ra.val * 2 ^ 6 + bsel.toNat)

/-- ACCOP: FUNC, ACCD, ACCS, AMT (R116). -/
def fmtAcc (func : Nat) (accd accs : Fin 8) (amt : BitVec 6) : Nat :=
  opWord 0x16 (func * 2 ^ 18 + accd.val * 2 ^ 15 + accs.val * 2 ^ 12 + amt.toNat * 2 ^ 6)

/-- MEM: RD or RS, PN, MODE, OFF (R117). -/
def fmtMem (op : Nat) (r : Fin 32) (pn : Fin 16) (mode : BitVec 2) (off : BitVec 10) : Nat :=
  opWord op (r.val * 2 ^ 16 + pn.val * 2 ^ 12 + mode.toNat * 2 ^ 10 + off.toNat)

/-- The head of a core instruction, with bits [26:0] of its word; none for a command that is no core instruction. -/
def coreFields : Instr → Option (Head × Nat)
  | .add h rd rs rt => some (h, fmtRRR 0 rd rs rt)
  | .sub h rd rs rt => some (h, fmtRRR 1 rd rs rt)
  | .adds h rd rs rt => some (h, fmtRRR 2 rd rs rt)
  | .subs h rd rs rt => some (h, fmtRRR 3 rd rs rt)
  | .add2 h rd rs rt => some (h, fmtRRR 4 rd rs rt)
  | .sub2 h rd rs rt => some (h, fmtRRR 5 rd rs rt)
  | .add2s h rd rs rt => some (h, fmtRRR 6 rd rs rt)
  | .sub2s h rd rs rt => some (h, fmtRRR 7 rd rs rt)
  | .and h rd rs rt => some (h, fmtRRR 8 rd rs rt)
  | .or h rd rs rt => some (h, fmtRRR 9 rd rs rt)
  | .xor h rd rs rt => some (h, fmtRRR 10 rd rs rt)
  | .andn h rd rs rt => some (h, fmtRRR 11 rd rs rt)
  | .shl h rd rs rt => some (h, fmtRRR 12 rd rs rt)
  | .shr h rd rs rt => some (h, fmtRRR 13 rd rs rt)
  | .sra h rd rs rt => some (h, fmtRRR 14 rd rs rt)
  | .shls h rd rs rt => some (h, fmtRRR 15 rd rs rt)
  | .min h rd rs rt => some (h, fmtRRR 16 rd rs rt)
  | .max h rd rs rt => some (h, fmtRRR 17 rd rs rt)
  | .minu h rd rs rt => some (h, fmtRRR 18 rd rs rt)
  | .maxu h rd rs rt => some (h, fmtRRR 19 rd rs rt)
  | .abs h rd rs => some (h, fmtRRR 20 rd rs 0)
  | .abss h rd rs => some (h, fmtRRR 21 rd rs 0)
  | .neg h rd rs => some (h, fmtRRR 22 rd rs 0)
  | .negs h rd rs => some (h, fmtRRR 23 rd rs 0)
  | .mov h rd rs => some (h, fmtRRR 24 rd rs 0)
  | .clz h rd rs => some (h, fmtRRR 25 rd rs 0)
  | .norm h rd rs => some (h, fmtRRR 26 rd rs 0)
  | .norm16 h rd rs => some (h, fmtRRR 27 rd rs 0)
  | .packll h rd rs rt => some (h, fmtRRR 28 rd rs rt)
  | .packhh h rd rs rt => some (h, fmtRRR 29 rd rs rt)
  | .sxh h rd rs => some (h, fmtRRR 30 rd rs 0)
  | .zxh h rd rs => some (h, fmtRRR 31 rd rs 0)
  | .sat16 h rd rs => some (h, fmtRRR 32 rd rs 0)
  | .addi h rd rs imm => some (h, fmtRRI 0x02 rd rs imm)
  | .andi h rd rs imm => some (h, fmtRRI 0x03 rd rs imm)
  | .ori h rd rs imm => some (h, fmtRRI 0x04 rd rs imm)
  | .shi h func rd rs amt => some (h, opWord 0x05 (func.toNat * 2 ^ 19 + rd.val * 2 ^ 10 + rs.val * 2 ^ 5 + amt.toNat))
  | .movi h rd imm => some (h, opWord 0x06 (rd.val * 2 ^ 16 + imm.toNat))
  | .movih h rd imm => some (h, opWord 0x07 (rd.val * 2 ^ 16 + imm.toNat))
  | .cmp h cond qd rs rt => some (h, opWord 0x08 (cond.toNat * 2 ^ 17 + qd.val * 2 ^ 14 + rs.val * 2 ^ 5 + rt.val))
  | .cmpi h cond qd rs imm => some (h, opWord 0x09 (cond.toNat * 2 ^ 17 + qd.val * 2 ^ 14 + rs.val * 2 ^ 9 + imm.toNat))
  | .qop h func qd qa na qb nb => some (h, opWord 0x0A (func.toNat * 2 ^ 19 + qd.val * 2 ^ 16 + qa.val * 2 ^ 13 +
      na.toNat * 2 ^ 12 + qb.val * 2 ^ 9 + nb.toNat * 2 ^ 8))
  | .rnd h rd rs amt rndf => some (h, opWord 0x0B (rd.val * 2 ^ 16 + rs.val * 2 ^ 11 + amt.toNat * 2 ^ 6 + rndf.toNat * 2 ^ 4))
  | .divs h rd rs => some (h, opWord 0x0C (rd.val * 2 ^ 16 + rs.val * 2 ^ 11))
  | .mpy16 h accd f m14 m13 ra bsel => some (h, fmtMac 0x10 0 accd f m14 m13 ra bsel)
  | .mac16 h accd f m14 m13 ra bsel => some (h, fmtMac 0x10 1 accd f m14 m13 ra bsel)
  | .msu16 h accd f m14 m13 ra bsel => some (h, fmtMac 0x10 2 accd f m14 m13 ra bsel)
  | .mpy2 h accd f m14 m13 ra bsel => some (h, fmtMac 0x11 0 accd f m14 m13 ra bsel)
  | .mac2 h accd f m14 m13 ra bsel => some (h, fmtMac 0x11 1 accd f m14 m13 ra bsel)
  | .msu2 h accd f m14 m13 ra bsel => some (h, fmtMac 0x11 2 accd f m14 m13 ra bsel)
  | .mpyp h accd f m14 m13 ra bsel => some (h, fmtMac 0x12 0 accd f m14 m13 ra bsel)
  | .macp h accd f m14 m13 ra bsel => some (h, fmtMac 0x12 1 accd f m14 m13 ra bsel)
  | .msup h accd f m14 m13 ra bsel => some (h, fmtMac 0x12 2 accd f m14 m13 ra bsel)
  | .mpyw h accd f m14 m13 ra bsel => some (h, fmtMac 0x13 0 accd f m14 m13 ra bsel)
  | .macw h accd f m14 m13 ra bsel => some (h, fmtMac 0x13 1 accd f m14 m13 ra bsel)
  | .msuw h accd f m14 m13 ra bsel => some (h, fmtMac 0x13 2 accd f m14 m13 ra bsel)
  | .mpyl h accd f m14 m13 ra bsel => some (h, fmtMac 0x14 0 accd f m14 m13 ra bsel)
  | .macl h accd f m14 m13 ra bsel => some (h, fmtMac 0x14 1 accd f m14 m13 ra bsel)
  | .msul h accd f m14 m13 ra bsel => some (h, fmtMac 0x14 2 accd f m14 m13 ra bsel)
  | .ext h rd accs tgt shift rndf => some (h, opWord 0x15 (rd.val * 2 ^ 16 + accs.val * 2 ^ 13 + tgt.toNat * 2 ^ 11 +
      shift.toNat * 2 ^ 6 + rndf.toNat * 2 ^ 4))
  | .aclr h accd => some (h, fmtAcc 0 accd 0 0)
  | .amov h accd accs => some (h, fmtAcc 1 accd accs 0)
  | .aadd h accd accs => some (h, fmtAcc 2 accd accs 0)
  | .asub h accd accs => some (h, fmtAcc 3 accd accs 0)
  | .aneg h accd accs => some (h, fmtAcc 4 accd accs 0)
  | .aabs h accd accs => some (h, fmtAcc 5 accd accs 0)
  | .ashl h accd amt => some (h, fmtAcc 6 accd 0 amt)
  | .asra h accd amt => some (h, fmtAcc 7 accd 0 amt)
  | .nop h => some (h, opWord 0x20 0)
  | .ldB h rd pn mode off _ => some (h, fmtMem 0x21 rd pn mode off)
  | .ldBu h rd pn mode off _ => some (h, fmtMem 0x22 rd pn mode off)
  | .ldH h rd pn mode off _ => some (h, fmtMem 0x23 rd pn mode off)
  | .ldHu h rd pn mode off _ => some (h, fmtMem 0x24 rd pn mode off)
  | .ldW h rd pn mode off _ => some (h, fmtMem 0x25 rd pn mode off)
  | .ldD h rd pn mode off _ => some (h, fmtMem 0x26 rd pn mode off)
  | .stB h rs pn mode off => some (h, fmtMem 0x27 rs pn mode off)
  | .stH h rs pn mode off => some (h, fmtMem 0x28 rs pn mode off)
  | .stW h rs pn mode off => some (h, fmtMem 0x29 rs pn mode off)
  | .stD h rs pn mode off => some (h, fmtMem 0x2A rs pn mode off)
  | .movx h dst src => some (h, opWord 0x2B (dst.toNat * 2 ^ 8 + src.toNat))
  | .pmovi h pn imm => some (h, opWord 0x2C (pn.val * 2 ^ 17 + imm.toNat))
  | .padd h pn usem imm => some (h, opWord 0x2D (pn.val * 2 ^ 17 + usem.toNat * 2 ^ 16 + imm.toNat))
  | .tbrd h rd => some (h, opWord 0x2E (rd.val * 2 ^ 16))
  | .br h off => some (h, opWord 0x30 off.toNat)
  | .bl h off => some (h, opWord 0x31 off.toNat)
  | .jr h rs => some (h, opWord 0x32 (rs.val * 2 ^ 16))
  | .loop h rs body => some (h, opWord 0x33 (rs.val * 2 ^ 16 + body.toNat))
  | .loopi h body count => some (h, opWord 0x3A (body.toNat * 2 ^ 16 + count.toNat))
  | .ret h => some (h, opWord 0x34 0)
  | .fence h scope kind => some (h, opWord 0x35 (scope.toNat * 2 ^ 2 + kind.toNat))
  | .ckw h rs rc qd => some (h, opWord 0x36 (rs.val * 2 ^ 16 + rc.val * 2 ^ 11 + qd.val * 2 ^ 8))
  | .ckc h rc => some (h, opWord 0x37 (rc.val * 2 ^ 11))
  | .ckcRel h rc => some (h, opWord 0x37 (rc.val * 2 ^ 11 + 2 ^ 10))
  | .cka h rc => some (h, opWord 0x38 (rc.val * 2 ^ 11))
  | .ckr h rd rc rs _ => some (h, opWord 0x39 (rd.val * 2 ^ 16 + rc.val * 2 ^ 11 + rs.val * 2 ^ 6))
  | .wpost h rs rt qd => some (h, opWord 0x3C (rs.val * 2 ^ 16 + rt.val * 2 ^ 11 + qd.val * 2 ^ 8))
  | .wdelay h rs rt qd => some (h, opWord 0x3D (rs.val * 2 ^ 16 + rt.val * 2 ^ 11 + qd.val * 2 ^ 8))
  | _ => none

/-- The word of a core instruction: E, the predicate and its sense above its fields (R106). -/
def coreWord (i : Instr) : Option Word :=
  (coreFields i).map (fun x => BitVec.ofNat 32 (x.1.e.toNat * 2 ^ 31 + x.1.q.val * 2 ^ 28 + x.1.n.toNat * 2 ^ 27 + x.2))

/-! ## The instruction of a word -/

/-- Bits hi to lo of a word. -/
def field (w hi lo : Nat) : Nat := w / 2 ^ lo % 2 ^ (hi + 1 - lo)

def reg5 (w lo : Nat) : Fin 32 := ⟨w / 2 ^ lo % 32, Nat.mod_lt _ (by decide)⟩
def reg4 (w lo : Nat) : Fin 16 := ⟨w / 2 ^ lo % 16, Nat.mod_lt _ (by decide)⟩
def reg3 (w lo : Nat) : Fin 8 := ⟨w / 2 ^ lo % 8, Nat.mod_lt _ (by decide)⟩
def bitAt (w k : Nat) : Bool := w / 2 ^ k % 2 == 1

/-- The instruction where the bits that its format shows as 0 are 0, else none (R107). -/
def whenZero (z : Nat) (i : Instr) : Option Instr := if z = 0 then some i else none

/-- The ALU group by FUNC; a unary operation has RT 0 (R111). -/
def decodeAlu (h : Head) (func : Nat) (rd rs rt : Fin 32) : Option Instr :=
  let unary (i : Instr) : Option Instr := whenZero rt.val i
  match func with
  | 0x00 => some (.add h rd rs rt)
  | 0x01 => some (.sub h rd rs rt)
  | 0x02 => some (.adds h rd rs rt)
  | 0x03 => some (.subs h rd rs rt)
  | 0x04 => some (.add2 h rd rs rt)
  | 0x05 => some (.sub2 h rd rs rt)
  | 0x06 => some (.add2s h rd rs rt)
  | 0x07 => some (.sub2s h rd rs rt)
  | 0x08 => some (.and h rd rs rt)
  | 0x09 => some (.or h rd rs rt)
  | 0x0A => some (.xor h rd rs rt)
  | 0x0B => some (.andn h rd rs rt)
  | 0x0C => some (.shl h rd rs rt)
  | 0x0D => some (.shr h rd rs rt)
  | 0x0E => some (.sra h rd rs rt)
  | 0x0F => some (.shls h rd rs rt)
  | 0x10 => some (.min h rd rs rt)
  | 0x11 => some (.max h rd rs rt)
  | 0x12 => some (.minu h rd rs rt)
  | 0x13 => some (.maxu h rd rs rt)
  | 0x14 => unary (.abs h rd rs)
  | 0x15 => unary (.abss h rd rs)
  | 0x16 => unary (.neg h rd rs)
  | 0x17 => unary (.negs h rd rs)
  | 0x18 => unary (.mov h rd rs)
  | 0x19 => unary (.clz h rd rs)
  | 0x1A => unary (.norm h rd rs)
  | 0x1B => unary (.norm16 h rd rs)
  | 0x1C => some (.packll h rd rs rt)
  | 0x1D => some (.packhh h rd rs rt)
  | 0x1E => unary (.sxh h rd rs)
  | 0x1F => unary (.zxh h rd rs)
  | 0x20 => unary (.sat16 h rd rs)
  | _ => none

/-- The MAC format by OP and OPK (R114). -/
def decodeMac (h : Head) (op w : Nat) : Option Instr :=
  let accd := reg3 w 18
  let f := bitAt w 15
  let m14 := bitAt w 14
  let m13 := bitAt w 13
  let ra := reg5 w 6
  let bsel := BitVec.ofNat 6 w
  if field w 12 11 ≠ 0 then none
  else match op, field w 17 16 with
  | 0x10, 0 => some (.mpy16 h accd f m14 m13 ra bsel)
  | 0x10, 1 => some (.mac16 h accd f m14 m13 ra bsel)
  | 0x10, 2 => some (.msu16 h accd f m14 m13 ra bsel)
  | 0x11, 0 => some (.mpy2 h accd f m14 m13 ra bsel)
  | 0x11, 1 => some (.mac2 h accd f m14 m13 ra bsel)
  | 0x11, 2 => some (.msu2 h accd f m14 m13 ra bsel)
  | 0x12, 0 => some (.mpyp h accd f m14 m13 ra bsel)
  | 0x12, 1 => some (.macp h accd f m14 m13 ra bsel)
  | 0x12, 2 => some (.msup h accd f m14 m13 ra bsel)
  | 0x13, 0 => some (.mpyw h accd f m14 m13 ra bsel)
  | 0x13, 1 => some (.macw h accd f m14 m13 ra bsel)
  | 0x13, 2 => some (.msuw h accd f m14 m13 ra bsel)
  | 0x14, 0 => some (.mpyl h accd f m14 m13 ra bsel)
  | 0x14, 1 => some (.macl h accd f m14 m13 ra bsel)
  | 0x14, 2 => some (.msul h accd f m14 m13 ra bsel)
  | _, _ => none

/-- ACCOP by FUNC (R116): AMT and ACCS are 0 where the function does not use them. -/
def decodeAcc (h : Head) (w : Nat) : Option Instr :=
  let accd := reg3 w 15
  let accs := reg3 w 12
  let amt := field w 11 6
  if field w 5 0 ≠ 0 then none
  else match field w 20 18 with
  | 0 => whenZero (accs.val + amt) (.aclr h accd)
  | 1 => whenZero amt (.amov h accd accs)
  | 2 => whenZero amt (.aadd h accd accs)
  | 3 => whenZero amt (.asub h accd accs)
  | 4 => whenZero amt (.aneg h accd accs)
  | 5 => whenZero amt (.aabs h accd accs)
  | 6 => whenZero accs.val (.ashl h accd (BitVec.ofNat 6 amt))
  | _ => whenZero accs.val (.asra h accd (BitVec.ofNat 6 amt))

/-- Loads and stores by OP (R117). -/
def decodeMem (h : Head) (ecc : Ecc) (op w : Nat) : Option Instr :=
  let r := reg5 w 16
  let pn := reg4 w 12
  let mode := BitVec.ofNat 2 (field w 11 10)
  let off := BitVec.ofNat 10 w
  match op with
  | 0x21 => some (.ldB h r pn mode off ecc)
  | 0x22 => some (.ldBu h r pn mode off ecc)
  | 0x23 => some (.ldH h r pn mode off ecc)
  | 0x24 => some (.ldHu h r pn mode off ecc)
  | 0x25 => some (.ldW h r pn mode off ecc)
  | 0x26 => some (.ldD h r pn mode off ecc)
  | 0x27 => some (.stB h r pn mode off)
  | 0x28 => some (.stH h r pn mode off)
  | 0x29 => some (.stW h r pn mode off)
  | 0x2A => some (.stD h r pn mode off)
  | _ => none

/-- Opcodes of class M beside the ALU and MAC groups (R110 to R113, R115). -/
def decodeM (h : Head) (op w : Nat) : Option Instr :=
  match op with
  | 0x02 => some (.addi h (reg5 w 16) (reg5 w 11) (BitVec.ofNat 11 w))
  | 0x03 => some (.andi h (reg5 w 16) (reg5 w 11) (BitVec.ofNat 11 w))
  | 0x04 => some (.ori h (reg5 w 16) (reg5 w 11) (BitVec.ofNat 11 w))
  | 0x05 => whenZero (field w 18 15) (.shi h (BitVec.ofNat 2 (field w 20 19)) (reg5 w 10) (reg5 w 5) (BitVec.ofNat 5 w))
  | 0x06 => some (.movi h (reg5 w 16) (BitVec.ofNat 16 w))
  | 0x07 => some (.movih h (reg5 w 16) (BitVec.ofNat 16 w))
  | 0x08 => whenZero (field w 13 10) (.cmp h (BitVec.ofNat 4 (field w 20 17)) (reg3 w 14) (reg5 w 5) (reg5 w 0))
  | 0x09 => some (.cmpi h (BitVec.ofNat 4 (field w 20 17)) (reg3 w 14) (reg5 w 9) (BitVec.ofNat 9 w))
  | 0x0A => whenZero (field w 7 0)
      (.qop h (BitVec.ofNat 2 (field w 20 19)) (reg3 w 16) (reg3 w 13) (bitAt w 12) (reg3 w 9) (bitAt w 8))
  | 0x0B => whenZero (field w 3 0)
      (.rnd h (reg5 w 16) (reg5 w 11) (BitVec.ofNat 5 (field w 10 6)) (BitVec.ofNat 2 (field w 5 4)))
  | 0x0C => whenZero (field w 10 0) (.divs h (reg5 w 16) (reg5 w 11))
  | 0x15 => whenZero (field w 3 0) (.ext h (reg5 w 16) (reg3 w 13) (BitVec.ofNat 2 (field w 12 11))
      (BitVec.ofNat 5 (field w 10 6)) (BitVec.ofNat 2 (field w 5 4)))
  | 0x16 => decodeAcc h w
  | _ => none

/-- Opcodes of class A beside loads and stores (R110, R119 to R129). -/
def decodeA (h : Head) (ecc : Ecc) (op w : Nat) : Option Instr :=
  match op with
  | 0x20 => whenZero (field w 20 0) (.nop h)
  | 0x2B => whenZero (field w 20 16) (.movx h (BitVec.ofNat 8 (field w 15 8)) (BitVec.ofNat 8 w))
  | 0x2C => some (.pmovi h (reg4 w 17) (BitVec.ofNat 17 w))
  | 0x2D => some (.padd h (reg4 w 17) (bitAt w 16) (BitVec.ofNat 16 w))
  | 0x2E => whenZero (field w 15 0) (.tbrd h (reg5 w 16))
  | 0x30 => some (.br h (BitVec.ofNat 21 w))
  | 0x31 => some (.bl h (BitVec.ofNat 21 w))
  | 0x32 => whenZero (field w 15 0) (.jr h (reg5 w 16))
  | 0x33 => some (.loop h (reg5 w 16) (BitVec.ofNat 16 w))
  | 0x34 => whenZero (field w 20 0) (.ret h)
  | 0x35 => whenZero (field w 20 5) (.fence h (BitVec.ofNat 3 (field w 4 2)) (BitVec.ofNat 2 w))
  | 0x36 => whenZero (field w 7 0) (.ckw h (reg5 w 16) (reg5 w 11) (reg3 w 8))
  | 0x37 => whenZero (field w 20 16 + field w 9 0) (if bitAt w 10 then .ckcRel h (reg5 w 11) else .ckc h (reg5 w 11))
  | 0x38 => whenZero (field w 20 16 + field w 10 0) (.cka h (reg5 w 11))
  | 0x39 => whenZero (field w 5 0) (.ckr h (reg5 w 16) (reg5 w 11) (reg5 w 6) ecc)
  | 0x3A => some (.loopi h (BitVec.ofNat 6 (field w 21 16)) (BitVec.ofNat 16 w))
  | 0x3B => some (.loopi h (BitVec.ofNat 6 (field w 21 16)) (BitVec.ofNat 16 w))
  | 0x3C => whenZero (field w 7 0) (.wpost h (reg5 w 16) (reg5 w 11) (reg3 w 8))
  | 0x3D => whenZero (field w 7 0) (.wdelay h (reg5 w 16) (reg5 w 11) (reg3 w 8))
  | _ => none

/-- The core instruction of a word, at a tile, with what SECDED finds where it reads: none where R107 calls the opcode, the
function or a bit shown as 0 illegal. -/
def decodeCore (cl : Fin 32) (t : Fin 12) (fetch cs merge ecc : Ecc) (word : Word) : Option Instr :=
  let w := word.toNat
  let h : Head := ⟨cl, t, bitAt w 31, reg3 w 28, bitAt w 27, false, fetch, cs, merge⟩
  let op := field w 26 21
  if op = 0x01 then decodeAlu h (field w 20 15) (reg5 w 10) (reg5 w 5) (reg5 w 0)
  else if 0x10 ≤ op ∧ op < 0x15 then decodeMac h op w
  else if op < 0x20 then decodeM h op w
  else if 0x21 ≤ op ∧ op < 0x2B then decodeMem h ecc op w
  else decodeA h ecc op w

/-- The word stands for the instruction: it is its encoding, or, for one marked illegal, no instruction has the word and
its E, Q and N are the word's (R106, R107). -/
def wordMatches (i : Instr) (w : Word) : Bool :=
  match coreFields i with
  | none => false
  | some x =>
    if x.1.ill then
      (decodeCore x.1.cl x.1.t .ok .ok .ok .ok w).isNone && w.toNat / 2 ^ 27 == x.1.e.toNat * 16 + x.1.q.val * 2 + x.1.n.toNat
    else coreWord i == some w

end Sys2Proof
end

