-- ==== Sys2Proof/Machine/Bits.lean ====
section
/-!
DEFINITION. Bit fields of a 32-bit register, byte order, and the exact-integer helpers that arithmetic uses.
-/

namespace Sys2Proof.Machine

/-- A field of a register: its highest and lowest bit. -/
structure Fld where
  hi : Nat
  lo : Nat
  deriving DecidableEq, Repr

/-- Bits hi to lo of a number. -/
def bits (w hi lo : Nat) : Nat := (w >>> lo) % 2 ^ (hi + 1 - lo)

/-- Bit n of a number. -/
def bit (w n : Nat) : Bool := w.testBit n

def b2n (b : Bool) : Nat := if b then 1 else 0

/-- The mask of a field. -/
def fldMask (f : Fld) : Word := BitVec.ofNat 32 ((2 ^ (f.hi + 1 - f.lo) - 1) <<< f.lo)

/-- The value of a field. -/
def fget (f : Fld) (w : Word) : Nat := bits w.toNat f.hi f.lo

/-- The register with a field set to a value, taken modulo its width. -/
def fset (f : Fld) (w : Word) (v : Nat) : Word :=
  (w &&& ~~~(fldMask f)) ||| (BitVec.ofNat 32 (v <<< f.lo) &&& fldMask f)

/-- A number's value as two's complement of a width. -/
def toSigned (width : Nat) (v : Nat) : Int :=
  if v % 2 ^ width < 2 ^ (width - 1) then ((v % 2 ^ width : Nat) : Int) else ((v % 2 ^ width : Nat) : Int) - (2 ^ width : Nat)

/-- An integer's two's complement image at a width. -/
def ofSigned (width : Nat) (v : Int) : Nat := (v % ((2 ^ width : Nat) : Int)).toNat

/-- An integer clamped to a range. -/
def clampInt (lo hi v : Int) : Int := if v < lo then lo else if hi < v then hi else v

/-- Little-endian bytes to a number (R47, R106). -/
def leNat : List Byte → Nat
  | [] => 0
  | b :: bs => b.toNat + 256 * leNat bs

/-- The n little-endian bytes of a number. -/
def leBytes : Nat → Nat → List Byte
  | 0, _ => []
  | n + 1, v => BitVec.ofNat 8 v :: leBytes n (v / 256)

/-- Big-endian bytes to a number (network order). -/
def beNat (bs : List Byte) : Nat := bs.foldl (fun a b => a * 256 + b.toNat) 0

/-- The n big-endian bytes of a number. -/
def beBytes (n v : Nat) : List Byte := (leBytes n v).reverse

/-- n bytes of a list from an offset. -/
def slice (bs : List Byte) (o n : Nat) : List Byte := (bs.drop o).take n

/-- n big-endian bytes of a list from an offset, as a number. -/
def beAt (bs : List Byte) (o n : Nat) : Nat := beNat (slice bs o n)

/-- n little-endian bytes of a list from an offset, as a number. -/
def leAt (bs : List Byte) (o n : Nat) : Nat := leNat (slice bs o n)

/-- A list with the bytes from an offset replaced. -/
def splice (bs : List Byte) (o : Nat) (v : List Byte) : List Byte :=
  bs.take o ++ v ++ bs.drop (o + v.length)

/-- A value rounded up to a multiple. -/
def alignUp (m v : Nat) : Nat := (v + (m - 1)) / m * m

end Sys2Proof.Machine
end

