-- ==== Sys2Proof/Machine/Flags.lean ====
section
/-!
DEFINITION. The arithmetic of the core as exact integers: saturation, rounding, extraction and the sticky flags AV and
SV (R95 to R97, R111 to R116).
-/

namespace Sys2Proof.Machine

/-- Signed saturation to a width: the result, and whether it saturated (R96). -/
def satTo (width : Nat) (v : Int) : Int × Bool :=
  let r := clampInt (-(2 ^ (width - 1) : Nat)) ((2 ^ (width - 1) : Nat) - 1) v
  (r, r != v)

/-- v ÷ 2^k rounded by a mode: 1 truncate, 2 convergent, 3 half up (R97). -/
def roundShift (mode : Nat) (v : Int) (k : Nat) : Int :=
  let m : Int := ((2 ^ k : Nat) : Int)
  let q := v / m
  let rem := v % m
  if mode = 1 then q
  else if mode = 2 then
    if m < 2 * rem then q + 1 else if 2 * rem = m ∧ q % 2 ≠ 0 then q + 1 else q
  else if m ≤ 2 * rem ∧ rem ≠ 0 then q + 1 else q

/-- The mode of a round field under STAT (R97). -/
def roundMode (stat : Word) (rndf : BitVec 2) : Nat := if rndf = 0 then bits stat.toNat 27 26 else rndf.toNat

def word (v : Int) : Word := BitVec.ofInt 32 v

/-- A 32-bit result saturated, with SV. -/
def sat32 (v : Int) : Word × Bool := (word (satTo 32 v).1, (satTo 32 v).2)

/-- The halves of a register. -/
def lo16 (w : Word) : BitVec 16 := w.setWidth 16
def hi16 (w : Word) : BitVec 16 := w.extractLsb' 16 16

def halves (h l : BitVec 16) : Word := h ++ l

/-- Both halves combined, saturated to 16 bits where `s`. -/
def dual (s : Bool) (f : Int → Int → Int) (a b : Word) : Word × Bool :=
  let h := f (hi16 a).toInt (hi16 b).toInt
  let l := f (lo16 a).toInt (lo16 b).toInt
  if s then (halves (BitVec.ofInt 16 (satTo 16 h).1) (BitVec.ofInt 16 (satTo 16 l).1), (satTo 16 h).2 || (satTo 16 l).2)
  else (halves (BitVec.ofInt 16 h) (BitVec.ofInt 16 l), false)

/-- Left shift by an amount, saturated to 32 bits (R111). -/
def shlSat (a : Word) (n : Nat) : Word × Bool := sat32 (a.toInt * ((2 ^ n : Nat) : Int))

/-- The shifts that SHI and the ALU group name: 0 SHL, 1 SHR, 2 SRA, 3 SHLS. -/
def shiftBy (func : Nat) (a : Word) (n : Nat) : Word × Bool :=
  if func = 0 then (a <<< n, false)
  else if func = 1 then (a >>> n, false)
  else if func = 2 then (a.sshiftRight n, false)
  else shlSat a n

/-- Leading zero bits. -/
def clz32 (a : Word) : Nat := ((List.range 32).takeWhile (fun i => !bit a.toNat (31 - i))).length

/-- Redundant sign bits of a value of a width (R111). -/
def normOf (width v : Nat) : Nat :=
  if v % 2 ^ width = 0 then 0
  else ((List.range (width - 1)).takeWhile (fun i => bit v (width - 2 - i) == bit v (width - 1))).length

/-- The condition of CMP and CMPI (R112); none where it is reserved. -/
def condHolds (cond : BitVec 4) (a b : Word) : Option Bool :=
  match cond.toNat with
  | 0 => some (a == b)
  | 1 => some (a != b)
  | 2 => some (decide (a.toInt < b.toInt))
  | 3 => some (decide (b.toInt ≤ a.toInt))
  | 4 => some (decide (a.toInt ≤ b.toInt))
  | 5 => some (decide (b.toInt < a.toInt))
  | 6 => some (decide (a.toNat < b.toNat))
  | 7 => some (decide (b.toNat ≤ a.toNat))
  | 8 => some (decide (a.toNat ≤ b.toNat))
  | 9 => some (decide (b.toNat < a.toNat))
  | 10 => some (a &&& b != 0)
  | 11 => some (a &&& b == 0)
  | _ => none

/-- One step of restoring division (R113). -/
def divStep (d s : Word) : Word :=
  let t := d <<< 1
  if (lo16 s).toNat ≤ (hi16 t).toNat then halves (hi16 t - lo16 s) (lo16 t ||| 1) else t

/-! ## Accumulators (R95, R96, R115, R116) -/

/-- A 72-bit result: wrapped, and whether it overflowed (STAT.AV). -/
def acc72 (v : Int) : BitVec 72 × Bool := (BitVec.ofInt 72 v, (BitVec.ofInt 72 v).toInt != v)

/-- A half of an operand. -/
def half (h : Bool) (w : Word) : BitVec 16 := if h then hi16 w else lo16 w

/-- An extraction before saturation (R96): target 0 Q15, 1 Q31, 2 integer 32, with shift s and a rounding mode. -/
def extractRaw (tgt : Nat) (s : Int) (mode : Nat) (a : BitVec 72) : Int :=
  let k : Int := if tgt = 0 then 48 - s else if tgt = 1 then 32 - s else s
  if 0 ≤ k then roundShift mode a.toInt k.toNat else a.toInt * ((2 ^ (-k).toNat : Nat) : Int)

/-- An extraction: the register value and SV. -/
def extract (tgt : Nat) (s : Int) (mode : Nat) (a : BitVec 72) : Word × Bool :=
  let r := satTo (if tgt = 0 then 16 else 32) (extractRaw tgt s mode a)
  (word r.1, r.2)

end Sys2Proof.Machine
end

