-- ==== Sys2Proof/Config.lean ====
section
/-!
DEFINITION. What the spec leaves open, as constants with no body: nothing in Lean can compute them, so a statement holds
whatever they are. `free…` constants are applied to the model's own counter `freeCount`, so that each use is fresh; the
others are functions of the operands that the open value depends on.
-/

namespace Sys2Proof.Config

/-- A value the spec leaves open, drawn at the counter (log 6). -/
opaque freeNat : Nat → Nat

/-- An open yes or no (log 6). -/
opaque freeBit : Nat → Bool

/-- An open 32-bit word (log 6). -/
opaque freeWord : Nat → Word

/-- Open 16-bit samples of a media result (log 8). -/
opaque freeSample : Nat → BitVec 16

/-- What is measured in samples of a rate in kHz: frequencies in 0.1 Hz with their levels in 0.1 dBm0 (R217, log 8). -/
opaque components : Nat → List (BitVec 16) → List (Nat × Int)

/-- The level of samples in 0.1 dBm0 (log 8). -/
opaque level : List (BitVec 16) → Int

/-- What a detector remembers of the samples before, after some more of them (log 8). -/
opaque remember : Nat → List (BitVec 16) → Nat

/-- From what is remembered and a frame: the amplitude modulation of a tone, as 0.01 Hz and 0.1 % (R218, log 8). -/
opaque modulation : Nat → List (BitVec 16) → Option (Nat × Nat)

/-- From what is remembered and a frame: a phase step, as the sample at which it lies and degrees (R204, R219, log 8). -/
opaque phaseStep : Nat → List (BitVec 16) → Option (Nat × Nat)

/-- The slot in a way of the classifier that a key's hash gives, and the ways that a relocation walk takes for a key, from the
keys held and their indexes (R269, log 68). -/
opaque clsHash : Nat → List Byte → Nat
opaque clsWalk : List (List Byte × Nat) → List Byte → List Nat

/-- The 16 bytes of a slot of a playout record's ring, from the packet's number, timestamp, arrival and cell (R275, log 17). -/
opaque ringSlot : Nat × Int × Nat × Nat → Nat

/-- A generated tone of a frequency in Hz at a level in dBm0: its value at a sample index, by the rate in kHz (R224, log 8). -/
opaque sine : Nat → Nat → Int → Nat → Int

/-- A generated answer tone at a level in dBm0, with the modulation of ANSam or without, at a sample index (R224, log 8). -/
opaque answer : Nat → Int → Bool → Nat → Int

/-- The qualifiers of a modulation that end in a frame: from what is remembered and the frame, the sample at which the last
symbol ends, the carrier offset in 0.1 Hz and the level in 0.5 dBm0 over the qualifying symbols (R230, R232, log 8). -/
opaque qualifiers : Nat → Nat → List (BitVec 16) → List (Nat × Int × Int)

/-- The sample at which the preamble of a modulation ends in a frame, and the offset that the AFC has found (R235, log 8). -/
opaque trained : Nat → Nat → List (BitVec 16) → Option Nat
opaque offset : Nat → Nat → List (BitVec 16) → Int

/-- Bits that a modulation's demodulator decides in a frame, with the sample at which each is decided (log 8). -/
opaque demodulate : Nat → Nat → List (BitVec 16) → List (Nat × Bool)

/-- The training of a reception is a short one; its data is HDLC (R236, R238, log 8). -/
opaque shortTraining : Nat → Nat → Bool
opaque framed : Nat → Nat → Bool

/-- A CM or JM sequence that a modulation brings in a frame: whether its call function is T.30 and whether its modulation modes
include V.34 half-duplex (R231, log 8). -/
opaque menu : Nat → Nat → List (BitVec 16) → Option (Bool × Bool)

/-- How long the training of a modulation lasts, long or short, in samples at 8 kHz, and the bits of its turn-off sequence
(R236, log 8). -/
opaque training : Nat → Bool → Nat
opaque turnOff : Nat → List Bool

/-- A wave at a phase in 1/8,000 of a turn, at a level in dBm0 (R237, log 8). -/
opaque wave : Nat → Int → Int

/-- A carrier of a modulation whose training is short or not, shaped with a roll-off in percent, at a level in dBm0: from what
it sent before, the bits that it sends, the carrier's phase in 1/8,000 of a turn, and the sample since its start (R237, log 8). -/
opaque shaped : Nat × Bool × Nat → Int → Nat → List Bool → Nat × Nat → Int

/-- What a modulator keeps of the bits that it has sent (log 8). -/
opaque sentBits : Nat → List Bool → Nat

/-- T.38, by version and rate management: the IFPs of records, from what the relay keeps; the records of an IFP; and what the
relay keeps after more octets (R240, log 8). -/
opaque ifps : Nat → Bool → Nat → List (List Byte) → List (List Byte)
opaque ifpRecords : Nat → Bool → Nat → List Byte → List (List Byte)
opaque relayed : Nat → List Byte → Nat

/-- What a canceller measures (R198, R201, R202, R207). -/
inductive VatMeasure where
  | erl
  | erle
  | refLevel
  | nearLevel
  | residual
  | coherence
  | echo
  deriving DecidableEq, Repr

/-- A measure over the last milliseconds, of what a canceller remembers: in 0.1 dB or 0.1 dBm0, a coherence in thousandths
(log 8). -/
opaque vatMeasure : Nat → VatMeasure → Nat → Int

/-- What a window with coefficients takes from a near-end sample, by its references (R194, log 8). -/
opaque echo : Nat → List (BitVec 16) → Nat → Int

/-- Coefficients after an adaptation step of 2 ^ −(STEP + 1), by their references and the residual (R216, log 8). -/
opaque adapt : Nat → Nat → List (BitVec 16) → List (BitVec 16) → Nat

/-- Coefficient energy in 0.1 dB, and the error energy of coefficients at a position over the last 32 ms in 0.1 dB (R198, log 8). -/
opaque energy : Nat → Int
opaque errorEnergy : Nat → Nat → Nat → Int

/-- The lags in 0.5 ms at which the reference and the near end correlate, with their energy in 0.1 dB (R198, log 8). -/
opaque correlation : Nat → List (Nat × Int)

/-- A lag explains the excess near-end energy (R201); samples carry speech (R198); a canceller has converged (R207; log 8). -/
opaque explains : Nat → Nat → Bool
opaque speech : Nat → List (BitVec 16) → Bool
opaque converged : Nat → Bool

/-- The near-end background: its fit after a block, its level in 0.1 dBm0, and comfort noise of it at a level (R203, log 8). -/
opaque background : Nat → List (BitVec 16) → Nat
opaque backLevel : Nat → Int
opaque comfort : Nat → Int → Nat → Nat → BitVec 16

/-- The weight of 32,768 that a fade over some samples has reached at one of them (R198, R199, R202, log 8). -/
opaque fadeWeight : Nat → Nat → Nat

/-- METER's levels of what it has measured in an interval: LEVIN and LEVOUT in 0.1 dBm0 (R170, R177, log 8). -/
opaque meterIn : Nat → Nat
opaque meterOut : Nat → Nat

/-- GAIN and MIX round a product up whose remainder is this one of 4,096 (R177, log 8). -/
opaque gainRounds : Nat → Bool

/-- A codec of a code, rate in kHz and mode, by what its state remembers: the samples of a frame record, what it remembers after
one, the samples that conceal a loss, and what it remembers after samples concealed (R244, R254, log 8). -/
opaque decoded : Nat × Nat × Nat → Nat → List Byte → List (BitVec 16)
opaque afterFrame : Nat → List Byte → Nat
opaque concealed : Nat × Nat → Nat → Nat → List (BitVec 16)
opaque afterLoss : Nat → Nat → Nat

/-- Samples lengthened or shortened to a number (R279, log 8). -/
opaque stretched : Nat → Nat → List (BitVec 16) → List (BitVec 16)

/-- An encoder of a code, mode and options, by what it remembers and the number of the frame: whether its own detector sends
speech (0), a SID (1) or nothing (2), and the coded octets (R244, R254, log 8). -/
opaque silence : Nat × Nat × Nat → Nat → Nat → Nat
opaque coded : Nat × Nat × Nat → Nat → Nat → List Byte

/-- An Opus encoder codes a frame by CELT where it can (log 29). -/
opaque celt : Nat → Nat → Bool

/-- The coefficients and the SHIFT of a preset for a pair of rates in kHz, by stage (R258, R259, log 8). -/
opaque presetTaps : Nat × Nat × Nat → Nat → List Int
opaque presetShift : Nat × Nat × Nat → Nat → Int

/-- A faded sample with this remainder of XFADE rounds up (R264, log 8). -/
opaque fadeRounds : Nat → Nat → Bool

/-- Contents of the kernel ROM at an offset (log 5). -/
opaque romByte : Nat → Byte

/-- The ROM holds a kernel of this number (R145, log 5). -/
opaque romKernel : Nat → Bool

/-- The number of the ROM kernel that a chain instruction's opcode and codec run (R177, log 61). -/
opaque romOf : Nat → Nat → Nat

/-- The image of the ROM that holds a kernel: kernels may share one (R151, log 61). -/
opaque romImage : Nat → Nat

/-- The P image and the C image of a ROM image (R151, log 5). -/
opaque romImageP : Nat → List Byte
opaque romImageC : Nat → List Byte

/-- Where a ROM kernel's first instruction lies in P, in instructions (log 5). -/
opaque romEntry : Nat → Nat

/-- Cycles that a bundle stalls for what the spec does not time: outside accesses, the write buffer, fences and the
answers of other blocks (R89, R90, R126, log 9). -/
opaque freeStall : Nat → Nat

/-- Where the sequencer stages the input block, the output block and the state of a user kernel in X (R102, log 23). -/
opaque stageIn : Nat
opaque stageOut : Nat
opaque stageState : Nat

/-- How much state the sequencer stages for a user kernel, in units of 256 bytes (R174, log 23). -/
opaque callUnits : Nat

/-- FLEVEL of the zlib header for a LEVEL (R370, log 40). -/
opaque flevel : Nat → Nat

/-- The Press's coding of a segment: from LEVEL, the data before it, newest first, the segment, whether it ends the
stream, and the bits already in the first byte (R371, log 40). -/
opaque deflate : Nat → List Byte → List Byte → Bool → Nat → List Bool

end Sys2Proof.Config
end

