-- ==== Sys2Proof/Machine/Regs.lean ====
section
/-!
DEFINITION. The register map of BAR0 (R43, R31): for every register its address, its fields, and what a write and a
reset do to it (R16, R18). One row may stand for an array of equal registers. Names are BLOCK.REGISTER; a field is
F.BLOCK_REGISTER_FIELD.
-/

namespace Sys2Proof.Machine

/-! ## Block bases (R43, R31) -/

def wdnBase (d : Nat) : Nat := 0x50000 + d * 0x10000
def ddrBase (c : Nat) : Nat := 0x80000 + c * 0x10000
def cskBase (d : Nat) : Nat := 0x100000 + d * 0x100000
/-- MAC0 to MAC3, and MACM as number 4. -/
def macBase (m : Nat) : Nat := if m = 4 then 0x700000 else 0x800000 + m * 0x10000
def tdmBase (p : Nat) : Nat := 0x1000000 + p * 0x10000
def clBase (n : Nat) : Nat := 0x2000000 + n * 0x100000
def tileBase (n t : Nat) : Nat := clBase n + 0x80000 + t * 0x8000

/-- GLB.ID (R10). -/
def GLB.ID : Nat := 0x0
/-- HIF.AP0 (R44). -/
def HIF.AP0 : Nat := 0x40000 + 0x80
/-- HIF.AP1 (R44). -/
def HIF.AP1 : Nat := 0x40000 + 0x84
/-- HIF.AP2 (R44). -/
def HIF.AP2 : Nat := 0x40000 + 0x88
/-- HIF.AP3 (R44). -/
def HIF.AP3 : Nat := 0x40000 + 0x8C
/-- HIF.FENCE (R58). -/
def HIF.FENCE : Nat := 0x40000 + 0x40
/-- GLB.DVFS_REQ (R73). -/
def GLB.DVFS_REQ : Nat := 0x100
/-- GLB.DVFS_STATUS (R73). -/
def GLB.DVFS_STATUS : Nat := 0x104
/-- GLB.OP_CLUSTER (R73). -/
def GLB.OP_CLUSTER (i : Nat) : Nat := 0x200 + i * 0x4
/-- GLB.OP_FABRIC (R73). -/
def GLB.OP_FABRIC (i : Nat) : Nat := 0x280 + i * 0x4
/-- GLB.OP_FIXED (R73). -/
def GLB.OP_FIXED (i : Nat) : Nat := 0x288 + i * 0x4
/-- GLB.TEMP (R77). -/
def GLB.TEMP (i : Nat) : Nat := 0x300 + i * 0x4
/-- GLB.THERM (R77). -/
def GLB.THERM : Nat := 0x400
/-- GLB.PWR (R79). -/
def GLB.PWR : Nat := 0x410
/-- GLB.PWR_STATUS (R78). -/
def GLB.PWR_STATUS : Nat := 0x414
/-- TILE.STATE (R103). -/
def TILE.STATE (n t : Nat) : Nat := tileBase n t
/-- TILE.EXC_INFO (R104). -/
def TILE.EXC_INFO (n t : Nat) : Nat := tileBase n t + 0x10
/-- TILE.EXC_PC (R104). -/
def TILE.EXC_PC (n t : Nat) : Nat := tileBase n t + 0x14
/-- TILE.EXC_ADDR (R104). -/
def TILE.EXC_ADDR (n t : Nat) : Nat := tileBase n t + 0x18
/-- TILE.EXC_TID (R104). -/
def TILE.EXC_TID (n t : Nat) : Nat := tileBase n t + 0x1C
/-- TILE.CYCLES_LO (R104). -/
def TILE.CYCLES_LO (n t : Nat) : Nat := tileBase n t + 0x100
/-- TILE.CYCLES_HI (R104). -/
def TILE.CYCLES_HI (n t : Nat) : Nat := tileBase n t + 0x104
/-- TILE.BUNDLES_LO (R104). -/
def TILE.BUNDLES_LO (n t : Nat) : Nat := tileBase n t + 0x108
/-- TILE.BUNDLES_HI (R104). -/
def TILE.BUNDLES_HI (n t : Nat) : Nat := tileBase n t + 0x10C
/-- TILE.MACS_LO (R104). -/
def TILE.MACS_LO (n t : Nat) : Nat := tileBase n t + 0x110
/-- TILE.MACS_HI (R104). -/
def TILE.MACS_HI (n t : Nat) : Nat := tileBase n t + 0x114
/-- TILE.STALL_BUS_LO (R104). -/
def TILE.STALL_BUS_LO (n t : Nat) : Nat := tileBase n t + 0x118
/-- TILE.STALL_BUS_HI (R104). -/
def TILE.STALL_BUS_HI (n t : Nat) : Nat := tileBase n t + 0x11C
/-- TILE.STALL_OUTSIDE_LO (R104). -/
def TILE.STALL_OUTSIDE_LO (n t : Nat) : Nat := tileBase n t + 0x120
/-- TILE.STALL_OUTSIDE_HI (R104). -/
def TILE.STALL_OUTSIDE_HI (n t : Nat) : Nat := tileBase n t + 0x124
/-- TILE.STALL_LOAD_LO (R104). -/
def TILE.STALL_LOAD_LO (n t : Nat) : Nat := tileBase n t + 0x128
/-- TILE.STALL_LOAD_HI (R104). -/
def TILE.STALL_LOAD_HI (n t : Nat) : Nat := tileBase n t + 0x12C
/-- TILE.STALL_FETCH_LO (R104). -/
def TILE.STALL_FETCH_LO (n t : Nat) : Nat := tileBase n t + 0x130
/-- TILE.STALL_FETCH_HI (R104). -/
def TILE.STALL_FETCH_HI (n t : Nat) : Nat := tileBase n t + 0x134
/-- TILE.LCACHE_LO (R104). -/
def TILE.LCACHE_LO (n t : Nat) : Nat := tileBase n t + 0x138
/-- TILE.LCACHE_HI (R104). -/
def TILE.LCACHE_HI (n t : Nat) : Nat := tileBase n t + 0x13C
/-- TILE.ITEMS_LO (R104). -/
def TILE.ITEMS_LO (n t : Nat) : Nat := tileBase n t + 0x140
/-- TILE.ITEMS_HI (R104). -/
def TILE.ITEMS_HI (n t : Nat) : Nat := tileBase n t + 0x144
/-- TILE.EXCEPTIONS_LO (R104). -/
def TILE.EXCEPTIONS_LO (n t : Nat) : Nat := tileBase n t + 0x148
/-- TILE.EXCEPTIONS_HI (R104). -/
def TILE.EXCEPTIONS_HI (n t : Nat) : Nat := tileBase n t + 0x14C
/-- TILE.ECC_CORR_LO (R104). -/
def TILE.ECC_CORR_LO (n t : Nat) : Nat := tileBase n t + 0x150
/-- TILE.ECC_CORR_HI (R104). -/
def TILE.ECC_CORR_HI (n t : Nat) : Nat := tileBase n t + 0x154
/-- TILE.ECC_UNCORR_LO (R104). -/
def TILE.ECC_UNCORR_LO (n t : Nat) : Nat := tileBase n t + 0x158
/-- TILE.ECC_UNCORR_HI (R104). -/
def TILE.ECC_UNCORR_HI (n t : Nat) : Nat := tileBase n t + 0x15C
/-- TILE.DBG_CTRL (R105). -/
def TILE.DBG_CTRL (n t : Nat) : Nat := tileBase n t + 0x400
/-- TILE.BP (R105). -/
def TILE.BP (n t i : Nat) : Nat := tileBase n t + 0x410 + i * 0x4
/-- TILE.WPLO (R105). -/
def TILE.WPLO (n t i : Nat) : Nat := tileBase n t + 0x420 + i * 0x8
/-- TILE.WPHI (R105). -/
def TILE.WPHI (n t i : Nat) : Nat := tileBase n t + 0x424 + i * 0x8
/-- TILE.WPCTL (R105). -/
def TILE.WPCTL (n t i : Nat) : Nat := tileBase n t + 0x430 + i * 0x4
/-- GLB.RESET (R408). -/
def GLB.RESET : Nat := 0x500
/-- GLB.RSTCAUSE (R408). -/
def GLB.RSTCAUSE : Nat := 0x504
/-- GLB.WDT_CFG (R412). -/
def GLB.WDT_CFG : Nat := 0x510
/-- GLB.WDT_KICK (R412). -/
def GLB.WDT_KICK : Nat := 0x514
/-- GLB.WDT_COUNT (R412). -/
def GLB.WDT_COUNT : Nat := 0x518
/-- GLB.ERRLOG (R414). -/
def GLB.ERRLOG (i : Nat) : Nat := 0x600 + i * 0x20
/-- GLB.ERRLOG_ADDRLO (R414). -/
def GLB.ERRLOG_ADDRLO (i : Nat) : Nat := 0x604 + i * 0x20
/-- GLB.ERRLOG_ADDRHI (R414). -/
def GLB.ERRLOG_ADDRHI (i : Nat) : Nat := 0x608 + i * 0x20
/-- GLB.ERRLOG_SYND (R414). -/
def GLB.ERRLOG_SYND (i : Nat) : Nat := 0x60C + i * 0x20
/-- GLB.ERRLOG_TB2S (R414). -/
def GLB.ERRLOG_TB2S (i : Nat) : Nat := 0x610 + i * 0x20
/-- GLB.ERRLOG_TB2NS (R414). -/
def GLB.ERRLOG_TB2NS (i : Nat) : Nat := 0x614 + i * 0x20
/-- GLB.ERRLOG_BANK (R414). -/
def GLB.ERRLOG_BANK (i : Nat) : Nat := 0x618 + i * 0x20
/-- DDR.CFG (R418). -/
def DDR.CFG (c : Nat) : Nat := ddrBase c
/-- DDR.STATUS (R418). -/
def DDR.STATUS (c : Nat) : Nat := ddrBase c + 0x10
/-- DDR.STATUS1 (R418). -/
def DDR.STATUS1 (c : Nat) : Nat := ddrBase c + 0x14
/-- DDR.EVT (R418). -/
def DDR.EVT (c : Nat) : Nat := ddrBase c + 0x20
/-- DDR.CE_LO (R418). -/
def DDR.CE_LO (c : Nat) : Nat := ddrBase c + 0x100
/-- DDR.CE_HI (R418). -/
def DDR.CE_HI (c : Nat) : Nat := ddrBase c + 0x104
/-- DDR.UE_LO (R418). -/
def DDR.UE_LO (c : Nat) : Nat := ddrBase c + 0x108
/-- DDR.UE_HI (R418). -/
def DDR.UE_HI (c : Nat) : Nat := ddrBase c + 0x10C
/-- DDR.SCRUBLINES_LO (R418). -/
def DDR.SCRUBLINES_LO (c : Nat) : Nat := ddrBase c + 0x110
/-- DDR.SCRUBLINES_HI (R418). -/
def DDR.SCRUBLINES_HI (c : Nat) : Nat := ddrBase c + 0x114
/-- HNG.STATUS (R418). -/
def HNG.STATUS : Nat := 0xC0000
/-- HNG.EVT (R418). -/
def HNG.EVT : Nat := 0xC0000 + 0x10
/-- HNG.RETRIES0_LO (R418). -/
def HNG.RETRIES0_LO : Nat := 0xC0000 + 0x100
/-- HNG.RETRIES0_HI (R418). -/
def HNG.RETRIES0_HI : Nat := 0xC0000 + 0x104
/-- HNG.RETRIES1_LO (R418). -/
def HNG.RETRIES1_LO : Nat := 0xC0000 + 0x108
/-- HNG.RETRIES1_HI (R418). -/
def HNG.RETRIES1_HI : Nat := 0xC0000 + 0x10C
/-- HNG.RETRIES2_LO (R418). -/
def HNG.RETRIES2_LO : Nat := 0xC0000 + 0x110
/-- HNG.RETRIES2_HI (R418). -/
def HNG.RETRIES2_HI : Nat := 0xC0000 + 0x114
/-- HNG.RETRIES3_LO (R418). -/
def HNG.RETRIES3_LO : Nat := 0xC0000 + 0x118
/-- HNG.RETRIES3_HI (R418). -/
def HNG.RETRIES3_HI : Nat := 0xC0000 + 0x11C
/-- HNG.EXHAUST_LO (R418). -/
def HNG.EXHAUST_LO : Nat := 0xC0000 + 0x120
/-- HNG.EXHAUST_HI (R418). -/
def HNG.EXHAUST_HI : Nat := 0xC0000 + 0x124
/-- CSK.CMD (R143). -/
def CSK.CMD (d : Nat) : Nat := cskBase d
/-- CSK.CMD_STATUS (R143). -/
def CSK.CMD_STATUS (d : Nat) : Nat := cskBase d + 0x10
/-- CSK.CMD_INFORCE (R143). -/
def CSK.CMD_INFORCE (d : Nat) : Nat := cskBase d + 0x14
/-- CSK.CASK_INFORCE (R143). -/
def CSK.CASK_INFORCE (d : Nat) : Nat := cskBase d + 0x18
/-- CSK.HWR (R143). -/
def CSK.HWR (d i : Nat) : Nat := cskBase d + 0x20 + i * 0x4
/-- CSK.HWCTL (R143). -/
def CSK.HWCTL (d : Nat) : Nat := cskBase d + 0x30
/-- CSK.HW_STATUS (R143). -/
def CSK.HW_STATUS (d : Nat) : Nat := cskBase d + 0x40
/-- CSK.OPENPKTS (R132). -/
def CSK.OPENPKTS (d : Nat) : Nat := cskBase d + 0x50
/-- CSK.REFUSED_LO (R143). -/
def CSK.REFUSED_LO (d : Nat) : Nat := cskBase d + 0x100
/-- CSK.REFUSED_HI (R143). -/
def CSK.REFUSED_HI (d : Nat) : Nat := cskBase d + 0x104
/-- CSK.OVERLEN_LO (R143). -/
def CSK.OVERLEN_LO (d : Nat) : Nat := cskBase d + 0x108
/-- CSK.OVERLEN_HI (R143). -/
def CSK.OVERLEN_HI (d : Nat) : Nat := cskBase d + 0x10C
/-- CSK.DISCARDED_LO (R143). -/
def CSK.DISCARDED_LO (d : Nat) : Nat := cskBase d + 0x110
/-- CSK.DISCARDED_HI (R143). -/
def CSK.DISCARDED_HI (d : Nat) : Nat := cskBase d + 0x114
/-- CSK.ABANDONED_LO (R143). -/
def CSK.ABANDONED_LO (d : Nat) : Nat := cskBase d + 0x118
/-- CSK.ABANDONED_HI (R143). -/
def CSK.ABANDONED_HI (d : Nat) : Nat := cskBase d + 0x11C
/-- CSK.NOTICE_LOST_LO (R143). -/
def CSK.NOTICE_LOST_LO (d : Nat) : Nat := cskBase d + 0x120
/-- CSK.NOTICE_LOST_HI (R143). -/
def CSK.NOTICE_LOST_HI (d : Nat) : Nat := cskBase d + 0x124
/-- CSK.NG_CLUSTER (R141). -/
def CSK.NG_CLUSTER (d i : Nat) : Nat := cskBase d + 0x1000 + i * 0x40
/-- CSK.NG_PEND (R142). -/
def CSK.NG_PEND (d i : Nat) : Nat := cskBase d + 0x1004 + i * 0x40
/-- CSK.NG_GACK (R142). -/
def CSK.NG_GACK (d i : Nat) : Nat := cskBase d + 0x1008 + i * 0x40
/-- CSK.NG_WI (R141). -/
def CSK.NG_WI (d i j : Nat) : Nat := cskBase d + 0x1020 + i * 0x40 + j * 0x4
/-- CSK.CFG (R143). -/
def CSK.CFG (d i : Nat) : Nat := cskBase d + 0x80000 + i * 0x40
/-- CSK.BASE (R143). -/
def CSK.BASE (d i : Nat) : Nat := cskBase d + 0x80004 + i * 0x40
/-- CSK.FILL (R133). -/
def CSK.FILL (d i : Nat) : Nat := cskBase d + 0x80008 + i * 0x40
/-- CSK.CREDIT (R133). -/
def CSK.CREDIT (d i : Nat) : Nat := cskBase d + 0x8000C + i * 0x40
/-- CSK.IDLE (R136). -/
def CSK.IDLE (d i j : Nat) : Nat := cskBase d + 0x80010 + i * 0x40 + j * 0x4
/-- CSK.PEEK (R136). -/
def CSK.PEEK (d i j : Nat) : Nat := cskBase d + 0x80020 + i * 0x40 + j * 0x4
/-- CSK.PSTAT (R137). -/
def CSK.PSTAT (d i : Nat) : Nat := cskBase d + 0x80030 + i * 0x40
/-- CSK.PKTS_LO (R143). -/
def CSK.PKTS_LO (d i : Nat) : Nat := cskBase d + 0x80038 + i * 0x40
/-- CSK.PKTS_HI (R143). -/
def CSK.PKTS_HI (d i : Nat) : Nat := cskBase d + 0x8003C + i * 0x40
/-- WS.STATUS (R162). -/
def WS.STATUS (n : Nat) : Nat := clBase n
/-- WS.CFG (R147). -/
def WS.CFG (n : Nat) : Nat := clBase n + 0x4
/-- WS.DEFLIM (R146). -/
def WS.DEFLIM (n : Nat) : Nat := clBase n + 0x8
/-- WS.PENDING (R147). -/
def WS.PENDING (n : Nat) : Nat := clBase n + 0xC
/-- WS.TILES (R150). -/
def WS.TILES (n : Nat) : Nat := clBase n + 0x10
/-- WS.HPOST (R144). -/
def WS.HPOST (n i : Nat) : Nat := clBase n + 0x20 + i * 0x4
/-- WS.HPCTL (R157). -/
def WS.HPCTL (n : Nat) : Nat := clBase n + 0x40
/-- WS.HP_STATUS (R157). -/
def WS.HP_STATUS (n : Nat) : Nat := clBase n + 0x50
/-- WS.HP_TIMER (R157). -/
def WS.HP_TIMER (n : Nat) : Nat := clBase n + 0x54
/-- WS.EVT (R161). -/
def WS.EVT (n : Nat) : Nat := clBase n + 0x60
/-- WS.MISS_LOG (R161). -/
def WS.MISS_LOG (n : Nat) : Nat := clBase n + 0x70
/-- WS.MISS_TIME (R161). -/
def WS.MISS_TIME (n : Nat) : Nat := clBase n + 0x74
/-- WS.POSTED_LO (R161). -/
def WS.POSTED_LO (n : Nat) : Nat := clBase n + 0x100
/-- WS.POSTED_HI (R161). -/
def WS.POSTED_HI (n : Nat) : Nat := clBase n + 0x104
/-- WS.REFUSED_LO (R161). -/
def WS.REFUSED_LO (n : Nat) : Nat := clBase n + 0x108
/-- WS.REFUSED_HI (R161). -/
def WS.REFUSED_HI (n : Nat) : Nat := clBase n + 0x10C
/-- WS.DISPATCHED_LO (R161). -/
def WS.DISPATCHED_LO (n : Nat) : Nat := clBase n + 0x110
/-- WS.DISPATCHED_HI (R161). -/
def WS.DISPATCHED_HI (n : Nat) : Nat := clBase n + 0x114
/-- WS.DEFERRED_LO (R161). -/
def WS.DEFERRED_LO (n : Nat) : Nat := clBase n + 0x118
/-- WS.DEFERRED_HI (R161). -/
def WS.DEFERRED_HI (n : Nat) : Nat := clBase n + 0x11C
/-- WS.SHED_OPT_LO (R161). -/
def WS.SHED_OPT_LO (n : Nat) : Nat := clBase n + 0x120
/-- WS.SHED_OPT_HI (R161). -/
def WS.SHED_OPT_HI (n : Nat) : Nat := clBase n + 0x124
/-- WS.PLC_SUBST_LO (R161). -/
def WS.PLC_SUBST_LO (n : Nat) : Nat := clBase n + 0x128
/-- WS.PLC_SUBST_HI (R161). -/
def WS.PLC_SUBST_HI (n : Nat) : Nat := clBase n + 0x12C
/-- WS.MISSED_LO (R161). -/
def WS.MISSED_LO (n : Nat) : Nat := clBase n + 0x130
/-- WS.MISSED_HI (R161). -/
def WS.MISSED_HI (n : Nat) : Nat := clBase n + 0x134
/-- WS.DISCARDED_LO (R161). -/
def WS.DISCARDED_LO (n : Nat) : Nat := clBase n + 0x138
/-- WS.DISCARDED_HI (R161). -/
def WS.DISCARDED_HI (n : Nat) : Nat := clBase n + 0x13C
/-- WS.LOADS_LO (R161). -/
def WS.LOADS_LO (n : Nat) : Nat := clBase n + 0x140
/-- WS.LOADS_HI (R161). -/
def WS.LOADS_HI (n : Nat) : Nat := clBase n + 0x144
/-- WS.CLASS (R147). -/
def WS.CLASS (n i : Nat) : Nat := clBase n + 0x200 + i * 0x4
/-- CTX.ACMD (R188). -/
def CTX.ACMD (n : Nat) : Nat := (clBase n + 0x10000)
/-- CTX.ARES (R188). -/
def CTX.ARES (n : Nat) : Nat := (clBase n + 0x10000) + 0x10
/-- CTX.SLOTINFO (R188). -/
def CTX.SLOTINFO (n : Nat) : Nat := (clBase n + 0x10000) + 0x14
/-- CTX.VERSIONS (R188). -/
def CTX.VERSIONS (n : Nat) : Nat := (clBase n + 0x10000) + 0x18
/-- CTX.CSTATUS (R188). -/
def CTX.CSTATUS (n : Nat) : Nat := (clBase n + 0x10000) + 0x20
/-- CTX.CSTATUS_TID (R188). -/
def CTX.CSTATUS_TID (n : Nat) : Nat := (clBase n + 0x10000) + 0x24
/-- CTX.CSTATUS_VERSION (R188). -/
def CTX.CSTATUS_VERSION (n : Nat) : Nat := (clBase n + 0x10000) + 0x28
/-- CTX.BUDGET (R190). -/
def CTX.BUDGET (n : Nat) : Nat := (clBase n + 0x10000) + 0x40
/-- CTX.LOAD (R191). -/
def CTX.LOAD (n : Nat) : Nat := (clBase n + 0x10000) + 0x44
/-- CTX.PCT (R190). -/
def CTX.PCT (n : Nat) : Nat := (clBase n + 0x10000) + 0x48
/-- CTX.SLOTS (R165). -/
def CTX.SLOTS (n : Nat) : Nat := (clBase n + 0x10000) + 0x4C
/-- CTX.VATU (R192). -/
def CTX.VATU (n : Nat) : Nat := (clBase n + 0x10000) + 0x50
/-- CTX.TONEU (R192). -/
def CTX.TONEU (n : Nat) : Nat := (clBase n + 0x10000) + 0x54
/-- CTX.SRCU (R192). -/
def CTX.SRCU (n : Nat) : Nat := (clBase n + 0x10000) + 0x58
/-- CTX.VDEU (R192). -/
def CTX.VDEU (n : Nat) : Nat := (clBase n + 0x10000) + 0x5C
/-- CTX.STAGEBASE (R183). -/
def CTX.STAGEBASE (n : Nat) : Nat := (clBase n + 0x10000) + 0x60
/-- CTX.HOMEBASE (R167). -/
def CTX.HOMEBASE (n : Nat) : Nat := (clBase n + 0x10000) + 0x64
/-- CTX.EPOCH (R168). -/
def CTX.EPOCH (n : Nat) : Nat := (clBase n + 0x10000) + 0x68
/-- CTX.EVT (R188). -/
def CTX.EVT (n : Nat) : Nat := (clBase n + 0x10000) + 0x70
/-- CTX.IDLE_LOG (R63). -/
def CTX.IDLE_LOG (n : Nat) : Nat := (clBase n + 0x10000) + 0x74
/-- CTX.ACCEPTED_LO (R188). -/
def CTX.ACCEPTED_LO (n : Nat) : Nat := (clBase n + 0x10000) + 0x100
/-- CTX.ACCEPTED_HI (R188). -/
def CTX.ACCEPTED_HI (n : Nat) : Nat := (clBase n + 0x10000) + 0x104
/-- CTX.REJECTED_LO (R188). -/
def CTX.REJECTED_LO (n : Nat) : Nat := (clBase n + 0x10000) + 0x108
/-- CTX.REJECTED_HI (R188). -/
def CTX.REJECTED_HI (n : Nat) : Nat := (clBase n + 0x10000) + 0x10C
/-- CTX.SUPERSEDED_LO (R188). -/
def CTX.SUPERSEDED_LO (n : Nat) : Nat := (clBase n + 0x10000) + 0x110
/-- CTX.SUPERSEDED_HI (R188). -/
def CTX.SUPERSEDED_HI (n : Nat) : Nat := (clBase n + 0x10000) + 0x114
/-- CTX.SWITCHED_LO (R188). -/
def CTX.SWITCHED_LO (n : Nat) : Nat := (clBase n + 0x10000) + 0x118
/-- CTX.SWITCHED_HI (R188). -/
def CTX.SWITCHED_HI (n : Nat) : Nat := (clBase n + 0x10000) + 0x11C
/-- CTX.WDN_APPLIED_LO (R188). -/
def CTX.WDN_APPLIED_LO (n : Nat) : Nat := (clBase n + 0x10000) + 0x120
/-- CTX.WDN_APPLIED_HI (R188). -/
def CTX.WDN_APPLIED_HI (n : Nat) : Nat := (clBase n + 0x10000) + 0x124
/-- CTX.WDN_DISCARDED_LO (R188). -/
def CTX.WDN_DISCARDED_LO (n : Nat) : Nat := (clBase n + 0x10000) + 0x128
/-- CTX.WDN_DISCARDED_HI (R188). -/
def CTX.WDN_DISCARDED_HI (n : Nat) : Nat := (clBase n + 0x10000) + 0x12C
/-- CTX.KERR_LO (R188). -/
def CTX.KERR_LO (n : Nat) : Nat := (clBase n + 0x10000) + 0x130
/-- CTX.KERR_HI (R188). -/
def CTX.KERR_HI (n : Nat) : Nat := (clBase n + 0x10000) + 0x134
/-- CTX.UKIMG (R193). -/
def CTX.UKIMG (n i : Nat) : Nat := (clBase n + 0x10000) + 0x1000 + i * 0x8
/-- CTX.UKCTL (R193). -/
def CTX.UKCTL (n i : Nat) : Nat := (clBase n + 0x10000) + 0x1004 + i * 0x8
/-- CTX.DB (R182). -/
def CTX.DB (n i : Nat) : Nat := (clBase n + 0x10000) + 0x8000 + i * 0x4
/-- VAT.CFG (R216). -/
def VAT.CFG (n : Nat) : Nat := (clBase n + 0x20000)
/-- VAT.STATUS (R211). -/
def VAT.STATUS (n : Nat) : Nat := (clBase n + 0x20000) + 0x4
/-- VAT.QUEUE (R210). -/
def VAT.QUEUE (n : Nat) : Nat := (clBase n + 0x20000) + 0x8
/-- VAT.EVT (R216). -/
def VAT.EVT (n : Nat) : Nat := (clBase n + 0x20000) + 0x10
/-- VAT.ERR_LOG (R216). -/
def VAT.ERR_LOG (n : Nat) : Nat := (clBase n + 0x20000) + 0x14
/-- VAT.REQUESTS_LO (R216). -/
def VAT.REQUESTS_LO (n : Nat) : Nat := (clBase n + 0x20000) + 0x100
/-- VAT.REQUESTS_HI (R216). -/
def VAT.REQUESTS_HI (n : Nat) : Nat := (clBase n + 0x20000) + 0x104
/-- VAT.REFBLOCKS_LO (R216). -/
def VAT.REFBLOCKS_LO (n : Nat) : Nat := (clBase n + 0x20000) + 0x108
/-- VAT.REFBLOCKS_HI (R216). -/
def VAT.REFBLOCKS_HI (n : Nat) : Nat := (clBase n + 0x20000) + 0x10C
/-- VAT.REFGAP_LO (R216). -/
def VAT.REFGAP_LO (n : Nat) : Nat := (clBase n + 0x20000) + 0x110
/-- VAT.REFGAP_HI (R216). -/
def VAT.REFGAP_HI (n : Nat) : Nat := (clBase n + 0x20000) + 0x114
/-- VAT.REFLATE_LO (R216). -/
def VAT.REFLATE_LO (n : Nat) : Nat := (clBase n + 0x20000) + 0x118
/-- VAT.REFLATE_HI (R216). -/
def VAT.REFLATE_HI (n : Nat) : Nat := (clBase n + 0x20000) + 0x11C
/-- VAT.REFDROP_LO (R216). -/
def VAT.REFDROP_LO (n : Nat) : Nat := (clBase n + 0x20000) + 0x120
/-- VAT.REFDROP_HI (R216). -/
def VAT.REFDROP_HI (n : Nat) : Nat := (clBase n + 0x20000) + 0x124
/-- VAT.RELOCS_LO (R216). -/
def VAT.RELOCS_LO (n : Nat) : Nat := (clBase n + 0x20000) + 0x128
/-- VAT.RELOCS_HI (R216). -/
def VAT.RELOCS_HI (n : Nat) : Nat := (clBase n + 0x20000) + 0x12C
/-- VAT.REINITS_LO (R216). -/
def VAT.REINITS_LO (n : Nat) : Nat := (clBase n + 0x20000) + 0x130
/-- VAT.REINITS_HI (R216). -/
def VAT.REINITS_HI (n : Nat) : Nat := (clBase n + 0x20000) + 0x134
/-- VAT.DISABLES_LO (R216). -/
def VAT.DISABLES_LO (n : Nat) : Nat := (clBase n + 0x20000) + 0x138
/-- VAT.DISABLES_HI (R216). -/
def VAT.DISABLES_HI (n : Nat) : Nat := (clBase n + 0x20000) + 0x13C
/-- VAT.LOADBYPASS_LO (R216). -/
def VAT.LOADBYPASS_LO (n : Nat) : Nat := (clBase n + 0x20000) + 0x140
/-- VAT.LOADBYPASS_HI (R216). -/
def VAT.LOADBYPASS_HI (n : Nat) : Nat := (clBase n + 0x20000) + 0x144
/-- VAT.PW0 (R216). -/
def VAT.PW0 (n i : Nat) : Nat := (clBase n + 0x20000) + 0x400 + i * 0x20
/-- VAT.PW1 (R216). -/
def VAT.PW1 (n i : Nat) : Nat := (clBase n + 0x20000) + 0x404 + i * 0x20
/-- VAT.PW2 (R216). -/
def VAT.PW2 (n i : Nat) : Nat := (clBase n + 0x20000) + 0x408 + i * 0x20
/-- VAT.USERS (R216). -/
def VAT.USERS (n i : Nat) : Nat := (clBase n + 0x20000) + 0x410 + i * 0x20
/-- TONE.CFG (R229). -/
def TONE.CFG (n : Nat) : Nat := (clBase n + 0x30000)
/-- TONE.STATUS (R227). -/
def TONE.STATUS (n : Nat) : Nat := (clBase n + 0x30000) + 0x4
/-- TONE.EVT (R229). -/
def TONE.EVT (n : Nat) : Nat := (clBase n + 0x30000) + 0x10
/-- TONE.ERR_LOG (R229). -/
def TONE.ERR_LOG (n : Nat) : Nat := (clBase n + 0x30000) + 0x14
/-- TONE.DETECTS_LO (R229). -/
def TONE.DETECTS_LO (n : Nat) : Nat := (clBase n + 0x30000) + 0x100
/-- TONE.DETECTS_HI (R229). -/
def TONE.DETECTS_HI (n : Nat) : Nat := (clBase n + 0x30000) + 0x104
/-- TONE.RECPOSTED_LO (R229). -/
def TONE.RECPOSTED_LO (n : Nat) : Nat := (clBase n + 0x30000) + 0x108
/-- TONE.RECPOSTED_HI (R229). -/
def TONE.RECPOSTED_HI (n : Nat) : Nat := (clBase n + 0x30000) + 0x10C
/-- TONE.RECLOST_LO (R229). -/
def TONE.RECLOST_LO (n : Nat) : Nat := (clBase n + 0x30000) + 0x110
/-- TONE.RECLOST_HI (R229). -/
def TONE.RECLOST_HI (n : Nat) : Nat := (clBase n + 0x30000) + 0x114
/-- TONE.FALSEMUTE_LO (R229). -/
def TONE.FALSEMUTE_LO (n : Nat) : Nat := (clBase n + 0x30000) + 0x118
/-- TONE.FALSEMUTE_HI (R229). -/
def TONE.FALSEMUTE_HI (n : Nat) : Nat := (clBase n + 0x30000) + 0x11C
/-- TONE.BADCODE_LO (R229). -/
def TONE.BADCODE_LO (n : Nat) : Nat := (clBase n + 0x30000) + 0x120
/-- TONE.BADCODE_HI (R229). -/
def TONE.BADCODE_HI (n : Nat) : Nat := (clBase n + 0x30000) + 0x124
/-- TONE.DPW0 (R229). -/
def TONE.DPW0 (n i : Nat) : Nat := (clBase n + 0x30000) + 0x400 + i * 0x20
/-- TONE.DPW1 (R229). -/
def TONE.DPW1 (n i : Nat) : Nat := (clBase n + 0x30000) + 0x404 + i * 0x20
/-- TONE.DPW2 (R229). -/
def TONE.DPW2 (n i : Nat) : Nat := (clBase n + 0x30000) + 0x408 + i * 0x20
/-- TONE.DPW3 (R229). -/
def TONE.DPW3 (n i : Nat) : Nat := (clBase n + 0x30000) + 0x40C + i * 0x20
/-- TONE.DUSERS (R229). -/
def TONE.DUSERS (n i : Nat) : Nat := (clBase n + 0x30000) + 0x410 + i * 0x20
/-- TONE.CPE0 (R229). -/
def TONE.CPE0 (n i : Nat) : Nat := (clBase n + 0x30000) + 0x800 + i * 0x10
/-- TONE.CPE1 (R229). -/
def TONE.CPE1 (n i : Nat) : Nat := (clBase n + 0x30000) + 0x804 + i * 0x10
/-- TONE.CPE2 (R229). -/
def TONE.CPE2 (n i : Nat) : Nat := (clBase n + 0x30000) + 0x808 + i * 0x10
/-- TONE.CPE3 (R229). -/
def TONE.CPE3 (n i : Nat) : Nat := (clBase n + 0x30000) + 0x80C + i * 0x10
/-- TONE.GPW0 (R229). -/
def TONE.GPW0 (n i : Nat) : Nat := (clBase n + 0x30000) + 0xC00 + i * 0x20
/-- TONE.GPW1 (R229). -/
def TONE.GPW1 (n i : Nat) : Nat := (clBase n + 0x30000) + 0xC04 + i * 0x20
/-- TONE.GPW2 (R229). -/
def TONE.GPW2 (n i : Nat) : Nat := (clBase n + 0x30000) + 0xC08 + i * 0x20
/-- TONE.GPW3 (R229). -/
def TONE.GPW3 (n i : Nat) : Nat := (clBase n + 0x30000) + 0xC0C + i * 0x20
/-- TONE.GUSERS (R229). -/
def TONE.GUSERS (n i : Nat) : Nat := (clBase n + 0x30000) + 0xC10 + i * 0x20
/-- VDE.CFG (R241). -/
def VDE.CFG (n : Nat) : Nat := (clBase n + 0x50000)
/-- VDE.STATUS (R241). -/
def VDE.STATUS (n : Nat) : Nat := (clBase n + 0x50000) + 0x4
/-- VDE.EVT (R241). -/
def VDE.EVT (n : Nat) : Nat := (clBase n + 0x50000) + 0x10
/-- VDE.ERR_LOG (R241). -/
def VDE.ERR_LOG (n : Nat) : Nat := (clBase n + 0x50000) + 0x14
/-- VDE.RECEPTIONS_LO (R241). -/
def VDE.RECEPTIONS_LO (n : Nat) : Nat := (clBase n + 0x50000) + 0x100
/-- VDE.RECEPTIONS_HI (R241). -/
def VDE.RECEPTIONS_HI (n : Nat) : Nat := (clBase n + 0x50000) + 0x104
/-- VDE.FALSE_LO (R241). -/
def VDE.FALSE_LO (n : Nat) : Nat := (clBase n + 0x50000) + 0x108
/-- VDE.FALSE_HI (R241). -/
def VDE.FALSE_HI (n : Nat) : Nat := (clBase n + 0x50000) + 0x10C
/-- VDE.ABORTED_LO (R241). -/
def VDE.ABORTED_LO (n : Nat) : Nat := (clBase n + 0x50000) + 0x110
/-- VDE.ABORTED_HI (R241). -/
def VDE.ABORTED_HI (n : Nat) : Nat := (clBase n + 0x50000) + 0x114
/-- VDE.FRAMES_OK_LO (R241). -/
def VDE.FRAMES_OK_LO (n : Nat) : Nat := (clBase n + 0x50000) + 0x118
/-- VDE.FRAMES_OK_HI (R241). -/
def VDE.FRAMES_OK_HI (n : Nat) : Nat := (clBase n + 0x50000) + 0x11C
/-- VDE.FRAMES_BAD_LO (R241). -/
def VDE.FRAMES_BAD_LO (n : Nat) : Nat := (clBase n + 0x50000) + 0x120
/-- VDE.FRAMES_BAD_HI (R241). -/
def VDE.FRAMES_BAD_HI (n : Nat) : Nat := (clBase n + 0x50000) + 0x124
/-- VDE.RXOVF_LO (R241). -/
def VDE.RXOVF_LO (n : Nat) : Nat := (clBase n + 0x50000) + 0x128
/-- VDE.RXOVF_HI (R241). -/
def VDE.RXOVF_HI (n : Nat) : Nat := (clBase n + 0x50000) + 0x12C
/-- VDE.TXUNDER_LO (R241). -/
def VDE.TXUNDER_LO (n : Nat) : Nat := (clBase n + 0x50000) + 0x130
/-- VDE.TXUNDER_HI (R241). -/
def VDE.TXUNDER_HI (n : Nat) : Nat := (clBase n + 0x50000) + 0x134
/-- VDE.IFP_TX_LO (R241). -/
def VDE.IFP_TX_LO (n : Nat) : Nat := (clBase n + 0x50000) + 0x138
/-- VDE.IFP_TX_HI (R241). -/
def VDE.IFP_TX_HI (n : Nat) : Nat := (clBase n + 0x50000) + 0x13C
/-- VDE.IFP_RX_LO (R241). -/
def VDE.IFP_RX_LO (n : Nat) : Nat := (clBase n + 0x50000) + 0x140
/-- VDE.IFP_RX_HI (R241). -/
def VDE.IFP_RX_HI (n : Nat) : Nat := (clBase n + 0x50000) + 0x144
/-- VDE.IFP_LOST_LO (R241). -/
def VDE.IFP_LOST_LO (n : Nat) : Nat := (clBase n + 0x50000) + 0x148
/-- VDE.IFP_LOST_HI (R241). -/
def VDE.IFP_LOST_HI (n : Nat) : Nat := (clBase n + 0x50000) + 0x14C
/-- VDE.PW0 (R242). -/
def VDE.PW0 (n i : Nat) : Nat := (clBase n + 0x50000) + 0x400 + i * 0x20
/-- VDE.PW1 (R242). -/
def VDE.PW1 (n i : Nat) : Nat := (clBase n + 0x50000) + 0x404 + i * 0x20
/-- VDE.USERS (R242). -/
def VDE.USERS (n i : Nat) : Nat := (clBase n + 0x50000) + 0x410 + i * 0x20
/-- SRC.CFG (R266). -/
def SRC.CFG (n : Nat) : Nat := (clBase n + 0x40000)
/-- SRC.STATUS (R266). -/
def SRC.STATUS (n : Nat) : Nat := (clBase n + 0x40000) + 0x4
/-- SRC.EVT (R266). -/
def SRC.EVT (n : Nat) : Nat := (clBase n + 0x40000) + 0x10
/-- SRC.ERR_LOG (R266). -/
def SRC.ERR_LOG (n : Nat) : Nat := (clBase n + 0x40000) + 0x14
/-- SRC.UCMD (R265). -/
def SRC.UCMD (n : Nat) : Nat := (clBase n + 0x40000) + 0x20
/-- SRC.USTATUS (R265). -/
def SRC.USTATUS (n : Nat) : Nat := (clBase n + 0x40000) + 0x30
/-- SRC.USTATUS_SET (R265). -/
def SRC.USTATUS_SET (n : Nat) : Nat := (clBase n + 0x40000) + 0x34
/-- SRC.UBASE (R265). -/
def SRC.UBASE (n i : Nat) : Nat := (clBase n + 0x40000) + 0x40 + i * 0x10
/-- SRC.UINFO (R265). -/
def SRC.UINFO (n i : Nat) : Nat := (clBase n + 0x40000) + 0x44 + i * 0x10
/-- SRC.USERS (R265). -/
def SRC.USERS (n i : Nat) : Nat := (clBase n + 0x40000) + 0x48 + i * 0x10
/-- SRC.REQUESTS_LO (R266). -/
def SRC.REQUESTS_LO (n : Nat) : Nat := (clBase n + 0x40000) + 0x100
/-- SRC.REQUESTS_HI (R266). -/
def SRC.REQUESTS_HI (n : Nat) : Nat := (clBase n + 0x40000) + 0x104
/-- SRC.SYNCS_LO (R266). -/
def SRC.SYNCS_LO (n : Nat) : Nat := (clBase n + 0x40000) + 0x108
/-- SRC.SYNCS_HI (R266). -/
def SRC.SYNCS_HI (n : Nat) : Nat := (clBase n + 0x40000) + 0x10C
/-- SRC.FADES_LO (R266). -/
def SRC.FADES_LO (n : Nat) : Nat := (clBase n + 0x40000) + 0x110
/-- SRC.FADES_HI (R266). -/
def SRC.FADES_HI (n : Nat) : Nat := (clBase n + 0x40000) + 0x114
/-- SRC.FADECUT_LO (R266). -/
def SRC.FADECUT_LO (n : Nat) : Nat := (clBase n + 0x40000) + 0x118
/-- SRC.FADECUT_HI (R266). -/
def SRC.FADECUT_HI (n : Nat) : Nat := (clBase n + 0x40000) + 0x11C
/-- SRC.SATS_LO (R266). -/
def SRC.SATS_LO (n : Nat) : Nat := (clBase n + 0x40000) + 0x120
/-- SRC.SATS_HI (R266). -/
def SRC.SATS_HI (n : Nat) : Nat := (clBase n + 0x40000) + 0x124
/-- CLS.CMD (R271). -/
def CLS.CMD : Nat := 0x300000
/-- CLS.CMD_STATUS (R271). -/
def CLS.CMD_STATUS : Nat := 0x300000 + 0x10
/-- CLS.INDEX (R271). -/
def CLS.INDEX : Nat := 0x300000 + 0x14
/-- CLS.OCC (R271). -/
def CLS.OCC : Nat := 0x300000 + 0x18
/-- CLS.STASH (R269). -/
def CLS.STASH : Nat := 0x300000 + 0x20
/-- CLS.ENT (R270). -/
def CLS.ENT (i : Nat) : Nat := 0x300000 + 0x40 + i * 0x4
/-- CLS.CFG (R267). -/
def CLS.CFG : Nat := 0x300000 + 0x80
/-- CLS.EVT (R286). -/
def CLS.EVT : Nat := 0x300000 + 0x90
/-- CLS.ERR_LOG (R286). -/
def CLS.ERR_LOG : Nat := 0x300000 + 0x94
/-- CLS.FRAMES_LO (R286). -/
def CLS.FRAMES_LO (i : Nat) : Nat := 0x300000 + 0x100 + i * 0x80
/-- CLS.FRAMES_HI (R286). -/
def CLS.FRAMES_HI (i : Nat) : Nat := 0x300000 + 0x104 + i * 0x80
/-- CLS.HITS_LO (R286). -/
def CLS.HITS_LO (i : Nat) : Nat := 0x300000 + 0x108 + i * 0x80
/-- CLS.HITS_HI (R286). -/
def CLS.HITS_HI (i : Nat) : Nat := 0x300000 + 0x10C + i * 0x80
/-- CLS.WILD_LO (R286). -/
def CLS.WILD_LO (i : Nat) : Nat := 0x300000 + 0x110 + i * 0x80
/-- CLS.WILD_HI (R286). -/
def CLS.WILD_HI (i : Nat) : Nat := 0x300000 + 0x114 + i * 0x80
/-- CLS.MISSES_LO (R286). -/
def CLS.MISSES_LO (i : Nat) : Nat := 0x300000 + 0x118 + i * 0x80
/-- CLS.MISSES_HI (R286). -/
def CLS.MISSES_HI (i : Nat) : Nat := 0x300000 + 0x11C + i * 0x80
/-- CLS.L3ERR_LO (R286). -/
def CLS.L3ERR_LO (i : Nat) : Nat := 0x300000 + 0x120 + i * 0x80
/-- CLS.L3ERR_HI (R286). -/
def CLS.L3ERR_HI (i : Nat) : Nat := 0x300000 + 0x124 + i * 0x80
/-- CLS.UDPERR_LO (R286). -/
def CLS.UDPERR_LO (i : Nat) : Nat := 0x300000 + 0x128 + i * 0x80
/-- CLS.UDPERR_HI (R286). -/
def CLS.UDPERR_HI (i : Nat) : Nat := 0x300000 + 0x12C + i * 0x80
/-- CLS.RTPERR_LO (R286). -/
def CLS.RTPERR_LO (i : Nat) : Nat := 0x300000 + 0x130 + i * 0x80
/-- CLS.RTPERR_HI (R286). -/
def CLS.RTPERR_HI (i : Nat) : Nat := 0x300000 + 0x134 + i * 0x80
/-- CLS.PTMISS_LO (R286). -/
def CLS.PTMISS_LO (i : Nat) : Nat := 0x300000 + 0x138 + i * 0x80
/-- CLS.PTMISS_HI (R286). -/
def CLS.PTMISS_HI (i : Nat) : Nat := 0x300000 + 0x13C + i * 0x80
/-- CLS.RTCPIN_LO (R286). -/
def CLS.RTCPIN_LO (i : Nat) : Nat := 0x300000 + 0x140 + i * 0x80
/-- CLS.RTCPIN_HI (R286). -/
def CLS.RTCPIN_HI (i : Nat) : Nat := 0x300000 + 0x144 + i * 0x80
/-- CLS.W_CTL (R272). -/
def CLS.W_CTL (i : Nat) : Nat := 0x300000 + 0x1000 + i * 0x40
/-- CLS.W_ETYPE (R272). -/
def CLS.W_ETYPE (i : Nat) : Nat := 0x300000 + 0x1004 + i * 0x40
/-- CLS.W_VID (R272). -/
def CLS.W_VID (i : Nat) : Nat := 0x300000 + 0x1008 + i * 0x40
/-- CLS.W_PROTO (R272). -/
def CLS.W_PROTO (i : Nat) : Nat := 0x300000 + 0x100C + i * 0x40
/-- CLS.W_LPORT (R272). -/
def CLS.W_LPORT (i : Nat) : Nat := 0x300000 + 0x1010 + i * 0x40
/-- CLS.W_RPORT (R272). -/
def CLS.W_RPORT (i : Nat) : Nat := 0x300000 + 0x1014 + i * 0x40
/-- CLS.W_LADDR (R272). -/
def CLS.W_LADDR (i j : Nat) : Nat := 0x300000 + 0x1018 + i * 0x40 + j * 0x4
/-- CLS.W_LPFX (R272). -/
def CLS.W_LPFX (i : Nat) : Nat := 0x300000 + 0x1028 + i * 0x40
/-- CLS.W_RADDR (R272). -/
def CLS.W_RADDR (i j : Nat) : Nat := 0x300000 + 0x102C + i * 0x40 + j * 0x4
/-- CLS.W_RPFX (R272). -/
def CLS.W_RPFX (i : Nat) : Nat := 0x300000 + 0x103C + i * 0x40
/-- CLS.W_HITS_LO (R272). -/
def CLS.W_HITS_LO (i j : Nat) : Nat := 0x300000 + 0x8000 + i * 0x800 + j * 0x8
/-- CLS.W_HITS_HI (R272). -/
def CLS.W_HITS_HI (i j : Nat) : Nat := 0x300000 + 0x8004 + i * 0x800 + j * 0x8
/-- PLY.CFG (R276). -/
def PLY.CFG : Nat := 0x400000
/-- PLY.RECBASE (R275). -/
def PLY.RECBASE : Nat := 0x400000 + 0x4
/-- PLY.TIDMAX (R275). -/
def PLY.TIDMAX : Nat := 0x400000 + 0x8
/-- PLY.SRTPBASE (R274). -/
def PLY.SRTPBASE : Nat := 0x400000 + 0xC
/-- PLY.POOL_BASE (R276). -/
def PLY.POOL_BASE (i : Nat) : Nat := 0x400000 + 0x10 + i * 0x8
/-- PLY.POOL_CFG (R276). -/
def PLY.POOL_CFG (i : Nat) : Nat := 0x400000 + 0x14 + i * 0x8
/-- PLY.FREE (R276). -/
def PLY.FREE (i : Nat) : Nat := 0x400000 + 0x20 + i * 0x4
/-- PLY.NTPOFFS (R284). -/
def PLY.NTPOFFS : Nat := 0x400000 + 0x28
/-- PLY.EVT (R286). -/
def PLY.EVT : Nat := 0x400000 + 0x30
/-- PLY.ERR_LOG (R286). -/
def PLY.ERR_LOG : Nat := 0x400000 + 0x34
/-- PLY.STORED_LO (R286). -/
def PLY.STORED_LO (i : Nat) : Nat := 0x400000 + 0x100 + i * 0x80
/-- PLY.STORED_HI (R286). -/
def PLY.STORED_HI (i : Nat) : Nat := 0x400000 + 0x104 + i * 0x80
/-- PLY.DUP_LO (R286). -/
def PLY.DUP_LO (i : Nat) : Nat := 0x400000 + 0x108 + i * 0x80
/-- PLY.DUP_HI (R286). -/
def PLY.DUP_HI (i : Nat) : Nat := 0x400000 + 0x10C + i * 0x80
/-- PLY.LATE_LO (R286). -/
def PLY.LATE_LO (i : Nat) : Nat := 0x400000 + 0x110 + i * 0x80
/-- PLY.LATE_HI (R286). -/
def PLY.LATE_HI (i : Nat) : Nat := 0x400000 + 0x114 + i * 0x80
/-- PLY.LOST_LO (R286). -/
def PLY.LOST_LO (i : Nat) : Nat := 0x400000 + 0x118 + i * 0x80
/-- PLY.LOST_HI (R286). -/
def PLY.LOST_HI (i : Nat) : Nat := 0x400000 + 0x11C + i * 0x80
/-- PLY.REORDER_LO (R286). -/
def PLY.REORDER_LO (i : Nat) : Nat := 0x400000 + 0x120 + i * 0x80
/-- PLY.REORDER_HI (R286). -/
def PLY.REORDER_HI (i : Nat) : Nat := 0x400000 + 0x124 + i * 0x80
/-- PLY.RESYNC_LO (R286). -/
def PLY.RESYNC_LO (i : Nat) : Nat := 0x400000 + 0x128 + i * 0x80
/-- PLY.RESYNC_HI (R286). -/
def PLY.RESYNC_HI (i : Nat) : Nat := 0x400000 + 0x12C + i * 0x80
/-- PLY.OVERFLOW_LO (R286). -/
def PLY.OVERFLOW_LO (i : Nat) : Nat := 0x400000 + 0x130 + i * 0x80
/-- PLY.OVERFLOW_HI (R286). -/
def PLY.OVERFLOW_HI (i : Nat) : Nat := 0x400000 + 0x134 + i * 0x80
/-- PLY.NOCELL_LO (R286). -/
def PLY.NOCELL_LO (i : Nat) : Nat := 0x400000 + 0x138 + i * 0x80
/-- PLY.NOCELL_HI (R286). -/
def PLY.NOCELL_HI (i : Nat) : Nat := 0x400000 + 0x13C + i * 0x80
/-- PLY.AUTHFAIL_LO (R286). -/
def PLY.AUTHFAIL_LO (i : Nat) : Nat := 0x400000 + 0x140 + i * 0x80
/-- PLY.AUTHFAIL_HI (R286). -/
def PLY.AUTHFAIL_HI (i : Nat) : Nat := 0x400000 + 0x144 + i * 0x80
/-- PLY.REPLAY_LO (R286). -/
def PLY.REPLAY_LO (i : Nat) : Nat := 0x400000 + 0x148 + i * 0x80
/-- PLY.REPLAY_HI (R286). -/
def PLY.REPLAY_HI (i : Nat) : Nat := 0x400000 + 0x14C + i * 0x80
/-- PLY.RTCPTX_LO (R286). -/
def PLY.RTCPTX_LO (i : Nat) : Nat := 0x400000 + 0x150 + i * 0x80
/-- PLY.RTCPTX_HI (R286). -/
def PLY.RTCPTX_HI (i : Nat) : Nat := 0x400000 + 0x154 + i * 0x80
/-- PLY.RTCPRX_LO (R286). -/
def PLY.RTCPRX_LO (i : Nat) : Nat := 0x400000 + 0x158 + i * 0x80
/-- PLY.RTCPRX_HI (R286). -/
def PLY.RTCPRX_HI (i : Nat) : Nat := 0x400000 + 0x15C + i * 0x80
/-- PLY.DISCARD_LO (R286). -/
def PLY.DISCARD_LO (i : Nat) : Nat := 0x400000 + 0x160 + i * 0x80
/-- PLY.DISCARD_HI (R286). -/
def PLY.DISCARD_HI (i : Nat) : Nat := 0x400000 + 0x164 + i * 0x80
/-- PLY.RECLOST_LO (R286). -/
def PLY.RECLOST_LO (i : Nat) : Nat := 0x400000 + 0x168 + i * 0x80
/-- PLY.RECLOST_HI (R286). -/
def PLY.RECLOST_HI (i : Nat) : Nat := 0x400000 + 0x16C + i * 0x80
/-- TDM.CFG (R287). -/
def TDM.CFG (p : Nat) : Nat := tdmBase p
/-- TDM.CTRL (R288). -/
def TDM.CTRL (p : Nat) : Nat := tdmBase p + 0x4
/-- TDM.TIMING (R288). -/
def TDM.TIMING (p : Nat) : Nat := tdmBase p + 0x8
/-- TDM.DLY (R290). -/
def TDM.DLY (p : Nat) : Nat := tdmBase p + 0xC
/-- TDM.IBASE (R291). -/
def TDM.IBASE (p : Nat) : Nat := tdmBase p + 0x10
/-- TDM.EBASE (R291). -/
def TDM.EBASE (p : Nat) : Nat := tdmBase p + 0x14
/-- TDM.TBASE (R291). -/
def TDM.TBASE (p : Nat) : Nat := tdmBase p + 0x18
/-- TDM.STATUS (R289). -/
def TDM.STATUS (p : Nat) : Nat := tdmBase p + 0x20
/-- TDM.FCNT (R291). -/
def TDM.FCNT (p : Nat) : Nat := tdmBase p + 0x24
/-- TDM.EVT (R301). -/
def TDM.EVT (p : Nat) : Nat := tdmBase p + 0x30
/-- TDM.CALSTATUS (R290). -/
def TDM.CALSTATUS (p : Nat) : Nat := tdmBase p + 0x40
/-- TDM.CALAUTO (R290). -/
def TDM.CALAUTO (p : Nat) : Nat := tdmBase p + 0x44
/-- TDM.FRAMES_IN_LO (R301). -/
def TDM.FRAMES_IN_LO (p : Nat) : Nat := tdmBase p + 0x100
/-- TDM.FRAMES_IN_HI (R301). -/
def TDM.FRAMES_IN_HI (p : Nat) : Nat := tdmBase p + 0x104
/-- TDM.FRAMES_OUT_LO (R301). -/
def TDM.FRAMES_OUT_LO (p : Nat) : Nat := tdmBase p + 0x108
/-- TDM.FRAMES_OUT_HI (R301). -/
def TDM.FRAMES_OUT_HI (p : Nat) : Nat := tdmBase p + 0x10C
/-- TDM.IDLETX_LO (R301). -/
def TDM.IDLETX_LO (p : Nat) : Nat := tdmBase p + 0x110
/-- TDM.IDLETX_HI (R301). -/
def TDM.IDLETX_HI (p : Nat) : Nat := tdmBase p + 0x114
/-- TDM.SLIP_LO (R301). -/
def TDM.SLIP_LO (p : Nat) : Nat := tdmBase p + 0x118
/-- TDM.SLIP_HI (R301). -/
def TDM.SLIP_HI (p : Nat) : Nat := tdmBase p + 0x11C
/-- TDM.FSERR_LO (R301). -/
def TDM.FSERR_LO (p : Nat) : Nat := tdmBase p + 0x120
/-- TDM.FSERR_HI (R301). -/
def TDM.FSERR_HI (p : Nat) : Nat := tdmBase p + 0x124
/-- TDM.LOF_LO (R301). -/
def TDM.LOF_LO (p : Nat) : Nat := tdmBase p + 0x128
/-- TDM.LOF_HI (R301). -/
def TDM.LOF_HI (p : Nat) : Nat := tdmBase p + 0x12C
/-- TDM.CASCHG_LO (R301). -/
def TDM.CASCHG_LO (p : Nat) : Nat := tdmBase p + 0x130
/-- TDM.CASCHG_HI (R301). -/
def TDM.CASCHG_HI (p : Nat) : Nat := tdmBase p + 0x134
/-- TDM.HRXFRAMES_LO (R301). -/
def TDM.HRXFRAMES_LO (p : Nat) : Nat := tdmBase p + 0x138
/-- TDM.HRXFRAMES_HI (R301). -/
def TDM.HRXFRAMES_HI (p : Nat) : Nat := tdmBase p + 0x13C
/-- TDM.HTXFRAMES_LO (R301). -/
def TDM.HTXFRAMES_LO (p : Nat) : Nat := tdmBase p + 0x140
/-- TDM.HTXFRAMES_HI (R301). -/
def TDM.HTXFRAMES_HI (p : Nat) : Nat := tdmBase p + 0x144
/-- TDM.HFCSERR_LO (R301). -/
def TDM.HFCSERR_LO (p : Nat) : Nat := tdmBase p + 0x148
/-- TDM.HFCSERR_HI (R301). -/
def TDM.HFCSERR_HI (p : Nat) : Nat := tdmBase p + 0x14C
/-- TDM.HABORT_LO (R301). -/
def TDM.HABORT_LO (p : Nat) : Nat := tdmBase p + 0x150
/-- TDM.HABORT_HI (R301). -/
def TDM.HABORT_HI (p : Nat) : Nat := tdmBase p + 0x154
/-- TDM.HOVERLONG_LO (R301). -/
def TDM.HOVERLONG_LO (p : Nat) : Nat := tdmBase p + 0x158
/-- TDM.HOVERLONG_HI (R301). -/
def TDM.HOVERLONG_HI (p : Nat) : Nat := tdmBase p + 0x15C
/-- TDM.HRXLOST_LO (R301). -/
def TDM.HRXLOST_LO (p : Nat) : Nat := tdmBase p + 0x160
/-- TDM.HRXLOST_HI (R301). -/
def TDM.HRXLOST_HI (p : Nat) : Nat := tdmBase p + 0x164
/-- TDM.HTXBAD_LO (R301). -/
def TDM.HTXBAD_LO (p : Nat) : Nat := tdmBase p + 0x168
/-- TDM.HTXBAD_HI (R301). -/
def TDM.HTXBAD_HI (p : Nat) : Nat := tdmBase p + 0x16C
/-- TDM.HCFG (R298). -/
def TDM.HCFG (p i : Nat) : Nat := tdmBase p + 0x1000 + i * 0x10
/-- TDM.HRXC (R299). -/
def TDM.HRXC (p i : Nat) : Nat := tdmBase p + 0x1004 + i * 0x10
/-- TDM.HTXC (R299). -/
def TDM.HTXC (p i : Nat) : Nat := tdmBase p + 0x1008 + i * 0x10
/-- TDM.HSTAT (R298). -/
def TDM.HSTAT (p i : Nat) : Nat := tdmBase p + 0x100C + i * 0x10
/-- TDM.CASRX (R297). -/
def TDM.CASRX (p i j : Nat) : Nat := tdmBase p + 0x2000 + i * 0x10 + j * 0x4
/-- TDM.CASRX3 (R297). -/
def TDM.CASRX3 (p i : Nat) : Nat := tdmBase p + 0x200C + i * 0x10
/-- TDM.CASTX (R297). -/
def TDM.CASTX (p i j : Nat) : Nat := tdmBase p + 0x2400 + i * 0x10 + j * 0x4
/-- TDM.CASTX3 (R297). -/
def TDM.CASTX3 (p i : Nat) : Nat := tdmBase p + 0x240C + i * 0x10
/-- TDM.CASCHG (R297). -/
def TDM.CASCHG (p i : Nat) : Nat := tdmBase p + 0x2800 + i * 0x4
/-- TDM.CASSTAT (R297). -/
def TDM.CASSTAT (p i : Nat) : Nat := tdmBase p + 0x2C00 + i * 0x4
/-- MAC.CFG (R302). -/
def MAC.CFG (m : Nat) : Nat := macBase m
/-- MAC.CTRL (R303). -/
def MAC.CTRL (m : Nat) : Nat := macBase m + 0x4
/-- MAC.STATUS (R303). -/
def MAC.STATUS (m : Nat) : Nat := macBase m + 0x8
/-- MAC.MAXLEN (R304). -/
def MAC.MAXLEN (m : Nat) : Nat := macBase m + 0xC
/-- MAC.PAUSE (R315). -/
def MAC.PAUSE (m : Nat) : Nat := macBase m + 0x10
/-- MAC.TPID (R304). -/
def MAC.TPID (m : Nat) : Nat := macBase m + 0x14
/-- MAC.ADDRLO (R304). -/
def MAC.ADDRLO (m : Nat) : Nat := macBase m + 0x18
/-- MAC.ADDRHI (R304). -/
def MAC.ADDRHI (m : Nat) : Nat := macBase m + 0x1C
/-- MAC.EGRESS (R307). -/
def MAC.EGRESS (m : Nat) : Nat := macBase m + 0x20
/-- MAC.TSADJ (R317). -/
def MAC.TSADJ (m : Nat) : Nat := macBase m + 0x24
/-- MAC.SERDES (R302). -/
def MAC.SERDES (m : Nat) : Nat := macBase m + 0x28
/-- MAC.EVT (R303). -/
def MAC.EVT (m : Nat) : Nat := macBase m + 0x30
/-- MAC.RXFRAMES_LO (R319). -/
def MAC.RXFRAMES_LO (m : Nat) : Nat := macBase m + 0x100
/-- MAC.RXFRAMES_HI (R319). -/
def MAC.RXFRAMES_HI (m : Nat) : Nat := macBase m + 0x104
/-- MAC.RXOCTETS_LO (R319). -/
def MAC.RXOCTETS_LO (m : Nat) : Nat := macBase m + 0x108
/-- MAC.RXOCTETS_HI (R319). -/
def MAC.RXOCTETS_HI (m : Nat) : Nat := macBase m + 0x10C
/-- MAC.RXBCAST_LO (R319). -/
def MAC.RXBCAST_LO (m : Nat) : Nat := macBase m + 0x110
/-- MAC.RXBCAST_HI (R319). -/
def MAC.RXBCAST_HI (m : Nat) : Nat := macBase m + 0x114
/-- MAC.RXMCAST_LO (R319). -/
def MAC.RXMCAST_LO (m : Nat) : Nat := macBase m + 0x118
/-- MAC.RXMCAST_HI (R319). -/
def MAC.RXMCAST_HI (m : Nat) : Nat := macBase m + 0x11C
/-- MAC.RUNT_LO (R319). -/
def MAC.RUNT_LO (m : Nat) : Nat := macBase m + 0x120
/-- MAC.RUNT_HI (R319). -/
def MAC.RUNT_HI (m : Nat) : Nat := macBase m + 0x124
/-- MAC.OVERSIZE_LO (R319). -/
def MAC.OVERSIZE_LO (m : Nat) : Nat := macBase m + 0x128
/-- MAC.OVERSIZE_HI (R319). -/
def MAC.OVERSIZE_HI (m : Nat) : Nat := macBase m + 0x12C
/-- MAC.FCSERR_LO (R319). -/
def MAC.FCSERR_LO (m : Nat) : Nat := macBase m + 0x130
/-- MAC.FCSERR_HI (R319). -/
def MAC.FCSERR_HI (m : Nat) : Nat := macBase m + 0x134
/-- MAC.DAFILT_LO (R319). -/
def MAC.DAFILT_LO (m : Nat) : Nat := macBase m + 0x138
/-- MAC.DAFILT_HI (R319). -/
def MAC.DAFILT_HI (m : Nat) : Nat := macBase m + 0x13C
/-- MAC.RXOVF_LO (R319). -/
def MAC.RXOVF_LO (m : Nat) : Nat := macBase m + 0x140
/-- MAC.RXOVF_HI (R319). -/
def MAC.RXOVF_HI (m : Nat) : Nat := macBase m + 0x144
/-- MAC.PAUSERX_LO (R319). -/
def MAC.PAUSERX_LO (m : Nat) : Nat := macBase m + 0x148
/-- MAC.PAUSERX_HI (R319). -/
def MAC.PAUSERX_HI (m : Nat) : Nat := macBase m + 0x14C
/-- MAC.PAUSEWD_LO (R319). -/
def MAC.PAUSEWD_LO (m : Nat) : Nat := macBase m + 0x150
/-- MAC.PAUSEWD_HI (R319). -/
def MAC.PAUSEWD_HI (m : Nat) : Nat := macBase m + 0x154
/-- MAC.TXFRAMES_LO (R319). -/
def MAC.TXFRAMES_LO (m : Nat) : Nat := macBase m + 0x158
/-- MAC.TXFRAMES_HI (R319). -/
def MAC.TXFRAMES_HI (m : Nat) : Nat := macBase m + 0x15C
/-- MAC.TXOCTETS_LO (R319). -/
def MAC.TXOCTETS_LO (m : Nat) : Nat := macBase m + 0x160
/-- MAC.TXOCTETS_HI (R319). -/
def MAC.TXOCTETS_HI (m : Nat) : Nat := macBase m + 0x164
/-- MAC.PAUSETX_LO (R319). -/
def MAC.PAUSETX_LO (m : Nat) : Nat := macBase m + 0x168
/-- MAC.PAUSETX_HI (R319). -/
def MAC.PAUSETX_HI (m : Nat) : Nat := macBase m + 0x16C
/-- MAC.TXOVERSIZE_LO (R319). -/
def MAC.TXOVERSIZE_LO (m : Nat) : Nat := macBase m + 0x170
/-- MAC.TXOVERSIZE_HI (R319). -/
def MAC.TXOVERSIZE_HI (m : Nat) : Nat := macBase m + 0x174
/-- MAC.TXBAD_LO (R319). -/
def MAC.TXBAD_LO (m : Nat) : Nat := macBase m + 0x178
/-- MAC.TXBAD_HI (R319). -/
def MAC.TXBAD_HI (m : Nat) : Nat := macBase m + 0x17C
/-- MAC.TXDISC_LO (R319). -/
def MAC.TXDISC_LO (m : Nat) : Nat := macBase m + 0x180
/-- MAC.TXDISC_HI (R319). -/
def MAC.TXDISC_HI (m : Nat) : Nat := macBase m + 0x184
/-- MAC.FECCORR_LO (R319). -/
def MAC.FECCORR_LO (m : Nat) : Nat := macBase m + 0x188
/-- MAC.FECCORR_HI (R319). -/
def MAC.FECCORR_HI (m : Nat) : Nat := macBase m + 0x18C
/-- MAC.FECUNC_LO (R319). -/
def MAC.FECUNC_LO (m : Nat) : Nat := macBase m + 0x190
/-- MAC.FECUNC_HI (R319). -/
def MAC.FECUNC_HI (m : Nat) : Nat := macBase m + 0x194
/-- MAC.COLL_LO (R319). -/
def MAC.COLL_LO (m : Nat) : Nat := macBase m + 0x198
/-- MAC.COLL_HI (R319). -/
def MAC.COLL_HI (m : Nat) : Nat := macBase m + 0x19C
/-- MAC.LATECOL_LO (R319). -/
def MAC.LATECOL_LO (m : Nat) : Nat := macBase m + 0x1A0
/-- MAC.LATECOL_HI (R319). -/
def MAC.LATECOL_HI (m : Nat) : Nat := macBase m + 0x1A4
/-- MAC.EXCOL_LO (R319). -/
def MAC.EXCOL_LO (m : Nat) : Nat := macBase m + 0x1A8
/-- MAC.EXCOL_HI (R319). -/
def MAC.EXCOL_HI (m : Nat) : Nat := macBase m + 0x1AC
/-- MAC.WCFG (R319). -/
def MAC.WCFG (m i : Nat) : Nat := macBase m + 0x800 + i * 0x100
/-- MAC.WMASK (R319). -/
def MAC.WMASK (m i j : Nat) : Nat := macBase m + 0x810 + i * 0x100 + j * 0x4
/-- MAC.WDATA (R319). -/
def MAC.WDATA (m i j : Nat) : Nat := macBase m + 0x880 + i * 0x100 + j * 0x4
/-- MACM.RGMII (R302). -/
def MACM.RGMII : Nat := 0x700000 + 0x28
/-- MACM.MDIOCMD (R302). -/
def MACM.MDIOCMD : Nat := 0x700000 + 0x40
/-- MACM.MDIO_STATUS (R302). -/
def MACM.MDIO_STATUS : Nat := 0x700000 + 0x44
/-- MACM.MDIO_DATA (R302). -/
def MACM.MDIO_DATA : Nat := 0x700000 + 0x48
/-- MACM.RQ_BASELO (R310). -/
def MACM.RQ_BASELO (i : Nat) : Nat := 0x700000 + 0x8000 + i * 0x40
/-- MACM.RQ_BASEHI (R310). -/
def MACM.RQ_BASEHI (i : Nat) : Nat := 0x700000 + 0x8004 + i * 0x40
/-- MACM.RQ_CFG (R310). -/
def MACM.RQ_CFG (i : Nat) : Nat := 0x700000 + 0x8008 + i * 0x40
/-- MACM.RQ_TAIL (R310). -/
def MACM.RQ_TAIL (i : Nat) : Nat := 0x700000 + 0x800C + i * 0x40
/-- MACM.RQ_HEAD (R310). -/
def MACM.RQ_HEAD (i : Nat) : Nat := 0x700000 + 0x8010 + i * 0x40
/-- MACM.RQ_CASK (R311). -/
def MACM.RQ_CASK (i : Nat) : Nat := 0x700000 + 0x8014 + i * 0x40
/-- MACM.RQ_FRAMES_LO (R310). -/
def MACM.RQ_FRAMES_LO (i : Nat) : Nat := 0x700000 + 0x8018 + i * 0x40
/-- MACM.RQ_FRAMES_HI (R310). -/
def MACM.RQ_FRAMES_HI (i : Nat) : Nat := 0x700000 + 0x801C + i * 0x40
/-- MACM.RQ_DROPS_LO (R310). -/
def MACM.RQ_DROPS_LO (i : Nat) : Nat := 0x700000 + 0x8020 + i * 0x40
/-- MACM.RQ_DROPS_HI (R310). -/
def MACM.RQ_DROPS_HI (i : Nat) : Nat := 0x700000 + 0x8024 + i * 0x40
/-- MACM.TQ_BASELO (R310). -/
def MACM.TQ_BASELO (i : Nat) : Nat := 0x700000 + 0x9000 + i * 0x40
/-- MACM.TQ_BASEHI (R310). -/
def MACM.TQ_BASEHI (i : Nat) : Nat := 0x700000 + 0x9004 + i * 0x40
/-- MACM.TQ_CFG (R307). -/
def MACM.TQ_CFG (i : Nat) : Nat := 0x700000 + 0x9008 + i * 0x40
/-- MACM.TQ_TAIL (R310). -/
def MACM.TQ_TAIL (i : Nat) : Nat := 0x700000 + 0x900C + i * 0x40
/-- MACM.TQ_HEAD (R310). -/
def MACM.TQ_HEAD (i : Nat) : Nat := 0x700000 + 0x9010 + i * 0x40
/-- MACM.TQ_FRAMES_LO (R310). -/
def MACM.TQ_FRAMES_LO (i : Nat) : Nat := 0x700000 + 0x9018 + i * 0x40
/-- MACM.TQ_FRAMES_HI (R310). -/
def MACM.TQ_FRAMES_HI (i : Nat) : Nat := 0x700000 + 0x901C + i * 0x40
/-- MACM.TQ_DROPS_LO (R310). -/
def MACM.TQ_DROPS_LO (i : Nat) : Nat := 0x700000 + 0x9020 + i * 0x40
/-- MACM.TQ_DROPS_HI (R310). -/
def MACM.TQ_DROPS_HI (i : Nat) : Nat := 0x700000 + 0x9024 + i * 0x40
/-- HIF.STATUS (R320). -/
def HIF.STATUS : Nat := 0x40000
/-- HIF.EVT (R437). -/
def HIF.EVT : Nat := 0x40000 + 0x10
/-- HIF.WRDROP_LO (R437). -/
def HIF.WRDROP_LO : Nat := 0x40000 + 0x100
/-- HIF.WRDROP_HI (R437). -/
def HIF.WRDROP_HI : Nat := 0x40000 + 0x104
/-- HIF.RDDECODE_LO (R437). -/
def HIF.RDDECODE_LO : Nat := 0x40000 + 0x108
/-- HIF.RDDECODE_HI (R437). -/
def HIF.RDDECODE_HI : Nat := 0x40000 + 0x10C
/-- HIF.PARTIAL_LO (R437). -/
def HIF.PARTIAL_LO : Nat := 0x40000 + 0x110
/-- HIF.PARTIAL_HI (R437). -/
def HIF.PARTIAL_HI : Nat := 0x40000 + 0x114
/-- HIF.KWABORT_LO (R437). -/
def HIF.KWABORT_LO : Nat := 0x40000 + 0x118
/-- HIF.KWABORT_HI (R437). -/
def HIF.KWABORT_HI : Nat := 0x40000 + 0x11C
/-- HIF.POISONRD_LO (R437). -/
def HIF.POISONRD_LO : Nat := 0x40000 + 0x120
/-- HIF.POISONRD_HI (R437). -/
def HIF.POISONRD_HI : Nat := 0x40000 + 0x124
/-- HIF.DMA_CFG (R327). -/
def HIF.DMA_CFG (i : Nat) : Nat := 0x40000 + 0x400 + i * 0x40
/-- HIF.DMA_BASELO (R327). -/
def HIF.DMA_BASELO (i : Nat) : Nat := 0x40000 + 0x404 + i * 0x40
/-- HIF.DMA_BASEHI (R327). -/
def HIF.DMA_BASEHI (i : Nat) : Nat := 0x40000 + 0x408 + i * 0x40
/-- HIF.DMA_CBLO (R329). -/
def HIF.DMA_CBLO (i : Nat) : Nat := 0x40000 + 0x40C + i * 0x40
/-- HIF.DMA_CBHI (R329). -/
def HIF.DMA_CBHI (i : Nat) : Nat := 0x40000 + 0x410 + i * 0x40
/-- HIF.DMA_HOSTCNT (R327). -/
def HIF.DMA_HOSTCNT (i : Nat) : Nat := 0x40000 + 0x414 + i * 0x40
/-- HIF.DMA_HEAD (R327). -/
def HIF.DMA_HEAD (i : Nat) : Nat := 0x40000 + 0x418 + i * 0x40
/-- HIF.DMA_STATUS (R331). -/
def HIF.DMA_STATUS (i : Nat) : Nat := 0x40000 + 0x41C + i * 0x40
/-- HIF.DMA_EVT (R331). -/
def HIF.DMA_EVT (i : Nat) : Nat := 0x40000 + 0x420 + i * 0x40
/-- EVT.RAW (R332). -/
def EVT.RAW (i : Nat) : Nat := 0x30000 + i * 0x4
/-- EVT.ACT (R334). -/
def EVT.ACT (i : Nat) : Nat := 0x30000 + 0x20 + i * 0x4
/-- EVT.ERRC (R333). -/
def EVT.ERRC : Nat := 0x30000 + 0x40
/-- EVT.VACT (R334). -/
def EVT.VACT (i : Nat) : Nat := 0x30000 + 0x80 + i * 0x4
/-- EVT.VINSVC (R335). -/
def EVT.VINSVC (i : Nat) : Nat := 0x30000 + 0x88 + i * 0x4
/-- EVT.VACK (R335). -/
def EVT.VACK (i : Nat) : Nat := 0x30000 + 0x90 + i * 0x4
/-- EVT.VPIN (R336). -/
def EVT.VPIN (i : Nat) : Nat := 0x30000 + 0xA0 + i * 0x4
/-- EVT.PINCFG (R336). -/
def EVT.PINCFG : Nat := 0x30000 + 0xC0
/-- EVT.ROUTE (R334). -/
def EVT.ROUTE (i : Nat) : Nat := 0x30000 + 0x100 + i * 0x4
/-- GLB.EVT (R332). -/
def GLB.EVT : Nat := 0x40
/-- TIME.CFG (R348). -/
def TIME.CFG : Nat := 0x20000
/-- TIME.STATUS (R346). -/
def TIME.STATUS : Nat := 0x20000 + 0x4
/-- TIME.EVT (R346). -/
def TIME.EVT : Nat := 0x20000 + 0x10
/-- TIME.TB2CTL (R345). -/
def TIME.TB2CTL : Nat := 0x20000 + 0x20
/-- TIME.TB2DIFF (R346). -/
def TIME.TB2DIFF : Nat := 0x20000 + 0x24
/-- TIME.CAPTURE (R343). -/
def TIME.CAPTURE : Nat := 0x20000 + 0x30
/-- TIME.CAP_STATUS (R343). -/
def TIME.CAP_STATUS : Nat := 0x20000 + 0x40
/-- TIME.CAP_SECHI (R343). -/
def TIME.CAP_SECHI (i : Nat) : Nat := 0x20000 + 0x44 + i * 0x10
/-- TIME.CAP_SECLO (R343). -/
def TIME.CAP_SECLO (i : Nat) : Nat := 0x20000 + 0x48 + i * 0x10
/-- TIME.CAP_NS (R343). -/
def TIME.CAP_NS (i : Nat) : Nat := 0x20000 + 0x4C + i * 0x10
/-- TIME.CAP_FRAC (R343). -/
def TIME.CAP_FRAC (i : Nat) : Nat := 0x20000 + 0x50 + i * 0x10
/-- TIME.CAP_CALHI (R343). -/
def TIME.CAP_CALHI : Nat := 0x20000 + 0x84
/-- TIME.CAP_CALLO (R343). -/
def TIME.CAP_CALLO : Nat := 0x20000 + 0x88
/-- TIME.CAP_CALFR (R343). -/
def TIME.CAP_CALFR : Nat := 0x20000 + 0x8C
/-- TIME.INCHI (R340). -/
def TIME.INCHI (i : Nat) : Nat := 0x20000 + 0x100 + i * 0x40
/-- TIME.INCLO (R340). -/
def TIME.INCLO (i : Nat) : Nat := 0x20000 + 0x104 + i * 0x40
/-- TIME.INCHI_RO (R340). -/
def TIME.INCHI_RO (i : Nat) : Nat := 0x20000 + 0x180 + i * 0x40
/-- TIME.INCLO_RO (R340). -/
def TIME.INCLO_RO (i : Nat) : Nat := 0x20000 + 0x184 + i * 0x40
/-- TIME.ADJ (R341). -/
def TIME.ADJ (i : Nat) : Nat := 0x20000 + 0x108 + i * 0x40
/-- TIME.ADJREM (R341). -/
def TIME.ADJREM (i : Nat) : Nat := 0x20000 + 0x10C + i * 0x40
/-- TIME.DCFG (R344). -/
def TIME.DCFG (i : Nat) : Nat := 0x20000 + 0x110 + i * 0x40
/-- TIME.CMD (R342). -/
def TIME.CMD (i : Nat) : Nat := 0x20000 + 0x118 + i * 0x40
/-- TIME.VSECHI (R342). -/
def TIME.VSECHI (i : Nat) : Nat := 0x20000 + 0x11C + i * 0x40
/-- TIME.VSECLO (R342). -/
def TIME.VSECLO (i : Nat) : Nat := 0x20000 + 0x120 + i * 0x40
/-- TIME.VNS (R342). -/
def TIME.VNS (i : Nat) : Nat := 0x20000 + 0x124 + i * 0x40
/-- TIME.CMD_STATUS (R342). -/
def TIME.CMD_STATUS (i : Nat) : Nat := 0x20000 + 0x128 + i * 0x40
/-- TIME.PPSOUT (R350). -/
def TIME.PPSOUT : Nat := 0x20000 + 0x300
/-- TIME.PPSIN_CFG (R351). -/
def TIME.PPSIN_CFG : Nat := 0x20000 + 0x304
/-- TIME.PPSIN_STATUS (R351). -/
def TIME.PPSIN_STATUS : Nat := 0x20000 + 0x310
/-- TIME.PPSIN_SECLO (R351). -/
def TIME.PPSIN_SECLO (i : Nat) : Nat := 0x20000 + 0x314 + i * 0x8
/-- TIME.PPSIN_NS (R351). -/
def TIME.PPSIN_NS (i : Nat) : Nat := 0x20000 + 0x318 + i * 0x8
/-- TIME.CALCFG (R352). -/
def TIME.CALCFG : Nat := 0x20000 + 0x400
/-- TIME.CALSETHI (R352). -/
def TIME.CALSETHI : Nat := 0x20000 + 0x404
/-- TIME.CALSETLO (R352). -/
def TIME.CALSETLO : Nat := 0x20000 + 0x408
/-- TIME.CALCMD (R352). -/
def TIME.CALCMD : Nat := 0x20000 + 0x40C
/-- TIME.CAL_STATUS (R352). -/
def TIME.CAL_STATUS : Nat := 0x20000 + 0x410
/-- TIME.ALARMHI (R353). -/
def TIME.ALARMHI : Nat := 0x20000 + 0x414
/-- TIME.ALARMLO (R353). -/
def TIME.ALARMLO : Nat := 0x20000 + 0x418
/-- TIME.PPSIN_LO (R354). -/
def TIME.PPSIN_LO : Nat := 0x20000 + 0x500
/-- TIME.PPSIN_HI (R354). -/
def TIME.PPSIN_HI : Nat := 0x20000 + 0x504
/-- TIME.PPSGLITCH_LO (R354). -/
def TIME.PPSGLITCH_LO : Nat := 0x20000 + 0x508
/-- TIME.PPSGLITCH_HI (R354). -/
def TIME.PPSGLITCH_HI : Nat := 0x20000 + 0x50C
/-- TIME.REFLOSS_LO (R354). -/
def TIME.REFLOSS_LO : Nat := 0x20000 + 0x510
/-- TIME.REFLOSS_HI (R354). -/
def TIME.REFLOSS_HI : Nat := 0x20000 + 0x514
/-- TIME.HOLDOVERS_LO (R354). -/
def TIME.HOLDOVERS_LO : Nat := 0x20000 + 0x518
/-- TIME.HOLDOVERS_HI (R354). -/
def TIME.HOLDOVERS_HI : Nat := 0x20000 + 0x51C
/-- TIME.SWITCHES_LO (R354). -/
def TIME.SWITCHES_LO : Nat := 0x20000 + 0x520
/-- TIME.SWITCHES_HI (R354). -/
def TIME.SWITCHES_HI : Nat := 0x20000 + 0x524
/-- TIME.ALIGNS_LO (R354). -/
def TIME.ALIGNS_LO : Nat := 0x20000 + 0x528
/-- TIME.ALIGNS_HI (R354). -/
def TIME.ALIGNS_HI : Nat := 0x20000 + 0x52C
/-- TIME.CLAMPS_LO (R354). -/
def TIME.CLAMPS_LO : Nat := 0x20000 + 0x530
/-- TIME.CLAMPS_HI (R354). -/
def TIME.CLAMPS_HI : Nat := 0x20000 + 0x534
/-- WDN.CFG (R355). -/
def WDN.CFG (d : Nat) : Nat := wdnBase d
/-- WDN.STATUS (R357). -/
def WDN.STATUS (d : Nat) : Nat := wdnBase d + 0x4
/-- WDN.EVT (R368). -/
def WDN.EVT (d : Nat) : Nat := wdnBase d + 0x10
/-- WDN.ERR_LOG (R368). -/
def WDN.ERR_LOG (d : Nat) : Nat := wdnBase d + 0x14
/-- WDN.PCMT (R357). -/
def WDN.PCMT (d : Nat) : Nat := wdnBase d + 0x20
/-- WDN.POLBASE (R357). -/
def WDN.POLBASE (d : Nat) : Nat := wdnBase d + 0x24
/-- WDN.PSTATUS (R357). -/
def WDN.PSTATUS (d : Nat) : Nat := wdnBase d + 0x30
/-- WDN.CLCMD (R362). -/
def WDN.CLCMD (d : Nat) : Nat := wdnBase d + 0x40
/-- WDN.CLSTATUS (R362). -/
def WDN.CLSTATUS (d : Nat) : Nat := wdnBase d + 0x50
/-- WDN.CLSTATUS1 (R362). -/
def WDN.CLSTATUS1 (d : Nat) : Nat := wdnBase d + 0x54
/-- WDN.RHCMD (R365). -/
def WDN.RHCMD (d : Nat) : Nat := wdnBase d + 0x60
/-- WDN.RHSTATUS (R365). -/
def WDN.RHSTATUS (d : Nat) : Nat := wdnBase d + 0x70
/-- WDN.RHSTATUS_TID (R365). -/
def WDN.RHSTATUS_TID (d : Nat) : Nat := wdnBase d + 0x74
/-- WDN.RHSTATUS_CL (R365). -/
def WDN.RHSTATUS_CL (d : Nat) : Nat := wdnBase d + 0x78
/-- WDN.STAGEBASE (R365). -/
def WDN.STAGEBASE (d : Nat) : Nat := wdnBase d + 0x80
/-- WDN.EVCASK (R368). -/
def WDN.EVCASK (d : Nat) : Nat := wdnBase d + 0x84
/-- WDN.DVFS_STATUS (R356). -/
def WDN.DVFS_STATUS (d : Nat) : Nat := wdnBase d + 0x90
/-- WDN.ADJUSTS_LO (R368). -/
def WDN.ADJUSTS_LO (d : Nat) : Nat := wdnBase d + 0x100
/-- WDN.ADJUSTS_HI (R368). -/
def WDN.ADJUSTS_HI (d : Nat) : Nat := wdnBase d + 0x104
/-- WDN.ADVISES_LO (R368). -/
def WDN.ADVISES_LO (d : Nat) : Nat := wdnBase d + 0x108
/-- WDN.ADVISES_HI (R368). -/
def WDN.ADVISES_HI (d : Nat) : Nat := wdnBase d + 0x10C
/-- WDN.REHOMES_LO (R368). -/
def WDN.REHOMES_LO (d : Nat) : Nat := wdnBase d + 0x110
/-- WDN.REHOMES_HI (R368). -/
def WDN.REHOMES_HI (d : Nat) : Nat := wdnBase d + 0x114
/-- WDN.ABORTS_LO (R368). -/
def WDN.ABORTS_LO (d : Nat) : Nat := wdnBase d + 0x118
/-- WDN.ABORTS_HI (R368). -/
def WDN.ABORTS_HI (d : Nat) : Nat := wdnBase d + 0x11C
/-- WDN.EVACS_LO (R368). -/
def WDN.EVACS_LO (d : Nat) : Nat := wdnBase d + 0x120
/-- WDN.EVACS_HI (R368). -/
def WDN.EVACS_HI (d : Nat) : Nat := wdnBase d + 0x124
/-- WDN.PROMOTIONS_LO (R368). -/
def WDN.PROMOTIONS_LO (d : Nat) : Nat := wdnBase d + 0x128
/-- WDN.PROMOTIONS_HI (R368). -/
def WDN.PROMOTIONS_HI (d : Nat) : Nat := wdnBase d + 0x12C
/-- WDN.NOROOM_LO (R368). -/
def WDN.NOROOM_LO (d : Nat) : Nat := wdnBase d + 0x130
/-- WDN.NOROOM_HI (R368). -/
def WDN.NOROOM_HI (d : Nat) : Nat := wdnBase d + 0x134
/-- WDN.LATERUNS_LO (R368). -/
def WDN.LATERUNS_LO (d : Nat) : Nat := wdnBase d + 0x138
/-- WDN.LATERUNS_HI (R368). -/
def WDN.LATERUNS_HI (d : Nat) : Nat := wdnBase d + 0x13C
/-- WDN.RECLOST_LO (R368). -/
def WDN.RECLOST_LO (d : Nat) : Nat := wdnBase d + 0x140
/-- WDN.RECLOST_HI (R368). -/
def WDN.RECLOST_HI (d : Nat) : Nat := wdnBase d + 0x144
/-- PRS.CFG (R373). -/
def PRS.CFG (i : Nat) : Nat := 0x500000 + i * 0x100
/-- PRS.STATUS (R380). -/
def PRS.STATUS (i : Nat) : Nat := 0x500000 + 0x4 + i * 0x100
/-- PRS.EVT (R380). -/
def PRS.EVT (i : Nat) : Nat := 0x500000 + 0x10 + i * 0x100
/-- PRS.ERR_LOG (R380). -/
def PRS.ERR_LOG (i : Nat) : Nat := 0x500000 + 0x14 + i * 0x100
/-- PRS.JOBS_LO (R380). -/
def PRS.JOBS_LO (i : Nat) : Nat := 0x500000 + 0x800 + i * 0x100
/-- PRS.JOBS_HI (R380). -/
def PRS.JOBS_HI (i : Nat) : Nat := 0x500000 + 0x804 + i * 0x100
/-- PRS.ERRORS_LO (R380). -/
def PRS.ERRORS_LO (i : Nat) : Nat := 0x500000 + 0x808 + i * 0x100
/-- PRS.ERRORS_HI (R380). -/
def PRS.ERRORS_HI (i : Nat) : Nat := 0x500000 + 0x80C + i * 0x100
/-- PRS.BADJOB_LO (R380). -/
def PRS.BADJOB_LO (i : Nat) : Nat := 0x500000 + 0x810 + i * 0x100
/-- PRS.BADJOB_HI (R380). -/
def PRS.BADJOB_HI (i : Nat) : Nat := 0x500000 + 0x814 + i * 0x100
/-- PRS.INBYTES_LO (R380). -/
def PRS.INBYTES_LO (i : Nat) : Nat := 0x500000 + 0x818 + i * 0x100
/-- PRS.INBYTES_HI (R380). -/
def PRS.INBYTES_HI (i : Nat) : Nat := 0x500000 + 0x81C + i * 0x100
/-- PRS.OUTBYTES_LO (R380). -/
def PRS.OUTBYTES_LO (i : Nat) : Nat := 0x500000 + 0x820 + i * 0x100
/-- PRS.OUTBYTES_HI (R380). -/
def PRS.OUTBYTES_HI (i : Nat) : Nat := 0x500000 + 0x824 + i * 0x100
/-- TRC.CFG (R388). -/
def TRC.CFG (i : Nat) : Nat := 0x600000 + i * 0x100
/-- TRC.STATUS (R389). -/
def TRC.STATUS (i : Nat) : Nat := 0x600000 + 0x4 + i * 0x100
/-- TRC.EVT (R390). -/
def TRC.EVT (i : Nat) : Nat := 0x600000 + 0x10 + i * 0x100
/-- TRC.ERR_LOG (R388). -/
def TRC.ERR_LOG (i : Nat) : Nat := 0x600000 + 0x14 + i * 0x100
/-- TRC.ENTRIES_LO (R390). -/
def TRC.ENTRIES_LO (i : Nat) : Nat := 0x600000 + 0x800 + i * 0x100
/-- TRC.ENTRIES_HI (R390). -/
def TRC.ENTRIES_HI (i : Nat) : Nat := 0x600000 + 0x804 + i * 0x100
/-- TRC.SEGMENTS_LO (R390). -/
def TRC.SEGMENTS_LO (i : Nat) : Nat := 0x600000 + 0x808 + i * 0x100
/-- TRC.SEGMENTS_HI (R390). -/
def TRC.SEGMENTS_HI (i : Nat) : Nat := 0x600000 + 0x80C + i * 0x100
/-- TRC.MISSTRIG_LO (R390). -/
def TRC.MISSTRIG_LO (i : Nat) : Nat := 0x600000 + 0x810 + i * 0x100
/-- TRC.MISSTRIG_HI (R390). -/
def TRC.MISSTRIG_HI (i : Nat) : Nat := 0x600000 + 0x814 + i * 0x100
/-- TRC.DROPPED_LO (R390). -/
def TRC.DROPPED_LO (i : Nat) : Nat := 0x600000 + 0x818 + i * 0x100
/-- TRC.DROPPED_HI (R390). -/
def TRC.DROPPED_HI (i : Nat) : Nat := 0x600000 + 0x81C + i * 0x100
/-- TRC.UNCLAIMED_LO (R390). -/
def TRC.UNCLAIMED_LO (i : Nat) : Nat := 0x600000 + 0x820 + i * 0x100
/-- TRC.UNCLAIMED_HI (R390). -/
def TRC.UNCLAIMED_HI (i : Nat) : Nat := 0x600000 + 0x824 + i * 0x100
/-- TRC.P_PCFG (R388). -/
def TRC.P_PCFG (i j : Nat) : Nat := 0x600000 + 0x1000 + i * 0x1000 + j * 0x80
/-- TRC.P_SEL (R388). -/
def TRC.P_SEL (i j : Nat) : Nat := 0x600000 + 0x1004 + i * 0x1000 + j * 0x80
/-- TRC.P_TRIG (R388). -/
def TRC.P_TRIG (i j : Nat) : Nat := 0x600000 + 0x1008 + i * 0x1000 + j * 0x80
/-- TRC.P_TVAL (R388). -/
def TRC.P_TVAL (i j : Nat) : Nat := 0x600000 + 0x100C + i * 0x1000 + j * 0x80
/-- TRC.P_TMASK (R388). -/
def TRC.P_TMASK (i j : Nat) : Nat := 0x600000 + 0x1010 + i * 0x1000 + j * 0x80
/-- TRC.P_CAPT (R388). -/
def TRC.P_CAPT (i j : Nat) : Nat := 0x600000 + 0x1014 + i * 0x1000 + j * 0x80
/-- TRC.P_HOLDOFF (R388). -/
def TRC.P_HOLDOFF (i j : Nat) : Nat := 0x600000 + 0x1018 + i * 0x1000 + j * 0x80
/-- TRC.P_BASE (R388). -/
def TRC.P_BASE (i j : Nat) : Nat := 0x600000 + 0x101C + i * 0x1000 + j * 0x80
/-- TRC.P_SEG (R388). -/
def TRC.P_SEG (i j : Nat) : Nat := 0x600000 + 0x1020 + i * 0x1000 + j * 0x80
/-- TRC.P_WRIDX (R388). -/
def TRC.P_WRIDX (i j : Nat) : Nat := 0x600000 + 0x1024 + i * 0x1000 + j * 0x80
/-- TRC.P_RDIDX (R388). -/
def TRC.P_RDIDX (i j : Nat) : Nat := 0x600000 + 0x1028 + i * 0x1000 + j * 0x80
/-- TRC.P_PSTATUS (R388). -/
def TRC.P_PSTATUS (i j : Nat) : Nat := 0x600000 + 0x102C + i * 0x1000 + j * 0x80
/-- TRC.SKEWCMD (R390). -/
def TRC.SKEWCMD : Nat := 0x600000 + 0x4000
/-- TRC.SKEWMASK0 (R390). -/
def TRC.SKEWMASK0 : Nat := 0x600000 + 0x4004
/-- TRC.SKEWMASK1 (R390). -/
def TRC.SKEWMASK1 : Nat := 0x600000 + 0x4008
/-- TRC.SKEW_STATUS (R390). -/
def TRC.SKEW_STATUS : Nat := 0x600000 + 0x4010
/-- TRC.RESID (R390). -/
def TRC.RESID (i : Nat) : Nat := 0x600000 + 0x4100 + i * 0x4
/-- SEC.BSTATUS (R397). -/
def SEC.BSTATUS : Nat := 0x10000
/-- SEC.COPY (R396). -/
def SEC.COPY : Nat := 0x10000 + 0x4
/-- SEC.BOOTCMD (R397). -/
def SEC.BOOTCMD : Nat := 0x10000 + 0x10
/-- SEC.LDPAGE (R397). -/
def SEC.LDPAGE : Nat := 0x10000 + 0x14
/-- SEC.EVT (R404). -/
def SEC.EVT : Nat := 0x10000 + 0x20
/-- SEC.KERR_LOG (R398). -/
def SEC.KERR_LOG : Nat := 0x10000 + 0x24
/-- SEC.UID (R391). -/
def SEC.UID (i : Nat) : Nat := 0x10000 + 0x30 + i * 0x4
/-- SEC.OTPINFO (R391). -/
def SEC.OTPINFO : Nat := 0x10000 + 0x38
/-- SEC.OTPINFO2 (R391). -/
def SEC.OTPINFO2 : Nat := 0x10000 + 0x3C
/-- SEC.OTPCMD (R392). -/
def SEC.OTPCMD : Nat := 0x10000 + 0x40
/-- SEC.OTPARG (R392). -/
def SEC.OTPARG : Nat := 0x10000 + 0x44
/-- SEC.OTPDATA (R392). -/
def SEC.OTPDATA (i : Nat) : Nat := 0x10000 + 0x48 + i * 0x4
/-- SEC.OTP_STATUS (R392). -/
def SEC.OTP_STATUS : Nat := 0x10000 + 0x70
/-- SEC.HASH (R391). -/
def SEC.HASH (i j : Nat) : Nat := 0x10000 + 0x80 + i * 0x20 + j * 0x4
/-- SEC.IDPUB (R391). -/
def SEC.IDPUB (i : Nat) : Nat := 0x10000 + 0x100 + i * 0x4
/-- SEC.CERTLEN (R391). -/
def SEC.CERTLEN : Nat := 0x10000 + 0x140
/-- SEC.MR (R399). -/
def SEC.MR (i j : Nat) : Nat := 0x10000 + 0x200 + i * 0x20 + j * 0x4
/-- SEC.MREXT (R399). -/
def SEC.MREXT : Nat := 0x10000 + 0x300
/-- SEC.MRVAL (R399). -/
def SEC.MRVAL (i : Nat) : Nat := 0x10000 + 0x320 + i * 0x4
/-- SEC.MR_STATUS (R399). -/
def SEC.MR_STATUS : Nat := 0x10000 + 0x340
/-- SEC.QCMD (R400). -/
def SEC.QCMD : Nat := 0x10000 + 0x350
/-- SEC.QMASK (R400). -/
def SEC.QMASK : Nat := 0x10000 + 0x354
/-- SEC.QADDRLO (R400). -/
def SEC.QADDRLO : Nat := 0x10000 + 0x358
/-- SEC.QADDRHI (R400). -/
def SEC.QADDRHI : Nat := 0x10000 + 0x35C
/-- SEC.QNONCE (R400). -/
def SEC.QNONCE (i : Nat) : Nat := 0x10000 + 0x360 + i * 0x4
/-- SEC.QSTATUS (R400). -/
def SEC.QSTATUS : Nat := 0x10000 + 0x380
/-- SEC.RNGCMD (R402). -/
def SEC.RNGCMD : Nat := 0x10000 + 0x400
/-- SEC.RNG_STATUS (R402). -/
def SEC.RNG_STATUS : Nat := 0x10000 + 0x410
/-- SEC.RNG (R402). -/
def SEC.RNG (i : Nat) : Nat := 0x10000 + 0x414 + i * 0x4
/-- SEC.DBGCMD (R403). -/
def SEC.DBGCMD : Nat := 0x10000 + 0x500
/-- SEC.DBGSCOPE (R403). -/
def SEC.DBGSCOPE : Nat := 0x10000 + 0x504
/-- SEC.DBG_STATUS (R403). -/
def SEC.DBG_STATUS : Nat := 0x10000 + 0x510
/-- SEC.DBGCHAL (R403). -/
def SEC.DBGCHAL (i : Nat) : Nat := 0x10000 + 0x520 + i * 0x4
/-- SEC.DBGPUB (R403). -/
def SEC.DBGPUB (i : Nat) : Nat := 0x10000 + 0x540 + i * 0x4
/-- SEC.DBGSIG (R403). -/
def SEC.DBGSIG (i : Nat) : Nat := 0x10000 + 0x580 + i * 0x4
/-- SEC.CERT (R391). -/
def SEC.CERT (i : Nat) : Nat := 0x10000 + 0x800 + i * 0x4

/-! ## Fields -/

def F.GLB_ID_STEP_MAJOR : Fld := ⟨31, 28⟩
def F.GLB_ID_STEP_MINOR : Fld := ⟨27, 24⟩
def F.GLB_ID_MEMBER : Fld := ⟨23, 16⟩
def F.GLB_ID_FAMILY : Fld := ⟨15, 8⟩
def F.GLB_ID_DIES : Fld := ⟨7, 4⟩
def F.HIF_AP0_BASE : Fld := ⟨11, 0⟩
def F.HIF_AP1_BASE : Fld := ⟨11, 0⟩
def F.HIF_AP2_BASE : Fld := ⟨11, 0⟩
def F.HIF_AP3_BASE : Fld := ⟨11, 0⟩
def F.HIF_FENCE_DROPPED : Fld := ⟨0, 0⟩
def F.GLB_DVFS_REQ_ISLAND : Fld := ⟨21, 16⟩
def F.GLB_DVFS_REQ_POINT : Fld := ⟨9, 8⟩
def F.GLB_DVFS_REQ_VTRIM : Fld := ⟨6, 4⟩
def F.GLB_DVFS_STATUS_READY : Fld := ⟨31, 31⟩
def F.GLB_DVFS_STATUS_SEQ : Fld := ⟨23, 16⟩
def F.GLB_DVFS_STATUS_CODE : Fld := ⟨15, 0⟩
def F.GLB_OP_CLUSTER_MV : Fld := ⟨25, 16⟩
def F.GLB_OP_CLUSTER_VTRIM : Fld := ⟨10, 8⟩
def F.GLB_OP_CLUSTER_EFF : Fld := ⟨5, 4⟩
def F.GLB_OP_CLUSTER_CEIL : Fld := ⟨3, 2⟩
def F.GLB_OP_CLUSTER_REQ : Fld := ⟨1, 0⟩
def F.GLB_OP_FABRIC_MV : Fld := ⟨25, 16⟩
def F.GLB_OP_FABRIC_VTRIM : Fld := ⟨10, 8⟩
def F.GLB_OP_FABRIC_EFF : Fld := ⟨5, 4⟩
def F.GLB_OP_FABRIC_CEIL : Fld := ⟨3, 2⟩
def F.GLB_OP_FABRIC_REQ : Fld := ⟨1, 0⟩
def F.GLB_OP_FIXED_MV : Fld := ⟨25, 16⟩
def F.GLB_OP_FIXED_VTRIM : Fld := ⟨10, 8⟩
def F.GLB_OP_FIXED_EFF : Fld := ⟨5, 4⟩
def F.GLB_OP_FIXED_CEIL : Fld := ⟨3, 2⟩
def F.GLB_OP_FIXED_REQ : Fld := ⟨1, 0⟩
def F.GLB_TEMP_VALID : Fld := ⟨31, 31⟩
def F.GLB_TEMP_TEMP : Fld := ⟨15, 0⟩
def F.GLB_THERM_LIMITING : Fld := ⟨16, 16⟩
def F.GLB_THERM_SPREAD : Fld := ⟨15, 8⟩
def F.GLB_THERM_WARN_C : Fld := ⟨7, 0⟩
def F.GLB_PWR_WAKE_CAUSE : Fld := ⟨27, 24⟩
def F.GLB_PWR_WAKE_ALARM : Fld := ⟨22, 22⟩
def F.GLB_PWR_WAKE_PIN : Fld := ⟨21, 21⟩
def F.GLB_PWR_WAKE_MACM : Fld := ⟨20, 20⟩
def F.GLB_PWR_WAKE_MAC : Fld := ⟨19, 16⟩
def F.GLB_PWR_STATE : Fld := ⟨8, 8⟩
def F.GLB_PWR_EXIT : Fld := ⟨1, 1⟩
def F.GLB_PWR_ENTER : Fld := ⟨0, 0⟩
def F.GLB_PWR_STATUS_READY : Fld := ⟨31, 31⟩
def F.GLB_PWR_STATUS_SEQ : Fld := ⟨23, 16⟩
def F.GLB_PWR_STATUS_CODE : Fld := ⟨15, 0⟩
def F.TILE_STATE_GATED : Fld := ⟨27, 27⟩
def F.TILE_STATE_WITHDRAWN : Fld := ⟨26, 26⟩
def F.TILE_STATE_HALTED : Fld := ⟨25, 25⟩
def F.TILE_STATE_RUNNING : Fld := ⟨24, 24⟩
def F.TILE_STATE_TID : Fld := ⟨17, 0⟩
def F.TILE_EXC_INFO_VALID : Fld := ⟨31, 31⟩
def F.TILE_EXC_INFO_MORE : Fld := ⟨15, 8⟩
def F.TILE_EXC_INFO_CODE : Fld := ⟨7, 0⟩
def F.TILE_EXC_PC_PC : Fld := ⟨31, 0⟩
def F.TILE_EXC_ADDR_ADDR : Fld := ⟨31, 0⟩
def F.TILE_EXC_TID_TID : Fld := ⟨17, 0⟩
def F.TILE_CYCLES_LO_COUNT : Fld := ⟨31, 0⟩
def F.TILE_CYCLES_HI_COUNT : Fld := ⟨7, 0⟩
def F.TILE_BUNDLES_LO_COUNT : Fld := ⟨31, 0⟩
def F.TILE_BUNDLES_HI_COUNT : Fld := ⟨7, 0⟩
def F.TILE_MACS_LO_COUNT : Fld := ⟨31, 0⟩
def F.TILE_MACS_HI_COUNT : Fld := ⟨7, 0⟩
def F.TILE_STALL_BUS_LO_COUNT : Fld := ⟨31, 0⟩
def F.TILE_STALL_BUS_HI_COUNT : Fld := ⟨7, 0⟩
def F.TILE_STALL_OUTSIDE_LO_COUNT : Fld := ⟨31, 0⟩
def F.TILE_STALL_OUTSIDE_HI_COUNT : Fld := ⟨7, 0⟩
def F.TILE_STALL_LOAD_LO_COUNT : Fld := ⟨31, 0⟩
def F.TILE_STALL_LOAD_HI_COUNT : Fld := ⟨7, 0⟩
def F.TILE_STALL_FETCH_LO_COUNT : Fld := ⟨31, 0⟩
def F.TILE_STALL_FETCH_HI_COUNT : Fld := ⟨7, 0⟩
def F.TILE_LCACHE_LO_COUNT : Fld := ⟨31, 0⟩
def F.TILE_LCACHE_HI_COUNT : Fld := ⟨7, 0⟩
def F.TILE_ITEMS_LO_COUNT : Fld := ⟨31, 0⟩
def F.TILE_ITEMS_HI_COUNT : Fld := ⟨7, 0⟩
def F.TILE_EXCEPTIONS_LO_COUNT : Fld := ⟨31, 0⟩
def F.TILE_EXCEPTIONS_HI_COUNT : Fld := ⟨7, 0⟩
def F.TILE_ECC_CORR_LO_COUNT : Fld := ⟨31, 0⟩
def F.TILE_ECC_CORR_HI_COUNT : Fld := ⟨7, 0⟩
def F.TILE_ECC_UNCORR_LO_COUNT : Fld := ⟨31, 0⟩
def F.TILE_ECC_UNCORR_HI_COUNT : Fld := ⟨7, 0⟩
def F.TILE_DBG_CTRL_BPEN : Fld := ⟨16, 16⟩
def F.TILE_DBG_CTRL_HALTED : Fld := ⟨8, 8⟩
def F.TILE_DBG_CTRL_STEP : Fld := ⟨2, 2⟩
def F.TILE_DBG_CTRL_RESUME : Fld := ⟨1, 1⟩
def F.TILE_DBG_CTRL_HALT : Fld := ⟨0, 0⟩
def F.TILE_BP_ADDR : Fld := ⟨31, 2⟩
def F.TILE_BP_EN : Fld := ⟨0, 0⟩
def F.TILE_WPLO_ADDR : Fld := ⟨31, 0⟩
def F.TILE_WPHI_ADDR : Fld := ⟨31, 0⟩
def F.TILE_WPCTL_EN : Fld := ⟨2, 2⟩
def F.TILE_WPCTL_ON_STORE : Fld := ⟨1, 1⟩
def F.TILE_WPCTL_ON_LOAD : Fld := ⟨0, 0⟩
def F.GLB_RESET_KEY : Fld := ⟨31, 24⟩
def F.GLB_RESET_CLRST : Fld := ⟨9, 9⟩
def F.GLB_RESET_WARM : Fld := ⟨8, 8⟩
def F.GLB_RESET_CLUSTER : Fld := ⟨4, 0⟩
def F.GLB_RSTCAUSE_PGOOD : Fld := ⟨7, 5⟩
def F.GLB_RSTCAUSE_THERMAL : Fld := ⟨4, 4⟩
def F.GLB_RSTCAUSE_WDOG : Fld := ⟨3, 3⟩
def F.GLB_RSTCAUSE_WARM : Fld := ⟨2, 2⟩
def F.GLB_RSTCAUSE_COLD : Fld := ⟨1, 1⟩
def F.GLB_RSTCAUSE_POWERON : Fld := ⟨0, 0⟩
def F.GLB_WDT_CFG_EN : Fld := ⟨31, 31⟩
def F.GLB_WDT_CFG_TIMEOUT : Fld := ⟨15, 0⟩
def F.GLB_WDT_KICK_KICK : Fld := ⟨7, 0⟩
def F.GLB_WDT_COUNT_COUNT : Fld := ⟨25, 0⟩
def F.GLB_ERRLOG_VALID : Fld := ⟨31, 31⟩
def F.GLB_ERRLOG_LEVEL : Fld := ⟨26, 24⟩
def F.GLB_ERRLOG_CLASS : Fld := ⟨23, 16⟩
def F.GLB_ERRLOG_UNIT : Fld := ⟨15, 0⟩
def F.GLB_ERRLOG_ADDRLO_ADDR : Fld := ⟨31, 0⟩
def F.GLB_ERRLOG_ADDRHI_ADDR : Fld := ⟨7, 0⟩
def F.GLB_ERRLOG_SYND_SYNDROME : Fld := ⟨7, 0⟩
def F.GLB_ERRLOG_TB2S_TB2S : Fld := ⟨31, 0⟩
def F.GLB_ERRLOG_TB2NS_TB2NS : Fld := ⟨31, 0⟩
def F.GLB_ERRLOG_BANK_BANK : Fld := ⟨9, 0⟩
def F.DDR_CFG_EN : Fld := ⟨31, 31⟩
def F.DDR_CFG_RESUME : Fld := ⟨30, 30⟩
def F.DDR_CFG_CAP : Fld := ⟨29, 24⟩
def F.DDR_CFG_SCRUBH : Fld := ⟨23, 16⟩
def F.DDR_CFG_RATE : Fld := ⟨1, 0⟩
def F.DDR_STATUS_READY : Fld := ⟨31, 31⟩
def F.DDR_STATUS_SEQ : Fld := ⟨23, 16⟩
def F.DDR_STATUS_CODE : Fld := ⟨15, 0⟩
def F.DDR_STATUS1_SELFREF : Fld := ⟨1, 1⟩
def F.DDR_STATUS1_TRAINED : Fld := ⟨0, 0⟩
def F.DDR_EVT_CNT : Fld := ⟨2, 2⟩
def F.DDR_EVT_UE : Fld := ⟨1, 1⟩
def F.DDR_EVT_TRAIN : Fld := ⟨0, 0⟩
def F.DDR_CE_LO_COUNT : Fld := ⟨31, 0⟩
def F.DDR_CE_HI_COUNT : Fld := ⟨7, 0⟩
def F.DDR_UE_LO_COUNT : Fld := ⟨31, 0⟩
def F.DDR_UE_HI_COUNT : Fld := ⟨7, 0⟩
def F.DDR_SCRUBLINES_LO_COUNT : Fld := ⟨31, 0⟩
def F.DDR_SCRUBLINES_HI_COUNT : Fld := ⟨7, 0⟩
def F.HNG_STATUS_LANES : Fld := ⟨3, 0⟩
def F.HNG_EVT_CNT : Fld := ⟨2, 2⟩
def F.HNG_EVT_LANE : Fld := ⟨1, 1⟩
def F.HNG_EVT_RETRY : Fld := ⟨0, 0⟩
def F.HNG_RETRIES0_LO_COUNT : Fld := ⟨31, 0⟩
def F.HNG_RETRIES0_HI_COUNT : Fld := ⟨7, 0⟩
def F.HNG_RETRIES1_LO_COUNT : Fld := ⟨31, 0⟩
def F.HNG_RETRIES1_HI_COUNT : Fld := ⟨7, 0⟩
def F.HNG_RETRIES2_LO_COUNT : Fld := ⟨31, 0⟩
def F.HNG_RETRIES2_HI_COUNT : Fld := ⟨7, 0⟩
def F.HNG_RETRIES3_LO_COUNT : Fld := ⟨31, 0⟩
def F.HNG_RETRIES3_HI_COUNT : Fld := ⟨7, 0⟩
def F.HNG_EXHAUST_LO_COUNT : Fld := ⟨31, 0⟩
def F.HNG_EXHAUST_HI_COUNT : Fld := ⟨7, 0⟩
def F.CSK_CMD_OP : Fld := ⟨31, 30⟩
def F.CSK_CMD_CASK : Fld := ⟨12, 0⟩
def F.CSK_CMD_STATUS_READY : Fld := ⟨31, 31⟩
def F.CSK_CMD_STATUS_SEQ : Fld := ⟨23, 16⟩
def F.CSK_CMD_STATUS_CODE : Fld := ⟨15, 0⟩
def F.CSK_CMD_INFORCE_OP : Fld := ⟨31, 30⟩
def F.CSK_CASK_INFORCE_CASK : Fld := ⟨12, 0⟩
def F.CSK_HWR_WORD : Fld := ⟨31, 0⟩
def F.CSK_HWCTL_OP : Fld := ⟨31, 30⟩
def F.CSK_HWCTL_REL : Fld := ⟨29, 29⟩
def F.CSK_HWCTL_CASK : Fld := ⟨12, 0⟩
def F.CSK_HW_STATUS_READY : Fld := ⟨31, 31⟩
def F.CSK_HW_STATUS_SEQ : Fld := ⟨23, 16⟩
def F.CSK_HW_STATUS_CODE : Fld := ⟨15, 0⟩
def F.CSK_OPENPKTS_OPEN : Fld := ⟨11, 0⟩
def F.CSK_REFUSED_LO_COUNT : Fld := ⟨31, 0⟩
def F.CSK_REFUSED_HI_COUNT : Fld := ⟨7, 0⟩
def F.CSK_OVERLEN_LO_COUNT : Fld := ⟨31, 0⟩
def F.CSK_OVERLEN_HI_COUNT : Fld := ⟨7, 0⟩
def F.CSK_DISCARDED_LO_COUNT : Fld := ⟨31, 0⟩
def F.CSK_DISCARDED_HI_COUNT : Fld := ⟨7, 0⟩
def F.CSK_ABANDONED_LO_COUNT : Fld := ⟨31, 0⟩
def F.CSK_ABANDONED_HI_COUNT : Fld := ⟨7, 0⟩
def F.CSK_NOTICE_LOST_LO_COUNT : Fld := ⟨31, 0⟩
def F.CSK_NOTICE_LOST_HI_COUNT : Fld := ⟨7, 0⟩
def F.CSK_NG_CLUSTER_CLUSTER : Fld := ⟨4, 0⟩
def F.CSK_NG_PEND_PEND : Fld := ⟨15, 0⟩
def F.CSK_NG_GACK_GACK : Fld := ⟨15, 0⟩
def F.CSK_NG_WI_WI : Fld := ⟨31, 0⟩
def F.CSK_CFG_EN : Fld := ⟨31, 31⟩
def F.CSK_CFG_DEPTH : Fld := ⟨30, 27⟩
def F.CSK_CFG_PRIO : Fld := ⟨26, 24⟩
def F.CSK_CFG_LANE : Fld := ⟨23, 23⟩
def F.CSK_CFG_NMODE : Fld := ⟨22, 21⟩
def F.CSK_CFG_NGRP : Fld := ⟨20, 16⟩
def F.CSK_CFG_PARENT : Fld := ⟨12, 0⟩
def F.CSK_BASE_OFFS : Fld := ⟨25, 8⟩
def F.CSK_FILL_USED : Fld := ⟨16, 0⟩
def F.CSK_CREDIT_CREDIT : Fld := ⟨16, 0⟩
def F.CSK_IDLE_IDLE : Fld := ⟨31, 0⟩
def F.CSK_PEEK_PEEK : Fld := ⟨31, 0⟩
def F.CSK_PSTAT_PSTAT : Fld := ⟨31, 0⟩
def F.CSK_PKTS_LO_COUNT : Fld := ⟨31, 0⟩
def F.CSK_PKTS_HI_COUNT : Fld := ⟨7, 0⟩
def F.WS_STATUS_SHED : Fld := ⟨5, 4⟩
def F.WS_STATUS_STATE : Fld := ⟨2, 0⟩
def F.WS_CFG_GRACE : Fld := ⟨17, 16⟩
def F.WS_CFG_POSTLIM : Fld := ⟨12, 0⟩
def F.WS_DEFLIM_DEFLIM : Fld := ⟨31, 0⟩
def F.WS_PENDING_TIMERS : Fld := ⟨29, 16⟩
def F.WS_PENDING_PEND : Fld := ⟨12, 0⟩
def F.WS_TILES_INDISP : Fld := ⟨27, 16⟩
def F.WS_TILES_IDLE : Fld := ⟨11, 0⟩
def F.WS_HPOST_HPOST : Fld := ⟨31, 0⟩
def F.WS_HPCTL_OP : Fld := ⟨31, 30⟩
def F.WS_HPCTL_DELAY : Fld := ⟨21, 0⟩
def F.WS_HP_STATUS_READY : Fld := ⟨31, 31⟩
def F.WS_HP_STATUS_SEQ : Fld := ⟨23, 16⟩
def F.WS_HP_STATUS_CODE : Fld := ⟨15, 0⟩
def F.WS_HP_TIMER_TIMER : Fld := ⟨12, 0⟩
def F.WS_EVT_SHED : Fld := ⟨5, 5⟩
def F.WS_EVT_TCNT : Fld := ⟨4, 4⟩
def F.WS_EVT_WCNT : Fld := ⟨3, 3⟩
def F.WS_EVT_EXC : Fld := ⟨2, 2⟩
def F.WS_EVT_REFUSED : Fld := ⟨1, 1⟩
def F.WS_EVT_MISS : Fld := ⟨0, 0⟩
def F.WS_MISS_LOG_VALID : Fld := ⟨31, 31⟩
def F.WS_MISS_LOG_CAUSE : Fld := ⟨26, 24⟩
def F.WS_MISS_LOG_INDEX : Fld := ⟨22, 18⟩
def F.WS_MISS_LOG_TID : Fld := ⟨17, 0⟩
def F.WS_MISS_TIME_TB2NS : Fld := ⟨31, 0⟩
def F.WS_POSTED_LO_COUNT : Fld := ⟨31, 0⟩
def F.WS_POSTED_HI_COUNT : Fld := ⟨7, 0⟩
def F.WS_REFUSED_LO_COUNT : Fld := ⟨31, 0⟩
def F.WS_REFUSED_HI_COUNT : Fld := ⟨7, 0⟩
def F.WS_DISPATCHED_LO_COUNT : Fld := ⟨31, 0⟩
def F.WS_DISPATCHED_HI_COUNT : Fld := ⟨7, 0⟩
def F.WS_DEFERRED_LO_COUNT : Fld := ⟨31, 0⟩
def F.WS_DEFERRED_HI_COUNT : Fld := ⟨7, 0⟩
def F.WS_SHED_OPT_LO_COUNT : Fld := ⟨31, 0⟩
def F.WS_SHED_OPT_HI_COUNT : Fld := ⟨7, 0⟩
def F.WS_PLC_SUBST_LO_COUNT : Fld := ⟨31, 0⟩
def F.WS_PLC_SUBST_HI_COUNT : Fld := ⟨7, 0⟩
def F.WS_MISSED_LO_COUNT : Fld := ⟨31, 0⟩
def F.WS_MISSED_HI_COUNT : Fld := ⟨7, 0⟩
def F.WS_DISCARDED_LO_COUNT : Fld := ⟨31, 0⟩
def F.WS_DISCARDED_HI_COUNT : Fld := ⟨7, 0⟩
def F.WS_LOADS_LO_COUNT : Fld := ⟨31, 0⟩
def F.WS_LOADS_HI_COUNT : Fld := ⟨7, 0⟩
def F.WS_CLASS_PEND : Fld := ⟨12, 0⟩
def F.CTX_ACMD_OP : Fld := ⟨31, 30⟩
def F.CTX_ACMD_TID : Fld := ⟨17, 0⟩
def F.CTX_ARES_READY : Fld := ⟨31, 31⟩
def F.CTX_ARES_SEQ : Fld := ⟨23, 16⟩
def F.CTX_ARES_CODE : Fld := ⟨15, 0⟩
def F.CTX_SLOTINFO_STATE : Fld := ⟨18, 16⟩
def F.CTX_SLOTINFO_SLOT : Fld := ⟨12, 0⟩
def F.CTX_VERSIONS_NEWEST : Fld := ⟨31, 16⟩
def F.CTX_VERSIONS_INFORCE : Fld := ⟨15, 0⟩
def F.CTX_CSTATUS_READY : Fld := ⟨31, 31⟩
def F.CTX_CSTATUS_SEQ : Fld := ⟨23, 16⟩
def F.CTX_CSTATUS_CODE : Fld := ⟨15, 0⟩
def F.CTX_CSTATUS_TID_TID : Fld := ⟨17, 0⟩
def F.CTX_CSTATUS_VERSION_VERSION : Fld := ⟨15, 0⟩
def F.CTX_BUDGET_BUDGET : Fld := ⟨31, 0⟩
def F.CTX_LOAD_LOAD : Fld := ⟨31, 0⟩
def F.CTX_PCT_PCT : Fld := ⟨6, 0⟩
def F.CTX_SLOTS_SLOTS : Fld := ⟨13, 0⟩
def F.CTX_VATU_CAP : Fld := ⟨28, 16⟩
def F.CTX_VATU_USE : Fld := ⟨12, 0⟩
def F.CTX_TONEU_CAP : Fld := ⟨28, 16⟩
def F.CTX_TONEU_USE : Fld := ⟨12, 0⟩
def F.CTX_SRCU_CAP : Fld := ⟨28, 16⟩
def F.CTX_SRCU_USE : Fld := ⟨12, 0⟩
def F.CTX_VDEU_CAP : Fld := ⟨28, 16⟩
def F.CTX_VDEU_USE : Fld := ⟨12, 0⟩
def F.CTX_STAGEBASE_STAGEBASE : Fld := ⟨31, 0⟩
def F.CTX_HOMEBASE_HOMEBASE : Fld := ⟨27, 0⟩
def F.CTX_EPOCH_EPOCH : Fld := ⟨7, 0⟩
def F.CTX_EVT_CCNT : Fld := ⟨4, 4⟩
def F.CTX_EVT_WDISC : Fld := ⟨3, 3⟩
def F.CTX_EVT_KERR : Fld := ⟨2, 2⟩
def F.CTX_EVT_IDLED : Fld := ⟨1, 1⟩
def F.CTX_EVT_REJECT : Fld := ⟨0, 0⟩
def F.CTX_IDLE_LOG_VALID : Fld := ⟨31, 31⟩
def F.CTX_IDLE_LOG_TID : Fld := ⟨17, 0⟩
def F.CTX_ACCEPTED_LO_COUNT : Fld := ⟨31, 0⟩
def F.CTX_ACCEPTED_HI_COUNT : Fld := ⟨7, 0⟩
def F.CTX_REJECTED_LO_COUNT : Fld := ⟨31, 0⟩
def F.CTX_REJECTED_HI_COUNT : Fld := ⟨7, 0⟩
def F.CTX_SUPERSEDED_LO_COUNT : Fld := ⟨31, 0⟩
def F.CTX_SUPERSEDED_HI_COUNT : Fld := ⟨7, 0⟩
def F.CTX_SWITCHED_LO_COUNT : Fld := ⟨31, 0⟩
def F.CTX_SWITCHED_HI_COUNT : Fld := ⟨7, 0⟩
def F.CTX_WDN_APPLIED_LO_COUNT : Fld := ⟨31, 0⟩
def F.CTX_WDN_APPLIED_HI_COUNT : Fld := ⟨7, 0⟩
def F.CTX_WDN_DISCARDED_LO_COUNT : Fld := ⟨31, 0⟩
def F.CTX_WDN_DISCARDED_HI_COUNT : Fld := ⟨7, 0⟩
def F.CTX_KERR_LO_COUNT : Fld := ⟨31, 0⟩
def F.CTX_KERR_HI_COUNT : Fld := ⟨7, 0⟩
def F.CTX_UKIMG_IMAGE : Fld := ⟨31, 0⟩
def F.CTX_UKCTL_VALID : Fld := ⟨31, 31⟩
def F.CTX_UKCTL_COST : Fld := ⟨30, 0⟩
def F.CTX_DB_STATE : Fld := ⟨31, 29⟩
def F.CTX_DB_VERSION : Fld := ⟨15, 0⟩
def F.VAT_CFG_EN : Fld := ⟨0, 0⟩
def F.VAT_STATUS_CAP : Fld := ⟨28, 16⟩
def F.VAT_STATUS_MODE : Fld := ⟨15, 14⟩
def F.VAT_STATUS_BYPASSN : Fld := ⟨12, 0⟩
def F.VAT_QUEUE_QUEUE : Fld := ⟨9, 0⟩
def F.VAT_EVT_DISABLE : Fld := ⟨5, 5⟩
def F.VAT_EVT_VCNT : Fld := ⟨4, 4⟩
def F.VAT_EVT_HINT : Fld := ⟨3, 3⟩
def F.VAT_EVT_REF : Fld := ⟨2, 2⟩
def F.VAT_EVT_REINIT : Fld := ⟨1, 1⟩
def F.VAT_EVT_MODE : Fld := ⟨0, 0⟩
def F.VAT_ERR_LOG_VALID : Fld := ⟨31, 31⟩
def F.VAT_ERR_LOG_CAUSE : Fld := ⟨26, 24⟩
def F.VAT_ERR_LOG_TID : Fld := ⟨17, 0⟩
def F.VAT_REQUESTS_LO_COUNT : Fld := ⟨31, 0⟩
def F.VAT_REQUESTS_HI_COUNT : Fld := ⟨7, 0⟩
def F.VAT_REFBLOCKS_LO_COUNT : Fld := ⟨31, 0⟩
def F.VAT_REFBLOCKS_HI_COUNT : Fld := ⟨7, 0⟩
def F.VAT_REFGAP_LO_COUNT : Fld := ⟨31, 0⟩
def F.VAT_REFGAP_HI_COUNT : Fld := ⟨7, 0⟩
def F.VAT_REFLATE_LO_COUNT : Fld := ⟨31, 0⟩
def F.VAT_REFLATE_HI_COUNT : Fld := ⟨7, 0⟩
def F.VAT_REFDROP_LO_COUNT : Fld := ⟨31, 0⟩
def F.VAT_REFDROP_HI_COUNT : Fld := ⟨7, 0⟩
def F.VAT_RELOCS_LO_COUNT : Fld := ⟨31, 0⟩
def F.VAT_RELOCS_HI_COUNT : Fld := ⟨7, 0⟩
def F.VAT_REINITS_LO_COUNT : Fld := ⟨31, 0⟩
def F.VAT_REINITS_HI_COUNT : Fld := ⟨7, 0⟩
def F.VAT_DISABLES_LO_COUNT : Fld := ⟨31, 0⟩
def F.VAT_DISABLES_HI_COUNT : Fld := ⟨7, 0⟩
def F.VAT_LOADBYPASS_LO_COUNT : Fld := ⟨31, 0⟩
def F.VAT_LOADBYPASS_HI_COUNT : Fld := ⟨7, 0⟩
def F.VAT_PW0_NOSEARCH : Fld := ⟨21, 21⟩
def F.VAT_PW0_FREEZE : Fld := ⟨20, 20⟩
def F.VAT_PW0_CNG : Fld := ⟨19, 18⟩
def F.VAT_PW0_DISABLER : Fld := ⟨17, 16⟩
def F.VAT_PW0_NWIN : Fld := ⟨14, 12⟩
def F.VAT_PW0_WLEN : Fld := ⟨9, 8⟩
def F.VAT_PW0_TAIL : Fld := ⟨5, 0⟩
def F.VAT_PW1_STEP : Fld := ⟨19, 16⟩
def F.VAT_PW1_DTDHOLD : Fld := ⟨15, 8⟩
def F.VAT_PW1_DTDTHR : Fld := ⟨3, 0⟩
def F.VAT_PW2_DISHOLD : Fld := ⟨23, 16⟩
def F.VAT_PW2_DISLEV : Fld := ⟨15, 8⟩
def F.VAT_PW2_CNGMAX : Fld := ⟨7, 0⟩
def F.VAT_USERS_USERS : Fld := ⟨12, 0⟩
def F.TONE_CFG_EN : Fld := ⟨0, 0⟩
def F.TONE_STATUS_CAP : Fld := ⟨28, 16⟩
def F.TONE_EVT_TCNT : Fld := ⟨3, 3⟩
def F.TONE_EVT_BADCODE : Fld := ⟨2, 2⟩
def F.TONE_EVT_LOST : Fld := ⟨1, 1⟩
def F.TONE_ERR_LOG_VALID : Fld := ⟨31, 31⟩
def F.TONE_ERR_LOG_CAUSE : Fld := ⟨26, 24⟩
def F.TONE_ERR_LOG_TID : Fld := ⟨17, 0⟩
def F.TONE_DETECTS_LO_COUNT : Fld := ⟨31, 0⟩
def F.TONE_DETECTS_HI_COUNT : Fld := ⟨7, 0⟩
def F.TONE_RECPOSTED_LO_COUNT : Fld := ⟨31, 0⟩
def F.TONE_RECPOSTED_HI_COUNT : Fld := ⟨7, 0⟩
def F.TONE_RECLOST_LO_COUNT : Fld := ⟨31, 0⟩
def F.TONE_RECLOST_HI_COUNT : Fld := ⟨7, 0⟩
def F.TONE_FALSEMUTE_LO_COUNT : Fld := ⟨31, 0⟩
def F.TONE_FALSEMUTE_HI_COUNT : Fld := ⟨7, 0⟩
def F.TONE_BADCODE_LO_COUNT : Fld := ⟨31, 0⟩
def F.TONE_BADCODE_HI_COUNT : Fld := ⟨7, 0⟩
def F.TONE_DPW0_CPMASK : Fld := ⟨31, 16⟩
def F.TONE_DPW0_FAX : Fld := ⟨4, 4⟩
def F.TONE_DPW0_R2B : Fld := ⟨3, 3⟩
def F.TONE_DPW0_R2F : Fld := ⟨2, 2⟩
def F.TONE_DPW0_MF : Fld := ⟨1, 1⟩
def F.TONE_DPW0_DTMF : Fld := ⟨0, 0⟩
def F.TONE_DPW1_DTMFON : Fld := ⟨23, 20⟩
def F.TONE_DPW1_BRIDGE : Fld := ⟨19, 16⟩
def F.TONE_DPW1_DTMFMIN : Fld := ⟨15, 8⟩
def F.TONE_DPW1_RTWIST : Fld := ⟨7, 4⟩
def F.TONE_DPW1_FTWIST : Fld := ⟨3, 0⟩
def F.TONE_DPW2_R2ON : Fld := ⟨31, 28⟩
def F.TONE_DPW2_R2TWIST : Fld := ⟨27, 24⟩
def F.TONE_DPW2_R2MIN : Fld := ⟨23, 16⟩
def F.TONE_DPW2_MFON : Fld := ⟨15, 12⟩
def F.TONE_DPW2_MFTWIST : Fld := ⟨11, 8⟩
def F.TONE_DPW2_MFMIN : Fld := ⟨7, 0⟩
def F.TONE_DPW3_FAXMIN : Fld := ⟨7, 0⟩
def F.TONE_DUSERS_USERS : Fld := ⟨12, 0⟩
def F.TONE_CPE0_F2 : Fld := ⟨31, 16⟩
def F.TONE_CPE0_F1 : Fld := ⟨15, 0⟩
def F.TONE_CPE1_REPEAT : Fld := ⟨19, 16⟩
def F.TONE_CPE1_NSEG : Fld := ⟨15, 12⟩
def F.TONE_CPE1_TOL : Fld := ⟨11, 8⟩
def F.TONE_CPE1_MINLEV : Fld := ⟨7, 0⟩
def F.TONE_CPE2_OFF1 : Fld := ⟨31, 24⟩
def F.TONE_CPE2_ON1 : Fld := ⟨23, 16⟩
def F.TONE_CPE2_OFF0 : Fld := ⟨15, 8⟩
def F.TONE_CPE2_ON0 : Fld := ⟨7, 0⟩
def F.TONE_CPE3_OFF3 : Fld := ⟨31, 24⟩
def F.TONE_CPE3_ON3 : Fld := ⟨23, 16⟩
def F.TONE_CPE3_OFF2 : Fld := ⟨15, 8⟩
def F.TONE_CPE3_ON2 : Fld := ⟨7, 0⟩
def F.TONE_GPW0_NSEG : Fld := ⟨31, 28⟩
def F.TONE_GPW0_REPEAT : Fld := ⟨27, 24⟩
def F.TONE_GPW0_L2 : Fld := ⟨23, 16⟩
def F.TONE_GPW0_L1 : Fld := ⟨15, 8⟩
def F.TONE_GPW0_AM : Fld := ⟨7, 7⟩
def F.TONE_GPW0_REV : Fld := ⟨6, 6⟩
def F.TONE_GPW0_SET : Fld := ⟨5, 4⟩
def F.TONE_GPW0_RATE : Fld := ⟨2, 2⟩
def F.TONE_GPW0_TYPE : Fld := ⟨1, 0⟩
def F.TONE_GPW1_F2 : Fld := ⟨31, 16⟩
def F.TONE_GPW1_F1 : Fld := ⟨15, 0⟩
def F.TONE_GPW2_OFF1 : Fld := ⟨31, 24⟩
def F.TONE_GPW2_ON1 : Fld := ⟨23, 16⟩
def F.TONE_GPW2_OFF0 : Fld := ⟨15, 8⟩
def F.TONE_GPW2_ON0 : Fld := ⟨7, 0⟩
def F.TONE_GPW3_OFF3 : Fld := ⟨31, 24⟩
def F.TONE_GPW3_ON3 : Fld := ⟨23, 16⟩
def F.TONE_GPW3_OFF2 : Fld := ⟨15, 8⟩
def F.TONE_GPW3_ON2 : Fld := ⟨7, 0⟩
def F.TONE_GUSERS_USERS : Fld := ⟨12, 0⟩
def F.VDE_CFG_EN : Fld := ⟨0, 0⟩
def F.VDE_STATUS_CAP : Fld := ⟨28, 16⟩
def F.VDE_EVT_VCNT : Fld := ⟨4, 4⟩
def F.VDE_EVT_V8 : Fld := ⟨3, 3⟩
def F.VDE_EVT_UNDER : Fld := ⟨2, 2⟩
def F.VDE_EVT_RXOVF : Fld := ⟨1, 1⟩
def F.VDE_EVT_LOST : Fld := ⟨0, 0⟩
def F.VDE_ERR_LOG_VALID : Fld := ⟨31, 31⟩
def F.VDE_ERR_LOG_CAUSE : Fld := ⟨26, 24⟩
def F.VDE_ERR_LOG_TID : Fld := ⟨17, 0⟩
def F.VDE_RECEPTIONS_LO_COUNT : Fld := ⟨31, 0⟩
def F.VDE_RECEPTIONS_HI_COUNT : Fld := ⟨7, 0⟩
def F.VDE_FALSE_LO_COUNT : Fld := ⟨31, 0⟩
def F.VDE_FALSE_HI_COUNT : Fld := ⟨7, 0⟩
def F.VDE_ABORTED_LO_COUNT : Fld := ⟨31, 0⟩
def F.VDE_ABORTED_HI_COUNT : Fld := ⟨7, 0⟩
def F.VDE_FRAMES_OK_LO_COUNT : Fld := ⟨31, 0⟩
def F.VDE_FRAMES_OK_HI_COUNT : Fld := ⟨7, 0⟩
def F.VDE_FRAMES_BAD_LO_COUNT : Fld := ⟨31, 0⟩
def F.VDE_FRAMES_BAD_HI_COUNT : Fld := ⟨7, 0⟩
def F.VDE_RXOVF_LO_COUNT : Fld := ⟨31, 0⟩
def F.VDE_RXOVF_HI_COUNT : Fld := ⟨7, 0⟩
def F.VDE_TXUNDER_LO_COUNT : Fld := ⟨31, 0⟩
def F.VDE_TXUNDER_HI_COUNT : Fld := ⟨7, 0⟩
def F.VDE_IFP_TX_LO_COUNT : Fld := ⟨31, 0⟩
def F.VDE_IFP_TX_HI_COUNT : Fld := ⟨7, 0⟩
def F.VDE_IFP_RX_LO_COUNT : Fld := ⟨31, 0⟩
def F.VDE_IFP_RX_HI_COUNT : Fld := ⟨7, 0⟩
def F.VDE_IFP_LOST_LO_COUNT : Fld := ⟨31, 0⟩
def F.VDE_IFP_LOST_HI_COUNT : Fld := ⟨7, 0⟩
def F.VDE_PW0_HSMOD : Fld := ⟨27, 24⟩
def F.VDE_PW0_V8 : Fld := ⟨23, 23⟩
def F.VDE_PW0_V34ACT : Fld := ⟨22, 22⟩
def F.VDE_PW0_T38VER : Fld := ⟨21, 20⟩
def F.VDE_PW0_RED : Fld := ⟨19, 17⟩
def F.VDE_PW0_TCF : Fld := ⟨16, 16⟩
def F.VDE_PW0_CAPMARGIN : Fld := ⟨11, 8⟩
def F.VDE_PW0_RXTHR : Fld := ⟨7, 0⟩
def F.VDE_PW1_LOSSMS : Fld := ⟨31, 24⟩
def F.VDE_PW1_TXLEV : Fld := ⟨23, 16⟩
def F.VDE_PW1_QWIN : Fld := ⟨15, 8⟩
def F.VDE_PW1_UNDERMAX : Fld := ⟨7, 0⟩
def F.VDE_USERS_USERS : Fld := ⟨12, 0⟩
def F.SRC_CFG_XFADE : Fld := ⟨27, 16⟩
def F.SRC_CFG_MEDTHR : Fld := ⟨15, 8⟩
def F.SRC_CFG_EN : Fld := ⟨0, 0⟩
def F.SRC_STATUS_CAP : Fld := ⟨28, 16⟩
def F.SRC_EVT_SCNT : Fld := ⟨2, 2⟩
def F.SRC_EVT_FADECUT : Fld := ⟨1, 1⟩
def F.SRC_EVT_SAT : Fld := ⟨0, 0⟩
def F.SRC_ERR_LOG_VALID : Fld := ⟨31, 31⟩
def F.SRC_ERR_LOG_CAUSE : Fld := ⟨26, 24⟩
def F.SRC_ERR_LOG_TID : Fld := ⟨17, 0⟩
def F.SRC_UCMD_OP : Fld := ⟨31, 30⟩
def F.SRC_UCMD_SET : Fld := ⟨1, 0⟩
def F.SRC_USTATUS_READY : Fld := ⟨31, 31⟩
def F.SRC_USTATUS_SEQ : Fld := ⟨23, 16⟩
def F.SRC_USTATUS_CODE : Fld := ⟨15, 0⟩
def F.SRC_USTATUS_SET_SET : Fld := ⟨1, 0⟩
def F.SRC_UBASE_BASE : Fld := ⟨31, 0⟩
def F.SRC_UINFO_LOADED : Fld := ⟨31, 31⟩
def F.SRC_UINFO_BANK : Fld := ⟨30, 30⟩
def F.SRC_UINFO_INRATE : Fld := ⟨11, 10⟩
def F.SRC_UINFO_OUTRATE : Fld := ⟨9, 8⟩
def F.SRC_UINFO_DELAY : Fld := ⟨7, 0⟩
def F.SRC_USERS_USERS : Fld := ⟨12, 0⟩
def F.SRC_REQUESTS_LO_COUNT : Fld := ⟨31, 0⟩
def F.SRC_REQUESTS_HI_COUNT : Fld := ⟨7, 0⟩
def F.SRC_SYNCS_LO_COUNT : Fld := ⟨31, 0⟩
def F.SRC_SYNCS_HI_COUNT : Fld := ⟨7, 0⟩
def F.SRC_FADES_LO_COUNT : Fld := ⟨31, 0⟩
def F.SRC_FADES_HI_COUNT : Fld := ⟨7, 0⟩
def F.SRC_FADECUT_LO_COUNT : Fld := ⟨31, 0⟩
def F.SRC_FADECUT_HI_COUNT : Fld := ⟨7, 0⟩
def F.SRC_SATS_LO_COUNT : Fld := ⟨31, 0⟩
def F.SRC_SATS_HI_COUNT : Fld := ⟨7, 0⟩
def F.CLS_CMD_OP : Fld := ⟨31, 30⟩
def F.CLS_CMD_STATUS_READY : Fld := ⟨31, 31⟩
def F.CLS_CMD_STATUS_SEQ : Fld := ⟨23, 16⟩
def F.CLS_CMD_STATUS_CODE : Fld := ⟨15, 0⟩
def F.CLS_INDEX_INDEX : Fld := ⟨18, 0⟩
def F.CLS_OCC_OCC : Fld := ⟨18, 0⟩
def F.CLS_STASH_STASH : Fld := ⟨13, 0⟩
def F.CLS_ENT_WORD : Fld := ⟨31, 0⟩
def F.CLS_CFG_EN : Fld := ⟨31, 31⟩
def F.CLS_CFG_MISSACT : Fld := ⟨7, 7⟩
def F.CLS_CFG_MISSQ : Fld := ⟨5, 0⟩
def F.CLS_EVT_CCNT : Fld := ⟨2, 2⟩
def F.CLS_EVT_FULL : Fld := ⟨1, 1⟩
def F.CLS_EVT_HINGE : Fld := ⟨0, 0⟩
def F.CLS_ERR_LOG_VALID : Fld := ⟨31, 31⟩
def F.CLS_ERR_LOG_CODE : Fld := ⟨15, 0⟩
def F.CLS_FRAMES_LO_COUNT : Fld := ⟨31, 0⟩
def F.CLS_FRAMES_HI_COUNT : Fld := ⟨7, 0⟩
def F.CLS_HITS_LO_COUNT : Fld := ⟨31, 0⟩
def F.CLS_HITS_HI_COUNT : Fld := ⟨7, 0⟩
def F.CLS_WILD_LO_COUNT : Fld := ⟨31, 0⟩
def F.CLS_WILD_HI_COUNT : Fld := ⟨7, 0⟩
def F.CLS_MISSES_LO_COUNT : Fld := ⟨31, 0⟩
def F.CLS_MISSES_HI_COUNT : Fld := ⟨7, 0⟩
def F.CLS_L3ERR_LO_COUNT : Fld := ⟨31, 0⟩
def F.CLS_L3ERR_HI_COUNT : Fld := ⟨7, 0⟩
def F.CLS_UDPERR_LO_COUNT : Fld := ⟨31, 0⟩
def F.CLS_UDPERR_HI_COUNT : Fld := ⟨7, 0⟩
def F.CLS_RTPERR_LO_COUNT : Fld := ⟨31, 0⟩
def F.CLS_RTPERR_HI_COUNT : Fld := ⟨7, 0⟩
def F.CLS_PTMISS_LO_COUNT : Fld := ⟨31, 0⟩
def F.CLS_PTMISS_HI_COUNT : Fld := ⟨7, 0⟩
def F.CLS_RTCPIN_LO_COUNT : Fld := ⟨31, 0⟩
def F.CLS_RTCPIN_HI_COUNT : Fld := ⟨7, 0⟩
def F.CLS_W_CTL_EN : Fld := ⟨31, 31⟩
def F.CLS_W_CTL_ACT : Fld := ⟨30, 30⟩
def F.CLS_W_CTL_QUEUE : Fld := ⟨13, 8⟩
def F.CLS_W_CTL_ENF : Fld := ⟨7, 0⟩
def F.CLS_W_ETYPE_ETYPE : Fld := ⟨31, 16⟩
def F.CLS_W_ETYPE_ETMASK : Fld := ⟨15, 0⟩
def F.CLS_W_VID_VID : Fld := ⟨27, 16⟩
def F.CLS_W_VID_VIDMASK : Fld := ⟨11, 0⟩
def F.CLS_W_PROTO_PROTO : Fld := ⟨15, 8⟩
def F.CLS_W_PROTO_FRAG : Fld := ⟨0, 0⟩
def F.CLS_W_LPORT_LPHI : Fld := ⟨31, 16⟩
def F.CLS_W_LPORT_LPLO : Fld := ⟨15, 0⟩
def F.CLS_W_RPORT_RPHI : Fld := ⟨31, 16⟩
def F.CLS_W_RPORT_RPLO : Fld := ⟨15, 0⟩
def F.CLS_W_LADDR_ADDR : Fld := ⟨31, 0⟩
def F.CLS_W_LPFX_LPFX : Fld := ⟨7, 0⟩
def F.CLS_W_RADDR_ADDR : Fld := ⟨31, 0⟩
def F.CLS_W_RPFX_RPFX : Fld := ⟨7, 0⟩
def F.CLS_W_HITS_LO_COUNT : Fld := ⟨31, 0⟩
def F.CLS_W_HITS_HI_COUNT : Fld := ⟨7, 0⟩
def F.PLY_CFG_EN : Fld := ⟨0, 0⟩
def F.PLY_RECBASE_RECBASE : Fld := ⟨27, 0⟩
def F.PLY_TIDMAX_TIDMAX : Fld := ⟨17, 0⟩
def F.PLY_SRTPBASE_SRTPBASE : Fld := ⟨31, 0⟩
def F.PLY_POOL_BASE_BASE : Fld := ⟨31, 0⟩
def F.PLY_POOL_CFG_CELL : Fld := ⟨31, 30⟩
def F.PLY_POOL_CFG_CELLS : Fld := ⟨22, 0⟩
def F.PLY_FREE_FREE : Fld := ⟨22, 0⟩
def F.PLY_NTPOFFS_NTPOFFS : Fld := ⟨15, 0⟩
def F.PLY_EVT_PCNT : Fld := ⟨3, 3⟩
def F.PLY_EVT_EXHAUST : Fld := ⟨2, 2⟩
def F.PLY_EVT_NOCELL : Fld := ⟨1, 1⟩
def F.PLY_EVT_LOST : Fld := ⟨0, 0⟩
def F.PLY_ERR_LOG_VALID : Fld := ⟨31, 31⟩
def F.PLY_ERR_LOG_CAUSE : Fld := ⟨26, 24⟩
def F.PLY_ERR_LOG_TID : Fld := ⟨17, 0⟩
def F.PLY_STORED_LO_COUNT : Fld := ⟨31, 0⟩
def F.PLY_STORED_HI_COUNT : Fld := ⟨7, 0⟩
def F.PLY_DUP_LO_COUNT : Fld := ⟨31, 0⟩
def F.PLY_DUP_HI_COUNT : Fld := ⟨7, 0⟩
def F.PLY_LATE_LO_COUNT : Fld := ⟨31, 0⟩
def F.PLY_LATE_HI_COUNT : Fld := ⟨7, 0⟩
def F.PLY_LOST_LO_COUNT : Fld := ⟨31, 0⟩
def F.PLY_LOST_HI_COUNT : Fld := ⟨7, 0⟩
def F.PLY_REORDER_LO_COUNT : Fld := ⟨31, 0⟩
def F.PLY_REORDER_HI_COUNT : Fld := ⟨7, 0⟩
def F.PLY_RESYNC_LO_COUNT : Fld := ⟨31, 0⟩
def F.PLY_RESYNC_HI_COUNT : Fld := ⟨7, 0⟩
def F.PLY_OVERFLOW_LO_COUNT : Fld := ⟨31, 0⟩
def F.PLY_OVERFLOW_HI_COUNT : Fld := ⟨7, 0⟩
def F.PLY_NOCELL_LO_COUNT : Fld := ⟨31, 0⟩
def F.PLY_NOCELL_HI_COUNT : Fld := ⟨7, 0⟩
def F.PLY_AUTHFAIL_LO_COUNT : Fld := ⟨31, 0⟩
def F.PLY_AUTHFAIL_HI_COUNT : Fld := ⟨7, 0⟩
def F.PLY_REPLAY_LO_COUNT : Fld := ⟨31, 0⟩
def F.PLY_REPLAY_HI_COUNT : Fld := ⟨7, 0⟩
def F.PLY_RTCPTX_LO_COUNT : Fld := ⟨31, 0⟩
def F.PLY_RTCPTX_HI_COUNT : Fld := ⟨7, 0⟩
def F.PLY_RTCPRX_LO_COUNT : Fld := ⟨31, 0⟩
def F.PLY_RTCPRX_HI_COUNT : Fld := ⟨7, 0⟩
def F.PLY_DISCARD_LO_COUNT : Fld := ⟨31, 0⟩
def F.PLY_DISCARD_HI_COUNT : Fld := ⟨7, 0⟩
def F.PLY_RECLOST_LO_COUNT : Fld := ⟨31, 0⟩
def F.PLY_RECLOST_HI_COUNT : Fld := ⟨7, 0⟩
def F.TDM_CFG_DEPTH : Fld := ⟨24, 16⟩
def F.TDM_CFG_IDLEV : Fld := ⟨15, 8⟩
def F.TDM_CFG_E1 : Fld := ⟨6, 6⟩
def F.TDM_CFG_MODE : Fld := ⟨5, 5⟩
def F.TDM_CFG_RATE : Fld := ⟨2, 0⟩
def F.TDM_CTRL_CAL : Fld := ⟨4, 4⟩
def F.TDM_CTRL_LOOP : Fld := ⟨3, 2⟩
def F.TDM_CTRL_OE : Fld := ⟨1, 1⟩
def F.TDM_CTRL_EN : Fld := ⟨0, 0⟩
def F.TDM_TIMING_TXEDGE : Fld := ⟨5, 5⟩
def F.TDM_TIMING_FSPOL : Fld := ⟨4, 4⟩
def F.TDM_TIMING_FSOFF : Fld := ⟨3, 0⟩
def F.TDM_DLY_BOFFS : Fld := ⟨23, 16⟩
def F.TDM_DLY_AUTO : Fld := ⟨7, 0⟩
def F.TDM_IBASE_OFFS : Fld := ⟨25, 8⟩
def F.TDM_EBASE_OFFS : Fld := ⟨25, 8⟩
def F.TDM_TBASE_OFFS : Fld := ⟨25, 8⟩
def F.TDM_STATUS_LOF : Fld := ⟨1, 1⟩
def F.TDM_STATUS_RUN : Fld := ⟨0, 0⟩
def F.TDM_FCNT_FCNT : Fld := ⟨31, 0⟩
def F.TDM_EVT_TCNT : Fld := ⟨7, 7⟩
def F.TDM_EVT_HCFG : Fld := ⟨6, 6⟩
def F.TDM_EVT_HDLC : Fld := ⟨5, 5⟩
def F.TDM_EVT_CAS : Fld := ⟨4, 4⟩
def F.TDM_EVT_IDLE : Fld := ⟨3, 3⟩
def F.TDM_EVT_SLIP : Fld := ⟨2, 2⟩
def F.TDM_EVT_FSERR : Fld := ⟨1, 1⟩
def F.TDM_EVT_LOF : Fld := ⟨0, 0⟩
def F.TDM_CALSTATUS_READY : Fld := ⟨31, 31⟩
def F.TDM_CALSTATUS_SEQ : Fld := ⟨23, 16⟩
def F.TDM_CALSTATUS_CODE : Fld := ⟨15, 0⟩
def F.TDM_CALAUTO_AUTO : Fld := ⟨7, 0⟩
def F.TDM_FRAMES_IN_LO_COUNT : Fld := ⟨31, 0⟩
def F.TDM_FRAMES_IN_HI_COUNT : Fld := ⟨7, 0⟩
def F.TDM_FRAMES_OUT_LO_COUNT : Fld := ⟨31, 0⟩
def F.TDM_FRAMES_OUT_HI_COUNT : Fld := ⟨7, 0⟩
def F.TDM_IDLETX_LO_COUNT : Fld := ⟨31, 0⟩
def F.TDM_IDLETX_HI_COUNT : Fld := ⟨7, 0⟩
def F.TDM_SLIP_LO_COUNT : Fld := ⟨31, 0⟩
def F.TDM_SLIP_HI_COUNT : Fld := ⟨7, 0⟩
def F.TDM_FSERR_LO_COUNT : Fld := ⟨31, 0⟩
def F.TDM_FSERR_HI_COUNT : Fld := ⟨7, 0⟩
def F.TDM_LOF_LO_COUNT : Fld := ⟨31, 0⟩
def F.TDM_LOF_HI_COUNT : Fld := ⟨7, 0⟩
def F.TDM_CASCHG_LO_COUNT : Fld := ⟨31, 0⟩
def F.TDM_CASCHG_HI_COUNT : Fld := ⟨7, 0⟩
def F.TDM_HRXFRAMES_LO_COUNT : Fld := ⟨31, 0⟩
def F.TDM_HRXFRAMES_HI_COUNT : Fld := ⟨7, 0⟩
def F.TDM_HTXFRAMES_LO_COUNT : Fld := ⟨31, 0⟩
def F.TDM_HTXFRAMES_HI_COUNT : Fld := ⟨7, 0⟩
def F.TDM_HFCSERR_LO_COUNT : Fld := ⟨31, 0⟩
def F.TDM_HFCSERR_HI_COUNT : Fld := ⟨7, 0⟩
def F.TDM_HABORT_LO_COUNT : Fld := ⟨31, 0⟩
def F.TDM_HABORT_HI_COUNT : Fld := ⟨7, 0⟩
def F.TDM_HOVERLONG_LO_COUNT : Fld := ⟨31, 0⟩
def F.TDM_HOVERLONG_HI_COUNT : Fld := ⟨7, 0⟩
def F.TDM_HRXLOST_LO_COUNT : Fld := ⟨31, 0⟩
def F.TDM_HRXLOST_HI_COUNT : Fld := ⟨7, 0⟩
def F.TDM_HTXBAD_LO_COUNT : Fld := ⟨31, 0⟩
def F.TDM_HTXBAD_HI_COUNT : Fld := ⟨7, 0⟩
def F.TDM_HCFG_EN : Fld := ⟨31, 31⟩
def F.TDM_HCFG_FCS32 : Fld := ⟨30, 30⟩
def F.TDM_HCFG_IDLEFILL : Fld := ⟨29, 29⟩
def F.TDM_HCFG_TS : Fld := ⟨25, 16⟩
def F.TDM_HCFG_NTS : Fld := ⟨15, 10⟩
def F.TDM_HCFG_MASK : Fld := ⟨7, 0⟩
def F.TDM_HRXC_CASK : Fld := ⟨13, 0⟩
def F.TDM_HTXC_CASK : Fld := ⟨13, 0⟩
def F.TDM_HSTAT_ACTIVE : Fld := ⟨0, 0⟩
def F.TDM_CASRX_ABCD : Fld := ⟨31, 0⟩
def F.TDM_CASRX3_ABCD : Fld := ⟨23, 0⟩
def F.TDM_CASTX_ABCD : Fld := ⟨31, 0⟩
def F.TDM_CASTX3_ABCD : Fld := ⟨23, 0⟩
def F.TDM_CASCHG_CHG : Fld := ⟨29, 0⟩
def F.TDM_CASSTAT_YTX : Fld := ⟨1, 1⟩
def F.TDM_CASSTAT_MFLOCK : Fld := ⟨0, 0⟩
def F.MAC_CFG_MODE : Fld := ⟨25, 24⟩
def F.MAC_CFG_RSFEC : Fld := ⟨23, 23⟩
def F.MAC_CFG_JUMBO : Fld := ⟨21, 21⟩
def F.MAC_CFG_PAUSERX : Fld := ⟨20, 20⟩
def F.MAC_CFG_PAUSETX : Fld := ⟨19, 19⟩
def F.MAC_CFG_PROMISC : Fld := ⟨18, 18⟩
def F.MAC_CTRL_LOOP : Fld := ⟨2, 2⟩
def F.MAC_CTRL_TXEN : Fld := ⟨1, 1⟩
def F.MAC_CTRL_EN : Fld := ⟨0, 0⟩
def F.MAC_STATUS_PAUSED : Fld := ⟨3, 3⟩
def F.MAC_STATUS_FECLOCK : Fld := ⟨2, 2⟩
def F.MAC_STATUS_BLOCKLOCK : Fld := ⟨1, 1⟩
def F.MAC_STATUS_LINK : Fld := ⟨0, 0⟩
def F.MAC_MAXLEN_MAXLEN : Fld := ⟨13, 0⟩
def F.MAC_PAUSE_WDMS : Fld := ⟨25, 16⟩
def F.MAC_TPID_OTPID : Fld := ⟨15, 0⟩
def F.MAC_ADDRLO_ADDR : Fld := ⟨31, 0⟩
def F.MAC_ADDRHI_ADDR : Fld := ⟨15, 0⟩
def F.MAC_EGRESS_PARENT : Fld := ⟨12, 0⟩
def F.MAC_TSADJ_TXLAT : Fld := ⟨31, 16⟩
def F.MAC_TSADJ_RXLAT : Fld := ⟨15, 0⟩
def F.MAC_SERDES_POLTX : Fld := ⟨31, 31⟩
def F.MAC_SERDES_POLRX : Fld := ⟨30, 30⟩
def F.MAC_SERDES_POST : Fld := ⟨20, 16⟩
def F.MAC_SERDES_PRE : Fld := ⟨12, 8⟩
def F.MAC_SERDES_AMP : Fld := ⟨5, 0⟩
def F.MAC_EVT_CFGREF : Fld := ⟨7, 7⟩
def F.MAC_EVT_CNT : Fld := ⟨6, 6⟩
def F.MAC_EVT_TXDISC : Fld := ⟨5, 5⟩
def F.MAC_EVT_RXOVF : Fld := ⟨4, 4⟩
def F.MAC_EVT_PAUSEWD : Fld := ⟨3, 3⟩
def F.MAC_EVT_FECUNC : Fld := ⟨2, 2⟩
def F.MAC_EVT_LINKDN : Fld := ⟨1, 1⟩
def F.MAC_EVT_LINKUP : Fld := ⟨0, 0⟩
def F.MAC_RXFRAMES_LO_COUNT : Fld := ⟨31, 0⟩
def F.MAC_RXFRAMES_HI_COUNT : Fld := ⟨7, 0⟩
def F.MAC_RXOCTETS_LO_COUNT : Fld := ⟨31, 0⟩
def F.MAC_RXOCTETS_HI_COUNT : Fld := ⟨7, 0⟩
def F.MAC_RXBCAST_LO_COUNT : Fld := ⟨31, 0⟩
def F.MAC_RXBCAST_HI_COUNT : Fld := ⟨7, 0⟩
def F.MAC_RXMCAST_LO_COUNT : Fld := ⟨31, 0⟩
def F.MAC_RXMCAST_HI_COUNT : Fld := ⟨7, 0⟩
def F.MAC_RUNT_LO_COUNT : Fld := ⟨31, 0⟩
def F.MAC_RUNT_HI_COUNT : Fld := ⟨7, 0⟩
def F.MAC_OVERSIZE_LO_COUNT : Fld := ⟨31, 0⟩
def F.MAC_OVERSIZE_HI_COUNT : Fld := ⟨7, 0⟩
def F.MAC_FCSERR_LO_COUNT : Fld := ⟨31, 0⟩
def F.MAC_FCSERR_HI_COUNT : Fld := ⟨7, 0⟩
def F.MAC_DAFILT_LO_COUNT : Fld := ⟨31, 0⟩
def F.MAC_DAFILT_HI_COUNT : Fld := ⟨7, 0⟩
def F.MAC_RXOVF_LO_COUNT : Fld := ⟨31, 0⟩
def F.MAC_RXOVF_HI_COUNT : Fld := ⟨7, 0⟩
def F.MAC_PAUSERX_LO_COUNT : Fld := ⟨31, 0⟩
def F.MAC_PAUSERX_HI_COUNT : Fld := ⟨7, 0⟩
def F.MAC_PAUSEWD_LO_COUNT : Fld := ⟨31, 0⟩
def F.MAC_PAUSEWD_HI_COUNT : Fld := ⟨7, 0⟩
def F.MAC_TXFRAMES_LO_COUNT : Fld := ⟨31, 0⟩
def F.MAC_TXFRAMES_HI_COUNT : Fld := ⟨7, 0⟩
def F.MAC_TXOCTETS_LO_COUNT : Fld := ⟨31, 0⟩
def F.MAC_TXOCTETS_HI_COUNT : Fld := ⟨7, 0⟩
def F.MAC_PAUSETX_LO_COUNT : Fld := ⟨31, 0⟩
def F.MAC_PAUSETX_HI_COUNT : Fld := ⟨7, 0⟩
def F.MAC_TXOVERSIZE_LO_COUNT : Fld := ⟨31, 0⟩
def F.MAC_TXOVERSIZE_HI_COUNT : Fld := ⟨7, 0⟩
def F.MAC_TXBAD_LO_COUNT : Fld := ⟨31, 0⟩
def F.MAC_TXBAD_HI_COUNT : Fld := ⟨7, 0⟩
def F.MAC_TXDISC_LO_COUNT : Fld := ⟨31, 0⟩
def F.MAC_TXDISC_HI_COUNT : Fld := ⟨7, 0⟩
def F.MAC_FECCORR_LO_COUNT : Fld := ⟨31, 0⟩
def F.MAC_FECCORR_HI_COUNT : Fld := ⟨7, 0⟩
def F.MAC_FECUNC_LO_COUNT : Fld := ⟨31, 0⟩
def F.MAC_FECUNC_HI_COUNT : Fld := ⟨7, 0⟩
def F.MAC_COLL_LO_COUNT : Fld := ⟨31, 0⟩
def F.MAC_COLL_HI_COUNT : Fld := ⟨7, 0⟩
def F.MAC_LATECOL_LO_COUNT : Fld := ⟨31, 0⟩
def F.MAC_LATECOL_HI_COUNT : Fld := ⟨7, 0⟩
def F.MAC_EXCOL_LO_COUNT : Fld := ⟨31, 0⟩
def F.MAC_EXCOL_HI_COUNT : Fld := ⟨7, 0⟩
def F.MAC_WCFG_EN : Fld := ⟨31, 31⟩
def F.MAC_WCFG_MAGIC : Fld := ⟨30, 30⟩
def F.MAC_WCFG_LEN : Fld := ⟨7, 0⟩
def F.MAC_WMASK_MASK : Fld := ⟨31, 0⟩
def F.MAC_WDATA_DATA : Fld := ⟨31, 0⟩
def F.MACM_RGMII_TXDLY : Fld := ⟨1, 1⟩
def F.MACM_RGMII_RXDLY : Fld := ⟨0, 0⟩
def F.MACM_MDIOCMD_OP : Fld := ⟨31, 29⟩
def F.MACM_MDIOCMD_PHYAD : Fld := ⟨25, 21⟩
def F.MACM_MDIOCMD_REG : Fld := ⟨20, 16⟩
def F.MACM_MDIOCMD_DATA : Fld := ⟨15, 0⟩
def F.MACM_MDIO_STATUS_READY : Fld := ⟨31, 31⟩
def F.MACM_MDIO_STATUS_SEQ : Fld := ⟨23, 16⟩
def F.MACM_MDIO_STATUS_CODE : Fld := ⟨15, 0⟩
def F.MACM_MDIO_DATA_DATA : Fld := ⟨15, 0⟩
def F.MACM_RQ_BASELO_BASE : Fld := ⟨31, 5⟩
def F.MACM_RQ_BASEHI_BASE : Fld := ⟨31, 0⟩
def F.MACM_RQ_CFG_EN : Fld := ⟨31, 31⟩
def F.MACM_RQ_CFG_MODE : Fld := ⟨30, 30⟩
def F.MACM_RQ_CFG_LOC : Fld := ⟨29, 29⟩
def F.MACM_RQ_CFG_SIZE : Fld := ⟨27, 24⟩
def F.MACM_RQ_CFG_BUFSZ : Fld := ⟨21, 16⟩
def F.MACM_RQ_CFG_TSB : Fld := ⟨15, 13⟩
def F.MACM_RQ_TAIL_TAIL : Fld := ⟨15, 0⟩
def F.MACM_RQ_HEAD_HEAD : Fld := ⟨15, 0⟩
def F.MACM_RQ_CASK_CASK : Fld := ⟨13, 0⟩
def F.MACM_RQ_FRAMES_LO_COUNT : Fld := ⟨31, 0⟩
def F.MACM_RQ_FRAMES_HI_COUNT : Fld := ⟨7, 0⟩
def F.MACM_RQ_DROPS_LO_COUNT : Fld := ⟨31, 0⟩
def F.MACM_RQ_DROPS_HI_COUNT : Fld := ⟨7, 0⟩
def F.MACM_TQ_BASELO_BASE : Fld := ⟨31, 5⟩
def F.MACM_TQ_BASEHI_BASE : Fld := ⟨31, 0⟩
def F.MACM_TQ_CFG_EN : Fld := ⟨31, 31⟩
def F.MACM_TQ_CFG_LOC : Fld := ⟨29, 29⟩
def F.MACM_TQ_CFG_SIZE : Fld := ⟨27, 24⟩
def F.MACM_TQ_CFG_PRIO : Fld := ⟨18, 16⟩
def F.MACM_TQ_CFG_MAC : Fld := ⟨2, 0⟩
def F.MACM_TQ_TAIL_TAIL : Fld := ⟨15, 0⟩
def F.MACM_TQ_HEAD_HEAD : Fld := ⟨15, 0⟩
def F.MACM_TQ_FRAMES_LO_COUNT : Fld := ⟨31, 0⟩
def F.MACM_TQ_FRAMES_HI_COUNT : Fld := ⟨7, 0⟩
def F.MACM_TQ_DROPS_LO_COUNT : Fld := ⟨31, 0⟩
def F.MACM_TQ_DROPS_HI_COUNT : Fld := ⟨7, 0⟩
def F.HIF_STATUS_SPEED : Fld := ⟨11, 8⟩
def F.HIF_STATUS_WIDTH : Fld := ⟨7, 4⟩
def F.HIF_STATUS_BOOTED : Fld := ⟨3, 3⟩
def F.HIF_STATUS_HOSTSEL : Fld := ⟨1, 0⟩
def F.HIF_EVT_QCNT : Fld := ⟨8, 8⟩
def F.HIF_EVT_LINKDN : Fld := ⟨7, 7⟩
def F.HIF_EVT_CSKCNT : Fld := ⟨6, 6⟩
def F.HIF_EVT_HCNT : Fld := ⟨5, 5⟩
def F.HIF_EVT_POISONRD : Fld := ⟨4, 4⟩
def F.HIF_EVT_KWABORT : Fld := ⟨3, 3⟩
def F.HIF_EVT_PARTIAL : Fld := ⟨2, 2⟩
def F.HIF_EVT_DECODE : Fld := ⟨1, 1⟩
def F.HIF_EVT_DROPWR : Fld := ⟨0, 0⟩
def F.HIF_WRDROP_LO_COUNT : Fld := ⟨31, 0⟩
def F.HIF_WRDROP_HI_COUNT : Fld := ⟨7, 0⟩
def F.HIF_RDDECODE_LO_COUNT : Fld := ⟨31, 0⟩
def F.HIF_RDDECODE_HI_COUNT : Fld := ⟨7, 0⟩
def F.HIF_PARTIAL_LO_COUNT : Fld := ⟨31, 0⟩
def F.HIF_PARTIAL_HI_COUNT : Fld := ⟨7, 0⟩
def F.HIF_KWABORT_LO_COUNT : Fld := ⟨31, 0⟩
def F.HIF_KWABORT_HI_COUNT : Fld := ⟨7, 0⟩
def F.HIF_POISONRD_LO_COUNT : Fld := ⟨31, 0⟩
def F.HIF_POISONRD_HI_COUNT : Fld := ⟨7, 0⟩
def F.HIF_DMA_CFG_EN : Fld := ⟨31, 31⟩
def F.HIF_DMA_CFG_MODE : Fld := ⟨30, 30⟩
def F.HIF_DMA_CFG_LOC : Fld := ⟨29, 29⟩
def F.HIF_DMA_CFG_SIZE : Fld := ⟨27, 24⟩
def F.HIF_DMA_CFG_CASK : Fld := ⟨13, 0⟩
def F.HIF_DMA_BASELO_BASE : Fld := ⟨31, 6⟩
def F.HIF_DMA_BASEHI_BASE : Fld := ⟨31, 0⟩
def F.HIF_DMA_CBLO_CB : Fld := ⟨31, 4⟩
def F.HIF_DMA_CBHI_CB : Fld := ⟨31, 0⟩
def F.HIF_DMA_HOSTCNT_HOSTCNT : Fld := ⟨15, 0⟩
def F.HIF_DMA_HEAD_HEAD : Fld := ⟨15, 0⟩
def F.HIF_DMA_STATUS_RUN : Fld := ⟨31, 31⟩
def F.HIF_DMA_STATUS_CODE : Fld := ⟨15, 0⟩
def F.HIF_DMA_EVT_ERR : Fld := ⟨1, 1⟩
def F.HIF_DMA_EVT_DONE : Fld := ⟨0, 0⟩
def F.EVT_RAW_RAW : Fld := ⟨31, 0⟩
def F.EVT_ACT_ACT : Fld := ⟨31, 0⟩
def F.EVT_ERRC_ERRC : Fld := ⟨15, 0⟩
def F.EVT_VACT_VACT : Fld := ⟨31, 0⟩
def F.EVT_VINSVC_VINSVC : Fld := ⟨31, 0⟩
def F.EVT_VACK_VACK : Fld := ⟨31, 0⟩
def F.EVT_VPIN_VPIN : Fld := ⟨31, 0⟩
def F.EVT_PINCFG_OE : Fld := ⟨1, 0⟩
def F.EVT_ROUTE_R3EN : Fld := ⟨31, 31⟩
def F.EVT_ROUTE_R3 : Fld := ⟨29, 24⟩
def F.EVT_ROUTE_R2EN : Fld := ⟨23, 23⟩
def F.EVT_ROUTE_R2 : Fld := ⟨21, 16⟩
def F.EVT_ROUTE_R1EN : Fld := ⟨15, 15⟩
def F.EVT_ROUTE_R1 : Fld := ⟨13, 8⟩
def F.EVT_ROUTE_R0EN : Fld := ⟨7, 7⟩
def F.EVT_ROUTE_R0 : Fld := ⟨5, 0⟩
def F.GLB_EVT_CLSTATE : Fld := ⟨4, 4⟩
def F.GLB_EVT_WDWARN : Fld := ⟨3, 3⟩
def F.GLB_EVT_WAKE : Fld := ⟨2, 2⟩
def F.GLB_EVT_PWRREF : Fld := ⟨1, 1⟩
def F.GLB_EVT_DVFSREF : Fld := ⟨0, 0⟩
def F.TIME_CFG_DOMB : Fld := ⟨31, 24⟩
def F.TIME_CFG_DOMA : Fld := ⟨23, 16⟩
def F.TIME_CFG_REFSEL : Fld := ⟨0, 0⟩
def F.TIME_STATUS_MIRROR : Fld := ⟨8, 8⟩
def F.TIME_STATUS_SLEWING : Fld := ⟨7, 7⟩
def F.TIME_STATUS_SRC : Fld := ⟨6, 5⟩
def F.TIME_STATUS_REFACT : Fld := ⟨4, 4⟩
def F.TIME_STATUS_STB : Fld := ⟨3, 2⟩
def F.TIME_STATUS_STA : Fld := ⟨1, 0⟩
def F.TIME_EVT_CNT : Fld := ⟨6, 6⟩
def F.TIME_EVT_ALARM : Fld := ⟨5, 5⟩
def F.TIME_EVT_PPSIN : Fld := ⟨4, 4⟩
def F.TIME_EVT_HOLD : Fld := ⟨3, 3⟩
def F.TIME_EVT_SWITCH : Fld := ⟨2, 2⟩
def F.TIME_EVT_DOMB : Fld := ⟨1, 1⟩
def F.TIME_EVT_DOMA : Fld := ⟨0, 0⟩
def F.TIME_TB2CTL_SLEW : Fld := ⟨11, 8⟩
def F.TIME_TB2CTL_WSEL : Fld := ⟨3, 3⟩
def F.TIME_TB2CTL_AUTOSW : Fld := ⟨2, 2⟩
def F.TIME_TB2CTL_SRC : Fld := ⟨1, 0⟩
def F.TIME_TB2DIFF_D : Fld := ⟨31, 0⟩
def F.TIME_CAPTURE_ANY : Fld := ⟨31, 0⟩
def F.TIME_CAP_STATUS_READY : Fld := ⟨31, 31⟩
def F.TIME_CAP_STATUS_SEQ : Fld := ⟨23, 16⟩
def F.TIME_CAP_STATUS_CODE : Fld := ⟨15, 0⟩
def F.TIME_CAP_SECHI_SECHI : Fld := ⟨15, 0⟩
def F.TIME_CAP_SECLO_SECLO : Fld := ⟨31, 0⟩
def F.TIME_CAP_NS_NS : Fld := ⟨31, 0⟩
def F.TIME_CAP_FRAC_FRAC : Fld := ⟨31, 0⟩
def F.TIME_CAP_CALHI_SECHI : Fld := ⟨15, 0⟩
def F.TIME_CAP_CALLO_SECLO : Fld := ⟨31, 0⟩
def F.TIME_CAP_CALFR_FRAC : Fld := ⟨14, 0⟩
def F.TIME_INCHI_INCNS : Fld := ⟨3, 0⟩
def F.TIME_INCLO_INCFR : Fld := ⟨31, 0⟩
def F.TIME_INCHI_RO_INCNS : Fld := ⟨3, 0⟩
def F.TIME_INCLO_RO_INCFR : Fld := ⟨31, 0⟩
def F.TIME_ADJ_ADJ : Fld := ⟨31, 0⟩
def F.TIME_ADJREM_ADJREM : Fld := ⟨31, 0⟩
def F.TIME_DCFG_EN : Fld := ⟨31, 31⟩
def F.TIME_DCFG_SLEWPPM : Fld := ⟨25, 16⟩
def F.TIME_DCFG_HOLDTO : Fld := ⟨15, 8⟩
def F.TIME_DCFG_AVGS : Fld := ⟨5, 0⟩
def F.TIME_CMD_OP : Fld := ⟨31, 30⟩
def F.TIME_CMD_NEG : Fld := ⟨29, 29⟩
def F.TIME_VSECHI_VSECHI : Fld := ⟨15, 0⟩
def F.TIME_VSECLO_VSECLO : Fld := ⟨31, 0⟩
def F.TIME_VNS_VNS : Fld := ⟨29, 0⟩
def F.TIME_CMD_STATUS_READY : Fld := ⟨31, 31⟩
def F.TIME_CMD_STATUS_SEQ : Fld := ⟨23, 16⟩
def F.TIME_CMD_STATUS_CODE : Fld := ⟨15, 0⟩
def F.TIME_PPSOUT_EN : Fld := ⟨31, 31⟩
def F.TIME_PPSOUT_SRC : Fld := ⟨30, 29⟩
def F.TIME_PPSOUT_DLY : Fld := ⟨23, 16⟩
def F.TIME_PPSOUT_WIDTH : Fld := ⟨15, 0⟩
def F.TIME_PPSIN_CFG_POL : Fld := ⟨0, 0⟩
def F.TIME_PPSIN_STATUS_READY : Fld := ⟨31, 31⟩
def F.TIME_PPSIN_STATUS_SEQ : Fld := ⟨23, 16⟩
def F.TIME_PPSIN_STATUS_CODE : Fld := ⟨15, 0⟩
def F.TIME_PPSIN_SECLO_SECLO : Fld := ⟨31, 0⟩
def F.TIME_PPSIN_NS_NS : Fld := ⟨31, 0⟩
def F.TIME_CALCFG_ALEN : Fld := ⟨1, 1⟩
def F.TIME_CALCFG_VALID : Fld := ⟨0, 0⟩
def F.TIME_CALSETHI_CALSETHI : Fld := ⟨15, 0⟩
def F.TIME_CALSETLO_CALSETLO : Fld := ⟨31, 0⟩
def F.TIME_CALCMD_OP : Fld := ⟨31, 30⟩
def F.TIME_CALCMD_SRC : Fld := ⟨1, 0⟩
def F.TIME_CAL_STATUS_READY : Fld := ⟨31, 31⟩
def F.TIME_CAL_STATUS_SEQ : Fld := ⟨23, 16⟩
def F.TIME_CAL_STATUS_CODE : Fld := ⟨15, 0⟩
def F.TIME_ALARMHI_ALARMHI : Fld := ⟨15, 0⟩
def F.TIME_ALARMLO_ALARMLO : Fld := ⟨31, 0⟩
def F.TIME_PPSIN_LO_COUNT : Fld := ⟨31, 0⟩
def F.TIME_PPSIN_HI_COUNT : Fld := ⟨7, 0⟩
def F.TIME_PPSGLITCH_LO_COUNT : Fld := ⟨31, 0⟩
def F.TIME_PPSGLITCH_HI_COUNT : Fld := ⟨7, 0⟩
def F.TIME_REFLOSS_LO_COUNT : Fld := ⟨31, 0⟩
def F.TIME_REFLOSS_HI_COUNT : Fld := ⟨7, 0⟩
def F.TIME_HOLDOVERS_LO_COUNT : Fld := ⟨31, 0⟩
def F.TIME_HOLDOVERS_HI_COUNT : Fld := ⟨7, 0⟩
def F.TIME_SWITCHES_LO_COUNT : Fld := ⟨31, 0⟩
def F.TIME_SWITCHES_HI_COUNT : Fld := ⟨7, 0⟩
def F.TIME_ALIGNS_LO_COUNT : Fld := ⟨31, 0⟩
def F.TIME_ALIGNS_HI_COUNT : Fld := ⟨7, 0⟩
def F.TIME_CLAMPS_LO_COUNT : Fld := ⟨31, 0⟩
def F.TIME_CLAMPS_HI_COUNT : Fld := ⟨7, 0⟩
def F.WDN_CFG_EN : Fld := ⟨0, 0⟩
def F.WDN_STATUS_DEFAULT : Fld := ⟨16, 16⟩
def F.WDN_STATUS_POLVER : Fld := ⟨15, 0⟩
def F.WDN_EVT_WCNT : Fld := ⟨4, 4⟩
def F.WDN_EVT_NOROOM : Fld := ⟨3, 3⟩
def F.WDN_EVT_EVAC : Fld := ⟨2, 2⟩
def F.WDN_EVT_ABORT : Fld := ⟨1, 1⟩
def F.WDN_EVT_LOST : Fld := ⟨0, 0⟩
def F.WDN_ERR_LOG_VALID : Fld := ⟨31, 31⟩
def F.WDN_ERR_LOG_CODE : Fld := ⟨15, 0⟩
def F.WDN_PCMT_VERSION : Fld := ⟨15, 0⟩
def F.WDN_POLBASE_POLBASE : Fld := ⟨31, 0⟩
def F.WDN_PSTATUS_READY : Fld := ⟨31, 31⟩
def F.WDN_PSTATUS_SEQ : Fld := ⟨23, 16⟩
def F.WDN_PSTATUS_CODE : Fld := ⟨15, 0⟩
def F.WDN_CLCMD_OP : Fld := ⟨31, 29⟩
def F.WDN_CLCMD_CLUSTER : Fld := ⟨4, 0⟩
def F.WDN_CLSTATUS_READY : Fld := ⟨31, 31⟩
def F.WDN_CLSTATUS_SEQ : Fld := ⟨23, 16⟩
def F.WDN_CLSTATUS_CODE : Fld := ⟨15, 0⟩
def F.WDN_CLSTATUS1_CLUSTER : Fld := ⟨20, 16⟩
def F.WDN_CLSTATUS1_STATE : Fld := ⟨2, 0⟩
def F.WDN_RHCMD_OP : Fld := ⟨31, 30⟩
def F.WDN_RHCMD_CLUSTER : Fld := ⟨22, 18⟩
def F.WDN_RHCMD_TID : Fld := ⟨17, 0⟩
def F.WDN_RHSTATUS_READY : Fld := ⟨31, 31⟩
def F.WDN_RHSTATUS_SEQ : Fld := ⟨23, 16⟩
def F.WDN_RHSTATUS_CODE : Fld := ⟨15, 0⟩
def F.WDN_RHSTATUS_TID_TID : Fld := ⟨17, 0⟩
def F.WDN_RHSTATUS_CL_CLUSTER : Fld := ⟨4, 0⟩
def F.WDN_STAGEBASE_STAGEBASE : Fld := ⟨31, 0⟩
def F.WDN_EVCASK_EVCASK : Fld := ⟨13, 0⟩
def F.WDN_DVFS_STATUS_READY : Fld := ⟨31, 31⟩
def F.WDN_DVFS_STATUS_SEQ : Fld := ⟨23, 16⟩
def F.WDN_DVFS_STATUS_CODE : Fld := ⟨15, 0⟩
def F.WDN_ADJUSTS_LO_COUNT : Fld := ⟨31, 0⟩
def F.WDN_ADJUSTS_HI_COUNT : Fld := ⟨7, 0⟩
def F.WDN_ADVISES_LO_COUNT : Fld := ⟨31, 0⟩
def F.WDN_ADVISES_HI_COUNT : Fld := ⟨7, 0⟩
def F.WDN_REHOMES_LO_COUNT : Fld := ⟨31, 0⟩
def F.WDN_REHOMES_HI_COUNT : Fld := ⟨7, 0⟩
def F.WDN_ABORTS_LO_COUNT : Fld := ⟨31, 0⟩
def F.WDN_ABORTS_HI_COUNT : Fld := ⟨7, 0⟩
def F.WDN_EVACS_LO_COUNT : Fld := ⟨31, 0⟩
def F.WDN_EVACS_HI_COUNT : Fld := ⟨7, 0⟩
def F.WDN_PROMOTIONS_LO_COUNT : Fld := ⟨31, 0⟩
def F.WDN_PROMOTIONS_HI_COUNT : Fld := ⟨7, 0⟩
def F.WDN_NOROOM_LO_COUNT : Fld := ⟨31, 0⟩
def F.WDN_NOROOM_HI_COUNT : Fld := ⟨7, 0⟩
def F.WDN_LATERUNS_LO_COUNT : Fld := ⟨31, 0⟩
def F.WDN_LATERUNS_HI_COUNT : Fld := ⟨7, 0⟩
def F.WDN_RECLOST_LO_COUNT : Fld := ⟨31, 0⟩
def F.WDN_RECLOST_HI_COUNT : Fld := ⟨7, 0⟩
def F.PRS_CFG_EN : Fld := ⟨31, 31⟩
def F.PRS_CFG_JOBCASK : Fld := ⟨12, 0⟩
def F.PRS_STATUS_BUSY : Fld := ⟨31, 31⟩
def F.PRS_STATUS_TAG : Fld := ⟨15, 0⟩
def F.PRS_EVT_PCNT : Fld := ⟨3, 3⟩
def F.PRS_EVT_BADJOB : Fld := ⟨2, 2⟩
def F.PRS_EVT_ERR : Fld := ⟨1, 1⟩
def F.PRS_EVT_DONE : Fld := ⟨0, 0⟩
def F.PRS_ERR_LOG_VALID : Fld := ⟨31, 31⟩
def F.PRS_ERR_LOG_CODE : Fld := ⟨15, 0⟩
def F.PRS_JOBS_LO_COUNT : Fld := ⟨31, 0⟩
def F.PRS_JOBS_HI_COUNT : Fld := ⟨7, 0⟩
def F.PRS_ERRORS_LO_COUNT : Fld := ⟨31, 0⟩
def F.PRS_ERRORS_HI_COUNT : Fld := ⟨7, 0⟩
def F.PRS_BADJOB_LO_COUNT : Fld := ⟨31, 0⟩
def F.PRS_BADJOB_HI_COUNT : Fld := ⟨7, 0⟩
def F.PRS_INBYTES_LO_COUNT : Fld := ⟨31, 0⟩
def F.PRS_INBYTES_HI_COUNT : Fld := ⟨7, 0⟩
def F.PRS_OUTBYTES_LO_COUNT : Fld := ⟨31, 0⟩
def F.PRS_OUTBYTES_HI_COUNT : Fld := ⟨7, 0⟩
def F.TRC_CFG_EN : Fld := ⟨0, 0⟩
def F.TRC_STATUS_CHARGE : Fld := ⟨23, 0⟩
def F.TRC_EVT_SKEW : Fld := ⟨4, 4⟩
def F.TRC_EVT_TCNT : Fld := ⟨3, 3⟩
def F.TRC_EVT_FULL : Fld := ⟨2, 2⟩
def F.TRC_EVT_SEG : Fld := ⟨1, 1⟩
def F.TRC_EVT_ARMREF : Fld := ⟨0, 0⟩
def F.TRC_ERR_LOG_VALID : Fld := ⟨31, 31⟩
def F.TRC_ERR_LOG_PROBE : Fld := ⟨19, 16⟩
def F.TRC_ERR_LOG_CODE : Fld := ⟨15, 0⟩
def F.TRC_ENTRIES_LO_COUNT : Fld := ⟨31, 0⟩
def F.TRC_ENTRIES_HI_COUNT : Fld := ⟨7, 0⟩
def F.TRC_SEGMENTS_LO_COUNT : Fld := ⟨31, 0⟩
def F.TRC_SEGMENTS_HI_COUNT : Fld := ⟨7, 0⟩
def F.TRC_MISSTRIG_LO_COUNT : Fld := ⟨31, 0⟩
def F.TRC_MISSTRIG_HI_COUNT : Fld := ⟨7, 0⟩
def F.TRC_DROPPED_LO_COUNT : Fld := ⟨31, 0⟩
def F.TRC_DROPPED_HI_COUNT : Fld := ⟨7, 0⟩
def F.TRC_UNCLAIMED_LO_COUNT : Fld := ⟨31, 0⟩
def F.TRC_UNCLAIMED_HI_COUNT : Fld := ⟨7, 0⟩
def F.TRC_P_PCFG_EN : Fld := ⟨31, 31⟩
def F.TRC_P_PCFG_SRC : Fld := ⟨30, 28⟩
def F.TRC_P_PCFG_WRAP : Fld := ⟨27, 27⟩
def F.TRC_P_PCFG_IRQ : Fld := ⟨26, 26⟩
def F.TRC_P_PCFG_INST : Fld := ⟨21, 16⟩
def F.TRC_P_SEL_SEL : Fld := ⟨17, 0⟩
def F.TRC_P_TRIG_FIELD : Fld := ⟨31, 24⟩
def F.TRC_P_TRIG_OP : Fld := ⟨23, 22⟩
def F.TRC_P_TVAL_TVAL : Fld := ⟨31, 0⟩
def F.TRC_P_TMASK_TMASK : Fld := ⟨31, 0⟩
def F.TRC_P_CAPT_POST : Fld := ⟨31, 16⟩
def F.TRC_P_CAPT_PRE : Fld := ⟨15, 0⟩
def F.TRC_P_HOLDOFF_HOLDOFF : Fld := ⟨19, 0⟩
def F.TRC_P_BASE_OFFS : Fld := ⟨21, 8⟩
def F.TRC_P_SEG_SEGLEN : Fld := ⟨28, 16⟩
def F.TRC_P_SEG_NSEG : Fld := ⟨8, 0⟩
def F.TRC_P_WRIDX_WRIDX : Fld := ⟨15, 0⟩
def F.TRC_P_RDIDX_RDIDX : Fld := ⟨15, 0⟩
def F.TRC_P_PSTATUS_STATE : Fld := ⟨2, 0⟩
def F.TRC_SKEWCMD_REF : Fld := ⟨5, 0⟩
def F.TRC_SKEWMASK0_MASK : Fld := ⟨31, 0⟩
def F.TRC_SKEWMASK1_MASK : Fld := ⟨15, 0⟩
def F.TRC_SKEW_STATUS_READY : Fld := ⟨31, 31⟩
def F.TRC_SKEW_STATUS_SEQ : Fld := ⟨23, 16⟩
def F.TRC_SKEW_STATUS_CODE : Fld := ⟨15, 0⟩
def F.TRC_RESID_VALID : Fld := ⟨31, 31⟩
def F.TRC_RESID_RESID : Fld := ⟨15, 0⟩
def F.SEC_BSTATUS_READY : Fld := ⟨31, 31⟩
def F.SEC_BSTATUS_SEQ : Fld := ⟨23, 16⟩
def F.SEC_BSTATUS_CODE : Fld := ⟨15, 0⟩
def F.SEC_COPY_COPY : Fld := ⟨0, 0⟩
def F.SEC_BOOTCMD_OP : Fld := ⟨31, 30⟩
def F.SEC_LDPAGE_LDPAGE : Fld := ⟨8, 0⟩
def F.SEC_EVT_OTP : Fld := ⟨4, 4⟩
def F.SEC_EVT_DBG : Fld := ⟨3, 3⟩
def F.SEC_EVT_TRNG : Fld := ⟨2, 2⟩
def F.SEC_EVT_QUOTE : Fld := ⟨1, 1⟩
def F.SEC_EVT_BOOT : Fld := ⟨0, 0⟩
def F.SEC_KERR_LOG_VALID : Fld := ⟨31, 31⟩
def F.SEC_KERR_LOG_CODE : Fld := ⟨15, 0⟩
def F.SEC_UID_UID : Fld := ⟨31, 0⟩
def F.SEC_OTPINFO_DBGPOL : Fld := ⟨31, 31⟩
def F.SEC_OTPINFO_IDK : Fld := ⟨30, 30⟩
def F.SEC_OTPINFO_RB1 : Fld := ⟨29, 24⟩
def F.SEC_OTPINFO_RB0 : Fld := ⟨23, 18⟩
def F.SEC_OTPINFO_REVOKE : Fld := ⟨15, 12⟩
def F.SEC_OTPINFO_PERM : Fld := ⟨11, 0⟩
def F.SEC_OTPINFO2_SUBSYS : Fld := ⟨15, 0⟩
def F.SEC_OTPCMD_OP : Fld := ⟨3, 0⟩
def F.SEC_OTPARG_ARG : Fld := ⟨31, 0⟩
def F.SEC_OTPDATA_DATA : Fld := ⟨31, 0⟩
def F.SEC_OTP_STATUS_READY : Fld := ⟨31, 31⟩
def F.SEC_OTP_STATUS_SEQ : Fld := ⟨23, 16⟩
def F.SEC_OTP_STATUS_CODE : Fld := ⟨15, 0⟩
def F.SEC_HASH_HASH : Fld := ⟨31, 0⟩
def F.SEC_IDPUB_IDPUB : Fld := ⟨31, 0⟩
def F.SEC_CERTLEN_CERTLEN : Fld := ⟨10, 0⟩
def F.SEC_MR_MR : Fld := ⟨31, 0⟩
def F.SEC_MREXT_REG : Fld := ⟨2, 0⟩
def F.SEC_MRVAL_MRVAL : Fld := ⟨31, 0⟩
def F.SEC_MR_STATUS_READY : Fld := ⟨31, 31⟩
def F.SEC_MR_STATUS_SEQ : Fld := ⟨23, 16⟩
def F.SEC_MR_STATUS_CODE : Fld := ⟨15, 0⟩
def F.SEC_QCMD_ANY : Fld := ⟨31, 0⟩
def F.SEC_QMASK_QMASK : Fld := ⟨7, 0⟩
def F.SEC_QADDRLO_QADDR : Fld := ⟨31, 0⟩
def F.SEC_QADDRHI_QADDR : Fld := ⟨7, 0⟩
def F.SEC_QNONCE_QNONCE : Fld := ⟨31, 0⟩
def F.SEC_QSTATUS_READY : Fld := ⟨31, 31⟩
def F.SEC_QSTATUS_SEQ : Fld := ⟨23, 16⟩
def F.SEC_QSTATUS_CODE : Fld := ⟨15, 0⟩
def F.SEC_RNGCMD_ANY : Fld := ⟨31, 0⟩
def F.SEC_RNG_STATUS_READY : Fld := ⟨31, 31⟩
def F.SEC_RNG_STATUS_SEQ : Fld := ⟨23, 16⟩
def F.SEC_RNG_STATUS_CODE : Fld := ⟨15, 0⟩
def F.SEC_RNG_RNG : Fld := ⟨31, 0⟩
def F.SEC_DBGCMD_CMD : Fld := ⟨1, 0⟩
def F.SEC_DBGSCOPE_OPEN : Fld := ⟨18, 16⟩
def F.SEC_DBGSCOPE_SCOPE : Fld := ⟨2, 0⟩
def F.SEC_DBG_STATUS_READY : Fld := ⟨31, 31⟩
def F.SEC_DBG_STATUS_SEQ : Fld := ⟨23, 16⟩
def F.SEC_DBG_STATUS_CODE : Fld := ⟨15, 0⟩
def F.SEC_DBGCHAL_CHAL : Fld := ⟨31, 0⟩
def F.SEC_DBGPUB_PUB : Fld := ⟨31, 0⟩
def F.SEC_DBGSIG_SIG : Fld := ⟨31, 0⟩
def F.SEC_CERT_CERT : Fld := ⟨31, 0⟩

/-! ## Rows -/

/-- Which resets return a register to its reset value: none, power-on and cold, those and warm and watchdog, those and
cluster, or cluster alone (a package reset resets every cluster too). -/
inductive Dom where
  | fixed
  | cold
  | warm
  | warmCluster
  | cluster
  deriving DecidableEq, Repr

/-- A register, or an array of c1 * c2 registers at strides s1 and s2: offset in its block, the bits that a host write
sets, the bits that a written 1 clears, the reset value and the reset domain. Other bits ignore host writes. -/
structure RegRow where
  off : Nat
  c1 : Nat
  s1 : Nat
  c2 : Nat
  s2 : Nat
  rw : BitVec 32
  w1c : BitVec 32
  rst : BitVec 32
  dom : Dom
  deriving DecidableEq, Repr

/-- Registers of GLB. The part is of stepping A1, whose GLB.ID is 0x0105_C720 (DESIGN CHOICE, log 43). -/
def glbRows : List RegRow := [
  ⟨0x0, 1, 0x0, 1, 0x0, 0x0#32, 0x0#32, 0x105C720#32, .fixed⟩,
  ⟨0x100, 1, 0x0, 1, 0x0, 0x0#32, 0x0#32, 0x0#32, .warm⟩,
  ⟨0x104, 1, 0x0, 1, 0x0, 0x0#32, 0x0#32, 0x80000000#32, .warm⟩,
  ⟨0x200, 32, 0x4, 1, 0x0, 0x0#32, 0x0#32, 0x2E#32, .warm⟩,
  ⟨0x280, 2, 0x4, 1, 0x0, 0x0#32, 0x0#32, 0x2EE0004#32, .warm⟩,
  ⟨0x288, 13, 0x4, 1, 0x0, 0x0#32, 0x0#32, 0x2EE0000#32, .warm⟩,
  ⟨0x300, 47, 0x4, 1, 0x0, 0x0#32, 0x0#32, 0x0#32, .fixed⟩,
  ⟨0x400, 1, 0x0, 1, 0x0, 0xFF#32, 0x0#32, 0x64#32, .cold⟩,
  ⟨0x410, 1, 0x0, 1, 0x0, 0x7F0000#32, 0x0#32, 0x0#32, .warm⟩,
  ⟨0x414, 1, 0x0, 1, 0x0, 0x0#32, 0x0#32, 0x80000000#32, .warm⟩,
  ⟨0x500, 1, 0x0, 1, 0x0, 0x0#32, 0x0#32, 0x0#32, .warm⟩,
  ⟨0x504, 1, 0x0, 1, 0x0, 0x0#32, 0x0#32, 0x1#32, .fixed⟩,
  ⟨0x510, 1, 0x0, 1, 0x0, 0x8000FFFF#32, 0x0#32, 0x3E8#32, .warm⟩,
  ⟨0x514, 1, 0x0, 1, 0x0, 0x0#32, 0x0#32, 0x0#32, .warm⟩,
  ⟨0x518, 1, 0x0, 1, 0x0, 0x0#32, 0x0#32, 0x0#32, .warm⟩,
  ⟨0x600, 2, 0x20, 1, 0x0, 0x0#32, 0x80000000#32, 0x0#32, .warm⟩,
  ⟨0x604, 2, 0x20, 1, 0x0, 0x0#32, 0x0#32, 0x0#32, .warm⟩,
  ⟨0x608, 2, 0x20, 1, 0x0, 0x0#32, 0x0#32, 0x0#32, .warm⟩,
  ⟨0x60C, 2, 0x20, 1, 0x0, 0x0#32, 0x0#32, 0x0#32, .warm⟩,
  ⟨0x610, 2, 0x20, 1, 0x0, 0x0#32, 0x0#32, 0x0#32, .warm⟩,
  ⟨0x614, 2, 0x20, 1, 0x0, 0x0#32, 0x0#32, 0x0#32, .warm⟩,
  ⟨0x618, 2, 0x20, 1, 0x0, 0x0#32, 0x0#32, 0x0#32, .warm⟩,
  ⟨0x40, 1, 0x0, 1, 0x0, 0x0#32, 0x1F#32, 0x0#32, .warm⟩]

/-- Registers of HIF -/
def hifRows : List RegRow := [
  ⟨0x80, 1, 0x0, 1, 0x0, 0xFFF#32, 0x0#32, 0x1#32, .cold⟩,
  ⟨0x84, 1, 0x0, 1, 0x0, 0xFFF#32, 0x0#32, 0x3#32, .cold⟩,
  ⟨0x88, 1, 0x0, 1, 0x0, 0xFFF#32, 0x0#32, 0x100#32, .cold⟩,
  ⟨0x8C, 1, 0x0, 1, 0x0, 0xFFF#32, 0x0#32, 0x200#32, .cold⟩,
  ⟨0x40, 1, 0x0, 1, 0x0, 0x0#32, 0x1#32, 0x0#32, .cold⟩,
  ⟨0x0, 1, 0x0, 1, 0x0, 0x0#32, 0x0#32, 0x0#32, .warm⟩,
  ⟨0x10, 1, 0x0, 1, 0x0, 0x0#32, 0x1FF#32, 0x0#32, .warm⟩,
  ⟨0x100, 1, 0x0, 1, 0x0, 0x0#32, 0x0#32, 0x0#32, .warm⟩,
  ⟨0x104, 1, 0x0, 1, 0x0, 0x0#32, 0x0#32, 0x0#32, .warm⟩,
  ⟨0x108, 1, 0x0, 1, 0x0, 0x0#32, 0x0#32, 0x0#32, .warm⟩,
  ⟨0x10C, 1, 0x0, 1, 0x0, 0x0#32, 0x0#32, 0x0#32, .warm⟩,
  ⟨0x110, 1, 0x0, 1, 0x0, 0x0#32, 0x0#32, 0x0#32, .warm⟩,
  ⟨0x114, 1, 0x0, 1, 0x0, 0x0#32, 0x0#32, 0x0#32, .warm⟩,
  ⟨0x118, 1, 0x0, 1, 0x0, 0x0#32, 0x0#32, 0x0#32, .warm⟩,
  ⟨0x11C, 1, 0x0, 1, 0x0, 0x0#32, 0x0#32, 0x0#32, .warm⟩,
  ⟨0x120, 1, 0x0, 1, 0x0, 0x0#32, 0x0#32, 0x0#32, .warm⟩,
  ⟨0x124, 1, 0x0, 1, 0x0, 0x0#32, 0x0#32, 0x0#32, .warm⟩,
  ⟨0x400, 4, 0x40, 1, 0x0, 0xEF003FFF#32, 0x0#32, 0x4000000#32, .warm⟩,
  ⟨0x404, 4, 0x40, 1, 0x0, 0xFFFFFFC0#32, 0x0#32, 0x0#32, .warm⟩,
  ⟨0x408, 4, 0x40, 1, 0x0, 0xFFFFFFFF#32, 0x0#32, 0x0#32, .warm⟩,
  ⟨0x40C, 4, 0x40, 1, 0x0, 0xFFFFFFF0#32, 0x0#32, 0x0#32, .warm⟩,
  ⟨0x410, 4, 0x40, 1, 0x0, 0xFFFFFFFF#32, 0x0#32, 0x0#32, .warm⟩,
  ⟨0x414, 4, 0x40, 1, 0x0, 0xFFFF#32, 0x0#32, 0x0#32, .warm⟩,
  ⟨0x418, 4, 0x40, 1, 0x0, 0x0#32, 0x0#32, 0x0#32, .warm⟩,
  ⟨0x41C, 4, 0x40, 1, 0x0, 0x0#32, 0x0#32, 0x0#32, .warm⟩,
  ⟨0x420, 4, 0x40, 1, 0x0, 0x0#32, 0x3#32, 0x0#32, .warm⟩]

/-- Registers of TILE, part 0. -/
def tileRows0 : List RegRow := [
  ⟨0x0, 1, 0x0, 1, 0x0, 0x0#32, 0x0#32, 0x8000000#32, .cluster⟩,
  ⟨0x10, 1, 0x0, 1, 0x0, 0x0#32, 0x80000000#32, 0x0#32, .cluster⟩,
  ⟨0x14, 1, 0x0, 1, 0x0, 0x0#32, 0x0#32, 0x0#32, .cluster⟩,
  ⟨0x18, 1, 0x0, 1, 0x0, 0x0#32, 0x0#32, 0x0#32, .cluster⟩,
  ⟨0x1C, 1, 0x0, 1, 0x0, 0x0#32, 0x0#32, 0x0#32, .cluster⟩,
  ⟨0x100, 1, 0x0, 1, 0x0, 0x0#32, 0x0#32, 0x0#32, .cluster⟩,
  ⟨0x104, 1, 0x0, 1, 0x0, 0x0#32, 0x0#32, 0x0#32, .cluster⟩,
  ⟨0x108, 1, 0x0, 1, 0x0, 0x0#32, 0x0#32, 0x0#32, .cluster⟩,
  ⟨0x10C, 1, 0x0, 1, 0x0, 0x0#32, 0x0#32, 0x0#32, .cluster⟩,
  ⟨0x110, 1, 0x0, 1, 0x0, 0x0#32, 0x0#32, 0x0#32, .cluster⟩,
  ⟨0x114, 1, 0x0, 1, 0x0, 0x0#32, 0x0#32, 0x0#32, .cluster⟩,
  ⟨0x118, 1, 0x0, 1, 0x0, 0x0#32, 0x0#32, 0x0#32, .cluster⟩,
  ⟨0x11C, 1, 0x0, 1, 0x0, 0x0#32, 0x0#32, 0x0#32, .cluster⟩,
  ⟨0x120, 1, 0x0, 1, 0x0, 0x0#32, 0x0#32, 0x0#32, .cluster⟩,
  ⟨0x124, 1, 0x0, 1, 0x0, 0x0#32, 0x0#32, 0x0#32, .cluster⟩,
  ⟨0x128, 1, 0x0, 1, 0x0, 0x0#32, 0x0#32, 0x0#32, .cluster⟩,
  ⟨0x12C, 1, 0x0, 1, 0x0, 0x0#32, 0x0#32, 0x0#32, .cluster⟩,
  ⟨0x130, 1, 0x0, 1, 0x0, 0x0#32, 0x0#32, 0x0#32, .cluster⟩,
  ⟨0x134, 1, 0x0, 1, 0x0, 0x0#32, 0x0#32, 0x0#32, .cluster⟩,
  ⟨0x138, 1, 0x0, 1, 0x0, 0x0#32, 0x0#32, 0x0#32, .cluster⟩,
  ⟨0x13C, 1, 0x0, 1, 0x0, 0x0#32, 0x0#32, 0x0#32, .cluster⟩,
  ⟨0x140, 1, 0x0, 1, 0x0, 0x0#32, 0x0#32, 0x0#32, .cluster⟩,
  ⟨0x144, 1, 0x0, 1, 0x0, 0x0#32, 0x0#32, 0x0#32, .cluster⟩,
  ⟨0x148, 1, 0x0, 1, 0x0, 0x0#32, 0x0#32, 0x0#32, .cluster⟩,
  ⟨0x14C, 1, 0x0, 1, 0x0, 0x0#32, 0x0#32, 0x0#32, .cluster⟩,
  ⟨0x150, 1, 0x0, 1, 0x0, 0x0#32, 0x0#32, 0x0#32, .cluster⟩,
  ⟨0x154, 1, 0x0, 1, 0x0, 0x0#32, 0x0#32, 0x0#32, .cluster⟩,
  ⟨0x158, 1, 0x0, 1, 0x0, 0x0#32, 0x0#32, 0x0#32, .cluster⟩,
  ⟨0x15C, 1, 0x0, 1, 0x0, 0x0#32, 0x0#32, 0x0#32, .cluster⟩,
  ⟨0x400, 1, 0x0, 1, 0x0, 0x10000#32, 0x0#32, 0x0#32, .cluster⟩]

/-- Registers of TILE, part 1. -/
def tileRows1 : List RegRow := [
  ⟨0x410, 4, 0x4, 1, 0x0, 0xFFFFFFFD#32, 0x0#32, 0x0#32, .cluster⟩,
  ⟨0x420, 2, 0x8, 1, 0x0, 0xFFFFFFFF#32, 0x0#32, 0x0#32, .cluster⟩,
  ⟨0x424, 2, 0x8, 1, 0x0, 0xFFFFFFFF#32, 0x0#32, 0x0#32, .cluster⟩,
  ⟨0x430, 2, 0x4, 1, 0x0, 0x7#32, 0x0#32, 0x0#32, .cluster⟩]

/-- Registers of TILE. -/
def tileRows : List RegRow := tileRows0 ++ tileRows1

/-- Registers of DDR -/
def ddrRows : List RegRow := [
  ⟨0x0, 1, 0x0, 1, 0x0, 0xFFFF0003#32, 0x0#32, 0x180002#32, .cold⟩,
  ⟨0x10, 1, 0x0, 1, 0x0, 0x0#32, 0x0#32, 0x80000000#32, .cold⟩,
  ⟨0x14, 1, 0x0, 1, 0x0, 0x0#32, 0x0#32, 0x0#32, .cold⟩,
  ⟨0x20, 1, 0x0, 1, 0x0, 0x0#32, 0x7#32, 0x0#32, .cold⟩,
  ⟨0x100, 1, 0x0, 1, 0x0, 0x0#32, 0x0#32, 0x0#32, .cold⟩,
  ⟨0x104, 1, 0x0, 1, 0x0, 0x0#32, 0x0#32, 0x0#32, .cold⟩,
  ⟨0x108, 1, 0x0, 1, 0x0, 0x0#32, 0x0#32, 0x0#32, .cold⟩,
  ⟨0x10C, 1, 0x0, 1, 0x0, 0x0#32, 0x0#32, 0x0#32, .cold⟩,
  ⟨0x110, 1, 0x0, 1, 0x0, 0x0#32, 0x0#32, 0x0#32, .cold⟩,
  ⟨0x114, 1, 0x0, 1, 0x0, 0x0#32, 0x0#32, 0x0#32, .cold⟩]

/-- Registers of HNG -/
def hngRows : List RegRow := [
  ⟨0x0, 1, 0x0, 1, 0x0, 0x0#32, 0x0#32, 0xF#32, .warm⟩,
  ⟨0x10, 1, 0x0, 1, 0x0, 0x0#32, 0x7#32, 0x0#32, .warm⟩,
  ⟨0x100, 1, 0x0, 1, 0x0, 0x0#32, 0x0#32, 0x0#32, .warm⟩,
  ⟨0x104, 1, 0x0, 1, 0x0, 0x0#32, 0x0#32, 0x0#32, .warm⟩,
  ⟨0x108, 1, 0x0, 1, 0x0, 0x0#32, 0x0#32, 0x0#32, .warm⟩,
  ⟨0x10C, 1, 0x0, 1, 0x0, 0x0#32, 0x0#32, 0x0#32, .warm⟩,
  ⟨0x110, 1, 0x0, 1, 0x0, 0x0#32, 0x0#32, 0x0#32, .warm⟩,
  ⟨0x114, 1, 0x0, 1, 0x0, 0x0#32, 0x0#32, 0x0#32, .warm⟩,
  ⟨0x118, 1, 0x0, 1, 0x0, 0x0#32, 0x0#32, 0x0#32, .warm⟩,
  ⟨0x11C, 1, 0x0, 1, 0x0, 0x0#32, 0x0#32, 0x0#32, .warm⟩,
  ⟨0x120, 1, 0x0, 1, 0x0, 0x0#32, 0x0#32, 0x0#32, .warm⟩,
  ⟨0x124, 1, 0x0, 1, 0x0, 0x0#32, 0x0#32, 0x0#32, .warm⟩]

/-- Registers of CSK, part 0. -/
def cskRows0 : List RegRow := [
  ⟨0x0, 1, 0x0, 1, 0x0, 0x0#32, 0x0#32, 0x0#32, .warm⟩,
  ⟨0x10, 1, 0x0, 1, 0x0, 0x0#32, 0x0#32, 0x80000000#32, .warm⟩,
  ⟨0x14, 1, 0x0, 1, 0x0, 0x0#32, 0x0#32, 0x0#32, .warm⟩,
  ⟨0x18, 1, 0x0, 1, 0x0, 0x0#32, 0x0#32, 0x0#32, .warm⟩,
  ⟨0x20, 4, 0x4, 1, 0x0, 0xFFFFFFFF#32, 0x0#32, 0x0#32, .warm⟩,
  ⟨0x30, 1, 0x0, 1, 0x0, 0x0#32, 0x0#32, 0x0#32, .warm⟩,
  ⟨0x40, 1, 0x0, 1, 0x0, 0x0#32, 0x0#32, 0x80000000#32, .warm⟩,
  ⟨0x50, 1, 0x0, 1, 0x0, 0x0#32, 0x0#32, 0x0#32, .warm⟩,
  ⟨0x100, 1, 0x0, 1, 0x0, 0x0#32, 0x0#32, 0x0#32, .warm⟩,
  ⟨0x104, 1, 0x0, 1, 0x0, 0x0#32, 0x0#32, 0x0#32, .warm⟩,
  ⟨0x108, 1, 0x0, 1, 0x0, 0x0#32, 0x0#32, 0x0#32, .warm⟩,
  ⟨0x10C, 1, 0x0, 1, 0x0, 0x0#32, 0x0#32, 0x0#32, .warm⟩,
  ⟨0x110, 1, 0x0, 1, 0x0, 0x0#32, 0x0#32, 0x0#32, .warm⟩,
  ⟨0x114, 1, 0x0, 1, 0x0, 0x0#32, 0x0#32, 0x0#32, .warm⟩,
  ⟨0x118, 1, 0x0, 1, 0x0, 0x0#32, 0x0#32, 0x0#32, .warm⟩,
  ⟨0x11C, 1, 0x0, 1, 0x0, 0x0#32, 0x0#32, 0x0#32, .warm⟩,
  ⟨0x120, 1, 0x0, 1, 0x0, 0x0#32, 0x0#32, 0x0#32, .warm⟩,
  ⟨0x124, 1, 0x0, 1, 0x0, 0x0#32, 0x0#32, 0x0#32, .warm⟩,
  ⟨0x1000, 32, 0x40, 1, 0x0, 0x1F#32, 0x0#32, 0x0#32, .warm⟩,
  ⟨0x1004, 32, 0x40, 1, 0x0, 0x0#32, 0x0#32, 0x0#32, .warm⟩,
  ⟨0x1008, 32, 0x40, 1, 0x0, 0x0#32, 0x0#32, 0x0#32, .warm⟩,
  ⟨0x1020, 32, 0x40, 8, 0x4, 0xFFFFFFFF#32, 0x0#32, 0x0#32, .warm⟩,
  ⟨0x80000, 8192, 0x40, 1, 0x0, 0x7FFF1FFF#32, 0x0#32, 0x0#32, .warm⟩,
  ⟨0x80004, 8192, 0x40, 1, 0x0, 0x3FFFF00#32, 0x0#32, 0x0#32, .warm⟩,
  ⟨0x80008, 8192, 0x40, 1, 0x0, 0x0#32, 0x0#32, 0x0#32, .warm⟩,
  ⟨0x8000C, 8192, 0x40, 1, 0x0, 0x0#32, 0x0#32, 0x0#32, .warm⟩,
  ⟨0x80010, 8192, 0x40, 4, 0x4, 0xFFFFFFFF#32, 0x0#32, 0x0#32, .warm⟩,
  ⟨0x80020, 8192, 0x40, 4, 0x4, 0x0#32, 0x0#32, 0x0#32, .warm⟩,
  ⟨0x80030, 8192, 0x40, 1, 0x0, 0x0#32, 0x0#32, 0x0#32, .warm⟩,
  ⟨0x80038, 8192, 0x40, 1, 0x0, 0x0#32, 0x0#32, 0x0#32, .warm⟩]

/-- Registers of CSK, part 1. -/
def cskRows1 : List RegRow := [
  ⟨0x8003C, 8192, 0x40, 1, 0x0, 0x0#32, 0x0#32, 0x0#32, .warm⟩]

/-- Registers of CSK. -/
def cskRows : List RegRow := cskRows0 ++ cskRows1

/-- Registers of WS, part 0. -/
def wsRows0 : List RegRow := [
  ⟨0x0, 1, 0x0, 1, 0x0, 0x0#32, 0x0#32, 0x0#32, .warm⟩,
  ⟨0x4, 1, 0x0, 1, 0x0, 0x31FFF#32, 0x0#32, 0x10E00#32, .warmCluster⟩,
  ⟨0x8, 1, 0x0, 1, 0x0, 0xFFFFFFFF#32, 0x0#32, 0x1312D0#32, .warmCluster⟩,
  ⟨0xC, 1, 0x0, 1, 0x0, 0x0#32, 0x0#32, 0x0#32, .warmCluster⟩,
  ⟨0x10, 1, 0x0, 1, 0x0, 0x0#32, 0x0#32, 0x0#32, .warmCluster⟩,
  ⟨0x20, 8, 0x4, 1, 0x0, 0xFFFFFFFF#32, 0x0#32, 0x0#32, .warmCluster⟩,
  ⟨0x40, 1, 0x0, 1, 0x0, 0x0#32, 0x0#32, 0x0#32, .warmCluster⟩,
  ⟨0x50, 1, 0x0, 1, 0x0, 0x0#32, 0x0#32, 0x80000000#32, .warmCluster⟩,
  ⟨0x54, 1, 0x0, 1, 0x0, 0x0#32, 0x0#32, 0x0#32, .warmCluster⟩,
  ⟨0x60, 1, 0x0, 1, 0x0, 0x0#32, 0x3F#32, 0x0#32, .warmCluster⟩,
  ⟨0x70, 1, 0x0, 1, 0x0, 0x0#32, 0x80000000#32, 0x0#32, .warmCluster⟩,
  ⟨0x74, 1, 0x0, 1, 0x0, 0x0#32, 0x0#32, 0x0#32, .warmCluster⟩,
  ⟨0x100, 1, 0x0, 1, 0x0, 0x0#32, 0x0#32, 0x0#32, .warmCluster⟩,
  ⟨0x104, 1, 0x0, 1, 0x0, 0x0#32, 0x0#32, 0x0#32, .warmCluster⟩,
  ⟨0x108, 1, 0x0, 1, 0x0, 0x0#32, 0x0#32, 0x0#32, .warmCluster⟩,
  ⟨0x10C, 1, 0x0, 1, 0x0, 0x0#32, 0x0#32, 0x0#32, .warmCluster⟩,
  ⟨0x110, 1, 0x0, 1, 0x0, 0x0#32, 0x0#32, 0x0#32, .warmCluster⟩,
  ⟨0x114, 1, 0x0, 1, 0x0, 0x0#32, 0x0#32, 0x0#32, .warmCluster⟩,
  ⟨0x118, 1, 0x0, 1, 0x0, 0x0#32, 0x0#32, 0x0#32, .warmCluster⟩,
  ⟨0x11C, 1, 0x0, 1, 0x0, 0x0#32, 0x0#32, 0x0#32, .warmCluster⟩,
  ⟨0x120, 1, 0x0, 1, 0x0, 0x0#32, 0x0#32, 0x0#32, .warmCluster⟩,
  ⟨0x124, 1, 0x0, 1, 0x0, 0x0#32, 0x0#32, 0x0#32, .warmCluster⟩,
  ⟨0x128, 1, 0x0, 1, 0x0, 0x0#32, 0x0#32, 0x0#32, .warmCluster⟩,
  ⟨0x12C, 1, 0x0, 1, 0x0, 0x0#32, 0x0#32, 0x0#32, .warmCluster⟩,
  ⟨0x130, 1, 0x0, 1, 0x0, 0x0#32, 0x0#32, 0x0#32, .warmCluster⟩,
  ⟨0x134, 1, 0x0, 1, 0x0, 0x0#32, 0x0#32, 0x0#32, .warmCluster⟩,
  ⟨0x138, 1, 0x0, 1, 0x0, 0x0#32, 0x0#32, 0x0#32, .warmCluster⟩,
  ⟨0x13C, 1, 0x0, 1, 0x0, 0x0#32, 0x0#32, 0x0#32, .warmCluster⟩,
  ⟨0x140, 1, 0x0, 1, 0x0, 0x0#32, 0x0#32, 0x0#32, .warmCluster⟩,
  ⟨0x144, 1, 0x0, 1, 0x0, 0x0#32, 0x0#32, 0x0#32, .warmCluster⟩]

/-- Registers of WS, part 1. -/
def wsRows1 : List RegRow := [
  ⟨0x200, 8, 0x4, 1, 0x0, 0x0#32, 0x0#32, 0x0#32, .warmCluster⟩]

/-- Registers of WS. -/
def wsRows : List RegRow := wsRows0 ++ wsRows1

/-- Registers of CTX, part 0. -/
def ctxRows0 : List RegRow := [
  ⟨0x0, 1, 0x0, 1, 0x0, 0x0#32, 0x0#32, 0x0#32, .warmCluster⟩,
  ⟨0x10, 1, 0x0, 1, 0x0, 0x0#32, 0x0#32, 0x80000000#32, .warmCluster⟩,
  ⟨0x14, 1, 0x0, 1, 0x0, 0x0#32, 0x0#32, 0x0#32, .warmCluster⟩,
  ⟨0x18, 1, 0x0, 1, 0x0, 0x0#32, 0x0#32, 0x0#32, .warmCluster⟩,
  ⟨0x20, 1, 0x0, 1, 0x0, 0x0#32, 0x0#32, 0x80000000#32, .warmCluster⟩,
  ⟨0x24, 1, 0x0, 1, 0x0, 0x0#32, 0x0#32, 0x0#32, .warmCluster⟩,
  ⟨0x28, 1, 0x0, 1, 0x0, 0x0#32, 0x0#32, 0x0#32, .warmCluster⟩,
  ⟨0x40, 1, 0x0, 1, 0x0, 0x0#32, 0x0#32, 0x0#32, .warmCluster⟩,
  ⟨0x44, 1, 0x0, 1, 0x0, 0x0#32, 0x0#32, 0x0#32, .warmCluster⟩,
  ⟨0x48, 1, 0x0, 1, 0x0, 0x7F#32, 0x0#32, 0x64#32, .warmCluster⟩,
  ⟨0x4C, 1, 0x0, 1, 0x0, 0x0#32, 0x0#32, 0x0#32, .warmCluster⟩,
  ⟨0x50, 1, 0x0, 1, 0x0, 0x0#32, 0x0#32, 0x0#32, .warmCluster⟩,
  ⟨0x54, 1, 0x0, 1, 0x0, 0x0#32, 0x0#32, 0x0#32, .warmCluster⟩,
  ⟨0x58, 1, 0x0, 1, 0x0, 0x0#32, 0x0#32, 0x0#32, .warmCluster⟩,
  ⟨0x5C, 1, 0x0, 1, 0x0, 0x0#32, 0x0#32, 0x0#32, .warmCluster⟩,
  ⟨0x60, 1, 0x0, 1, 0x0, 0xFFFFFFFF#32, 0x0#32, 0x0#32, .warmCluster⟩,
  ⟨0x64, 1, 0x0, 1, 0x0, 0xFFFFFFF#32, 0x0#32, 0x0#32, .warmCluster⟩,
  ⟨0x68, 1, 0x0, 1, 0x0, 0x0#32, 0x0#32, 0x0#32, .warm⟩,
  ⟨0x70, 1, 0x0, 1, 0x0, 0x0#32, 0x1F#32, 0x0#32, .warmCluster⟩,
  ⟨0x74, 1, 0x0, 1, 0x0, 0x0#32, 0x80000000#32, 0x0#32, .warmCluster⟩,
  ⟨0x100, 1, 0x0, 1, 0x0, 0x0#32, 0x0#32, 0x0#32, .warmCluster⟩,
  ⟨0x104, 1, 0x0, 1, 0x0, 0x0#32, 0x0#32, 0x0#32, .warmCluster⟩,
  ⟨0x108, 1, 0x0, 1, 0x0, 0x0#32, 0x0#32, 0x0#32, .warmCluster⟩,
  ⟨0x10C, 1, 0x0, 1, 0x0, 0x0#32, 0x0#32, 0x0#32, .warmCluster⟩,
  ⟨0x110, 1, 0x0, 1, 0x0, 0x0#32, 0x0#32, 0x0#32, .warmCluster⟩,
  ⟨0x114, 1, 0x0, 1, 0x0, 0x0#32, 0x0#32, 0x0#32, .warmCluster⟩,
  ⟨0x118, 1, 0x0, 1, 0x0, 0x0#32, 0x0#32, 0x0#32, .warmCluster⟩,
  ⟨0x11C, 1, 0x0, 1, 0x0, 0x0#32, 0x0#32, 0x0#32, .warmCluster⟩,
  ⟨0x120, 1, 0x0, 1, 0x0, 0x0#32, 0x0#32, 0x0#32, .warmCluster⟩,
  ⟨0x124, 1, 0x0, 1, 0x0, 0x0#32, 0x0#32, 0x0#32, .warmCluster⟩]

/-- Registers of CTX, part 1. -/
def ctxRows1 : List RegRow := [
  ⟨0x128, 1, 0x0, 1, 0x0, 0x0#32, 0x0#32, 0x0#32, .warmCluster⟩,
  ⟨0x12C, 1, 0x0, 1, 0x0, 0x0#32, 0x0#32, 0x0#32, .warmCluster⟩,
  ⟨0x130, 1, 0x0, 1, 0x0, 0x0#32, 0x0#32, 0x0#32, .warmCluster⟩,
  ⟨0x134, 1, 0x0, 1, 0x0, 0x0#32, 0x0#32, 0x0#32, .warmCluster⟩,
  ⟨0x1000, 256, 0x8, 1, 0x0, 0xFFFFFFFF#32, 0x0#32, 0x0#32, .warmCluster⟩,
  ⟨0x1004, 256, 0x8, 1, 0x0, 0xFFFFFFFF#32, 0x0#32, 0x0#32, .warmCluster⟩,
  ⟨0x8000, 8192, 0x4, 1, 0x0, 0x0#32, 0x0#32, 0x0#32, .warmCluster⟩]

/-- Registers of CTX. -/
def ctxRows : List RegRow := ctxRows0 ++ ctxRows1

/-- Registers of VAT -/
def vatRows : List RegRow := [
  ⟨0x0, 1, 0x0, 1, 0x0, 0x1#32, 0x0#32, 0x0#32, .warmCluster⟩,
  ⟨0x4, 1, 0x0, 1, 0x0, 0x0#32, 0x0#32, 0x0#32, .warmCluster⟩,
  ⟨0x8, 1, 0x0, 1, 0x0, 0x0#32, 0x0#32, 0x0#32, .warmCluster⟩,
  ⟨0x10, 1, 0x0, 1, 0x0, 0x0#32, 0x3F#32, 0x0#32, .warmCluster⟩,
  ⟨0x14, 1, 0x0, 1, 0x0, 0x0#32, 0x80000000#32, 0x0#32, .warmCluster⟩,
  ⟨0x100, 1, 0x0, 1, 0x0, 0x0#32, 0x0#32, 0x0#32, .warmCluster⟩,
  ⟨0x104, 1, 0x0, 1, 0x0, 0x0#32, 0x0#32, 0x0#32, .warmCluster⟩,
  ⟨0x108, 1, 0x0, 1, 0x0, 0x0#32, 0x0#32, 0x0#32, .warmCluster⟩,
  ⟨0x10C, 1, 0x0, 1, 0x0, 0x0#32, 0x0#32, 0x0#32, .warmCluster⟩,
  ⟨0x110, 1, 0x0, 1, 0x0, 0x0#32, 0x0#32, 0x0#32, .warmCluster⟩,
  ⟨0x114, 1, 0x0, 1, 0x0, 0x0#32, 0x0#32, 0x0#32, .warmCluster⟩,
  ⟨0x118, 1, 0x0, 1, 0x0, 0x0#32, 0x0#32, 0x0#32, .warmCluster⟩,
  ⟨0x11C, 1, 0x0, 1, 0x0, 0x0#32, 0x0#32, 0x0#32, .warmCluster⟩,
  ⟨0x120, 1, 0x0, 1, 0x0, 0x0#32, 0x0#32, 0x0#32, .warmCluster⟩,
  ⟨0x124, 1, 0x0, 1, 0x0, 0x0#32, 0x0#32, 0x0#32, .warmCluster⟩,
  ⟨0x128, 1, 0x0, 1, 0x0, 0x0#32, 0x0#32, 0x0#32, .warmCluster⟩,
  ⟨0x12C, 1, 0x0, 1, 0x0, 0x0#32, 0x0#32, 0x0#32, .warmCluster⟩,
  ⟨0x130, 1, 0x0, 1, 0x0, 0x0#32, 0x0#32, 0x0#32, .warmCluster⟩,
  ⟨0x134, 1, 0x0, 1, 0x0, 0x0#32, 0x0#32, 0x0#32, .warmCluster⟩,
  ⟨0x138, 1, 0x0, 1, 0x0, 0x0#32, 0x0#32, 0x0#32, .warmCluster⟩,
  ⟨0x13C, 1, 0x0, 1, 0x0, 0x0#32, 0x0#32, 0x0#32, .warmCluster⟩,
  ⟨0x140, 1, 0x0, 1, 0x0, 0x0#32, 0x0#32, 0x0#32, .warmCluster⟩,
  ⟨0x144, 1, 0x0, 1, 0x0, 0x0#32, 0x0#32, 0x0#32, .warmCluster⟩,
  ⟨0x400, 16, 0x20, 1, 0x0, 0x3F733F#32, 0x0#32, 0x4120#32, .warmCluster⟩,
  ⟨0x404, 16, 0x20, 1, 0x0, 0xFFF0F#32, 0x0#32, 0x31406#32, .warmCluster⟩,
  ⟨0x408, 16, 0x20, 1, 0x0, 0xFFFFFF#32, 0x0#32, 0x19DCD8#32, .warmCluster⟩,
  ⟨0x410, 16, 0x20, 1, 0x0, 0x0#32, 0x0#32, 0x0#32, .warmCluster⟩]

/-- Registers of TONE -/
def toneRows : List RegRow := [
  ⟨0x0, 1, 0x0, 1, 0x0, 0x1#32, 0x0#32, 0x0#32, .warmCluster⟩,
  ⟨0x4, 1, 0x0, 1, 0x0, 0x0#32, 0x0#32, 0x0#32, .warmCluster⟩,
  ⟨0x10, 1, 0x0, 1, 0x0, 0x0#32, 0xE#32, 0x0#32, .warmCluster⟩,
  ⟨0x14, 1, 0x0, 1, 0x0, 0x0#32, 0x80000000#32, 0x0#32, .warmCluster⟩,
  ⟨0x100, 1, 0x0, 1, 0x0, 0x0#32, 0x0#32, 0x0#32, .warmCluster⟩,
  ⟨0x104, 1, 0x0, 1, 0x0, 0x0#32, 0x0#32, 0x0#32, .warmCluster⟩,
  ⟨0x108, 1, 0x0, 1, 0x0, 0x0#32, 0x0#32, 0x0#32, .warmCluster⟩,
  ⟨0x10C, 1, 0x0, 1, 0x0, 0x0#32, 0x0#32, 0x0#32, .warmCluster⟩,
  ⟨0x110, 1, 0x0, 1, 0x0, 0x0#32, 0x0#32, 0x0#32, .warmCluster⟩,
  ⟨0x114, 1, 0x0, 1, 0x0, 0x0#32, 0x0#32, 0x0#32, .warmCluster⟩,
  ⟨0x118, 1, 0x0, 1, 0x0, 0x0#32, 0x0#32, 0x0#32, .warmCluster⟩,
  ⟨0x11C, 1, 0x0, 1, 0x0, 0x0#32, 0x0#32, 0x0#32, .warmCluster⟩,
  ⟨0x120, 1, 0x0, 1, 0x0, 0x0#32, 0x0#32, 0x0#32, .warmCluster⟩,
  ⟨0x124, 1, 0x0, 1, 0x0, 0x0#32, 0x0#32, 0x0#32, .warmCluster⟩,
  ⟨0x400, 16, 0x20, 1, 0x0, 0xFFFF001F#32, 0x0#32, 0x0#32, .warmCluster⟩,
  ⟨0x404, 16, 0x20, 1, 0x0, 0xFFFFFF#32, 0x0#32, 0x82E684#32, .warmCluster⟩,
  ⟨0x408, 16, 0x20, 1, 0x0, 0xFFFFFFFF#32, 0x0#32, 0x67DD66E7#32, .warmCluster⟩,
  ⟨0x40C, 16, 0x20, 1, 0x0, 0xFF#32, 0x0#32, 0xD5#32, .warmCluster⟩,
  ⟨0x410, 16, 0x20, 1, 0x0, 0x0#32, 0x0#32, 0x0#32, .warmCluster⟩,
  ⟨0x800, 16, 0x10, 1, 0x0, 0xFFFFFFFF#32, 0x0#32, 0x0#32, .warmCluster⟩,
  ⟨0x804, 16, 0x10, 1, 0x0, 0xFFFFF#32, 0x0#32, 0x0#32, .warmCluster⟩,
  ⟨0x808, 16, 0x10, 1, 0x0, 0xFFFFFFFF#32, 0x0#32, 0x0#32, .warmCluster⟩,
  ⟨0x80C, 16, 0x10, 1, 0x0, 0xFFFFFFFF#32, 0x0#32, 0x0#32, .warmCluster⟩,
  ⟨0xC00, 16, 0x20, 1, 0x0, 0xFFFFFFF7#32, 0x0#32, 0x0#32, .warmCluster⟩,
  ⟨0xC04, 16, 0x20, 1, 0x0, 0xFFFFFFFF#32, 0x0#32, 0x0#32, .warmCluster⟩,
  ⟨0xC08, 16, 0x20, 1, 0x0, 0xFFFFFFFF#32, 0x0#32, 0x0#32, .warmCluster⟩,
  ⟨0xC0C, 16, 0x20, 1, 0x0, 0xFFFFFFFF#32, 0x0#32, 0x0#32, .warmCluster⟩,
  ⟨0xC10, 16, 0x20, 1, 0x0, 0x0#32, 0x0#32, 0x0#32, .warmCluster⟩]

/-- Registers of VDE -/
def vdeRows : List RegRow := [
  ⟨0x0, 1, 0x0, 1, 0x0, 0x1#32, 0x0#32, 0x0#32, .warmCluster⟩,
  ⟨0x4, 1, 0x0, 1, 0x0, 0x0#32, 0x0#32, 0x0#32, .warmCluster⟩,
  ⟨0x10, 1, 0x0, 1, 0x0, 0x0#32, 0x1F#32, 0x0#32, .warmCluster⟩,
  ⟨0x14, 1, 0x0, 1, 0x0, 0x0#32, 0x80000000#32, 0x0#32, .warmCluster⟩,
  ⟨0x100, 1, 0x0, 1, 0x0, 0x0#32, 0x0#32, 0x0#32, .warmCluster⟩,
  ⟨0x104, 1, 0x0, 1, 0x0, 0x0#32, 0x0#32, 0x0#32, .warmCluster⟩,
  ⟨0x108, 1, 0x0, 1, 0x0, 0x0#32, 0x0#32, 0x0#32, .warmCluster⟩,
  ⟨0x10C, 1, 0x0, 1, 0x0, 0x0#32, 0x0#32, 0x0#32, .warmCluster⟩,
  ⟨0x110, 1, 0x0, 1, 0x0, 0x0#32, 0x0#32, 0x0#32, .warmCluster⟩,
  ⟨0x114, 1, 0x0, 1, 0x0, 0x0#32, 0x0#32, 0x0#32, .warmCluster⟩,
  ⟨0x118, 1, 0x0, 1, 0x0, 0x0#32, 0x0#32, 0x0#32, .warmCluster⟩,
  ⟨0x11C, 1, 0x0, 1, 0x0, 0x0#32, 0x0#32, 0x0#32, .warmCluster⟩,
  ⟨0x120, 1, 0x0, 1, 0x0, 0x0#32, 0x0#32, 0x0#32, .warmCluster⟩,
  ⟨0x124, 1, 0x0, 1, 0x0, 0x0#32, 0x0#32, 0x0#32, .warmCluster⟩,
  ⟨0x128, 1, 0x0, 1, 0x0, 0x0#32, 0x0#32, 0x0#32, .warmCluster⟩,
  ⟨0x12C, 1, 0x0, 1, 0x0, 0x0#32, 0x0#32, 0x0#32, .warmCluster⟩,
  ⟨0x130, 1, 0x0, 1, 0x0, 0x0#32, 0x0#32, 0x0#32, .warmCluster⟩,
  ⟨0x134, 1, 0x0, 1, 0x0, 0x0#32, 0x0#32, 0x0#32, .warmCluster⟩,
  ⟨0x138, 1, 0x0, 1, 0x0, 0x0#32, 0x0#32, 0x0#32, .warmCluster⟩,
  ⟨0x13C, 1, 0x0, 1, 0x0, 0x0#32, 0x0#32, 0x0#32, .warmCluster⟩,
  ⟨0x140, 1, 0x0, 1, 0x0, 0x0#32, 0x0#32, 0x0#32, .warmCluster⟩,
  ⟨0x144, 1, 0x0, 1, 0x0, 0x0#32, 0x0#32, 0x0#32, .warmCluster⟩,
  ⟨0x148, 1, 0x0, 1, 0x0, 0x0#32, 0x0#32, 0x0#32, .warmCluster⟩,
  ⟨0x14C, 1, 0x0, 1, 0x0, 0x0#32, 0x0#32, 0x0#32, .warmCluster⟩,
  ⟨0x400, 16, 0x20, 1, 0x0, 0xFFF0FFF#32, 0x0#32, 0x506D5#32, .warmCluster⟩,
  ⟨0x404, 16, 0x20, 1, 0x0, 0xFFFFFFFF#32, 0x0#32, 0x14F619C8#32, .warmCluster⟩,
  ⟨0x410, 16, 0x20, 1, 0x0, 0x0#32, 0x0#32, 0x0#32, .warmCluster⟩]

/-- Registers of SRC -/
def srcRows : List RegRow := [
  ⟨0x0, 1, 0x0, 1, 0x0, 0xFFFFF01#32, 0x0#32, 0x1001000#32, .warmCluster⟩,
  ⟨0x4, 1, 0x0, 1, 0x0, 0x0#32, 0x0#32, 0x0#32, .warmCluster⟩,
  ⟨0x10, 1, 0x0, 1, 0x0, 0x0#32, 0x7#32, 0x0#32, .warmCluster⟩,
  ⟨0x14, 1, 0x0, 1, 0x0, 0x0#32, 0x80000000#32, 0x0#32, .warmCluster⟩,
  ⟨0x20, 1, 0x0, 1, 0x0, 0x0#32, 0x0#32, 0x0#32, .warmCluster⟩,
  ⟨0x30, 1, 0x0, 1, 0x0, 0x0#32, 0x0#32, 0x80000000#32, .warmCluster⟩,
  ⟨0x34, 1, 0x0, 1, 0x0, 0x0#32, 0x0#32, 0x0#32, .warmCluster⟩,
  ⟨0x40, 3, 0x10, 1, 0x0, 0xFFFFFFFF#32, 0x0#32, 0x0#32, .warmCluster⟩,
  ⟨0x44, 3, 0x10, 1, 0x0, 0x0#32, 0x0#32, 0x0#32, .warmCluster⟩,
  ⟨0x48, 3, 0x10, 1, 0x0, 0x0#32, 0x0#32, 0x0#32, .warmCluster⟩,
  ⟨0x100, 1, 0x0, 1, 0x0, 0x0#32, 0x0#32, 0x0#32, .warmCluster⟩,
  ⟨0x104, 1, 0x0, 1, 0x0, 0x0#32, 0x0#32, 0x0#32, .warmCluster⟩,
  ⟨0x108, 1, 0x0, 1, 0x0, 0x0#32, 0x0#32, 0x0#32, .warmCluster⟩,
  ⟨0x10C, 1, 0x0, 1, 0x0, 0x0#32, 0x0#32, 0x0#32, .warmCluster⟩,
  ⟨0x110, 1, 0x0, 1, 0x0, 0x0#32, 0x0#32, 0x0#32, .warmCluster⟩,
  ⟨0x114, 1, 0x0, 1, 0x0, 0x0#32, 0x0#32, 0x0#32, .warmCluster⟩,
  ⟨0x118, 1, 0x0, 1, 0x0, 0x0#32, 0x0#32, 0x0#32, .warmCluster⟩,
  ⟨0x11C, 1, 0x0, 1, 0x0, 0x0#32, 0x0#32, 0x0#32, .warmCluster⟩,
  ⟨0x120, 1, 0x0, 1, 0x0, 0x0#32, 0x0#32, 0x0#32, .warmCluster⟩,
  ⟨0x124, 1, 0x0, 1, 0x0, 0x0#32, 0x0#32, 0x0#32, .warmCluster⟩]

/-- Registers of CLS, part 0. -/
def clsRows0 : List RegRow := [
  ⟨0x0, 1, 0x0, 1, 0x0, 0x0#32, 0x0#32, 0x0#32, .warm⟩,
  ⟨0x10, 1, 0x0, 1, 0x0, 0x0#32, 0x0#32, 0x80000000#32, .warm⟩,
  ⟨0x14, 1, 0x0, 1, 0x0, 0x0#32, 0x0#32, 0x0#32, .warm⟩,
  ⟨0x18, 1, 0x0, 1, 0x0, 0x0#32, 0x0#32, 0x0#32, .warm⟩,
  ⟨0x20, 1, 0x0, 1, 0x0, 0x0#32, 0x0#32, 0x0#32, .warm⟩,
  ⟨0x40, 16, 0x4, 1, 0x0, 0xFFFFFFFF#32, 0x0#32, 0x0#32, .warm⟩,
  ⟨0x80, 1, 0x0, 1, 0x0, 0x800000BF#32, 0x0#32, 0x0#32, .warm⟩,
  ⟨0x90, 1, 0x0, 1, 0x0, 0x0#32, 0x7#32, 0x0#32, .warm⟩,
  ⟨0x94, 1, 0x0, 1, 0x0, 0x0#32, 0x80000000#32, 0x0#32, .warm⟩,
  ⟨0x100, 2, 0x80, 1, 0x0, 0x0#32, 0x0#32, 0x0#32, .warm⟩,
  ⟨0x104, 2, 0x80, 1, 0x0, 0x0#32, 0x0#32, 0x0#32, .warm⟩,
  ⟨0x108, 2, 0x80, 1, 0x0, 0x0#32, 0x0#32, 0x0#32, .warm⟩,
  ⟨0x10C, 2, 0x80, 1, 0x0, 0x0#32, 0x0#32, 0x0#32, .warm⟩,
  ⟨0x110, 2, 0x80, 1, 0x0, 0x0#32, 0x0#32, 0x0#32, .warm⟩,
  ⟨0x114, 2, 0x80, 1, 0x0, 0x0#32, 0x0#32, 0x0#32, .warm⟩,
  ⟨0x118, 2, 0x80, 1, 0x0, 0x0#32, 0x0#32, 0x0#32, .warm⟩,
  ⟨0x11C, 2, 0x80, 1, 0x0, 0x0#32, 0x0#32, 0x0#32, .warm⟩,
  ⟨0x120, 2, 0x80, 1, 0x0, 0x0#32, 0x0#32, 0x0#32, .warm⟩,
  ⟨0x124, 2, 0x80, 1, 0x0, 0x0#32, 0x0#32, 0x0#32, .warm⟩,
  ⟨0x128, 2, 0x80, 1, 0x0, 0x0#32, 0x0#32, 0x0#32, .warm⟩,
  ⟨0x12C, 2, 0x80, 1, 0x0, 0x0#32, 0x0#32, 0x0#32, .warm⟩,
  ⟨0x130, 2, 0x80, 1, 0x0, 0x0#32, 0x0#32, 0x0#32, .warm⟩,
  ⟨0x134, 2, 0x80, 1, 0x0, 0x0#32, 0x0#32, 0x0#32, .warm⟩,
  ⟨0x138, 2, 0x80, 1, 0x0, 0x0#32, 0x0#32, 0x0#32, .warm⟩,
  ⟨0x13C, 2, 0x80, 1, 0x0, 0x0#32, 0x0#32, 0x0#32, .warm⟩,
  ⟨0x140, 2, 0x80, 1, 0x0, 0x0#32, 0x0#32, 0x0#32, .warm⟩,
  ⟨0x144, 2, 0x80, 1, 0x0, 0x0#32, 0x0#32, 0x0#32, .warm⟩,
  ⟨0x1000, 256, 0x40, 1, 0x0, 0xC0003FFF#32, 0x0#32, 0x0#32, .warm⟩,
  ⟨0x1004, 256, 0x40, 1, 0x0, 0xFFFFFFFF#32, 0x0#32, 0x0#32, .warm⟩,
  ⟨0x1008, 256, 0x40, 1, 0x0, 0xFFF0FFF#32, 0x0#32, 0x0#32, .warm⟩]

/-- Registers of CLS, part 1. -/
def clsRows1 : List RegRow := [
  ⟨0x100C, 256, 0x40, 1, 0x0, 0xFF01#32, 0x0#32, 0x0#32, .warm⟩,
  ⟨0x1010, 256, 0x40, 1, 0x0, 0xFFFFFFFF#32, 0x0#32, 0x0#32, .warm⟩,
  ⟨0x1014, 256, 0x40, 1, 0x0, 0xFFFFFFFF#32, 0x0#32, 0x0#32, .warm⟩,
  ⟨0x1018, 256, 0x40, 4, 0x4, 0xFFFFFFFF#32, 0x0#32, 0x0#32, .warm⟩,
  ⟨0x1028, 256, 0x40, 1, 0x0, 0xFF#32, 0x0#32, 0x0#32, .warm⟩,
  ⟨0x102C, 256, 0x40, 4, 0x4, 0xFFFFFFFF#32, 0x0#32, 0x0#32, .warm⟩,
  ⟨0x103C, 256, 0x40, 1, 0x0, 0xFF#32, 0x0#32, 0x0#32, .warm⟩,
  ⟨0x8000, 2, 0x800, 256, 0x8, 0x0#32, 0x0#32, 0x0#32, .warm⟩,
  ⟨0x8004, 2, 0x800, 256, 0x8, 0x0#32, 0x0#32, 0x0#32, .warm⟩]

/-- Registers of CLS. -/
def clsRows : List RegRow := clsRows0 ++ clsRows1

/-- Registers of PLY, part 0. -/
def plyRows0 : List RegRow := [
  ⟨0x0, 1, 0x0, 1, 0x0, 0x1#32, 0x0#32, 0x0#32, .warm⟩,
  ⟨0x4, 1, 0x0, 1, 0x0, 0xFFFFFFF#32, 0x0#32, 0x0#32, .warm⟩,
  ⟨0x8, 1, 0x0, 1, 0x0, 0x3FFFF#32, 0x0#32, 0x0#32, .warm⟩,
  ⟨0xC, 1, 0x0, 1, 0x0, 0xFFFFFFFF#32, 0x0#32, 0x0#32, .warm⟩,
  ⟨0x10, 2, 0x8, 1, 0x0, 0xFFFFFFFF#32, 0x0#32, 0x0#32, .warm⟩,
  ⟨0x14, 2, 0x8, 1, 0x0, 0xC07FFFFF#32, 0x0#32, 0x0#32, .warm⟩,
  ⟨0x20, 2, 0x4, 1, 0x0, 0x0#32, 0x0#32, 0x0#32, .warm⟩,
  ⟨0x28, 1, 0x0, 1, 0x0, 0xFFFF#32, 0x0#32, 0x0#32, .warm⟩,
  ⟨0x30, 1, 0x0, 1, 0x0, 0x0#32, 0xF#32, 0x0#32, .warm⟩,
  ⟨0x34, 1, 0x0, 1, 0x0, 0x0#32, 0x80000000#32, 0x0#32, .warm⟩,
  ⟨0x100, 2, 0x80, 1, 0x0, 0x0#32, 0x0#32, 0x0#32, .warm⟩,
  ⟨0x104, 2, 0x80, 1, 0x0, 0x0#32, 0x0#32, 0x0#32, .warm⟩,
  ⟨0x108, 2, 0x80, 1, 0x0, 0x0#32, 0x0#32, 0x0#32, .warm⟩,
  ⟨0x10C, 2, 0x80, 1, 0x0, 0x0#32, 0x0#32, 0x0#32, .warm⟩,
  ⟨0x110, 2, 0x80, 1, 0x0, 0x0#32, 0x0#32, 0x0#32, .warm⟩,
  ⟨0x114, 2, 0x80, 1, 0x0, 0x0#32, 0x0#32, 0x0#32, .warm⟩,
  ⟨0x118, 2, 0x80, 1, 0x0, 0x0#32, 0x0#32, 0x0#32, .warm⟩,
  ⟨0x11C, 2, 0x80, 1, 0x0, 0x0#32, 0x0#32, 0x0#32, .warm⟩,
  ⟨0x120, 2, 0x80, 1, 0x0, 0x0#32, 0x0#32, 0x0#32, .warm⟩,
  ⟨0x124, 2, 0x80, 1, 0x0, 0x0#32, 0x0#32, 0x0#32, .warm⟩,
  ⟨0x128, 2, 0x80, 1, 0x0, 0x0#32, 0x0#32, 0x0#32, .warm⟩,
  ⟨0x12C, 2, 0x80, 1, 0x0, 0x0#32, 0x0#32, 0x0#32, .warm⟩,
  ⟨0x130, 2, 0x80, 1, 0x0, 0x0#32, 0x0#32, 0x0#32, .warm⟩,
  ⟨0x134, 2, 0x80, 1, 0x0, 0x0#32, 0x0#32, 0x0#32, .warm⟩,
  ⟨0x138, 2, 0x80, 1, 0x0, 0x0#32, 0x0#32, 0x0#32, .warm⟩,
  ⟨0x13C, 2, 0x80, 1, 0x0, 0x0#32, 0x0#32, 0x0#32, .warm⟩,
  ⟨0x140, 2, 0x80, 1, 0x0, 0x0#32, 0x0#32, 0x0#32, .warm⟩,
  ⟨0x144, 2, 0x80, 1, 0x0, 0x0#32, 0x0#32, 0x0#32, .warm⟩,
  ⟨0x148, 2, 0x80, 1, 0x0, 0x0#32, 0x0#32, 0x0#32, .warm⟩,
  ⟨0x14C, 2, 0x80, 1, 0x0, 0x0#32, 0x0#32, 0x0#32, .warm⟩]

/-- Registers of PLY, part 1. -/
def plyRows1 : List RegRow := [
  ⟨0x150, 2, 0x80, 1, 0x0, 0x0#32, 0x0#32, 0x0#32, .warm⟩,
  ⟨0x154, 2, 0x80, 1, 0x0, 0x0#32, 0x0#32, 0x0#32, .warm⟩,
  ⟨0x158, 2, 0x80, 1, 0x0, 0x0#32, 0x0#32, 0x0#32, .warm⟩,
  ⟨0x15C, 2, 0x80, 1, 0x0, 0x0#32, 0x0#32, 0x0#32, .warm⟩,
  ⟨0x160, 2, 0x80, 1, 0x0, 0x0#32, 0x0#32, 0x0#32, .warm⟩,
  ⟨0x164, 2, 0x80, 1, 0x0, 0x0#32, 0x0#32, 0x0#32, .warm⟩,
  ⟨0x168, 2, 0x80, 1, 0x0, 0x0#32, 0x0#32, 0x0#32, .warm⟩,
  ⟨0x16C, 2, 0x80, 1, 0x0, 0x0#32, 0x0#32, 0x0#32, .warm⟩]

/-- Registers of PLY. -/
def plyRows : List RegRow := plyRows0 ++ plyRows1

/-- Registers of TDM, part 0. -/
def tdmRows0 : List RegRow := [
  ⟨0x0, 1, 0x0, 1, 0x0, 0x1FFFF67#32, 0x0#32, 0x28D500#32, .warm⟩,
  ⟨0x4, 1, 0x0, 1, 0x0, 0xF#32, 0x0#32, 0x0#32, .warm⟩,
  ⟨0x8, 1, 0x0, 1, 0x0, 0x3F#32, 0x0#32, 0x0#32, .warm⟩,
  ⟨0xC, 1, 0x0, 1, 0x0, 0xFF0000#32, 0x0#32, 0x0#32, .warm⟩,
  ⟨0x10, 1, 0x0, 1, 0x0, 0x3FFFF00#32, 0x0#32, 0x0#32, .warm⟩,
  ⟨0x14, 1, 0x0, 1, 0x0, 0x3FFFF00#32, 0x0#32, 0x0#32, .warm⟩,
  ⟨0x18, 1, 0x0, 1, 0x0, 0x3FFFF00#32, 0x0#32, 0x0#32, .warm⟩,
  ⟨0x20, 1, 0x0, 1, 0x0, 0x0#32, 0x0#32, 0x0#32, .warm⟩,
  ⟨0x24, 1, 0x0, 1, 0x0, 0x0#32, 0x0#32, 0x0#32, .warm⟩,
  ⟨0x30, 1, 0x0, 1, 0x0, 0x0#32, 0xFF#32, 0x0#32, .warm⟩,
  ⟨0x40, 1, 0x0, 1, 0x0, 0x0#32, 0x0#32, 0x80000000#32, .warm⟩,
  ⟨0x44, 1, 0x0, 1, 0x0, 0x0#32, 0x0#32, 0x0#32, .warm⟩,
  ⟨0x100, 1, 0x0, 1, 0x0, 0x0#32, 0x0#32, 0x0#32, .warm⟩,
  ⟨0x104, 1, 0x0, 1, 0x0, 0x0#32, 0x0#32, 0x0#32, .warm⟩,
  ⟨0x108, 1, 0x0, 1, 0x0, 0x0#32, 0x0#32, 0x0#32, .warm⟩,
  ⟨0x10C, 1, 0x0, 1, 0x0, 0x0#32, 0x0#32, 0x0#32, .warm⟩,
  ⟨0x110, 1, 0x0, 1, 0x0, 0x0#32, 0x0#32, 0x0#32, .warm⟩,
  ⟨0x114, 1, 0x0, 1, 0x0, 0x0#32, 0x0#32, 0x0#32, .warm⟩,
  ⟨0x118, 1, 0x0, 1, 0x0, 0x0#32, 0x0#32, 0x0#32, .warm⟩,
  ⟨0x11C, 1, 0x0, 1, 0x0, 0x0#32, 0x0#32, 0x0#32, .warm⟩,
  ⟨0x120, 1, 0x0, 1, 0x0, 0x0#32, 0x0#32, 0x0#32, .warm⟩,
  ⟨0x124, 1, 0x0, 1, 0x0, 0x0#32, 0x0#32, 0x0#32, .warm⟩,
  ⟨0x128, 1, 0x0, 1, 0x0, 0x0#32, 0x0#32, 0x0#32, .warm⟩,
  ⟨0x12C, 1, 0x0, 1, 0x0, 0x0#32, 0x0#32, 0x0#32, .warm⟩,
  ⟨0x130, 1, 0x0, 1, 0x0, 0x0#32, 0x0#32, 0x0#32, .warm⟩,
  ⟨0x134, 1, 0x0, 1, 0x0, 0x0#32, 0x0#32, 0x0#32, .warm⟩,
  ⟨0x138, 1, 0x0, 1, 0x0, 0x0#32, 0x0#32, 0x0#32, .warm⟩,
  ⟨0x13C, 1, 0x0, 1, 0x0, 0x0#32, 0x0#32, 0x0#32, .warm⟩,
  ⟨0x140, 1, 0x0, 1, 0x0, 0x0#32, 0x0#32, 0x0#32, .warm⟩,
  ⟨0x144, 1, 0x0, 1, 0x0, 0x0#32, 0x0#32, 0x0#32, .warm⟩]

/-- Registers of TDM, part 1. -/
def tdmRows1 : List RegRow := [
  ⟨0x148, 1, 0x0, 1, 0x0, 0x0#32, 0x0#32, 0x0#32, .warm⟩,
  ⟨0x14C, 1, 0x0, 1, 0x0, 0x0#32, 0x0#32, 0x0#32, .warm⟩,
  ⟨0x150, 1, 0x0, 1, 0x0, 0x0#32, 0x0#32, 0x0#32, .warm⟩,
  ⟨0x154, 1, 0x0, 1, 0x0, 0x0#32, 0x0#32, 0x0#32, .warm⟩,
  ⟨0x158, 1, 0x0, 1, 0x0, 0x0#32, 0x0#32, 0x0#32, .warm⟩,
  ⟨0x15C, 1, 0x0, 1, 0x0, 0x0#32, 0x0#32, 0x0#32, .warm⟩,
  ⟨0x160, 1, 0x0, 1, 0x0, 0x0#32, 0x0#32, 0x0#32, .warm⟩,
  ⟨0x164, 1, 0x0, 1, 0x0, 0x0#32, 0x0#32, 0x0#32, .warm⟩,
  ⟨0x168, 1, 0x0, 1, 0x0, 0x0#32, 0x0#32, 0x0#32, .warm⟩,
  ⟨0x16C, 1, 0x0, 1, 0x0, 0x0#32, 0x0#32, 0x0#32, .warm⟩,
  ⟨0x1000, 64, 0x10, 1, 0x0, 0xE3FFFCFF#32, 0x0#32, 0x0#32, .warm⟩,
  ⟨0x1004, 64, 0x10, 1, 0x0, 0x3FFF#32, 0x0#32, 0x0#32, .warm⟩,
  ⟨0x1008, 64, 0x10, 1, 0x0, 0x3FFF#32, 0x0#32, 0x0#32, .warm⟩,
  ⟨0x100C, 64, 0x10, 1, 0x0, 0x0#32, 0x0#32, 0x0#32, .warm⟩,
  ⟨0x2000, 32, 0x10, 3, 0x4, 0x0#32, 0x0#32, 0xFFFFFFFF#32, .warm⟩,
  ⟨0x200C, 32, 0x10, 1, 0x0, 0x0#32, 0x0#32, 0xFFFFFF#32, .warm⟩,
  ⟨0x2400, 32, 0x10, 3, 0x4, 0xFFFFFFFF#32, 0x0#32, 0xDDDDDDDD#32, .warm⟩,
  ⟨0x240C, 32, 0x10, 1, 0x0, 0xFFFFFF#32, 0x0#32, 0xDDDDDD#32, .warm⟩,
  ⟨0x2800, 32, 0x4, 1, 0x0, 0x0#32, 0x3FFFFFFF#32, 0x0#32, .warm⟩,
  ⟨0x2C00, 32, 0x4, 1, 0x0, 0x2#32, 0x0#32, 0x0#32, .warm⟩]

/-- Registers of TDM. -/
def tdmRows : List RegRow := tdmRows0 ++ tdmRows1

/-- Registers of MAC, part 0. -/
def macRows0 : List RegRow := [
  ⟨0x0, 1, 0x0, 1, 0x0, 0x3BC0000#32, 0x0#32, 0x0#32, .warm⟩,
  ⟨0x4, 1, 0x0, 1, 0x0, 0x7#32, 0x0#32, 0x0#32, .warm⟩,
  ⟨0x8, 1, 0x0, 1, 0x0, 0x0#32, 0x0#32, 0x0#32, .warm⟩,
  ⟨0xC, 1, 0x0, 1, 0x0, 0x3FFF#32, 0x0#32, 0x2400#32, .warm⟩,
  ⟨0x10, 1, 0x0, 1, 0x0, 0x3FF0000#32, 0x0#32, 0x640000#32, .warm⟩,
  ⟨0x14, 1, 0x0, 1, 0x0, 0xFFFF#32, 0x0#32, 0x88A8#32, .warm⟩,
  ⟨0x18, 1, 0x0, 1, 0x0, 0xFFFFFFFF#32, 0x0#32, 0x0#32, .warm⟩,
  ⟨0x1C, 1, 0x0, 1, 0x0, 0xFFFF#32, 0x0#32, 0x0#32, .warm⟩,
  ⟨0x20, 1, 0x0, 1, 0x0, 0x1FFF#32, 0x0#32, 0x0#32, .warm⟩,
  ⟨0x24, 1, 0x0, 1, 0x0, 0xFFFFFFFF#32, 0x0#32, 0x0#32, .warm⟩,
  ⟨0x28, 1, 0x0, 1, 0x0, 0xC01F1F3F#32, 0x0#32, 0x28#32, .warm⟩,
  ⟨0x30, 1, 0x0, 1, 0x0, 0x0#32, 0xFF#32, 0x0#32, .warm⟩,
  ⟨0x100, 1, 0x0, 1, 0x0, 0x0#32, 0x0#32, 0x0#32, .warm⟩,
  ⟨0x104, 1, 0x0, 1, 0x0, 0x0#32, 0x0#32, 0x0#32, .warm⟩,
  ⟨0x108, 1, 0x0, 1, 0x0, 0x0#32, 0x0#32, 0x0#32, .warm⟩,
  ⟨0x10C, 1, 0x0, 1, 0x0, 0x0#32, 0x0#32, 0x0#32, .warm⟩,
  ⟨0x110, 1, 0x0, 1, 0x0, 0x0#32, 0x0#32, 0x0#32, .warm⟩,
  ⟨0x114, 1, 0x0, 1, 0x0, 0x0#32, 0x0#32, 0x0#32, .warm⟩,
  ⟨0x118, 1, 0x0, 1, 0x0, 0x0#32, 0x0#32, 0x0#32, .warm⟩,
  ⟨0x11C, 1, 0x0, 1, 0x0, 0x0#32, 0x0#32, 0x0#32, .warm⟩,
  ⟨0x120, 1, 0x0, 1, 0x0, 0x0#32, 0x0#32, 0x0#32, .warm⟩,
  ⟨0x124, 1, 0x0, 1, 0x0, 0x0#32, 0x0#32, 0x0#32, .warm⟩,
  ⟨0x128, 1, 0x0, 1, 0x0, 0x0#32, 0x0#32, 0x0#32, .warm⟩,
  ⟨0x12C, 1, 0x0, 1, 0x0, 0x0#32, 0x0#32, 0x0#32, .warm⟩,
  ⟨0x130, 1, 0x0, 1, 0x0, 0x0#32, 0x0#32, 0x0#32, .warm⟩,
  ⟨0x134, 1, 0x0, 1, 0x0, 0x0#32, 0x0#32, 0x0#32, .warm⟩,
  ⟨0x138, 1, 0x0, 1, 0x0, 0x0#32, 0x0#32, 0x0#32, .warm⟩,
  ⟨0x13C, 1, 0x0, 1, 0x0, 0x0#32, 0x0#32, 0x0#32, .warm⟩,
  ⟨0x140, 1, 0x0, 1, 0x0, 0x0#32, 0x0#32, 0x0#32, .warm⟩,
  ⟨0x144, 1, 0x0, 1, 0x0, 0x0#32, 0x0#32, 0x0#32, .warm⟩]

/-- Registers of MAC, part 1. -/
def macRows1 : List RegRow := [
  ⟨0x148, 1, 0x0, 1, 0x0, 0x0#32, 0x0#32, 0x0#32, .warm⟩,
  ⟨0x14C, 1, 0x0, 1, 0x0, 0x0#32, 0x0#32, 0x0#32, .warm⟩,
  ⟨0x150, 1, 0x0, 1, 0x0, 0x0#32, 0x0#32, 0x0#32, .warm⟩,
  ⟨0x154, 1, 0x0, 1, 0x0, 0x0#32, 0x0#32, 0x0#32, .warm⟩,
  ⟨0x158, 1, 0x0, 1, 0x0, 0x0#32, 0x0#32, 0x0#32, .warm⟩,
  ⟨0x15C, 1, 0x0, 1, 0x0, 0x0#32, 0x0#32, 0x0#32, .warm⟩,
  ⟨0x160, 1, 0x0, 1, 0x0, 0x0#32, 0x0#32, 0x0#32, .warm⟩,
  ⟨0x164, 1, 0x0, 1, 0x0, 0x0#32, 0x0#32, 0x0#32, .warm⟩,
  ⟨0x168, 1, 0x0, 1, 0x0, 0x0#32, 0x0#32, 0x0#32, .warm⟩,
  ⟨0x16C, 1, 0x0, 1, 0x0, 0x0#32, 0x0#32, 0x0#32, .warm⟩,
  ⟨0x170, 1, 0x0, 1, 0x0, 0x0#32, 0x0#32, 0x0#32, .warm⟩,
  ⟨0x174, 1, 0x0, 1, 0x0, 0x0#32, 0x0#32, 0x0#32, .warm⟩,
  ⟨0x178, 1, 0x0, 1, 0x0, 0x0#32, 0x0#32, 0x0#32, .warm⟩,
  ⟨0x17C, 1, 0x0, 1, 0x0, 0x0#32, 0x0#32, 0x0#32, .warm⟩,
  ⟨0x180, 1, 0x0, 1, 0x0, 0x0#32, 0x0#32, 0x0#32, .warm⟩,
  ⟨0x184, 1, 0x0, 1, 0x0, 0x0#32, 0x0#32, 0x0#32, .warm⟩,
  ⟨0x188, 1, 0x0, 1, 0x0, 0x0#32, 0x0#32, 0x0#32, .warm⟩,
  ⟨0x18C, 1, 0x0, 1, 0x0, 0x0#32, 0x0#32, 0x0#32, .warm⟩,
  ⟨0x190, 1, 0x0, 1, 0x0, 0x0#32, 0x0#32, 0x0#32, .warm⟩,
  ⟨0x194, 1, 0x0, 1, 0x0, 0x0#32, 0x0#32, 0x0#32, .warm⟩,
  ⟨0x198, 1, 0x0, 1, 0x0, 0x0#32, 0x0#32, 0x0#32, .warm⟩,
  ⟨0x19C, 1, 0x0, 1, 0x0, 0x0#32, 0x0#32, 0x0#32, .warm⟩,
  ⟨0x1A0, 1, 0x0, 1, 0x0, 0x0#32, 0x0#32, 0x0#32, .warm⟩,
  ⟨0x1A4, 1, 0x0, 1, 0x0, 0x0#32, 0x0#32, 0x0#32, .warm⟩,
  ⟨0x1A8, 1, 0x0, 1, 0x0, 0x0#32, 0x0#32, 0x0#32, .warm⟩,
  ⟨0x1AC, 1, 0x0, 1, 0x0, 0x0#32, 0x0#32, 0x0#32, .warm⟩,
  ⟨0x800, 4, 0x100, 1, 0x0, 0xC00000FF#32, 0x0#32, 0x0#32, .warm⟩,
  ⟨0x810, 4, 0x100, 4, 0x4, 0xFFFFFFFF#32, 0x0#32, 0x0#32, .warm⟩,
  ⟨0x880, 4, 0x100, 32, 0x4, 0xFFFFFFFF#32, 0x0#32, 0x0#32, .warm⟩]

/-- Registers of MAC. -/
def macRows : List RegRow := macRows0 ++ macRows1

/-- Registers of MACM, part 0. -/
def macmRows0 : List RegRow := [
  ⟨0x0, 1, 0x0, 1, 0x0, 0x3FC0000#32, 0x0#32, 0x400000#32, .warm⟩,
  ⟨0x4, 1, 0x0, 1, 0x0, 0x7#32, 0x0#32, 0x0#32, .warm⟩,
  ⟨0x8, 1, 0x0, 1, 0x0, 0x0#32, 0x0#32, 0x0#32, .warm⟩,
  ⟨0xC, 1, 0x0, 1, 0x0, 0x3FFF#32, 0x0#32, 0x2400#32, .warm⟩,
  ⟨0x10, 1, 0x0, 1, 0x0, 0x3FF0000#32, 0x0#32, 0x640000#32, .warm⟩,
  ⟨0x14, 1, 0x0, 1, 0x0, 0xFFFF#32, 0x0#32, 0x88A8#32, .warm⟩,
  ⟨0x18, 1, 0x0, 1, 0x0, 0xFFFFFFFF#32, 0x0#32, 0x0#32, .warm⟩,
  ⟨0x1C, 1, 0x0, 1, 0x0, 0xFFFF#32, 0x0#32, 0x0#32, .warm⟩,
  ⟨0x20, 1, 0x0, 1, 0x0, 0x1FFF#32, 0x0#32, 0x0#32, .warm⟩,
  ⟨0x24, 1, 0x0, 1, 0x0, 0xFFFFFFFF#32, 0x0#32, 0x0#32, .warm⟩,
  ⟨0x28, 1, 0x0, 1, 0x0, 0x3#32, 0x0#32, 0x0#32, .warm⟩,
  ⟨0x30, 1, 0x0, 1, 0x0, 0x0#32, 0xFF#32, 0x0#32, .warm⟩,
  ⟨0x100, 1, 0x0, 1, 0x0, 0x0#32, 0x0#32, 0x0#32, .warm⟩,
  ⟨0x104, 1, 0x0, 1, 0x0, 0x0#32, 0x0#32, 0x0#32, .warm⟩,
  ⟨0x108, 1, 0x0, 1, 0x0, 0x0#32, 0x0#32, 0x0#32, .warm⟩,
  ⟨0x10C, 1, 0x0, 1, 0x0, 0x0#32, 0x0#32, 0x0#32, .warm⟩,
  ⟨0x110, 1, 0x0, 1, 0x0, 0x0#32, 0x0#32, 0x0#32, .warm⟩,
  ⟨0x114, 1, 0x0, 1, 0x0, 0x0#32, 0x0#32, 0x0#32, .warm⟩,
  ⟨0x118, 1, 0x0, 1, 0x0, 0x0#32, 0x0#32, 0x0#32, .warm⟩,
  ⟨0x11C, 1, 0x0, 1, 0x0, 0x0#32, 0x0#32, 0x0#32, .warm⟩,
  ⟨0x120, 1, 0x0, 1, 0x0, 0x0#32, 0x0#32, 0x0#32, .warm⟩,
  ⟨0x124, 1, 0x0, 1, 0x0, 0x0#32, 0x0#32, 0x0#32, .warm⟩,
  ⟨0x128, 1, 0x0, 1, 0x0, 0x0#32, 0x0#32, 0x0#32, .warm⟩,
  ⟨0x12C, 1, 0x0, 1, 0x0, 0x0#32, 0x0#32, 0x0#32, .warm⟩,
  ⟨0x130, 1, 0x0, 1, 0x0, 0x0#32, 0x0#32, 0x0#32, .warm⟩,
  ⟨0x134, 1, 0x0, 1, 0x0, 0x0#32, 0x0#32, 0x0#32, .warm⟩,
  ⟨0x138, 1, 0x0, 1, 0x0, 0x0#32, 0x0#32, 0x0#32, .warm⟩,
  ⟨0x13C, 1, 0x0, 1, 0x0, 0x0#32, 0x0#32, 0x0#32, .warm⟩,
  ⟨0x140, 1, 0x0, 1, 0x0, 0x0#32, 0x0#32, 0x0#32, .warm⟩,
  ⟨0x144, 1, 0x0, 1, 0x0, 0x0#32, 0x0#32, 0x0#32, .warm⟩]

/-- Registers of MACM, part 1. -/
def macmRows1 : List RegRow := [
  ⟨0x148, 1, 0x0, 1, 0x0, 0x0#32, 0x0#32, 0x0#32, .warm⟩,
  ⟨0x14C, 1, 0x0, 1, 0x0, 0x0#32, 0x0#32, 0x0#32, .warm⟩,
  ⟨0x150, 1, 0x0, 1, 0x0, 0x0#32, 0x0#32, 0x0#32, .warm⟩,
  ⟨0x154, 1, 0x0, 1, 0x0, 0x0#32, 0x0#32, 0x0#32, .warm⟩,
  ⟨0x158, 1, 0x0, 1, 0x0, 0x0#32, 0x0#32, 0x0#32, .warm⟩,
  ⟨0x15C, 1, 0x0, 1, 0x0, 0x0#32, 0x0#32, 0x0#32, .warm⟩,
  ⟨0x160, 1, 0x0, 1, 0x0, 0x0#32, 0x0#32, 0x0#32, .warm⟩,
  ⟨0x164, 1, 0x0, 1, 0x0, 0x0#32, 0x0#32, 0x0#32, .warm⟩,
  ⟨0x168, 1, 0x0, 1, 0x0, 0x0#32, 0x0#32, 0x0#32, .warm⟩,
  ⟨0x16C, 1, 0x0, 1, 0x0, 0x0#32, 0x0#32, 0x0#32, .warm⟩,
  ⟨0x170, 1, 0x0, 1, 0x0, 0x0#32, 0x0#32, 0x0#32, .warm⟩,
  ⟨0x174, 1, 0x0, 1, 0x0, 0x0#32, 0x0#32, 0x0#32, .warm⟩,
  ⟨0x178, 1, 0x0, 1, 0x0, 0x0#32, 0x0#32, 0x0#32, .warm⟩,
  ⟨0x17C, 1, 0x0, 1, 0x0, 0x0#32, 0x0#32, 0x0#32, .warm⟩,
  ⟨0x180, 1, 0x0, 1, 0x0, 0x0#32, 0x0#32, 0x0#32, .warm⟩,
  ⟨0x184, 1, 0x0, 1, 0x0, 0x0#32, 0x0#32, 0x0#32, .warm⟩,
  ⟨0x188, 1, 0x0, 1, 0x0, 0x0#32, 0x0#32, 0x0#32, .warm⟩,
  ⟨0x18C, 1, 0x0, 1, 0x0, 0x0#32, 0x0#32, 0x0#32, .warm⟩,
  ⟨0x190, 1, 0x0, 1, 0x0, 0x0#32, 0x0#32, 0x0#32, .warm⟩,
  ⟨0x194, 1, 0x0, 1, 0x0, 0x0#32, 0x0#32, 0x0#32, .warm⟩,
  ⟨0x198, 1, 0x0, 1, 0x0, 0x0#32, 0x0#32, 0x0#32, .warm⟩,
  ⟨0x19C, 1, 0x0, 1, 0x0, 0x0#32, 0x0#32, 0x0#32, .warm⟩,
  ⟨0x1A0, 1, 0x0, 1, 0x0, 0x0#32, 0x0#32, 0x0#32, .warm⟩,
  ⟨0x1A4, 1, 0x0, 1, 0x0, 0x0#32, 0x0#32, 0x0#32, .warm⟩,
  ⟨0x1A8, 1, 0x0, 1, 0x0, 0x0#32, 0x0#32, 0x0#32, .warm⟩,
  ⟨0x1AC, 1, 0x0, 1, 0x0, 0x0#32, 0x0#32, 0x0#32, .warm⟩,
  ⟨0x800, 4, 0x100, 1, 0x0, 0xC00000FF#32, 0x0#32, 0x0#32, .warm⟩,
  ⟨0x810, 4, 0x100, 4, 0x4, 0xFFFFFFFF#32, 0x0#32, 0x0#32, .warm⟩,
  ⟨0x880, 4, 0x100, 32, 0x4, 0xFFFFFFFF#32, 0x0#32, 0x0#32, .warm⟩,
  ⟨0x40, 1, 0x0, 1, 0x0, 0x0#32, 0x0#32, 0x0#32, .warm⟩]

/-- Registers of MACM, part 2. -/
def macmRows2 : List RegRow := [
  ⟨0x44, 1, 0x0, 1, 0x0, 0x0#32, 0x0#32, 0x80000000#32, .warm⟩,
  ⟨0x48, 1, 0x0, 1, 0x0, 0x0#32, 0x0#32, 0x0#32, .warm⟩,
  ⟨0x8000, 64, 0x40, 1, 0x0, 0xFFFFFFE0#32, 0x0#32, 0x0#32, .warm⟩,
  ⟨0x8004, 64, 0x40, 1, 0x0, 0xFFFFFFFF#32, 0x0#32, 0x0#32, .warm⟩,
  ⟨0x8008, 64, 0x40, 1, 0x0, 0xEF3FE000#32, 0x0#32, 0x4000000#32, .warm⟩,
  ⟨0x800C, 64, 0x40, 1, 0x0, 0xFFFF#32, 0x0#32, 0x0#32, .warm⟩,
  ⟨0x8010, 64, 0x40, 1, 0x0, 0x0#32, 0x0#32, 0x0#32, .warm⟩,
  ⟨0x8014, 64, 0x40, 1, 0x0, 0x3FFF#32, 0x0#32, 0x0#32, .warm⟩,
  ⟨0x8018, 64, 0x40, 1, 0x0, 0x0#32, 0x0#32, 0x0#32, .warm⟩,
  ⟨0x801C, 64, 0x40, 1, 0x0, 0x0#32, 0x0#32, 0x0#32, .warm⟩,
  ⟨0x8020, 64, 0x40, 1, 0x0, 0x0#32, 0x0#32, 0x0#32, .warm⟩,
  ⟨0x8024, 64, 0x40, 1, 0x0, 0x0#32, 0x0#32, 0x0#32, .warm⟩,
  ⟨0x9000, 16, 0x40, 1, 0x0, 0xFFFFFFE0#32, 0x0#32, 0x0#32, .warm⟩,
  ⟨0x9004, 16, 0x40, 1, 0x0, 0xFFFFFFFF#32, 0x0#32, 0x0#32, .warm⟩,
  ⟨0x9008, 16, 0x40, 1, 0x0, 0xAF070007#32, 0x0#32, 0x4000000#32, .warm⟩,
  ⟨0x900C, 16, 0x40, 1, 0x0, 0xFFFF#32, 0x0#32, 0x0#32, .warm⟩,
  ⟨0x9010, 16, 0x40, 1, 0x0, 0x0#32, 0x0#32, 0x0#32, .warm⟩,
  ⟨0x9018, 16, 0x40, 1, 0x0, 0x0#32, 0x0#32, 0x0#32, .warm⟩,
  ⟨0x901C, 16, 0x40, 1, 0x0, 0x0#32, 0x0#32, 0x0#32, .warm⟩,
  ⟨0x9020, 16, 0x40, 1, 0x0, 0x0#32, 0x0#32, 0x0#32, .warm⟩,
  ⟨0x9024, 16, 0x40, 1, 0x0, 0x0#32, 0x0#32, 0x0#32, .warm⟩]

/-- Registers of MACM. -/
def macmRows : List RegRow := macmRows0 ++ macmRows1 ++ macmRows2

/-- Registers of EVT -/
def evtRows : List RegRow := [
  ⟨0x0, 8, 0x4, 1, 0x0, 0x0#32, 0x0#32, 0x0#32, .warm⟩,
  ⟨0x20, 8, 0x4, 1, 0x0, 0x0#32, 0x0#32, 0x0#32, .warm⟩,
  ⟨0x40, 1, 0x0, 1, 0x0, 0x0#32, 0xFFFF#32, 0x0#32, .warm⟩,
  ⟨0x80, 2, 0x4, 1, 0x0, 0x0#32, 0x0#32, 0x0#32, .warm⟩,
  ⟨0x88, 2, 0x4, 1, 0x0, 0x0#32, 0x0#32, 0x0#32, .warm⟩,
  ⟨0x90, 2, 0x4, 1, 0x0, 0x0#32, 0x0#32, 0x0#32, .warm⟩,
  ⟨0xA0, 4, 0x4, 1, 0x0, 0xFFFFFFFF#32, 0x0#32, 0x0#32, .warm⟩,
  ⟨0xC0, 1, 0x0, 1, 0x0, 0x3#32, 0x0#32, 0x0#32, .warm⟩,
  ⟨0x100, 64, 0x4, 1, 0x0, 0xBFBFBFBF#32, 0x0#32, 0x0#32, .warm⟩]

/-- Registers of TIME, part 0. -/
def timeRows0 : List RegRow := [
  ⟨0x0, 1, 0x0, 1, 0x0, 0xFFFF0001#32, 0x0#32, 0x0#32, .warm⟩,
  ⟨0x4, 1, 0x0, 1, 0x0, 0x0#32, 0x0#32, 0x40#32, .warm⟩,
  ⟨0x10, 1, 0x0, 1, 0x0, 0x0#32, 0x7F#32, 0x0#32, .warm⟩,
  ⟨0x20, 1, 0x0, 1, 0x0, 0xF0F#32, 0x0#32, 0xA02#32, .warm⟩,
  ⟨0x24, 1, 0x0, 1, 0x0, 0x0#32, 0x0#32, 0x0#32, .warm⟩,
  ⟨0x30, 1, 0x0, 1, 0x0, 0x0#32, 0x0#32, 0x0#32, .warm⟩,
  ⟨0x40, 1, 0x0, 1, 0x0, 0x0#32, 0x0#32, 0x80000000#32, .warm⟩,
  ⟨0x44, 4, 0x10, 1, 0x0, 0x0#32, 0x0#32, 0x0#32, .warm⟩,
  ⟨0x48, 4, 0x10, 1, 0x0, 0x0#32, 0x0#32, 0x0#32, .warm⟩,
  ⟨0x4C, 4, 0x10, 1, 0x0, 0x0#32, 0x0#32, 0x0#32, .warm⟩,
  ⟨0x50, 4, 0x10, 1, 0x0, 0x0#32, 0x0#32, 0x0#32, .warm⟩,
  ⟨0x84, 1, 0x0, 1, 0x0, 0x0#32, 0x0#32, 0x0#32, .warm⟩,
  ⟨0x88, 1, 0x0, 1, 0x0, 0x0#32, 0x0#32, 0x0#32, .warm⟩,
  ⟨0x8C, 1, 0x0, 1, 0x0, 0x0#32, 0x0#32, 0x0#32, .warm⟩,
  ⟨0x100, 2, 0x40, 1, 0x0, 0xF#32, 0x0#32, 0x2#32, .cold⟩,
  ⟨0x104, 2, 0x40, 1, 0x0, 0xFFFFFFFF#32, 0x0#32, 0x0#32, .cold⟩,
  ⟨0x180, 2, 0x40, 1, 0x0, 0x0#32, 0x0#32, 0x2#32, .cold⟩,
  ⟨0x184, 2, 0x40, 1, 0x0, 0x0#32, 0x0#32, 0x0#32, .cold⟩,
  ⟨0x108, 4, 0x40, 1, 0x0, 0x0#32, 0x0#32, 0x0#32, .warm⟩,
  ⟨0x10C, 4, 0x40, 1, 0x0, 0x0#32, 0x0#32, 0x0#32, .warm⟩,
  ⟨0x110, 2, 0x40, 1, 0x0, 0x83FFFF3F#32, 0x0#32, 0x640410#32, .warm⟩,
  ⟨0x118, 4, 0x40, 1, 0x0, 0x0#32, 0x0#32, 0x0#32, .warm⟩,
  ⟨0x11C, 4, 0x40, 1, 0x0, 0xFFFF#32, 0x0#32, 0x0#32, .warm⟩,
  ⟨0x120, 4, 0x40, 1, 0x0, 0xFFFFFFFF#32, 0x0#32, 0x0#32, .warm⟩,
  ⟨0x124, 4, 0x40, 1, 0x0, 0x3FFFFFFF#32, 0x0#32, 0x0#32, .warm⟩,
  ⟨0x128, 4, 0x40, 1, 0x0, 0x0#32, 0x0#32, 0x80000000#32, .warm⟩,
  ⟨0x300, 1, 0x0, 1, 0x0, 0xE0FFFFFF#32, 0x0#32, 0x64#32, .warm⟩,
  ⟨0x304, 1, 0x0, 1, 0x0, 0x1#32, 0x0#32, 0x0#32, .warm⟩,
  ⟨0x310, 1, 0x0, 1, 0x0, 0x0#32, 0x0#32, 0x80000000#32, .warm⟩,
  ⟨0x314, 4, 0x8, 1, 0x0, 0x0#32, 0x0#32, 0x0#32, .warm⟩]

/-- Registers of TIME, part 1. -/
def timeRows1 : List RegRow := [
  ⟨0x318, 4, 0x8, 1, 0x0, 0x0#32, 0x0#32, 0x0#32, .warm⟩,
  ⟨0x400, 1, 0x0, 1, 0x0, 0x2#32, 0x0#32, 0x0#32, .fixed⟩,
  ⟨0x404, 1, 0x0, 1, 0x0, 0xFFFF#32, 0x0#32, 0x0#32, .warm⟩,
  ⟨0x408, 1, 0x0, 1, 0x0, 0xFFFFFFFF#32, 0x0#32, 0x0#32, .warm⟩,
  ⟨0x40C, 1, 0x0, 1, 0x0, 0x0#32, 0x0#32, 0x0#32, .warm⟩,
  ⟨0x410, 1, 0x0, 1, 0x0, 0x0#32, 0x0#32, 0x80000000#32, .warm⟩,
  ⟨0x414, 1, 0x0, 1, 0x0, 0xFFFF#32, 0x0#32, 0x0#32, .fixed⟩,
  ⟨0x418, 1, 0x0, 1, 0x0, 0xFFFFFFFF#32, 0x0#32, 0x0#32, .fixed⟩,
  ⟨0x500, 1, 0x0, 1, 0x0, 0x0#32, 0x0#32, 0x0#32, .warm⟩,
  ⟨0x504, 1, 0x0, 1, 0x0, 0x0#32, 0x0#32, 0x0#32, .warm⟩,
  ⟨0x508, 1, 0x0, 1, 0x0, 0x0#32, 0x0#32, 0x0#32, .warm⟩,
  ⟨0x50C, 1, 0x0, 1, 0x0, 0x0#32, 0x0#32, 0x0#32, .warm⟩,
  ⟨0x510, 1, 0x0, 1, 0x0, 0x0#32, 0x0#32, 0x0#32, .warm⟩,
  ⟨0x514, 1, 0x0, 1, 0x0, 0x0#32, 0x0#32, 0x0#32, .warm⟩,
  ⟨0x518, 1, 0x0, 1, 0x0, 0x0#32, 0x0#32, 0x0#32, .warm⟩,
  ⟨0x51C, 1, 0x0, 1, 0x0, 0x0#32, 0x0#32, 0x0#32, .warm⟩,
  ⟨0x520, 1, 0x0, 1, 0x0, 0x0#32, 0x0#32, 0x0#32, .warm⟩,
  ⟨0x524, 1, 0x0, 1, 0x0, 0x0#32, 0x0#32, 0x0#32, .warm⟩,
  ⟨0x528, 1, 0x0, 1, 0x0, 0x0#32, 0x0#32, 0x0#32, .warm⟩,
  ⟨0x52C, 1, 0x0, 1, 0x0, 0x0#32, 0x0#32, 0x0#32, .warm⟩,
  ⟨0x530, 1, 0x0, 1, 0x0, 0x0#32, 0x0#32, 0x0#32, .warm⟩,
  ⟨0x534, 1, 0x0, 1, 0x0, 0x0#32, 0x0#32, 0x0#32, .warm⟩]

/-- Registers of TIME. -/
def timeRows : List RegRow := timeRows0 ++ timeRows1

/-- Registers of WDN, part 0. -/
def wdnRows0 : List RegRow := [
  ⟨0x0, 1, 0x0, 1, 0x0, 0x1#32, 0x0#32, 0x0#32, .warm⟩,
  ⟨0x4, 1, 0x0, 1, 0x0, 0x0#32, 0x0#32, 0x10000#32, .warm⟩,
  ⟨0x10, 1, 0x0, 1, 0x0, 0x0#32, 0x1F#32, 0x0#32, .warm⟩,
  ⟨0x14, 1, 0x0, 1, 0x0, 0x0#32, 0x80000000#32, 0x0#32, .warm⟩,
  ⟨0x20, 1, 0x0, 1, 0x0, 0x0#32, 0x0#32, 0x0#32, .warm⟩,
  ⟨0x24, 1, 0x0, 1, 0x0, 0xFFFFFFFF#32, 0x0#32, 0x0#32, .warm⟩,
  ⟨0x30, 1, 0x0, 1, 0x0, 0x0#32, 0x0#32, 0x80000000#32, .warm⟩,
  ⟨0x40, 1, 0x0, 1, 0x0, 0x0#32, 0x0#32, 0x0#32, .warm⟩,
  ⟨0x50, 1, 0x0, 1, 0x0, 0x0#32, 0x0#32, 0x80000000#32, .warm⟩,
  ⟨0x54, 1, 0x0, 1, 0x0, 0x0#32, 0x0#32, 0x0#32, .warm⟩,
  ⟨0x60, 1, 0x0, 1, 0x0, 0x0#32, 0x0#32, 0x0#32, .warm⟩,
  ⟨0x70, 1, 0x0, 1, 0x0, 0x0#32, 0x0#32, 0x80000000#32, .warm⟩,
  ⟨0x74, 1, 0x0, 1, 0x0, 0x0#32, 0x0#32, 0x0#32, .warm⟩,
  ⟨0x78, 1, 0x0, 1, 0x0, 0x0#32, 0x0#32, 0x0#32, .warm⟩,
  ⟨0x80, 1, 0x0, 1, 0x0, 0xFFFFFFFF#32, 0x0#32, 0x0#32, .warm⟩,
  ⟨0x84, 1, 0x0, 1, 0x0, 0x3FFF#32, 0x0#32, 0x0#32, .warm⟩,
  ⟨0x90, 1, 0x0, 1, 0x0, 0x0#32, 0x0#32, 0x80000000#32, .warm⟩,
  ⟨0x100, 1, 0x0, 1, 0x0, 0x0#32, 0x0#32, 0x0#32, .warm⟩,
  ⟨0x104, 1, 0x0, 1, 0x0, 0x0#32, 0x0#32, 0x0#32, .warm⟩,
  ⟨0x108, 1, 0x0, 1, 0x0, 0x0#32, 0x0#32, 0x0#32, .warm⟩,
  ⟨0x10C, 1, 0x0, 1, 0x0, 0x0#32, 0x0#32, 0x0#32, .warm⟩,
  ⟨0x110, 1, 0x0, 1, 0x0, 0x0#32, 0x0#32, 0x0#32, .warm⟩,
  ⟨0x114, 1, 0x0, 1, 0x0, 0x0#32, 0x0#32, 0x0#32, .warm⟩,
  ⟨0x118, 1, 0x0, 1, 0x0, 0x0#32, 0x0#32, 0x0#32, .warm⟩,
  ⟨0x11C, 1, 0x0, 1, 0x0, 0x0#32, 0x0#32, 0x0#32, .warm⟩,
  ⟨0x120, 1, 0x0, 1, 0x0, 0x0#32, 0x0#32, 0x0#32, .warm⟩,
  ⟨0x124, 1, 0x0, 1, 0x0, 0x0#32, 0x0#32, 0x0#32, .warm⟩,
  ⟨0x128, 1, 0x0, 1, 0x0, 0x0#32, 0x0#32, 0x0#32, .warm⟩,
  ⟨0x12C, 1, 0x0, 1, 0x0, 0x0#32, 0x0#32, 0x0#32, .warm⟩,
  ⟨0x130, 1, 0x0, 1, 0x0, 0x0#32, 0x0#32, 0x0#32, .warm⟩]

/-- Registers of WDN, part 1. -/
def wdnRows1 : List RegRow := [
  ⟨0x134, 1, 0x0, 1, 0x0, 0x0#32, 0x0#32, 0x0#32, .warm⟩,
  ⟨0x138, 1, 0x0, 1, 0x0, 0x0#32, 0x0#32, 0x0#32, .warm⟩,
  ⟨0x13C, 1, 0x0, 1, 0x0, 0x0#32, 0x0#32, 0x0#32, .warm⟩,
  ⟨0x140, 1, 0x0, 1, 0x0, 0x0#32, 0x0#32, 0x0#32, .warm⟩,
  ⟨0x144, 1, 0x0, 1, 0x0, 0x0#32, 0x0#32, 0x0#32, .warm⟩]

/-- Registers of WDN. -/
def wdnRows : List RegRow := wdnRows0 ++ wdnRows1

/-- Registers of PRS -/
def prsRows : List RegRow := [
  ⟨0x0, 2, 0x100, 1, 0x0, 0x80001FFF#32, 0x0#32, 0x0#32, .warm⟩,
  ⟨0x4, 2, 0x100, 1, 0x0, 0x0#32, 0x0#32, 0x0#32, .warm⟩,
  ⟨0x10, 2, 0x100, 1, 0x0, 0x0#32, 0xF#32, 0x0#32, .warm⟩,
  ⟨0x14, 2, 0x100, 1, 0x0, 0x0#32, 0x80000000#32, 0x0#32, .warm⟩,
  ⟨0x800, 2, 0x100, 1, 0x0, 0x0#32, 0x0#32, 0x0#32, .warm⟩,
  ⟨0x804, 2, 0x100, 1, 0x0, 0x0#32, 0x0#32, 0x0#32, .warm⟩,
  ⟨0x808, 2, 0x100, 1, 0x0, 0x0#32, 0x0#32, 0x0#32, .warm⟩,
  ⟨0x80C, 2, 0x100, 1, 0x0, 0x0#32, 0x0#32, 0x0#32, .warm⟩,
  ⟨0x810, 2, 0x100, 1, 0x0, 0x0#32, 0x0#32, 0x0#32, .warm⟩,
  ⟨0x814, 2, 0x100, 1, 0x0, 0x0#32, 0x0#32, 0x0#32, .warm⟩,
  ⟨0x818, 2, 0x100, 1, 0x0, 0x0#32, 0x0#32, 0x0#32, .warm⟩,
  ⟨0x81C, 2, 0x100, 1, 0x0, 0x0#32, 0x0#32, 0x0#32, .warm⟩,
  ⟨0x820, 2, 0x100, 1, 0x0, 0x0#32, 0x0#32, 0x0#32, .warm⟩,
  ⟨0x824, 2, 0x100, 1, 0x0, 0x0#32, 0x0#32, 0x0#32, .warm⟩]

/-- Registers of TRC, part 0. -/
def trcRows0 : List RegRow := [
  ⟨0x0, 2, 0x100, 1, 0x0, 0x1#32, 0x0#32, 0x0#32, .warm⟩,
  ⟨0x4, 2, 0x100, 1, 0x0, 0x0#32, 0x0#32, 0x0#32, .warm⟩,
  ⟨0x10, 2, 0x100, 1, 0x0, 0x0#32, 0x1F#32, 0x0#32, .warm⟩,
  ⟨0x14, 2, 0x100, 1, 0x0, 0x0#32, 0x80000000#32, 0x0#32, .warm⟩,
  ⟨0x800, 2, 0x100, 1, 0x0, 0x0#32, 0x0#32, 0x0#32, .warm⟩,
  ⟨0x804, 2, 0x100, 1, 0x0, 0x0#32, 0x0#32, 0x0#32, .warm⟩,
  ⟨0x808, 2, 0x100, 1, 0x0, 0x0#32, 0x0#32, 0x0#32, .warm⟩,
  ⟨0x80C, 2, 0x100, 1, 0x0, 0x0#32, 0x0#32, 0x0#32, .warm⟩,
  ⟨0x810, 2, 0x100, 1, 0x0, 0x0#32, 0x0#32, 0x0#32, .warm⟩,
  ⟨0x814, 2, 0x100, 1, 0x0, 0x0#32, 0x0#32, 0x0#32, .warm⟩,
  ⟨0x818, 2, 0x100, 1, 0x0, 0x0#32, 0x0#32, 0x0#32, .warm⟩,
  ⟨0x81C, 2, 0x100, 1, 0x0, 0x0#32, 0x0#32, 0x0#32, .warm⟩,
  ⟨0x820, 2, 0x100, 1, 0x0, 0x0#32, 0x0#32, 0x0#32, .warm⟩,
  ⟨0x824, 2, 0x100, 1, 0x0, 0x0#32, 0x0#32, 0x0#32, .warm⟩,
  ⟨0x1000, 2, 0x1000, 16, 0x80, 0xFC3F0000#32, 0x0#32, 0x0#32, .warm⟩,
  ⟨0x1004, 2, 0x1000, 16, 0x80, 0x3FFFF#32, 0x0#32, 0x0#32, .warm⟩,
  ⟨0x1008, 2, 0x1000, 16, 0x80, 0xFFC00000#32, 0x0#32, 0x0#32, .warm⟩,
  ⟨0x100C, 2, 0x1000, 16, 0x80, 0xFFFFFFFF#32, 0x0#32, 0x0#32, .warm⟩,
  ⟨0x1010, 2, 0x1000, 16, 0x80, 0xFFFFFFFF#32, 0x0#32, 0x0#32, .warm⟩,
  ⟨0x1014, 2, 0x1000, 16, 0x80, 0xFFFFFFFF#32, 0x0#32, 0x0#32, .warm⟩,
  ⟨0x1018, 2, 0x1000, 16, 0x80, 0xFFFFF#32, 0x0#32, 0x0#32, .warm⟩,
  ⟨0x101C, 2, 0x1000, 16, 0x80, 0x3FFF00#32, 0x0#32, 0x0#32, .warm⟩,
  ⟨0x1020, 2, 0x1000, 16, 0x80, 0x1FFF01FF#32, 0x0#32, 0x0#32, .warm⟩,
  ⟨0x1024, 2, 0x1000, 16, 0x80, 0x0#32, 0x0#32, 0x0#32, .warm⟩,
  ⟨0x1028, 2, 0x1000, 16, 0x80, 0xFFFF#32, 0x0#32, 0x0#32, .warm⟩,
  ⟨0x102C, 2, 0x1000, 16, 0x80, 0x0#32, 0x0#32, 0x0#32, .warm⟩,
  ⟨0x4000, 1, 0x0, 1, 0x0, 0x0#32, 0x0#32, 0x0#32, .warm⟩,
  ⟨0x4004, 1, 0x0, 1, 0x0, 0xFFFFFFFF#32, 0x0#32, 0x0#32, .warm⟩,
  ⟨0x4008, 1, 0x0, 1, 0x0, 0xFFFF#32, 0x0#32, 0x0#32, .warm⟩,
  ⟨0x4010, 1, 0x0, 1, 0x0, 0x0#32, 0x0#32, 0x80000000#32, .warm⟩]

/-- Registers of TRC, part 1. -/
def trcRows1 : List RegRow := [
  ⟨0x4100, 48, 0x4, 1, 0x0, 0x0#32, 0x0#32, 0x0#32, .warm⟩]

/-- Registers of TRC. -/
def trcRows : List RegRow := trcRows0 ++ trcRows1

/-- Registers of SEC, part 0. -/
def secRows0 : List RegRow := [
  ⟨0x0, 1, 0x0, 1, 0x0, 0x0#32, 0x0#32, 0x80000000#32, .warm⟩,
  ⟨0x4, 1, 0x0, 1, 0x0, 0x0#32, 0x0#32, 0x0#32, .warm⟩,
  ⟨0x10, 1, 0x0, 1, 0x0, 0x0#32, 0x0#32, 0x0#32, .warm⟩,
  ⟨0x14, 1, 0x0, 1, 0x0, 0x1FF#32, 0x0#32, 0x0#32, .warm⟩,
  ⟨0x20, 1, 0x0, 1, 0x0, 0x0#32, 0x1F#32, 0x0#32, .warm⟩,
  ⟨0x24, 1, 0x0, 1, 0x0, 0x0#32, 0x80000000#32, 0x0#32, .warm⟩,
  ⟨0x30, 2, 0x4, 1, 0x0, 0x0#32, 0x0#32, 0x0#32, .fixed⟩,
  ⟨0x38, 1, 0x0, 1, 0x0, 0x0#32, 0x0#32, 0x40000007#32, .fixed⟩,
  ⟨0x3C, 1, 0x0, 1, 0x0, 0x0#32, 0x0#32, 0x0#32, .fixed⟩,
  ⟨0x40, 1, 0x0, 1, 0x0, 0x0#32, 0x0#32, 0x0#32, .warm⟩,
  ⟨0x44, 1, 0x0, 1, 0x0, 0xFFFFFFFF#32, 0x0#32, 0x0#32, .warm⟩,
  ⟨0x48, 8, 0x4, 1, 0x0, 0xFFFFFFFF#32, 0x0#32, 0x0#32, .warm⟩,
  ⟨0x70, 1, 0x0, 1, 0x0, 0x0#32, 0x0#32, 0x80000000#32, .warm⟩,
  ⟨0x80, 4, 0x20, 8, 0x4, 0x0#32, 0x0#32, 0x0#32, .fixed⟩,
  ⟨0x100, 16, 0x4, 1, 0x0, 0x0#32, 0x0#32, 0x0#32, .fixed⟩,
  ⟨0x140, 1, 0x0, 1, 0x0, 0x0#32, 0x0#32, 0x0#32, .fixed⟩,
  ⟨0x200, 8, 0x20, 8, 0x4, 0x0#32, 0x0#32, 0x0#32, .warm⟩,
  ⟨0x300, 1, 0x0, 1, 0x0, 0x0#32, 0x0#32, 0x0#32, .warm⟩,
  ⟨0x320, 8, 0x4, 1, 0x0, 0xFFFFFFFF#32, 0x0#32, 0x0#32, .warm⟩,
  ⟨0x340, 1, 0x0, 1, 0x0, 0x0#32, 0x0#32, 0x80000000#32, .warm⟩,
  ⟨0x350, 1, 0x0, 1, 0x0, 0x0#32, 0x0#32, 0x0#32, .warm⟩,
  ⟨0x354, 1, 0x0, 1, 0x0, 0xFF#32, 0x0#32, 0x0#32, .warm⟩,
  ⟨0x358, 1, 0x0, 1, 0x0, 0xFFFFFFFF#32, 0x0#32, 0x0#32, .warm⟩,
  ⟨0x35C, 1, 0x0, 1, 0x0, 0xFF#32, 0x0#32, 0x0#32, .warm⟩,
  ⟨0x360, 8, 0x4, 1, 0x0, 0xFFFFFFFF#32, 0x0#32, 0x0#32, .warm⟩,
  ⟨0x380, 1, 0x0, 1, 0x0, 0x0#32, 0x0#32, 0x80000000#32, .warm⟩,
  ⟨0x400, 1, 0x0, 1, 0x0, 0x0#32, 0x0#32, 0x0#32, .warm⟩,
  ⟨0x410, 1, 0x0, 1, 0x0, 0x0#32, 0x0#32, 0x80000000#32, .warm⟩,
  ⟨0x414, 8, 0x4, 1, 0x0, 0x0#32, 0x0#32, 0x0#32, .warm⟩,
  ⟨0x500, 1, 0x0, 1, 0x0, 0x0#32, 0x0#32, 0x0#32, .warm⟩]

/-- Registers of SEC, part 1. -/
def secRows1 : List RegRow := [
  ⟨0x504, 1, 0x0, 1, 0x0, 0x7#32, 0x0#32, 0x0#32, .warm⟩,
  ⟨0x510, 1, 0x0, 1, 0x0, 0x0#32, 0x0#32, 0x80000000#32, .warm⟩,
  ⟨0x520, 8, 0x4, 1, 0x0, 0x0#32, 0x0#32, 0x0#32, .warm⟩,
  ⟨0x540, 16, 0x4, 1, 0x0, 0xFFFFFFFF#32, 0x0#32, 0x0#32, .warm⟩,
  ⟨0x580, 16, 0x4, 1, 0x0, 0xFFFFFFFF#32, 0x0#32, 0x0#32, .warm⟩,
  ⟨0x800, 256, 0x4, 1, 0x0, 0x0#32, 0x0#32, 0x0#32, .fixed⟩]

/-- Registers of SEC. -/
def secRows : List RegRow := secRows0 ++ secRows1

/-- Where a BAR0 address falls (R43, R31): the rows of its block, and its offset there. -/
def blockOf (a : Nat) : List RegRow × Nat :=
  if a < 0x10000 then (glbRows, a)
  else if a < 0x20000 then (secRows, a - 0x10000)
  else if a < 0x30000 then (timeRows, a - 0x20000)
  else if a < 0x40000 then (evtRows, a - 0x30000)
  else if a < 0x50000 then (hifRows, a - 0x40000)
  else if a < 0x70000 then (wdnRows, (a - 0x50000) % 0x10000)
  else if a < 0x80000 then ([], 0)
  else if a < 0xC0000 then (ddrRows, (a - 0x80000) % 0x10000)
  else if a < 0xD0000 then (hngRows, a - 0xC0000)
  else if a < 0x100000 then ([], 0)
  else if a < 0x300000 then (cskRows, a % 0x100000)
  else if a < 0x400000 then (clsRows, a - 0x300000)
  else if a < 0x500000 then (plyRows, a - 0x400000)
  else if a < 0x600000 then (prsRows, a - 0x500000)
  else if a < 0x700000 then (trcRows, a - 0x600000)
  else if a < 0x710000 then (macmRows, a - 0x700000)
  else if a < 0x800000 then ([], 0)
  else if a < 0x840000 then (macRows, (a - 0x800000) % 0x10000)
  else if a < 0x1000000 then ([], 0)
  else if a < 0x1300000 then (tdmRows, (a - 0x1000000) % 0x10000)
  else if a < 0x2000000 then ([], 0)
  else if a < 0x4000000 then
    let o := a % 0x100000
    if o < 0x10000 then (wsRows, o)
    else if o < 0x20000 then (ctxRows, o - 0x10000)
    else if o < 0x30000 then (vatRows, o - 0x20000)
    else if o < 0x40000 then (toneRows, o - 0x30000)
    else if o < 0x50000 then (srcRows, o - 0x40000)
    else if o < 0x60000 then (vdeRows, o - 0x50000)
    else if o < 0x80000 then ([], 0)
    else if o < 0xE0000 then (tileRows, (o - 0x80000) % 0x8000)
    else ([], 0)
  else ([], 0)

/-- The row holds the offset: off + i * s1 + j * s2 for some i < c1 and j < c2. Strides of one row are nested, the
larger first where there are two, or the second array stands outside the first. -/
def RegRow.holds (r : RegRow) (o : Nat) : Bool :=
  if o < r.off then false
  else if r.c2 = 1 then
    if r.c1 = 1 then o == r.off
    else (o - r.off) % r.s1 == 0 && decide ((o - r.off) / r.s1 < r.c1)
  else
    let x := o - r.off
    decide (x / r.s1 < r.c1) && (x % r.s1) % r.s2 == 0 && decide ((x % r.s1) / r.s2 < r.c2)

/-- The row of the register at a BAR0 address, if one stands there. -/
def regRow (a : Nat) : Option RegRow :=
  (blockOf a).1.find? (fun r => r.holds (blockOf a).2)

/-- The reset value of the register at a BAR0 address, 0 where none stands (R32). -/
def resetOf (a : Nat) : BitVec 32 :=
  match regRow a with
  | some r => r.rst
  | none => 0

end Sys2Proof.Machine
end

