-- ==== Sys2Proof/Machine/Sparse.lean ====
section
/-!
DEFINITION. Sparse tables: a list of (key, value) pairs with strictly rising keys and no entry equal to the value that
an unlisted key has. Memory, registers and every table of records use it, so that equal tables are equal lists.
-/

namespace Sys2Proof.Machine

variable {α : Type}

/-- The value of a key, `dflt` where it is not listed. -/
def sget (l : List (Nat × α)) (dflt : α) (k : Nat) : α :=
  match l with
  | [] => dflt
  | (k', v) :: t => if k = k' then v else if k < k' then dflt else sget t dflt k

/-- The table without a key. -/
def sdel (l : List (Nat × α)) (k : Nat) : List (Nat × α) :=
  match l with
  | [] => []
  | (k', v) :: t => if k = k' then t else if k < k' then (k', v) :: t else (k', v) :: sdel t k

/-- The table with a key listed. -/
def sput (l : List (Nat × α)) (k : Nat) (v : α) : List (Nat × α) :=
  match l with
  | [] => [(k, v)]
  | (k', v') :: t => if k = k' then (k, v) :: t else if k < k' then (k, v) :: (k', v') :: t else (k', v') :: sput t k v

/-- The table with a key set: listed, or removed where the value is the unlisted one. -/
def sset [DecidableEq α] (l : List (Nat × α)) (dflt : α) (k : Nat) (v : α) : List (Nat × α) :=
  if v = dflt then sdel l k else sput l k v

/-- Keys rise strictly. -/
def srising : List (Nat × α) → Bool
  | [] => true
  | [_] => true
  | (k, _) :: (k', v') :: t => decide (k < k') && srising ((k', v') :: t)

/-- The canonical form: keys rise strictly and no entry holds the value of an unlisted key. -/
def swf [DecidableEq α] (dflt : Nat → α) (l : List (Nat × α)) : Bool :=
  srising l && l.all (fun e => decide (e.2 ≠ dflt e.1))

/-- Numbers rise strictly. -/
def nrising (l : List Nat) : Bool := srising (l.map (fun k => (k, ())))

/-- A sorted set of numbers: membership, insertion and removal. -/
def mem1 (l : List Nat) (k : Nat) : Bool := l.contains k

def ins1 (l : List Nat) (k : Nat) : List Nat :=
  match l with
  | [] => [k]
  | x :: t => if k = x then x :: t else if k < x then k :: x :: t else x :: ins1 t k

def del1 (l : List Nat) (k : Nat) : List Nat :=
  match l with
  | [] => []
  | x :: t => if k = x then t else if k < x then x :: t else x :: del1 t k

end Sys2Proof.Machine
end

