-- ==== Sys2Proof/Machine/State.lean ====
section
/-!
DEFINITION. The state of the CG3248: its registers, memories, cores, clusters, engines and ports, as plain data, and
the queue of commands that wait. Registers are one sparse list keyed by BAR0 offset, where an offset that is not listed
reads its reset value (Machine/Regs.lean); other tables are sparse lists in the same canonical form
(Machine/Sparse.lean). INVENTORY.md lists every field with its rule.
-/

namespace Sys2Proof.Machine

/-! ## The core (R81 to R105) -/

/-- A register of a core, as destination of an instruction (R81, R119). `qvec` is the Q vector of MOVX. -/
inductive CReg where
  | g (n : Fin 32)
  | p (n : Fin 16)
  | m (n : Fin 8)
  | cbase (n : Fin 8)
  | clen (n : Fin 8)
  | lc (n : Fin 4)
  | q (n : Fin 8)
  | qvec
  | ctl (n : Fin 32)
  | acc (n : Fin 8)
  | accPart (n : Fin 8) (part : Fin 3)
  deriving DecidableEq, Repr

/-- Class of an instruction (R84): M, M taking both M slots, A, A that must stand in slot A0. -/
inductive SlotClass where
  | m
  | mBoth
  | a
  | control
  deriving DecidableEq, Repr

/-- A memory access of an A slot (R117): the core address and size, what it does, and what SECDED finds in the word. -/
inductive MemOp where
  | load (addr size : Nat) (signed : Bool) (rd : Fin 32) (ecc : Ecc)
  | store (addr size : Nat) (ecc : Ecc) (val : BitVec 64)
  deriving DecidableEq, Repr

/-- What a control instruction does when its bundle takes effect (R123 to R129, R103). -/
inductive Ctl where
  | branch (target : Nat)
  | call (target : Nat)
  | loop (body count : Nat)
  | ret
  | fence
  | ckw (handle : Nat) (word : BitVec 128) (qd : Fin 8)
  | ckc (handle : Nat)
  | ckcRel (handle : Nat)
  | cka (handle : Nat)
  | ckr (handle : Nat) (rd rs : Fin 32) (ecc : Ecc)
  | wpost (words : List Word) (cluster : Nat) (qd : Fin 8)
  | wdelay (words : List Word) (us : Nat) (qd : Fin 8)
  deriving DecidableEq, Repr

/-- An operand of the C-stream (R114): which word of the 64-bit word at P15. -/
inductive CsWord where
  | w0
  | w1
  deriving DecidableEq, Repr

/-- How a multiply uses its accumulator (R114). -/
inductive Opk where
  | mpy
  | mac
  | msu
  deriving DecidableEq, Repr

/-- The product group of a multiply (R114). -/
inductive MacKind where
  | mul16
  | mul2
  | mulP
  | mulW
  | mulL
  deriving DecidableEq, Repr

/-- A multiply, whose second operand may come from the C-stream and so is known only when the bundle takes effect. -/
structure MacOp where
  kind : MacKind
  opk : Opk
  accd : Fin 8
  f : Bool
  m14 : Bool
  m13 : Bool
  a : Word
  b : Word
  cs : Option CsWord
  deriving DecidableEq, Repr

/-- One instruction of a bundle, with its sources read (R85): whether it executes (R86), whether its word is illegal
(R107), every register it writes, the values written at the end of the bundle, and its other effects. -/
structure Pend where
  cls : SlotClass
  on : Bool
  illegal : Bool
  nesting : Bool
  dests : List CReg
  writes : List (CReg × BitVec 72)
  av : Bool
  sv : Bool
  mac : Option MacOp
  mem : Option MemOp
  ctl : Option Ctl
  uses : List CReg
  macs : Nat
  outside : Bool
  deriving DecidableEq, Repr

/-- Where a work item comes from (R145, R147, R148). -/
inductive Origin where
  | delayList
  | sequencer
  | playout
  | tile
  | otherTile
  | notice
  | host
  deriving DecidableEq, Repr

/-- A work item (R144). `regs` holds G2, G3, G4, G5 and G7 at entry where the chain sequencer issued it (R102),
`stage` what it stages into tile memory, `area` where the state it stages lies and how many bytes it is, `run` the run it
belongs to and `boundary` that run's boundary in microseconds of TB2. -/
structure Item where
  cls : Fin 8
  ord : Bool
  typ : BitVec 2
  flow : BitVec 16
  tid : BitVec 18
  entry : Word
  cost : Word
  arg0 : Word
  arg1 : Word
  data : Word
  origin : Origin
  run : Option (BitVec 13 × Fin 2)
  boundary : Nat
  regs : List Word
  stage : List (Nat × List Byte)
  area : Option (Nat × Nat)
  deriving DecidableEq, Repr

/-- A core and its tile (R81, R82, R94, R150, R151). -/
structure Core where
  g : Vector Word 32
  acc : Vector (BitVec 72) 8
  p : Vector Word 16
  m : Vector Word 8
  cbase : Vector Word 8
  clen : Vector Word 8
  lc : Vector Word 4
  q : BitVec 8
  stat : Word
  ctrl : Word
  pc : Word
  cyc : Word
  ilim : Word
  itid : BitVec 18
  tb2s : Word
  tb2ns : Word
  lstart : Vector Word 4
  lend : Vector Word 4
  bundle : List Pend
  lcache : Option (Nat × Nat)
  running : Option Item
  image : Option (BitVec 2 × Word)
  entryPc : Word
  lastFlow : Option (BitVec 16)
  lastUse : Nat
  loading : Option Item
  loadLate : List CReg
  accLate : List CReg
  outLoads : List CReg
  stepping : Bool
  ueTimes : List Nat
  deriving DecidableEq, Repr

/-- A core at reset: Q0 reads 1 (R81), STAT and CTRL at the values of R82; the rest is log 3. -/
def Core.init : Core where
  g := Vector.replicate 32 0
  acc := Vector.replicate 8 0
  p := Vector.replicate 16 0
  m := Vector.replicate 8 0
  cbase := Vector.replicate 8 0
  clen := Vector.replicate 8 0
  lc := Vector.replicate 4 0
  q := 1
  stat := 0x08000000
  ctrl := 0x00400000
  pc := 0x00050000
  cyc := 0
  ilim := 0
  itid := 0
  tb2s := 0
  tb2ns := 0
  lstart := Vector.replicate 4 0
  lend := Vector.replicate 4 0
  bundle := []
  lcache := none
  running := none
  image := none
  entryPc := 0x00050000
  lastFlow := none
  lastUse := 0
  loading := none
  loadLate := []
  accLate := []
  outLoads := []
  stepping := false
  ueTimes := []

/-! ## The scheduler (R144 to R162) -/

/-- A delay-list timer (R154): one-shot with its item, who armed it (R157) and in which order, or periodic of a slot. -/
inductive TimerKind where
  | oneShot (item : Item) (byHost : Bool) (order : Nat)
  | periodic (slot : BitVec 13)
  deriving DecidableEq, Repr

/-- An armed timer: the microsecond of TB2 at which it expires, and its kind. -/
structure Timer where
  due : Nat
  kind : TimerKind
  deriving DecidableEq, Repr

/-- A reference block of a Vat slot (R196, R197): the tag of its first sample and its sample interval in nanoseconds,
and its samples. -/
structure RefBlock where
  tag : Nat
  step : Nat
  samples : List (BitVec 16)
  deriving DecidableEq, Repr

/-- A request in the queue of a Vat (R210): EC of a run, or a reference block for a Vat slot: the slot of the cluster, the DPA
of its Vat slot, the profile and the rate of its EC. -/
inductive VatReq where
  | ec (slot : BitVec 13) (chain : Fin 2)
  | ref (slot : BitVec 13) (dpa prof : Nat) (wide : Bool) (b : RefBlock)
  deriving DecidableEq, Repr

/-- What a cluster's scheduler, loader, delay list and accelerators hold (R147, R151, R154, R200, R210, R227, R241, R266,
R398). `hintBad` is HINTBAD, which no register shows (R200); `banks` holds the images of the
user sets, by 2 × set + bank (R265). -/
structure Cluster where
  pend : List Item
  waiting : List (Item × Option Nat)
  timers : List (Nat × Timer)
  useClock : Nat
  armClock : Nat
  verified : List Word
  storeUe : List Nat
  storeCe : List Nat
  storeCorr : Nat
  storeUncorr : Nat
  vatQueue : List VatReq
  hintBad : Nat
  banks : List (Nat × List Byte)
  toneQueue : List (BitVec 13 × Fin 2)
  vdeQueue : List (BitVec 13 × Fin 2)
  srcQueue : List (BitVec 13 × Fin 2)
  deriving DecidableEq, Repr

def Cluster.init : Cluster := ⟨[], [], [], 0, 0, [], [], [], 0, 0, [], 0, [], [], [], []⟩

/-! ## Casks (R131 to R143) -/

/-- Who writes a packet into a cask (R132). -/
inductive Producer where
  | tile (cl : Fin 32) (t : Fin 12)
  | accel (cl : Fin 32) (unit : Fin 8)
  | dieUnit (d : Fin 2) (unit : Fin 8)
  | mac (m : Fin 5)
  | tdm (p : Fin 48)
  | warden (d : Fin 2)
  | host
  deriving DecidableEq, Repr

/-- A cask word: its data, and whether it is poisoned (R63, R65). -/
structure CWord where
  val : BitVec 128
  poison : Bool
  deriving DecidableEq, Repr

/-- An open packet (R132): the places of its words in the storage of the cask, oldest first, and whether a flush covers it
(R139). -/
structure OpenPkt where
  slots : List Nat
  flushed : Bool
  deriving DecidableEq, Repr

/-- A cask: the places of the words of its committed packets, oldest packet first, how many words of the first have been
read, the open packets by producer, and the member whose packet reads continue (R131 to R138). The words themselves stand
in Cellar. -/
structure Cask where
  pkts : List (List Nat)
  ridx : Nat
  opens : List (Producer × OpenPkt)
  member : Option Nat
  deriving DecidableEq, Repr

def Cask.init : Cask := ⟨[], 0, [], none⟩

/-! ## Terminations and chain runs (R163 to R193) -/

/-- Slot states (R165). -/
inductive SlotState where
  | free
  | reserved
  | live
  | idle
  | deleting
  deriving DecidableEq, Repr

/-- A block of a run (R174): rate code (0 8, 1 16, 2 32, 3 48 kHz), samples, frame records (R248) with their codec and
payload variant, the flags, the tag of the first sample in ns of TB2, the mode request received with the frames (R281),
and the playout adjustment still owed, in ns, with its TID (R279). -/
structure Block where
  rate : Fin 4
  samples : List (BitVec 16)
  frames : List (List Byte)
  codec : BitVec 6
  variant : Bool
  missing : Bool
  noise : Bool
  sid : Bool
  nodata : Bool
  tag : Nat
  req : Option Nat
  owed : Option (BitVec 18 × Int)
  tags : List Nat
  deriving DecidableEq, Repr

/-- A block at the start of a run: empty and MISSING (R174). -/
def Block.empty : Block := ⟨0, [], [], 0, false, true, false, false, false, 0, none, none, []⟩

/-- What PKT.OUT holds for a binding (R283): the frame records with the timestamp of each, their codec, variant and
rate in kHz, whether SID or NODATA came since the last packet, and whether the next packet carries the marker. -/
structure Held where
  frames : List (Nat × List Byte)
  codec : Nat
  variant : Bool
  khz : Nat
  quiet : Bool
  mark : Bool
  deriving DecidableEq, Repr

def Held.init : Held := ⟨[], 0, false, 8, false, false⟩

/-- What a run waits for before its next instruction. -/
inductive Wait where
  | none
  | vat
  | toneBank
  | vde
  | resampler
  | tile
  deriving DecidableEq, Repr

/-- A packet that arrives: extended sequence number, timestamp without wrap, arrival, payload and the codec word of its
entry. -/
structure Packet where
  seq : Nat
  ts : Int
  arrival : Nat
  payload : List Byte
  fmt : Word
  deriving DecidableEq, Repr

/-- A stored packet (R276): as it arrived, but that its payload, of `len` bytes, stands in cell `slot` of a die's pool. `left`
marks one that was due earlier and stayed beyond the 16 of its boundary (R277). -/
structure Stored where
  seq : Nat
  ts : Int
  arrival : Nat
  len : Nat
  fmt : Word
  die : Fin 2
  slot : Nat
  left : Bool
  deriving DecidableEq, Repr

/-- A chain run (R158 to R162, R174): its boundary in microseconds of TB2, the context it started with, the index of
the next instruction, the excess, the instructions marked shed and the DECs marked for PLC, whether it is already
counted as missed and whether its deadline has closed it, what it waits for, the packets presented to it, and the blocks. -/
structure Run where
  boundary : Nat
  ctx : List Byte
  idx : Nat
  excess : Int
  shed : List Nat
  plc : List Nat
  missed : Bool
  closed : Bool
  wait : Wait
  cells : List Stored
  blocks : Vector Block 8
  deriving DecidableEq, Repr

/-- Accelerator units (R192): Vat, tone bank, resampler, VDE. -/
structure Units where
  vat : Nat
  tone : Nat
  src : Nat
  vde : Nat
  deriving DecidableEq, Repr

/-- An accepted version that has not taken effect (R183, R184), with its charge and units, or a DELETE (R187). -/
structure Commit where
  image : List Byte
  version : BitVec 16
  keepAdapt : Bool
  staged : Bool
  charge : Nat
  opt : Nat
  units : Units
  names : List Nat
  delete : Bool
  switchAt : Nat
  deriving DecidableEq, Repr

/-- A Warden adjustment that has not taken effect (R186): its base version, area (A), and its switch. -/
structure Adjust where
  base : BitVec 16
  area : List Word
  switchAt : Nat
  deriving DecidableEq, Repr

/-- Counts of a playout record and of the metrics interval (R275, R278). -/
structure PlayCounts where
  rx : Nat
  dup : Nat
  late : Nat
  lost : Nat
  reorder : Nat
  resync : Nat
  overflow : Nat
  deriving DecidableEq, Repr

def PlayCounts.zero : PlayCounts := ⟨0, 0, 0, 0, 0, 0, 0⟩

/-- A slot of a cluster (R165, R183 to R187): its state, TID, newest and in-force versions, charge and units in force,
the grid (period in ms and phase) and the profiles of the version in force (numbers of USERS registers), the pending
version and adjustments, the runs of chain 0 and chain 1, and the metrics interval's counts, with the playout counts at its
start. -/
structure Slot where
  st : SlotState
  tid : BitVec 18
  newest : BitVec 16
  inForce : BitVec 16
  charge : Nat
  opt : Nat
  units : Units
  grid : Nat × Nat
  names : List Nat
  pending : Option Commit
  adjusts : List Adjust
  run0 : Option Run
  run1 : Option Run
  missed : Nat
  shed : Nat
  lastTone : BitVec 8
  metered : Nat
  plcFrames : Nat
  mark : PlayCounts
  held : Held
  deriving DecidableEq, Repr

def Slot.init : Slot :=
  ⟨.free, 0, 0, 0, 0, 0, ⟨0, 0, 0, 0⟩, (10, 0), [], none, [], none, none, 0, 0, 0, 0, 0, PlayCounts.zero, Held.init⟩

/-! ## The accelerators (R194 to R266) -/

/-- A profile of a Vat as it is read (R216): windows, positions per window (WLEN in 2 ms) and positions of the tail, STEP,
DTDHOLD in ns, DTDTHR in dB, DISHOLD in ms, DISLEV and CNGMAX in dBm0, each as it acts. -/
structure VatProfile where
  nwin : Nat
  wlen : Nat
  tail : Nat
  noSearch : Bool
  freeze : Bool
  cng : Nat
  disabler : Nat
  step : Nat
  dtHold : Nat
  dtThr : Nat
  disHold : Nat
  disLev : Int
  cngMax : Int
  deriving DecidableEq, Repr

def VatProfile.zero : VatProfile := ⟨0, 0, 0, false, false, 0, 0, 0, 0, 0, 0, 0, 0⟩

/-- A detector of answer tones (R204): how long the tone has lasted in ms, the point from which a reversal is timed, the
reversals, and what it remembers. -/
structure Answer where
  ms : Nat
  revTag : Nat
  revs : Nat
  memory : Nat
  deriving DecidableEq, Repr

def Answer.init : Answer := ⟨0, 0, 0, 0⟩

/-- State of a canceller (R198 to R208): whether it is initialised, for which profile (its values as read) and rate, the hints
last taken and which of them hold their windows. The windows: positions, coefficients (0 where all are zero), and how long in
ms each has stayed 40 dB below the strongest. The shadow: its position, the window it adapts for and its coefficients. A
cross-fade: the window, its position and coefficients before, and the samples faded. Double talk and when its hold ends; NLP,
when its release ends, and its gain of 32,768; the answer tones of the near end and the reference, how long both have been
quiet in ms, and `disabled` (0, 1 for the NLP forced off and 2 for the filter bypassed). What it remembers of its signals and
of the background; whether the far end carries speech, the end of the last block of far-end single talk, and when the next
search is due. The references held, the first near-end tag, the tag after the last near-end sample, and the header's counts. -/
structure VatSlot where
  inited : Bool
  profile : Nat
  q : VatProfile
  wide : Bool
  hints : Word
  hinted : Vector Bool 4
  win : Vector (BitVec 8) 4
  coefs : Vector Nat 4
  low : Vector Nat 4
  shadow : Option (BitVec 8 × Fin 4 × Nat)
  fade : Option (Fin 4 × BitVec 8 × Nat × Nat)
  dt : Bool
  dtEnd : Nat
  nlpOn : Bool
  nlpEnd : Nat
  gain : Nat
  near : Answer
  far : Answer
  quiet : Nat
  disabled : Nat
  memory : Nat
  back : Nat
  speech : Bool
  single : Nat
  search : Nat
  refs : List RefBlock
  start : Option Nat
  done : Nat
  reinits : BitVec 16
  relocs : BitVec 16
  deriving DecidableEq, Repr

def VatSlot.init : VatSlot :=
  { inited := false, profile := 0, q := VatProfile.zero, wide := false, hints := 0xFFFFFFFF, hinted := Vector.replicate 4 false
    win := Vector.replicate 4 0xFF, coefs := Vector.replicate 4 0, low := Vector.replicate 4 0, shadow := none, fade := none
    dt := false, dtEnd := 0, nlpOn := false, nlpEnd := 0, gain := 32768, near := Answer.init, far := Answer.init, quiet := 0
    disabled := 0, memory := 0, back := 0, speech := false, single := 0, search := 0, refs := [], start := none, done := 0
    reinits := 0, relocs := 0 }

/-- Progress of one call-progress entry (R220): whether the tone was present in the last frame, frames of the interval
in progress, whether matching has begun, intervals and cycles matched, the tag of the first on-interval, and the level last
measured in 0.1 dBm0. -/
structure CadSt where
  present : Bool
  frames : Nat
  begun : Bool
  seg : Nat
  cycles : Nat
  start : Nat
  level : Int
  deriving DecidableEq, Repr

def CadSt.init : CadSt := ⟨false, 0, false, 0, 0, 0, 0⟩

/-- A declared signal (R217): its code, onset tag and level in 0.1 dBm0, and the run of frames that do not qualify for it with
the first one's tag. -/
structure Heard where
  code : Nat
  onset : Nat
  level : Int
  bad : Nat
  badTag : Nat
  deriving DecidableEq, Repr

/-- A detector (R217, R223): the candidate with its count, first tag and frames muted for it, and the declared signals that
have not ended. -/
structure DetSt where
  cand : Nat
  count : Nat
  candTag : Nat
  muted : Nat
  heard : List Heard
  deriving DecidableEq, Repr

def DetSt.init : DetSt := ⟨0, 0, 0, 0, []⟩

/-- State of TONE.DET (R217 to R220): the signalling and the fax detector, the start of the reversal interval, the
call-progress entries, and what the measures remember. -/
structure ToneSt where
  sig : DetSt
  fax : DetSt
  revTag : Nat
  cads : List CadSt
  memory : Nat
  deriving DecidableEq, Repr

def ToneSt.init : ToneSt := ⟨DetSt.init, DetSt.init, 0, List.replicate 16 CadSt.init, 0⟩

/-- State of TONE.GEN (R224, R225): the request last taken, the version of the pattern in progress, whether it plays, the
codes of a string, the boundary (µs of TB2) at which it started, and the output that a new request stops: its codes and the
sample at which it was stopped. -/
structure GenSt where
  taken : Nat
  version : Option (BitVec 16)
  active : Bool
  codes : List Nat
  start : Nat
  stopped : Option (List Nat × Nat)
  deriving DecidableEq, Repr

def GenSt.init : GenSt := ⟨0, none, false, [], 0, none⟩

/-- What a sample that DEC puts out is: decoded, concealed, or MISSING and carried as zero (R174, R251). -/
inductive PcmKind where
  | heard
  | concealed
  | missing
  deriving DecidableEq, Repr

/-- State of a codec (R250 to R255): what it was initialised for, the samples held, input taken and emitted in µs, mode, RXMODE,
the DTX and CONC marks, the counts FRAMES and ERASED, samples concealed short of a frame, what its algorithm remembers, the
duration of the last frame in µs, and the samples concealed since the last frame. -/
structure CodecSt where
  key : Nat
  held : List (BitVec 16 × PcmKind)
  got : Nat
  emitted : Nat
  mode : Nat
  rx : Nat
  dtx : Bool
  conc : Bool
  frames : Nat
  erased : Nat
  gap : Nat
  memory : Nat
  frameUs : Nat
  lost : Nat
  deriving DecidableEq, Repr

def CodecSt.init (key : Nat) : CodecSt := ⟨key, [], 0, 0, 0, 0xFF, false, false, 0, 0, 0, 0, 0, 0⟩

/-- A filter of SRC: its set, the bank of a user set, and the points of its median. -/
structure SrcFilter where
  set : Nat
  bank : Nat
  median : Nat
  deriving DecidableEq, Repr

/-- State of a resampler area (R262 to R264): its rates in kHz, the input once it has been seen, the filter in use, the
last input samples, output samples since the reset and those that it holds at zero, the request last taken, the first valid sample (its index and tag),
replacements of the median, and a fade: the filter before, its length and the samples faded. -/
structure SrcSt where
  inKhz : Option Nat
  outKhz : Nat
  filter : SrcFilter
  hist : List (BitVec 16)
  out : Nat
  hold : Nat
  taken : Nat
  primed : Option (Nat × Nat)
  medfix : Nat
  fade : Option (SrcFilter × Nat × Nat)
  deriving DecidableEq, Repr

/-- HDLC on a line, received: bits of the octet in progress, ones in a row, whether a flag has opened a frame, its octets, the
last two of them, which may be its FCS, and the check over it (R238). -/
structure HdlcIn where
  bits : List Bool
  ones : Nat
  opened : Bool
  octets : Nat
  hold : List Byte
  crc : Nat
  deriving DecidableEq, Repr

def HdlcIn.init : HdlcIn := ⟨[], 0, false, 0, [], 0⟩

/-- The receiver of a VDE area (R231 to R235): HSMOD in effect and as last taken, whether the last frame reached RXTHR, ms
below the loss level, the candidates with their onset, the modulations whose search has begun, what the demodulators remember,
the modulation received with its level in 0.5 dBm0, whether its preamble has ended and whether it is HDLC, the framing of its
bits, bytes not yet in a record, and whether records were dropped. -/
structure VdeRx where
  hs : Nat
  asked : Nat
  energy : Bool
  below : Nat
  cands : List (Nat × Nat)
  search : List Nat
  memory : Nat
  mod : Nat
  level : Int
  trained : Bool
  hdlc : Bool
  line : HdlcIn
  part : List Byte
  lost : Bool
  deriving DecidableEq, Repr

def VdeRx.init : VdeRx := ⟨0, 0, false, 0, [], [], 0, 0, 0, false, false, HdlcIn.init, [], false⟩

/-- The transmitter of a VDE area (R236): the modulation of the carrier and its training, samples since its start, bits sent and
what is kept of them, the phase of an FSK carrier in 1/8,000 of a turn, bits that wait, the sample at which the carrier ends,
whether its last data was HDLC, an open frame with its ones in a row and its FCS, and the bits of an underrun in progress. -/
structure VdeTx where
  mod : Nat
  short : Bool
  pos : Nat
  sent : Nat
  past : Nat
  phase : Nat
  queue : List Bool
  ends : Option Nat
  hdlc : Bool
  frame : Bool
  ones : Nat
  crc : Nat
  under : Nat
  deriving DecidableEq, Repr

def VdeTx.init : VdeTx := ⟨0, false, 0, 0, 0, 0, [], none, false, false, 0, 0, 0⟩

/-- What FAXRELAY keeps (R240): the number of the last IFP received and whether one was lost since a record, the next number
to send and the IFPs last sent, the octets of the T.30 frame in progress, and what its coder keeps. -/
structure FaxSt where
  last : Option Nat
  lost : Bool
  next : Nat
  past : List (List Byte)
  frame : List Byte
  memory : Nat
  deriving DecidableEq, Repr

def FaxSt.init : FaxSt := ⟨none, false, 0, [], [], 0⟩

/-- State of a VDE area (R238, R240, R241), with PASS and the last frozen offset in 0.1 Hz. -/
structure VdeSt where
  rx : VdeRx
  tx : VdeTx
  fax : FaxSt
  pass : Bool
  afc : Nat
  deriving DecidableEq, Repr

def VdeSt.init : VdeSt := ⟨VdeRx.init, VdeTx.init, FaxSt.init, false, 0⟩

/-- A block of a handoff buffer or mixer input (R179): its tag and content, and whether the reader has taken it. -/
structure Tagged where
  tag : Nat
  block : Block
  taken : List Nat
  deriving DecidableEq, Repr

/-- A state area whose bytes are no part of the interface, keyed by the DPA at which it stands. -/
inductive Area where
  | none
  | kernel (memory : Nat)
  | tone (t : ToneSt)
  | gen (g : GenSt)
  | codec (c : CodecSt)
  | src (r : SrcSt)
  | vde (v : VdeSt)
  | buffers (inputs : List (List Tagged))
  deriving DecidableEq, Repr

/-! ## Trace (R381 to R390) -/

/-- An armed probe: its source, its segment (number, entries with their tags, trigger, entries stored since it), what
counts for its record, what it compares with, its charge in kB/s, and the last event edge it stored. -/
structure Probe where
  armed : Bool
  src : Nat
  isOpen : Bool
  paused : Bool
  seq : Nat
  ents : List (Nat × List Byte)
  trig : Option (Nat × Nat)
  post : Nat
  lastTrig : Option Nat
  miss : Nat
  missNext : Nat
  dropped : Nat
  meas0 : Nat
  meas1 : Nat
  prev : Option Nat
  last : List Byte
  fresh : Bool
  stamp : Nat
  rtpSeq : Option Nat
  charge : Nat
  lastEdge : Option Nat
  deriving DecidableEq, Repr

def Probe.init : Probe :=
  ⟨false, 0, false, false, 0, [], none, 0, none, 0, 0, 0, 0, 0, none, [], true, 0, none, 0, none⟩

/-- A cross-port skew measurement (R390): its reference port and the ingress tags of up to 64 frames of each port. -/
structure Skew where
  ref : Fin 64
  tags : List (Nat × List Nat)
  deriving DecidableEq, Repr

/-! ## Security (R391 to R404) -/

/-- A running OTP command (R392): its OP, OTPARG and OTPDATA at acceptance. -/
structure OtpRun where
  op : BitVec 4
  arg : Word
  data : List Byte
  deriving DecidableEq, Repr

/-- A quote being made (R400): its bytes before the signature, and where it goes. -/
structure QuoteRun where
  body : List Byte
  addr : Nat
  deriving DecidableEq, Repr

/-- What SEC holds beside its registers: IDK, whether a challenge is valid, consecutive failed unlocks, whether the TRNG
failed, a running OTP command, whether OTPDATA shows IDPUB, slot and SVN of the running Warden image, digests in MR1,
quotes since the reset, a running quote, the boot ROM's progress (0 not started, 1 waiting for the host, 2 over, 3 OTP
uncorrectable), the Subsystem ID in force, and the OTP fields whose last write did not verify (R392). -/
structure Sec where
  idk : BitVec 256
  challenge : Bool
  fails : Nat
  trngBad : Bool
  otp : Option OtpRun
  showPub : Bool
  bootSlot : Nat
  bootSvn : Nat
  extended : List (Nat × List Byte)
  quotes : Nat
  quote : Option QuoteRun
  boot : Nat
  subsysId : BitVec 16
  unverified : List Nat
  deriving DecidableEq, Repr

def Sec.init : Sec := ⟨0, false, 0, false, none, false, 0, 0, [], 0, none, 0, 0, []⟩

/-! ## The packet path (R267 to R286) -/

/-- A classifier entry (R270): its 64-byte image, whether it is active, the version that it waits for, the versions at
which a REMOVE stops it, and its index: 65,536 × way + slot, or 262,144 + its place in the stash. -/
structure ClsEntry where
  image : List Byte
  active : Bool
  version : BitVec 16
  removes : List (BitVec 16)
  index : Nat
  deriving DecidableEq, Repr

/-- A media packet on its way to a playout unit (R273): its termination, its entry's image, the TB2 nanosecond of its
arrival, the UDP payload, the receiving die, and the MAC with the length of the frame in its buffer (R306). -/
structure Arrival where
  tid : BitVec 18
  image : List Byte
  tag : Nat
  payload : List Byte
  udptl : Bool
  die : Fin 2
  mac : Fin 5
  len : Nat
  deriving DecidableEq, Repr

/-- The counts of the burst and gap model of RFC 3611 (R284, log 17): packets since the last loss, losses in a row of the
present state, and the transitions. -/
structure Burst where
  pkt : Nat
  lost : Nat
  c11 : Nat
  c13 : Nat
  c14 : Nat
  c22 : Nat
  c23 : Nat
  c33 : Nat
  deriving DecidableEq, Repr

def Burst.zero : Burst := ⟨0, 0, 0, 0, 0, 0, 0, 0⟩

/-- RTCP of a termination (R284, R285): when the interval ends (µs of TB2), whether RTP was sent since the last report,
the packet last sent (ns of TB2 and timestamp), LSR with its arrival in ns, the first number since the anchor and the counts
at it, the counts and the expected packets at the last report, and the largest lead of the interval in ms. -/
structure RtcpSt where
  due : Option Nat
  sent : Bool
  lastTx : Option (Nat × Nat)
  lsr : Nat
  lsrAt : Nat
  first : Nat
  start : PlayCounts
  base : PlayCounts
  expected : Nat
  maxLead : Nat
  burst : Burst
  deriving DecidableEq, Repr

def RtcpSt.init : RtcpSt := ⟨none, false, none, 0, 0, 0, PlayCounts.zero, PlayCounts.zero, 0, 0, Burst.zero⟩

/-- The playout state of a TID (R275 to R279). `off` is O in ns, `tsRef` the last timestamp without wrap, `delta` the
timestamp step Δ, `hist` the numbers received, `ring` the stored packets, `late` the
run of LATE packets, `cand` the resync candidate with its SSRC and code, `due` the next boundary, `grid` its period in ms
and phase, `relEnd` B + p of the last release, `owed` the
adjustment owed in ns, and `pres` what is presented at the last boundary. -/
structure Play where
  live : Bool
  st : Nat
  adj : Bool
  home : Nat
  ssrc : Nat
  hseq : Nat
  next : Nat
  jit16 : Nat
  transit : Option Int
  tgt : Nat
  lmin : Option Nat
  rtt : Nat
  counts : PlayCounts
  off : Int
  tsRef : Int
  khz : Nat
  delta : Option Int
  hist : List (Nat × Int)
  ring : List Stored
  late : Nat
  cand : Option (Packet × Nat × Nat)
  due : Option Nat
  relEnd : Option Nat
  owed : Int
  pres : List Stored
  presAt : Nat
  depth : Nat
  rtcp : RtcpSt
  grid : Nat × Nat
  deriving DecidableEq, Repr

def Play.init : Play :=
  ⟨false, 0, false, 0, 0, 0, 0, 0, none, 0, none, 0, PlayCounts.zero, 0, 0, 8, none, [], [], 0, none,
    none, none, 0, [], 0, 0, RtcpSt.init, (10, 0)⟩

/-- A half of an SRTP context in use (R274): its suite, the master key and salt it derived its keys from, rollover
counter, highest sequence number, the SSRC expected, the indexes of the replay window, the SRTCP index and its window, and whether the
transmit index is exhausted. -/
structure Srtp where
  suite : Nat
  key : List Byte
  salt : List Byte
  roc : Nat
  last : Option Nat
  seen : List Nat
  rtcpIndex : Nat
  rtcpSeen : List Nat
  want : Nat
  stopped : Bool
  deriving DecidableEq, Repr

/-! ## TDM highways (R287 to R300) -/

/-- Receive CAS of an E1 stream (R296, R297): whether it is aligned, the number of the next frame in the multiframe,
consecutive misses, the TS16 octet before, and the abcd values of the multiframe before (16 none). -/
structure CasSt where
  locked : Bool
  idx : Nat
  miss : Nat
  prev : Option Byte
  abcd : List Nat
  deriving DecidableEq, Repr

def CasSt.init : CasSt := ⟨false, 0, 0, none, List.replicate 30 16⟩

/-- A port that runs (R288 to R300): the DPA range of its egress buffer, the instant of CTRL.EN, whether the start of frame 0 is known, the
number of the next frame to be received and its end, the number and start of the next frame to be fetched (ns of TB2),
the end that a port without slips would have (R294), the measured FS periods, the last FS and the predicted one,
consecutive FS errors and good FS, the last frames fetched with their loopback, the last frames received, the first
frame of a remote loopback, the CAS of each stream, the CASTX words in force, and the bits each HDLC channel has to
send. -/
structure Tdm where
  lo : Nat
  hi : Nat
  enAt : Nat
  ready : Bool
  next : Nat
  due : Nat
  outNext : Nat
  outAt : Nat
  ref : Nat
  periods : List Nat
  lastFs : Option Nat
  pred : Nat
  bad : Nat
  good : Nat
  eg : List (Nat × Nat × List Byte)
  rx : List (Nat × List Byte)
  remote : Option Nat
  cas : List (Nat × CasSt)
  latch : List (Nat × Word)
  hdlc : List (Nat × List Bool)
  deriving DecidableEq, Repr

/-- A port that does not run. -/
def Tdm.init : Tdm := ⟨0, 0, 0, false, 0, 0, 0, 0, 0, [], none, 0, 0, 0, [], [], none, [], [], []⟩

/-! ## Wardens (R355 to R368) -/

/-- A member of a group that moves (R365): its TID, its slot, and the slot reserved for it. -/
structure Member where
  tid : BitVec 18
  slot : Nat
  target : Nat
  deriving DecidableEq, Repr

/-- A re-home in progress (R365): from and to which cluster, its cause, the TID of the RHCMD that waits for it, its
members, and whether their contexts lie in the staging area. -/
structure Rehome where
  src : Nat
  dst : Nat
  cause : Nat
  host : Option (BitVec 18)
  members : List Member
  copied : Bool
  deriving DecidableEq, Repr

/-- An evacuation (R363, R364): its cluster, its cause, the cluster promoted for it, and whether its turn has come. -/
structure Evac where
  cl : Nat
  cause : Nat
  promoted : Option Nat
  started : Bool
  deriving DecidableEq, Repr

/-- What a Warden keeps of a termination between metrics intervals (R359, R368): the metrics last read, the last JB
change in ns of TB2, the window positions with the intervals for which they held still, runs of intervals with low ERLE,
with high ERLE and with low loss, and the thresholds that are crossed: R, loss, jitter and ERLE. -/
structure WdnTerm where
  seen : Word
  jbAt : Option Nat
  win : List Nat
  still : List Nat
  erleLow : Nat
  erleHigh : Nat
  lossLow : Nat
  rLow : Bool
  lossHi : Bool
  jitHi : Bool
  erleFlag : Bool
  told : List (Nat × Word)
  deriving DecidableEq, Repr

def WdnTerm.init : WdnTerm := ⟨0, none, [0xFF, 0xFF, 0xFF, 0xFF], [0, 0, 0, 0], 0, 0, 0, false, false, false, false, []⟩

/-- A Warden (R355 to R359): the policy image in force, none for the default policy, the VERSION of a PCMT in progress,
the instant of the last poll in ns of TB2, and what it keeps of terminations, by TID. -/
structure Wdn where
  policy : Option (List Byte)
  pcmt : Option (BitVec 16)
  polled : Nat
  terms : List (Nat × WdnTerm)
  deriving DecidableEq, Repr

def Wdn.init : Wdn := ⟨none, none, 0, []⟩

/-! ## Power, temperature and reset (R66 to R79, R405 to R417) -/

/-- A DVFS request at the arbiter (R73): who asks (0 the host, 1 and 2 the Wardens), what it asks for, and its code once
it is judged. -/
structure DvfsReq where
  origin : Nat
  island : Nat
  point : Nat
  trim : Nat
  code : Option Nat
  deriving DecidableEq, Repr

/-- What the thermal control keeps (R75 to R77): islands out of limit, islands above 105 °C, islands above WARN_C, fabric
islands forced to nominal, samples at 25.00 °C or below by island, samples at the lowest point and out of limit by
cluster or fabric island, and clusters that the Warden shall evacuate. -/
structure Thermal where
  out : List Nat
  hot : List Nat
  warned : List Nat
  forced : List Nat
  cool : List (Nat × Nat)
  low : List (Nat × Nat)
  evac : List Nat
  deriving DecidableEq, Repr

def Thermal.init : Thermal := ⟨[], [], [], [], [], [], []⟩

/-- DORMANT entry and exit in progress (R78, R79): entering, exiting with its cause, and a wake that came during entry. -/
structure Sleep where
  entering : Bool
  exiting : Option Nat
  late : Option Nat
  deriving DecidableEq, Repr

def Sleep.init : Sleep := ⟨false, none, none⟩

/-- The package's reset (R406 to R417): whether a reset holds it, whether PORST_N is high, the PGOOD inputs that are low,
whether the hold ends only after PORST_N has fallen and risen, whether it has fallen, and the cause to be reported. -/
structure Package where
  held : Bool
  porst : Bool
  pgoodLow : List Nat
  needFall : Bool
  fell : Bool
  cause : Nat
  deriving DecidableEq, Repr

/-- After a power-on reset has ended. -/
def Package.init : Package := ⟨false, true, [], false, false, 1⟩

/-! ## Ethernet (R302 to R319) -/

/-- A frame that a MAC has taken and not yet finished (R307, R309): its bytes, padded, without FCS; its status, none where
the spec names none; whether it leaves; TAG and return cask of its descriptor; its transmit queue with the count of the
EOP descriptor and whether the send ends with it; the timestamp asked for; and the TB2 tag of its start. -/
structure Sending where
  bytes : List Byte
  status : Option Nat
  sent : Bool
  tag : Nat
  ret : Option Nat
  tq : Option (Nat × Nat × Bool)
  stamp : Option Nat
  start : Nat
  deriving DecidableEq, Repr

/-- What is left of a segmented send (R313): its frames, and its SOP descriptor's TSREQ, ONESTEP,
TSB and TSOFF with the count of the EOP descriptor. -/
structure TxSend where
  frames : List (List Byte)
  tsreq : Bool
  onestep : Bool
  tsb : Nat
  tsoff : Nat
  eop : Nat
  deriving DecidableEq, Repr

/-- What a MAC holds beside its registers: the frame under way and its collisions, when the pause began and when its count
ends (ns of TB2), until when pause is ignored, whether pause was sent, whether the buffer stood below 25 % when last
looked at, when pause was last sent, and the in-band link bit of MACM. -/
structure Mac where
  cur : Option Sending
  collisions : Nat
  since : Option Nat
  untilNs : Option Nat
  ignore : Nat
  pausing : Bool
  low : Bool
  pauseAt : Nat
  inband : Bool
  deriving DecidableEq, Repr

def Mac.init : Mac := ⟨none, 0, none, none, 0, false, false, 0, false⟩

/-! ## DMA (R327 to R331) -/

/-- What a channel holds beside its registers: in DRAIN, since when entries are not reported (ns of TB2). -/
structure Dma where
  since : Option Nat
  deriving DecidableEq, Repr

/-! ## Press (R373, R380) -/

/-- A job that has ended and whose result is to be written: RESADDR, IRQ, the code, and the block. -/
structure PressEnd where
  addr : Nat
  irq : Bool
  code : Nat
  block : List Byte
  deriving DecidableEq, Repr

/-- A Press: the job that awaits its result, and a write of EN = 0 that awaits the job's end. -/
structure Press where
  job : Option PressEnd
  stopping : Bool
  deriving DecidableEq, Repr

/-! ## Time, host and outside (R335, R339) -/

/-- A time base (R339). -/
structure TimeBase where
  sec : BitVec 48
  ns : BitVec 32
  frac : BitVec 32
  deriving DecidableEq, Repr

/-! ## Time bases beside their counters (R340 to R353) -/

/-- Discipline of TB0 or TB1, in units of 2^-32 ns and ticks of 2 ns: the remainder of a phase slew and whether it runs, the
mean of a holdover, the tick of the last adjustment, the tick at which the present spell at one increment in TRACKING
began, and the spells before it, newest first, as increment and ticks (R341, R344). -/
structure Discipline where
  rem : Int
  slewing : Bool
  mean : Nat
  since : Nat
  seg : Nat
  spells : List (Nat × Nat)
  deriving DecidableEq, Repr

def Discipline.init : Discipline := ⟨0, false, 0x200000000, 0, 0, []⟩

/-- What TIME keeps beside its registers and counters: ticks counted, the discipline of TB0 and TB1, whether the correction
of TB2 runs (R346), die 1's mirror with the increments that it last took and the ticks since its correction (R347), the
calendar in units of 1/32,768 s with a part of one (R352), an alarm that has come and is not yet taken (R353), a SYNC that
waits with the base's seconds at its acceptance, and the tick of the last PPS_IN edge latched (R351). -/
structure Clockwork where
  ticks : Nat
  dom0 : Discipline
  dom1 : Discipline
  corr : Bool
  mirror : Vector TimeBase 4
  mirrorInc : Vector Nat 4
  mirrorAge : Nat
  cal : Nat
  calSub : Nat
  alarm : Bool
  sync : Option (Fin 4 × BitVec 48)
  ppsAt : Option Nat
  deriving DecidableEq, Repr

def Clockwork.init : Clockwork :=
  ⟨0, Discipline.init, Discipline.init, false, Vector.replicate 4 ⟨0, 0, 0⟩, Vector.replicate 4 0x200000000, 0, 0, 0, false,
    none, none⟩

/-- An MSI-X table entry (R42, R335). -/
structure MsixEntry where
  addr : BitVec 64
  data : Word
  masked : Bool
  deriving DecidableEq, Repr

/-- MSI-X: Enable, Function Mask, the table entries that differ from the default, and pending bits by vector; and which of
the pins EVT_N are driven low (R336). -/
structure Msix where
  enable : Bool
  funcMask : Bool
  entries : List (Nat × MsixEntry)
  pba : List Nat
  pins : BitVec 2
  deriving DecidableEq, Repr

/-- An entry after a conventional reset: masked, as PCIe has it (log 14). -/
def MsixEntry.init : MsixEntry := ⟨0, 0, true⟩

def Msix.init : Msix := ⟨false, false, [], [], 0⟩

/-- The configuration space as far as the manual uses it: the identity (R11, R323), Relaxed Ordering Enable (R59), and whether
the function is in D3hot (R324). -/
structure Pcie where
  vendor : BitVec 16
  device : BitVec 16
  revision : BitVec 8
  classCode : BitVec 24
  relaxed : Bool
  d3hot : Bool
  deriving DecidableEq, Repr

/-- The identity that GLB.ID gives: the device ID from MEMBER, the revision from the stepping (R10, R11). Relaxed Ordering
Enable is 1 as PCIe has it after a conventional reset (log 59). -/
def Pcie.ofId (id : Nat) : Pcie where
  vendor := 0x1C9A
  device := BitVec.ofNat 16 (0x7100 + id / 2 ^ 16 % 256)
  revision := BitVec.ofNat 8 (id / 2 ^ 24)
  classCode := 0x0B4000
  relaxed := true
  d3hot := false

/-- What the part counts of errors with no register of its own, by die: Cellar errors corrected and not, and flits of the
crossbar with a CRC error (R23). -/
structure DieStats where
  cellarCorr : Nat
  cellarUncorr : Nat
  flitErrors : Nat
  deriving DecidableEq, Repr

/-- What the part has driven outward (log 12). -/
inductive Out where
  | message (addr : BitVec 64) (data : Word)
  | keyway (start : Byte) (words : List Word)
  | frame (m : Fin 5) (bytes : List Byte)
  | pps (sec : BitVec 48) (dly : BitVec 8) (width : Nat)
  | mdio (op : BitVec 3) (phy reg : BitVec 5) (data : BitVec 16)
  | tdm (p : Fin 48) (octets : List Byte) (trim : Nat) (master : Bool)
  | hostWrite (addr : BitVec 64) (n : Nat) (relaxed : Bool)
  | pin (k : Fin 2) (low : Bool)
  deriving DecidableEq, Repr

/-! ## Outcomes -/

/-- Why a step can stop with a fault. The part reports every error in its state, so no command faults; the constructor
is for a table key that no command can name. Raised by nothing: safe. -/
inductive Fault where
  | impossible
  deriving DecidableEq, Repr

/-- Why a command has no meaning. `notModelled` is raised by an arm of exec whose command has none yet: safe. -/
inductive Refusal where
  | notModelled (mnemonic : String)
  deriving DecidableEq, Repr

/-! ## The state -/

/-- The state of the part. -/
structure State where
  /-- Registers that differ from their reset values, by BAR0 offset (R17, R43). -/
  regs : List (Nat × Word)
  /-- Bytes of the DPA space that differ from 0 (R37; log 4). -/
  mem : List (Nat × Byte)
  /-- Aligned 64-bit words marked poisoned, by DPA ÷ 8 (R63). -/
  poison : List Nat
  /-- Host memory as the part reads and writes it (R59, R60; log 11). -/
  hostMem : List (Nat × Byte)
  /-- Host bytes written with EP = 1 (R63). -/
  hostPoison : List Nat
  /-- Cores that differ from Core.init, by 12 × cluster + tile (R81). -/
  cores : List (Nat × Core)
  /-- Schedulers and delay lists, by cluster (R147, R154). -/
  clusters : List (Nat × Cluster)
  /-- Slots, by 8,192 × cluster + slot (R165). -/
  slots : List (Nat × Slot)
  /-- Cancellers, by 8,192 × cluster + slot (R206). -/
  vats : List (Nat × VatSlot)
  /-- State areas of chain instructions, by DPA (R173, R179). -/
  areas : List (Nat × Area)
  /-- Contents of casks, by handle: 8,192 × die + cask (R131). -/
  casks : List (Nat × Cask)
  /-- Flushes that are not complete: die and cask (R140). -/
  flushing : List (Nat × Nat)
  /-- Trace probes, by 16 × die + probe (R381). -/
  probes : List (Nat × Probe)
  /-- A skew measurement in progress (R390). -/
  skew : Option Skew
  /-- What SEC holds beside its registers (R391 to R404). -/
  sec : Sec
  /-- Scrub pointers: the next word of each SRAM bank (log 21), and from 8,576 on the next line of each DRAM channel (R413). -/
  scrubs : List (Nat × Nat)
  /-- Classifier entries, in order of insertion (R269). -/
  cls : List ClsEntry
  /-- Packets that a classifier has passed to a playout unit and that it has not yet handled (R273). -/
  plyIn : List Arrival
  /-- Playout state, by TID (R275). -/
  plays : List (Nat × Play)
  /-- Cells of the playout pools in use: 2^22 × die + cell (R276). -/
  cellUse : List Nat
  /-- SRTP halves in use: 2 × index, and 1 more for receive (R274). -/
  srtp : List (Nat × Srtp)
  /-- Frames that wait in transmit buffers of the playout units, by the buffer address of their descriptors (R283). -/
  txBufs : List (Nat × List Byte)
  /-- TDM ports that run (R287). -/
  tdms : List (Nat × Tdm)
  /-- DPAs of egress places that a write has reached since their last fetch (R292). -/
  egMarks : List Nat
  /-- Re-homes in progress, in the order of their prepares (R365). -/
  rehomes : List Rehome
  /-- Evacuations, in the order in which their clusters entered RECOVER (R364). -/
  evacs : List Evac
  /-- The Wardens, by die (R355). -/
  wdns : List (Nat × Wdn)
  /-- Requests at the DVFS arbiter, in arrival order (R73). -/
  dvfs : List DvfsReq
  /-- The thermal control (R74 to R77). -/
  thermal : Thermal
  /-- DORMANT entry and exit (R78, R79). -/
  sleep : Sleep
  /-- The package's reset (R405 to R417). -/
  package : Package
  /-- The watchdog's count of TIME_TICK steps short of a microsecond (R412; log 13). -/
  wdt : Nat
  /-- What TIME keeps beside its registers and counters (R339 to R353). -/
  clockwork : Clockwork
  /-- The watchdog has warned since the last kick (R412). -/
  wdWarned : Bool
  /-- The MACs, by number, MACM 4 (R302). -/
  macs : List (Nat × Mac)
  /-- Segmented sends in progress, by transmit queue (R313). -/
  txSends : List (Nat × TxSend)
  /-- The DMA channels, by number (R327). -/
  dmas : List (Nat × Dma)
  /-- The two Presses, by die (R373). -/
  press : List (Nat × Press)
  /-- TB0 to TB3 (R339). -/
  tbs : Vector TimeBase 4
  /-- MSI-X table and pending bits of BAR4, and the pins EVT_N (R42, R335, R336). -/
  msix : Msix
  /-- The configuration space (R11, R59). -/
  pcie : Pcie
  /-- Error statistics of the dies (R23; log 57). -/
  dieStats : Vector DieStats 2
  /-- The model's own counter at which a free value is drawn (log 6). -/
  freeCount : Nat
  /-- The model's own record of what the part has driven outward, newest first (log 12). -/
  wire : List Out
  /-- Commands that wait, first in first out. -/
  pending : List Instr
  deriving DecidableEq, Repr

/-- The part right after a power-on reset, before its boot ROM runs (R407, R410). -/
def State.reset : State where
  regs := []
  mem := []
  poison := []
  hostMem := []
  hostPoison := []
  cores := []
  clusters := []
  slots := []
  vats := []
  areas := []
  casks := []
  flushing := []
  probes := []
  skew := none
  sec := Sec.init
  scrubs := []
  cls := []
  plyIn := []
  plays := []
  cellUse := []
  srtp := []
  txBufs := []
  tdms := []
  egMarks := []
  rehomes := []
  evacs := []
  wdns := []
  dvfs := []
  thermal := Thermal.init
  sleep := Sleep.init
  package := Package.init
  wdt := 0
  clockwork := Clockwork.init
  wdWarned := false
  macs := []
  txSends := []
  dmas := []
  press := []
  tbs := Vector.replicate 4 ⟨0, 0, 0⟩
  msix := Msix.init
  pcie := Pcie.ofId 0x0105C720
  dieStats := Vector.replicate 2 ⟨0, 0, 0⟩
  freeCount := 0
  wire := []
  pending := []

end Sys2Proof.Machine
end

