-- ==== Sys2Proof/Machine/Ops.lean ====
section
/-!
DEFINITION. The named operations over registers, counters, result groups and memory. Every engine reads and writes
registers and memory through these alone.
-/

namespace Sys2Proof.Machine

/-- What a command answers. -/
abbrev Result := Host.Outcome State Fault Refusal

/-! ## Registers and fields -/

/-- The stored value of the register at a BAR0 offset (R17). -/
def State.reg (s : State) (a : Nat) : Word := sget s.regs (resetOf a) a

/-- The state with a register set. -/
def State.setReg (s : State) (a : Nat) (v : Word) : State :=
  { s with regs := sset s.regs (resetOf a) a v }

/-- A register as a number. -/
def State.rv (s : State) (a : Nat) : Nat := (s.reg a).toNat

/-- A field of a register. -/
def State.rf (s : State) (a : Nat) (f : Fld) : Nat := fget f (s.reg a)

/-- A one-bit field. -/
def State.rb (s : State) (a : Nat) (f : Fld) : Bool := s.rf a f != 0

/-- The state with a field set. -/
def State.put (s : State) (a : Nat) (f : Fld) (v : Nat) : State := s.setReg a (fset f (s.reg a) v)

/-- The state with a register set to a number. -/
def State.wv (s : State) (a : Nat) (v : Nat) : State := s.setReg a (BitVec.ofNat 32 v)

/-- An element placed before the first that it may stand before. -/
def insertBy {α : Type} (le : α → α → Bool) (a : α) : List α → List α
  | [] => [a]
  | b :: l => if le a b then a :: b :: l else b :: insertBy le a l

/-- A list in order, equal elements as they stood. -/
def sortBy {α : Type} (l : List α) (le : α → α → Bool) : List α := l.foldr (insertBy le) []

/-- A fold over a list, for a step that repeats. -/
def each {α : Type} (s : State) (l : List α) (f : State → α → State) : State := l.foldl f s

/-! ## Result groups (R21, R22) -/

def fldReady : Fld := ⟨31, 31⟩
def fldSeq : Fld := ⟨23, 16⟩
def fldCode : Fld := ⟨15, 0⟩

/-- The group is idle. -/
def State.ready (s : State) (a : Nat) : Bool := s.rb a fldReady

/-- An operation of the group starts: READY falls, SEQ and CODE stay. -/
def State.begin_ (s : State) (a : Nat) : State := s.put a fldReady 0

/-- A result becomes ready: READY rises, SEQ advances, CODE is set. -/
def State.post (s : State) (a : Nat) (code : Nat) : State :=
  ((s.put a fldReady 1).put a fldSeq (s.rf a fldSeq + 1)).put a fldCode code

/-! ## Counters (R20) -/

/-- The value of a 40-bit counter whose low word stands at an offset. -/
def State.count (s : State) (a : Nat) : Nat := s.rv a + 2 ^ 32 * ((s.rv (a + 4)) % 256)

/-- A counter raised by n, without its event. -/
def State.addCount (s : State) (a n : Nat) : State :=
  (s.wv a ((s.count a + n) % 2 ^ 32)).wv (a + 4) ((s.count a + n) / 2 ^ 32 % 256)

/-- Bit 39 of the counter becomes 1 when it is raised by n (R20). -/
def State.countFires (s : State) (a n : Nat) : Bool :=
  !bit (s.count a) 39 && bit ((s.count a + n) % 2 ^ 40) 39

/-! ## Free values -/

/-- The state after k free values have been drawn. -/
def State.draw (s : State) (k : Nat) : State := { s with freeCount := s.freeCount + k }

/-- k free samples (log 8). -/
def State.freeSamples (s : State) (k : Nat) : List (BitVec 16) :=
  (List.range k).map (fun i => Config.freeSample (s.freeCount + i))

/-- k free bytes. -/
def State.freeBytes (s : State) (k : Nat) : List Byte :=
  (List.range k).map (fun i => (Config.freeSample (s.freeCount + i)).setWidth 8)

/-! ## Tables -/

def State.core (s : State) (n t : Nat) : Core := sget s.cores Core.init (12 * n + t)

def State.setCore (s : State) (n t : Nat) (c : Core) : State :=
  { s with cores := sset s.cores Core.init (12 * n + t) c }

def State.cluster (s : State) (n : Nat) : Cluster := sget s.clusters Cluster.init n

def State.setCluster (s : State) (n : Nat) (c : Cluster) : State :=
  { s with clusters := sset s.clusters Cluster.init n c }

def State.slot (s : State) (n k : Nat) : Slot := sget s.slots Slot.init (8192 * n + k)

def State.setSlot (s : State) (n k : Nat) (x : Slot) : State :=
  { s with slots := sset s.slots Slot.init (8192 * n + k) x }

/-- The canceller whose Vat slot stands at a DPA (R206). -/
def State.vat (s : State) (a : Nat) : VatSlot := sget s.vats VatSlot.init a

def State.setVat (s : State) (a : Nat) (x : VatSlot) : State := { s with vats := sset s.vats VatSlot.init a x }

def State.area (s : State) (a : Nat) : Area := sget s.areas .none a

def State.setArea (s : State) (a : Nat) (x : Area) : State :=
  { s with areas := sset s.areas .none a x }

def State.cask (s : State) (h : Nat) : Cask := sget s.casks Cask.init h

def State.setCask (s : State) (h : Nat) (x : Cask) : State :=
  { s with casks := sset s.casks Cask.init h x }

/-- The part drives something outward (log 12). -/
def State.emit (s : State) (o : Out) : State := { s with wire := o :: s.wire }

/-! ## Time (R339) -/

def State.tb (s : State) (b : Fin 4) : TimeBase := s.tbs[b]

/-- TB2 in nanoseconds. -/
def State.tb2ns (s : State) : Nat := (s.tb 2).sec.toNat * 1000000000 + (s.tb 2).ns.toNat

/-- TB2 in whole microseconds (R154). -/
def State.tb2us (s : State) : Nat := s.tb2ns / 1000

/-- Bits [31:0] of TB2 seconds, and its nanoseconds. -/
def State.tb2s (s : State) : Word := (s.tb 2).sec.setWidth 32
def State.tb2n (s : State) : Word := (s.tb 2).ns

/-- A base as a die has it: MAC2, MAC3, TDM24 to TDM47 and CL16 to CL31 use the mirror (R347). -/
def State.tbOn (s : State) (d : Nat) (b : Fin 4) : TimeBase := if d = 1 then s.clockwork.mirror[b] else s.tbs[b]

/-- TB2 as a die has it: in ns, in µs, and its two words. -/
def State.tb2nsOn (s : State) (d : Nat) : Nat := (s.tbOn d 2).sec.toNat * 1000000000 + (s.tbOn d 2).ns.toNat
def State.tb2usOn (s : State) (d : Nat) : Nat := s.tb2nsOn d / 1000
def State.tb2sOn (s : State) (d : Nat) : Word := (s.tbOn d 2).sec.setWidth 32
def State.tb2nOn (s : State) (d : Nat) : Word := (s.tbOn d 2).ns

/-! ## Clusters and dies -/

/-- The die of a cluster (R26). -/
def dieOf (n : Nat) : Nat := n / 16

/-- Cluster states of WS.STATUS.STATE. -/
def stOff : Nat := 0
def stBringup : Nat := 1
def stTest : Nat := 2
def stRun : Nat := 3
def stRecover : Nat := 4
def stHalt : Nat := 5
def stSpare : Nat := 6

def State.clState (s : State) (n : Nat) : Nat := s.rf (WS.STATUS n) F.WS_STATUS_STATE

/-- Every Hinge lane has left service (R416). -/
def State.divided (s : State) : Bool := s.rf HNG.STATUS F.HNG_STATUS_LANES == 0

/-- The package is in DORMANT (R78). -/
def State.dormant (s : State) : Bool := s.rb GLB.PWR F.GLB_PWR_STATE

/-! ## The DPA space (R37 to R39) -/

/-- What stands at a DPA. -/
inductive Place where
  | registers
  | cellar (d : Nat)
  | trace (d : Nat)
  | store (n : Nat)
  | rom (n : Nat)
  | tile (n t : Nat)
  | dram (c : Nat)
  | hole
  deriving DecidableEq, Repr

/-- The offsets of a tile window that hold memory (R37). -/
def tileOffsetOk (o : Nat) : Bool :=
  decide (o < 0x48000) || (decide (0x50000 ≤ o) && decide (o < 0x60000))

/-- The place of a DPA (R37), with DRAM as if fully installed. -/
def placeOf (a : Nat) : Place :=
  if a < 0x4000000 then .registers
  else if a < 0x10000000 then .hole
  else if a < 0x18000000 then .cellar ((a - 0x10000000) / 0x4000000)
  else if a < 0x18800000 then .trace ((a - 0x18000000) / 0x400000)
  else if a < 0x19000000 then .hole
  else if a < 0x1D000000 then .store ((a - 0x19000000) / 0x200000)
  else if a < 0x20000000 then .hole
  else if a < 0x24000000 then .rom ((a - 0x20000000) / 0x200000)
  else if a < 0x30000000 then .hole
  else if a < 0x3C000000 then
    if tileOffsetOk ((a - 0x30000000) % 0x80000) then
      .tile ((a - 0x30000000) / 0x80000 / 12) ((a - 0x30000000) / 0x80000 % 12)
    else .hole
  else if a < 0x1000000000 then .hole
  else if a < 0x3000000000 then .dram ((a - 0x1000000000) / 0x800000000)
  else .hole

/-- Bytes of DRAM installed on a channel (R38). -/
def State.dramBytes (s : State) (c : Nat) : Nat :=
  if s.rb (DDR.STATUS1 c) F.DDR_STATUS1_TRAINED then s.rf (DDR.CFG c) F.DDR_CFG_CAP * 2 ^ 30 else 0

/-- Memory stands at a DPA: no register, no hole, no DRAM above the installed capacity (R38). -/
def State.mapped (s : State) (a : Nat) : Bool :=
  match placeOf a with
  | .registers => false
  | .hole => false
  | .dram c => decide ((a - 0x1000000000) % 0x800000000 < s.dramBytes c)
  | .cellar _ => true
  | .trace _ => true
  | .store _ => true
  | .rom _ => true
  | .tile _ _ => true

/-- The cluster whose store, ROM or tile window holds a DPA. -/
def clusterAt (a : Nat) : Option Nat :=
  match placeOf a with
  | .store n => some n
  | .rom n => some n
  | .tile n _ => some n
  | .registers => none
  | .cellar _ => none
  | .trace _ => none
  | .dram _ => none
  | .hole => none

/-- The DPA lies in a cluster that is OFF (R39). -/
def State.offAt (s : State) (a : Nat) : Bool :=
  match clusterAt a with
  | some n => s.clState n == stOff
  | none => false

/-- A write at the DPA is applied: memory stands there, no ROM, no cluster that is OFF (R38, R39). -/
def State.writable (s : State) (a : Nat) : Bool :=
  s.mapped a && !s.offAt a && (match placeOf a with | .rom _ => false | _ => true)

/-- Only the host, the Wardens, trace capture and Press reach trace memory (R37). -/
def isTrace (a : Nat) : Bool := decide (0x18000000 ≤ a) && decide (a < 0x18800000)

/-- The die of a DPA, where it has one. -/
def dieAt (a : Nat) : Nat :=
  match placeOf a with
  | .cellar d => d
  | .trace d => d
  | .store n => dieOf n
  | .rom n => dieOf n
  | .tile n _ => dieOf n
  | .dram c => c / 2
  | .registers => 0
  | .hole => 0

/-- A unit of a die reaches a DPA: memory stands there, it is no trace memory, and its die is not cut off (R37, R38,
R416). -/
def State.unitReaches (s : State) (die a : Nat) : Bool := s.mapped a && !isTrace a && !(s.divided && dieAt a != die)

/-- Where the place that holds a DPA ends. -/
def State.placeEnd (s : State) (a : Nat) : Nat :=
  match placeOf a with
  | .cellar d => 0x14000000 + d * 0x4000000
  | .trace d => 0x18400000 + d * 0x400000
  | .store n => 0x19200000 + n * 0x200000
  | .rom n => 0x20200000 + n * 0x200000
  | .tile _ _ => a / 0x80000 * 0x80000 + (if a % 0x80000 < 0x48000 then 0x48000 else 0x60000)
  | .dram c => 0x1000000000 + c * 0x800000000 + s.dramBytes c
  | .registers => a
  | .hole => a

/-- From a DPA on, place after place, n bytes are reached; `k` bounds the places, of which 32 at most adjoin. -/
def State.reachesAll (s : State) (die : Nat) : Nat → Nat → Nat → Bool
  | 0, _, _ => false
  | k + 1, a, n => s.unitReaches die a && (decide (a + n ≤ s.placeEnd a) || s.reachesAll die k (s.placeEnd a) (a + n - s.placeEnd a))

/-- A DPA range of n bytes holds memory that a unit of the device reaches (R38), from a die (R416). -/
def State.rangeOk (s : State) (die a n : Nat) : Bool := decide (0 < n) && s.reachesAll die 34 a n

/-! ## Reading memory -/

/-- The stored byte at a DPA: 0 where nothing stands or the cluster is OFF (R38, R39), the ROM's contents (log 5). -/
def State.byte (s : State) (a : Nat) : Byte :=
  if s.mapped a && !s.offAt a then
    match placeOf a with
    | .rom n => Config.romByte (a - 0x20000000 - n * 0x200000)
    | _ => sget s.mem 0 a
  else 0

/-- n bytes from a DPA, lowest first. -/
def State.bytes (s : State) (a n : Nat) : List Byte := (List.range n).map (fun i => s.byte (a + i))

/-- The little-endian number of n bytes at a DPA (R47). -/
def State.le (s : State) (a n : Nat) : Nat := leNat (s.bytes a n)

/-- The aligned 64-bit word at a DPA is poisoned (R63). -/
def State.poisoned (s : State) (a : Nat) : Bool := mem1 s.poison (a / 8)

/-- Some word of n bytes from a DPA is poisoned. -/
def State.poisonedIn (s : State) (a n : Nat) : Bool :=
  s.poison.any (fun w => decide (a < 8 * w + 8) && decide (8 * w < a + n))

/-! ## Writing memory (R64) -/

/-- The byte of a write at a DPA, where the write enables it. -/
def enabledAt (a : Nat) (bs : List (Option Byte)) (x : Nat) : Bool :=
  if x < a then false
  else match bs[x - a]? with
    | some (some _) => true
    | some none => false
    | none => false

/-- The write covers the whole aligned 64-bit word w. -/
def coversWord (a : Nat) (bs : List (Option Byte)) (w : Nat) : Bool :=
  (List.range 8).all (fun i => enabledAt a bs (8 * w + i))

/-- The write applies at a DPA: memory stands there, and the word is not poisoned or is written whole (R64). -/
def State.applies (s : State) (a : Nat) (bs : List (Option Byte)) (x : Nat) : Bool :=
  s.writable x && (!s.poisoned x || coversWord a bs (x / 8))

/-- Memory with the enabled bytes of a write stored, where `ok` lets them. -/
def storeBytes (ok : Nat → Bool) : Nat → List (Option Byte) → List (Nat × Byte) → List (Nat × Byte)
  | _, [], m => m
  | x, b :: bs, m =>
    storeBytes ok (x + 1) bs (match b with | some v => if ok x then sset m 0 x v else m | none => m)

/-- The loop caches of the tiles in whose P memory a write falls are invalidated (R94). -/
def State.touchP (s : State) (a n : Nat) : State :=
  match placeOf a with
  | .tile cl t =>
    match (s.core cl t).lcache with
    | some (lo, hi) =>
      let o := (a - 0x30000000) % 0x80000
      if o < hi + 4 ∧ lo < o + n then s.setCore cl t { s.core cl t with lcache := none } else s
    | none => s
  | _ => s

/-- A DPA is a place of the egress buffer of a TDM port that runs (R291). -/
def State.egressAt (s : State) (x : Nat) : Bool := s.tdms.any (fun e => decide (e.2.lo ≤ x) && decide (x < e.2.hi))

/-- The egress places that a write reaches (R292). -/
def State.markEgress (s : State) (ok : Nat → Bool) : Nat → List (Option Byte) → List Nat → List Nat
  | _, [], m => m
  | x, b :: bs, m => s.markEgress ok (x + 1) bs (if b.isSome && ok x && s.egressAt x then ins1 m x else m)

/-- The state after a write of some bytes at a DPA: each mapped byte is stored, a poisoned word written whole loses its
mark, a part of a poisoned word is discarded (R64). -/
def State.writeOpt (s : State) (a : Nat) (bs : List (Option Byte)) : State :=
  ({ s with
      mem := storeBytes (s.applies a bs) a bs s.mem
      egMarks := if s.tdms.isEmpty then s.egMarks else s.markEgress (s.applies a bs) a bs s.egMarks
      poison := s.poison.filter (fun w => !(coversWord a bs w && s.writable (8 * w))) } : State).touchP a bs.length

/-- The state after a device write of bytes at a DPA. -/
def State.write (s : State) (a : Nat) (bs : List Byte) : State := s.writeOpt a (bs.map some)

/-- The state after a write of the n little-endian bytes of a number. -/
def State.writeLe (s : State) (a n v : Nat) : State := s.write a (leBytes n v)

/-- The word holding a DPA is marked poisoned (R63, R65). -/
def State.poisonWord (s : State) (a : Nat) : State :=
  if s.mapped a then { s with poison := ins1 s.poison (a / 8) } else s

/-- The words of a range are marked poisoned. -/
def State.poisonRange (s : State) (a n : Nat) : State :=
  each s (List.range ((a + n + 7) / 8 - a / 8)) (fun t i => t.poisonWord (8 * (a / 8 + i)))

/-- Memory of a range zeroed with valid ECC (R407): entries and poison marks removed. -/
def State.zeroRange (s : State) (lo hi : Nat) : State :=
  { s with
    mem := s.mem.filter (fun e => decide (e.1 < lo) || decide (hi ≤ e.1))
    poison := s.poison.filter (fun w => decide (8 * w < lo) || decide (hi ≤ 8 * w)) }

/-! ## Host memory (R59, R60; log 11) -/

/-- n bytes of host memory. -/
def State.hostBytes (s : State) (a n : Nat) : List Byte :=
  (List.range n).map (fun i => sget s.hostMem 0 (a + i))

/-- The error statistics of a die rise (R23). -/
def State.bumpDie (s : State) (d : Nat) (f : DieStats → DieStats) : State :=
  { s with dieStats := s.dieStats.set (d % 2) (f (s.dieStats[d % 2]'(Nat.mod_lt _ (by decide)))) (Nat.mod_lt _ (by decide)) }

/-- The state after a device write toward host memory, with EP = 1 where `ep` (R63), and with the Relaxed Ordering
attribute where `relaxed` (R59). -/
def State.hostStore (s : State) (a : Nat) (bs : List Byte) (ep relaxed : Bool) : State :=
  { s with
    wire := .hostWrite (BitVec.ofNat 64 a) bs.length relaxed :: s.wire
    hostMem := (storeBytes (fun _ => true) a (bs.map some) s.hostMem)
    hostPoison := (List.range bs.length).foldl (fun l i => if ep then ins1 l (a + i) else del1 l (a + i)) s.hostPoison }

/-- Host memory after the host has made cells visible before a doorbell (R60). -/
def State.hostCells (s : State) (cells : List (Nat × Byte)) : State :=
  { s with
    hostMem := cells.foldl (fun m c => sset m 0 c.1 c.2) s.hostMem
    hostPoison := cells.foldl (fun l c => del1 l c.1) s.hostPoison }

/-! ## Units of the device (R37, R38) -/

/-- Bytes that a unit of a die reads at a DPA: 0 where it does not reach. -/
def State.unitBytes (s : State) (die a n : Nat) : List Byte :=
  if s.rangeOk die a n then s.bytes a n
  else (List.range n).map (fun i => if s.unitReaches die (a + i) then s.byte (a + i) else 0)

/-- A little-endian number that a unit reads. -/
def State.unitLe (s : State) (die a n : Nat) : Nat := leNat (s.unitBytes die a n)

/-- A unit's write: discarded where it does not reach. -/
def State.unitWrite (s : State) (die a : Nat) (bs : List Byte) : State :=
  if s.rangeOk die a bs.length then s.write a bs
  else s.writeOpt a (bs.zipIdx.map (fun e => if s.unitReaches die (a + e.2) then some e.1 else none))

/-! ## The core's view (R40) -/

/-- The DPA that a core address reaches, or none for a decode error. -/
def coreToDpa (n t : Nat) (fwb a : Nat) : Option Nat :=
  if a < 0x80000 then some (0x30000000 + (12 * n + t) * 0x80000 + a)
  else if a < 0x100000 then none
  else if a < 0x300000 then some (0x19000000 + n * 0x200000 + (a - 0x100000))
  else if a < 0x500000 then some (0x20000000 + n * 0x200000 + (a - 0x300000))
  else if a < 0x10000000 then none
  else if a < 0x3C000000 then some a
  else if a < 0x40000000 then none
  else if a < 0x80000000 then (if fwb = 0 then none else some (fwb * 2 ^ 30 + (a - 0x40000000)))
  else none

/-- The DPA of a cluster's slot (R165). -/
def slotDpa (n slot : Nat) : Nat := 0x19000000 + n * 0x200000 + 256 * slot

end Sys2Proof.Machine
end

