-- ==== Sys2Proof/Machine/EventUnit.lean ====
section
/-!
DEFINITION. The event unit (R332 to R336): sources, routing and MSI-X delivery.
-/

namespace Sys2Proof.Machine

/-! ## Copies of CLS.EVT and PLY.EVT for each die (R286) -/

/-- Where the copy of CLS.EVT of a die is kept: the register itself for die 0, beside BAR0 for die 1. -/
def clsEvt (d : Nat) : Nat := if d = 0 then CLS.EVT else 0x4000000

/-- Where the copy of PLY.EVT of a die is kept. -/
def plyEvt (d : Nat) : Nat := if d = 0 then PLY.EVT else 0x4000004

/-! ## Sources (R332) -/

/-- The registers that drive source k while one of the masked bits is 1. -/
def sourceCauses (k : Nat) : List (Nat × Nat) :=
  if k = 0 then [(GLB.EVT, 0x3)]
  else if k = 1 then [(GLB.EVT, 0x4)]
  else if k = 2 then [(GLB.EVT, 0x8)]
  else if k = 3 then [(GLB.EVT, 0x10)]
  else if k < 8 then []
  else if k < 13 then [(SEC.EVT, 2 ^ (k - 8))]
  else if k < 16 then []
  else if k < 23 then [(TIME.EVT, 2 ^ (k - 16))]
  else if k = 23 then []
  else if k = 24 then [(HIF.EVT, 0x100)]
  else if k = 25 then [(HIF.EVT, 0xFF)]
  else if k < 30 then [(HIF.DMA_EVT (k - 26), 0x3)]
  else if k < 32 then []
  else if k < 80 then [(TDM.EVT (k - 32), 0xFF)]
  else if k < 85 then [(MAC.EVT (k - 80), 0xFF)]
  else if k = 85 then [(HNG.EVT, 0x3)]
  else if k = 86 then [(HNG.EVT, 0x4)]
  else if k = 87 then []
  else if k < 96 then [(DDR.EVT ((k - 88) / 2), if k % 2 = 0 then 0x3 else 0x4)]
  else if k < 128 then
    [(WS.EVT (k - 96), 0x3F), (CTX.EVT (k - 96), 0x1F), (VAT.EVT (k - 96), 0x3F), (TONE.EVT (k - 96), 0xF),
     (SRC.EVT (k - 96), 0x7), (VDE.EVT (k - 96), 0x1F)]
  else if k < 192 then [(CSK.NG_PEND ((k - 128) / 32) ((k - 128) % 32), 0xFFFF)]
  else if k < 194 then [(clsEvt (k - 192), 0x7)]
  else if k < 196 then [(plyEvt (k - 194), 0xF)]
  else if k < 200 then []
  else if k < 202 then [(PRS.EVT (k - 200), 0xF)]
  else if k < 208 then []
  else if k < 210 then [(TRC.EVT (k - 208), 0x1F)]
  else if k < 216 then []
  else if k < 218 then [(WDN.EVT (k - 216), 0x1F)]
  else if k < 224 then []
  else if k < 240 then [(EVT.ERRC, 2 ^ (k - 224))]
  else []

/-- Source k is asserted (R332). -/
def State.asserted (s : State) (k : Nat) : Bool :=
  (sourceCauses k).any (fun c => s.rv c.1 &&& c.2 != 0)

/-- The route byte of source k (R334). -/
def State.route (s : State) (k : Nat) : Nat :=
  bits (s.rv (EVT.ROUTE (k / 4))) (8 * (k % 4) + 7) (8 * (k % 4))

/-- Source k is active (R334). -/
def State.active (s : State) (k : Nat) : Bool := bit (s.route k) 7 && s.asserted k

/-- Vector v is active (R334). -/
def State.vectorActive (s : State) (v : Nat) : Bool :=
  (List.range 256).any (fun k => s.route k % 64 == v && s.active k)

/-! ## MSI-X (R335) -/

def State.inService (s : State) (v : Nat) : Bool := bit (s.rv (EVT.VINSVC (v / 32))) (v % 32)

def State.setService (s : State) (v : Nat) (on : Bool) : State :=
  s.put (EVT.VINSVC (v / 32)) ⟨v % 32, v % 32⟩ (b2n on)

def Msix.entry (m : Msix) (v : Nat) : MsixEntry := sget m.entries MsixEntry.init v

def Msix.setEntry (m : Msix) (v : Nat) (e : MsixEntry) : Msix :=
  { m with entries := sset m.entries MsixEntry.init v e }

/-- Steps 1 and 2 of R335 for vector v: the message is sent and the vector enters service, or its pending bit follows a
mask. In D3hot no message is sent (R324). -/
def State.deliver (s : State) (v : Nat) : State :=
  if s.vectorActive v then
    if s.inService v || s.pcie.d3hot then s
    else if s.msix.funcMask || (s.msix.entry v).masked then
      { s with msix := { s.msix with pba := ins1 s.msix.pba v } }
    else
      (({ s with msix := { s.msix with pba := del1 s.msix.pba v } } : State).emit
        (.message (s.msix.entry v).addr (s.msix.entry v).data)).setService v true
  else { s with msix := { s.msix with pba := del1 s.msix.pba v } }

/-! ## The pins EVT_N (R336) -/

/-- EVT_N[k] is driven low: OE enables it, and a vector with bit k set in VPIN is active. -/
def State.evtLow (s : State) (k : Nat) : Bool :=
  bit (s.rf EVT.PINCFG F.EVT_PINCFG_OE) k &&
    (List.range 64).any (fun v => bit (s.rv (EVT.VPIN (v / 16))) (2 * (v % 16) + k) && s.vectorActive v)

/-- A pin follows its vectors. -/
def State.drivePin (s : State) (k : Fin 2) : State :=
  if s.msix.pins.getLsbD k.val = s.evtLow k.val then s
  else ({ s with msix := { s.msix with pins := s.msix.pins ^^^ (1#2 <<< k.val) } } : State).emit (.pin k (s.evtLow k.val))

def State.drivePins (s : State) : State :=
  if s.rf EVT.PINCFG F.EVT_PINCFG_OE = 0 ∧ s.msix.pins = 0 then s else (s.drivePin 0).drivePin 1

/-- Every vector is brought up to date with its sources; with MSI-X Enable 0 nothing is sent and none enters service. The
pins take no account of that. -/
def State.settle (s : State) : State :=
  (if s.msix.enable then each s (List.range 64) State.deliver else s).drivePins

end Sys2Proof.Machine
end

