-- ==== Sys2Proof/Machine/TraceCore.lean ====
section
/-!
DEFINITION. Trace probes as they capture (R381 to R387): entries, triggers and segments. A unit that has something to
trace offers it here; `r` is how a cause is raised.
-/

namespace Sys2Proof.Machine

def State.probe (s : State) (d p : Nat) : Probe := sget s.probes Probe.init (16 * d + p)

def State.setProbe (s : State) (d p : Nat) (x : Probe) : State :=
  { s with probes := sset s.probes Probe.init (16 * d + p) x }

/-! ## Entries (R382, R383) -/

/-- A tag: nanoseconds of TB2 in its first word's form. -/
def tagBytes (t : Nat) : List Byte := leBytes 4 (t % 1000000000 + t / 1000000000 % 4 * 2 ^ 30)

/-- A tagged entry. -/
def traceEntry (t kind flags len : Nat) (data : List Byte) : List Byte :=
  tagBytes t ++ leBytes 4 (kind + 256 * flags + 65536 * len) ++ (data ++ List.replicate 8 0).take 8

/-- The continuation entries of n bytes of data. -/
def contEntries (data : List Byte) : List (List Byte) :=
  (List.range ((data.length + 15) / 16)).map (fun i => (slice data (16 * i) 16 ++ List.replicate 16 0).take 16)

/-- A header entry with its data. -/
def traceFrame (t flags : Nat) (info data : List Byte) : List (List Byte) :=
  traceEntry t 2 flags data.length info :: contEntries data

/-- Seconds and nanoseconds of a tag, as a segment header holds them. -/
def headTag (t : Nat) : List Byte := leBytes 4 (t / 1000000000) ++ leBytes 4 (t % 1000000000)

/-! ## Segments (R385) -/

/-- Entries that a segment holds. -/
def State.segEntries (s : State) (d p : Nat) : Nat := s.rf (TRC.P_SEG d p) F.TRC_P_SEG_SEGLEN * 16 - 4

/-- The DPA of segment number i of a probe. -/
def State.segAddr (s : State) (d p i : Nat) : Nat :=
  0x18000000 + d * 0x400000 + s.rf (TRC.P_BASE d p) F.TRC_P_BASE_OFFS * 256 +
    i % Nat.max 1 (s.rf (TRC.P_SEG d p) F.TRC_P_SEG_NSEG) * (s.rf (TRC.P_SEG d p) F.TRC_P_SEG_SEGLEN * 256)

/-- Entries from index i on, written to trace memory. -/
def State.putEntries (s : State) (d p i : Nat) (es : List (List Byte)) : State :=
  if es.isEmpty then s else s.write (s.segAddr d p (s.probe d p).seq + 64 + 16 * i) es.flatten

/-- The header of a closing segment. -/
def State.segHeader (s : State) (d p : Nat) (forced : Bool) : List Byte :=
  let x := s.probe d p
  let tag (o : Option (Nat × List Byte)) : Nat := match o with | some e => e.1 | none => 0
  leBytes 4 (2 ^ 31 + b2n forced * 2 ^ 30 + p * 65536 + x.seq % 65536) ++ leBytes 4 (x.ents.length % 2 ^ 24) ++
    leBytes 4 (match x.trig with | some t => t.1 | none => 0xFFFFFF) ++
    leBytes 4 (min 65535 x.miss + 65536 * min 65535 x.dropped) ++ headTag (tag x.ents.head?) ++
    headTag (match x.trig with | some t => t.2 | none => 0) ++ headTag (tag x.ents.getLast?) ++
    leBytes 4 x.meas0 ++ leBytes 4 x.meas1 ++ List.replicate 16 0

/-- The region of a probe is full (R386). -/
def State.probeFull (s : State) (d p : Nat) : Bool :=
  !s.rb (TRC.P_PCFG d p) F.TRC_P_PCFG_WRAP &&
    (s.rv (TRC.P_WRIDX d p) + 65536 - s.rv (TRC.P_RDIDX d p)) % 65536 == s.rf (TRC.P_SEG d p) F.TRC_P_SEG_NSEG

/-- A TRC counter rises, with the cause of its group. -/
def State.trcBump (r : State → Nat → Fld → State) (s : State) (d ctr : Nat) : State :=
  if s.countFires ctr 1 then r (s.addCount ctr 1) (TRC.EVT d) F.TRC_EVT_TCNT else s.addCount ctr 1

/-- The open segment closes: entries and header are written, WRIDX advances, and a full probe pauses. -/
def State.closeSegment (r : State → Nat → Fld → State) (s : State) (d p : Nat) (forced : Bool) : State :=
  let s1 := s.putEntries d p 0 ((s.probe d p).ents.map (·.2))
  let s2 := s1.write (s1.segAddr d p (s.probe d p).seq) (s1.segHeader d p forced)
  let s3 := (s2.wv (TRC.P_WRIDX d p) ((s2.rv (TRC.P_WRIDX d p) + 1) % 65536)).trcBump r d (TRC.SEGMENTS_LO d)
  let s4 := if s3.rb (TRC.P_PCFG d p) F.TRC_P_PCFG_IRQ then r s3 (TRC.EVT d) F.TRC_EVT_SEG else s3
  let x := s4.probe d p
  let s5 := s4.setProbe d p { x with isOpen := false, ents := [], trig := none, post := 0, dropped := 0, meas0 := 0, meas1 := 0 }
  if s5.probeFull d p && !forced then
    r (s5.setProbe d p { s5.probe d p with paused := true }) (TRC.EVT d) F.TRC_EVT_FULL
  else s5

/-- The next segment opens: its header's VALID is cleared. -/
def State.openSegment (s : State) (d p : Nat) : State :=
  let x := s.probe d p
  let i := s.rv (TRC.P_WRIDX d p)
  let s1 := s.setProbe d p { x with isOpen := true, seq := i, miss := x.missNext, missNext := 0, fresh := true, stamp := s.tb2nsOn d }
  s1.writeLe (s1.segAddr d p i) 4 (s1.le (s1.segAddr d p i) 4 % 2 ^ 31)

/-! ## Capturing (R384, R387) -/

/-- What is offered to a probe: the tag, the entries, the decoded fields, and whether anything is stored. -/
structure TraceIn where
  tag : Nat
  entries : List (List Byte)
  fields : List (Nat × Nat)
  store : Bool
  meas0 : Nat
  meas1 : Nat
  deriving DecidableEq, Repr

def TraceIn.field (x : TraceIn) (f : Nat) : Option Nat := (x.fields.find? (fun e => e.1 == f)).map (·.2)

/-- The trigger condition of a probe on an entry: a field of the source, never a cross-trigger. -/
def State.trigMeets (s : State) (d p : Nat) (x : TraceIn) : Bool :=
  let f := s.rf (TRC.P_TRIG d p) F.TRC_P_TRIG_FIELD
  let mask := s.rv (TRC.P_TMASK d p)
  let want := s.rv (TRC.P_TVAL d p) &&& mask
  if f = 0x60 then false
  else match s.rf (TRC.P_TRIG d p) F.TRC_P_TRIG_OP with
    | 0 => true
    | 1 => (match x.field f with | some v => v &&& mask == want | none => false)
    | 2 => (match x.field f with | some v => v &&& mask != want | none => false)
    | _ => (match x.field f, (s.probe d p).prev with
        | some v, some q => v &&& mask != q &&& mask
        | some _, none => false
        | none, _ => false)

/-- Within HOLDOFF µs of the last trigger taken. -/
def State.heldOff (s : State) (d p now : Nat) : Bool :=
  match (s.probe d p).lastTrig with
  | some t => decide (now < t + min 1000000 (s.rf (TRC.P_HOLDOFF d p) F.TRC_P_HOLDOFF_HOLDOFF) * 1000)
  | none => false

/-- A trigger that is not taken is counted for the next record. -/
def State.missTrigger (r : State → Nat → Fld → State) (s : State) (d p : Nat) : State :=
  (s.setProbe d p { s.probe d p with missNext := (s.probe d p).missNext + 1 }).trcBump r d (TRC.MISSTRIG_LO d)

/-- A header entry whose data was cut short carries FLAGS[7], and in LEN the bytes that are stored. -/
def cutFlag (es : List (List Byte)) : List (List Byte) :=
  match es with
  | e :: t => splice (splice e 5 [((e.getD 5 0) ||| 0x80)]) 6 (leBytes 2 (min (leAt e 6 2) (16 * t.length))) :: t
  | [] => []

/-- Entries join the open segment: the ring of PRE entries before a trigger, the segment from it on; a frame that does
not fit is cut. The segment closes when it is full or its POST entries are stored. -/
def State.storeGroup (r : State → Nat → Fld → State) (s : State) (d p tag : Nat) (es : List (List Byte)) : State :=
  let x := s.probe d p
  let cap := s.segEntries d p
  let s0 := each s es (fun u _ => u.trcBump r d (TRC.ENTRIES_LO d))
  match x.trig with
  | none =>
    let all := x.ents ++ es.map (fun e => (tag, e))
    s0.setProbe d p { s0.probe d p with ents := all.drop (all.length - s.rf (TRC.P_CAPT d p) F.TRC_P_CAPT_PRE) }
  | some _ =>
    let space := cap - x.ents.length
    let cut := decide (space < es.length)
    let put := if cut then cutFlag (es.take space) else es
    let s1 := s0.setProbe d p { s0.probe d p with
      ents := x.ents ++ put.map (fun e => (tag, e))
      post := x.post + put.length
      dropped := x.dropped + b2n cut }
    let s2 := if cut then s1.trcBump r d (TRC.DROPPED_LO d) else s1
    let s3 := s2.putEntries d p x.ents.length put
    let want := s.rf (TRC.P_CAPT d p) F.TRC_P_CAPT_POST
    if cap ≤ x.ents.length + put.length ∨ (want ≠ 0 ∧ want ≤ x.post + put.length) then s3.closeSegment r d p false else s3

/-- A probe takes a trigger at a tag: the ring becomes the segment's start. -/
def State.takeTrigger (s : State) (d p tag : Nat) : State :=
  let x := s.probe d p
  (s.setProbe d p { x with trig := some (x.ents.length, tag), lastTrig := some tag, post := 0 }).putEntries d p 0
    (x.ents.map (·.2))

/-- The probe can take a trigger: open, with none yet, and not held off. -/
def State.canTrigger (s : State) (d p tag : Nat) : Bool :=
  (s.probe d p).isOpen && (s.probe d p).trig.isNone && !s.heldOff d p tag

/-- Armed probes whose FIELD 0x60 names one of the probes `from_`, and that are not among those that `met` it already. -/
def State.crossed (s : State) (d : Nat) (from_ met : List Nat) : List Nat :=
  (List.range 16).filter (fun q => !met.contains q && (s.probe d q).armed &&
    s.rf (TRC.P_TRIG d q) F.TRC_P_TRIG_FIELD == 0x60 && from_.contains (s.rv (TRC.P_TVAL d q) % 16))

/-- The other probes of the die whose FIELD 0x60 names a probe that triggered take their trigger at the same tick, and so on
from these: m rounds. -/
def State.crossRounds (r : State → Nat → Fld → State) (d tag : Nat) : Nat → State → List Nat → List Nat → State
  | 0, s, _, _ => s
  | m + 1, s, from_, met =>
    let l := s.crossed d from_ met
    let took := l.filter (fun q => s.canTrigger d q tag)
    if l.isEmpty then s
    else State.crossRounds r d tag m
      (each s l (fun u q => if took.contains q then u.takeTrigger d q tag else u.missTrigger r d q)) took (met ++ l)

def State.crossTrigger (r : State → Nat → Fld → State) (s : State) (d p tag : Nat) : State :=
  State.crossRounds r d tag 16 s [p] [p]

/-- An armed probe captures what it is offered. -/
def State.capture (r : State → Nat → Fld → State) (s : State) (d p : Nat) (x : TraceIn) : State :=
  let f := s.rf (TRC.P_TRIG d p) F.TRC_P_TRIG_FIELD
  let y := s.probe d p
  let s1 := s.setProbe d p { y with
    meas0 := if y.isOpen then y.meas0 + x.meas0 else y.meas0
    meas1 := if y.isOpen then y.meas1 + x.meas1 else y.meas1 }
  let done (u : State) : State := u.setProbe d p { u.probe d p with
    prev := match x.field f with | some v => some v | none => (u.probe d p).prev
    fresh := false, stamp := x.tag }
  if !x.store then s1
  else if s.trigMeets d p x then
    if !s.canTrigger d p x.tag then
      let s2 := s1.missTrigger r d p
      if y.isOpen then done (s2.storeGroup r d p x.tag x.entries) else done s2
    else
      let s2 := (s1.takeTrigger d p x.tag).crossTrigger r d p x.tag
      done (s2.storeGroup r d p x.tag x.entries)
  else if y.isOpen then done (s1.storeGroup r d p x.tag x.entries)
  else done s1

/-! ## Event probes (R381, R383) -/

/-- The die of an event source. -/
def sourceDie (k : Nat) : Nat :=
  if 56 ≤ k ∧ k < 80 then 1
  else if k = 82 ∨ k = 83 then 1
  else if 92 ≤ k ∧ k < 96 then 1
  else if 112 ≤ k ∧ k < 128 then 1
  else if 160 ≤ k ∧ k < 192 then 1
  else if k = 193 ∨ k = 195 ∨ k = 201 ∨ k = 209 ∨ k = 217 then 1
  else 0

/-- A rising edge of source k, as the event probes of its die see it: at most one entry per microsecond. -/
def State.edge (r : State → Nat → Fld → State) (s : State) (k : Nat) : State :=
  each s (List.range 16) (fun u p =>
    let d := sourceDie k
    let x := u.probe d p
    let sel := u.rf (TRC.P_SEL d p) F.TRC_P_SEL_SEL
    if x.armed ∧ x.src = 5 ∧ sel % 256 ≤ k ∧ k ≤ sel / 256 % 256 then
      let soon : Bool := match x.lastEdge with
        | some t => decide (u.tb2nsOn d < t + 1000)
        | none => false
      if soon then
        (u.setProbe d p { x with meas0 := x.meas0 + 1, meas1 := x.meas1 + 1, dropped := x.dropped + 1 }).trcBump r d
          (TRC.DROPPED_LO d)
      else
        (u.setProbe d p { x with lastEdge := some (u.tb2nsOn d) }).capture r d p
          ⟨u.tb2nsOn d, [traceEntry (u.tb2nsOn d) 5 0 0 [BitVec.ofNat 8 k]], [(0x30, k)], true, 1, 0⟩
    else u)

/-- The sources that rise from s to t are offered to the event probes, where one is armed. -/
def State.edges (s t : State) (r : State → Nat → Fld → State) : State :=
  if t.probes.any (fun e => e.2.armed && e.2.src == 5) then
    each t ((List.range 256).filter (fun k => !s.asserted k && t.asserted k)) (State.edge r)
  else t

end Sys2Proof.Machine
end

