-- ==== Sys2Proof/Machine/Events.lean ====
section
/-!
DEFINITION. The operations by which a block raises a cause or bumps a counter, and error classes and logs (R20, R333,
R414, R437).
-/

namespace Sys2Proof.Machine

/-! ## Raising a cause (R332, R335) -/

/-- A cause bit is set, what it drives is delivered, and event probes see the edges; `k` bounds the edges that the
trace units' own causes make (log 22). -/
def State.raiseN : Nat → State → Nat → Fld → State
  | 0, s, a, f => (s.put a f 1).settle
  | k + 1, s, a, f => s.edges ((s.put a f 1).settle) (State.raiseN k)

def State.raise (s : State) (a : Nat) (f : Fld) : State := State.raiseN 2 s a f

/-- A state in which causes have changed otherwise than by one cause bit: delivered, with the edges seen. -/
def State.changed (s t : State) : State := s.edges t.settle (State.raiseN 1)

/-- A counter rises by n; where its bit 39 becomes 1 the group's cause is set (R20). -/
def State.bumpBy (s : State) (ctr n evt : Nat) (f : Fld) : State :=
  if s.countFires ctr n then (s.addCount ctr n).raise evt f else s.addCount ctr n

/-- A counter rises by 1. -/
def State.bump (s : State) (ctr evt : Nat) (f : Fld) : State := s.bumpBy ctr 1 evt f

/-! ## Error classes and logs (R333, R414) -/

/-- Error class 224 + k occurs (R333). -/
def State.errClass (s : State) (k : Nat) : State := s.raise EVT.ERRC ⟨k, k⟩

/-- UNIT of an error log (R414). -/
def unitOf (cl : Option Nat) (tile : Nat) : Nat :=
  match cl with
  | some n => 0x8000 + n * 1024 + tile * 64
  | none => 0

/-- An error is recorded in its die's log where VALID is 0 (R414), and its class is set. -/
def State.logError (s : State) (d level k unit addr synd bank : Nat) : State :=
  (if s.rb (GLB.ERRLOG d) F.GLB_ERRLOG_VALID then s
   else
    ((((((s.wv (GLB.ERRLOG d) (0x80000000 + level * 0x1000000 + k * 0x10000 + unit)).wv
      (GLB.ERRLOG_ADDRLO d) (addr % 2 ^ 32)).wv (GLB.ERRLOG_ADDRHI d) (addr / 2 ^ 32 % 256)).wv
      (GLB.ERRLOG_SYND d) synd).setReg (GLB.ERRLOG_TB2S d) (s.tb2sOn d)).setReg (GLB.ERRLOG_TB2NS d) (s.tb2nOn d)).wv
      (GLB.ERRLOG_BANK d) bank).errClass k

/-! ## HIF counters (R437) -/

/-- A host write is discarded for a decode error or a ROM write. -/
def State.dropDecode (s : State) : State :=
  ((s.bump HIF.WRDROP_LO HIF.EVT F.HIF_EVT_HCNT).put HIF.FENCE F.HIF_FENCE_DROPPED 1).raise HIF.EVT F.HIF_EVT_DECODE

/-- A register write is discarded for partial byte enables. -/
def State.dropPartial (s : State) : State :=
  (((s.bump HIF.WRDROP_LO HIF.EVT F.HIF_EVT_HCNT).bump HIF.PARTIAL_LO HIF.EVT F.HIF_EVT_HCNT).put
    HIF.FENCE F.HIF_FENCE_DROPPED 1).raise HIF.EVT F.HIF_EVT_PARTIAL

/-- A host write is discarded for an unreachable target or a partial write to a poisoned word. -/
def State.dropOther (s : State) : State :=
  ((s.bump HIF.WRDROP_LO HIF.EVT F.HIF_EVT_HCNT).put HIF.FENCE F.HIF_FENCE_DROPPED 1).raise HIF.EVT F.HIF_EVT_DROPWR

end Sys2Proof.Machine
end

