-- ==== Sys2Proof/Machine/Sched.lean ====
section
/-!
DEFINITION. Work items, the pending store, dispatch and delay lists of a cluster (R144 to R157), and the loading of a
kernel image into a tile (R151).
-/

namespace Sys2Proof.Machine

/-! ## Items (R144, R145) -/

/-- The class, flow and other fields of an item's words. -/
def itemOf (ws : List Word) (o : Origin) : Item :=
  let w (i : Nat) : Word := ws.getD i 0
  { cls := ⟨(w 0).toNat / 2 ^ 29 % 8, Nat.mod_lt _ (by decide)⟩
    ord := bit (w 0).toNat 28
    typ := BitVec.ofNat 2 ((w 0).toNat / 2 ^ 26)
    flow := (w 0).setWidth 16
    tid := (w 1).setWidth 18
    entry := w 2
    cost := w 3
    arg0 := w 4
    arg1 := w 5
    data := w 6
    origin := o
    run := none
    boundary := 0
    regs := []
    stage := []
    area := none }

/-- The scheduler takes the item: its type, entry and zero fields (R145). -/
def itemValid (ws : List Word) (o : Origin) : Bool :=
  let w (i : Nat) : Nat := (ws.getD i 0).toNat
  let typ := w 0 / 2 ^ 26 % 4
  bits (w 0) 25 16 == 0 && bits (w 1) 31 18 == 0 &&
    (if typ = 0 then bits (w 2) 31 16 == 0 && Config.romKernel (w 2)
     else if typ = 1 then true
     else if typ = 2 then decide (w 2 < 2) && (o == .delayList || o == .playout)
     else false)

/-! ## Acceptance (R147 to R149) -/

/-- The cluster's state accepts an item of the origin and type (R149). -/
def stateAccepts (st typ : Nat) (o : Origin) : Bool :=
  if st = stRun then true
  else if st = stRecover then o == .delayList || o == .playout || o == .sequencer
  else if st = stBringup ∨ st = stTest ∨ st = stSpare then o == .host && decide (typ < 2)
  else false

/-- The limit of R147 on posts of tiles, notices, the host and other clusters. -/
def State.postLim (s : State) (n : Nat) : Nat := min 4096 (s.rf (WS.CFG n) F.WS_CFG_POSTLIM)

/-- The item joins the pending store. -/
def State.acceptItem (s : State) (n : Nat) (it : Item) : State :=
  (s.setCluster n { s.cluster n with pend := (s.cluster n).pend ++ [it] }).bump
    (WS.POSTED_LO n) (WS.EVT n) F.WS_EVT_WCNT

/-- The item is refused: counted, and the cause set. -/
def State.refuseItem (s : State) (n : Nat) : State :=
  (s.bump (WS.REFUSED_LO n) (WS.EVT n) F.WS_EVT_WCNT).raise (WS.EVT n) F.WS_EVT_REFUSED

/-- What a post by a tile, a notice, the host or another cluster meets: 0 accepted, else the code of HP_STATUS. The
order of the causes is a choice (log 20). -/
def State.postCode (s : State) (n : Nat) (ws : List Word) (o : Origin) : Nat :=
  if !stateAccepts (s.clState n) ((ws.getD 0 0).toNat / 2 ^ 26 % 4) o then 0x0304
  else if !itemValid ws o then 0x0305
  else if s.postLim n ≤ (s.cluster n).pend.length then 0x0301
  else 0

/-- A post by a tile, a notice, the host or another cluster (R147). -/
def State.postWork (s : State) (n : Nat) (ws : List Word) (o : Origin) : State :=
  if s.postCode n ws o = 0 then s.acceptItem n (itemOf ws o) else s.refuseItem n

/-- Order of sources in the acceptance table (R148). -/
def originOrder : Origin → Nat
  | .delayList => 1
  | .sequencer => 2
  | .playout => 3
  | .tile => 4
  | .otherTile => 5
  | .notice => 6
  | .host => 7

/-- A waiting item takes its place behind those of its own and earlier sources. -/
def insertWaiting (l : List (Item × Option Nat)) (x : Item × Option Nat) : List (Item × Option Nat) :=
  match l with
  | [] => [x]
  | y :: t => if originOrder x.1.origin < originOrder y.1.origin then x :: y :: t else y :: insertWaiting t x

/-- A one-shot timer becomes free (R155). -/
def State.dropTimer (s : State) (n : Nat) (timer : Option Nat) : State :=
  match timer with
  | some k => s.setCluster n { s.cluster n with timers := sdel (s.cluster n).timers k }
  | none => s

/-- A release waits for room, or for those that wait before it in the order of the sources (R147, R148). -/
def State.mustWait (s : State) (n : Nat) (it : Item) : Bool :=
  decide (4096 ≤ (s.cluster n).pend.length) ||
    (s.cluster n).waiting.any (fun w => decide (originOrder w.1.origin ≤ originOrder it.origin))

/-- A release by a delay list, the playout unit or the chain sequencer: accepted while the store has room, else it waits
(R147). The timer that released it, where it is one-shot, becomes free at acceptance (R155). -/
def State.release (s : State) (n : Nat) (it : Item) (timer : Option Nat) : State :=
  if !stateAccepts (s.clState n) it.typ.toNat it.origin then (s.refuseItem n).dropTimer n timer
  else if !s.mustWait n it then (s.acceptItem n it).dropTimer n timer
  else
    (s.setCluster n { s.cluster n with waiting := insertWaiting (s.cluster n).waiting (it, timer) }).bump
      (WS.DEFERRED_LO n) (WS.EVT n) F.WS_EVT_WCNT

/-- DEFERRED_ACCEPT: the first waiting release is accepted as room appears (R147, R148). -/
def State.deferred (s : State) (n : Nat) : State :=
  match (s.cluster n).waiting with
  | [] => s
  | (it, timer) :: rest =>
    let s1 := s.setCluster n { s.cluster n with waiting := rest }
    if !stateAccepts (s.clState n) it.typ.toNat it.origin then (s1.refuseItem n).dropTimer n timer
    else if (s.cluster n).pend.length < 4096 then (s1.acceptItem n it).dropTimer n timer
    else s

/-! ## Timers (R154 to R157) -/

/-- The lowest timer number that is free, if one is (log 20). -/
def freeTimer (c : Cluster) : Option Nat :=
  (List.range 8192).find? (fun k => !(c.timers.any (fun e => e.1 == k)))

/-- The first whole microsecond of TB2 at or after now (R154). -/
def State.tb2usUp (s : State) (d : Nat) : Nat := (s.tb2nsOn d + (if (s.tbOn d 2).frac = 0 then 0 else 1) + 999) / 1000

/-- A one-shot timer is armed d microseconds from now: the first whole tick at or after that instant (R154). -/
def State.armOneShot (s : State) (n : Nat) (it : Item) (d : Nat) (byHost : Bool) (k : Nat) : State :=
  let c := s.cluster n
  s.setCluster n { c with
    timers := sput c.timers k ⟨s.tb2usUp (dieOf n) + d, .oneShot it byHost c.armClock⟩
    armClock := c.armClock + 1 }

/-- What a delayed post meets: 0 armed, else the code of HP_STATUS (log 20). -/
def State.delayCode (s : State) (n : Nat) (ws : List Word) (d : Nat) (o : Origin) : Nat :=
  if !stateAccepts (s.clState n) ((ws.getD 0 0).toNat / 2 ^ 26 % 4) o then 0x0304
  else if !itemValid ws o then 0x0305
  else if 4194303 < d then 0x0302
  else match freeTimer (s.cluster n) with
    | none => 0x0303
    | some _ => 0

/-- A delayed post: armed, or refused (R129, R154). -/
def State.delayWork (s : State) (n : Nat) (ws : List Word) (d : Nat) (o : Origin) (byHost : Bool) : State :=
  if s.delayCode n ws d o = 0 then
    match freeTimer (s.cluster n) with
    | some k => s.armOneShot n { itemOf ws o with origin := .delayList } d byHost k
    | none => s
  else s.refuseItem n

/-- The first tick after an instant on the grid of period p ms and phase (R154, R184). -/
def nextTick (us p phase : Nat) : Nat :=
  let per := 1000 * p
  let t := us / per * per + phase
  if us < t then t else t + per

/-- The slot is reserved as the target of a re-home in progress (R365). -/
def State.isTarget (s : State) (n k : Nat) : Bool :=
  s.rehomes.any (fun r => r.dst == n && r.members.any (fun m => m.target == k))

/-- The home of the TID releases no run of it: its group has been checkpointed (R365). -/
def State.frozen (s : State) (tid : BitVec 18) : Bool :=
  s.rehomes.any (fun r => r.copied && r.members.any (fun m => m.tid == tid))

/-- The rank of a due timer among those of one tick: periodic by TID, then one-shot by arming (R156). -/
def State.timerRank (s : State) (n : Nat) (t : Timer) : Nat × Nat × Nat :=
  match t.kind with
  | .periodic k => (t.due, 0, (s.slot n k.toNat).tid.toNat)
  | .oneShot _ _ o => (t.due, 1, o)

def rankLt (a b : Nat × Nat × Nat) : Bool :=
  decide (a.1 < b.1) || (a.1 == b.1 && (decide (a.2.1 < b.2.1) || (a.2.1 == b.2.1 && decide (a.2.2 < b.2.2))))

/-- The timer is that of a slot whose group has been checkpointed: it waits for the commit (R365). -/
def State.frozenTimer (s : State) (n : Nat) (t : Timer) : Bool :=
  match t.kind with
  | .periodic k => s.frozen (s.slot n k.toNat).tid
  | .oneShot _ _ _ => false

/-- The timer is due and no other due timer of the cluster goes before it (R156). -/
def State.timerFirst (s : State) (n : Nat) (t : Timer) : Bool :=
  decide (t.due ≤ s.tb2usOn (dieOf n)) &&
    (s.cluster n).timers.all (fun e =>
      !(rankLt (s.timerRank n e.2) (s.timerRank n t)) || (s.cluster n).waiting.any (fun w => w.2 == some e.1) ||
        s.frozenTimer n e.2)

/-! ## Dispatch (R146, R150 to R152) -/

/-- A tile is in dispatch: its cluster is not OFF, it is not withdrawn and not halted (R150). -/
def State.inDispatch (s : State) (n t : Nat) : Bool :=
  s.clState n != stOff && !s.rb (TILE.STATE n t) F.TILE_STATE_WITHDRAWN && !s.rb (TILE.STATE n t) F.TILE_STATE_HALTED

/-- The tile runs nothing and loads nothing. -/
def State.tileIdle (s : State) (n t : Nat) : Bool :=
  (s.core n t).running.isNone && (s.core n t).loading.isNone

/-- The tile can take an item: idle and in dispatch, or in HALT being stepped under debug (R149). -/
def State.tileTakes (s : State) (n t : Nat) : Bool :=
  s.tileIdle n t && (if s.clState n = stHalt then (s.core n t).stepping else s.inDispatch n t)

/-- An item of the flow is on a tile. -/
def State.flowOnTile (s : State) (n : Nat) (flow : BitVec 16) : Bool :=
  (List.range 12).any (fun t =>
    let c := s.core n t
    let f (i : Option Item) : Bool := match i with | some i => i.ord && i.flow == flow | none => false
    f c.running || f c.loading)

/-- A run of the slot whose number is the flow is in progress: it holds the flow (R160, R175). -/
def State.flowRunning (s : State) (n : Nat) (flow : BitVec 16) : Bool :=
  decide (flow.toNat < 8192) && ((s.slot n flow.toNat).run0.isSome || (s.slot n flow.toNat).run1.isSome)

/-- The items of the pending store that are ready and need a tile, oldest first: each ordered item the oldest of its
flow, with none of the flow running (R150). A kernel item of a chain run goes before later items of its own flow. -/
def State.readyItems (s : State) (n : Nat) : List (Nat × Item) :=
  let p := (s.cluster n).pend.zipIdx
  (p.filter (fun e => e.1.typ != 2 &&
    (!e.1.ord || (!s.flowOnTile n e.1.flow &&
      ((e.1.run.isSome && e.1.typ != 2) || (!s.flowRunning n e.1.flow &&
        p.all (fun g => !(g.1.ord && g.1.flow == e.1.flow) || decide (e.2 ≤ g.2)))))))).map
    (fun e => (e.2, e.1))

/-- The oldest ready item of the highest class (R150). -/
def pickItem (l : List (Nat × Item)) : Option (Nat × Item) :=
  l.foldl (fun b e => match b with | none => some e | some x => if x.2.cls < e.2.cls then some e else some x) none

/-- The image of an item: that of its ROM kernel, or the user image it names (R144, R151). -/
def Item.imageOf (it : Item) : BitVec 2 × Word :=
  (it.typ, if it.typ = 0 then BitVec.ofNat 32 (Config.romImage it.entry.toNat) else it.entry)

/-- The tile holds the item's image (R151). -/
def State.holdsImage (s : State) (n t : Nat) (it : Item) : Bool := (s.core n t).image == some it.imageOf

/-- The tile for an item, and whether it must load the image (R151). -/
def State.pickTile (s : State) (n : Nat) (it : Item) : Option (Nat × Bool) :=
  let ts := (List.range 12).filter (fun t => s.tileTakes n t)
  let holding := ts.filter (fun t => s.holdsImage n t it)
  match holding.find? (fun t => it.ord && (s.core n t).lastFlow == some it.flow) with
  | some t => some (t, false)
  | none =>
    match holding with
    | t :: _ => some (t, false)
    | [] =>
      match ts.foldl (fun b t => match b with
          | none => some t
          | some x => if (s.core n t).lastUse < (s.core n x).lastUse then some t else some x) none with
      | some t => some (t, true)
      | none => none

/-- The cycle limit of an item (R146). -/
def State.itemLimit (s : State) (n : Nat) (it : Item) : Word :=
  if it.cost = 0 then s.reg (WS.DEFLIM n)
  else BitVec.ofNat 32 (min 0xFFFFFFFF (it.cost.toNat * (s.rf (WS.CFG n) F.WS_CFG_GRACE + 1)))

/-- The slot of a TID homed on the cluster. -/
def State.slotOf (s : State) (n : Nat) (tid : BitVec 18) : Option Nat :=
  (s.slots.find? (fun e => e.1 / 8192 == n && e.2.st != .free && e.2.tid == tid && !s.isTarget n (e.1 % 8192))).map
    (fun e => e.1 % 8192)

/-- Bytes with their poison are copied from one DPA to another (R65). -/
def State.copyBytes (s : State) (src dst n : Nat) : State :=
  let bad := s.poison.filter (fun w => decide (src < 8 * w + 8) && decide (8 * w < src + n))
  bad.foldl (fun u w => u.poisonWord (dst + (8 * w - src))) (s.write dst (s.bytes src n))

/-- A tile's bytes at a core address. -/
def tileDpa (n t a : Nat) : Nat := 0x30000000 + (12 * n + t) * 0x80000 + a

/-- Core addresses at which a kernel of the sequencer finds its input, its output and its state (R102, log 23). -/
def stageInAt : Nat := 0x18000 + 8 * (Config.stageIn % 512)
def stageOutAt : Nat := 0x1A000 + 8 * (Config.stageOut % 512)
def stageStateAt : Nat := 0x1C000 + 8 * (Config.stageState % 512)

/-- The item's blocks and state are in the tile's staging area (R102, R174). -/
def State.stageItem (s : State) (n t : Nat) (it : Item) : State :=
  let s1 := each s it.stage (fun u x => u.write (tileDpa n t x.1) x.2)
  match it.area with
  | some (a, len) => s1.copyBytes a (tileDpa n t stageStateAt) len
  | none => s1

/-- The first bundle of an item can issue: the core takes the entry state of R83, R102 and R146. Q1 to Q7 are undefined
there (log 6). -/
def State.startItem (s : State) (n t : Nat) (it : Item) : State :=
  let c := s.core n t
  let g2 : Word := match it.run with
    | some _ => it.regs.getD 0 0
    | none => match s.slotOf n it.tid with | some k => BitVec.ofNat 32 (0x100000 + 256 * k) | none => 0
  let gs : Vector Word 32 :=
    (((((((((c.g.set 0 it.arg0).set 1 it.arg1).set 2 g2).set 3 (it.regs.getD 1 0)).set 4 (it.regs.getD 2 0)).set 5
      (it.regs.getD 3 0)).set 6 (it.tid.setWidth 32)).set 7 (it.regs.getD 4 0)).set 8 0x00040000).set 9 it.data
  let rdef : Word := if s.clState n = stRun then 0x04000000 else 0x08000000
  let k := (s.cluster n).useClock + 1
  let s1 := s.setCore n t { c with
    g := gs
    p := c.p.set 14 0x00040000
    q := BitVec.ofNat 8 (Config.freeNat s.freeCount) ||| 1
    stat := rdef
    ctrl := 0x00400000
    pc := c.entryPc
    cyc := 0
    itid := it.tid
    tb2s := s.tb2sOn (dieOf n)
    tb2ns := s.tb2nOn (dieOf n)
    lstart := Vector.replicate 4 0
    lend := Vector.replicate 4 0
    bundle := []
    lcache := none
    running := some it
    loading := none
    image := some it.imageOf
    lastFlow := if it.ord then some it.flow else none
    lastUse := k
    loadLate := []
    accLate := []
    outLoads := [] }
  let s3 := s1.stageItem n t it
  let s2 := s3.setCluster n { s3.cluster n with useClock := k }
  (s2.draw 1).wv (TILE.STATE n t)
    ((s2.rv (TILE.STATE n t) &&& 0x06000000) ||| 0x01000000 ||| it.tid.toNat)

/-- DISPATCH: the oldest ready item of the highest class goes to a tile, with its cycle limit (R146), which starts it or
begins to load its image (R150, R151). -/
def State.dispatchOne (s : State) (n : Nat) : State :=
  match pickItem (s.readyItems n) with
  | none => s
  | some (i, it) =>
    match s.pickTile n it with
    | none => s
    | some (t, load) =>
      let s1 := (s.setCluster n { s.cluster n with pend := (s.cluster n).pend.eraseIdx i }).bump
        (WS.DISPATCHED_LO n) (WS.EVT n) F.WS_EVT_WCNT
      if load then
        (s1.setCore n t { s1.core n t with loading := some it, image := none, ilim := s.itemLimit n it }).put
          (TILE.STATE n t) F.TILE_STATE_GATED 0
      else (s1.setCore n t { s1.core n t with ilim := s.itemLimit n it }).startItem n t it

end Sys2Proof.Machine
end

