-- ==== Sys2Proof/Machine/Casks.lean ====
section
/-!
DEFINITION. Casks (R131 to R143): credit, offering, closing, reading, flushing and notices. A cask is named by its
handle: 8,192 × die + number.
-/

namespace Sys2Proof.Machine

/-! ## Configuration and credit (R131, R133) -/

def caskDie (h : Nat) : Nat := h / 8192 % 2
def caskNo (h : Nat) : Nat := h % 8192

def State.caskCfg (s : State) (h : Nat) (f : Fld) : Nat := s.rf (CSK.CFG (caskDie h) (caskNo h)) f

def State.caskOn (s : State) (h : Nat) : Bool := s.caskCfg h F.CSK_CFG_EN != 0

def State.caskDepth (s : State) (h : Nat) : Nat := 2 ^ (s.caskCfg h F.CSK_CFG_DEPTH + 4)

/-- USED: committed words not yet read. -/
def Cask.used (c : Cask) : Nat := (c.pkts.map List.length).sum - c.ridx

/-- OPEN: words in open packets. -/
def Cask.openWords (c : Cask) : Nat := (c.opens.map (fun o => o.2.slots.length)).sum

/-- The credit of R133, 0 where the cask is not enabled. -/
def State.credit (s : State) (h : Nat) : Nat :=
  if s.caskOn h then s.caskDepth h - (s.cask h).used - (s.cask h).openWords else 0

/-- The open packet of a producer. -/
def Cask.openOf (c : Cask) (p : Producer) : Option OpenPkt := (c.opens.find? (fun o => o.1 == p)).map (·.2)

def Cask.withOpen (c : Cask) (p : Producer) (o : OpenPkt) : Cask :=
  if (c.openOf p).isSome then { c with opens := c.opens.map (fun e => if e.1 == p then (p, o) else e) }
  else { c with opens := c.opens ++ [(p, o)] }

def Cask.dropOpen (c : Cask) (p : Producer) : Cask := { c with opens := c.opens.filter (fun e => e.1 != p) }

/-- Open packets of a die's block (R132). -/
def State.openPkts (s : State) (d : Nat) : Nat :=
  ((s.casks.filter (fun e => caskDie e.1 == d)).map (fun e => e.2.opens.length)).sum

/-- A CSK counter rises (the group raises HIF.EVT.CSKCNT). -/
def State.cskBump (s : State) (ctr : Nat) : State := s.bump ctr HIF.EVT F.HIF_EVT_CSKCNT

/-! ## Offering a word (R132 to R134) -/

/-- The open packet already holds 64 words. -/
def State.overLen (s : State) (h : Nat) (p : Producer) : Bool :=
  match (s.cask h).openOf p with
  | some o => decide (64 ≤ o.slots.length)
  | none => false

/-- The word would be accepted (R133, R134). -/
def State.accepts (s : State) (h : Nat) (p : Producer) : Bool :=
  s.caskOn h && decide (1 ≤ s.credit h) && !s.overLen h p &&
    (((s.cask h).openOf p).isSome || decide (s.openPkts (caskDie h) < 2048))

/-! ## Storage (R131, R143) -/

/-- The DPA of a place of a cask's storage: 16 bytes of its die's Cellar, from BASE. -/
def State.placeDpa (s : State) (h i : Nat) : Nat :=
  0x10000000 + caskDie h * 0x4000000 + s.rf (CSK.BASE (caskDie h) (caskNo h)) F.CSK_BASE_OFFS * 256 + 16 * i

/-- The word at a place, poisoned where either half of it is (R63). -/
def State.storedWord (s : State) (h i : Nat) : CWord :=
  ⟨BitVec.ofNat 128 (s.le (s.placeDpa h i) 16), s.poisonedIn (s.placeDpa h i) 16⟩

/-- A word is stored; poison travels with it (R65). -/
def State.storeWord (s : State) (h i : Nat) (w : CWord) : State :=
  let a := s.placeDpa h i
  let s1 := s.write a (leBytes 16 w.val.toNat)
  if w.poison then (s1.poisonWord a).poisonWord (a + 8) else s1

/-- The places in use. -/
def Cask.slots (c : Cask) : List Nat := c.pkts.flatten.drop c.ridx ++ c.opens.flatMap (fun o => o.2.slots)

/-- The place that the next accepted word takes: the lowest that is free (log 58). -/
def Cask.freeSlot (c : Cask) : Nat :=
  ((List.range (c.slots.length + 1)).find? (fun i => !c.slots.contains i)).getD 0

/-- The cask with one more word in a producer's open packet, at the free place. -/
def Cask.grow (c : Cask) (p : Producer) : Cask :=
  let o := (c.openOf p).getD ⟨[], false⟩
  c.withOpen p { o with slots := o.slots ++ [c.freeSlot] }

/-- The committed packets of a cask, as their words. -/
def State.packets (s : State) (h : Nat) : List (List CWord) := (s.cask h).pkts.map (fun p => p.map (s.storedWord h))

/-- A word is offered: stored and added to the producer's open packet, or refused and counted. -/
def State.offerWord (s : State) (h : Nat) (p : Producer) (w : CWord) : State :=
  if s.accepts h p then (s.setCask h ((s.cask h).grow p)).storeWord h (s.cask h).freeSlot w
  else
    let s1 := s.cskBump (CSK.REFUSED_LO (caskDie h))
    if s.overLen h p then s1.cskBump (CSK.OVERLEN_LO (caskDie h)) else s1

/-! ## Notices and closing (R135, R139 to R141) -/

/-- The words of a work item whose bytes 24 to 27 are replaced by the cask handle (R141). -/
def State.noticeWords (s : State) (h : Nat) : List Word :=
  let g := s.caskCfg h F.CSK_CFG_NGRP
  (List.range 8).map (fun i => if i = 6 then BitVec.ofNat 32 (h % 16384) else s.reg (CSK.NG_WI (caskDie h) g i))

/-- The notice of one committed packet (R141). -/
def State.notice (s : State) (h : Nat) : State :=
  let g := s.caskCfg h F.CSK_CFG_NGRP
  let d := caskDie h
  if s.caskCfg h F.CSK_CFG_NMODE = 1 then
    s.changed (s.put (CSK.NG_PEND d g) F.CSK_NG_PEND_PEND (min 65535 (s.rf (CSK.NG_PEND d g) F.CSK_NG_PEND_PEND + 1)))
  else if s.caskCfg h F.CSK_CFG_NMODE = 2 then
    let n := s.rf (CSK.NG_CLUSTER d g) F.CSK_NG_CLUSTER_CLUSTER
    if s.postCode n (s.noticeWords h) .notice = 0 then s.postWork n (s.noticeWords h) .notice
    else (s.postWork n (s.noticeWords h) .notice).cskBump (CSK.NOTICE_LOST_LO d)
  else s

/-- A control command ends: its code, and the command and cask in force, which until then show the previous result
(R22, R143). -/
def State.cskPost (s : State) (h op code : Nat) : State :=
  ((s.put (CSK.CMD_INFORCE (caskDie h)) F.CSK_CMD_INFORCE_OP op).put
    (CSK.CASK_INFORCE (caskDie h)) F.CSK_CASK_INFORCE_CASK (caskNo h)).post (CSK.CMD_STATUS (caskDie h)) code

/-- A flush is complete when no packet that was open at it is still open (R140). -/
def State.flushCheck (s : State) (h : Nat) : State :=
  if sget s.flushing 16384 (caskDie h) = h ∧ !((s.cask h).opens.any (fun o => o.2.flushed)) then
    ({ s with flushing := sdel s.flushing (caskDie h) } : State).cskPost h 2 0
  else s

/-- Commit of a producer's open packet (R135): visible whole behind every earlier packet, or discarded where a flush
covers it; nothing where none is open. -/
def State.commitPkt (s : State) (h : Nat) (p : Producer) : State :=
  match (s.cask h).openOf p with
  | none => s
  | some o =>
    let s1 := s.setCask h ((s.cask h).dropOpen p)
    if o.flushed then (s1.cskBump (CSK.DISCARDED_LO (caskDie h))).flushCheck h
    else
      ((s1.setCask h { s1.cask h with pkts := (s1.cask h).pkts ++ [o.slots] }).cskBump
        (CSK.PKTS_LO (caskDie h) (caskNo h))).notice h

/-- Abandon of a producer's open packet (R135). -/
def State.abandonPkt (s : State) (h : Nat) (p : Producer) : State :=
  match (s.cask h).openOf p with
  | none => s
  | some _ => ((s.setCask h ((s.cask h).dropOpen p)).cskBump (CSK.ABANDONED_LO (caskDie h))).flushCheck h

/-- Every open packet of a producer is abandoned: the end of its work item, a cluster reset (R135). -/
def State.abandonAll (s : State) (p : Producer) : State :=
  each s ((s.casks.filter (fun e => (e.2.openOf p).isSome)).map (·.1)) (fun t h => t.abandonPkt h p)

/-- A one-word packet, as records are (R338): false where the cask refuses it. -/
def State.recordFits (s : State) (h : Nat) (p : Producer) : Bool := s.accepts h p

def State.postRecord (s : State) (h : Nat) (p : Producer) (w : BitVec 128) : State :=
  if s.recordFits h p then (s.offerWord h p ⟨w, false⟩).commitPkt h p else s.offerWord h p ⟨w, false⟩

/-- A packet of several words, committed if every word is accepted and abandoned otherwise. -/
def State.postPacket (s : State) (h : Nat) (p : Producer) (ws : List CWord) : State × Bool :=
  let r := ws.foldl (fun (a : State × Bool) w =>
    if a.2 then (a.1.offerWord h p w, a.1.accepts h p) else a) (s, true)
  if r.2 then (r.1.commitPkt h p, true) else (r.1.abandonPkt h p, false)

/-! ## Reading (R136 to R138) -/

/-- The read status word of R137. -/
def readStatus (empty first last poison nocask : Bool) (prio widx src : Nat) : Word :=
  BitVec.ofNat 32 (b2n empty * 2 ^ 31 + b2n first * 2 ^ 30 + b2n last * 2 ^ 29 + b2n poison * 2 ^ 28 +
    b2n nocask * 2 ^ 27 + prio % 8 * 2 ^ 24 + widx % 64 * 2 ^ 18 + src % 16384)

/-- The members of a parent's set that hold a committed packet: the parent and its enabled lanes (R138). -/
def State.members (s : State) (h : Nat) : List Nat :=
  (s.casks.filter (fun e => !e.2.pkts.isEmpty && caskDie e.1 == caskDie h && s.caskOn e.1 &&
    (e.1 == h || (s.caskCfg e.1 F.CSK_CFG_LANE == 1 && s.caskCfg e.1 F.CSK_CFG_PARENT == caskNo h)))).map (·.1)

/-- The member that a read of a cask takes its word from (R138): the one it continues in, else the one of highest
priority that holds a packet. -/
def State.readFrom (s : State) (h : Nat) : Option Nat :=
  match (s.cask h).member with
  | some m => some m
  | none =>
    if !(s.cask h).pkts.isEmpty && (s.cask h).ridx != 0 && s.caskCfg h F.CSK_CFG_LANE == 1 then some h
    else if s.caskCfg h F.CSK_CFG_LANE == 1 then (if (s.cask h).pkts.isEmpty then none else some h)
    else
      (s.members h).foldl (fun b m => match b with
        | none => some m
        | some x => if s.caskCfg x F.CSK_CFG_PRIO < s.caskCfg m F.CSK_CFG_PRIO then some m else some x) none

/-- The idle item (R136). -/
def State.idleItem (s : State) (h : Nat) : BitVec 128 :=
  s.reg (CSK.IDLE (caskDie h) (caskNo h) 3) ++ s.reg (CSK.IDLE (caskDie h) (caskNo h) 2) ++
    s.reg (CSK.IDLE (caskDie h) (caskNo h) 1) ++ s.reg (CSK.IDLE (caskDie h) (caskNo h) 0)

/-- What a read of the cask would show: the word and its status (R136, R137). -/
def State.peek (s : State) (h : Nat) : CWord × Word :=
  if !s.caskOn h then (⟨0, false⟩, readStatus true false false false true 0 0 h)
  else match s.readFrom h with
    | none => (⟨s.idleItem h, false⟩, readStatus true false false false false 0 0 h)
    | some m =>
      match (s.cask m).pkts with
      | [] => (⟨s.idleItem h, false⟩, readStatus true false false false false 0 0 h)
      | p :: _ =>
        let w := s.storedWord m (p.getD (s.cask m).ridx 0)
        (w, readStatus false ((s.cask m).ridx == 0) ((s.cask m).ridx + 1 == p.length) w.poison false
          (s.caskCfg m F.CSK_CFG_PRIO) (s.cask m).ridx m)

/-- The cask whose reads may continue in a member: a lane's parent. -/
def State.parentOf (s : State) (m : Nat) : Nat :=
  if s.caskCfg m F.CSK_CFG_LANE = 1 then 8192 * caskDie m + s.caskCfg m F.CSK_CFG_PARENT else m

/-- The read position advances by one word (R136); a parent remembers the member of an unfinished packet, and forgets it
when the packet is finished, through whichever handle (R138). -/
def State.consume (s : State) (h : Nat) : State :=
  if !s.caskOn h then s
  else match s.readFrom h with
    | none => s
    | some m =>
      match (s.cask m).pkts with
      | [] => s
      | p :: rest =>
        if (s.cask m).ridx + 1 < p.length then
          let s1 := s.setCask m { s.cask m with ridx := (s.cask m).ridx + 1 }
          s1.setCask h { s1.cask h with member := some m }
        else
          let s1 := s.setCask m { s.cask m with pkts := rest, ridx := 0, member := none }
          let s2 := s1.setCask (s.parentOf m) { s1.cask (s.parentOf m) with member := none }
          s2.setCask h { s2.cask h with member := none }

/-- The DPA of the word that the next read of a cask returns. -/
def State.headDpa (s : State) (h : Nat) : Option Nat :=
  match s.readFrom h with
  | none => none
  | some m =>
    match (s.cask m).pkts with
    | [] => none
    | p :: _ => some (s.placeDpa m (p.getD (s.cask m).ridx 0))

/-! ## Control (R139, R140, R143) -/

/-- What CREATE meets, in the order of the codes (R143). -/
def State.createCode (s : State) (h : Nat) : Nat :=
  let par := 8192 * caskDie h + s.caskCfg h F.CSK_CFG_PARENT
  let lanes := s.regs.filter (fun e =>
    decide (CSK.CFG (caskDie h) 0 ≤ e.1) && decide (e.1 < CSK.CFG (caskDie h) 0 + 0x80000) &&
    (e.1 - CSK.CFG (caskDie h) 0) % 0x40 == 0 && fget F.CSK_CFG_EN e.2 == 1 && fget F.CSK_CFG_LANE e.2 == 1 &&
    fget F.CSK_CFG_PARENT e.2 == s.caskCfg h F.CSK_CFG_PARENT)
  if 12 < s.caskCfg h F.CSK_CFG_DEPTH then 0x0101
  else if 0x4000000 < s.rf (CSK.BASE (caskDie h) (caskNo h)) F.CSK_BASE_OFFS * 256 + s.caskDepth h * 16 then 0x0102
  else if s.caskOn h then 0x0103
  else if s.caskCfg h F.CSK_CFG_LANE == 1 &&
      (!s.caskOn par || s.caskCfg par F.CSK_CFG_LANE == 1 || decide (7 ≤ lanes.length) ||
        s.caskCfg par F.CSK_CFG_PRIO == s.caskCfg h F.CSK_CFG_PRIO ||
        lanes.any (fun e => fget F.CSK_CFG_PRIO e.2 == s.caskCfg h F.CSK_CFG_PRIO)) then 0x0104
  else if s.caskCfg h F.CSK_CFG_NMODE = 3 then 0x0105
  else 0

/-- The cask is the parent of an enabled lane. -/
def State.hasLanes (s : State) (h : Nat) : Bool :=
  s.regs.any (fun e =>
    decide (CSK.CFG (caskDie h) 0 ≤ e.1) && decide (e.1 < CSK.CFG (caskDie h) 0 + 0x80000) &&
    (e.1 - CSK.CFG (caskDie h) 0) % 0x40 == 0 && fget F.CSK_CFG_EN e.2 == 1 && fget F.CSK_CFG_LANE e.2 == 1 &&
    fget F.CSK_CFG_PARENT e.2 == caskNo h)

/-- A control command starts: READY falls. -/
def State.cskBegin (s : State) (h : Nat) : State := s.begin_ (CSK.CMD_STATUS (caskDie h))

/-- CREATE of a valid cask: empty storage, EN set. -/
def State.doCreate (s : State) (h : Nat) : State :=
  (s.setCask h Cask.init).put (CSK.CFG (caskDie h) (caskNo h)) F.CSK_CFG_EN 1

/-- FLUSH (R139): committed packets with no word read are discarded, the partly read one stays, open ones are marked. -/
def State.doFlush (s : State) (h : Nat) : State :=
  let c := s.cask h
  let keep := if c.ridx = 0 then [] else c.pkts.take 1
  ((s.setCask h { c with pkts := keep, opens := c.opens.map (fun o => (o.1, { o.2 with flushed := true })) }).bumpBy
    (CSK.DISCARDED_LO (caskDie h)) (c.pkts.length - keep.length) HIF.EVT F.HIF_EVT_CSKCNT)

/-- CREATE, FLUSH and DESTROY, ignored while CMD_STATUS.READY is 0 (R143). -/
def State.cskCreate (s : State) (h : Nat) : State :=
  if !s.ready (CSK.CMD_STATUS (caskDie h)) then s
  else
    let s1 := s.cskBegin h
    if s.createCode h = 0 then (s1.doCreate h).cskPost h 1 0 else s1.cskPost h 1 (s.createCode h)

def State.cskFlush (s : State) (h : Nat) : State :=
  if !s.ready (CSK.CMD_STATUS (caskDie h)) then s
  else
    let s1 := s.cskBegin h
    if !s.caskOn h then s1.cskPost h 2 0x0106
    else
      let s2 := s1.doFlush h
      ({ s2 with flushing := sput s2.flushing (caskDie h) h } : State).flushCheck h

def State.cskDestroy (s : State) (h : Nat) : State :=
  if !s.ready (CSK.CMD_STATUS (caskDie h)) then s
  else
    let s1 := s.cskBegin h
    if !s.caskOn h then s1.cskPost h 3 0x0106
    else if (s.cask h).used ≠ 0 ∨ (s.cask h).openWords ≠ 0 ∨ s.hasLanes h then s1.cskPost h 3 0x0107
    else ((s1.setCask h Cask.init).put (CSK.CFG (caskDie h) (caskNo h)) F.CSK_CFG_EN 0).cskPost h 3 0

/-- An invalid command (OP 0b00). -/
def State.cskInvalid (s : State) (h : Nat) : State :=
  if !s.ready (CSK.CMD_STATUS (caskDie h)) then s
  else (s.cskBegin h).cskPost h 0 0x0108

/-! ## The host's own packets (HWCTL) -/

/-- HWR0 to HWR3 as one word. -/
def State.hostWord (s : State) (d : Nat) : BitVec 128 :=
  s.reg (CSK.HWR d 3) ++ s.reg (CSK.HWR d 2) ++ s.reg (CSK.HWR d 1) ++ s.reg (CSK.HWR d 0)

/-- PUSH offers HWR0 to HWR3. -/
def State.hwPush (s : State) (h : Nat) : State :=
  let st := CSK.HW_STATUS (caskDie h)
  if !s.caskOn h then (s.offerWord h .host ⟨s.hostWord (caskDie h), false⟩).post st 0x0204
  else if s.accepts h .host then (s.offerWord h .host ⟨s.hostWord (caskDie h), false⟩).post st 0
  else (s.offerWord h .host ⟨s.hostWord (caskDie h), false⟩).post st 0x0201

/-- COMMIT, plain or .REL: in a model whose commands take effect in order the .REL doorbell finds every earlier host
write performed (R52). -/
def State.hwCommit (s : State) (h : Nat) : State :=
  let st := CSK.HW_STATUS (caskDie h)
  if !s.caskOn h then s.post st 0x0204
  else if ((s.cask h).openOf .host).isNone then s.post st 0x0201
  else (s.commitPkt h .host).post st 0

def State.hwAbort (s : State) (h : Nat) : State :=
  let st := CSK.HW_STATUS (caskDie h)
  if !s.caskOn h then s.post st 0x0204
  else if ((s.cask h).openOf .host).isNone then s.post st 0x0201
  else (s.abandonPkt h .host).post st 0

/-- ADV consumes the word shown in PEEK. -/
def State.hwAdv (s : State) (h : Nat) : State :=
  let st := CSK.HW_STATUS (caskDie h)
  if !s.caskOn h then s.post st 0x0204 else (s.consume h).post st 0

end Sys2Proof.Machine
end

