-- ==== Sys2Proof/Machine/Context.lean ====
section
/-!
DEFINITION. The fields of a termination context (R169) and of a chain instruction (R173), read from the context's 256
bytes and the instruction's 64 bits.
-/

namespace Sys2Proof.Machine

/-! ## Context fields (R169) -/

/-- Word i of a context. -/
def ctxW (c : List Byte) (i : Nat) : Nat := leAt c (4 * i) 4

def ctxKind (c : List Byte) : Nat := bits (ctxW c 0) 31 30
def ctxPeriodCode (c : List Byte) : Nat := bits (ctxW c 0) 29 27
def ctxClass (c : List Byte) : Nat := bits (ctxW c 0) 26 24
def ctxTid (c : List Byte) : BitVec 18 := BitVec.ofNat 18 (ctxW c 0)
def ctxVersion (c : List Byte) : BitVec 16 := BitVec.ofNat 16 (ctxW c 1 / 65536)
def ctxAseq (c : List Byte) : Nat := ctxW c 1 % 65536
def ctxPeer (c : List Byte) : BitVec 18 := BitVec.ofNat 18 (ctxW c 2)
/-- START of chain 0 or 1. -/
def ctxStart (c : List Byte) (chain : Fin 2) : Nat :=
  if chain = 0 then bits (ctxW c 3) 25 24 else bits (ctxW c 3) 27 26
def ctxPolClass (c : List Byte) : Nat := bits (ctxW c 3) 23 16
def ctxPhase (c : List Byte) : Nat := ctxW c 3 % 65536
/-- The DPA of the chain program. -/
def ctxProg (c : List Byte) : Nat := ctxW c 4 * 256
/-- The DPA of the state region. -/
def ctxStBase (c : List Byte) : Nat := ctxW c 5 * 256
def ctxStSize (c : List Byte) : Nat := ctxW c 6 % 65536
def ctxEvCask (c : List Byte) : Nat := ctxW c 7 % 16384
def ctxEvMask (c : List Byte) (k : Nat) : Bool := bit (ctxW c 7) (16 + k)
/-- The DPA of the Vat slot, 0 where there is none. -/
def ctxVatSlot (c : List Byte) : Nat := ctxW c 8 % 2 ^ 28 * 4096
def ctxOutLead (c : List Byte) : Nat := ctxW c 9 % 65536
def ctxJbTgt (c : List Byte) : Nat := ctxW c 12 % 65536
def ctxCmr (c : List Byte) : Nat := bits (ctxW c 12) 19 16
def ctxNlp (c : List Byte) : Nat := bits (ctxW c 12) 22 20
/-- The hint for window i. -/
def ctxHint (c : List Byte) (i : Nat) : Nat := bits (ctxW c 13) (8 * i + 7) (8 * i)
def ctxPort (c : List Byte) : Nat := bits (ctxW c 16) 5 0
def ctxTslot (c : List Byte) : Nat := bits (ctxW c 16) 25 16
def ctxLaw (c : List Byte) : Nat := bits (ctxW c 16) 29 28
def ctxTxCask (c : List Byte) : Nat := bits (ctxW c 16) 13 0
def ctxPt (c : List Byte) : Nat := bits (ctxW c 16) 22 16
def ctxFpp (c : List Byte) : Nat := bits (ctxW c 16) 27 24
def ctxSsrc (c : List Byte) : Nat := ctxW c 17
def ctxTmplOff (c : List Byte) : Nat := bits (ctxW c 18) 15 0
def ctxTmplLen (c : List Byte) : Nat := bits (ctxW c 18) 23 16
def ctxSrtpx (c : List Byte) : Nat := bits (ctxW c 19) 17 0
/-- Member k of a VIRT termination: present, and its TID. -/
def ctxMember (c : List Byte) (k : Nat) : Option (BitVec 18) :=
  if bit (ctxW c (16 + k)) 31 then some (BitVec.ofNat 18 (ctxW c (16 + k))) else none
def ctxSeq (c : List Byte) : Nat := ctxW c 32 % 65536
def ctxTs (c : List Byte) : Nat := ctxW c 33
def ctxHeld (c : List Byte) : Nat := ctxW c 34 % 16

/-- The chain period in ms (R169), 10 for a reserved code, which no committed context holds. -/
def ctxPeriod (c : List Byte) : Nat :=
  match ctxPeriodCode c with
  | 0 => 5
  | 1 => 10
  | 2 => 20
  | 3 => 30
  | 4 => 40
  | 5 => 60
  | _ => 10

/-- The context in force of a slot, in the cluster store (R165). -/
def State.ctx (s : State) (n slot : Nat) : List Byte := s.bytes (slotDpa n slot) 256

/-- The DPA of state at an offset of a context's state region. -/
def ctxArea (c : List Byte) (soff : Nat) : Nat := ctxStBase c + 256 * soff

/-- The cluster and slot at which a TID is homed, not FREE (R165). -/
def State.homeOf (s : State) (tid : BitVec 18) : Option (Nat × Nat) :=
  (s.slots.find? (fun e => e.2.st != .free && e.2.tid == tid && !s.isTarget (e.1 / 8192) (e.1 % 8192))).map
    (fun e => (e.1 / 8192, e.1 % 8192))

/-- The peer's slot on the same cluster, in one of the states (R164, R180); a VIRT termination names none (R169). -/
def State.peerSlot (s : State) (n : Nat) (c : List Byte) (ok : SlotState → Bool) : Option Nat :=
  if ctxKind c = 2 then none else match s.slotOf n (ctxPeer c) with
  | some k => if ok (s.slot n k).st then some k else none
  | none => none

def isHeldState : SlotState → Bool
  | .reserved => true
  | .live => true
  | .idle => true
  | .free => false
  | .deleting => false

def isLive : SlotState → Bool
  | .live => true
  | .reserved => false
  | .idle => false
  | .free => false
  | .deleting => false

/-- The peer is LIVE, with its slot (R180). -/
def State.livePeer (s : State) (n : Nat) (c : List Byte) : Option Nat := s.peerSlot n c isLive

/-! ## Chain instruction fields (R173) -/

def ciOp (w : Nat) : Nat := bits w 63 56
def ciOpt (w : Nat) : Bool := bit w 55
def ciTrace (w : Nat) : Bool := bit w 54
def ciBi (w : Nat) : Nat := bits w 51 49
def ciBo (w : Nat) : Nat := bits w 48 46
/-- Operand A, bit numbers as in the tables: A[45:32] is bits 13 to 0 here. -/
def ciA (w hi lo : Nat) : Nat := bits w hi lo
def ciS (w : Nat) : Bool := bit w 45
def ciSoff (w : Nat) : Nat := bits w 31 16
def ciB (w : Nat) : Nat := bits w 15 0
def ciCodec (w : Nat) : Nat := bits w 45 40
def ciMode (w : Nat) : Nat := bits w 39 32

/-! ## Opcodes (R177) -/

def opLineIn : Nat := 0x01
def opLineOut : Nat := 0x02
def opPktIn : Nat := 0x03
def opPktOut : Nat := 0x04
def opEc : Nat := 0x10
def opEcRef : Nat := 0x11
def opToneDet : Nat := 0x18
def opToneGen : Nat := 0x19
def opDec : Nat := 0x20
def opEnc : Nat := 0x21
def opPlc : Nat := 0x22
def opVad : Nat := 0x23
def opCng : Nat := 0x24
def opSrc : Nat := 0x28
def opGain : Nat := 0x30
def opMix : Nat := 0x31
def opVdeRx : Nat := 0x38
def opVdeTx : Nat := 0x39
def opFaxrelay : Nat := 0x3A
def opMeter : Nat := 0x40
def opFork : Nat := 0x41
def opCall : Nat := 0x50
def opHandoff : Nat := 0x60
def opEnd : Nat := 0x7F

/-- The 64-bit instruction i of a chain of a program (R172). -/
def State.chainInstr (s : State) (prog : Nat) (chain : Fin 2) (i : Nat) : Nat :=
  s.le (prog + 256 * chain.val + 8 * i) 8

/-- The END word of a chain, where it holds one. -/
def State.endWord (s : State) (prog : Nat) (chain : Fin 2) : Option Nat :=
  ((List.range 32).map (s.chainInstr prog chain)).find? (fun w => ciOp w == opEnd)

/-- The instructions of a chain up to and with END, or none where it holds no END (R172). -/
def State.chainWords (s : State) (prog : Nat) (chain : Fin 2) : Option (List Nat) :=
  let ws := (List.range 32).map (s.chainInstr prog chain)
  if ws.any (fun w => ciOp w == opEnd) then
    some (ws.takeWhile (fun w => ciOp w != opEnd) ++ [opEnd * 2 ^ 56])
  else none

end Sys2Proof.Machine
end

