-- ==== Sys2Proof/Machine/Program.lean ====
section
/-!
DEFINITION. What a commit checks in a chain program, and what the program costs (R174, R177, R189, R192, R213, R214,
R226, R241, R243 to R250, R256, R258, R261, R266).
-/

namespace Sys2Proof.Machine

/-- What a block holds as far as a commit can tell (R174): nothing yet, samples of a rate (kHz), coded frames, or the
output of an instruction whose rate the program does not fix. -/
inductive BType where
  | unset
  | pcm (khz : Nat)
  | coded
  | any
  deriving DecidableEq, Repr

/-- The commit codes that a program's own checks give (R188). -/
structure Faults where
  program : Bool
  context : Bool
  peer : Bool
  area : Bool
  deriving DecidableEq, Repr

def Faults.none : Faults := ⟨false, false, false, false⟩

def Faults.or (a b : Faults) : Faults :=
  ⟨a.program || b.program, a.context || b.context, a.peer || b.peer, a.area || b.area⟩

/-- What a walk along a chain gathers; `fork` is the rate in kHz of the block that a FORK gave the mixer. -/
structure Walk where
  types : List BType
  fork : Option Nat
  cost : Nat
  opt : Nat
  units : Units
  bad : Faults
  deriving DecidableEq, Repr

def Walk.init : Walk := ⟨List.replicate 8 .unset, none, 0, 0, ⟨0, 0, 0, 0⟩, Faults.none⟩

def Units.add (a b : Units) : Units := ⟨a.vat + b.vat, a.tone + b.tone, a.src + b.src, a.vde + b.vde⟩

def Units.max (a b : Units) : Units :=
  ⟨Nat.max a.vat b.vat, Nat.max a.tone b.tone, Nat.max a.src b.src, Nat.max a.vde b.vde⟩

/-! ## Codecs (R243 to R247, R256) -/

def rateKhz (code : Nat) : Nat :=
  match code with
  | 0 => 8
  | 1 => 16
  | 2 => 32
  | _ => 48

/-- The rate code of a rate in kHz. -/
def khzCode (k : Nat) : Fin 4 := if k = 8 then 0 else if k = 16 then 1 else if k = 32 then 2 else 3

/-- The row of the cost table: 0 narrow band, 1 wide band, 2 super-wide band, 3 full band. -/
def codecRow (codec : Nat) (enc : Bool) (mode b : Nat) : Nat :=
  if codec = 0x08 then
    if enc then (match mode % 16 with | 0 => 0 | 1 => 1 | 2 => 1 | 3 => 2 | _ => 3)
    else (match bits b 9 8 with | 0 => 0 | 1 => 1 | _ => 3)
  else if codec = 0x09 then
    if enc then (if bit mode 7 then 1 else bits mode 6 5)
    else (match bits b 9 8 with | 0 => 0 | 1 => 1 | _ => 2)
  else 0

/-- Cycles of ENC for 10 ms (R256). -/
def encCost (codec mode b : Nat) : Nat :=
  let c := mode / 16
  match codec with
  | 0x01 => 2400
  | 0x02 => 2400
  | 0x03 => 30000
  | 0x04 => 24000
  | 0x05 => 105000
  | 0x06 => 170000
  | 0x07 => 230000
  | 0x08 => (match codecRow 8 true mode b with
      | 0 => 120000 + 24000 * c
      | 1 => 160000 + 40000 * c
      | 2 => 240000 + 60000 * c
      | _ => 280000 + 70000 * c)
  | 0x09 => (match codecRow 9 true mode b with
      | 0 => 400000
      | 1 => 520000
      | _ => 600000)
  | 0x0A => 1200
  | _ => 0

/-- Cycles of DEC for 10 ms (R256). -/
def decCost (codec b : Nat) : Nat :=
  match codec with
  | 0x01 => 8000
  | 0x02 => 8000
  | 0x03 => 28000
  | 0x04 => 22000
  | 0x05 => 70000
  | 0x06 => 90000
  | 0x07 => 120000
  | 0x08 => (match codecRow 8 false 0 b with
      | 0 => 90000
      | 1 => 170000
      | 2 => 220000
      | _ => 260000)
  | 0x09 => (match codecRow 9 false 0 b with
      | 0 => 160000
      | 1 => 200000
      | _ => 230000)
  | 0x0A => 1200
  | _ => 0

/-- Cycles of PLC for 10 ms (R256), for the row of a DEC's options where it stands in for one. -/
def plcCost (codec b : Nat) : Nat :=
  match codec with
  | 0x01 => 6000
  | 0x02 => 6000
  | 0x03 => 20000
  | 0x04 => 10000
  | 0x05 => 24000
  | 0x06 => 40000
  | 0x07 => 60000
  | 0x08 => (match codecRow 8 false 0 b with
      | 0 => 60000
      | 1 => 110000
      | 2 => 140000
      | _ => 160000)
  | 0x09 => (match codecRow 9 false 0 b with
      | 0 => 100000
      | 1 => 120000
      | _ => 140000)
  | 0x0A => 4000
  | _ => 0

/-- State units of ENC and DEC at SOFF (R256). -/
def encState (codec : Nat) : Nat :=
  match codec with
  | 0x01 => 1
  | 0x02 => 1
  | 0x03 => 2
  | 0x04 => 1
  | 0x05 => 8
  | 0x06 => 8
  | 0x07 => 16
  | 0x08 => 40
  | 0x09 => 48
  | _ => 1

def decState (codec : Nat) : Nat :=
  match codec with
  | 0x01 => 4
  | 0x02 => 4
  | 0x03 => 8
  | 0x04 => 4
  | 0x05 => 6
  | 0x06 => 6
  | 0x07 => 12
  | 0x08 => 24
  | 0x09 => 32
  | _ => 4

/-- The declared cost of one run of p ms (R256). -/
def perRun (c10 p : Nat) : Nat := (c10 * p + 9) / 10

/-- The frame of ENC or DEC in ms, 0 where the codec has none (R243, R249). A DEC of Opus takes the frames it is sent. -/
def codecFrame (codec : Nat) (enc : Bool) (b : Nat) : Nat :=
  match codec with
  | 0x05 => 10
  | 0x06 => 20
  | 0x07 => 20
  | 0x08 => if enc then (match bits b 6 5 with | 0 => 10 | 1 => 20 | 2 => 40 | _ => 60) else 0
  | 0x09 => 20
  | _ => 0

/-- The PCM rate of a codec's output (R243, R247). -/
def decKhz (codec b : Nat) : Nat :=
  match codec with
  | 0x03 => 16
  | 0x07 => 16
  | 0x08 => rateKhz (bits b 9 8)
  | 0x09 => rateKhz (bits b 9 8)
  | 0x0A => rateKhz (bits b 9 8)
  | _ => 8

/-- The rates that ENC takes (R243, R246). -/
def encTakes (codec mode khz : Nat) : Bool :=
  match codec with
  | 0x03 => khz == 16
  | 0x07 => khz == 16
  | 0x08 => (match mode % 16 with
      | 0 => khz == 8
      | 1 => khz == 16
      | 2 => khz == 16
      | 3 => khz == 48
      | 4 => khz == 48
      | _ => false)
  | 0x09 =>
      if bit mode 7 then khz == 16
      else (match bits mode 6 5 with
        | 0 => khz == 8
        | 1 => khz == 16
        | 2 => khz == 32
        | _ => false)
  | 0x0A => true
  | _ => khz == 8

/-- The mode byte is in range (R243, R246). -/
def modeOk (codec : Nat) (enc : Bool) (mode : Nat) : Bool :=
  match codec with
  | 0x03 => if enc then mode == 0 else decide (mode ≤ 2)
  | 0x04 => decide (mode ≤ 3)
  | 0x06 => if enc then decide (mode ≤ 7) else mode == 0
  | 0x07 => if enc then decide (mode ≤ 8) else mode == 0
  | 0x08 => if enc then decide (mode / 16 ≤ 10) && decide (mode % 16 ≤ 4) else mode == 0
  | 0x09 =>
      if enc then
        if bit mode 7 then bits mode 6 5 == 0 && decide (mode % 32 ≤ 8)
        else decide (bits mode 6 5 ≤ 2) && decide (mode % 32 ≤ 5) &&
          (bits mode 6 5 != 2 || decide (2 ≤ mode % 32))
      else mode == 0
  | _ => mode == 0

/-- The options B that a codec allows (R247). -/
def optionsOk (codec : Nat) (enc : Bool) (b : Nat) : Bool :=
  let variant := if codec = 0x04 ∨ codec = 0x06 ∨ codec = 0x07 ∨ codec = 0x09 then 0x10 else 0
  if enc then
    let dtx := if codec = 0x05 ∨ codec = 0x06 ∨ codec = 0x07 ∨ codec = 0x08 ∨ codec = 0x09 then 0x2 else 0
    let follow := if codec = 0x06 ∨ codec = 0x07 ∨ codec = 0x09 then 0x4 else 0
    let opus := if codec = 0x08 then 0xFFE0 else 0
    (b &&& (0xFFFF - (variant + dtx + follow + opus))) == 0 &&
      (codec != 0x08 || decide (3 ≤ bits b 15 8))
  else
    let outrate := if codec = 0x08 ∨ codec = 0x09 ∨ codec = 0x0A then 0x300 else 0
    (b &&& (0xFFFF - (variant + outrate + 1))) == 0 &&
      !(codec == 0x08 && bits b 9 8 == 2) && !(codec == 0x09 && bits b 9 8 == 3)

def codecExists (codec : Nat) : Bool := decide (1 ≤ codec) && decide (codec ≤ 10)

/-- The frame and the period divide one another (R249). -/
def frameOk (f p : Nat) : Bool := f == 0 || p % f == 0 || f % p == 0

/-! ## Profiles (R195, R216, R229, R242) -/

/-- An address lies in installed DRAM. -/
def State.inDram (s : State) (a : Nat) : Bool := match placeOf a with | .dram _ => s.mapped a | _ => false

/-- A signed 8-bit field lies in a range. -/
def inRange8 (v : Nat) (lo hi : Int) : Bool := decide (lo ≤ toSigned 8 v) && decide (toSigned 8 v ≤ hi)

/-- A Vat profile is valid (R195, R216). -/
def State.vatProfileOk (s : State) (n p : Nat) : Bool :=
  let a := VAT.PW0 n p
  let nwin := s.rf a F.VAT_PW0_NWIN
  let wlen := 16 * (s.rf a F.VAT_PW0_WLEN + 1)
  let tail := 16 * s.rf a F.VAT_PW0_TAIL
  decide (1 ≤ nwin) && decide (nwin ≤ 4) && decide (16 ≤ tail) && decide (tail ≤ 512) &&
    decide (nwin * wlen ≤ 128) && decide (nwin * wlen ≤ tail) &&
    s.rf a F.VAT_PW0_CNG != 3 && s.rf a F.VAT_PW0_DISABLER != 3

/-- A call-progress entry is valid (R229). -/
def State.cpEntryOk (s : State) (n e : Nat) : Bool :=
  let f1 := s.rf (TONE.CPE0 n e) F.TONE_CPE0_F1
  decide (100 ≤ f1) && decide (f1 ≤ 3400) && decide (s.rf (TONE.CPE1 n e) F.TONE_CPE1_NSEG ≤ 4) &&
    inRange8 (s.rf (TONE.CPE1 n e) F.TONE_CPE1_MINLEV) (-50) (-10)

/-- A detection profile is valid (R229). -/
def State.detProfileOk (s : State) (n p : Nat) : Bool :=
  decide (2 ≤ s.rf (TONE.DPW1 n p) F.TONE_DPW1_DTMFON) &&
    inRange8 (s.rf (TONE.DPW1 n p) F.TONE_DPW1_DTMFMIN) (-45) (-10) &&
    decide (2 ≤ s.rf (TONE.DPW2 n p) F.TONE_DPW2_R2ON) &&
    inRange8 (s.rf (TONE.DPW2 n p) F.TONE_DPW2_R2MIN) (-45) (-10) &&
    decide (2 ≤ s.rf (TONE.DPW2 n p) F.TONE_DPW2_MFON) && decide (s.rf (TONE.DPW2 n p) F.TONE_DPW2_MFON ≤ 10) &&
    inRange8 (s.rf (TONE.DPW2 n p) F.TONE_DPW2_MFMIN) (-45) (-10) &&
    inRange8 (s.rf (TONE.DPW3 n p) F.TONE_DPW3_FAXMIN) (-50) (-10) &&
    (List.range 16).all (fun e => !bit (s.rf (TONE.DPW0 n p) F.TONE_DPW0_CPMASK) e || s.cpEntryOk n e)

/-- A generator profile is valid (R229). -/
def State.genProfileOk (s : State) (n g : Nat) : Bool :=
  let w := TONE.GPW0 n g
  let half := if s.rb w F.TONE_GPW0_RATE then 8000 else 4000
  let f1 := s.rf (TONE.GPW1 n g) F.TONE_GPW1_F1
  let f2 := s.rf (TONE.GPW1 n g) F.TONE_GPW1_F2
  decide (s.rf w F.TONE_GPW0_NSEG ≤ 4) && inRange8 (s.rf w F.TONE_GPW0_L1) (-60) 0 &&
    inRange8 (s.rf w F.TONE_GPW0_L2) (-60) 0 && s.rf w F.TONE_GPW0_TYPE != 3 &&
    (s.rf w F.TONE_GPW0_TYPE != 0 || (decide (f1 < half) && (f2 == 0 || decide (f2 < half))))

/-- A VDE profile is valid (R242). -/
def State.vdeProfileOk (s : State) (n p : Nat) : Bool :=
  let a := VDE.PW0 n p
  let b := VDE.PW1 n p
  let hs := s.rf a F.VDE_PW0_HSMOD
  (hs == 0 || (decide (2 ≤ hs) && decide (hs ≤ 10))) && decide (s.rf a F.VDE_PW0_T38VER ≤ 1) &&
    decide (s.rf a F.VDE_PW0_RED ≤ 4) && inRange8 (s.rf a F.VDE_PW0_RXTHR) (-48) (-26) &&
    decide (5 ≤ s.rf b F.VDE_PW1_LOSSMS) && decide (s.rf b F.VDE_PW1_LOSSMS ≤ 100) &&
    inRange8 (s.rf b F.VDE_PW1_TXLEV) (-15) 0 && decide (5 ≤ s.rf b F.VDE_PW1_QWIN) &&
    decide (10 ≤ s.rf b F.VDE_PW1_UNDERMAX)

/-! ## The resampler's sets (R258, R266) -/

/-- The set of an SRC accepts its pair of rates in kHz. -/
def State.srcSetOk (s : State) (n set inK outK : Nat) : Bool :=
  match set with
  | 0 => inK == 8 && outK == 8
  | 1 => Nat.max inK outK == 16
  | 2 => Nat.max inK outK == 32
  | 3 => Nat.max inK outK == 48
  | 4 => true
  | k =>
    let a := SRC.UINFO n (k - 5)
    s.rb a F.SRC_UINFO_LOADED && rateKhz (s.rf a F.SRC_UINFO_INRATE) == inK &&
      rateKhz (s.rf a F.SRC_UINFO_OUTRATE) == outK

def srcUnits (inK outK : Nat) : Nat := (Nat.max inK outK + 15) / 16

/-! ## The walk -/

/-- Samples per run at a rate ÷ 80, rounded up (R177). -/
def nOf (khz p : Nat) : Nat := (khz * p + 79) / 80

def BType.khz : BType → Nat
  | .pcm k => k
  | .unset => 8
  | .coded => 8
  | .any => 8

def BType.isPcm : BType → Bool
  | .pcm _ => true
  | .any => true
  | .unset => false
  | .coded => false

def BType.isRate (t : BType) (ok : Nat → Bool) : Bool :=
  match t with
  | .pcm k => ok k
  | .any => true
  | .unset => false
  | .coded => false

def BType.isCoded : BType → Bool
  | .coded => true
  | .any => true
  | .unset => false
  | .pcm _ => false

def BType.isSet (t : BType) : Bool := t != .unset

/-- Units of 256 bytes of state that a kernel's instruction has at SOFF (R177, R256, R241). -/
def stateUnits (w : Nat) : Option Nat :=
  let op := ciOp w
  if op = opDec then some (decState (ciCodec w))
  else if op = opEnc then some (encState (ciCodec w))
  else if op = opPlc then some 4
  else if op = opFaxrelay then some 8
  else if op = opPktOut ∨ op = opVad ∨ op = opCng ∨ op = opMeter then some 1
  else none

/-- The context's facts that the walk needs. -/
structure WalkCtx where
  n : Nat
  ctx : List Byte
  p : Nat
  stsize : Nat
  peerHeld : Bool
  hasEc : Bool
  members : Nat
  mixSize : Nat
  deriving DecidableEq, Repr

/-- One instruction's effect on the walk: the type it writes, its cost and units, and the checks it fails. -/
structure WalkOut where
  out : Option BType
  cost : Nat
  units : Units
  bad : Faults
  deriving DecidableEq, Repr

def noUnits : Units := ⟨0, 0, 0, 0⟩

/-- A failed program check, and a state area that must lie within STSIZE (R188). -/
def progBad (ok : Bool) : Faults := { Faults.none with program := !ok }
def areaBad (x : WalkCtx) (soff units : Nat) : Faults := { Faults.none with area := decide (x.stsize < soff + units) }
def peerBad (needs : Bool) (x : WalkCtx) : Faults := { Faults.none with peer := needs && !x.peerHeld }

/-- A mixer lies in the state region of the VIRT peer, which must hold its 264 units (R179, R188). -/
def mixBad (x : WalkCtx) : Faults := { Faults.none with area := decide (x.mixSize < 264) }

/-- The checks and figures of one instruction other than END (R177 and the chapters it names). `before` and `after` hold the
other instructions of the chain, `fork` the rate that a FORK before it gave the mixer. -/
def State.walkOne (s : State) (x : WalkCtx) (fork : Option Nat) (bi : BType) (before after : List Nat) (w : Nat) : WalkOut :=
  let n := nOf bi.khz x.p
  let soff := ciSoff w
  let soff0 := soff == 0
  let b0 := ciB w == 0
  let noA (hi lo : Nat) : Bool := bits w hi lo == 0
  let mk (out : Option BType) (cost : Nat) (u : Units) (ok : Bool) (f : Faults) : WalkOut :=
    ⟨out, cost, u, (progBad ok).or f⟩
  let op := ciOp w
  if op = opLineIn then
    mk (some (.pcm 8)) (1800 + 200 * nOf 8 x.p) noUnits (noA 44 32 && soff0 && b0) (peerBad (ciS w) x)
  else if op = opLineOut then
    mk none (1800 + 200 * n) noUnits (noA 44 32 && soff0 && b0 && bi.isRate (· == 8)) (peerBad (ciS w) x)
  else if op = opPktIn then
    mk (some .coded) 2000 noUnits (noA 44 32 && soff0 && b0) (peerBad (ciS w) x)
  else if op = opPktOut then
    mk none 1800 noUnits (noA 44 32 && b0 && bi.isCoded) ((peerBad (ciS w) x).or (areaBad x soff 1))
  else if op = opEc then
    mk (some bi) 0 ⟨if bi.khz = 16 then 2 else 1, 0, 0, 0⟩
      (noA 41 32 && soff0 && b0 && bi.isRate (fun k => k == 8 || k == 16) && s.vatProfileOk x.n (bits w 45 42))
      { Faults.none with context := !(ctxVatSlot x.ctx != 0 &&
          s.inDram (ctxVatSlot x.ctx) && s.inDram (ctxVatSlot x.ctx + (if bi.khz = 16 then 24575 else 12287))) }
  else if op = opEcRef then
    mk (some bi) 0 noUnits (noA 44 32 && soff0 && b0 && bi.isPcm && (ciS w || x.hasEc)) (peerBad (ciS w) x)
  else if op = opToneDet then
    let p := bits w 43 40
    mk (some bi) 0 ⟨0, if bi.khz = 16 then 2 else 1, 0, 0⟩
      (bits w 44 44 == 0 && noA 39 32 && b0 && bi.isRate (fun k => k == 8 || k == 16) &&
        (s.rf (TONE.DUSERS x.n p) F.TONE_DUSERS_USERS != 0 || s.detProfileOk x.n p)) Faults.none
  else if op = opToneGen then
    let g := bits w 43 40
    let khz := if s.rb (TONE.GPW0 x.n g) F.TONE_GPW0_RATE then 16 else 8
    let add := bit w 44
    mk (some (.pcm khz)) 0 ⟨0, 1, 0, 0⟩
      (bits w 45 45 == 0 && noA 39 32 && b0 && (!add || bi.isRate (· == khz)) &&
        (s.rf (TONE.GUSERS x.n g) F.TONE_GUSERS_USERS != 0 || s.genProfileOk x.n g)) (areaBad x soff 1)
  else if op = opDec then
    let c := ciCodec w
    mk (some (.pcm (decKhz c (ciB w)))) (perRun (decCost c (ciB w)) x.p) noUnits
      (!ciOpt w && codecExists c && modeOk c false (ciMode w) && optionsOk c false (ciB w) && bi.isCoded &&
        frameOk (codecFrame c false (ciB w)) x.p && decide (decKhz c (ciB w) * x.p ≤ 2048))
      (areaBad x soff (decState c))
  else if op = opEnc then
    let c := ciCodec w
    let follow := bit (ciB w) 2
    let peerDec := match s.slotOf x.n (ctxPeer x.ctx) with
      | some k =>
        let pc := s.ctx x.n k
        let img := match (s.slot x.n k).pending with | some cm => if cm.delete then pc else cm.image | none => pc
        ([0, 1] : List (Fin 2)).any (fun ch => ctxStart img ch != 0 &&
          match s.chainWords (ctxProg img) ch with
          | some ws => ws.any (fun v => ciOp v == opDec && ciCodec v == c && ciSoff v == soff)
          | none => false)
      | none => false
    mk (some .coded) (perRun (encCost c (ciMode w) (ciB w)) x.p) noUnits
      (!ciOpt w && codecExists c && modeOk c true (ciMode w) && optionsOk c true (ciB w) &&
        bi.isRate (encTakes c (ciMode w)) && frameOk (codecFrame c true (ciB w)) x.p)
      ((areaBad x soff (encState c)).or { Faults.none with peer := follow && !(x.peerHeld && peerDec) })
  else if op = opPlc then
    let c := ciCodec w
    mk (some bi) (perRun (plcCost c 0) x.p) noUnits
      (!ciOpt w && (((c == 1 || c == 2) && bi.isRate (· == 8)) || (c == 0x0A && bi.isPcm)) && noA 39 32 && b0) (areaBad x soff 4)
  else if op = opVad then
    mk (some bi) (1000 + 300 * n) noUnits (noA 45 32 && b0 && bi.isPcm) (areaBad x soff 1)
  else if op = opCng then
    mk (some bi) (1200 + 400 * n) noUnits (noA 39 32 && b0 && bi.isPcm && codecExists (ciCodec w)) (areaBad x soff 1)
  else if op = opSrc then
    let outK := rateKhz (bits w 42 40)
    mk (some (.pcm outK)) 0 ⟨0, 0, srcUnits bi.khz outK, 0⟩
      (decide (bits w 42 40 ≤ 3) && bits w 39 38 != 3 && noA 37 32 && b0 && bi.isPcm &&
        s.srcSetOk x.n (bits w 45 43) bi.khz outK && (!ciOpt w || bi.khz == outK) && decide (outK * x.p ≤ 2048))
      (areaBad x soff 4)
  else if op = opGain then
    mk (some bi) (2800 + 200 * n) noUnits (noA 45 32 && soff0 && bi.isPcm) Faults.none
  else if op = opMix then
    let khz := fork.getD 8
    mk (some (.pcm khz)) (1800 + 300 * nOf khz x.p * (x.members - 1)) noUnits (noA 42 32 && soff0) ((peerBad true x).or (mixBad x))
  else if op = opVdeRx then
    mk (some bi) 0 ⟨0, 0, 0, 2⟩
      (noA 39 32 && b0 && decide (ciCodec w ≤ 15) && s.vdeProfileOk x.n (ciCodec w) && bi.isRate (· == 8))
      (areaBad x soff 8)
  else if op = opVdeTx then
    mk (some (.pcm 8)) 0 ⟨0, 0, 0, 2⟩
      (noA 39 32 && b0 && decide (ciCodec w ≤ 15) && s.vdeProfileOk x.n (ciCodec w)) (areaBad x soff 8)
  else if op = opFaxrelay then
    let m := bits w 45 44
    mk none (8000 + 2000 * nOf 8 x.p) noUnits
      (noA 43 32 && b0 &&
        ((m == 0 && before.any (fun v => ciOp v == opVdeRx && ciSoff v == soff)) ||
         (m == 1 && after.any (fun v => ciOp v == opVdeTx && ciSoff v == soff))))
      (peerBad (ctxKind x.ctx != 1) x)
  else if op = opMeter then
    mk (some bi) (5000 + 1000 * n) noUnits (noA 45 32 && b0 && bi.isPcm) (areaBad x soff 1)
  else if op = opFork then
    let t := bits w 45 44
    mk (some bi) 0 noUnits (decide (t ≤ 1) && noA 40 32 && soff0 && bits w 15 14 == 0 && bi.isSet)
      (if t = 0 then (peerBad true x).or (mixBad x) else Faults.none)
  else if op = opCall then
    let k := ciMode w
    mk (some bi) (s.rf (CTX.UKCTL x.n k) F.CTX_UKCTL_COST) noUnits
      (noA 45 40 && s.rb (CTX.UKCTL x.n k) F.CTX_UKCTL_VALID && bi.isSet) (areaBad x soff 1)
  else if op = opHandoff then
    if bit w 45 then mk (some .any) 0 noUnits (noA 44 32 && b0) (areaBad x soff 33)
    else mk none 0 noUnits (noA 44 32 && b0 && bi.isSet) Faults.none
  else mk none 0 noUnits false Faults.none

/-- The walk past one instruction: reserved bits, the block rules of R174, and what the instruction adds. -/
def State.walkStep (s : State) (x : WalkCtx) (a : Walk) (before after : List Nat) (w : Nat) : Walk :=
  if ciOp w = opEnd then a
  else
    let bi := a.types.getD (ciBi w) .unset
    let o := s.walkOne x a.fork bi before after w
    let tooLong := match o.out with | some (.pcm k) => decide (2048 < k * x.p) | _ => false
    { types := match o.out with | some t => a.types.set (ciBo w) t | none => a.types
      fork := if ciOp w = opFork ∧ bits w 45 44 = 0 then some bi.khz else a.fork
      cost := a.cost + o.cost
      opt := a.opt + (if ciOpt w then o.cost else 0)
      units := a.units.add o.units
      bad := (a.bad.or o.bad).or (progBad (bits w 53 52 == 0 && !tooLong)) }

/-- The walk along a chain, with the instructions already passed. -/
def State.walkList (s : State) (x : WalkCtx) (a : Walk) (before : List Nat) : List Nat → Walk
  | [] => a
  | w :: rest => s.walkList x (s.walkStep x a before rest w) (before ++ [w]) rest

/-- END has no operands (R177), and its bits [53:52] are 0 (R173). -/
def State.endOk (s : State) (prog : Nat) (chain : Fin 2) : Bool :=
  match s.endWord prog chain with
  | some w => bits w 53 52 == 0 && bits w 45 0 == 0
  | none => false

/-- The walk of one chain of a context: nothing where its START is NONE, a program error where it holds no END. -/
def State.walkChain (s : State) (x : WalkCtx) (chain : Fin 2) : Walk :=
  if ctxStart x.ctx chain = 0 then Walk.init
  else match s.chainWords (ctxProg x.ctx) chain with
    | none => { Walk.init with bad := progBad false }
    | some ws =>
      let a := s.walkList x Walk.init [] ws
      { a with bad := a.bad.or (progBad (s.endOk (ctxProg x.ctx) chain)) }

/-- Instructions of both chains that run. -/
def State.programWords (s : State) (c : List Byte) : List Nat :=
  (if ctxStart c 0 = 0 then [] else (s.chainWords (ctxProg c) 0).getD []) ++
    (if ctxStart c 1 = 0 then [] else (s.chainWords (ctxProg c) 1).getD [])

/-- A program word that a commit reads is poisoned: those up to END of the chains whose START is not NONE (R172). -/
def State.programPoisoned (s : State) (c : List Byte) : Bool :=
  ([0, 1] : List (Fin 2)).any (fun ch => ctxStart c ch != 0 &&
    s.poisonedIn (ctxProg c + 256 * ch.val) (8 * max 1 ((s.chainWords (ctxProg c) ch).getD []).length))

/-- The newest image of a slot: the pending one, else that in force. -/
def State.newestCtx (s : State) (n k : Nat) : List Byte :=
  match (s.slot n k).pending with
  | some q => if q.delete then s.ctx n k else q.image
  | none => s.ctx n k

/-- Members of a mixer (R177), at least 1 so that the cost is defined. -/
def memberCount (c : List Byte) : Nat := Nat.max 1 ((List.range 8).filter (fun k => (ctxMember c k).isSome)).length

/-- The context's facts for the walk of a slot's image on a cluster. -/
def State.walkCtx (s : State) (n : Nat) (c : List Byte) : WalkCtx :=
  let peer := s.peerSlot n c isHeldState
  { n := n
    ctx := c
    p := ctxPeriod c
    stsize := ctxStSize c
    peerHeld := peer.isSome
    hasEc := (s.programWords c).any (fun w => ciOp w == opEc)
    members := match peer with | some k => memberCount (s.newestCtx n k) | none => 1
    mixSize := match peer with
      | some k => if (s.slot n k).st = .reserved ∧ (s.slot n k).pending.isNone then 264 else ctxStSize (s.newestCtx n k)
      | none => 264 }

/-- Charge in cycles per 120 ms, its OPT part, units and failed checks of an image (R189, R192). -/
structure Figures where
  charge : Nat
  opt : Nat
  units : Units
  bad : Faults
  deriving DecidableEq, Repr

def State.figures (s : State) (n : Nat) (c : List Byte) : Figures :=
  let x := s.walkCtx n c
  let a := s.walkChain x 0
  let b := s.walkChain x 1
  let k := 120 / x.p
  let ecs := ((s.programWords c).filter (fun w => ciOp w == opEc)).length
  let progOk := bits (ctxW c 4) 0 0 == 0 && (match placeOf (ctxProg c), placeOf (ctxProg c + 511) with | .cellar a, .cellar b => a == b | _, _ => false)
  { charge := (a.cost + b.cost) * k
    opt := (a.opt + b.opt) * k
    units := a.units.add b.units
    bad := (a.bad.or b.bad).or (progBad (decide (ecs ≤ 1) && progOk)) }

end Sys2Proof.Machine
end

