-- ==== Sys2Proof/Machine/Reach.lean ====
section
/-!
DEFINITION. Which registers a host access reaches (R32, R43, R68, R78, R321, R416), and the frame of every command that is
a host's write of a command register.
-/

namespace Sys2Proof.Machine

/-- What a host access to a BAR0 offset meets. -/
inductive Reach where
  | ok
  | decode
  | silent
  | unreachable
  deriving DecidableEq, Repr

/-- The offset belongs to a block of die 1 (R26, R43). -/
def onDie1 (a : Nat) : Bool :=
  (decide (0x60000 ≤ a) && decide (a < 0x70000)) || (decide (0xA0000 ≤ a) && decide (a < 0xC0000)) ||
  (decide (0x200000 ≤ a) && decide (a < 0x300000)) || (decide (0x820000 ≤ a) && decide (a < 0x840000)) ||
  (decide (0x1180000 ≤ a) && decide (a < 0x1300000)) || (decide (0x3000000 ≤ a) && decide (a < 0x4000000))

/-- The cluster whose window holds an offset. -/
def windowOf (a : Nat) : Option Nat :=
  if 0x2000000 ≤ a ∧ a < 0x4000000 then some ((a - 0x2000000) / 0x100000) else none

/-- The sub-block of a cluster window that stays readable in OFF: WS or CTX (R32). -/
def staysReadable (a : Nat) : Bool := decide (a % 0x100000 < 0x20000)

/-- GLB, TIME, EVT and HIF stay accessible in DORMANT (R78). -/
def awakeBlock (a : Nat) : Bool :=
  decide (a < 0x10000) || (decide (0x20000 ≤ a) && decide (a < 0x50000))

/-- The registers that loading the boot image opens (R397). -/
def bootOpen (a : Nat) : Bool :=
  a == SEC.BSTATUS || a == SEC.COPY || a == SEC.BOOTCMD || a == SEC.LDPAGE ||
    (decide (0x18000 ≤ a) && decide (a < 0x20000))

def State.booted (s : State) : Bool := s.rb HIF.STATUS F.HIF_STATUS_BOOTED

/-- The boot port: 0 PCIe, 1 Keyway, none where the part boots from flash (R320). -/
def State.bootPort (s : State) : Option Nat :=
  if s.rf HIF.STATUS F.HIF_STATUS_HOSTSEL < 2 then some (s.rf HIF.STATUS F.HIF_STATUS_HOSTSEL) else none

/-- What an access through a port (0 PCIe, 1 Keyway) to a register meets; a read of GLB.ID and HIF.STATUS is always
open. While a reset holds the package nothing is reached (R417). -/
def State.reach (s : State) (port a : Nat) (read : Bool) : Reach :=
  if s.package.held then .silent
  else if !s.booted && !(s.bootPort == some port && bootOpen a) && !(read && (a == GLB.ID || a == HIF.STATUS)) then .decode
  else if s.divided && onDie1 a then .unreachable
  else match windowOf a with
    | some n => if (s.dormant ∨ s.clState n = stOff) ∧ !staysReadable a then .silent else .ok
    | none => if s.dormant && !awakeBlock a then .silent else .ok

/-- A host's write of a command register takes effect, or is discarded as its target requires. -/
def State.hostOp (s : State) (a : Nat) (f : State → State) : State :=
  match s.reach 0 a false with
  | .ok => f s
  | .decode => s.dropDecode
  | .silent => s
  | .unreachable => s.dropOther

/-- The command of a host's write of a command register. -/
def hostCmd (s : State) (a : Nat) (f : State → State) : Result := .next (s.hostOp a f)

end Sys2Proof.Machine
end

