-- ==== Sys2Proof/Machine/Classifier.lean ====
section
/-!
DEFINITION. The classifier (R267 to R272): its table, the commands INSERT, REMOVE and QUERY, and the lookup of a frame.
-/

namespace Sys2Proof.Machine

/-! ## Entries (R270) -/

def imgW (e : List Byte) (i : Nat) : Nat := leAt e (4 * i) 4
def imgLocal (e : List Byte) : Bool := bit (imgW e 0) 31
def imgType (e : List Byte) : Nat := bits (imgW e 0) 29 28
def imgMux (e : List Byte) : Bool := bit (imgW e 0) 27
def imgPair (e : List Byte) : Bool := bit (imgW e 0) 26
def imgTid (e : List Byte) : BitVec 18 := BitVec.ofNat 18 (imgW e 10)
def imgVersion (e : List Byte) : BitVec 16 := BitVec.ofNat 16 (imgW e 11 / 65536)
def imgPt (e : List Byte) : Nat := imgW e 12 % 128
def imgCodec (w : Nat) : Nat := bits w 13 8
def imgVariant (w : Nat) : Bool := bit w 14
def imgKhz (w : Nat) : Nat := rateKhz (bits w 17 16)
/-- A host queue, where it is enabled: EXQ at bit 0, RTCPQ at bit 8. -/
def imgQueue (e : List Byte) (lo : Nat) : Option Nat :=
  if bit (imgW e 13) (lo + 6) then some (bits (imgW e 13) (lo + 5) lo) else none

/-- The key of an entry: form, IP version, VID, ports and addresses. -/
def imgKey (e : List Byte) : List Byte :=
  leBytes 4 (imgW e 0 &&& 0xC0000FFF) ++ slice e 4 36

/-- The image is valid (code 0x0604). -/
def imageOk (e : List Byte) : Bool :=
  imgType e != 3 && bits (imgW e 0) 25 12 == 0 && bits (imgW e 10) 31 18 == 0 && imgW e 11 % 65536 == 0 &&
    bits (imgW e 12) 31 18 == 0 && !bit (imgW e 12) 15 && !bit (imgW e 12) 7 && bits (imgW e 13) 31 15 == 0 &&
    !bit (imgW e 13) 7 && imgW e 14 == 0 && imgW e 15 == 0 &&
    (!imgLocal e || (imgW e 1 / 65536 == 0 && (slice e 24 16).all (· == 0)))

/-- The image in ENT0 to ENT15. -/
def State.entImage (s : State) : List Byte := (List.range 16).flatMap (fun i => leBytes 4 (s.rv (CLS.ENT i)))

/-! ## The table (R269, R271) -/

/-- Places of the four ways. -/
def wayPlaces : Nat := 262144

/-- An entry lies in the stash. -/
def ClsEntry.stashed (e : ClsEntry) : Bool := decide (wayPlaces ≤ e.index)

/-- The place in a way that a key's hash gives. -/
def wayPlace (w : Nat) (key : List Byte) : Nat := 65536 * (w % 4) + Config.clsHash (w % 4) key % 65536

/-- The table changes: OCC and STASH follow it. -/
def State.setCls (s : State) (l : List ClsEntry) : State :=
  (({ s with cls := l } : State).put CLS.OCC F.CLS_OCC_OCC l.length).put CLS.STASH F.CLS_STASH_STASH
    (l.filter (fun e => e.stashed)).length

/-- The version of a TID in force, where it has one. -/
def State.versionInForce (s : State) (tid : BitVec 18) : Option (BitVec 16) :=
  match s.homeOf tid with
  | some (n, k) => if (s.slot n k).st = .reserved then none else some (s.slot n k).inForce
  | none => none

def ClsEntry.is (e : ClsEntry) (img : List Byte) : Bool := imgKey e.image == imgKey img && imgTid e.image == imgTid img

/-- An entry is put at its place of a way, and the entry that stands there into its own place of the next way, along a walk
that ends at a free slot. -/
def settle (l : List ClsEntry) (e : ClsEntry) : List Nat → Option (List ClsEntry)
  | [] => none
  | w :: ws =>
    let p := wayPlace w (imgKey e.image)
    match l.find? (fun f => f.index == p) with
    | none => some (l ++ [{ e with index := p }])
    | some f => (settle (l.filter (fun g => g.index != p)) f ws).map (fun m => m ++ [{ e with index := p }])

/-- A free place of the stash, where it has one. -/
def stashPlace (l : List ClsEntry) : Option Nat :=
  let held := l.filter (fun e => e.stashed)
  if 8192 ≤ held.length then none
  else ((List.range (held.length + 1)).map (wayPlaces + ·)).find? (fun i => !held.any (fun e => e.index == i))

/-- An entry placed as R269 says: a free slot of one of its ways; else up to 16 residents relocated; else the stash (which
free slot, and which walk, log 68). The new entry is the last of the list. -/
def placeEntry (l : List ClsEntry) (e : ClsEntry) : Option (List ClsEntry) :=
  let key := imgKey e.image
  match ((List.range 4).map (fun w => wayPlace w key)).find? (fun p => !l.any (fun f => f.index == p)) with
  | some p => some (l ++ [{ e with index := p }])
  | none =>
    match settle l e ((Config.clsWalk (l.map (fun f => (imgKey f.image, f.index))) key).take 17) with
    | some m => some m
    | none => (stashPlace l).map (fun i => l ++ [{ e with index := i }])

/-- The insert of an image acts at once: its version is in force. -/
def State.clsNow (s : State) (img : List Byte) : Bool := s.versionInForce (imgTid img) == some (imgVersion img)

/-- The entry that an insert takes the place of: of the same key and TID, the active one where it acts at once, else the
pending one of its version (log 68). -/
def State.clsSame (s : State) (img : List Byte) (e : ClsEntry) : Bool :=
  e.is img && (if s.clsNow img then e.active else !e.active && e.version == imgVersion img)

/-- The table after an insert, where it finds a place. -/
def State.clsPlaced (s : State) (img : List Byte) : Option (List ClsEntry) :=
  let e : ClsEntry := ⟨img, s.clsNow img, imgVersion img, [], 0⟩
  match s.cls.find? (s.clsSame img) with
  | some f => some (s.cls.filter (fun g => !s.clsSame img g) ++ [{ e with index := f.index }])
  | none => placeEntry s.cls e

/-- What CLS.CMD meets (R271): the first failing check in the order of the rule. -/
def State.clsCode (s : State) (op : Nat) : Nat :=
  let img := s.entImage
  let mine := s.cls.any (fun e => e.is img)
  if op = 0 then 0x0606
  else if !imageOk img then 0x0604
  else if op ≠ 1 ∧ !mine then 0x0605
  else if op = 1 ∧ s.cls.any (fun e => imgKey e.image == imgKey img && imgTid e.image != imgTid img) then 0x0603
  else if op = 1 ∧ 262144 ≤ s.cls.length ∧ !s.cls.any (s.clsSame img) then 0x0602
  else if op ≠ 3 ∧ s.divided then 0x0607
  else if op = 1 ∧ s.clsPlaced img = none then 0x0601
  else 0

/-- INSERT of the image: pending until its version's switch, or at once where the version is in force. -/
def State.clsInsert (s : State) (img : List Byte) : State := s.setCls ((s.clsPlaced img).getD s.cls)

/-- REMOVE of a key and TID: pending inserts of it are cancelled, an active entry stops at the switch or at once. -/
def State.clsRemove (s : State) (img : List Byte) : State :=
  s.setCls ((s.cls.filter (fun e => !(e.is img && (!e.active || s.clsNow img)))).map (fun e =>
    if e.is img then { e with removes := e.removes ++ [imgVersion img] } else e))

/-- The index that a command shows: of the entry inserted, or of the entry queried, the active one before a pending one. -/
def State.clsIndex (s : State) (op : Nat) (img : List Byte) : Nat :=
  let mine := s.cls.filter (fun e => e.is img)
  match (if op = 1 then mine.getLast? else (mine.find? (fun e => e.active)).or mine.head?) with
  | some e => if op = 2 then 0x7FFFF else e.index
  | none => 0x7FFFF

/-- A failing command is logged and its cause set, in die 0's copy (R286). -/
def State.clsFail (s : State) (code : Nat) : State :=
  let s1 := if s.rb CLS.ERR_LOG F.CLS_ERR_LOG_VALID then s else s.wv CLS.ERR_LOG (2 ^ 31 + code)
  if code = 0x0601 ∨ code = 0x0602 then s1.raise (clsEvt 0) F.CLS_EVT_FULL
  else if code = 0x0607 then s1.raise (clsEvt 0) F.CLS_EVT_HINGE
  else s1

/-- CLS.CMD, ignored while CMD_STATUS.READY is 0. -/
def State.clsCommand (s : State) (op : Nat) : State :=
  if !s.ready CLS.CMD_STATUS then s
  else
    let code := s.clsCode op
    let img := s.entImage
    let s1 := s.begin_ CLS.CMD_STATUS
    let s2 := if code ≠ 0 then s1.clsFail code
      else if op = 1 then s1.clsInsert img
      else if op = 2 then s1.clsRemove img
      else s1
    (s2.put CLS.INDEX F.CLS_INDEX_INDEX (if code = 0 then s2.clsIndex op img else 0x7FFFF)).post CLS.CMD_STATUS code

def execInsert (s : State) : Result := hostCmd s CLS.CMD (fun u => u.clsCommand 1)
def execRemove (s : State) : Result := hostCmd s CLS.CMD (fun u => u.clsCommand 2)
def execClsQuery (s : State) : Result := hostCmd s CLS.CMD (fun u => u.clsCommand 3)

/-- At a TID's switch to a version (R271): its pending inserts become active in place of active entries of their keys, and
its removes take effect. -/
def State.clsSwitch (s : State) (tid : BitVec 18) (v : BitVec 16) : State :=
  let comes (e : ClsEntry) : Bool := imgTid e.image == tid && !e.active && e.version == v
  let goes (e : ClsEntry) : Bool := imgTid e.image == tid && e.active &&
    (e.removes.contains v || s.cls.any (fun f => comes f && imgKey f.image == imgKey e.image))
  s.setCls ((s.cls.filter (fun e => !goes e)).map (fun e => if comes e then { e with active := true } else e))

/-- Pending commands of a superseded version are dropped (R185). -/
def State.clsSupersede (s : State) (tid : BitVec 18) (v : BitVec 16) : State :=
  s.setCls ((s.cls.filter (fun e => !(imgTid e.image == tid && !e.active && e.version == v))).map (fun e =>
    if imgTid e.image = tid then { e with removes := e.removes.filter (· != v) } else e))

/-- Every entry of a TID is removed (R187). -/
def State.clsDelete (s : State) (tid : BitVec 18) : State := s.setCls (s.cls.filter (fun e => imgTid e.image != tid))

/-! ## A frame's fields (R267) -/

/-- What steps 1 to 4 read from a frame: VID, ethertype after the tags, whether it is IP, version, protocol, fragment,
addresses of 16 bytes (IPv4 last four), ports, the offset of the UDP payload and its length, and what failed (1 L3ERR,
2 UDPERR). -/
structure Parsed where
  vid : Nat
  etype : Nat
  ip : Bool
  v6 : Bool
  proto : Nat
  frag : Bool
  laddr : List Byte
  raddr : List Byte
  lport : Nat
  rport : Nat
  off : Nat
  len : Nat
  err : Nat
  deriving DecidableEq, Repr

/-- The one's complement sum of 16-bit words of bytes. -/
def onesSum (bs : List Byte) : Nat :=
  let t := ((List.range ((bs.length + 1) / 2)).map (fun i => beAt (bs ++ [0]) (2 * i) 2)).sum
  let u := t % 65536 + t / 65536
  let v := u % 65536 + u / 65536
  v % 65536 + v / 65536

/-- Up to two tags: the offset of the ethertype after them and the innermost VID. `tpid` says which ethertypes tag. -/
def untag (tpid : Nat → Bool) (f : List Byte) : Nat × Nat :=
  if tpid (beAt f 12 2) then
    if tpid (beAt f 16 2) then (20, beAt f 18 2 % 4096) else (16, beAt f 14 2 % 4096)
  else (12, 0xFFF)

/-- An IPv4 address as entries hold it. -/
def addr4 (bs : List Byte) : List Byte := List.replicate 12 0 ++ bs

/-- Steps 1 to 4 of R267. -/
def parseFrame (tpid : Nat → Bool) (f : List Byte) : Parsed :=
  let t := untag tpid f
  let e := beAt f t.1 2
  let o := t.1 + 2
  let base : Parsed := ⟨t.2, e, false, false, 0, false, [], [], 0, 0, 0, 0, 0⟩
  if e = 0x0800 then
    let ihl := (f.getD o 0).toNat % 16
    let tot := beAt f (o + 2) 2
    let ok := (f.getD o 0).toNat / 16 == 4 && decide (5 ≤ ihl) && decide (o + 4 * ihl ≤ f.length) &&
      onesSum (slice f o (4 * ihl)) == 0xFFFF && decide (o + tot ≤ f.length)
    let frag := beAt f (o + 6) 2 % 16384 != 0
    let proto := (f.getD (o + 9) 0).toNat
    let q := o + 4 * ihl
    let ports := !frag && (proto == 6 || proto == 17)
    let p : Parsed := { base with
      ip := true, proto := proto, frag := frag
      laddr := addr4 (slice f (o + 16) 4), raddr := addr4 (slice f (o + 12) 4)
      rport := if ports then beAt f q 2 else 0
      lport := if ports then beAt f (q + 2) 2 else 0
      off := q + 8, len := beAt f (q + 4) 2 - 8 }
    if !ok then { p with err := 1 }
    else if !frag && proto == 17 then
      let u := beAt f (q + 4) 2
      let c := beAt f (q + 6) 2
      let pseudo := slice f (o + 12) 8 ++ [0, 17] ++ beBytes 2 u ++ slice f q u
      if 8 ≤ u ∧ u ≤ tot - 4 * ihl ∧ (c = 0 ∨ onesSum pseudo = 0xFFFF) then p else { p with err := 2 }
    else p
  else if e = 0x86DD then
    let plen := beAt f (o + 4) 2
    let ok := (f.getD o 0).toNat / 16 == 6 && decide (o + 40 ≤ f.length) && decide (o + 40 + plen ≤ f.length)
    let proto := (f.getD (o + 6) 0).toNat
    let q := o + 40
    let ports := proto == 6 || proto == 17
    let p : Parsed := { base with
      ip := true, v6 := true, proto := proto
      laddr := slice f (o + 24) 16, raddr := slice f (o + 8) 16
      rport := if ports then beAt f q 2 else 0
      lport := if ports then beAt f (q + 2) 2 else 0
      off := q + 8, len := beAt f (q + 4) 2 - 8 }
    if !ok then { p with err := 1 }
    else if proto = 17 then
      let u := beAt f (q + 4) 2
      let c := beAt f (q + 6) 2
      let pseudo := slice f (o + 8) 32 ++ beBytes 4 u ++ [0, 0, 0, 17] ++ slice f q u
      if 8 ≤ u ∧ u ≤ plen ∧ c ≠ 0 ∧ onesSum pseudo = 0xFFFF then p else { p with err := 2 }
    else p
  else base

/-! ## Lookup (R270, R272) -/

/-- The key bytes of a lookup. -/
def lookKey (p : Parsed) (loc : Bool) (lport : Nat) : List Byte :=
  leBytes 4 (b2n loc * 2 ^ 31 + b2n p.v6 * 2 ^ 30 + p.vid) ++ leBytes 4 (lport + if loc then 0 else p.rport * 65536) ++
    p.laddr ++ (if loc then List.replicate 16 0 else p.raddr)

/-- The exact entry that a frame hits, and its type: 0 RTP, 1 RTCP, 2 UDPTL. -/
def State.exact (s : State) (p : Parsed) : Option (List Byte × Nat) :=
  let find (k : List Byte) : Option ClsEntry := s.cls.find? (fun e => e.active && imgKey e.image == k)
  match find (lookKey p false p.lport) with
  | some e => some (e.image, imgType e.image)
  | none =>
    match find (lookKey p true p.lport) with
    | some e => some (e.image, imgType e.image)
    | none =>
      if p.lport % 2 = 1 then
        match s.cls.find? (fun e => e.active && imgKey e.image == lookKey p true (p.lport - 1) &&
            imgPair e.image && imgType e.image == 0) with
        | some e => some (e.image, 1)
        | none => none
      else none

/-- An address of a rule, its 128 bits from its four words. -/
def ruleAddr (s : State) (w : Nat → Nat) : Nat := (List.range 4).foldl (fun a i => a * 2 ^ 32 + s.rv (w i)) 0

/-- A frame's address as rules compare it: IPv4 in the mapped form. -/
def ruleForm (p : Parsed) (a : List Byte) : Nat := if p.v6 then beNat a else 0xFFFF * 2 ^ 32 + beNat (a.drop 12)

def prefixEq (n a b : Nat) : Bool := a / 2 ^ (128 - min 128 n) == b / 2 ^ (128 - min 128 n)

/-- Rule r matches a frame. -/
def State.ruleMatches (s : State) (p : Parsed) (r : Nat) : Bool :=
  let en (i : Nat) : Bool := bit (s.rf (CLS.W_CTL r) F.CLS_W_CTL_ENF) i
  let mask := s.rf (CLS.W_ETYPE r) F.CLS_W_ETYPE_ETMASK
  let vmask := s.rf (CLS.W_VID r) F.CLS_W_VID_VIDMASK
  let within (v lo hi : Nat) : Bool := decide (lo ≤ v) && decide (v ≤ hi)
  s.rb (CLS.W_CTL r) F.CLS_W_CTL_EN &&
    (!en 0 || p.etype &&& mask == s.rf (CLS.W_ETYPE r) F.CLS_W_ETYPE_ETYPE &&& mask) &&
    (!en 1 || p.vid &&& vmask == s.rf (CLS.W_VID r) F.CLS_W_VID_VID &&& vmask) &&
    (p.ip || !(en 2 || en 3 || en 4 || en 5 || en 6 || en 7)) &&
    (!en 2 || p.proto == s.rf (CLS.W_PROTO r) F.CLS_W_PROTO_PROTO) &&
    (!en 3 || b2n p.frag == s.rf (CLS.W_PROTO r) F.CLS_W_PROTO_FRAG) &&
    (!en 4 || within p.lport (s.rf (CLS.W_LPORT r) F.CLS_W_LPORT_LPLO) (s.rf (CLS.W_LPORT r) F.CLS_W_LPORT_LPHI)) &&
    (!en 5 || within p.rport (s.rf (CLS.W_RPORT r) F.CLS_W_RPORT_RPLO) (s.rf (CLS.W_RPORT r) F.CLS_W_RPORT_RPHI)) &&
    (!en 6 || prefixEq (s.rf (CLS.W_LPFX r) F.CLS_W_LPFX_LPFX) (ruleForm p p.laddr) (ruleAddr s (CLS.W_LADDR r))) &&
    (!en 7 || prefixEq (s.rf (CLS.W_RPFX r) F.CLS_W_RPFX_RPFX) (ruleForm p p.raddr) (ruleAddr s (CLS.W_RADDR r)))

/-- The lowest-numbered rule that a frame matches. -/
def State.rule (s : State) (p : Parsed) : Option Nat := (List.range 256).find? (s.ruleMatches p)

/-- A CLS counter of a die rises; its cause is set in that die's copy (R286). -/
def State.clsBump (s : State) (d ctr : Nat) : State := s.bump ctr (clsEvt d) F.CLS_EVT_CCNT

end Sys2Proof.Machine
end

