-- ==== Sys2Proof/Machine/Crypto.lean ====
section
/-!
DEFINITION. The public algorithms that the spec names and does not restate (log 19): SHA-256 and ECDSA over P-256
(R391 to R403), SHA-1 with HMAC and AES-128 in counter mode (R274). Randomness is never computed here.
-/

namespace Sys2Proof.Machine

/-! ## SHA-256 -/

def shaK0 : List Word := [
  0x428A2F98, 0x71374491, 0xB5C0FBCF, 0xE9B5DBA5,
  0x3956C25B, 0x59F111F1, 0x923F82A4, 0xAB1C5ED5,
  0xD807AA98, 0x12835B01, 0x243185BE, 0x550C7DC3,
  0x72BE5D74, 0x80DEB1FE, 0x9BDC06A7, 0xC19BF174]

def shaK1 : List Word := [
  0xE49B69C1, 0xEFBE4786, 0x0FC19DC6, 0x240CA1CC,
  0x2DE92C6F, 0x4A7484AA, 0x5CB0A9DC, 0x76F988DA,
  0x983E5152, 0xA831C66D, 0xB00327C8, 0xBF597FC7,
  0xC6E00BF3, 0xD5A79147, 0x06CA6351, 0x14292967]

def shaK2 : List Word := [
  0x27B70A85, 0x2E1B2138, 0x4D2C6DFC, 0x53380D13,
  0x650A7354, 0x766A0ABB, 0x81C2C92E, 0x92722C85,
  0xA2BFE8A1, 0xA81A664B, 0xC24B8B70, 0xC76C51A3,
  0xD192E819, 0xD6990624, 0xF40E3585, 0x106AA070]

def shaK3 : List Word := [
  0x19A4C116, 0x1E376C08, 0x2748774C, 0x34B0BCB5,
  0x391C0CB3, 0x4ED8AA4A, 0x5B9CCA4F, 0x682E6FF3,
  0x748F82EE, 0x78A5636F, 0x84C87814, 0x8CC70208,
  0x90BEFFFA, 0xA4506CEB, 0xBEF9A3F7, 0xC67178F2]

/-- Round constants of SHA-256. -/
def shaK : List Word := shaK0 ++ shaK1 ++ shaK2 ++ shaK3

/-- The initial hash of SHA-256. -/
def shaH : List Word := [
  0x6A09E667, 0xBB67AE85, 0x3C6EF372, 0xA54FF53A,
  0x510E527F, 0x9B05688C, 0x1F83D9AB, 0x5BE0CD19]

def rotr (x : Word) (n : Nat) : Word := x.rotateRight n
def rotl (x : Word) (n : Nat) : Word := x.rotateLeft n

/-- The message with its padding: a one, zeros, and the bit length in 64 bits. -/
def shaPad (m : List Byte) : List Byte :=
  m ++ [0x80] ++ List.replicate ((119 - m.length % 64) % 64) 0 ++ beBytes 8 (8 * m.length)

/-- The 64-byte blocks of a padded message as words. -/
def shaBlocks (m : List Byte) : List (List Word) :=
  (List.range (m.length / 64)).map (fun b => (List.range 16).map (fun i => BitVec.ofNat 32 (beAt m (64 * b + 4 * i) 4)))

/-- The schedule extended by k words. -/
def shaExtend : Nat → List Word → List Word
  | 0, w => w
  | k + 1, w =>
    let n := w.length
    let a := w.getD (n - 15) 0
    let b := w.getD (n - 2) 0
    let s0 := rotr a 7 ^^^ rotr a 18 ^^^ (a >>> 3)
    let s1 := rotr b 17 ^^^ rotr b 19 ^^^ (b >>> 10)
    shaExtend k (w ++ [w.getD (n - 16) 0 + s0 + w.getD (n - 7) 0 + s1])

/-- One round: the eight working words, a round constant and a schedule word. -/
def shaRound (v : List Word) (kw : Word × Word) : List Word :=
  let g (i : Nat) : Word := v.getD i 0
  let s1 := rotr (g 4) 6 ^^^ rotr (g 4) 11 ^^^ rotr (g 4) 25
  let ch := (g 4 &&& g 5) ^^^ (~~~(g 4) &&& g 6)
  let t1 := g 7 + s1 + ch + kw.1 + kw.2
  let s0 := rotr (g 0) 2 ^^^ rotr (g 0) 13 ^^^ rotr (g 0) 22
  let maj := (g 0 &&& g 1) ^^^ (g 0 &&& g 2) ^^^ (g 1 &&& g 2)
  [t1 + (s0 + maj), g 0, g 1, g 2, g 3 + t1, g 4, g 5, g 6]

def shaBlock (h : List Word) (w : List Word) : List Word :=
  ((shaK.zip (shaExtend 48 w)).foldl shaRound h).zipWith (· + ·) h

/-- SHA-256, 32 bytes. -/
def sha256 (m : List Byte) : List Byte :=
  ((shaBlocks (shaPad m)).foldl shaBlock shaH).flatMap (fun x => beBytes 4 x.toNat)

/-! ## SHA-1 and HMAC -/

def sha1F (i : Nat) (b c d : Word) : Word × Word :=
  if i < 20 then ((b &&& c) ||| (~~~b &&& d), 0x5A827999)
  else if i < 40 then (b ^^^ c ^^^ d, 0x6ED9EBA1)
  else if i < 60 then ((b &&& c) ||| (b &&& d) ||| (c &&& d), 0x8F1BBCDC)
  else (b ^^^ c ^^^ d, 0xCA62C1D6)

def sha1Extend : Nat → List Word → List Word
  | 0, w => w
  | k + 1, w =>
    let n := w.length
    sha1Extend k (w ++ [rotl (w.getD (n - 3) 0 ^^^ w.getD (n - 8) 0 ^^^ w.getD (n - 14) 0 ^^^ w.getD (n - 16) 0) 1])

def sha1Block (h w : List Word) : List Word :=
  (((List.range 80).zip (sha1Extend 64 w)).foldl (fun (v : List Word) iw =>
    let g (i : Nat) : Word := v.getD i 0
    let fk := sha1F iw.1 (g 1) (g 2) (g 3)
    [rotl (g 0) 5 + fk.1 + g 4 + fk.2 + iw.2, g 0, rotl (g 1) 30, g 2, g 3]) h).zipWith (· + ·) h

/-- SHA-1, 20 bytes. -/
def sha1 (m : List Byte) : List Byte :=
  ((shaBlocks (shaPad m)).foldl sha1Block [0x67452301, 0xEFCDAB89, 0x98BADCFE, 0x10325476, 0xC3D2E1F0]).flatMap
    (fun x => beBytes 4 x.toNat)

/-- HMAC-SHA1 with a key of at most 64 bytes. -/
def hmacSha1 (key m : List Byte) : List Byte :=
  let k := key ++ List.replicate (64 - key.length) 0
  sha1 (k.map (· ^^^ 0x5C) ++ sha1 (k.map (· ^^^ 0x36) ++ m))

/-! ## AES -/

def aesS0 : List Byte := [
  0x63, 0x7C, 0x77, 0x7B, 0xF2, 0x6B, 0x6F, 0xC5, 0x30, 0x01, 0x67, 0x2B, 0xFE, 0xD7, 0xAB, 0x76,
  0xCA, 0x82, 0xC9, 0x7D, 0xFA, 0x59, 0x47, 0xF0, 0xAD, 0xD4, 0xA2, 0xAF, 0x9C, 0xA4, 0x72, 0xC0]

def aesS1 : List Byte := [
  0xB7, 0xFD, 0x93, 0x26, 0x36, 0x3F, 0xF7, 0xCC, 0x34, 0xA5, 0xE5, 0xF1, 0x71, 0xD8, 0x31, 0x15,
  0x04, 0xC7, 0x23, 0xC3, 0x18, 0x96, 0x05, 0x9A, 0x07, 0x12, 0x80, 0xE2, 0xEB, 0x27, 0xB2, 0x75]

def aesS2 : List Byte := [
  0x09, 0x83, 0x2C, 0x1A, 0x1B, 0x6E, 0x5A, 0xA0, 0x52, 0x3B, 0xD6, 0xB3, 0x29, 0xE3, 0x2F, 0x84,
  0x53, 0xD1, 0x00, 0xED, 0x20, 0xFC, 0xB1, 0x5B, 0x6A, 0xCB, 0xBE, 0x39, 0x4A, 0x4C, 0x58, 0xCF]

def aesS3 : List Byte := [
  0xD0, 0xEF, 0xAA, 0xFB, 0x43, 0x4D, 0x33, 0x85, 0x45, 0xF9, 0x02, 0x7F, 0x50, 0x3C, 0x9F, 0xA8,
  0x51, 0xA3, 0x40, 0x8F, 0x92, 0x9D, 0x38, 0xF5, 0xBC, 0xB6, 0xDA, 0x21, 0x10, 0xFF, 0xF3, 0xD2]

def aesS4 : List Byte := [
  0xCD, 0x0C, 0x13, 0xEC, 0x5F, 0x97, 0x44, 0x17, 0xC4, 0xA7, 0x7E, 0x3D, 0x64, 0x5D, 0x19, 0x73,
  0x60, 0x81, 0x4F, 0xDC, 0x22, 0x2A, 0x90, 0x88, 0x46, 0xEE, 0xB8, 0x14, 0xDE, 0x5E, 0x0B, 0xDB]

def aesS5 : List Byte := [
  0xE0, 0x32, 0x3A, 0x0A, 0x49, 0x06, 0x24, 0x5C, 0xC2, 0xD3, 0xAC, 0x62, 0x91, 0x95, 0xE4, 0x79,
  0xE7, 0xC8, 0x37, 0x6D, 0x8D, 0xD5, 0x4E, 0xA9, 0x6C, 0x56, 0xF4, 0xEA, 0x65, 0x7A, 0xAE, 0x08]

def aesS6 : List Byte := [
  0xBA, 0x78, 0x25, 0x2E, 0x1C, 0xA6, 0xB4, 0xC6, 0xE8, 0xDD, 0x74, 0x1F, 0x4B, 0xBD, 0x8B, 0x8A,
  0x70, 0x3E, 0xB5, 0x66, 0x48, 0x03, 0xF6, 0x0E, 0x61, 0x35, 0x57, 0xB9, 0x86, 0xC1, 0x1D, 0x9E]

def aesS7 : List Byte := [
  0xE1, 0xF8, 0x98, 0x11, 0x69, 0xD9, 0x8E, 0x94, 0x9B, 0x1E, 0x87, 0xE9, 0xCE, 0x55, 0x28, 0xDF,
  0x8C, 0xA1, 0x89, 0x0D, 0xBF, 0xE6, 0x42, 0x68, 0x41, 0x99, 0x2D, 0x0F, 0xB0, 0x54, 0xBB, 0x16]

/-- The substitution table of AES. -/
def aesS : List Byte := aesS0 ++ aesS1 ++ aesS2 ++ aesS3 ++ aesS4 ++ aesS5 ++ aesS6 ++ aesS7

def aesSub (b : Byte) : Byte := aesS.getD b.toNat 0

/-- Multiplication by x in the field of AES. -/
def aesX (b : Byte) : Byte := (b <<< 1) ^^^ (if b.getLsbD 7 then 0x1B else 0)

/-- The round constant i, from 1. -/
def aesRcon : Nat → Byte
  | 0 => 0x8D
  | n + 1 => aesX (aesRcon n)

def xorBytes (a b : List Byte) : List Byte := a.zipWith (· ^^^ ·) b

/-- The key schedule as 4-byte words: k more words for a key of nk words. -/
def aesExpand (nk : Nat) : Nat → List (List Byte) → List (List Byte)
  | 0, w => w
  | k + 1, w =>
    let n := w.length
    let t := w.getD (n - 1) []
    let u :=
      if n % nk = 0 then
        xorBytes (((t.drop 1) ++ (t.take 1)).map aesSub) [aesRcon (n / nk), 0, 0, 0]
      else if 6 < nk ∧ n % nk = 4 then t.map aesSub
      else t
    aesExpand nk k (w ++ [xorBytes (w.getD (n - nk) []) u])

/-- A round on the 16-byte state, column by column: bytes substituted, rows shifted, columns mixed unless last. -/
def aesRound (last : Bool) (st key : List Byte) : List Byte :=
  let g (r c : Nat) : Byte := aesSub (st.getD (4 * ((c + r) % 4) + r) 0)
  let col (c : Nat) : List Byte :=
    let a := g 0 c
    let b := g 1 c
    let d := g 2 c
    let e := g 3 c
    if last then [a, b, d, e]
    else
      [aesX a ^^^ aesX b ^^^ b ^^^ d ^^^ e, a ^^^ aesX b ^^^ aesX d ^^^ d ^^^ e,
       a ^^^ b ^^^ aesX d ^^^ aesX e ^^^ e, aesX a ^^^ a ^^^ b ^^^ d ^^^ aesX e]
  xorBytes (col 0 ++ col 1 ++ col 2 ++ col 3) key

/-- AES of one block, for a key of 16 or 32 bytes. -/
def aes (key block : List Byte) : List Byte :=
  let nk := key.length / 4
  let rounds := nk + 6
  let w := aesExpand nk (4 * (rounds + 1) - nk) ((List.range nk).map (fun i => slice key (4 * i) 4))
  let rk (i : Nat) : List Byte := (slice4 w i).flatten
  let s0 := xorBytes block (rk 0)
  let s1 := (List.range (rounds - 1)).foldl (fun st i => aesRound false st (rk (i + 1))) s0
  aesRound true s1 (rk rounds)
where
  slice4 (w : List (List Byte)) (i : Nat) : List (List Byte) := (w.drop (4 * i)).take 4

/-- n bytes of AES key stream in counter mode from a 16-byte initial block. -/
def aesStream (key iv : List Byte) (n : Nat) : List Byte :=
  ((List.range ((n + 15) / 16)).flatMap (fun i => aes key (beBytes 16 ((beNat iv + i) % 2 ^ 128)))).take n

/-! ## ECDSA over P-256 -/

def p256P : Nat := 0xFFFFFFFF00000001000000000000000000000000FFFFFFFFFFFFFFFFFFFFFFFF
def p256N : Nat := 0xFFFFFFFF00000000FFFFFFFFFFFFFFFFBCE6FAADA7179E84F3B9CAC2FC632551
def p256B : Nat := 0x5AC635D8AA3A93E7B3EBBD55769886BC651D06B0CC53B0F63BCE3C3E27D2604B
def p256Gx : Nat := 0x6B17D1F2E12C4247F8BCE6E563A440F277037D812DEB33A0F4A13945D898C296
def p256Gy : Nat := 0x4FE342E2FE1A7F9B8EE7EB4A7C0F9E162BCE33576B315ECECBB6406837BF51F5

/-- x^e mod m, over k bits of e from the lowest. -/
def powMod (m : Nat) : Nat → Nat → Nat → Nat
  | 0, _, _ => 1 % m
  | k + 1, x, e => (if e % 2 = 1 then x else 1) * powMod m k (x * x % m) (e / 2) % m

/-- The inverse modulo a prime. -/
def invMod (m x : Nat) : Nat := powMod m 256 (x % m) (m - 2)

/-- The sum of two points of P-256; none is the point at infinity. -/
def ecAdd (a b : Option (Nat × Nat)) : Option (Nat × Nat) :=
  match a, b with
  | none, q => q
  | p, none => p
  | some (x1, y1), some (x2, y2) =>
    let p := p256P
    if x1 = x2 ∧ (y1 + y2) % p = 0 then none
    else
      let l := if x1 = x2 then (3 * x1 * x1 + (p - 3)) * invMod p (2 * y1) % p
        else (y2 + p - y1) * invMod p (x2 + p - x1) % p
      let x3 := (l * l + 2 * p - x1 - x2) % p
      some (x3, (l * (x1 + p - x3) + p - y1) % p)

/-- A point times a scalar, over k bits of the scalar from the lowest. -/
def ecMul : Nat → Nat → Option (Nat × Nat) → Option (Nat × Nat)
  | 0, _, _ => none
  | k + 1, e, q => ecAdd (if e % 2 = 1 then q else none) (ecMul k (e / 2) (ecAdd q q))

/-- Both 256-bit numbers of 64 big-endian bytes. -/
def pair256 (b : List Byte) : Nat × Nat := (beAt b 0 32, beAt b 32 32)

/-- The point lies on the curve. -/
def onCurve (q : Nat × Nat) : Bool :=
  decide (q.1 < p256P) && decide (q.2 < p256P) &&
    q.2 * q.2 % p256P == (q.1 * q.1 * q.1 + (p256P - 3) * q.1 + p256B) % p256P

/-- A signature of 64 bytes, r then s, is valid over a 32-byte digest under a 64-byte public key. -/
def ecdsaValid (pub sig digest : List Byte) : Bool :=
  let q := pair256 pub
  let rs := pair256 sig
  let n := p256N
  decide (0 < rs.1) && decide (rs.1 < n) && decide (0 < rs.2) && decide (rs.2 < n) && onCurve q &&
    (let w := invMod n rs.2
     match ecAdd (ecMul 256 (beNat digest * w % n) (some (p256Gx, p256Gy))) (ecMul 256 (rs.1 * w % n) (some q)) with
     | some p => p.1 % n == rs.1
     | none => false)

/-- The public key of a private key, 64 bytes. -/
def ecdsaPub (d : Nat) : List Byte :=
  match ecMul 256 d (some (p256Gx, p256Gy)) with
  | some q => beBytes 32 q.1 ++ beBytes 32 q.2
  | none => List.replicate 64 0

/-- The signature of a 32-byte digest by a private key with a nonce, r then s. -/
def ecdsaSign (d nonce : Nat) (digest : List Byte) : List Byte :=
  let n := p256N
  let r := match ecMul 256 nonce (some (p256Gx, p256Gy)) with | some q => q.1 % n | none => 0
  beBytes 32 r ++ beBytes 32 (invMod n nonce * (beNat digest + r * d) % n)

end Sys2Proof.Machine
end

