-- ==== Sys2Proof/Machine/Srtp.lean ====
section
/-!
DEFINITION. RTP headers, and SRTP and SRTCP as RFC 3711 and RFC 7714 have them (R273, R274; log 19).
-/

namespace Sys2Proof.Machine

/-! ## RTP headers (R273) -/

def rtpVersion (p : List Byte) : Nat := (p.getD 0 0).toNat / 64
def rtpPad (p : List Byte) : Bool := bit (p.getD 0 0).toNat 5
def rtpMarker (p : List Byte) : Bool := bit (p.getD 1 0).toNat 7
def rtpPt (p : List Byte) : Nat := (p.getD 1 0).toNat % 128
def rtpSeq (p : List Byte) : Nat := beAt p 2 2
def rtpTs (p : List Byte) : Nat := beAt p 4 4
def rtpSsrc (p : List Byte) : Nat := beAt p 8 4

/-- The length of the header, its CSRCs and its extension, none where they run past the end. -/
def rtpHeader (p : List Byte) : Option Nat :=
  let o := 12 + 4 * ((p.getD 0 0).toNat % 16)
  let e := if bit (p.getD 0 0).toNat 4 then o + 4 + 4 * beAt p (o + 2) 2 else o
  if p.length < 12 ∨ p.length < o ∨ (bit (p.getD 0 0).toNat 4 ∧ p.length < o + 4) ∨ p.length < e then none else some e

/-- The payload after the header, without padding, none where the padding count is too large. -/
def rtpBody (p : List Byte) : Option (List Byte) :=
  match rtpHeader p with
  | none => none
  | some o =>
    let b := p.drop o
    let n := if rtpPad p then (b.getLast?.getD 0).toNat else 0
    if b.length < n ∨ (rtpPad p ∧ b.isEmpty) then none else some (b.take (b.length - n))

/-! ## Galois/counter mode -/

/-- A product in the field of GHASH: k steps over the bits of x from the highest. -/
def gmul (x : Nat) : Nat → Nat → Nat → Nat
  | 0, _, z => z
  | k + 1, v, z =>
    gmul x k (if v % 2 = 1 then (v / 2) ^^^ (0xE1 * 2 ^ 120) else v / 2) (if bit x k then z ^^^ v else z)

/-- GHASH of bytes in blocks of 16. -/
def ghash (h : Nat) (bs : List Byte) : Nat :=
  (List.range ((bs.length + 15) / 16)).foldl (fun y i =>
    gmul (y ^^^ beNat ((slice bs (16 * i) 16 ++ List.replicate 16 0).take 16)) 128 h 0) 0

def pad16 (bs : List Byte) : List Byte := bs ++ List.replicate ((16 - bs.length % 16) % 16) 0

/-- The tag of GCM over associated data and ciphertext. -/
def gcmTag (key iv aad ct : List Byte) : List Byte :=
  let h := beNat (aes key (List.replicate 16 0))
  let y := ghash h (pad16 aad ++ pad16 ct ++ beBytes 8 (8 * aad.length) ++ beBytes 8 (8 * ct.length))
  xorBytes (beBytes 16 y) (aes key (iv ++ [0, 0, 0, 1]))

/-- GCM's counter mode. -/
def gcmCrypt (key iv m : List Byte) : List Byte := xorBytes m (aesStream key (iv ++ [0, 0, 0, 2]) m.length)

/-! ## Keys (R274) -/

def suiteOk (x : Nat) : Bool := decide (1 ≤ x) && decide (x ≤ 6)
def suiteGcm (x : Nat) : Bool := decide (5 ≤ x)
def suiteKey (x : Nat) : Nat := if x = 3 ∨ x = 4 ∨ x = 6 then 32 else 16
def suiteTag (x : Nat) : Nat := if x = 2 ∨ x = 4 then 4 else 10

/-- A session key of n bytes: the AES-CM generator with a label. -/
def sessionKey (q : Srtp) (label n : Nat) : List Byte :=
  let salt := (q.salt ++ List.replicate 14 0).take 14
  let x := xorBytes salt (List.replicate 7 0 ++ [BitVec.ofNat 8 label] ++ List.replicate 6 0)
  aesStream q.key (x ++ [0, 0]) n

/-- The key, authentication key and salt of RTP (label 0) or RTCP (label 3). -/
def encKey (q : Srtp) (rtcp : Bool) : List Byte := sessionKey q (if rtcp then 3 else 0) (suiteKey q.suite)
def authKey (q : Srtp) (rtcp : Bool) : List Byte := sessionKey q (if rtcp then 4 else 1) 20
def sessionSalt (q : Srtp) (rtcp : Bool) : List Byte := sessionKey q (if rtcp then 5 else 2) (if suiteGcm q.suite then 12 else 14)

/-- The initial block of AES-CM for an SSRC and a packet index. -/
def cmIv (salt : List Byte) (ssrc index : Nat) : List Byte :=
  xorBytes (salt ++ [0, 0]) (List.replicate 4 0 ++ beBytes 4 ssrc ++ beBytes 6 index ++ [0, 0])

/-- The IV of GCM for RTP. -/
def gcmIv (salt : List Byte) (ssrc index : Nat) : List Byte := xorBytes salt ([0, 0] ++ beBytes 4 ssrc ++ beBytes 6 index)

/-! ## Contexts (R274) -/

/-- The DPA of a context half. -/
def State.srtpDpa (s : State) (x : Nat) (recv : Bool) : Nat := s.rv PLY.SRTPBASE * 256 + 256 * x + if recv then 128 else 0

def srtpKey (x : Nat) (recv : Bool) : Nat := 2 * x + b2n recv

/-- The half in use: as last left, or read from its context at first use. -/
def State.srtpHalf (s : State) (x : Nat) (recv : Bool) : Srtp :=
  match s.srtp.find? (fun e => e.1 == srtpKey x recv) with
  | some e => e.2
  | none =>
    let c := s.unitBytes (dieAt (s.srtpDpa x recv)) (s.srtpDpa x recv) 128
    let suite := leAt c 0 1
    ⟨suite, slice c 16 (suiteKey suite), slice c 48 (if suiteGcm suite then 12 else 14), leAt c 4 4, none, [], 0, [],
      leAt c 8 4, false⟩

def State.setSrtp (s : State) (x : Nat) (recv : Bool) (q : Srtp) : State :=
  { s with srtp := sput s.srtp (srtpKey x recv) q }

/-- A version switch that names an index anew: its keys are derived at the next use. -/
def State.srtpRekey (s : State) (x : Nat) : State :=
  { s with srtp := s.srtp.filter (fun e => e.1 != srtpKey x false && e.1 != srtpKey x true) }

/-- Why an operation does not give a packet: authentication, replay. -/
inductive SrtpFail where
  | auth
  | replay
  deriving DecidableEq, Repr

/-- Why a packet is not protected: its index is exhausted, or its context is of no use: a reserved suite, or poisoned (R63,
log 19). -/
inductive SendFail where
  | exhausted
  | unusable
  deriving DecidableEq, Repr

/-- A half of a context is of no use: its suite is reserved, or a word of it is poisoned (R63). -/
def State.srtpUnusable (s : State) (x : Nat) (recv : Bool) : Bool :=
  !suiteOk (s.srtpHalf x recv).suite || s.poisonedIn (s.srtpDpa x recv) 62

/-- The packet index of a sequence number, as RFC 3711 estimates it. -/
def Srtp.index (q : Srtp) (seq : Nat) : Nat :=
  let roc := match q.last with
    | none => q.roc
    | some l =>
      if l < 32768 then (if 32768 + l < seq ∧ q.roc ≠ 0 then q.roc - 1 else q.roc)
      else if seq + 32768 < l then q.roc + 1 else q.roc
  roc % 2 ^ 32 * 65536 + seq

def Srtp.top (q : Srtp) : Option Nat := q.last.map (fun l => q.roc * 65536 + l)

/-- The index was received, or lies behind the window of 128. -/
def replayed (top : Option Nat) (seen : List Nat) (i : Nat) : Bool :=
  match top with
  | none => false
  | some t => decide (i + 128 ≤ t) || seen.contains i

/-- The half after a packet of an index. -/
def Srtp.received (q : Srtp) (i : Nat) : Srtp :=
  let q1 := match q.top with
    | some t => if t < i then { q with roc := i / 65536, last := some (i % 65536) } else q
    | none => { q with roc := i / 65536, last := some (i % 65536) }
  { q1 with seen := ((i :: q1.seen).filter (fun j => match q1.top with | some t => decide (t < j + 128) | none => true)) }

/-- An SRTP packet unprotected. -/
def State.unprotect (s : State) (x : Nat) (p : List Byte) : State × Except SrtpFail (List Byte) :=
  let q := s.srtpHalf x true
  let s1 := s.setSrtp x true q
  match rtpHeader p with
  | none => (s1, .error .auth)
  | some o =>
    let i := q.index (rtpSeq p)
    let n := if suiteGcm q.suite then 16 else suiteTag q.suite
    let body := p.take (p.length - n)
    let tag := p.drop (p.length - n)
    let head := p.take o
    let good :=
      if suiteGcm q.suite then gcmTag (encKey q false) (gcmIv (sessionSalt q false) (rtpSsrc p) i) head (body.drop o) == tag
      else (hmacSha1 (authKey q false) (body ++ beBytes 4 (i / 65536))).take n == tag
    if s.srtpUnusable x true || decide (p.length < o + n) || (q.want != 0 && q.want != rtpSsrc p) then (s1, .error .auth)
    else if replayed q.top q.seen i then (s1, .error .replay)
    else if !good then (s1, .error .auth)
    else
      let m := if suiteGcm q.suite then gcmCrypt (encKey q false) (gcmIv (sessionSalt q false) (rtpSsrc p) i) (body.drop o)
        else xorBytes (body.drop o)
          (aesStream (encKey q false) (cmIv (sessionSalt q false) (rtpSsrc p) i) (body.length - o))
      (s1.setSrtp x true (q.received i), .ok (head ++ m))

/-- An RTP packet protected. -/
def State.protect (s : State) (x : Nat) (p : List Byte) : State × Except SendFail (List Byte) :=
  if s.srtpUnusable x false then (s, .error .unusable) else
  let q := s.srtpHalf x false
  let i := match q.last with
    | none => q.roc * 65536 + rtpSeq p
    | some l => (if rtpSeq p < l then q.roc + 1 else q.roc) * 65536 + rtpSeq p
  if q.stopped || decide (2 ^ 48 ≤ i) then (s.setSrtp x false { q with stopped := true }, .error .exhausted)
  else
    let o := (rtpHeader p).getD 12
    let s1 := s.setSrtp x false { q with roc := i / 65536, last := some (i % 65536) }
    if suiteGcm q.suite then
      let iv := gcmIv (sessionSalt q false) (rtpSsrc p) i
      let ct := gcmCrypt (encKey q false) iv (p.drop o)
      (s1, .ok (p.take o ++ ct ++ gcmTag (encKey q false) iv (p.take o) ct))
    else
      let ct := xorBytes (p.drop o) (aesStream (encKey q false) (cmIv (sessionSalt q false) (rtpSsrc p) i) (p.length - o))
      let m := p.take o ++ ct
      (s1, .ok (m ++ (hmacSha1 (authKey q false) (m ++ beBytes 4 (i / 65536))).take (suiteTag q.suite)))

/-! ## SRTCP -/

/-- An SRTCP compound unprotected. -/
def State.unprotectRtcp (s : State) (x : Nat) (p : List Byte) : State × Except SrtpFail (List Byte) :=
  let q := s.srtpHalf x true
  let s1 := s.setSrtp x true q
  let n := if suiteGcm q.suite then 16 else 10
  let g := suiteGcm q.suite
  let body := p.take (p.length - n - 4)
  let word := if g then p.drop (p.length - 4) else slice p (p.length - n - 4) 4
  let tag := if g then slice p (p.length - n - 4) n else p.drop (p.length - n)
  let i := beNat word % 2 ^ 31
  let ssrc := beAt p 4 4
  let iv := gcmIv (sessionSalt q true) ssrc i
  let good :=
    if g then gcmTag (encKey q true) iv (p.take 8 ++ word) (body.drop 8) == tag
    else (hmacSha1 (authKey q true) (body ++ word)).take n == tag
  if s.srtpUnusable x true || decide (p.length < 12 + n) || !bit (beNat word) 31 then (s1, .error .auth)
  else if replayed (q.rtcpSeen.max?) q.rtcpSeen i then (s1, .error .replay)
  else if !good then (s1, .error .auth)
  else
    let m := if g then gcmCrypt (encKey q true) iv (body.drop 8)
      else xorBytes (body.drop 8) (aesStream (encKey q true) (cmIv (sessionSalt q true) ssrc i) (body.length - 8))
    (s1.setSrtp x true { q with rtcpSeen := (i :: q.rtcpSeen).take 128 }, .ok (p.take 8 ++ m))

/-- An RTCP compound protected. -/
def State.protectRtcp (s : State) (x : Nat) (p : List Byte) : State × Except SendFail (List Byte) :=
  if s.srtpUnusable x false then (s, .error .unusable) else
  let q := s.srtpHalf x false
  let i := q.rtcpIndex
  let ssrc := beAt p 4 4
  let word := beBytes 4 (2 ^ 31 + i % 2 ^ 31)
  if q.stopped || decide (2 ^ 31 ≤ i) then (s.setSrtp x false { q with stopped := true }, .error .exhausted)
  else
    let s1 := s.setSrtp x false { q with rtcpIndex := i + 1 }
    if suiteGcm q.suite then
      let iv := gcmIv (sessionSalt q true) ssrc i
      let ct := gcmCrypt (encKey q true) iv (p.drop 8)
      (s1, .ok (p.take 8 ++ ct ++ gcmTag (encKey q true) iv (p.take 8 ++ word) ct ++ word))
    else
      let ct := xorBytes (p.drop 8) (aesStream (encKey q true) (cmIv (sessionSalt q true) ssrc i) (p.length - 8))
      let m := p.take 8 ++ ct ++ word
      (s1, .ok (m ++ (hmacSha1 (authKey q true) m).take 10))

end Sys2Proof.Machine
end

