-- ==== Sys2Proof/Machine/Playout.lean ====
section
/-!
DEFINITION. The playout units (R275 to R280): arrival, presentation, and the target.
-/

namespace Sys2Proof.Machine

/-! ## Records (R222, R286, R338) -/

/-- A one-word record of the data plane. -/
def recordWord (typ : Nat) (tid : BitVec 18) (code level dur tag : Nat) : BitVec 128 :=
  BitVec.ofNat 128 (typ % 256 * 2 ^ 24 + tid.toNat + code % 256 * 2 ^ 32 + level % 256 * 2 ^ 40 + dur % 65536 * 2 ^ 48 +
    tag / 1000000000 % 2 ^ 32 * 2 ^ 64 + tag % 1000000000 * 2 ^ 96)

/-! ## State and counts -/

def State.play (s : State) (tid : BitVec 18) : Play := sget s.plays Play.init tid.toNat

/-- The 64-byte header of a record (R275). -/
def Play.header (x : Play) (tid : BitVec 18) : List Byte :=
  let c := x.counts
  ([x.st * 2 ^ 28 + b2n x.adj * 2 ^ 27 + x.home % 32 * 2 ^ 22 + tid.toNat, x.ssrc, x.hseq, x.next, x.jit16 / 16,
    x.tgt % 65536 + (x.lmin.getD 0) % 65536 * 65536, x.rtt, c.rx, c.dup, c.late, c.lost, c.reorder, c.resync,
    c.overflow, 0, 0] : List Nat).flatMap (fun v => leBytes 4 (v % 2 ^ 32))

/-- The playout state of a TID changes, and its record's header with it. -/
def State.setPlay (s : State) (tid : BitVec 18) (x : Play) : State :=
  let s1 : State := { s with plays := sset s.plays Play.init tid.toNat x }
  if tid.toNat ≤ s.rf PLY.TIDMAX F.PLY_TIDMAX_TIDMAX then
    s1.unitWrite (dieOf x.home) (s.rf PLY.RECBASE F.PLY_RECBASE_RECBASE * 4096 + 4096 * tid.toNat) (x.header tid)
  else s1

/-- The die of a TID's playout unit. -/
def Play.die (x : Play) : Nat := dieOf x.home

/-- A PLY counter of a die rises by n. -/
def State.plyBumpBy (s : State) (d ctr n : Nat) : State := s.bumpBy ctr n (plyEvt d) F.PLY_EVT_PCNT

def State.plyBump (s : State) (d ctr : Nat) : State := s.plyBumpBy d ctr 1

/-- The first cause is logged (R286). -/
def State.plyLog (s : State) (cause : Nat) (tid : BitVec 18) : State :=
  if s.rb PLY.ERR_LOG F.PLY_ERR_LOG_VALID then s else s.wv PLY.ERR_LOG (2 ^ 31 + cause * 2 ^ 24 + tid.toNat)

/-- A packet is dropped for want of a cell (R276). -/
def State.noCell (s : State) (d : Nat) (tid : BitVec 18) : State :=
  ((s.plyBump d (PLY.NOCELL_LO d)).raise (plyEvt d) F.PLY_EVT_NOCELL).plyLog 1 tid

/-- The size of a die's cells. -/
def State.cellSize (s : State) (d : Nat) : Nat := 256 * 2 ^ s.rf (PLY.POOL_CFG d) F.PLY_POOL_CFG_CELL

/-- The DPA of a cell. -/
def State.cellDpa (s : State) (d i : Nat) : Nat := s.rv (PLY.POOL_BASE d) * 256 + s.cellSize d * i

/-- The cell that a packet takes: the lowest free one (log 60). -/
def State.nextCell (s : State) (d : Nat) : Nat :=
  ((List.range (s.cellUse.length + 1)).find? (fun i => !mem1 s.cellUse (2 ^ 22 * d + i))).getD 0

/-- Cells go back to the pools they came from. -/
def State.freeCells (s : State) (ps : List Stored) : State :=
  each s ps (fun u p =>
    ({ u with cellUse := del1 u.cellUse (2 ^ 22 * p.die.val + p.slot) } : State).put (PLY.FREE p.die) F.PLY_FREE_FREE
      (u.rf (PLY.FREE p.die) F.PLY_FREE_FREE + 1))

/-- The payload of a stored packet, as its die's unit reads it; none where a word of it is poisoned (R63, R276). -/
def State.cellPayload (s : State) (p : Stored) : Option (List Byte) :=
  if s.poisonedIn (s.cellDpa p.die p.slot) p.len then none else some (s.unitBytes p.die (s.cellDpa p.die p.slot) p.len)

/-- The context in force of a TID, with its home. -/
def State.homeCtx (s : State) (tid : BitVec 18) : Option (Nat × Nat × List Byte) :=
  match s.homeOf tid with
  | some (n, k) => if (s.slot n k).st = .reserved then none else some (n, k, s.ctx n k)
  | none => none

/-- A playout record is posted to the termination's event cask (R286). -/
def State.plyRecord (s : State) (tid : BitVec 18) (typ code : Nat) : State :=
  match s.homeCtx tid with
  | none => s
  | some (n, _, c) =>
    if !ctxEvMask c 2 then s
    else
      let d := dieOf n
      let p : Producer := .dieUnit ⟨d % 2, Nat.mod_lt _ (by decide)⟩ 0
      let w := recordWord typ tid code 0 0 (s.tb2nsOn d)
      if s.recordFits (ctxEvCask c) p then s.postRecord (ctxEvCask c) p w
      else (((s.postRecord (ctxEvCask c) p w).plyBump d (PLY.RECLOST_LO d)).raise (plyEvt d) F.PLY_EVT_LOST).plyLog 3 tid

/-! ## The mapping to playout instants (R277) -/

/-- The instant of a timestamp, in ns of TB2. -/
def Play.instant (x : Play) (ts : Int) : Int := x.off + ts * 1000000 / (x.khz : Int)

/-- A timestamp without wrap, near the last one. -/
def Play.extTs (x : Play) (ts : Nat) : Int := x.tsRef + toSigned 32 ((ts + 2 ^ 32 - ofSigned 32 x.tsRef) % 2 ^ 32)

/-- The mapping is anchored on a packet: its lead is the target. -/
def Play.anchor (x : Play) (ts : Nat) (tag khz : Nat) : Play :=
  { x with
    khz := khz, tsRef := ts, off := (tag : Int) + x.tgt * 1000000 - (ts : Int) * 1000000 / (khz : Int)
    delta := none, hist := [], ring := [], transit := none, late := 0, owed := 0, st := 1, cand := none }

/-! ## Arrival (R278) -/

/-- The ring slot of a stored packet is written: 16 bytes by its number modulo 128, whose layout is open (R275, log 17). -/
def State.writeRing (s : State) (tid : BitVec 18) (p : Stored) : State :=
  s.unitWrite (s.play tid).die
    (s.rf PLY.RECBASE F.PLY_RECBASE_RECBASE * 4096 + 4096 * tid.toNat + 256 + 16 * (p.seq % 128))
    (leBytes 16 (Config.ringSlot (p.seq, p.ts, p.arrival, p.slot) % 2 ^ 128))

/-- A packet's cell is taken and the packet stored, with what is measured on it; or it is dropped. -/
def State.storePacket (s : State) (tid : BitVec 18) (p : Packet) (udptl : Bool) : State :=
  let x := s.play tid
  let d := x.die
  if s.cellSize d < p.payload.length then
    (s.setPlay tid { x with counts := { x.counts with overflow := x.counts.overflow + 1 } }).plyBump d (PLY.OVERFLOW_LO d)
  else if s.rf (PLY.FREE d) F.PLY_FREE_FREE = 0 then s.noCell d tid
  else
    let slot := s.nextCell d
    let cell : Stored := ⟨p.seq, p.ts, p.arrival, p.payload.length, p.fmt, ⟨d % 2, Nat.mod_lt _ (by decide)⟩, slot, false⟩
    let lead := ((x.instant p.ts - p.arrival) / 1000000).toNat
    let tr : Int := (p.arrival * x.khz / 1000000 : Nat) - p.ts
    let dj := match x.transit with | some q => (tr - q).natAbs | none => 0
    let step := match x.hist.find? (fun e => e.1 + 1 == p.seq) with
      | some e => some (p.ts - e.2)
      | none => match x.hist.find? (fun e => e.1 == p.seq + 1) with
        | some e => some (e.2 - p.ts)
        | none => x.delta
    let y := { x with
      ring := (x.ring.filter (fun q => decide (q.seq < p.seq))) ++ [cell] ++ x.ring.filter (fun q => decide (p.seq < q.seq))
      hist := ((p.seq, p.ts) :: x.hist).take 256
      counts := { x.counts with rx := x.counts.rx + 1 } }
    let z := if udptl then y else { y with
      delta := step
      tsRef := p.ts
      lmin := some (match x.lmin with | some l => min l lead | none => lead)
      jit16 := if x.transit.isSome then x.jit16 + dj - (x.jit16 + 8) / 16 else x.jit16
      transit := some tr
      rtcp := { x.rtcp with maxLead := max x.rtcp.maxLead lead } }
    let s1 : State := { s with cellUse := ins1 s.cellUse (2 ^ 22 * d + slot) }
    ((((s1.unitWrite d (s.cellDpa d slot) p.payload).setPlay tid z).writeRing tid cell).put (PLY.FREE d) F.PLY_FREE_FREE (s.rf (PLY.FREE d) F.PLY_FREE_FREE - 1)).plyBump d
      (PLY.STORED_LO d)

/-- A count of the record and of the unit rises. -/
def State.playCount (s : State) (tid : BitVec 18) (ctr : Nat) (f : PlayCounts → PlayCounts) : State :=
  (s.setPlay tid { s.play tid with counts := f (s.play tid).counts }).plyBump (s.play tid).die ctr

def State.countDup (s : State) (tid : BitVec 18) : State :=
  s.playCount tid (PLY.DUP_LO (s.play tid).die) (fun c => { c with dup := c.dup + 1 })
def State.countLate (s : State) (tid : BitVec 18) : State :=
  s.playCount tid (PLY.LATE_LO (s.play tid).die) (fun c => { c with late := c.late + 1 })
def State.countOverflow (s : State) (tid : BitVec 18) : State :=
  s.playCount tid (PLY.OVERFLOW_LO (s.play tid).die) (fun c => { c with overflow := c.overflow + 1 })
def State.countReorder (s : State) (tid : BitVec 18) : State :=
  s.playCount tid (PLY.REORDER_LO (s.play tid).die) (fun c => { c with reorder := c.reorder + 1 })
def State.countDiscard (s : State) (tid : BitVec 18) (n : Nat) : State :=
  s.plyBumpBy (s.play tid).die (PLY.DISCARD_LO (s.play tid).die) n

/-- The instant of a timestamp lies before B + p of the last release. -/
def Play.tooLate (x : Play) (ts : Int) : Bool := match x.relEnd with | some r => decide (x.instant ts < r * 1000) | none => false

/-- A packet under a mapping anchored on it: stored, or late all the same where its target lies before the end of the period
already released (R275, R278). -/
def State.storeAnchored (s : State) (tid : BitVec 18) (p : Packet) (udptl : Bool) : State :=
  if !udptl ∧ (s.play tid).tooLate p.ts then (s.setPlay tid { s.play tid with late := 1 }).countLate tid
  else s.storePacket tid p udptl

/-- Extended numbers start at 2^32, so that none before the first is negative. -/
def seqBase : Nat := 2 ^ 32

/-- A resync on a packet (R278): everything buffered is freed, the source is learned and the mapping re-anchored; `keep`
is the candidate kept as a stored packet. The packet that triggers it is stored under the new anchor (log 25). -/
def State.resync (s : State) (tid : BitVec 18) (ssrc : Nat) (p : Packet) (ts code khz : Nat)
    (keep : Option (Packet × Nat)) : State :=
  let x := s.play tid
  let s1 := (s.freeCells x.ring).countDiscard tid x.ring.length
  let seq := seqBase + p.seq % 65536
  let first := match keep with | some _ => seq - 1 | none => seq
  let y := { x.anchor ts p.arrival khz with
    ssrc := ssrc, hseq := seq, next := first
    counts := { x.counts with resync := x.counts.resync + 1 }
    rtcp := { x.rtcp with first := first, start := x.counts, base := x.counts, expected := 0 } }
  let s2 := (s1.setPlay tid y).plyBump x.die (PLY.RESYNC_LO x.die)
  let s3 := match keep with
    | none => s2
    | some (q, qts) =>
      let q1 := { q with seq := first, ts := y.extTs qts }
      if y.tooLate q1.ts then s2.countLate tid else s2.storePacket tid q1 false
  (s3.storeAnchored tid { p with seq := seq, ts := (s3.play tid).extTs ts } false).plyRecord tid 0x30 code

/-- The packet of an arrival, before its place is known. -/
def arrivalPacket (a : Arrival) (payload : List Byte) (seq : Nat) (ts : Int) : Packet :=
  ⟨seq, ts, a.tag, payload, BitVec.ofNat 32 (imgW a.image 12)⟩

/-- The table of R278 for a packet of a playing source: number, timestamp and SSRC. -/
def State.arriveTable (s : State) (tid : BitVec 18) (a : Arrival) (payload : List Byte) (seq ts ssrc : Nat) : State :=
  let x := s.play tid
  let d := toSigned 16 ((seq + 65536 - x.hseq % 65536) % 65536)
  let ext := ((x.hseq : Int) + d).toNat
  let ets := x.extTs ts
  let p := arrivalPacket a payload ext ets
  let pin := x.instant ets
  let inRing := x.ring.any (fun q => q.seq == ext)
  let had := x.hist.any (fun e => e.1 == ext)
  let late := (decide (ext < x.next) && !had && !inRing) ||
    (!a.udptl && x.tooLate ets)
  if (!a.udptl && ssrc != x.ssrc) || decide (127 < d) || decide (d < -64) then
    s.setPlay tid { x with
      cand := some ({ p with seq := seq, ts := ts }, ssrc, if !a.udptl && ssrc != x.ssrc then 2 else 1), st := 2, late := 0 }
  else if inRing || (decide (ext < x.next) && had) then
    (s.setPlay tid { x with late := 0 }).countDup tid
  else if late then
    let s1 := (s.setPlay tid { x with late := x.late + 1 }).countLate tid
    if x.late + 1 = 8 then s1.resync tid ssrc { p with seq := seq } ts 3 (imgKhz (imgW a.image 12)) none else s1
  else if (!a.udptl && decide (pin - a.tag > 1000000000)) || decide (x.next + 128 ≤ ext) then
    (s.setPlay tid { x with late := 0 }).countOverflow tid
  else
    let s1 := (s.setPlay tid { x with late := 0 }).storePacket tid p a.udptl
    if (s1.play tid).ring.any (fun q => q.seq == ext) then
      if 1 ≤ d then s1.setPlay tid { s1.play tid with hseq := ext } else s1.countReorder tid
    else s1

/-- A packet reaches the playout state: the first anchors, a held candidate is resolved, then R278. -/
def State.arrive (s : State) (a : Arrival) (payload : List Byte) (seq ts ssrc : Nat) : State :=
  let x := s.play a.tid
  let khz := imgKhz (imgW a.image 12)
  if x.st = 0 then
    let y := { x.anchor ts a.tag khz with
      ssrc := ssrc, hseq := seqBase + seq, next := seqBase + seq
      rtcp := { x.rtcp with first := seqBase + seq, start := x.counts, base := x.counts, expected := 0 } }
    (s.setPlay a.tid y).storeAnchored a.tid (arrivalPacket a payload (seqBase + seq) ts) a.udptl
  else match x.cand with
    | some (q, qssrc, code) =>
      let y := { x with cand := none, st := 1 }
      if ssrc = qssrc ∧ seq = (q.seq + 1) % 65536 then
        (s.setPlay a.tid y).resync a.tid ssrc (arrivalPacket a payload seq ts) ts code khz (some (q, ofSigned 32 q.ts))
      else ((s.setPlay a.tid y).countDiscard a.tid 1).arriveTable a.tid a payload seq ts ssrc
    | none => s.arriveTable a.tid a payload seq ts ssrc

/-- SRTPX of the binding in force of a TID (R274). -/
def State.srtpx (s : State) (tid : BitVec 18) : Nat :=
  match s.homeCtx tid with
  | some (_, _, c) => if ctxKind c = 1 then ctxSrtpx c else 0
  | none => 0

/-- An RTP packet fails its authentication or is replayed. -/
def State.srtpFailed (s : State) (d : Nat) (tid : BitVec 18) (e : SrtpFail) : State :=
  match e with
  | .auth => (s.plyBump d (PLY.AUTHFAIL_LO d)).plyLog 4 tid
  | .replay => s.plyBump d (PLY.REPLAY_LO d)

/-- PACKET_ARRIVAL: a playout unit takes the next packet for a termination of its die. -/
def State.packetArrives (s : State) (a : Arrival) : State :=
  let d := (s.play a.tid).die
  if !s.rb PLY.CFG F.PLY_CFG_EN then s.plyBump d (PLY.NOCELL_LO d)
  else if s.rf PLY.TIDMAX F.PLY_TIDMAX_TIDMAX < a.tid.toNat then s.plyBump d (PLY.OVERFLOW_LO d)
  else if a.udptl then s.arrive a a.payload (beAt a.payload 0 2) 0 0
  else
    let x := s.srtpx a.tid
    let u := if x = 0 then (s, Except.ok a.payload) else s.unprotect x a.payload
    match u.2 with
    | .error e => u.1.srtpFailed d a.tid e
    | .ok p =>
      match rtpBody p with
      | none => u.1.clsBump a.die (CLS.RTPERR_LO a.die)
      | some body => u.1.arrive a body (rtpSeq p) (rtpTs p) (rtpSsrc p)

def execPacketArrival (d : Fin 2) (s : State) : Result :=
  .next (match s.plyIn.findIdx? (fun a => (s.play a.tid).die == d.val) with
    | none => s
    | some i => match s.plyIn[i]? with
      | none => s
      | some a => ({ s with plyIn := s.plyIn.eraseIdx i } : State).packetArrives a)

/-! ## Presentation (R277, R280) -/

/-- The numbers that NEXT passes, whose instants lie before an end, each with whether it was received: k at most. -/
def Play.advance (x : Play) (limit : Int) (top : Option Nat) (udptl : Bool) : Nat → Nat → List Bool
  | 0, _ => []
  | k + 1, n =>
    if x.ring.any (fun q => q.seq == n) then []
    else if x.hist.any (fun e => e.1 == n) then true :: x.advance limit top udptl k (n + 1)
    else
      let passes : Bool := match (if udptl then none else x.delta) with
        | none => (match top with | some t => decide (n < t) | none => false)
        | some dl =>
          match (x.hist.filter (fun e => decide (e.1 < n))).foldl (fun b e => match b with
              | some (q : Nat × Int) => if q.1 < e.1 then some e else some q
              | none => some e) none with
          | some r => decide (x.instant (r.2 + ((n : Int) - r.1) * dl) < limit)
          | none => false
      if passes then false :: x.advance limit top udptl k (n + 1) else []

/-- The packets due at a boundary, in µs, of a period in ms: left over ones, then the others. -/
def Play.allDue (x : Play) (b p : Nat) (udptl : Bool) : List Stored :=
  let lim : Int := ((b + 1000 * p) * 1000 : Nat)
  let fit := x.ring.filter (fun q => udptl || q.left || decide (x.instant q.ts < lim))
  let old (q : Stored) : Bool := !udptl && (q.left || decide (x.instant q.ts < ((b * 1000 : Nat) : Int)))
  fit.filter old ++ fit.filter (fun q => !old q)

/-- Those of them that are presented: 16 at most. -/
def Play.dueNow (x : Play) (b p : Nat) (udptl : Bool) : List Stored := (x.allDue b p udptl).take 16

/-- What stays stored behind a set presented: packets due beyond it are marked. -/
def Play.remain (x : Play) (b p : Nat) (udptl : Bool) : List Stored :=
  let beyond := (x.allDue b p udptl).drop 16
  (x.ring.filter (fun q => !(x.dueNow b p udptl).any (fun r => r.seq == q.seq))).map (fun q =>
    if beyond.any (fun r => r.seq == q.seq) then { q with left := true } else q)

/-- One number that NEXT passes, received or not, in the burst and gap model of RFC 3611 with Gmin 16 (R284, log 17). -/
def Burst.pass (g : Burst) (got : Bool) : Burst :=
  if got then { g with pkt := g.pkt + 1 }
  else if 16 ≤ g.pkt then
    { g with
      c14 := g.c14 + b2n (g.lost == 1), c13 := g.c13 + b2n (g.lost != 1), lost := 1, c11 := g.c11 + g.pkt, pkt := 0 }
  else
    { g with
      lost := g.lost + 1, c33 := g.c33 + b2n (g.pkt == 0), c23 := g.c23 + b2n (g.pkt != 0), c22 := g.c22 + (g.pkt - 1), pkt := 0 }

/-- The set of a boundary is fixed and NEXT advances. The packets of a set that no run took are freed first. -/
def State.present (s : State) (tid : BitVec 18) (b p : Nat) (udptl : Bool) : State :=
  let s0 := s.freeCells (s.play tid).pres
  let x := s.play tid
  if x.st = 0 then s0.setPlay tid { x with pres := [], presAt := b }
  else
    let set := x.dueNow b p udptl
    let y := { x with ring := x.remain b p udptl }
    let lim : Int := ((b + 1000 * p) * 1000 : Nat)
    let r := y.advance lim ((set.map (fun q => q.seq)).max?) udptl 256 y.next
    let lost := (r.filter (fun got => !got)).length
    let depth := match set.getLast? with
      | some q => ((x.instant q.ts - q.arrival) / 1000000).toNat
      | none => x.depth
    let s1 := s0.setPlay tid { y with
      pres := set, presAt := b, next := y.next + r.length, depth := if udptl then x.depth else depth
      relEnd := if udptl then x.relEnd else some (b + 1000 * p)
      rtcp := { x.rtcp with burst := r.foldl Burst.pass x.rtcp.burst }
      counts := { x.counts with lost := x.counts.lost + lost } }
    s1.plyBumpBy x.die (PLY.LOST_LO x.die) lost

/-- The TID handles UDPTL: an active entry of that type (R280). -/
def State.isUdptl (s : State) (tid : BitVec 18) : Bool :=
  s.cls.any (fun e => e.active && imgTid e.image == tid && imgType e.image == 2)

/-! ## The target (R279) -/

/-- A duration of one packet, in ns. -/
def Play.packetNs (x : Play) : Nat := match x.delta with | some d => (d * 1000000 / (x.khz : Int)).toNat | none => 0

/-- An adjustment in ms is owed. With ADJMODE 1 O moves at once; with 0 by the whole packet durations that fit, and what a
decrease leaves before the next boundary is freed. -/
def State.owe (s : State) (tid : BitVec 18) (ms : Int) : State :=
  let x := s.play tid
  if x.adj then s.setPlay tid { x with off := x.off + ms * 1000000, owed := x.owed + ms * 1000000 }
  else
    let o := x.owed + ms * 1000000
    let k := if x.packetNs = 0 ∨ o.natAbs ≤ 2000000 then 0 else o.natAbs / x.packetNs
    let m : Int := (if o < 0 then -1 else 1) * (k * x.packetNs : Nat)
    let y := { x with off := x.off + m, owed := o - m }
    let gone := if m < 0 then y.ring.filter (fun q => match x.due with
        | some b => decide (y.instant q.ts < ((b * 1000 : Nat) : Int))
        | none => false) else []
    ((s.setPlay tid { y with ring := y.ring.filter (fun q => !gone.any (fun r => r.seq == q.seq)) }).freeCells gone).countDiscard
      tid gone.length

/-- PLAYOUT_ADJUST: at the end of each second O follows the least-delayed packets, and LMIN starts anew. -/
def State.playoutAdjust (s : State) (tid : BitVec 18) : State :=
  let x := s.play tid
  if !x.live then s
  else
    let d : Int := match x.lmin with | some l => (x.tgt : Int) - l | none => 0
    let s1 := if 2 < d.natAbs then s.owe tid d else s
    s1.setPlay tid { s1.play tid with lmin := none }

def execPlayoutAdjust (tid : BitVec 18) (s : State) : Result := .next (s.playoutAdjust tid)

/-- PLY_ENABLE: CFG.EN is set and both pools' free lists are built (R276). -/
def State.plyEnable (s : State) : State :=
  let used (d : Nat) : Nat := (s.cellUse.filter (fun c => c / 2 ^ 22 == d)).length
  each (s.put PLY.CFG F.PLY_CFG_EN 1) (List.range 2) (fun u d =>
    u.put (PLY.FREE d) F.PLY_FREE_FREE (s.rf (PLY.POOL_CFG d) F.PLY_POOL_CFG_CELLS - used d))

def execPlyEnable (s : State) : Result := hostCmd s PLY.CFG (fun u => if u.rb PLY.CFG F.PLY_CFG_EN then u else u.plyEnable)

end Sys2Proof.Machine
end

