-- ==== Sys2Proof/Machine/Admission.lean ====
section
/-!
DEFINITION. The budget and the capacities of a cluster, what its slots take of them, standing shedding and the Vat's
mode (R71, R162, R189 to R192, R209, R211, R227, R241, R266), and what an ECC error does (R25, R62, R63, R101, R414).
-/

namespace Sys2Proof.Machine

/-! ## Budget (R71, R190) -/

/-- GLB.OP of an island (R66). -/
def opReg (i : Nat) : Nat := GLB.OP_CLUSTER 0 + 4 * i

/-- The effective point of a cluster (R69). -/
def State.effPoint (s : State) (n : Nat) : Nat := s.rf (opReg n) F.GLB_OP_CLUSTER_EFF

/-- The clock of a cluster point in units of 10 MHz (R69). -/
def pointClock (p : Nat) : Nat := if p = 0 then 60 else if p = 1 then 100 else if p = 2 then 125 else 150

/-- Tiles withdrawn from dispatch (R25). -/
def State.withdrawn (s : State) (n : Nat) : Nat :=
  ((List.range 12).filter (fun t => s.rb (TILE.STATE n t) F.TILE_STATE_WITHDRAWN)).length

/-- Tiles in dispatch: neither withdrawn nor halted (R150). -/
def State.tilesIn (s : State) (n : Nat) : Nat :=
  ((List.range 12).filter (fun t =>
    !s.rb (TILE.STATE n t) F.TILE_STATE_WITHDRAWN && !s.rb (TILE.STATE n t) F.TILE_STATE_HALTED)).length

/-- CTX.PCT as it acts. -/
def State.pct (s : State) (n : Nat) : Nat := Nat.max 50 (Nat.min 100 (s.rf (CTX.PCT n) F.CTX_PCT_PCT))

/-- The budget at a point: floor(F × 0.12 × T × PCT ÷ 100) (R190). -/
def State.budgetAt (s : State) (n p : Nat) : Nat :=
  pointClock p * 10000000 * 12 * s.tilesIn n * s.pct n / 10000

def State.budget (s : State) (n : Nat) : Nat := s.budgetAt n (s.effPoint n)

/-! ## Load (R191) -/

/-- Slots of a cluster, with their numbers. -/
def State.slotsOf (s : State) (n : Nat) : List (Nat × Slot) :=
  (s.slots.filter (fun e => e.1 / 8192 == n)).map (fun e => (e.1 % 8192, e.2))

/-- The charge of a slot: the greater of the old and the pending one until the switch. -/
def Slot.load (x : Slot) : Nat := match x.pending with | some c => Nat.max x.charge c.charge | none => x.charge

def Slot.use (x : Slot) : Units := match x.pending with | some c => x.units.max c.units | none => x.units

def State.load (s : State) (n : Nat) : Nat := ((s.slotsOf n).map (fun e => e.2.load)).sum

def State.useOf (s : State) (n : Nat) : Units :=
  (s.slotsOf n).foldl (fun u e => u.add e.2.use) ⟨0, 0, 0, 0⟩

/-- The capacities of the accelerators at a point, 0 where one is not enabled (R209, R227, R241, R266). -/
def State.capAt (s : State) (n p : Nat) : Units :=
  let on (a : Nat) (v : Nat) : Nat := if s.rv a % 2 = 1 then v else 0
  let tone := if p = 0 then 1966 else if p = 1 then 3276 else 4096
  { vat := on (VAT.CFG n) (if p = 0 then 1228 else if p = 1 then 2048 else 2560)
    tone := on (TONE.CFG n) tone
    src := on (SRC.CFG n) tone
    vde := on (VDE.CFG n) (if p = 0 then 491 else if p = 1 then 819 else 1024) }

def State.cap (s : State) (n : Nat) : Units := s.capAt n (s.effPoint n)

def Units.fits (u c : Units) : Bool :=
  decide (u.vat ≤ c.vat) && decide (u.tone ≤ c.tone) && decide (u.src ≤ c.src) && decide (u.vde ≤ c.vde)

/-! ## Standing shedding (R162) and the Vat's mode (R211) -/

/-- The level of standing shedding that load and budget give. -/
def State.shedLevel (s : State) (n : Nat) : Nat :=
  if s.load n ≤ s.budget n then 0
  else if s.load n - s.budget n ≤ ((s.slotsOf n).map (fun e => e.2.opt)).sum then 1 else 2

/-- The Vat's mode: 0 NORMAL, 1 REDUCED, 2 REDUCED with bypass. -/
def State.vatMode (s : State) (n : Nat) : Nat :=
  let u := (s.useOf n).vat
  let c := (s.cap n).vat
  if u ≤ c then 0 else if u ≤ 2 * c then 1 else 2

/-- Slots in bypass: those of the highest TIDs, until the units of the rest fit (R211). -/
def bypassSet (cap : Nat) : Nat → List (Nat × Slot) → List Nat
  | _, [] => []
  | total, e :: rest =>
    if total ≤ 2 * cap then []
    else if e.2.use.vat = 0 then bypassSet cap total rest
    else e.1 :: bypassSet cap (total - e.2.use.vat) rest

def State.bypassed (s : State) (n : Nat) : List Nat :=
  if s.vatMode n = 2 then
    bypassSet (s.cap n).vat (s.useOf n).vat
      (sortBy (s.slotsOf n) (fun a b => decide (b.2.tid.toNat ≤ a.2.tid.toNat)))
  else []

/-- The level and the mode are re-evaluated; each change sets its cause (R162, R211). -/
def State.reassess (s : State) (n : Nat) : State :=
  let lv := s.shedLevel n
  let s1 := if s.rf (WS.STATUS n) F.WS_STATUS_SHED = lv then s
    else (s.put (WS.STATUS n) F.WS_STATUS_SHED lv).raise (WS.EVT n) F.WS_EVT_SHED
  let m := s.vatMode n
  let s2 := s1.put (VAT.STATUS n) F.VAT_STATUS_BYPASSN (s.bypassed n).length
  if s.rf (VAT.STATUS n) F.VAT_STATUS_MODE = m then s2
  else (s2.put (VAT.STATUS n) F.VAT_STATUS_MODE m).raise (VAT.EVT n) F.VAT_EVT_MODE

/-! ## ECC errors (R62, R63, R414) -/

/-- A tile reports an uncorrectable error: two within 1 s withdraw it (R25). -/
def State.tileError (s : State) (n t : Nat) : State :=
  let now := s.tb2nsOn (dieOf n)
  let recent := (s.core n t).ueTimes.filter (fun x => decide (now ≤ x + 1000000000))
  let s1 := s.setCore n t { s.core n t with ueTimes := recent ++ [now] }
  if recent.isEmpty || s.rb (TILE.STATE n t) F.TILE_STATE_WITHDRAWN then s1
  else (s1.put (TILE.STATE n t) F.TILE_STATE_WITHDRAWN 1).reassess n

/-- An error in a tile bank: the counters, the log and the class (R104, R414). -/
def State.tileEcc (s : State) (n t bank addr : Nat) (ue : Bool) (synd : Nat) : State :=
  let s1 := s.bump (if ue then TILE.ECC_UNCORR_LO n t else TILE.ECC_CORR_LO n t) (WS.EVT n) F.WS_EVT_TCNT
  let s2 := s1.logError (dieOf n) 3 (b2n ue) (unitOf (some n) t) addr synd bank
  if ue then s2.tileError n t else s2

/-- The ECC counts of a cluster store (R23). -/
def State.countStore (s : State) (n : Nat) (ue : Bool) : State :=
  let c := s.cluster n
  s.setCluster n (if ue then { c with storeUncorr := c.storeUncorr + 1 } else { c with storeCorr := c.storeCorr + 1 })

/-- The ECC counts of a die's Cellar (R23). -/
def State.countCellar (s : State) (d : Nat) (ue : Bool) : State :=
  s.bumpDie d (fun x => if ue then { x with cellarUncorr := x.cellarUncorr + 1 } else { x with cellarCorr := x.cellarCorr + 1 })

/-- An error in a cluster store or kernel ROM bank; PROTECT counts those of the store (R361). -/
def State.storeEcc (s : State) (n bank addr : Nat) (ue : Bool) (synd : Nat) : State :=
  let c := s.cluster n
  (s.setCluster n (if ue then { c with storeUe := c.storeUe ++ [s.tb2nsOn (dieOf n)] } else { c with storeCe := c.storeCe ++ [s.tb2nsOn (dieOf n)] })).logError
    (dieOf n) 3 (2 + b2n ue) (unitOf (some n) 15) addr synd bank

/-- An error on a DRAM channel (R418). -/
def State.dramEcc (s : State) (c addr : Nat) (ue : Bool) (synd : Nat) : State :=
  let s1 := s.bump (if ue then DDR.UE_LO c else DDR.CE_LO c) (DDR.EVT c) F.DDR_EVT_CNT
  let s2 := if ue then s1.raise (DDR.EVT c) F.DDR_EVT_UE else s1
  s2.logError (c / 2) 6 (6 + b2n ue) 0 addr synd 0

/-- The bank of a DPA: SRAM interleaves by 64-bit word (R89; log 21). -/
def bankOf (a : Nat) : Nat :=
  match placeOf a with
  | .tile _ _ =>
    let o := (a - 0x30000000) % 0x80000
    if o < 0x20000 then o / 8 % 4 else if o < 0x40000 then 4 + o / 8 % 4
    else if o < 0x48000 then 8 + o / 8 % 2 else 10 + o / 8 % 2
  | .cellar _ => a / 8 % 512
  | .trace _ => a / 8 % 64
  | .store _ => a / 8 % 32
  | .rom _ => a / 8 % 32
  | .dram _ => 0
  | .registers => 0
  | .hole => 0

/-- What an error found at a DPA does beside the word itself. -/
def State.noteEcc (s : State) (a : Nat) (ue : Bool) (synd : Nat) : State :=
  match placeOf a with
  | .tile n t => s.tileEcc n t (bankOf a) (a / 8 * 8) ue synd
  | .store n => (s.countStore n ue).storeEcc n (bankOf a) (a / 8 * 8) ue synd
  | .rom n => s.storeEcc n (bankOf a) (a / 8 * 8) ue synd
  | .cellar d => (s.countCellar d ue).logError d 3 (4 + b2n ue) 0 (a / 8 * 8) synd (bankOf a)
  | .trace d => s.logError d 3 (4 + b2n ue) 0 (a / 8 * 8) synd (bankOf a)
  | .dram c => s.dramEcc c (a / 64 * 64) ue synd
  | .registers => s
  | .hole => s

/-- What SECDED finds when a word is read at a DPA: a corrected error is counted, an uncorrectable one also marks the
word poisoned (R62, R63). -/
def State.eccAt (s : State) (a : Nat) (e : Ecc) : State :=
  match e with
  | .ok => s
  | .ce synd => s.noteEcc a false synd.toNat
  | .ue synd => (s.poisonWord a).noteEcc a true synd.toNat

/-- An error in other SRAM of a die: classifier, playout, cask state, MAC buffers (R333). -/
def State.otherEcc (s : State) (d : Nat) (ue : Bool) (synd : Nat) : State :=
  s.logError d 3 (8 + b2n ue) 0 0 synd 0

end Sys2Proof.Machine
end

