-- ==== Sys2Proof/Machine/SlotOps.lean ====
section
/-!
DEFINITION. Home records, the users of profiles, and the end of a termination (R167, R168, R187, R216).
-/

namespace Sys2Proof.Machine

/-! ## Home records (R167) -/

def State.homeDpa (s : State) (n : Nat) (tid : BitVec 18) : Nat :=
  s.rf (CTX.HOMEBASE n) F.CTX_HOMEBASE_HOMEBASE * 4096 + 16 * tid.toNat

/-- A field of a cluster's home record of a TID: word and bits. -/
def State.homeField (s : State) (n : Nat) (tid : BitVec 18) (w hi lo : Nat) : Nat :=
  bits (s.unitLe (dieOf n) (s.homeDpa n tid + 4 * w) 4) hi lo

def State.homeValid (s : State) (n : Nat) (tid : BitVec 18) : Bool := s.homeField n tid 0 31 31 == 1
def State.homeMoving (s : State) (n : Nat) (tid : BitVec 18) : Bool :=
  s.rf (CTX.HOMEBASE n) F.CTX_HOMEBASE_HOMEBASE != 0 && s.homeField n tid 0 30 30 == 1

/-- A valid record is stale where its epoch is not that of the cluster it names (R168). -/
def State.homeStale (s : State) (n : Nat) (tid : BitVec 18) : Bool :=
  s.homeField n tid 0 7 0 != s.rf (CTX.EPOCH (s.homeField n tid 0 29 25)) F.CTX_EPOCH_EPOCH

/-- The first 8 bytes of a home record that names a cluster. -/
def State.homeWord (s : State) (n : Nat) (valid moving : Bool) (slot version : Nat) : Nat :=
  b2n valid * 2 ^ 31 + b2n moving * 2 ^ 30 + n % 32 * 2 ^ 25 + slot % 8192 * 2 ^ 12 +
    s.rf (CTX.EPOCH n) F.CTX_EPOCH_EPOCH + version % 65536 * 2 ^ 48

/-- The first 8 bytes of a home record, one store. -/
def State.writeHome (s : State) (n : Nat) (tid : BitVec 18) (valid moving : Bool) (slot version : Nat) : State :=
  s.unitWrite (dieOf n) (s.homeDpa n tid) (leBytes 8 (s.homeWord n valid moving slot version))

/-! ## Users of profiles (R216, R229, R242, R265) -/

/-- The USERS registers of a cluster by number: Vat profiles 0 to 15, detection 16 to 31, generator 32 to 47, VDE 48 to
63, user sets 64 to 66. -/
def usersReg (n i : Nat) : Nat :=
  if i < 16 then VAT.USERS n i
  else if i < 32 then TONE.DUSERS n (i - 16)
  else if i < 48 then TONE.GUSERS n (i - 32)
  else if i < 64 then VDE.USERS n (i - 48)
  else SRC.USERS n (i - 64)

/-- The profile that an instruction names. -/
def nameOf (w : Nat) : Option Nat :=
  if ciOp w = opEc then some (bits w 45 42)
  else if ciOp w = opToneDet then some (16 + bits w 43 40)
  else if ciOp w = opToneGen then some (32 + bits w 43 40)
  else if ciOp w = opVdeRx ∨ ciOp w = opVdeTx then some (48 + bits w 45 40 % 16)
  else if ciOp w = opSrc ∧ 5 ≤ bits w 45 43 then some (59 + bits w 45 43)
  else none

def State.namesOf (s : State) (c : List Byte) : List Nat := ((s.programWords c).filterMap nameOf).dedup

/-- Profiles that a slot's versions name, in force and pending. -/
def Slot.named (x : Slot) : List Nat := x.names ++ (match x.pending with | some c => c.names | none => [])

/-- The USERS registers of a cluster follow its slots. -/
def State.recount (s : State) (n : Nat) : State :=
  let l := (s.slotsOf n).map (fun e => e.2.named)
  each s (List.range 67) (fun u i => u.put (usersReg n i) ⟨12, 0⟩ (l.filter (fun x => x.contains i)).length)

/-- Charges or versions of a cluster have changed. -/
def State.settleSlots (s : State) (n : Nat) : State := (s.recount n).reassess n

/-! ## The end of a termination (R187) -/

/-- The playout state of a TID is removed, its cells freed. -/
def State.dropPlay (s : State) (tid : BitVec 18) : State :=
  let x := s.play tid
  { (s.freeCells (x.ring ++ x.pres)) with plays := sset s.plays Play.init tid.toNat Play.init }

/-- A slot's periodic timer is freed. -/
def State.dropPeriodic (s : State) (n k : Nat) : State :=
  s.setCluster n { s.cluster n with
    timers := (s.cluster n).timers.filter (fun e => match e.2.kind with
      | .periodic j => j.toNat != k
      | .oneShot _ _ _ => true) }

/-- The slot becomes FREE: its charge and units are released. -/
def State.clearSlot (s : State) (n k : Nat) : State :=
  (s.setSlot n k Slot.init).settleSlots n

/-- A deleted termination goes: playout state, classifier entries and home record with it. -/
def State.freeTermination (s : State) (n k : Nat) : State :=
  let tid := (s.slot n k).tid
  ((((s.dropPlay tid).clsDelete tid).writeHome n tid false false k (s.slot n k).inForce.toNat).dropPeriodic n k).clearSlot n k

/-- No run of the slot is in progress or waits. -/
def State.slotQuiet (s : State) (n k : Nat) : Bool :=
  let mine (i : Item) : Bool := match i.run with | some (j, _) => j.toNat == k | none => false
  (s.slot n k).run0.isNone && (s.slot n k).run1.isNone && !(s.cluster n).pend.any mine &&
    !(s.cluster n).waiting.any (fun w => mine w.1)

/-- A DELETING slot whose last run has ended becomes FREE. -/
def State.reap (s : State) (n k : Nat) : State :=
  if (s.slot n k).st = .deleting ∧ s.slotQuiet n k then s.freeTermination n k else s

end Sys2Proof.Machine
end

