-- ==== Sys2Proof/Machine/Runs.lean ====
section
/-!
DEFINITION. A chain run as its items end: missed runs, shedding and substitution (R158 to R161), the end of a kernel
item (R103, R159, R181), and the copies that TRACE forks (R382).
-/

namespace Sys2Proof.Machine

/-! ## The run in progress -/

def State.run (s : State) (n k : Nat) (chain : Fin 2) : Option Run :=
  if chain = 0 then (s.slot n k).run0 else (s.slot n k).run1

def State.setRun (s : State) (n k : Nat) (chain : Fin 2) (r : Option Run) : State :=
  if chain = 0 then s.setSlot n k { s.slot n k with run0 := r } else s.setSlot n k { s.slot n k with run1 := r }

/-- The instruction at the run's index, END beyond the chain. -/
def State.runInstr (s : State) (r : Run) (chain : Fin 2) : Nat :=
  if r.idx < 32 then s.chainInstr (ctxProg r.ctx) chain r.idx else opEnd * 2 ^ 56

/-- A block of the run. -/
def Run.block (r : Run) (b : Nat) : Block := r.blocks.toList.getD b Block.empty

def Run.setBlock (r : Run) (b : Nat) (x : Block) : Run :=
  { r with blocks := r.blocks.set (b % 8) x (Nat.mod_lt _ (by decide)) }

/-! ## Missed runs (R161) -/

/-- The run is missed, once, by a cause: 1 excess, 2 exception, 3 poisoned, 4 deadline, 5 halted. -/
def State.logMiss (s : State) (n : Nat) (tid : BitVec 18) (idx cause : Nat) : State :=
  let s1 := s.bump (WS.MISSED_LO n) (WS.EVT n) F.WS_EVT_WCNT
  let s2 := if s1.rb (WS.MISS_LOG n) F.WS_MISS_LOG_VALID then s1
    else (s1.wv (WS.MISS_LOG n) (2 ^ 31 + cause * 2 ^ 24 + idx % 32 * 2 ^ 18 + tid.toNat)).setReg (WS.MISS_TIME n) (s1.tb2nOn (dieOf n))
  s2.raise (WS.EVT n) F.WS_EVT_MISS

/-- A missed run of a slot counts in its metrics too (R170). -/
def State.missSlot (s : State) (n k idx cause : Nat) : State :=
  let s1 := s.logMiss n (s.slot n k).tid idx cause
  s1.setSlot n k { s1.slot n k with missed := (s1.slot n k).missed + 1 }

def State.missRun (s : State) (n k : Nat) (chain : Fin 2) (cause : Nat) : State :=
  match s.run n k chain with
  | none => s
  | some r => if r.missed then s else (s.setRun n k chain (some { r with missed := true })).missSlot n k r.idx cause

/-! ## Shedding and substitution (R158) -/

/-- Declared costs of a chain's instructions, in order (R189). -/
def State.walkCosts (s : State) (x : WalkCtx) (a : Walk) (before : List Nat) : List Nat → List Nat
  | [] => []
  | w :: rest =>
    let b := s.walkStep x a before rest w
    (b.cost - a.cost) :: s.walkCosts x b (before ++ [w]) rest

def State.runCosts (s : State) (n : Nat) (r : Run) (chain : Fin 2) : List Nat :=
  match s.chainWords (ctxProg r.ctx) chain with
  | some ws => s.walkCosts (s.walkCtx n r.ctx) Walk.init [] ws
  | none => []

/-- One instruction is counted as shed. -/
def State.countShed (s : State) (n k : Nat) : State :=
  let s1 := s.bump (WS.SHED_OPT_LO n) (WS.EVT n) F.WS_EVT_WCNT
  s1.setSlot n k { s1.slot n k with shed := (s1.slot n k).shed + 1 }

def State.countPlc (s : State) (n : Nat) : State := s.bump (WS.PLC_SUBST_LO n) (WS.EVT n) F.WS_EVT_WCNT

/-- Step 1 of R158: OPT instructions after the current one are shed until the excess is covered. -/
def State.shedOpt (s : State) (n k : Nat) (chain : Fin 2) (l : List (Nat × Nat × Nat)) : State :=
  each s l (fun u e =>
    match u.run n k chain with
    | none => u
    | some r =>
      if 0 < r.excess ∧ r.idx < e.1 ∧ ciOpt e.2.1 ∧ !r.shed.contains e.1 then
        (u.setRun n k chain (some { r with shed := r.shed ++ [e.1], excess := r.excess - e.2.2 })).countShed n k
      else u)

/-- Step 2 of R158: DEC instructions of a PKT termination become PLC until the excess is covered. -/
def State.substPlc (s : State) (n k : Nat) (chain : Fin 2) (l : List (Nat × Nat × Nat)) : State :=
  each s l (fun u e =>
    match u.run n k chain with
    | none => u
    | some r =>
      if 0 < r.excess ∧ r.idx < e.1 ∧ ciOp e.2.1 = opDec ∧ !r.plc.contains e.1 ∧ !r.shed.contains e.1 then
        (u.setRun n k chain (some { r with
          plc := r.plc ++ [e.1]
          excess := r.excess - ((e.2.2 : Int) - perRun (plcCost (ciCodec e.2.1) (ciB e.2.1)) (ctxPeriod r.ctx)) })).countPlc n
      else u)

/-- R158: the excess of an ended item is added and, where the run's is then above 0, the rest of the run is marked. -/
def State.addExcess (s : State) (n k : Nat) (chain : Fin 2) (x : Nat) : State :=
  match s.run n k chain with
  | none => s
  | some r =>
    let s1 := s.setRun n k chain (some { r with excess := r.excess + x })
    let ws := (s.chainWords (ctxProg r.ctx) chain).getD []
    let l := ((ws.zip (s.runCosts n r chain)).zipIdx).map (fun e => (e.2, e.1.1, e.1.2))
    let s2 := s1.shedOpt n k chain l
    let s3 := if ctxKind r.ctx = 1 then s2.substPlc n k chain l else s2
    match s3.run n k chain with
    | some q => if 0 < q.excess then s3.missRun n k chain 1 else s3
    | none => s3

/-! ## Trace forks (R382) -/

def sampleBytes (l : List (BitVec 16)) : List Byte := l.flatMap (fun x => leBytes 2 x.toNat)

/-- The content of a block as bytes. -/
def Block.bytes (b : Block) : List Byte := if b.frames.isEmpty then sampleBytes b.samples else b.frames.flatten

def Block.flags (b : Block) : Nat := b2n b.missing + 2 * b2n b.noise + 4 * b2n b.sid

/-- A block copied by TRACE goes to every armed CHAIN probe of the die that names the TID; unclaimed forks are counted.
The DATA field of a block's header entry is not stated (log 6). -/
def State.forkTrace (s : State) (n : Nat) (tid : BitVec 18) (boundary : Nat) (b : Block) : State :=
  let d := dieOf n
  let takers := (List.range 16).filter (fun p =>
    (s.probe d p).armed && (s.probe d p).src == 4 && s.rf (TRC.P_SEL d p) F.TRC_P_SEL_SEL == tid.toNat)
  if takers.isEmpty then s.trcBump State.raise d (TRC.UNCLAIMED_LO d)
  else
    let x : TraceIn := ⟨boundary * 1000, traceFrame (boundary * 1000) b.flags (s.freeBytes 8) b.bytes, [(0x50, b.flags)],
      true, 1, b2n b.missing⟩
    each (s.draw 8) takers (fun u p => u.capture State.raise d p x)

/-! ## The end of an instruction -/

/-- A non-zero kernel code is counted (R181). -/
def State.kernelError (s : State) (n : Nat) : State :=
  (s.bump (CTX.KERR_LO n) (CTX.EVT n) F.CTX_EVT_CCNT).raise (CTX.EVT n) F.CTX_EVT_KERR

/-- The run is over: what it was presented is freed (R276), and a slot whose delete waited for it becomes FREE (R187). -/
def State.endRun (s : State) (n k : Nat) (chain : Fin 2) : State :=
  let s1 := s.setRun n k chain none
  match s.run n k chain with
  | none => s
  | some r => (s1.freeCells r.cells).reap n k

/-- An instruction of the run is done, with its output block, where it has one: the block is stored and forked, and the
index advances. A run closed by its deadline ends with its last item (R160). -/
def State.instrDone (s : State) (n k : Nat) (chain : Fin 2) (out : Option Block) : State :=
  match s.run n k chain with
  | none => s
  | some r =>
    if r.closed then s.endRun n k chain
    else
      let w := s.runInstr r chain
      let r1 := match out with | some b => r.setBlock (ciBo w) b | none => r
      let s1 := s.setRun n k chain (some { r1 with idx := r.idx + 1, wait := .none })
      match out with
      | some b => if ciTrace w then s1.forkTrace n (s.slot n k).tid r.boundary b else s1
      | none => s1

/-- Samples from bytes. -/
def bytesSamples (bs : List Byte) : List (BitVec 16) :=
  (List.range (bs.length / 2)).map (fun i => BitVec.ofNat 16 (leAt bs (2 * i) 2))

/-- The state that the sequencer staged for an item goes back to its area, with its poison (R65, R174). -/
def State.stateBack (s : State) (n t : Nat) (it : Item) : State :=
  match it.area with
  | some (a, len) => s.copyBytes (tileDpa n t stageStateAt) a len
  | none => s

/-- A kernel's output from the staging area: the staged samples, or staged frames, in place of the block's (R174); a block
that poison lies in is MISSING (R65, log 62). -/
def State.kernelOutput (s : State) (n t : Nat) (r : Run) (w : Nat) : Block :=
  let b := r.block (ciBi w)
  let a := tileDpa n t stageOutAt
  let len := if b.frames.isEmpty then 2 * b.samples.length else b.frames.flatten.length
  if len ≠ 0 ∧ s.poisonedIn a len then Block.empty
  else if b.frames.isEmpty then { b with samples := bytesSamples (s.bytes a len) }
  else { b with frames := [s.bytes a len] }

/-- A kernel item of a run ends with RET (R103, R158, R181). -/
def State.runItemDone (s : State) (n t : Nat) (it : Item) (cyc code : Nat) : State :=
  match it.run with
  | none => s
  | some (slot, chain) =>
    match s.run n slot.toNat chain with
    | none => s
    | some r =>
      let s1 := if code % 65536 = 0 then s else s.kernelError n
      let s2 := s1.addExcess n slot.toNat chain (cyc - it.cost.toNat)
      (s2.stateBack n t it).instrDone n slot.toNat chain (some (s2.kernelOutput n t r (s.runInstr r chain)))

/-- An instruction whose item has faulted: a DEC of a PKT termination is issued again as PLC, any other passes its input
block on (R159). -/
def State.faultPasses (s : State) (n k : Nat) (chain : Fin 2) : State :=
  match s.run n k chain with
  | none => s
  | some r =>
    let w := s.runInstr r chain
    if ciOp w = opDec ∧ ctxKind r.ctx = 1 ∧ !r.plc.contains r.idx ∧ !r.closed then
      (s.setRun n k chain (some { r with plc := r.plc ++ [r.idx], wait := .none })).countPlc n
    else s.instrDone n k chain (some (r.block (ciBi w)))

/-- A kernel item of a run ends by exception: no output, and the run is missed (R159). -/
def State.runItemFault (s : State) (n : Nat) (it : Item) (cyc : Nat) : State :=
  match it.run with
  | none => s
  | some (slot, chain) =>
    ((s.addExcess n slot.toNat chain (cyc - it.cost.toNat)).missRun n slot.toNat chain 2).faultPasses n slot.toNat chain

end Sys2Proof.Machine
end

