-- ==== Sys2Proof/Machine/Operands.lean ====
section
/-!
DEFINITION. The operands of core instructions: registers by extended number, control registers, memory modes and
circular addressing, and writes of results (R81, R82, R91, R110, R117, R119).
-/

namespace Sys2Proof.Machine

/-! ## Control registers (R82) -/

/-- TILEID of a core. -/
def tileId (n t : Nat) : Word := BitVec.ofNat 32 (n * 256 + t)

/-- The value of a control register. -/
def Core.ctlVal (c : Core) (n t : Nat) (k : Nat) : Word :=
  match k with
  | 0 => c.stat
  | 1 => c.ctrl
  | 2 => c.pc
  | 3 => c.cyc
  | 4 => c.ilim
  | 5 => c.itid.setWidth 32
  | 6 => tileId n t
  | 7 => c.tb2s
  | 8 => c.tb2ns
  | 9 => c.lstart[0]
  | 10 => c.lstart[1]
  | 11 => c.lstart[2]
  | 12 => c.lstart[3]
  | 13 => c.lend[0]
  | 14 => c.lend[1]
  | 15 => c.lend[2]
  | 16 => c.lend[3]
  | _ => 0

/-- The read-only fields of STAT: RDEF and LDEPTH. -/
def statRo : Word := 0x0C070000

/-- A write to a control register would change a read-only register or field. -/
def Core.roChange (c : Core) (n t k : Nat) (v : Word) : Bool :=
  if k = 0 then (v &&& statRo) != (c.stat &&& statRo)
  else if k = 1 then false
  else v != c.ctlVal n t k

/-- Bits of CTRL that are written. -/
def ctrlRw : Word := 0x03FFF0FF

/-! ## Extended register numbers (R119) -/

/-- The register that an extended number names, none where it is reserved. -/
def extReg (x : BitVec 8) : Option CReg :=
  let v := x.toNat
  if v < 0x20 then some (.g ⟨v % 32, Nat.mod_lt _ (by decide)⟩)
  else if v < 0x30 then some (.p ⟨v % 16, Nat.mod_lt _ (by decide)⟩)
  else if v < 0x38 then some (.m ⟨v % 8, Nat.mod_lt _ (by decide)⟩)
  else if v < 0x40 then some (.cbase ⟨v % 8, Nat.mod_lt _ (by decide)⟩)
  else if v < 0x48 then some (.clen ⟨v % 8, Nat.mod_lt _ (by decide)⟩)
  else if v < 0x4C then some (.lc ⟨v % 4, Nat.mod_lt _ (by decide)⟩)
  else if v = 0x4C then some .qvec
  else if v < 0x60 then none
  else if v < 0x71 then some (.ctl ⟨v % 32, Nat.mod_lt _ (by decide)⟩)
  else if v < 0x80 then none
  else if v < 0xA0 then
    if v % 4 = 0 then some (.accPart ⟨v / 4 % 8, Nat.mod_lt _ (by decide)⟩ 0)
    else if v % 4 = 1 then some (.accPart ⟨v / 4 % 8, Nat.mod_lt _ (by decide)⟩ 1)
    else if v % 4 = 2 then some (.accPart ⟨v / 4 % 8, Nat.mod_lt _ (by decide)⟩ 2)
    else none
  else none

/-- A part of an accumulator as it is read (R81). -/
def accPart (a : BitVec 72) (p : Fin 3) : Word :=
  if p = 0 then a.setWidth 32 else if p = 1 then a.extractLsb' 32 32 else (a.extractLsb' 64 8).signExtend 32

/-- An accumulator with a part written. -/
def accWith (a : BitVec 72) (p : Fin 3) (v : Word) : BitVec 72 :=
  if p = 0 then a.extractLsb' 32 40 ++ v
  else if p = 1 then a.extractLsb' 64 8 ++ v ++ a.extractLsb' 0 32
  else (v.setWidth 8 : BitVec 8) ++ a.extractLsb' 0 64

/-- The value that a register reads as a 32-bit source; a whole accumulator or predicate is no such source. -/
def Core.read (c : Core) (n t : Nat) : CReg → Word
  | .g i => c.g[i]
  | .p i => c.p[i]
  | .m i => c.m[i]
  | .cbase i => c.cbase[i]
  | .clen i => c.clen[i]
  | .lc i => c.lc[i]
  | .q i => if c.q.getLsbD i.val then 1 else 0
  | .qvec => c.q.setWidth 32
  | .ctl k => c.ctlVal n t k.val
  | .acc i => c.acc[i].setWidth 32
  | .accPart i p => accPart c.acc[i] p

/-- The core with a register written: Q0 stays 1, AV and SV are cleared by ones, read-only registers stay. -/
def Core.write (c : Core) : CReg → BitVec 72 → Core
  | .g i, v => { c with g := c.g.set i (v.setWidth 32) }
  | .p i, v => { c with p := c.p.set i (v.setWidth 32) }
  | .m i, v => { c with m := c.m.set i (v.setWidth 32) }
  | .cbase i, v => { c with cbase := c.cbase.set i (v.setWidth 32) }
  | .clen i, v => { c with clen := c.clen.set i (v.setWidth 32) }
  | .lc i, v => { c with lc := c.lc.set i (v.setWidth 32) }
  | .q i, v => if i = 0 then c else
      { c with q := if v.getLsbD 0 then c.q ||| (1 <<< i.val) else c.q &&& ~~~((1 : BitVec 8) <<< i.val) }
  | .qvec, v => { c with q := v.setWidth 8 ||| 1 }
  | .ctl k, v =>
    if k = 0 then { c with stat := c.stat &&& ~~~(v.setWidth 32 &&& 0xC0) }
    else if k = 1 then { c with ctrl := v.setWidth 32 &&& ctrlRw }
    else c
  | .acc i, v => { c with acc := c.acc.set i v }
  | .accPart i p, v => { c with acc := c.acc.set i (accWith c.acc[i] p (v.setWidth 32)) }

/-- Two registers share storage, as R84 counts a clash. Two parts of one accumulator do (DESIGN CHOICE, log 49). -/
def CReg.clash : CReg → CReg → Bool
  | .acc i, .acc j => i == j
  | .acc i, .accPart j _ => i == j
  | .accPart i _, .acc j => i == j
  | .accPart i _, .accPart j _ => i == j
  | .qvec, .q j => j != 0
  | .q i, .qvec => i != 0
  | .q i, .q j => i == j && i != 0
  | a, b => a == b

/-! ## Circular addressing (R91) -/

/-- The buffer that a pointer is bound to. -/
def Core.boundTo (c : Core) (pn : Fin 16) : Option (Fin 8) :=
  if pn.val < 8 then
    if c.ctrl.getLsbD pn.val then some ⟨pn.val % 8, Nat.mod_lt _ (by decide)⟩ else none
  else if pn = 15 ∧ c.ctrl.getLsbD 15 then some ⟨bits c.ctrl.toNat 14 12 % 8, Nat.mod_lt _ (by decide)⟩
  else none

/-- A pointer after a post-modify by a signed modifier: at most one correction by the length. The sum is
compared with the buffer's ends before it wraps (DESIGN CHOICE, log 50). -/
def Core.postMod (c : Core) (pn : Fin 16) (m : Int) : Word :=
  let a : Int := (c.p[pn].toNat : Int) + m
  match c.boundTo pn with
  | none => word a
  | some k =>
    let b : Int := c.cbase[k].toNat
    let l : Int := c.clen[k].toNat
    if l = 0 then word a
    else if b + l ≤ a then word (a - l)
    else if a < b then word (a + l)
    else word a

/-! ## Memory modes (R117) -/

/-- What a MEM operand gives: the address, the pointer written and its value, whether its encoding is allowed. -/
structure MemAddr where
  addr : Nat
  post : Option Word
  ok : Bool
  deriving DecidableEq, Repr

def Core.memAddr (c : Core) (pn : Fin 16) (mode : BitVec 2) (off : BitVec 10) (size : Nat) : MemAddr :=
  let k : Fin 8 := ⟨off.toNat % 8, Nat.mod_lt _ (by decide)⟩
  let regOk := off.toNat / 8 == 0
  let p := c.p[pn]
  match mode.toNat with
  | 0 => ⟨(word ((p.toNat : Int) + off.toInt * size)).toNat, none, true⟩
  | 1 => ⟨p.toNat, some (c.postMod pn (off.toInt * size)), true⟩
  | 2 => ⟨p.toNat, some (c.postMod pn c.m[k].toInt), regOk⟩
  | _ => ⟨(word ((p.toNat : Int) + c.m[k].toInt)).toNat, none, regOk⟩

/-- Bytes of a load as a register value (R117). -/
def loadVal (size : Nat) (signed : Bool) (v : Nat) : Word :=
  if signed then word (toSigned (8 * size) v) else BitVec.ofNat 32 v

end Sys2Proof.Machine
end

