-- ==== Sys2Proof/Machine/Bundle.lean ====
section
/-!
DEFINITION. Issue of a bundle (R84 to R94, R98 to R100): its instructions gather in the core, are judged together, and
take effect together or not at all. An exception ends the work item.
-/

namespace Sys2Proof.Machine

/-! ## Items that end (R99, R100, R103, R104) -/

def Core.depth (c : Core) : Nat := bits c.stat.toNat 18 16

def Core.withDepth (c : Core) (d : Nat) : Core := { c with stat := fset ⟨18, 16⟩ c.stat d }

/-- The tile runs nothing any more: its open packets are abandoned (R135), it is gated, and its levels are closed. -/
def State.endItem (s : State) (n t : Nat) : State :=
  let c := s.core n t
  let s1 := s.setCore n t { c.withDepth 0 with
    running := none, bundle := [], loadLate := [], accLate := [], outLoads := [], stepping := false }
  let s2 := (s1.put (TILE.STATE n t) F.TILE_STATE_RUNNING 0).put (TILE.STATE n t) F.TILE_STATE_GATED 1
  s2.abandonAll (.tile ⟨n % 32, Nat.mod_lt _ (by decide)⟩ ⟨t % 12, Nat.mod_lt _ (by decide)⟩)

/-- The exception log of a tile (R104). -/
def State.logException (s : State) (n t code addr : Nat) : State :=
  let a := TILE.EXC_INFO n t
  if s.rb a F.TILE_EXC_INFO_VALID then
    s.put a F.TILE_EXC_INFO_MORE (min 255 (s.rf a F.TILE_EXC_INFO_MORE + 1))
  else
    ((((s.put a F.TILE_EXC_INFO_VALID 1).put a F.TILE_EXC_INFO_CODE code).setReg (TILE.EXC_PC n t) (s.core n t).pc).wv
      (TILE.EXC_ADDR n t) addr).wv (TILE.EXC_TID n t) (s.core n t).itid.toNat

/-- TAKING AN EXCEPTION (R98, R100): logged, counted and raised; the item ends, and its run is missed (R159). -/
def State.exception (s : State) (n t code addr : Nat) : State :=
  let c := s.core n t
  let s1 := ((s.logException n t code addr).bump (TILE.EXCEPTIONS_LO n t) (WS.EVT n) F.WS_EVT_TCNT).raise
    (WS.EVT n) F.WS_EVT_EXC
  let s2 := s1.endItem n t
  match c.running with
  | some it => s2.runItemFault n it (if code = 7 then c.ilim.toNat else c.cyc.toNat)
  | none => s2

/-- RET (R103): the item ends with its result code. -/
def State.returnItem (s : State) (n t : Nat) : State :=
  let c := s.core n t
  let s1 := (s.bump (TILE.ITEMS_LO n t) (WS.EVT n) F.WS_EVT_TCNT).endItem n t
  match c.running with
  | some it => s1.runItemDone n t it c.cyc.toNat c.g[0].toNat
  | none => s1

/-! ## Memory accesses of a bundle (R87, R88, R98, R118) -/

/-- A core reaches a DPA: memory stands there, it is no trace memory, and its die is reachable (R37, R38, R416). -/
def State.coreReaches (s : State) (n a : Nat) : Bool :=
  s.mapped a && !isTrace a && !(s.divided && dieAt a != dieOf n)

/-- A core store may not go there: its own C and P memory, any kernel ROM (R88, R98). -/
def storeBarred (n t a : Nat) : Bool :=
  match placeOf a with
  | .tile m u => m == n && u == t && decide (0x40000 ≤ (a - 0x30000000) % 0x80000)
  | .rom _ => true
  | _ => false

/-- The outcome of an access: the state, the registers written, and the exception with its address and the error that it
found. -/
structure Access where
  s : State
  writes : List (CReg × BitVec 72)
  exc : Option (Nat × Nat × Nat × Ecc)

/-- One access of an A slot. A store of less than 64 bits reads the word that it merges into (R62, R64). -/
def State.access (s : State) (n t fwb : Nat) (m : MemOp) : Access :=
  match m with
  | .load a size signed rd ecc =>
    match coreToDpa n t fwb a with
    | none => ⟨s, [], some (3, a, 0, .ok)⟩
    | some dpa =>
      if !s.coreReaches n dpa then ⟨s, [], some (3, a, 0, .ok)⟩
      else if a % size ≠ 0 then ⟨s, [], some (4, a, 0, .ok)⟩
      else if s.poisoned dpa then ⟨s, [], some (5, a, 0, .ok)⟩
      else
        let v := s.le dpa size
        let ws : List (CReg × BitVec 72) :=
          if size = 8 then
            [(.g rd, (BitVec.ofNat 32 v).setWidth 72),
             (.g ⟨(rd.val + 1) % 32, Nat.mod_lt _ (by decide)⟩, (BitVec.ofNat 32 (v / 2 ^ 32)).setWidth 72)]
          else [(.g rd, (loadVal size signed v).setWidth 72)]
        match ecc with
        | .ok => ⟨s, ws, none⟩
        | .ce y => ⟨s.eccAt dpa (.ce y), ws, none⟩
        | .ue y => ⟨s, [], some (5, a, dpa, .ue y)⟩
  | .store a size ecc v =>
    match coreToDpa n t fwb a with
    | none => ⟨s, [], some (3, a, 0, .ok)⟩
    | some dpa =>
      if !s.coreReaches n dpa || storeBarred n t dpa then ⟨s, [], some (3, a, 0, .ok)⟩
      else if a % size ≠ 0 then ⟨s, [], some (4, a, 0, .ok)⟩
      else if size = 8 then ⟨s.write dpa (leBytes size v.toNat), [], none⟩
      else if s.poisoned dpa then ⟨s, [], some (5, a, 0, .ok)⟩
      else
        match ecc with
        | .ok => ⟨s.write dpa (leBytes size v.toNat), [], none⟩
        | .ce y => ⟨(s.eccAt dpa (.ce y)).write dpa (leBytes size v.toNat), [], none⟩
        | .ue y => ⟨s, [], some (5, a, dpa, .ue y)⟩

/-- The accesses of a bundle in slot order, up to the first exception (R99, R118). -/
def State.accessAll (s : State) (n t fwb : Nat) : List MemOp → Access
  | [] => ⟨s, [], none⟩
  | m :: rest =>
    let a := s.access n t fwb m
    match a.exc with
    | some _ => a
    | none =>
      let b := a.s.accessAll n t fwb rest
      ⟨b.s, a.writes ++ b.writes, b.exc⟩

/-- The C-stream read: the state, the 64-bit word at P15, and its exception as of `Access` (R62, R87). -/
def State.streamRead (s : State) (n t fwb a : Nat) (ecc : Ecc) : State × Nat × Option (Nat × Nat × Nat × Ecc) :=
  match coreToDpa n t fwb a with
  | none => (s, 0, some (3, a, 0, .ok))
  | some dpa =>
    if !s.coreReaches n dpa then (s, 0, some (3, a, 0, .ok))
    else if a % 8 ≠ 0 then (s, 0, some (4, a, 0, .ok))
    else if s.poisoned dpa then (s, 0, some (5, a, 0, .ok))
    else
      match ecc with
      | .ok => (s, s.le dpa 8, none)
      | .ce y => (s.eccAt dpa (.ce y), s.le dpa 8, none)
      | .ue y => (s, 0, some (5, a, dpa, .ue y))

/-- The operand bus of a core address: 0 X, 1 Y, 2 C, none elsewhere. -/
def busOf (a : Nat) : Option Nat :=
  if a < 0x20000 then some 0 else if a < 0x40000 then some 1 else if a < 0x48000 then some 2 else none

def MemOp.addr : MemOp → Nat
  | .load a _ _ _ _ => a
  | .store a _ _ _ => a

def MemOp.size : MemOp → Nat
  | .load _ z _ _ _ => z
  | .store _ z _ _ => z

def MemOp.isLoad : MemOp → Bool
  | .load _ _ _ _ _ => true
  | .store _ _ _ _ => false

/-- Accesses as the buses see them: bus, aligned word, load or store. -/
def busList (ms : List MemOp) (cs : Option Nat) : List (Nat × Nat × Bool) :=
  (ms.filterMap (fun m => (busOf m.addr).map (fun b => (b, m.addr / 8, m.isLoad)))) ++
    (match cs with | some a => (match busOf a with | some b => [(b, a / 8, true)] | none => []) | none => [])

/-- Cycles stalled by R87: each access beyond the first on a bus, two loads of one word counting once. -/
def busStall (l : List (Nat × Nat × Bool)) : Nat :=
  let l1 := l.foldl (fun (acc : List (Nat × Nat × Bool)) x => if x.2.2 && acc.contains x then acc else acc ++ [x]) []
  ((List.range 3).map (fun b => (l1.filter (fun x => x.1 == b)).length - 1)).sum

/-! ## Multiplies (R95, R96, R114) -/

/-- An operand half or word as an integer. -/
def asInt (uns : Bool) (width v : Nat) : Int := if uns then ((v % 2 ^ width : Nat) : Int) else toSigned width v

/-- The products of a multiply, one for each accumulator, aligned. -/
def MacOp.products (m : MacOp) (b : Word) : List Int :=
  let sh (k : Nat) (v : Int) : Int := if m.f then v * ((2 ^ k : Nat) : Int) else v
  let al := (lo16 m.a).toInt
  let ah := (hi16 m.a).toInt
  let bl := (lo16 b).toInt
  let bh := (hi16 b).toInt
  match m.kind with
  | .mul16 => [sh 33 ((half m.m14 m.a).toInt * (half m.m13 b).toInt)]
  | .mul2 => [sh 33 (if m.m14 then al * bh + ah * bl else al * bl + ah * bh)]
  | .mulP => [sh 33 (al * bl), sh 33 (ah * bh)]
  | .mulW => [sh 17 (m.a.toInt * asInt m.m13 16 (half m.m14 b).toNat)]
  | .mulL => [sh 1 (asInt m.m14 32 m.a.toNat * asInt m.m13 32 b.toNat)]

/-- An accumulator after a product, and overflow. -/
def macOne (k : Opk) (acc : BitVec 72) (p : Int) : BitVec 72 × Bool :=
  match k with
  | .mpy => acc72 p
  | .mac => acc72 (acc.toInt + p)
  | .msu => acc72 (acc.toInt - p)

/-- The accumulators that a multiply writes, and whether one overflowed. -/
def MacOp.results (m : MacOp) (c : Core) (b : Word) : List (CReg × BitVec 72) × Bool :=
  match m.products b with
  | [p] => let r := macOne m.opk c.acc[m.accd] p; ([(.acc m.accd, r.1)], r.2)
  | [p, q] =>
    let j : Fin 8 := ⟨(m.accd.val + 1) % 8, Nat.mod_lt _ (by decide)⟩
    let r := macOne m.opk c.acc[m.accd] p
    let u := macOne m.opk c.acc[j] q
    ([(.acc m.accd, r.1), (.acc j, u.1)], r.2 || u.2)
  | _ => ([], false)

/-- The second operand of a multiply, from the C-stream word where it names CS. -/
def MacOp.operand (m : MacOp) (cs : Nat) : Word :=
  match m.cs with
  | none => m.b
  | some .w0 => BitVec.ofNat 32 cs
  | some .w1 => BitVec.ofNat 32 (cs / 2 ^ 32)

/-! ## The rules of a bundle (R84) -/

/-- Two different instructions write one register. -/
def clashes : List Pend → Bool
  | [] => false
  | p :: rest => rest.any (fun q => p.dests.any (fun a => q.dests.any (fun b => a.clash b))) || clashes rest

/-- Some instruction names CS. -/
def usesStream (ps : List Pend) : Bool := ps.any (fun p => match p.mac with | some m => m.cs.isSome | none => false)

/-- The bundle breaks a rule of R84. -/
def slotsBad (ps : List Pend) (ended : Bool) : Bool :=
  let ms := ps.filter (fun p => p.cls == .m || p.cls == .mBoth)
  let as := ps.filter (fun p => p.cls == .a || p.cls == .control)
  decide (2 < ms.length) || decide (2 < as.length) || (ms.any (fun p => p.cls == .mBoth) && decide (1 < ms.length)) ||
    (as.drop 1).any (fun p => p.cls == .control) || !ended || clashes ps ||
    (usesStream ps && ps.any (fun p => p.dests.contains (.p 15)))

/-! ## Control effects -/

/-- The tile as producer of casks. -/
def tileProducer (n t : Nat) : Producer := .tile ⟨n % 32, Nat.mod_lt _ (by decide)⟩ ⟨t % 12, Nat.mod_lt _ (by decide)⟩

def bit72 (b : Bool) : BitVec 72 := if b then 1 else 0

/-- The cluster or cask that a control instruction names is on a die that cannot be reached (R416). Its handle or number is what
EXC_ADDR logs (DESIGN CHOICE, log 54). -/
def State.ctlUnreached (s : State) (n : Nat) (x : Ctl) : Option Nat :=
  let bad (d : Nat) : Bool := s.divided && d != dieOf n
  match x with
  | .ckw h _ _ => if bad (caskDie h) then some h else none
  | .ckc h => if bad (caskDie h) then some h else none
  | .ckcRel h => if bad (caskDie h) then some h else none
  | .cka h => if bad (caskDie h) then some h else none
  | .ckr h _ _ _ => if bad (caskDie h) then some h else none
  | .wpost _ c _ => if bad (dieOf c) then some c else none
  | .branch _ => none
  | .call _ => none
  | .loop _ _ => none
  | .ret => none
  | .fence => none
  | .wdelay _ _ _ => none

/-- An ECC finding in the word that a cask read returns: an uncorrectable word becomes poisoned (R62, R63). -/
def State.caskEcc (s : State) (h : Nat) (e : Ecc) : State :=
  match s.headDpa h with
  | some a => if s.caskOn h && !s.poisonedIn a 16 then s.eccAt a e else s
  | none => s

/-- CKR: the next word, zero where it is poisoned, and the read status word (R128, R137). -/
def State.coreRead (s : State) (h : Nat) (rd rs : Fin 32) (e : Ecc) : State × List (CReg × BitVec 72) :=
  let s1 := s.caskEcc h e
  let w := s1.peek h
  let v : BitVec 128 := if w.1.poison then 0 else w.1.val
  let g (i : Nat) : CReg := .g ⟨(rd.val + i) % 32, Nat.mod_lt _ (by decide)⟩
  (s1.consume h,
    [(g 0, (v.extractLsb' 0 32).setWidth 72), (g 1, (v.extractLsb' 32 32).setWidth 72),
     (g 2, (v.extractLsb' 64 32).setWidth 72), (g 3, (v.extractLsb' 96 32).setWidth 72), (.g rs, w.2.setWidth 72)])

/-- What a control instruction does outside the core, and the registers it writes. -/
def State.ctlEffect (s : State) (n t next : Nat) (x : Ctl) : State × List (CReg × BitVec 72) :=
  match x with
  | .ckw h w qd => (s.offerWord h (tileProducer n t) ⟨w, false⟩, [(.q qd, bit72 (s.accepts h (tileProducer n t)))])
  | .ckc h => (s.commitPkt h (tileProducer n t), [])
  | .ckcRel h => (s.commitPkt h (tileProducer n t), [])
  | .cka h => (s.abandonPkt h (tileProducer n t), [])
  | .ckr h rd rs e => s.coreRead h rd rs e
  | .wpost ws c qd =>
    let o := if c = n then Origin.tile else Origin.otherTile
    (s.postWork c ws o, [(.q qd, bit72 (s.postCode c ws o == 0))])
  | .wdelay ws us qd => (s.delayWork n ws us .tile false, [(.q qd, bit72 (s.delayCode n ws us .tile == 0))])
  | .call _ => (s, [(.g 31, (BitVec.ofNat 32 next).setWidth 72)])
  | .branch _ => (s, [])
  | .loop _ _ => (s, [])
  | .ret => (s, [])
  | .fence => (s, [])

/-! ## Loops and the next address (R92 to R94, R123 to R125) -/

/-- A level's body, as the addresses of its first and last instructions. -/
def Core.inBody (c : Core) (l : Fin 4) (a : Nat) : Bool := decide (c.lstart[l].toNat ≤ a) && decide (a ≤ c.lend[l].toNat)

/-- Open levels, innermost first. -/
def openLevels (d : Nat) : List (Fin 4) := ([3, 2, 1, 0] : List (Fin 4)).filter (fun l => decide (l.val < d))

/-- The body is the outermost open one that fits the loop cache (R94). -/
def Core.cacheLevel (c : Core) (d : Nat) : Option (Fin 4) :=
  (openLevels d).reverse.find? (fun l => decide (c.lend[l].toNat - c.lstart[l].toNat ≤ 252))

/-- The ends of the loops whose last instruction closes the bundle, innermost first; `d` is the depth before. -/
def Core.loopEnds (c : Core) (d last next : Nat) : List (Fin 4) → Core
  | [] => { c with pc := BitVec.ofNat 32 next }
  | l :: rest =>
    if c.lend[l].toNat = last then
      let v := c.lc[l] - 1
      let c1 := { c with lc := c.lc.set l v }
      if v = 0 then
        let gone := c.lcache == some (c.lstart[l].toNat, c.lend[l].toNat)
        ({ c1 with lcache := if gone then none else c1.lcache }.withDepth l.val).loopEnds d last next rest
      else
        { c1 with
          pc := c.lstart[l]
          lcache := if c.cacheLevel d == some l then some (c.lstart[l].toNat, c.lend[l].toNat) else c1.lcache }
    else c.loopEnds d last next rest

/-- A taken branch from a bundle: levels whose body it leaves close (R93). -/
def Core.jump (c : Core) (d at_ target : Nat) : Core :=
  let c1 := match (openLevels d).reverse.find? (fun l => c.inBody l at_ && !c.inBody l target) with
    | some l => c.withDepth l.val
    | none => c
  { c1 with pc := BitVec.ofNat 32 target }

/-- A level opens (R92, R124); what the loop cache still held of a body with these bounds is captured anew (R94). -/
def Core.openLoop (c : Core) (d next body count : Nat) : Core :=
  if d < 4 then
    let l : Fin 4 := ⟨d % 4, Nat.mod_lt _ (by decide)⟩
    { c.withDepth (d + 1) with
      lcache := if c.lcache == some (next, next + 4 * body) then none else c.lcache
      lstart := c.lstart.set l (BitVec.ofNat 32 next)
      lend := c.lend.set l (BitVec.ofNat 32 (next + 4 * body))
      lc := c.lc.set l (BitVec.ofNat 32 count) }
  else c

/-- The target of a taken branch, where the control instruction takes one. -/
def Ctl.target (x : Ctl) (next : Nat) : Option Nat :=
  match x with
  | .branch a => some a
  | .call a => some a
  | .loop body count => if count = 0 then some (next + 4 * body + 4) else none
  | _ => none

/-- The core with the address of its next bundle and its loop levels. A LOOP with count 0 whose body ends where an outer body
ends branches out of that body (DESIGN CHOICE, log 51). -/
def Core.advance (c : Core) (x : Option Ctl) (at_ last : Nat) : Core :=
  let d := c.depth
  let next := last + 4
  match x with
  | none => c.loopEnds d last next (openLevels d)
  | some k =>
    match k.target next with
    | some a => c.jump d at_ (a % 2 ^ 32)
    | none =>
      match k with
      | .loop body count => (c.openLoop d next body count).loopEnds d last next (openLevels d)
      | _ => c.loopEnds d last next (openLevels d)

/-- The bundle is fetched from the loop cache (R94). -/
def Core.cached (c : Core) (at_ last : Nat) : Bool :=
  match c.lcache with
  | some (lo, hi) => decide (lo ≤ at_) && decide (last ≤ hi) &&
      (openLevels c.depth).any (fun l => c.lstart[l].toNat == lo && c.lend[l].toNat == hi)
  | none => false

/-! ## Breakpoints (R105) -/

/-- Tile debug is open (R403). -/
def State.dbgOpen (s : State) : Bool := s.rf SEC.DBGSCOPE F.SEC_DBGSCOPE_OPEN % 2 == 1

/-- The ranges that a bundle accesses: first byte, length, load or store. The C-stream read is a load (R87). -/
def accessRanges (ms : List MemOp) (cs : Option Nat) : List (Nat × Nat × Bool) :=
  ms.map (fun m => (m.addr, m.size, m.isLoad)) ++ (match cs with | some a => [(a, 8, true)] | none => [])

/-- A breakpoint lies in the bundle. -/
def State.breakAt (s : State) (n t at_ last : Nat) : Bool :=
  (List.range 4).any (fun i => s.rb (TILE.BP n t i) F.TILE_BP_EN &&
    decide (at_ ≤ s.rf (TILE.BP n t i) F.TILE_BP_ADDR * 4) && decide (s.rf (TILE.BP n t i) F.TILE_BP_ADDR * 4 ≤ last))

/-- A watched range overlaps an access of the bundle. -/
def State.watches (s : State) (n t : Nat) (rs : List (Nat × Nat × Bool)) : Bool :=
  (List.range 2).any (fun i => s.rb (TILE.WPCTL n t i) F.TILE_WPCTL_EN && rs.any (fun r =>
    s.rb (TILE.WPCTL n t i) (if r.2.2 then F.TILE_WPCTL_ON_LOAD else F.TILE_WPCTL_ON_STORE) &&
    decide (r.1 ≤ s.rv (TILE.WPHI n t i)) && decide (s.rv (TILE.WPLO n t i) ≤ r.1 + r.2.1 - 1)))

/-- An armed breakpoint or watchpoint matches the bundle. -/
def State.breaks (s : State) (n t at_ last : Nat) (rs : List (Nat × Nat × Bool)) : Bool :=
  s.dbgOpen && s.rb (TILE.DBG_CTRL n t) F.TILE_DBG_CTRL_BPEN && (s.breakAt n t at_ last || s.watches n t rs)

/-- The tile halts at a bundle boundary. -/
def State.haltTile (s : State) (n t : Nat) : State :=
  let s1 := s.setCore n t { s.core n t with bundle := [], stepping := false }
  (s1.put (TILE.STATE n t) F.TILE_STATE_HALTED 1).put (TILE.DBG_CTRL n t) F.TILE_DBG_CTRL_HALTED 1

/-! ## The bundle -/

/-- Accesses of the instructions that execute, in slot order. -/
def memOps (ps : List Pend) : List MemOp := ps.filterMap (fun p => if p.on then p.mem else none)

/-- The control effect of the bundle, of slot A0. -/
def ctlOf (ps : List Pend) : Option Ctl := (ps.find? (fun p => p.on && p.ctl.isSome)).bind (fun p => p.ctl)

/-- The loop of the bundle does not fit within P memory (R124). -/
def loopTooLong (ps : List Pend) (next : Nat) : Bool :=
  match ctlOf ps with
  | some (.loop body _) => decide (0x60000 ≤ next + 4 * body)
  | _ => false

/-- Cycles and counters of a bundle that has issued (R87, R90, R94, R104). -/
structure Costs where
  bus : Nat
  fetch : Nat
  load : Nat
  acc : Nat
  wait : Nat
  other : Nat
  outside : Nat
  cached : Bool
  macs : Nat
  deriving DecidableEq, Repr

def Costs.total (k : Costs) : Nat := 1 + k.bus + k.fetch + k.load + k.acc + k.wait + k.other + k.outside

def State.countBundle (s : State) (n t : Nat) (k : Costs) : State :=
  let up (u : State) (a v : Nat) : State := if v = 0 then u else u.bumpBy a v (WS.EVT n) F.WS_EVT_TCNT
  up (up (up (up (up (up (up (up s (TILE.CYCLES_LO n t) k.total) (TILE.BUNDLES_LO n t) 1) (TILE.MACS_LO n t) k.macs)
    (TILE.STALL_BUS_LO n t) k.bus) (TILE.STALL_OUTSIDE_LO n t) k.outside) (TILE.STALL_LOAD_LO n t) (k.load + k.wait))
    (TILE.STALL_FETCH_LO n t) k.fetch) (TILE.LCACHE_LO n t) (b2n k.cached)

/-- An instruction that counts as an outside load: CKR, TBRD, and a load from outside the tile (R90, R122, R128). -/
def Pend.outLoad (p : Pend) : Bool :=
  match p.ctl with
  | some (.ckr _ _ _ _) => true
  | some _ => false
  | none => p.outside || (match p.mem with | some m => m.isLoad && decide (0x80000 ≤ m.addr) | none => false)

/-- A load from tile memory. -/
def Pend.ownLoad (p : Pend) : Bool := match p.mem with | some m => m.isLoad && decide (m.addr < 0x80000) | none => false

/-- An instruction whose bundle waits for an answer that is no load: FENCE, CKC.REL, CKW, WPOST, WDELAY (R126 to R129). -/
def Pend.waits (p : Pend) : Bool := p.outside && p.ctl.isSome && !p.outLoad

/-- What a bundle costs. Waits for what the spec does not time are free (log 9); only those for loads and the write
buffer are stalls of STALL_LOAD (R104). An outside load waits where 8 may be outstanding; a value of the bundle before
is late only where this one issues a cycle after it (R90). -/
def State.bundleCosts (s : State) (c : Core) (ps : List Pend) (at_ last : Nat) (cs : Option Nat) : Costs :=
  let ms := memOps ps
  let on := ps.filter (·.on)
  let uses := on.flatMap (·.uses)
  let hit (l : List CReg) : Bool := uses.any (fun u => l.any (fun r => u.clash r))
  let taken := match ctlOf ps with | some x => (x.target (last + 4)).isSome | none => false
  let cached := c.cached at_ last
  let cross := !cached && decide (at_ / 16 ≠ last / 16)
  let loads := (on.filter (·.outLoad)).length
  let slow := (decide (0 < loads) && decide (8 < c.outLoads.length + loads)) || hit c.outLoads ||
    ms.any (fun m => !m.isLoad && decide (0x80000 ≤ m.addr))
  let touches := !cached || ms.any (fun m => decide (m.addr < 0x80000)) || cs.isSome
  { bus := busStall (busList ms cs)
    fetch := (if taken then 2 else 0) + b2n cross
    load := b2n (hit c.loadLate && !cross)
    acc := b2n (!(hit c.loadLate && !cross) && hit c.accLate)
    wait := if slow then Config.freeStall s.freeCount else 0
    other := if on.any (·.waits) then Config.freeStall (s.freeCount + 2) else 0
    outside := if touches then b2n (Config.freeBit (s.freeCount + 1)) else 0
    cached := cached
    macs := (on.map (·.macs)).sum }

/-- The registers that a bundle's loads and multiplies deliver late (R90, R109). After a taken branch the next bundle
issues late enough for the loads. -/
def lateOf (ps : List Pend) (taken : Bool) : List CReg × List CReg × List CReg :=
  let on := ps.filter (·.on)
  ((if taken then [] else (on.filter (·.ownLoad)).flatMap (fun p => p.dests.filter (fun r => match r with | .g _ => true | _ => false))),
   on.flatMap (fun p => p.dests.filter (fun r => match r with | .acc _ => true | _ => false)),
   (on.filter (·.outLoad)).flatMap (fun p => p.dests.filter (fun r => match r with | .g _ => true | _ => false)))

/-- The effects of a bundle that does not fault. `a` holds its memory accesses, `cs` its C-stream word. -/
def State.commitBundle (s : State) (n t : Nat) (ps : List Pend) (a : Access) (cs : Option (Nat × Nat)) : State :=
  let c := s.core n t
  let on := ps.filter (·.on)
  let at_ := c.pc.toNat
  let last := at_ + 4 * (ps.length - 1)
  let k := s.bundleCosts c ps at_ last (cs.map (·.1))
  let x := ctlOf ps
  let e := match x with | some y => a.s.ctlEffect n t (last + 4) y | none => (a.s, [])
  let mac := (on.filterMap (·.mac)).map (fun m => m.results c (m.operand (match cs with | some w => w.2 | none => 0)))
  let stream : List (CReg × BitVec 72) := match cs with | some _ => [(.p 15, (c.postMod 15 8).setWidth 72)] | none => []
  let writes := on.flatMap (·.writes) ++ a.writes ++ e.2 ++ stream ++ mac.flatMap (·.1)
  let c1 := writes.foldl (fun (u : Core) w => u.write w.1 w.2) c
  let av := on.any (·.av) || mac.any (·.2)
  let sv := on.any (·.sv)
  let stat := c1.stat ||| (if av then 0x80 else 0) ||| (if sv then 0x40 else 0)
  let late := lateOf ps (match x with | some y => (y.target (last + 4)).isSome | none => false)
  let used := on.flatMap (·.uses)
  let c2 := ({ c1 with stat := stat }.advance x at_ last)
  let c3 := { c2 with
    cyc := BitVec.ofNat 32 (min 0xFFFFFFFF (c.cyc.toNat + k.total))
    bundle := []
    loadLate := late.1
    accLate := late.2.1
    outLoads := (c.outLoads.filter (fun r => !used.any (fun u => u.clash r))) ++ late.2.2
    lcache := if (e.1.core n t).lcache.isNone && c.lcache.isSome then none else c2.lcache
    stepping := false }
  let s1 := (((e.1.draw 3).setCore n t c3).countBundle n t k)
  match x with
  | some .ret => s1.returnItem n t
  | _ => s1

/-- The bundle's exception other than those of its fetch and its accesses (R99), with the address logged. -/
def State.bundleFault (s : State) (n t : Nat) (ps : List Pend) (ended : Bool) : Option (Nat × Nat) :=
  let c := s.core n t
  let at_ := c.pc.toNat
  let last := at_ + 4 * (ps.length - 1)
  if loopTooLong ps (last + 4) then some (2, at_)
  else if ps.any (·.illegal) ∨ slotsBad ps ended then some (1, at_)
  else if ps.any (·.nesting) then some (6, at_)
  else match ctlOf ps with
    | some x => (match s.ctlUnreached n x with | some h => some (3, h) | none => none)
    | none => none

/-- A bundle that issues and faults is counted, and its cycle too; it has no other effect (R99, R100, R104; log 55). -/
def State.bundleFaults (s : State) (n t code addr : Nat) : State :=
  let c := s.core n t
  ((s.bumpBy (TILE.CYCLES_LO n t) 1 (WS.EVT n) F.WS_EVT_TCNT).bumpBy (TILE.BUNDLES_LO n t) 1 (WS.EVT n)
    F.WS_EVT_TCNT).setCore n t { (s.core n t) with cyc := BitVec.ofNat 32 (min 0xFFFFFFFF (c.cyc.toNat + 1)) }
    |>.exception n t code addr

/-- The accesses of a bundle and, where it reads the C stream, its word. -/
def State.bundleAccess (s : State) (n t fwb p15 : Nat) (ms : List MemOp) (stream : Bool) (ecc : Ecc) :
    Access × Option (Nat × Nat) :=
  let a := s.accessAll n t fwb ms
  match a.exc with
  | some _ => (a, none)
  | none =>
    if stream then
      let r := a.s.streamRead n t fwb p15 ecc
      (⟨r.1, a.writes, r.2.2⟩, some (p15, r.2.1))
    else (a, none)

/-- A complete bundle is judged and takes effect, halts at a breakpoint, or faults. `ecc`: what SECDED finds in its
C-stream word. RESUME at an armed breakpoint halts again before the same bundle; only STEP passes it (DESIGN CHOICE, log 53). -/
def State.runBundle (s : State) (n t : Nat) (ps : List Pend) (ended : Bool) (ecc : Ecc) : State :=
  let c := s.core n t
  let stream := usesStream (ps.filter (·.on))
  let cs := if stream then some c.p[15].toNat else none
  if !c.stepping && s.breaks n t c.pc.toNat (c.pc.toNat + 4 * (ps.length - 1)) (accessRanges (memOps ps) cs) then s.haltTile n t
  else match s.bundleFault n t ps ended with
    | some f => s.bundleFaults n t f.1 f.2
    | none =>
      let r := s.bundleAccess n t (bits c.ctrl.toNat 25 16) c.p[15].toNat (memOps ps) stream ecc
      match r.1.exc with
      | some f => (s.eccAt f.2.2.1 f.2.2.2).bundleFaults n t f.1 f.2.1
      | none => s.commitBundle n t ps r.1 r.2

/-! ## One instruction -/

/-- The tile executes instructions: it runs an item, its cluster is not OFF, and it is not halted or is being stepped. -/
def State.executes (s : State) (n t : Nat) : Bool :=
  (s.core n t).running.isSome && s.clState n != stOff &&
    ((!s.rb (TILE.STATE n t) F.TILE_STATE_HALTED && s.clState n != stHalt) || (s.core n t).stepping)

/-- Where the word at core address `a` is fetched from, and what SECDED finds in it: the state, and whether the fetch fails
(R63, R94, R99). The loop cache's bank is the thirteenth of the tile (R23); an uncorrectable error in it only invalidates
it. -/
def State.fetchWord (s : State) (n t a : Nat) (ecc : Ecc) : State × Bool :=
  let c := s.core n t
  if c.cached a a then
    match ecc with
    | .ok => (s, false)
    | .ce y => (s.tileEcc n t 12 (tileDpa n t (a / 8 * 8)) false y.toNat, false)
    | .ue y => ((s.setCore n t { c with lcache := none }).tileEcc n t 12 (tileDpa n t (a / 8 * 8)) true y.toNat, false)
  else if s.poisoned (tileDpa n t a) then (s, true)
  else (s.eccAt (tileDpa n t a) ecc, match ecc with | .ue _ => true | _ => false)

/-- The bundle cannot be fetched: the tile halts at a breakpoint that it matches, or takes the exception (R99, R105). -/
def State.fetchFault (s : State) (n t a code : Nat) : State :=
  let c := s.core n t
  if !c.stepping && s.breaks n t c.pc.toNat a (accessRanges (memOps c.bundle) none) then s.haltTile n t
  else s.exception n t code c.pc.toNat

/-- An instruction arrives at its tile (log 15): its word stands in P at the address to be fetched, or the command is the
event of another tile program and changes nothing (log 2). It joins the bundle, and the bundle takes effect with the
instruction that ends it, or with a fourth. Where CYC has reached ILIM a bundle does not begin (R99). -/
def State.issue (s : State) (i : Instr) (h : Head) (p : Core → Pend) : State :=
  let n := h.cl.val
  let t := h.t.val
  let c := s.core n t
  let a := c.pc.toNat + 4 * c.bundle.length
  if !s.executes n t then s
  else if c.bundle.isEmpty && decide (c.ilim.toNat ≤ c.cyc.toNat) then s.exception n t 7 c.pc.toNat
  else if a < 0x50000 ∨ 0x5FFFC < a then s.fetchFault n t a 2
  else
    let f := s.fetchWord n t a h.fetch
    if f.2 then f.1.fetchFault n t a 5
    else if !wordMatches i (BitVec.ofNat 32 (s.le (tileDpa n t a) 4)) then s
    else
      let s1 := f.1
      let c1 := s1.core n t
      let lend := !h.e && (openLevels c1.depth).any (fun l => c1.lend[l].toNat == a)
      let q := { p c1 with illegal := (p c1).illegal || h.ill || lend }
      let ps : List Pend := c1.bundle ++ [q]
      if h.e || decide (4 ≤ ps.length) then (s1.setCore n t { c1 with bundle := [] }).runBundle n t ps h.e h.cs
      else s1.setCore n t { c1 with bundle := ps }

/-! ## Building an instruction -/

/-- The instruction executes: its predicate matches its sense (R86). -/
def headOn (h : Head) (c : Core) : Bool := c.q.getLsbD h.q.val != h.n

/-- An instruction with nothing to do. -/
def headPend (h : Head) (c : Core) (k : SlotClass) : Pend :=
  { cls := k, on := headOn h c, illegal := false, nesting := false, dests := [], writes := [], av := false, sv := false,
    mac := none, mem := none, ctl := none, uses := [], macs := 0, outside := false }

/-- An instruction of class M that writes a G register. -/
def headG (h : Head) (c : Core) (rd : Fin 32) (uses : List CReg) (r : Word × Bool) : Pend :=
  { headPend h c .m with dests := [.g rd], writes := [(.g rd, r.1.setWidth 72)], sv := r.2, uses := uses }

end Sys2Proof.Machine
end

