-- ==== Sys2Proof/Machine/Alu.lean ====
section
/-!
DEFINITION. The integer and logic instructions (R111 to R113).
-/

namespace Sys2Proof.Machine

/-- An instruction issues at its tile. -/
def issued (s : State) (i : Instr) (h : Head) (p : Core → Pend) : Result := .next (s.issue i h p)

/-- A register-register instruction of the ALU group. -/
def alu3 (i : Instr) (h : Head) (rd rs rt : Fin 32) (f : Word → Word → Word × Bool) (s : State) : Result :=
  issued s i h (fun c => headG h c rd [.g rs, .g rt] (f c.g[rs] c.g[rt]))

/-- A unary instruction of the ALU group. -/
def alu2 (i : Instr) (h : Head) (rd rs : Fin 32) (f : Word → Word × Bool) (s : State) : Result :=
  issued s i h (fun c => headG h c rd [.g rs] (f c.g[rs]))

/-- A shift amount in a register: bits [5:0]. -/
def amount (w : Word) : Nat := w.toNat % 64

/-- ADD (R111): RD := RS + RT, wrapping. -/
def execAdd (h : Head) (rd rs rt : Fin 32) (s : State) : Result :=
  alu3 (.add h rd rs rt) h rd rs rt (fun a b => (a + b, false)) s

/-- SUB (R111): RD := RS − RT, wrapping. -/
def execSub (h : Head) (rd rs rt : Fin 32) (s : State) : Result :=
  alu3 (.sub h rd rs rt) h rd rs rt (fun a b => (a - b, false)) s

/-- ADDS (R111): RS + RT saturated to 32 bits. -/
def execAdds (h : Head) (rd rs rt : Fin 32) (s : State) : Result :=
  alu3 (.adds h rd rs rt) h rd rs rt (fun a b => sat32 (a.toInt + b.toInt)) s

/-- SUBS (R111): RS − RT saturated to 32 bits. -/
def execSubs (h : Head) (rd rs rt : Fin 32) (s : State) : Result :=
  alu3 (.subs h rd rs rt) h rd rs rt (fun a b => sat32 (a.toInt - b.toInt)) s

/-- ADD2 (R111): each half added, wrapping. -/
def execAdd2 (h : Head) (rd rs rt : Fin 32) (s : State) : Result :=
  alu3 (.add2 h rd rs rt) h rd rs rt (dual false (· + ·)) s

/-- SUB2 (R111): each half subtracted, wrapping. -/
def execSub2 (h : Head) (rd rs rt : Fin 32) (s : State) : Result :=
  alu3 (.sub2 h rd rs rt) h rd rs rt (dual false (· - ·)) s

/-- ADD2S (R111): each half added, saturated to 16 bits. -/
def execAdd2s (h : Head) (rd rs rt : Fin 32) (s : State) : Result :=
  alu3 (.add2s h rd rs rt) h rd rs rt (dual true (· + ·)) s

/-- SUB2S (R111): each half subtracted, saturated to 16 bits. -/
def execSub2s (h : Head) (rd rs rt : Fin 32) (s : State) : Result :=
  alu3 (.sub2s h rd rs rt) h rd rs rt (dual true (· - ·)) s

/-- AND (R111): RS & RT. -/
def execAnd (h : Head) (rd rs rt : Fin 32) (s : State) : Result :=
  alu3 (.and h rd rs rt) h rd rs rt (fun a b => (a &&& b, false)) s

/-- OR (R111): RS | RT. -/
def execOr (h : Head) (rd rs rt : Fin 32) (s : State) : Result :=
  alu3 (.or h rd rs rt) h rd rs rt (fun a b => (a ||| b, false)) s

/-- XOR (R111): RS ^ RT. -/
def execXor (h : Head) (rd rs rt : Fin 32) (s : State) : Result :=
  alu3 (.xor h rd rs rt) h rd rs rt (fun a b => (a ^^^ b, false)) s

/-- ANDN (R111): RS & ~RT. -/
def execAndn (h : Head) (rd rs rt : Fin 32) (s : State) : Result :=
  alu3 (.andn h rd rs rt) h rd rs rt (fun a b => (a &&& ~~~b, false)) s

/-- SHL (R111): RS << amount, 0 for 32 to 63. -/
def execShl (h : Head) (rd rs rt : Fin 32) (s : State) : Result :=
  alu3 (.shl h rd rs rt) h rd rs rt (fun a b => shiftBy 0 a (amount b)) s

/-- SHR (R111): logical RS >> amount. -/
def execShr (h : Head) (rd rs rt : Fin 32) (s : State) : Result :=
  alu3 (.shr h rd rs rt) h rd rs rt (fun a b => shiftBy 1 a (amount b)) s

/-- SRA (R111): arithmetic RS >> amount. -/
def execSra (h : Head) (rd rs rt : Fin 32) (s : State) : Result :=
  alu3 (.sra h rd rs rt) h rd rs rt (fun a b => shiftBy 2 a (amount b)) s

/-- SHLS (R111): RS << amount saturated. -/
def execShls (h : Head) (rd rs rt : Fin 32) (s : State) : Result :=
  alu3 (.shls h rd rs rt) h rd rs rt (fun a b => shiftBy 3 a (amount b)) s

/-- MIN (R111): signed minimum. -/
def execMin (h : Head) (rd rs rt : Fin 32) (s : State) : Result :=
  alu3 (.min h rd rs rt) h rd rs rt (fun a b => (if a.toInt ≤ b.toInt then a else b, false)) s

/-- MAX (R111): signed maximum. -/
def execMax (h : Head) (rd rs rt : Fin 32) (s : State) : Result :=
  alu3 (.max h rd rs rt) h rd rs rt (fun a b => (if a.toInt ≤ b.toInt then b else a, false)) s

/-- MINU (R111): unsigned minimum. -/
def execMinu (h : Head) (rd rs rt : Fin 32) (s : State) : Result :=
  alu3 (.minu h rd rs rt) h rd rs rt (fun a b => (if a.toNat ≤ b.toNat then a else b, false)) s

/-- MAXU (R111): unsigned maximum. -/
def execMaxu (h : Head) (rd rs rt : Fin 32) (s : State) : Result :=
  alu3 (.maxu h rd rs rt) h rd rs rt (fun a b => (if a.toNat ≤ b.toNat then b else a, false)) s

/-- PACKLL (R111): the low halves of RS and RT. -/
def execPackll (h : Head) (rd rs rt : Fin 32) (s : State) : Result :=
  alu3 (.packll h rd rs rt) h rd rs rt (fun a b => (halves (lo16 a) (lo16 b), false)) s

/-- PACKHH (R111): the high halves of RS and RT. -/
def execPackhh (h : Head) (rd rs rt : Fin 32) (s : State) : Result :=
  alu3 (.packhh h rd rs rt) h rd rs rt (fun a b => (halves (hi16 a) (hi16 b), false)) s

/-- ABS (R111): |RS|, wrapping. -/
def execAbs (h : Head) (rd rs : Fin 32) (s : State) : Result :=
  alu2 (.abs h rd rs) h rd rs (fun a => (word a.toInt.natAbs, false)) s

/-- ABSS (R111): |RS|, saturated. -/
def execAbss (h : Head) (rd rs : Fin 32) (s : State) : Result :=
  alu2 (.abss h rd rs) h rd rs (fun a => sat32 a.toInt.natAbs) s

/-- NEG (R111): −RS, wrapping. -/
def execNeg (h : Head) (rd rs : Fin 32) (s : State) : Result :=
  alu2 (.neg h rd rs) h rd rs (fun a => (-a, false)) s

/-- NEGS (R111): −RS, saturated. -/
def execNegs (h : Head) (rd rs : Fin 32) (s : State) : Result :=
  alu2 (.negs h rd rs) h rd rs (fun a => sat32 (-a.toInt)) s

/-- MOV (R111): RS. -/
def execMov (h : Head) (rd rs : Fin 32) (s : State) : Result :=
  alu2 (.mov h rd rs) h rd rs (fun a => (a, false)) s

/-- CLZ (R111): leading zero bits. -/
def execClz (h : Head) (rd rs : Fin 32) (s : State) : Result :=
  alu2 (.clz h rd rs) h rd rs (fun a => (BitVec.ofNat 32 (clz32 a), false)) s

/-- NORM (R111): redundant sign bits. -/
def execNorm (h : Head) (rd rs : Fin 32) (s : State) : Result :=
  alu2 (.norm h rd rs) h rd rs (fun a => (BitVec.ofNat 32 (normOf 32 a.toNat), false)) s

/-- NORM16 (R111): redundant sign bits of RS[15:0]. -/
def execNorm16 (h : Head) (rd rs : Fin 32) (s : State) : Result :=
  alu2 (.norm16 h rd rs) h rd rs (fun a => (BitVec.ofNat 32 (normOf 16 a.toNat), false)) s

/-- SXH (R111): RS[15:0] sign-extended. -/
def execSxh (h : Head) (rd rs : Fin 32) (s : State) : Result :=
  alu2 (.sxh h rd rs) h rd rs (fun a => ((lo16 a).signExtend 32, false)) s

/-- ZXH (R111): RS[15:0] zero-extended. -/
def execZxh (h : Head) (rd rs : Fin 32) (s : State) : Result :=
  alu2 (.zxh h rd rs) h rd rs (fun a => ((lo16 a).setWidth 32, false)) s

/-- SAT16 (R111): RS saturated to the 16-bit range. -/
def execSat16 (h : Head) (rd rs : Fin 32) (s : State) : Result :=
  alu2 (.sat16 h rd rs) h rd rs (fun a => (word (satTo 16 a.toInt).1, (satTo 16 a.toInt).2)) s

/-- ADDI (R111): RS + IMM11 sign-extended, wrapping. -/
def execAddi (h : Head) (rd rs : Fin 32) (imm : BitVec 11) (s : State) : Result :=
  alu2 (.addi h rd rs imm) h rd rs (fun a => (a + imm.signExtend 32, false)) s

/-- ANDI (R111): RS & IMM11 zero-extended. -/
def execAndi (h : Head) (rd rs : Fin 32) (imm : BitVec 11) (s : State) : Result :=
  alu2 (.andi h rd rs imm) h rd rs (fun a => (a &&& imm.setWidth 32, false)) s

/-- ORI (R111): RS | IMM11 zero-extended. -/
def execOri (h : Head) (rd rs : Fin 32) (imm : BitVec 11) (s : State) : Result :=
  alu2 (.ori h rd rs imm) h rd rs (fun a => (a ||| imm.setWidth 32, false)) s

/-- SHI (R111): RS shifted by AMT as FUNC selects. -/
def execShi (h : Head) (func : BitVec 2) (rd rs : Fin 32) (amt : BitVec 5) (s : State) : Result :=
  alu2 (.shi h func rd rs amt) h rd rs (fun a => shiftBy func.toNat a amt.toNat) s

/-- MOVI (R111): IMM16 sign-extended. -/
def execMovi (h : Head) (rd : Fin 32) (imm : BitVec 16) (s : State) : Result :=
  issued s (.movi h rd imm) h (fun c => headG h c rd [] (imm.signExtend 32, false))

/-- MOVIH (R111): RD[31:16] replaced, RD[15:0] kept. -/
def execMovih (h : Head) (rd : Fin 32) (imm : BitVec 16) (s : State) : Result :=
  issued s (.movih h rd imm) h (fun c => headG h c rd [.g rd] (halves imm (lo16 c.g[rd]), false))

/-- An instruction that writes a predicate, illegal where its condition is reserved. -/
def toPred (h : Head) (c : Core) (qd : Fin 8) (uses : List CReg) (r : Option Bool) : Pend :=
  { headPend h c .m with
    illegal := r.isNone
    dests := [.q qd]
    writes := [(.q qd, bit72 (r.getD false))]
    uses := uses }

/-- CMP (R112): QD := RS cond RT. -/
def execCmp (h : Head) (cond : BitVec 4) (qd : Fin 8) (rs rt : Fin 32) (s : State) : Result :=
  issued s (.cmp h cond qd rs rt) h (fun c => toPred h c qd [.g rs, .g rt] (condHolds cond c.g[rs] c.g[rt]))

/-- CMPI (R112): QD := RS cond IMM9 sign-extended. -/
def execCmpi (h : Head) (cond : BitVec 4) (qd : Fin 8) (rs : Fin 32) (imm : BitVec 9) (s : State) : Result :=
  issued s (.cmpi h cond qd rs imm) h (fun c => toPred h c qd [.g rs] (condHolds cond c.g[rs] (imm.signExtend 32)))

/-- QOP (R112): QD := (QA xor NA) op (QB xor NB). -/
def execQop (h : Head) (func : BitVec 2) (qd qa : Fin 8) (na : Bool) (qb : Fin 8) (nb : Bool) (s : State) : Result :=
  issued s (.qop h func qd qa na qb nb) h (fun c =>
    let a := c.q.getLsbD qa.val != na
    let b := c.q.getLsbD qb.val != nb
    let r := if func = 0 then a && b else if func = 1 then a || b else if func = 2 then a != b else a && !b
    toPred h c qd [] (some r))

/-- RND (R113): RS arithmetically shifted right by AMT, rounded. -/
def execRnd (h : Head) (rd rs : Fin 32) (amt : BitVec 5) (rndf : BitVec 2) (s : State) : Result :=
  issued s (.rnd h rd rs amt rndf) h (fun c =>
    headG h c rd [.g rs] (word (roundShift (roundMode c.stat rndf) c.g[rs].toInt amt.toNat), false))

/-- DIVS (R113): one step of restoring division. -/
def execDivs (h : Head) (rd rs : Fin 32) (s : State) : Result :=
  issued s (.divs h rd rs) h (fun c => headG h c rd [.g rd, .g rs] (divStep c.g[rd] c.g[rs], false))

end Sys2Proof.Machine
end

