-- ==== Sys2Proof/Machine/Signals.lean ====
section
/-!
DEFINITION. Tests of measured frequencies and levels against the limits of R201, R204, R218, R220 and R232, the pairs of the
signalling codes, and the ramp of R224. What a unit measures in samples is open (log 8); what it makes of the measures is exact.
-/

namespace Sys2Proof.Machine

/-! ## Limits -/

/-- Distance of two numbers. -/
def apart (a b : Nat) : Nat := (a - b) + (b - a)

/-- A measured level, in 0.1 dBm0, against a minimum in dBm0: 0.5 dB above always passes, 0.5 dB below never does, and
between the two the outcome is open (R218, R232). -/
def levelPasses (min lev : Int) (f : Nat) : Bool :=
  if 10 * min + 5 ≤ lev then true else if lev ≤ 10 * min - 5 then false else Config.freeBit f

/-- A measured frequency against a nominal one, in 0.1 Hz: within `acc` always passes, beyond `rej` never does (both in
0.0001 Hz), and between the two the outcome is open (R218). -/
def freqPasses (nom acc rej meas f : Nat) : Bool :=
  if 1000 * apart meas nom ≤ acc then true else if rej < 1000 * apart meas nom then false else Config.freeBit f

/-- Twist in 0.1 dB, the higher-frequency tone minus the lower: up to a limit in dB passes, 1 dB beyond it fails (R218). -/
def twistPasses (fwd rev : Nat) (t : Int) (f : Nat) : Bool :=
  if -(10 * rev : Int) ≤ t ∧ t ≤ 10 * fwd then true
  else if 10 * fwd + 10 ≤ t ∨ t ≤ -(10 * rev + 10 : Int) then false
  else Config.freeBit f

/-- How far from a nominal frequency the limits of a detector lie, in 0.0001 Hz: in tenths of a percent, or in Hz. -/
inductive Tol where
  | permille (acc rej : Nat)
  | hz (acc rej : Nat)
  deriving DecidableEq, Repr

def Tol.acc (t : Tol) (nom : Nat) : Nat := match t with | .permille a _ => nom * a | .hz a _ => 10000 * a
def Tol.rej (t : Tol) (nom : Nat) : Nat := match t with | .permille _ r => nom * r | .hz _ r => 10000 * r

def Tol.passes (t : Tol) (nom meas f : Nat) : Bool := freqPasses nom (t.acc nom) (t.rej nom) meas f

/-! ## Frames -/

/-- Frames of a number of samples of a block. -/
def framesOf (per : Nat) : Nat → List (BitVec 16) → List (List (BitVec 16))
  | 0, _ => []
  | k + 1, l => l.take per :: framesOf per k (l.drop per)

/-- The level of samples in 0.1 dBm0, of silence none. -/
def frameLevel (xs : List (BitVec 16)) : Option Int := if xs.all (fun v => v == 0) then none else some (Config.level xs)

/-! ## Components of a frame -/

/-- What is measured in a frame: frequencies in 0.1 Hz below 4 kHz, with their levels in 0.1 dBm0; nothing in silence (R217). -/
def components (khz : Nat) (xs : List (BitVec 16)) : List (Nat × Int) :=
  if xs.all (fun v => v == 0) then [] else (Config.components khz xs).filter (fun c => decide (c.1 < 40000))

/-- A single tone passes: the level at which it was measured (R218, R220). -/
def singleTone (cs : List (Nat × Int)) (nom : Nat) (t : Tol) (min : Int) (f : Nat) : Option Int :=
  (cs.find? (fun c => t.passes nom c.1 f && levelPasses min c.2 (f + 1))).map (·.2)

/-- Two tones pass together, at any twist: the level of the weaker (R220). -/
def twoTones (cs : List (Nat × Int)) (lo hi : Nat) (t : Tol) (min : Int) (f : Nat) : Option Int :=
  match singleTone cs lo t min f, singleTone cs hi t min (f + 2) with
  | some a, some b => some (if a < b then a else b)
  | _, _ => none

/-- Limits of a two-frequency signalling detector (R218). -/
structure PairLimits where
  tol : Tol
  min : Int
  fwd : Nat
  rev : Nat
  deriving DecidableEq, Repr

/-- The components i and j make a pair of a signalling detector: both pass, the twist does, and no third frequency of 300 to
3,400 Hz lies within 10 dB of the weaker (R218). -/
def pairAt (cs : List (Nat × Int)) (lim : PairLimits) (lo hi f : Nat) (i j : Nat × Nat × Int) : Option Int :=
  let weak := if i.2.2 < j.2.2 then i.2.2 else j.2.2
  let third := cs.zipIdx.any (fun c => c.2 != i.1 && c.2 != j.1 && decide (3000 ≤ c.1.1) && decide (c.1.1 ≤ 34000) &&
    decide (weak - 100 ≤ c.1.2))
  if i.1 ≠ j.1 ∧ lim.tol.passes lo i.2.1 f ∧ lim.tol.passes hi j.2.1 (f + 1) ∧ levelPasses lim.min i.2.2 (f + 2) ∧
      levelPasses lim.min j.2.2 (f + 3) ∧ twistPasses lim.fwd lim.rev (j.2.2 - i.2.2) (f + 4) ∧ !third then some weak else none

/-- A frame qualifies for a pair: the level of its weaker tone. -/
def pairTone (cs : List (Nat × Int)) (lim : PairLimits) (lo hi f : Nat) : Option Int :=
  let l := cs.zipIdx.map (fun c => (c.2, c.1))
  (l.flatMap (fun i => l.filterMap (fun j => pairAt cs lim lo hi f i j))).head?

/-! ## Pairs of the codes (R218, R221): ITU-T Q.23, Q.320 and Q.441 -/

/-- Low and high frequency of a DTMF code, in Hz: codes 1 to 16 are 1 to 9, 0, *, #, A to D. -/
def dtmfPair (code : Nat) : Nat × Nat :=
  let keys := [(0, 0), (0, 1), (0, 2), (1, 0), (1, 1), (1, 2), (2, 0), (2, 1), (2, 2), (3, 1), (3, 0), (3, 2), (0, 3), (1, 3),
    (2, 3), (3, 3)]
  let k := keys.getD (code - 1) (0, 0)
  ([697, 770, 852, 941].getD k.1 0, [1209, 1336, 1477, 1633].getD k.2 0)

/-- The two of six frequencies, by index, of digits 1 to 15 of the 2-out-of-6 codes. -/
def twoOfSix (i : Nat) : Nat × Nat :=
  [(0, 1), (0, 2), (1, 2), (0, 3), (1, 3), (2, 3), (0, 4), (1, 4), (2, 4), (3, 4), (0, 5), (1, 5), (2, 5), (3, 5), (4, 5)].getD i (0, 1)

/-- MF trunk: digits 1 to 9 and 0, then KP, ST, ST′, ST″, ST‴. -/
def mfPair (code : Nat) : Nat × Nat :=
  let f := [700, 900, 1100, 1300, 1500, 1700]
  let k := if code < 0x2A then twoOfSix (code - 0x20)
    else [(2, 5), (4, 5), (1, 5), (3, 5), (0, 5)].getD (code - 0x2A) (0, 1)
  (f.getD k.1 0, f.getD k.2 0)

def mfcForwardPair (code : Nat) : Nat × Nat :=
  let f := [1380, 1500, 1620, 1740, 1860, 1980]
  let k := twoOfSix (code - 0x40)
  (f.getD k.1 0, f.getD k.2 0)

/-- The frequencies of the backward signals fall with their index; the lower one is first here. -/
def mfcBackwardPair (code : Nat) : Nat × Nat :=
  let f := [1140, 1020, 900, 780, 660, 540]
  let k := twoOfSix (code - 0x50)
  (f.getD k.2 0, f.getD k.1 0)

/-- The lower and the higher frequency of a signalling code, in Hz. -/
def codePair (code : Nat) : Nat × Nat :=
  if code < 0x20 then dtmfPair code else if code < 0x40 then mfPair code
  else if code < 0x50 then mfcForwardPair code else mfcBackwardPair code

/-! ## The raised cosine of 1 ms (R224, R237) -/

/-- Weights of a raised-cosine ramp, of 32,768, at the samples of 1 ms at 8 and at 16 kHz. -/
def rampWeights (khz : Nat) : List Nat :=
  if khz = 8 then [0, 1247, 4799, 10114, 16384, 22654, 27969, 31521]
  else [0, 315, 1247, 2761, 4799, 7282, 10114, 13188, 16384, 19580, 22654, 25486, 27969, 30007, 31521, 32453]

/-- A value of a tone within j samples of the start and k samples of the end of an interval that is on. -/
def ramped (khz : Nat) (v : Int) (j k : Nat) : Int :=
  let w := min ((rampWeights khz).getD j 32768) ((rampWeights khz).getD k 32768)
  if w = 32768 then v else (v * w + 16384) / 32768

end Sys2Proof.Machine
end

