-- ==== Sys2Proof/Machine/Mac.lean ====
section
/-!
DEFINITION. Multiply-accumulate, extraction and accumulator instructions (R114 to R116).
-/

namespace Sys2Proof.Machine

/-- The second operand that BSEL names: a G register, a C-stream word, or none where it is reserved. -/
inductive BSel where
  | g (n : Fin 32)
  | cs (w : CsWord)
  | bad
  deriving DecidableEq, Repr

def bselOf (b : BitVec 6) : BSel :=
  if b.toNat < 32 then .g ⟨b.toNat % 32, Nat.mod_lt _ (by decide)⟩
  else if b.toNat = 32 then .cs .w0
  else if b.toNat = 33 then .cs .w1
  else .bad

/-- Mode bits and accumulator that an opcode allows (R107, R114). -/
def macOk (k : MacKind) (accd : Fin 8) (m14 m13 : Bool) : Bool :=
  match k with
  | .mul16 => true
  | .mul2 => !m13
  | .mulP => !m14 && !m13 && accd.val % 2 == 0
  | .mulW => true
  | .mulL => true

/-- 16-bit multiply equivalents of an opcode (R104). -/
def macCount (k : MacKind) : Nat :=
  match k with
  | .mul16 => 1
  | .mul2 => 2
  | .mulP => 2
  | .mulW => 2
  | .mulL => 4

/-- A multiply (R114). Its product is formed when the bundle takes effect, with the C-stream word it may name. -/
def multiply (i : Instr) (k : MacKind) (o : Opk) (h : Head) (accd : Fin 8) (f m14 m13 : Bool) (ra : Fin 32) (bsel : BitVec 6)
    (s : State) : Result :=
  issued s i h (fun c =>
    let b := bselOf bsel
    let dests : List CReg :=
      if k = .mulP then [.acc accd, .acc ⟨(accd.val + 1) % 8, Nat.mod_lt _ (by decide)⟩] else [.acc accd]
    { headPend h c (if k = .mulL then .mBoth else .m) with
      illegal := b == .bad || !macOk k accd m14 m13
      dests := dests
      mac := some
        { kind := k, opk := o, accd := accd, f := f, m14 := m14, m13 := m13, a := c.g[ra],
          b := (match b with | .g n => c.g[n] | .cs _ => 0 | .bad => 0)
          cs := (match b with | .g _ => none | .cs w => some w | .bad => none) }
      uses := .g ra :: (match b with | .g n => [.g n] | .cs _ => [.p 15] | .bad => [])
      macs := macCount k })

/-- MPY16 (R114): ACC := one 16×16 product. -/
def execMpy16 (h : Head) (accd : Fin 8) (f m14 m13 : Bool) (ra : Fin 32) (bsel : BitVec 6) (s : State) : Result :=
  multiply (.mpy16 h accd f m14 m13 ra bsel) .mul16 .mpy h accd f m14 m13 ra bsel s

/-- MAC16 (R114): ACC += one 16×16 product. -/
def execMac16 (h : Head) (accd : Fin 8) (f m14 m13 : Bool) (ra : Fin 32) (bsel : BitVec 6) (s : State) : Result :=
  multiply (.mac16 h accd f m14 m13 ra bsel) .mul16 .mac h accd f m14 m13 ra bsel s

/-- MSU16 (R114): ACC −= one 16×16 product. -/
def execMsu16 (h : Head) (accd : Fin 8) (f m14 m13 : Bool) (ra : Fin 32) (bsel : BitVec 6) (s : State) : Result :=
  multiply (.msu16 h accd f m14 m13 ra bsel) .mul16 .msu h accd f m14 m13 ra bsel s

/-- MPY2 (R114): ACC := the sum of two 16×16 products. -/
def execMpy2 (h : Head) (accd : Fin 8) (f m14 m13 : Bool) (ra : Fin 32) (bsel : BitVec 6) (s : State) : Result :=
  multiply (.mpy2 h accd f m14 m13 ra bsel) .mul2 .mpy h accd f m14 m13 ra bsel s

/-- MAC2 (R114): ACC += the sum of two 16×16 products. -/
def execMac2 (h : Head) (accd : Fin 8) (f m14 m13 : Bool) (ra : Fin 32) (bsel : BitVec 6) (s : State) : Result :=
  multiply (.mac2 h accd f m14 m13 ra bsel) .mul2 .mac h accd f m14 m13 ra bsel s

/-- MSU2 (R114): ACC −= the sum of two 16×16 products. -/
def execMsu2 (h : Head) (accd : Fin 8) (f m14 m13 : Bool) (ra : Fin 32) (bsel : BitVec 6) (s : State) : Result :=
  multiply (.msu2 h accd f m14 m13 ra bsel) .mul2 .msu h accd f m14 m13 ra bsel s

/-- MPYP (R114): ACC := two products into a pair. -/
def execMpyp (h : Head) (accd : Fin 8) (f m14 m13 : Bool) (ra : Fin 32) (bsel : BitVec 6) (s : State) : Result :=
  multiply (.mpyp h accd f m14 m13 ra bsel) .mulP .mpy h accd f m14 m13 ra bsel s

/-- MACP (R114): ACC += two products into a pair. -/
def execMacp (h : Head) (accd : Fin 8) (f m14 m13 : Bool) (ra : Fin 32) (bsel : BitVec 6) (s : State) : Result :=
  multiply (.macp h accd f m14 m13 ra bsel) .mulP .mac h accd f m14 m13 ra bsel s

/-- MSUP (R114): ACC −= two products into a pair. -/
def execMsup (h : Head) (accd : Fin 8) (f m14 m13 : Bool) (ra : Fin 32) (bsel : BitVec 6) (s : State) : Result :=
  multiply (.msup h accd f m14 m13 ra bsel) .mulP .msu h accd f m14 m13 ra bsel s

/-- MPYW (R114): ACC := a 32×16 product. -/
def execMpyw (h : Head) (accd : Fin 8) (f m14 m13 : Bool) (ra : Fin 32) (bsel : BitVec 6) (s : State) : Result :=
  multiply (.mpyw h accd f m14 m13 ra bsel) .mulW .mpy h accd f m14 m13 ra bsel s

/-- MACW (R114): ACC += a 32×16 product. -/
def execMacw (h : Head) (accd : Fin 8) (f m14 m13 : Bool) (ra : Fin 32) (bsel : BitVec 6) (s : State) : Result :=
  multiply (.macw h accd f m14 m13 ra bsel) .mulW .mac h accd f m14 m13 ra bsel s

/-- MSUW (R114): ACC −= a 32×16 product. -/
def execMsuw (h : Head) (accd : Fin 8) (f m14 m13 : Bool) (ra : Fin 32) (bsel : BitVec 6) (s : State) : Result :=
  multiply (.msuw h accd f m14 m13 ra bsel) .mulW .msu h accd f m14 m13 ra bsel s

/-- MPYL (R114): ACC := a 32×32 product, using both M slots. -/
def execMpyl (h : Head) (accd : Fin 8) (f m14 m13 : Bool) (ra : Fin 32) (bsel : BitVec 6) (s : State) : Result :=
  multiply (.mpyl h accd f m14 m13 ra bsel) .mulL .mpy h accd f m14 m13 ra bsel s

/-- MACL (R114): ACC += a 32×32 product, using both M slots. -/
def execMacl (h : Head) (accd : Fin 8) (f m14 m13 : Bool) (ra : Fin 32) (bsel : BitVec 6) (s : State) : Result :=
  multiply (.macl h accd f m14 m13 ra bsel) .mulL .mac h accd f m14 m13 ra bsel s

/-- MSUL (R114): ACC −= a 32×32 product, using both M slots. -/
def execMsul (h : Head) (accd : Fin 8) (f m14 m13 : Bool) (ra : Fin 32) (bsel : BitVec 6) (s : State) : Result :=
  multiply (.msul h accd f m14 m13 ra bsel) .mulL .msu h accd f m14 m13 ra bsel s

/-- EXT (R115): ACCS shifted, rounded and saturated into RD. -/
def execExt (h : Head) (rd : Fin 32) (accs : Fin 8) (tgt : BitVec 2) (shift : BitVec 5) (rndf : BitVec 2) (s : State) :
    Result :=
  issued s (.ext h rd accs tgt shift rndf) h (fun c =>
    let r := extract tgt.toNat shift.toInt (roundMode c.stat rndf) c.acc[accs]
    { headG h c rd [.acc accs] r with
      illegal := tgt == 3 || decide (shift.toInt < -8) || decide (8 < shift.toInt) })

/-- An accumulator instruction (R116): a value and AV from ACCD and ACCS. -/
def accOp (i : Instr) (h : Head) (accd : Fin 8) (f : BitVec 72 → BitVec 72 × Bool) (s : State) : Result :=
  issued s i h (fun c =>
    let r := f c.acc[accd]
    { headPend h c .m with dests := [.acc accd], writes := [(.acc accd, r.1)], av := r.2 })

/-- As accOp, from ACCD and ACCS. -/
def accOp2 (i : Instr) (h : Head) (accd accs : Fin 8) (f : BitVec 72 → BitVec 72 → BitVec 72 × Bool) (s : State) :
    Result :=
  issued s i h (fun c =>
    let r := f c.acc[accd] c.acc[accs]
    { headPend h c .m with dests := [.acc accd], writes := [(.acc accd, r.1)], av := r.2 })

/-- ACLR (R116): ACCD := 0. -/
def execAclr (h : Head) (accd : Fin 8) (s : State) : Result := accOp (.aclr h accd) h accd (fun _ => (0, false)) s

/-- AMOV (R116): ACCD := ACCS. -/
def execAmov (h : Head) (accd accs : Fin 8) (s : State) : Result :=
  accOp2 (.amov h accd accs) h accd accs (fun _ b => (b, false)) s

/-- AADD (R116): ACCD + ACCS, AV on overflow. -/
def execAadd (h : Head) (accd accs : Fin 8) (s : State) : Result :=
  accOp2 (.aadd h accd accs) h accd accs (fun a b => acc72 (a.toInt + b.toInt)) s

/-- ASUB (R116): ACCD − ACCS, AV on overflow. -/
def execAsub (h : Head) (accd accs : Fin 8) (s : State) : Result :=
  accOp2 (.asub h accd accs) h accd accs (fun a b => acc72 (a.toInt - b.toInt)) s

/-- ANEG (R116): −ACCS, AV where it wraps. -/
def execAneg (h : Head) (accd accs : Fin 8) (s : State) : Result :=
  accOp2 (.aneg h accd accs) h accd accs (fun _ b => acc72 (-b.toInt)) s

/-- AABS (R116): |ACCS|, AV where it wraps. -/
def execAabs (h : Head) (accd accs : Fin 8) (s : State) : Result :=
  accOp2 (.aabs h accd accs) h accd accs (fun _ b => acc72 b.toInt.natAbs) s

/-- ASHL (R116): ACCD << AMT, AV where a bit shifted past bit 71 differs from the result's bit 71. -/
def execAshl (h : Head) (accd : Fin 8) (amt : BitVec 6) (s : State) : Result :=
  accOp (.ashl h accd amt) h accd (fun a => acc72 (a.toInt * ((2 ^ amt.toNat : Nat) : Int))) s

/-- ASRA (R116): ACCD arithmetically >> AMT. -/
def execAsra (h : Head) (accd : Fin 8) (amt : BitVec 6) (s : State) : Result :=
  accOp (.asra h accd amt) h accd (fun a => (a.sshiftRight amt.toNat, false)) s

end Sys2Proof.Machine
end

