-- ==== Sys2Proof/Machine/MemInstr.lean ====
section
/-!
DEFINITION. Memory access, register moves and pointers (R117 to R122).
-/

namespace Sys2Proof.Machine

/-- Registers that a MEM operand reads. -/
def memUses (pn : Fin 16) (mode : BitVec 2) (off : BitVec 10) : List CReg :=
  .p pn :: (if 2 ≤ mode.toNat then [.m ⟨off.toNat % 8, Nat.mod_lt _ (by decide)⟩] else [])

/-- The pointer's post-modify, as destination and as write. -/
def postDest (pn : Fin 16) (p : Option Word) : List CReg := match p with | some _ => [.p pn] | none => []
def postWrite (pn : Fin 16) (p : Option Word) : List (CReg × BitVec 72) :=
  match p with | some v => [(.p pn, v.setWidth 72)] | none => []

/-- A load of a size (R117). -/
def loadOp (i : Instr) (h : Head) (size : Nat) (signed : Bool) (rd : Fin 32) (pn : Fin 16) (mode : BitVec 2) (off : BitVec 10)
    (ecc : Ecc) (s : State) : Result :=
  issued s i h (fun c =>
    let a := c.memAddr pn mode off size
    let gs : List CReg := if size = 8 then [.g rd, .g ⟨(rd.val + 1) % 32, Nat.mod_lt _ (by decide)⟩] else [.g rd]
    { headPend h c .a with
      illegal := !a.ok || (size == 8 && rd.val % 2 == 1)
      dests := gs ++ postDest pn a.post
      writes := postWrite pn a.post
      mem := some (.load a.addr size signed rd ecc)
      uses := memUses pn mode off ++ gs })

/-- A store of a size (R117). -/
def storeOp (i : Instr) (h : Head) (size : Nat) (rs : Fin 32) (pn : Fin 16) (mode : BitVec 2) (off : BitVec 10)
    (s : State) : Result :=
  issued s i h (fun c =>
    let a := c.memAddr pn mode off size
    let r2 : Fin 32 := ⟨(rs.val + 1) % 32, Nat.mod_lt _ (by decide)⟩
    { headPend h c .a with
      illegal := !a.ok || (size == 8 && rs.val % 2 == 1)
      dests := postDest pn a.post
      writes := postWrite pn a.post
      mem := some (.store a.addr size h.merge (if size = 8 then c.g[r2] ++ c.g[rs] else (c.g[rs]).setWidth 64))
      uses := memUses pn mode off ++ (if size = 8 then [.g rs, .g r2] else [.g rs]) })

/-- LD_B (R117): loads a sign-extended byte. -/
def execLdB (h : Head) (rd : Fin 32) (pn : Fin 16) (mode : BitVec 2) (off : BitVec 10) (ecc : Ecc) (s : State) : Result :=
  loadOp (.ldB h rd pn mode off ecc) h 1 true rd pn mode off ecc s

/-- LD_BU (R117): loads a zero-extended byte. -/
def execLdBu (h : Head) (rd : Fin 32) (pn : Fin 16) (mode : BitVec 2) (off : BitVec 10) (ecc : Ecc) (s : State) : Result :=
  loadOp (.ldBu h rd pn mode off ecc) h 1 false rd pn mode off ecc s

/-- LD_H (R117): loads a sign-extended halfword. -/
def execLdH (h : Head) (rd : Fin 32) (pn : Fin 16) (mode : BitVec 2) (off : BitVec 10) (ecc : Ecc) (s : State) : Result :=
  loadOp (.ldH h rd pn mode off ecc) h 2 true rd pn mode off ecc s

/-- LD_HU (R117): loads a zero-extended halfword. -/
def execLdHu (h : Head) (rd : Fin 32) (pn : Fin 16) (mode : BitVec 2) (off : BitVec 10) (ecc : Ecc) (s : State) : Result :=
  loadOp (.ldHu h rd pn mode off ecc) h 2 false rd pn mode off ecc s

/-- LD_W (R117): loads a word. -/
def execLdW (h : Head) (rd : Fin 32) (pn : Fin 16) (mode : BitVec 2) (off : BitVec 10) (ecc : Ecc) (s : State) : Result :=
  loadOp (.ldW h rd pn mode off ecc) h 4 false rd pn mode off ecc s

/-- LD_D (R117): loads a 64-bit word into a register pair. -/
def execLdD (h : Head) (rd : Fin 32) (pn : Fin 16) (mode : BitVec 2) (off : BitVec 10) (ecc : Ecc) (s : State) : Result :=
  loadOp (.ldD h rd pn mode off ecc) h 8 false rd pn mode off ecc s

/-- ST_B (R117): stores RS[7:0]. -/
def execStB (h : Head) (rs : Fin 32) (pn : Fin 16) (mode : BitVec 2) (off : BitVec 10) (s : State) : Result :=
  storeOp (.stB h rs pn mode off) h 1 rs pn mode off s

/-- ST_H (R117): stores RS[15:0]. -/
def execStH (h : Head) (rs : Fin 32) (pn : Fin 16) (mode : BitVec 2) (off : BitVec 10) (s : State) : Result :=
  storeOp (.stH h rs pn mode off) h 2 rs pn mode off s

/-- ST_W (R117): stores RS. -/
def execStW (h : Head) (rs : Fin 32) (pn : Fin 16) (mode : BitVec 2) (off : BitVec 10) (s : State) : Result :=
  storeOp (.stW h rs pn mode off) h 4 rs pn mode off s

/-- ST_D (R117): stores RS and RS + 1. -/
def execStD (h : Head) (rs : Fin 32) (pn : Fin 16) (mode : BitVec 2) (off : BitVec 10) (s : State) : Result :=
  storeOp (.stD h rs pn mode off) h 8 rs pn mode off s

/-- NOP (R108): nothing for one cycle. -/
def execNop (h : Head) (s : State) : Result := issued s (.nop h) h (fun c => headPend h c .a)

/-- MOVX (R119, R120): DST := SRC, effective from the next bundle. A reserved number is illegal whatever the predicate; a
write that would change a read-only register or field is illegal where the instruction executes. -/
def execMovx (h : Head) (dst src : BitVec 8) (s : State) : Result :=
  issued s (.movx h dst src) h (fun c =>
    match extReg dst, extReg src with
    | some d, some r =>
      let v := c.read h.cl.val h.t.val r
      let ro := match d with | .ctl k => c.roChange h.cl.val h.t.val k.val v | _ => false
      { headPend h c .a with
        illegal := headOn h c && ro
        dests := [d]
        writes := [(d, v.setWidth 72)]
        uses := [r] }
    | _, _ => { headPend h c .a with illegal := true })

/-- PMOVI (R121): PN := IMM17 × 4. -/
def execPmovi (h : Head) (pn : Fin 16) (imm : BitVec 17) (s : State) : Result :=
  issued s (.pmovi h pn imm) h (fun c => { headPend h c .a with
    dests := [.p pn], writes := [(.p pn, BitVec.ofNat 72 (imm.toNat * 4))] })

/-- PADD (R121): PN post-modified by IMM16 or by a modifier. -/
def execPadd (h : Head) (pn : Fin 16) (usem : Bool) (imm : BitVec 16) (s : State) : Result :=
  issued s (.padd h pn usem imm) h (fun c =>
    let k : Fin 8 := ⟨imm.toNat % 8, Nat.mod_lt _ (by decide)⟩
    let m := if usem then c.m[k].toInt else imm.toInt
    { headPend h c .a with
      illegal := usem && imm.toNat / 8 != 0
      dests := [.p pn]
      writes := [(.p pn, (c.postMod pn m).setWidth 72)]
      uses := .p pn :: (if usem then [.m k] else []) })

/-- TBRD (R122): TB2 seconds and nanoseconds into a register pair. -/
def execTbrd (h : Head) (rd : Fin 32) (s : State) : Result :=
  issued s (.tbrd h rd) h (fun c =>
    let r2 : Fin 32 := ⟨(rd.val + 1) % 32, Nat.mod_lt _ (by decide)⟩
    { headPend h c .a with
      illegal := rd.val % 2 == 1
      dests := [.g rd, .g r2]
      writes := [(.g rd, (s.tb2sOn (dieOf h.cl)).setWidth 72), (.g r2, (s.tb2nOn (dieOf h.cl)).setWidth 72)]
      uses := [.g rd, .g r2]
      outside := true })

end Sys2Proof.Machine
end

