-- ==== Sys2Proof/Machine/Control.lean ====
section
/-!
DEFINITION. Control flow, fences, cask and scheduler instructions (R103, R123 to R129, R135, R136), and the tile's
commands from outside (R99, R105).
-/

namespace Sys2Proof.Machine

/-- An instruction of slot A0. -/
def control (h : Head) (c : Core) (x : Ctl) (uses : List CReg) : Pend :=
  { headPend h c .control with ctl := some x, uses := uses }

/-- The address of the instruction that arrives (R123). -/
def Core.here (c : Core) : Nat := c.pc.toNat + 4 * c.bundle.length

/-- A branch target relative to the instruction. -/
def relTarget (c : Core) (off : BitVec 21) : Nat := (word ((c.here : Int) + 4 * off.toInt)).toNat

/-- BR (R123): to the instruction + 4 × OFF21. -/
def execBr (h : Head) (off : BitVec 21) (s : State) : Result :=
  issued s (.br h off) h (fun c => control h c (.branch (relTarget c off)) [])

/-- BL (R123): as BR, and G31 := the address of the next bundle. -/
def execBl (h : Head) (off : BitVec 21) (s : State) : Result :=
  issued s (.bl h off) h (fun c => { control h c (.call (relTarget c off)) [] with dests := [.g 31] })

/-- JR (R123): to RS[31:2] × 4. -/
def execJr (h : Head) (rs : Fin 32) (s : State) : Result :=
  issued s (.jr h rs) h (fun c => control h c (.branch (c.g[rs].toNat / 4 * 4)) [.g rs])

/-- A loop (R92, R124): its level's counter is written, and a fifth level is an exception. -/
def loopPend (h : Head) (c : Core) (body count : Nat) (uses : List CReg) : Pend :=
  { control h c (.loop body count) uses with
    nesting := headOn h c && decide (4 ≤ c.depth)
    dests := [.lc ⟨c.depth % 4, Nat.mod_lt _ (by decide)⟩] }

/-- LOOP (R124): the count from RS. -/
def execLoop (h : Head) (rs : Fin 32) (body : BitVec 16) (s : State) : Result :=
  issued s (.loop h rs body) h (fun c => loopPend h c body.toNat c.g[rs].toNat [.g rs])

/-- LOOPI (R124): an immediate count. -/
def execLoopi (h : Head) (body : BitVec 6) (count : BitVec 16) (s : State) : Result :=
  issued s (.loopi h body count) h (fun c => loopPend h c body.toNat count.toNat [])

/-- RET (R103): ends the item. -/
def execRet (h : Head) (s : State) : Result := issued s (.ret h) h (fun c => control h c .ret [.g 0])

/-- FENCE (R126): every earlier access of the core is already performed in this model, so the fence only waits (log 10). -/
def execFence (h : Head) (scope : BitVec 3) (kind : BitVec 2) (s : State) : Result :=
  issued s (.fence h scope kind) h (fun c => { control h c .fence [] with
    illegal := kind == 0 || decide (4 < scope.toNat), outside := true })

/-- A cask handle: bits [13:0] of a register. -/
def handleOf (w : Word) : Nat := w.toNat % 16384

/-- n registers from RS, lowest first. -/
def regGroup (c : Core) (rs : Fin 32) (n : Nat) : List Word :=
  (List.range n).map (fun i => c.g.toList.getD ((rs.val + i) % 32) 0)

def groupUses (rs : Fin 32) (n : Nat) : List CReg :=
  (List.range n).map (fun i => .g ⟨(rs.val + i) % 32, Nat.mod_lt _ (by decide)⟩)

/-- CKW (R128): a 128-bit word offered to the open packet; QD says whether it was accepted. -/
def execCkw (h : Head) (rs rc : Fin 32) (qd : Fin 8) (s : State) : Result :=
  issued s (.ckw h rs rc qd) h (fun c =>
    let ws := regGroup c rs 4
    let v : BitVec 128 := ws.getD 3 0 ++ ws.getD 2 0 ++ ws.getD 1 0 ++ ws.getD 0 0
    { control h c (.ckw (handleOf c.g[rc]) v qd) (.g rc :: groupUses rs 4) with
      illegal := rs.val % 4 != 0 || qd == 0
      dests := [.q qd]
      outside := true })

/-- CKC (R128, R135): commits the open packet. -/
def execCkc (h : Head) (rc : Fin 32) (s : State) : Result :=
  issued s (.ckc h rc) h (fun c => control h c (.ckc (handleOf c.g[rc])) [.g rc])

/-- CKC.REL (R127): FENCE REL, then the commit. -/
def execCkcRel (h : Head) (rc : Fin 32) (s : State) : Result :=
  issued s (.ckcRel h rc) h (fun c => { control h c (.ckcRel (handleOf c.g[rc])) [.g rc] with outside := true })

/-- CKA (R135): abandons the open packet. -/
def execCka (h : Head) (rc : Fin 32) (s : State) : Result :=
  issued s (.cka h rc) h (fun c => control h c (.cka (handleOf c.g[rc])) [.g rc])

/-- CKR (R128, R136): the next word of a cask into RD to RD + 3, its status into RS. -/
def execCkr (h : Head) (rd rc rs : Fin 32) (ecc : Ecc) (s : State) : Result :=
  issued s (.ckr h rd rc rs ecc) h (fun c =>
    { control h c (.ckr (handleOf c.g[rc]) rd rs ecc) [.g rc] with
      illegal := rd.val % 4 != 0 || rs.val / 4 == rd.val / 4
      dests := groupUses rd 4 ++ [.g rs]
      outside := true })

/-- WPOST (R129): posts the item in RS to RS + 7 to cluster RT[4:0]. -/
def execWpost (h : Head) (rs rt : Fin 32) (qd : Fin 8) (s : State) : Result :=
  issued s (.wpost h rs rt qd) h (fun c =>
    { control h c (.wpost (regGroup c rs 8) (c.g[rt].toNat % 32) qd) (.g rt :: groupUses rs 8) with
      illegal := rs.val % 8 != 0 || qd == 0
      dests := [.q qd]
      outside := true })

/-- WDELAY (R129): arms a one-shot timer of the own cluster with the item. -/
def execWdelay (h : Head) (rs rt : Fin 32) (qd : Fin 8) (s : State) : Result :=
  issued s (.wdelay h rs rt qd) h (fun c =>
    { control h c (.wdelay (regGroup c rs 8) c.g[rt].toNat qd) (.g rt :: groupUses rs 8) with
      illegal := rs.val % 8 != 0 || qd == 0
      dests := [.q qd]
      outside := true })

/-! ## The tile from outside -/

/-- OVERRUN (R99): CYC has reached ILIM, and the next bundle does not issue. -/
def execOverrun (cl : Fin 32) (t : Fin 12) (s : State) : Result :=
  let c := s.core cl t
  .next (if s.executes cl t ∧ c.bundle = [] ∧ c.ilim.toNat ≤ c.cyc.toNat then s.exception cl t 7 c.pc.toNat else s)

/-- Tile debug acts on the tile: it is open, and the cluster is not OFF (R105, R32). -/
def State.debugs (s : State) (n : Nat) : Bool := s.dbgOpen && s.clState n != stOff

/-- HALT (R105): the tile stops at the next bundle boundary. Instructions of a bundle that is not complete have not
issued. -/
def execHalt (cl : Fin 32) (t : Fin 12) (s : State) : Result :=
  .next (if s.debugs cl then s.haltTile cl t else s)

/-- STEP (R105): a halted tile executes one bundle, then halts again. -/
def execStep (cl : Fin 32) (t : Fin 12) (s : State) : Result :=
  .next (if s.debugs cl ∧ s.rb (TILE.STATE cl t) F.TILE_STATE_HALTED then
    s.setCore cl t { s.core cl t with stepping := true } else s)

/-- A tile leaves halt. -/
def State.resumeTile (s : State) (n t : Nat) : State :=
  (s.put (TILE.STATE n t) F.TILE_STATE_HALTED 0).put (TILE.DBG_CTRL n t) F.TILE_DBG_CTRL_HALTED 0

/-- RESUME (R105): leaves halt; a tile of a cluster in HALT runs only under debug (R105). -/
def execResume (cl : Fin 32) (t : Fin 12) (s : State) : Result :=
  .next (if s.debugs cl then s.resumeTile cl t else s)

/-- BREAKPOINT (R105): an armed breakpoint or watchpoint halts the tile before the bundle issues. Which bundle follows is
known from outside: the breakpoint must lie where a bundle at PC can hold it. -/
def execBreakpoint (cl : Fin 32) (t : Fin 12) (s : State) : Result :=
  let pc := (s.core cl t).pc.toNat
  let bp := (List.range 4).any (fun i => s.rb (TILE.BP cl t i) F.TILE_BP_EN &&
    decide (pc ≤ s.rf (TILE.BP cl t i) F.TILE_BP_ADDR * 4) && decide (s.rf (TILE.BP cl t i) F.TILE_BP_ADDR * 4 < pc + 16))
  let wp := (List.range 2).any (fun i => s.rb (TILE.WPCTL cl t i) F.TILE_WPCTL_EN &&
    (s.rb (TILE.WPCTL cl t i) F.TILE_WPCTL_ON_STORE || s.rb (TILE.WPCTL cl t i) F.TILE_WPCTL_ON_LOAD))
  .next (if s.debugs cl ∧ s.executes cl t ∧ s.rb (TILE.DBG_CTRL cl t) F.TILE_DBG_CTRL_BPEN ∧ (bp ∨ wp) then
    s.haltTile cl t else s)

end Sys2Proof.Machine
end

