-- ==== Sys2Proof/Machine/Security.lean ====
section
/-!
DEFINITION. SEC: one-time-programmable memory, image verification, boot, measurements and quotes, TRNG and debug unlock
(R391 to R404). Hashes and keys stand in register windows byte by byte in address order (log 24).
-/

namespace Sys2Proof.Machine

/-! ## Windows -/

/-- n words of registers from an address, as bytes in address order. -/
def State.regBytes (s : State) (a n : Nat) : List Byte := (List.range n).flatMap (fun i => leBytes 4 (s.rv (a + 4 * i)))

/-- Bytes into a window of registers. -/
def State.putBytes (s : State) (a : Nat) (bs : List Byte) : State :=
  each s (List.range ((bs.length + 3) / 4)) (fun u i => u.wv (a + 4 * i) (leAt bs (4 * i) 4))

def State.uid (s : State) : Nat := s.rv (SEC.UID 0) + 2 ^ 32 * s.rv (SEC.UID 1)

/-- 32 free bytes of the TRNG. -/
def State.trng (s : State) (n : Nat) : List Byte := s.freeBytes n

/-! ## OTP fields (R391) -/

def State.keyHash (s : State) (k : Nat) : List Byte := s.regBytes (SEC.HASH k 0) 8

def State.keyPerm (s : State) (k : Nat) : Nat := s.rf SEC.OTPINFO F.SEC_OTPINFO_PERM / 8 ^ k % 8

def State.keyProgrammed (s : State) (k : Nat) : Bool := (s.keyHash k).any (· != 0)

def State.revoked (s : State) (k : Nat) : Bool := bit (s.rf SEC.OTPINFO F.SEC_OTPINFO_REVOKE) k

/-! ## Verification (R393, R394) -/

/-- An envelope header's fields. -/
structure Envelope where
  typ : Nat
  slot : Nat
  svn : Nat
  plen : Nat
  entry : Nat
  csize : Nat
  deriving DecidableEq, Repr

def envelope (h : List Byte) : Envelope :=
  { typ := leAt h 4 4 / 256 % 256
    slot := bits (leAt h 4 4) 17 16
    svn := bits (leAt h 4 4) 29 24
    plen := leAt h 8 4 % 2 ^ 24
    entry := leAt h 12 4 % 2 ^ 24
    csize := leAt h 16 4 % 65536 }

/-- Check 1: magic, format, type, zero fields and ranges. -/
def headerOk (h : List Byte) (typ : Nat) : Bool :=
  let e := envelope h
  leAt h 0 4 == 0x50524E31 && leAt h 4 4 % 256 == 1 && e.typ == typ && bits (leAt h 4 4) 23 18 == 0 &&
    bits (leAt h 4 4) 31 30 == 0 && leAt h 8 4 / 2 ^ 24 == 0 && leAt h 12 4 / 2 ^ 24 == 0 && leAt h 16 4 / 2 ^ 24 == 0 &&
    (slice h 20 12).all (· == 0) && (slice h 192 64).all (· == 0) && e.plen % 8 == 0 && decide (8 ≤ e.plen) &&
    (if typ = 1 then decide (e.plen ≤ 16776960) && e.csize == 0 && decide (e.entry < e.plen)
     else decide (e.plen ≤ 98304) && decide (e.csize ≤ 32768) && decide (e.csize ≤ e.plen) &&
       decide (e.plen - e.csize ≤ 65536) && decide (e.entry < e.plen - e.csize))

/-- The code of the first check that fails on a header and a payload, 0 where all pass. -/
def State.verify (s : State) (typ : Nat) (h payload : List Byte) : Nat :=
  let e := envelope h
  let svnMin := s.rf SEC.OTPINFO (if typ = 1 then F.SEC_OTPINFO_RB0 else F.SEC_OTPINFO_RB1)
  let member := leAt h 16 4 / 65536 % 256
  if h.length < 256 ∨ !headerOk h typ then 0x0D01
  else if member ≠ 0 ∧ member ≠ s.rf GLB.ID F.GLB_ID_MEMBER then 0x0D02
  else if !s.keyProgrammed e.slot ∨ sha256 (slice h 32 64) ≠ s.keyHash e.slot ∨ !bit (s.keyPerm e.slot) (typ - 1) then 0x0D03
  else if s.revoked e.slot then 0x0D04
  else if !ecdsaValid (slice h 32 64) (slice h 128 64) (sha256 (slice h 0 128)) then 0x0D05
  else if e.svn < svnMin then 0x0D06
  else if sha256 payload ≠ slice h 96 32 then 0x0D07
  else 0

/-! ## Measurements (R399) -/

/-- MR := SHA-256(MR ‖ V). -/
def State.extend (s : State) (r : Nat) (v : List Byte) : State :=
  s.putBytes (SEC.MR r 0) (sha256 (s.regBytes (SEC.MR r 0) 8 ++ v))

/-- MREXT. -/
def State.mrExtend (s : State) (r : Nat) : State :=
  if !s.ready SEC.MR_STATUS then s
  else
    let s1 := s.begin_ SEC.MR_STATUS
    if r < 2 then s1.post SEC.MR_STATUS 0x0D31
    else (s1.extend r (s1.regBytes (SEC.MRVAL 0) 8)).post SEC.MR_STATUS 0

def execMrext (r : BitVec 3) (s : State) : Result := hostCmd s SEC.MREXT (fun u => u.mrExtend r.toNat)

/-! ## Quotes (R400) -/

/-- A quote's bytes before its signature. -/
def State.quoteBody (s : State) : List Byte :=
  let mask := s.rf SEC.QMASK F.SEC_QMASK_QMASK
  let info := s.rf SEC.OTPINFO F.SEC_OTPINFO_RB0 + 256 * s.rf SEC.OTPINFO F.SEC_OTPINFO_RB1 +
    65536 * s.rf SEC.OTPINFO F.SEC_OTPINFO_REVOKE + 2 ^ 24 * s.rf SEC.DBGSCOPE F.SEC_DBGSCOPE_OPEN
  leBytes 4 (1 + 256 * mask) ++ leBytes 4 (s.rv GLB.ID) ++ beBytes 8 s.uid ++ s.regBytes (SEC.QNONCE 0) 8 ++
    leBytes 4 s.tb2s.toNat ++ leBytes 4 s.tb2n.toNat ++ leBytes 4 info ++ leBytes 4 (s.sec.quotes + 1) ++
    ((List.range 8).filter (fun r => bit mask r)).flatMap (fun r => s.regBytes (SEC.MR r 0) 8)

def State.quoteCode (s : State) : Nat :=
  let a := s.rv SEC.QADDRLO + 2 ^ 32 * s.rf SEC.QADDRHI F.SEC_QADDRHI_QADDR
  if !s.rb SEC.OTPINFO F.SEC_OTPINFO_IDK then 0x0D32
  else if s.rf SEC.QMASK F.SEC_QMASK_QMASK = 0 then 0x0D33
  else if !s.rangeOk 0 a (s.quoteBody.length + 64) then 0x0D34
  else if s.sec.trngBad then 0x0D41
  else 0

/-- QCMD: refused with a code, or accepted with the values that stand (R401). -/
def State.quoteStart (s : State) : State :=
  if !s.ready SEC.QSTATUS then s
  else
    let s1 := s.begin_ SEC.QSTATUS
    if s.quoteCode ≠ 0 then (s1.post SEC.QSTATUS s.quoteCode).raise SEC.EVT F.SEC_EVT_QUOTE
    else
      { s1 with sec := { s1.sec with
          quotes := s1.sec.quotes + 1
          quote := some ⟨s.quoteBody, s.rv SEC.QADDRLO + 2 ^ 32 * s.rf SEC.QADDRHI F.SEC_QADDRHI_QADDR⟩ } }

def execQcmd (s : State) : Result := hostCmd s SEC.QCMD State.quoteStart

/-- QUOTE_COMPLETE: the quote is signed with IDK and a nonce of the TRNG, and written. -/
def State.quoteEnd (s : State) : State :=
  match s.sec.quote with
  | none => s
  | some q =>
    let sig := ecdsaSign s.sec.idk.toNat (beNat (s.trng 32)) (sha256 q.body)
    let s1 := { (s.draw 32) with sec := { s.sec with quote := none } }
    ((s1.write q.addr (q.body ++ sig)).post SEC.QSTATUS 0).raise SEC.EVT F.SEC_EVT_QUOTE

def execQuoteComplete (s : State) : Result := .next s.quoteEnd

/-! ## TRNG (R402) -/

/-- RNGCMD: 256 new bits, or zeros and 0x0D41 where the TRNG failed. -/
def State.rng (s : State) : State :=
  if !s.ready SEC.RNG_STATUS then s
  else
    let s1 := s.begin_ SEC.RNG_STATUS
    if s.sec.trngBad then (s1.putBytes (SEC.RNG 0) (List.replicate 32 0)).post SEC.RNG_STATUS 0x0D41
    else ((s1.draw 32).putBytes (SEC.RNG 0) (s.trng 32)).post SEC.RNG_STATUS 0

def execRngcmd (s : State) : Result := hostCmd s SEC.RNGCMD State.rng

/-- A failed health test: RNG words read 0 from then on. -/
def execTrngHealthFail (s : State) : Result :=
  .next ((({ s with sec := { s.sec with trngBad := true } } : State).putBytes (SEC.RNG 0) (List.replicate 32 0)).raise
    SEC.EVT F.SEC_EVT_TRNG)

/-- The start-up test is repeated; a pass clears the failure. -/
def execTrngRetest (pass : Bool) (s : State) : Result :=
  .next (if pass then { s with sec := { s.sec with trngBad := false } } else s)

/-! ## Debug unlock (R403, R404) -/

/-- DBGCMD CHALLENGE: a nonce of the TRNG. -/
def State.challenge (s : State) : State :=
  if !s.ready SEC.DBG_STATUS then s
  else
    let s1 := s.begin_ SEC.DBG_STATUS
    if s.sec.trngBad then s1.post SEC.DBG_STATUS 0x0D41
    else
      (({ (s1.draw 32) with sec := { s1.sec with challenge := true } } : State).putBytes (SEC.DBGCHAL 0) (s.trng 32)).post
        SEC.DBG_STATUS 0

def execChallenge (s : State) : Result := hostCmd s SEC.DBGCMD State.challenge

/-- An unrevoked slot with debug permission holds the hash of DBGPUB. -/
def State.debugKey (s : State) : Bool :=
  (List.range 4).any (fun k => s.keyProgrammed k && !s.revoked k && bit (s.keyPerm k) 2 &&
    sha256 (s.regBytes (SEC.DBGPUB 0) 16) == s.keyHash k)

/-- The bytes that DBGSIG signs. -/
def State.debugMessage (s : State) : List Byte :=
  s.regBytes (SEC.DBGCHAL 0) 8 ++ beBytes 8 s.uid ++ beBytes 4 (s.rv GLB.ID) ++
    beBytes 4 (s.rf SEC.DBGSCOPE F.SEC_DBGSCOPE_SCOPE)

def State.unlockCode (s : State) : Nat :=
  if 8 ≤ s.sec.fails then 0x0D54
  else if s.rb SEC.OTPINFO F.SEC_OTPINFO_DBGPOL then 0x0D51
  else if !s.debugKey then 0x0D52
  else if !s.sec.challenge ∨ !ecdsaValid (s.regBytes (SEC.DBGPUB 0) 16) (s.regBytes (SEC.DBGSIG 0) 16)
      (sha256 s.debugMessage) then 0x0D53
  else 0

/-- DBGCMD UNLOCK: opens the scopes named, or counts a failure. -/
def State.unlock (s : State) : State :=
  if !s.ready SEC.DBG_STATUS then s
  else
    let s1 := s.begin_ SEC.DBG_STATUS
    let code := s.unlockCode
    let s2 := { s1 with sec := { s1.sec with challenge := false, fails := if code = 0 then 0 else s1.sec.fails + 1 } }
    if code ≠ 0 then s2.post SEC.DBG_STATUS code
    else
      let scope := s.rf SEC.DBGSCOPE F.SEC_DBGSCOPE_SCOPE
      let s3 := s2.put SEC.DBGSCOPE F.SEC_DBGSCOPE_OPEN (s2.rf SEC.DBGSCOPE F.SEC_DBGSCOPE_OPEN ||| scope)
      ((s3.extend 0 (sha256 (s.regBytes (SEC.DBGPUB 0) 16 ++ beBytes 4 scope))).post SEC.DBG_STATUS 0).raise
        SEC.EVT F.SEC_EVT_DBG

def execUnlock (s : State) : Result := hostCmd s SEC.DBGCMD State.unlock

/-- Every halted tile resumes. -/
def State.resumeAll (s : State) : State :=
  each s (List.range 384) (fun u i =>
    if u.rb (TILE.STATE (i / 12) (i % 12)) F.TILE_STATE_HALTED then u.resumeTile (i / 12) (i % 12) else u)

/-- DBGCMD LOCK: closes every scope; halted tiles resume. -/
def State.lock (s : State) : State :=
  if !s.ready SEC.DBG_STATUS then s
  else
    let s1 := (s.begin_ SEC.DBG_STATUS).put SEC.DBGSCOPE F.SEC_DBGSCOPE_OPEN 0
    (s1.resumeAll.post SEC.DBG_STATUS 0).raise SEC.EVT F.SEC_EVT_DBG

def execLock (s : State) : Result := hostCmd s SEC.DBGCMD State.lock

/-! ## OTP commands (R392) -/

def State.certLen (s : State) : Nat := s.rf SEC.CERTLEN F.SEC_CERTLEN_CERTLEN

/-- The slots that would still permit Warden images without slot k. -/
def State.otherWardenSlot (s : State) (k : Nat) : Bool :=
  (List.range 4).any (fun j => j != k && s.keyProgrammed j && !s.revoked j && bit (s.keyPerm j) 0)

/-- The field that a command programs. -/
def otpField (op arg : Nat) : Nat :=
  op * 2048 + (match op with | 1 => arg % 4 | 6 => arg % 1024 | _ => 0)

/-- The last write of the field did not verify: the command can be repeated (code 0x0D25). -/
def State.otpAgain (s : State) (op arg : Nat) : Bool := s.sec.unverified.contains (otpField op arg)

/-- The code with which a command is refused at once, 0 where it is accepted. -/
def State.otpCode (s : State) (op arg : Nat) : Nat :=
  let k := arg % 4
  let off := arg % 1024
  let len := bits arg 26 16
  let again := s.otpAgain op arg
  match op with
  | 1 => if !again ∧ (s.keyProgrammed k ∨ s.keyPerm k ≠ 0) then 0x0D21 else 0
  | 2 => if k = s.sec.bootSlot ∧ s.booted ∨ !s.otherWardenSlot k then 0x0D22 else 0
  | 3 =>
    let n := arg % 256
    if 63 < n then 0x0D23
    else if bit arg 8 then 0
    else if s.booted ∧ s.sec.bootSvn < n then 0x0D23 else 0
  | 4 => if !again ∧ s.rf SEC.OTPINFO2 F.SEC_OTPINFO2_SUBSYS ≠ 0 then 0x0D21 else 0
  | 5 => if s.rb SEC.OTPINFO F.SEC_OTPINFO_IDK then 0x0D21 else if s.sec.trngBad then 0x0D41 else 0
  | 6 =>
    if off % 32 ≠ 0 ∨ 1024 < len ∨ (if again ∨ s.certLen = 0 then len else s.certLen) ≤ off then 0x0D24
    else if again then 0
    else if (s.certLen ≠ 0 ∧ len ≠ s.certLen) ∨ (s.regBytes (SEC.CERT (off / 4)) 8).any (· != 0) then 0x0D21 else 0
  | 7 => 0
  | _ => 0x0D24

/-- An OTP command starts, or ends at once with its refusal. -/
def State.otpStart (s : State) (op : Nat) : State :=
  if !s.ready SEC.OTP_STATUS then s
  else
    let s1 := s.begin_ SEC.OTP_STATUS
    let arg := s.rv SEC.OTPARG
    if s.otpCode op arg ≠ 0 then (s1.post SEC.OTP_STATUS (s.otpCode op arg)).raise SEC.EVT F.SEC_EVT_OTP
    else
      { s1 with sec := { s1.sec with
          showPub := false
          otp := some ⟨BitVec.ofNat 4 op, s.reg SEC.OTPARG, s.regBytes (SEC.OTPDATA 0) 8⟩ } }

def execProgkey (s : State) : Result := hostCmd s SEC.OTPCMD (fun u => u.otpStart 1)
def execRevoke (s : State) : Result := hostCmd s SEC.OTPCMD (fun u => u.otpStart 2)
def execAdvance (s : State) : Result := hostCmd s SEC.OTPCMD (fun u => u.otpStart 3)
def execSubsys (s : State) : Result := hostCmd s SEC.OTPCMD (fun u => u.otpStart 4)
def execGenid (s : State) : Result := hostCmd s SEC.OTPCMD (fun u => u.otpStart 5)
def execWrcert (s : State) : Result := hostCmd s SEC.OTPCMD (fun u => u.otpStart 6)
def execDbgoff (s : State) : Result := hostCmd s SEC.OTPCMD (fun u => u.otpStart 7)

/-- Bytes OR-ed into a window: bits of OTP only rise. -/
def State.orBytes (s : State) (a : Nat) (bs : List Byte) : State :=
  s.putBytes a ((s.regBytes a ((bs.length + 3) / 4)).zipWith (· ||| ·) bs)

/-- A field of OTPINFO with bits added. -/
def State.orInfo (s : State) (f : Fld) (v : Nat) : State := s.put SEC.OTPINFO f (s.rf SEC.OTPINFO f ||| v)

/-- What a command programs, with the bits that `mask` lets rise (all of them where it verified). -/
def State.otpApply (s : State) (q : OtpRun) (mask : List Byte) : State :=
  let arg := q.arg.toNat
  let k := arg % 4
  let m8 := (mask.getD 0 0).toNat
  let data := q.data.zipWith (· &&& ·) mask
  match q.op.toNat with
  | 1 => (s.orBytes (SEC.HASH k 0) data).orInfo F.SEC_OTPINFO_PERM ((bits arg 6 4 &&& m8) * 8 ^ k)
  | 2 => s.orInfo F.SEC_OTPINFO_REVOKE (2 ^ k &&& (m8 * 17))
  | 3 =>
    let f := if bit arg 8 then F.SEC_OTPINFO_RB1 else F.SEC_OTPINFO_RB0
    s.put SEC.OTPINFO f (Nat.max (s.rf SEC.OTPINFO f) (if m8 = 255 then arg % 64 else (arg % 64) * m8 / 256))
  | 4 => s.put SEC.OTPINFO2 F.SEC_OTPINFO2_SUBSYS (arg % 65536 &&& (m8 * 257))
  | 5 =>
    let d : BitVec 256 := BitVec.ofNat 256 (beNat (s.trng 32)) ||| s.sec.idk
    if m8 ≠ 255 then { (s.draw 32) with sec := { s.sec with idk := s.sec.idk ||| (d &&& BitVec.ofNat 256 (beNat mask)) } }
    else
      let pub := ecdsaPub d.toNat
      let s1 := ({ (s.draw 32) with sec := { s.sec with idk := d, showPub := true } } : State).orInfo F.SEC_OTPINFO_IDK 1
      (s1.putBytes (SEC.IDPUB 0) pub).putBytes (SEC.OTPDATA 0) (pub.take 32)
  | 6 =>
    let s1 := s.orBytes (SEC.CERT (arg % 1024 / 4)) data
    if s.certLen = 0 ∨ s.otpAgain 6 arg then
      s1.put SEC.CERTLEN F.SEC_CERTLEN_CERTLEN (s.certLen ||| (bits arg 26 16 &&& (m8 * 257)))
    else s1
  | _ => s.orInfo F.SEC_OTPINFO_DBGPOL (m8 % 2)

/-- The write of a field ends: all its bits where it verified; else a free subset of them, and the command can be repeated. -/
def State.otpWrite (s : State) (q : OtpRun) (verified : Bool) : State :=
  let mask := (s.freeBytes 32).mapIdx (fun i b => if i = 0 then b &&& 0x7F else b)
  let s1 := if verified then s.otpApply q (List.replicate 32 0xFF) else (s.draw 32).otpApply q mask
  let rest := s.sec.unverified.filter (· != otpField q.op.toNat q.arg.toNat)
  { s1 with sec := { s1.sec with unverified := if verified then rest else otpField q.op.toNat q.arg.toNat :: rest } }

/-- OTP_COMMAND_COMPLETE: the field is programmed. Where the write did not verify, it holds the bits that were set, which
are open (log 6), and the command can be repeated; of GENID, IDK holds them, and IDPUB is not programmed (log 24). -/
def State.otpEnd (s : State) (verified : Bool) : State :=
  match s.sec.otp with
  | none => s
  | some q =>
    let s1 := ({ s with sec := { s.sec with otp := none } } : State).otpWrite q verified
    (s1.post SEC.OTP_STATUS (if verified then 0 else 0x0D25)).raise SEC.EVT F.SEC_EVT_OTP

def execOtpCommandComplete (verified : Bool) (s : State) : Result := .next (s.otpEnd verified)

/-! ## Boot (R395 to R397) -/

/-- The result of a boot or LOAD is posted. -/
def State.bootResult (s : State) (code copy : Nat) : State :=
  ((s.put SEC.COPY F.SEC_COPY_COPY copy).post SEC.BSTATUS code).raise SEC.EVT F.SEC_EVT_BOOT

/-- The Wardens start: MR0 is extended with the header's digest, and BOOTED rises. -/
def State.bootStart (s : State) (h : List Byte) : State :=
  let e := envelope h
  ({ (s.extend 0 (sha256 (slice h 0 128))) with
      sec := { s.sec with boot := 2, bootSlot := e.slot, bootSvn := e.svn } } : State).put HIF.STATUS F.HIF_STATUS_BOOTED 1

/-- A flash copy: read into Cellar from offset 0 and verified; the code, 0x0D08 where the device did not answer or the
copy is cut short. -/
def State.bootCopy (s : State) (c : Option (List Byte)) : State × Nat :=
  match c with
  | none => (s, 0x0D08)
  | some f =>
    let h := f.take 256
    let e := envelope h
    let s1 := s.write 0x10000000 (f.take (256 + e.plen))
    if headerOk h 1 ∧ f.length < 256 + e.plen then (s1, 0x0D08)
    else (s1, s.verify 1 h (slice f 256 e.plen))

/-- BOOT_ROM. With a flash boot it tries the primary copy, then the secondary; with a host boot it waits for LOAD. -/
def State.bootRom (s : State) (primary secondary : Option (List Byte)) (otpBad : Bool) : State :=
  if s.package.held ∨ s.sec.boot ≠ 0 ∨ s.booted then s
  else if otpBad then ({ s with sec := { s.sec with boot := 3 } } : State).bootResult 0x0D0A 0
  else if s.bootPort.isSome then { s with sec := { s.sec with boot := 1 } }
  else
    let a := s.bootCopy primary
    if a.2 = 0 then (a.1.bootStart ((primary.getD []).take 256)).bootResult 0 0
    else
      let b := a.1.bootCopy secondary
      if b.2 = 0 then (b.1.bootStart ((secondary.getD []).take 256)).bootResult 0 1
      else ({ b.1 with sec := { b.1.sec with boot := 2 } } : State).bootResult b.2 1

def execBootRom (primary secondary : Option (List (BitVec 8))) (otpBad : Bool) (s : State) : Result :=
  .next (s.bootRom primary secondary otpBad)

/-- BOOTCMD LOAD: the image that the host loaded into Cellar is verified and started; after a failure the host can write
LOAD again. -/
def State.bootLoad (s : State) : State :=
  if s.booted ∨ s.sec.boot ≠ 1 ∨ !s.ready SEC.BSTATUS then s
  else
    let s1 := s.begin_ SEC.BSTATUS
    let h := s.bytes 0x10000000 256
    let e := envelope h
    let code := if s.poisonedIn 0x10000000 256 then 0x0D01
      else if s.poisonedIn 0x10000100 e.plen then 0x0D07
      else s.verify 1 h (s.bytes 0x10000100 e.plen)
    if code = 0 then (s1.bootStart h).bootResult 0 0 else s1.bootResult code 0

def execLoad (s : State) : Result := hostCmd s SEC.BOOTCMD State.bootLoad

/-! ## User kernel images (R398) -/

/-- The code of a user kernel image at a DPA, and the state with MR1 extended at the first success. -/
def State.checkKernel (s : State) (n a : Nat) : State × Nat :=
  let h := s.bytes a 256
  let e := envelope h
  if (s.cluster n).verified.contains (BitVec.ofNat 32 (a / 256)) then (s, 0)
  else
    let code := if !s.rangeOk (dieOf n) a 256 || s.poisonedIn a 256 then 0x0D01
      else if !s.rangeOk (dieOf n) (a + 256) e.plen || s.poisonedIn (a + 256) e.plen then 0x0D07
      else s.verify 2 h (s.bytes (a + 256) e.plen)
    if code ≠ 0 then
      (if s.rb SEC.KERR_LOG F.SEC_KERR_LOG_VALID then s else s.wv SEC.KERR_LOG (2 ^ 31 + code), code)
    else
      let s1 := s.setCluster n { s.cluster n with verified := (s.cluster n).verified ++ [BitVec.ofNat 32 (a / 256)] }
      let key := (a, slice h 96 32)
      if s1.sec.extended.contains key then (s1, 0)
      else
        (({ s1 with sec := { s1.sec with extended := s1.sec.extended ++ [key] } } : State).extend 1 (slice h 96 32), 0)

/-- The loader's image reaches a tile's P and C memory, and its entry is known (R151). -/
def State.loadImage (s : State) (n t : Nat) (p c : List Byte) (entry : Nat) : State :=
  let s1 := (s.write (tileDpa n t 0x50000) p).write (tileDpa n t 0x40000) c
  s1.setCore n t { s1.core n t with entryPc := BitVec.ofNat 32 (0x50000 + entry), lcache := none }

end Sys2Proof.Machine
end

