-- ==== Sys2Proof/Machine/SchedCmds.lean ====
section
/-!
DEFINITION. The commands of the scheduler, the kernel loader, the delay lists, the casks and the scrubbers (R136 to R157,
R398, R413).
-/

namespace Sys2Proof.Machine

/-! ## Dispatch and loading (R150, R151) -/

/-- DISPATCH: the oldest ready item of the highest class goes to a tile. -/
def execDispatch (cl : Fin 32) (s : State) : Result := .next (s.dispatchOne cl)

/-- An item whose image fails verification ends with a fetch access exception before its first bundle, and the tile holds
no image (R151, R398). -/
def State.unverified (s : State) (n t : Nat) (it : Item) : State :=
  let s1 := s.startItem n t it
  let s2 := s1.exception n t 2 (s1.core n t).pc.toNat
  s2.setCore n t { s2.core n t with image := none }

/-- KERNEL_LOAD_COMPLETE: a ROM image is loaded (log 5), a user image is verified at its first load on the cluster and
loaded; then the item starts. -/
def State.loadDone (s : State) (n t : Nat) : State :=
  match (s.core n t).loading with
  | none => s
  | some it =>
    if it.typ = 0 then
      let k := Config.romImage it.entry.toNat
      (((s.loadImage n t ((Config.romImageP k).take 65536) ((Config.romImageC k).take 32768)
        (4 * (Config.romEntry it.entry.toNat % 16384))).bump (WS.LOADS_LO n) (WS.EVT n) F.WS_EVT_WCNT)).startItem n t it
    else
      let a := it.entry.toNat * 256
      let r := s.checkKernel n a
      if r.2 ≠ 0 then r.1.unverified n t it
      else
        let e := envelope (s.bytes a 256)
        let np := min 65536 (e.plen - e.csize)
        let nc := min 32768 e.csize
        ((r.1.loadImage n t (s.bytes (a + 256) np) (s.bytes (a + 256 + (e.plen - e.csize)) nc) (e.entry % 65536)).bump
          (WS.LOADS_LO n) (WS.EVT n) F.WS_EVT_WCNT).startItem n t it

def execKernelLoadComplete (cl : Fin 32) (t : Fin 12) (s : State) : Result := .next (s.loadDone cl t)

/-! ## The host's items (R147, R154, R157) -/

/-- HPOST0 to HPOST7. -/
def State.hpost (s : State) (n : Nat) : List Word := (List.range 8).map (fun i => s.reg (WS.HPOST n i))

/-- POST of HPCTL. -/
def State.hpPost (s : State) (n : Nat) : State :=
  if !s.ready (WS.HP_STATUS n) then s
  else ((s.begin_ (WS.HP_STATUS n)).postWork n (s.hpost n) .host).post (WS.HP_STATUS n) (s.postCode n (s.hpost n) .host)

def execPost (cl : Fin 32) (s : State) : Result := hostCmd s (WS.HPCTL cl) (fun u => u.hpPost cl)

/-- DELAY of HPCTL: the timer's number is shown. -/
def State.hpDelay (s : State) (n us : Nat) : State :=
  if !s.ready (WS.HP_STATUS n) then s
  else
    let code := s.delayCode n (s.hpost n) us .host
    let s1 := (s.begin_ (WS.HP_STATUS n)).delayWork n (s.hpost n) us .host true
    let s2 := match code, freeTimer (s.cluster n) with
      | 0, some k => s1.wv (WS.HP_TIMER n) k
      | _, _ => s1
    s2.post (WS.HP_STATUS n) code

def execDelay (cl : Fin 32) (us : BitVec 32) (s : State) : Result :=
  hostCmd s (WS.HPCTL cl) (fun u => u.hpDelay cl us.toNat)

/-- The timer is armed and its item does not already wait for room. -/
def Cluster.armed (c : Cluster) (k : Nat) : Option Timer :=
  if c.waiting.any (fun w => w.2 == some k) then none
  else (c.timers.find? (fun e => e.1 == k)).map (·.2)


/-- DEFERRED_ACCEPT: room has appeared in the pending store. -/
def execDeferredAccept (cl : Fin 32) (s : State) : Result := .next (s.deferred cl)

/-! ## Timers (R154 to R156) -/

/-- ONE_SHOT_TIMER_EXPIRY: the timer releases its item at its tick, in the order of R156. -/
def State.oneShotExpires (s : State) (n k : Nat) : State :=
  match (s.cluster n).armed k with
  | none => s
  | some t =>
    match t.kind with
    | .periodic _ => s
    | .oneShot it _ _ => if s.timerFirst n t then s.release n it (some k) else s

/-- CANCEL of HPCTL: disarms a one-shot timer that the host armed. One whose tick has come expires instead: its item is
released, and the cancel fails (R157). -/
def State.hpCancel (s : State) (n k : Nat) : State :=
  if !s.ready (WS.HP_STATUS n) then s
  else
    let s1 := s.begin_ (WS.HP_STATUS n)
    match (s.cluster n).armed k with
    | some ⟨due, .oneShot _ true _⟩ =>
      if s.tb2usOn (dieOf n) < due then (s1.dropTimer n (some k)).post (WS.HP_STATUS n) 0
      else (s1.oneShotExpires n k).post (WS.HP_STATUS n) 0x0306
    | some ⟨_, .oneShot _ false _⟩ => s1.post (WS.HP_STATUS n) 0x0306
    | some ⟨_, .periodic _⟩ => s1.post (WS.HP_STATUS n) 0x0306
    | none => s1.post (WS.HP_STATUS n) 0x0306

def execCancel (cl : Fin 32) (timer : BitVec 13) (s : State) : Result :=
  hostCmd s (WS.HPCTL cl) (fun u => u.hpCancel cl timer.toNat)

def execOneShotTimerExpiry (cl : Fin 32) (timer : BitVec 13) (s : State) : Result :=
  .next (s.oneShotExpires cl timer.toNat)

/-- The chain-run item of a slot's chain at a boundary (R175). -/
def State.chainItem (s : State) (n k : Nat) (chain : Fin 2) (boundary : Nat) (o : Origin) : Item :=
  { cls := ⟨ctxClass (s.ctx n k) % 8, Nat.mod_lt _ (by decide)⟩
    ord := true
    typ := 2
    flow := BitVec.ofNat 16 k
    tid := (s.slot n k).tid
    entry := BitVec.ofNat 32 chain.val
    cost := 0
    arg0 := 0
    arg1 := 0
    data := 0
    origin := o
    run := some (BitVec.ofNat 13 k, chain)
    boundary := boundary
    regs := []
    stage := []
    area := none }

/-- The chains that a START value starts, in order (R175). -/
def startedBy (c : List Byte) (start : Nat) : List (Fin 2) := ([0, 1] : List (Fin 2)).filter (fun ch => ctxStart c ch == start)

/-- The periodic timer of a slot. -/
def Cluster.periodic (c : Cluster) (k : Nat) : Option (Nat × Timer) :=
  c.timers.find? (fun e => match e.2.kind with | .periodic j => j.toNat == k | .oneShot _ _ _ => false)

/-- PERIODIC_TIMER_EXPIRY: the chain runs of the boundary are released, chain 0 first, and the timer re-arms at once. It
waits for the version switch of its own boundary (R184), and for the commit of a re-home (R365). -/
def State.periodicExpires (s : State) (n k : Nat) : State :=
  match (s.cluster n).periodic k with
  | none => s
  | some (i, t) =>
    let switching := match (s.slot n k).pending with | some c => decide (c.switchAt ≤ t.due) | none => false
    if !s.timerFirst n t || switching || s.frozen (s.slot n k).tid then s
    else
      let c := s.ctx n k
      let s1 := s.setCluster n { s.cluster n with
        timers := sput (s.cluster n).timers i ⟨nextTick (s.tb2usOn (dieOf n)) (ctxPeriod c) (ctxPhase c), t.kind⟩ }
      each s1 (startedBy c 1) (fun u ch => u.release n (s.chainItem n k ch t.due .delayList) none)

def execPeriodicTimerExpiry (cl : Fin 32) (slot : BitVec 13) (s : State) : Result :=
  .next (s.periodicExpires cl slot.toNat)

/-! ## Casks (R136 to R143) -/

def handle (d : Fin 2) (cask : BitVec 13) : Nat := 8192 * d.val + cask.toNat

def execCreate (d : Fin 2) (cask : BitVec 13) (s : State) : Result :=
  hostCmd s (CSK.CMD d) (fun u => u.cskCreate (handle d cask))

def execFlush (d : Fin 2) (cask : BitVec 13) (s : State) : Result :=
  hostCmd s (CSK.CMD d) (fun u => u.cskFlush (handle d cask))

def execDestroy (d : Fin 2) (cask : BitVec 13) (s : State) : Result :=
  hostCmd s (CSK.CMD d) (fun u => u.cskDestroy (handle d cask))

def execPush (d : Fin 2) (cask : BitVec 13) (s : State) : Result :=
  hostCmd s (CSK.HWCTL d) (fun u => u.hwPush (handle d cask))

def execHwctlCommit (d : Fin 2) (cask : BitVec 13) (s : State) : Result :=
  hostCmd s (CSK.HWCTL d) (fun u => u.hwCommit (handle d cask))

def execHwctlCommitRel (d : Fin 2) (cask : BitVec 13) (s : State) : Result :=
  hostCmd s (CSK.HWCTL d) (fun u => u.hwCommit (handle d cask))

def execHwctlAbort (d : Fin 2) (cask : BitVec 13) (s : State) : Result :=
  hostCmd s (CSK.HWCTL d) (fun u => u.hwAbort (handle d cask))

def execAdv (d : Fin 2) (cask : BitVec 13) (s : State) : Result :=
  hostCmd s (CSK.HWCTL d) (fun u => u.hwAdv (handle d cask))

/-- GACK: the pending count of a notice group falls by a count, not below 0 (R142). -/
def State.gack (s : State) (d g n : Nat) : State :=
  s.changed (s.put (CSK.NG_PEND d g) F.CSK_NG_PEND_PEND (s.rf (CSK.NG_PEND d g) F.CSK_NG_PEND_PEND - n))

def execGack (d : Fin 2) (grp : Fin 32) (n : BitVec 16) (s : State) : Result :=
  hostCmd s (CSK.NG_GACK d grp) (fun u => u.gack d grp n.toNat)

/-! ## Scrubbing (R413) -/

/-- The number of a bank, its words, and the DPA of its word i, where the bank has DPAs (log 21). -/
def bankKey : Bank → Nat
  | .cellar d b => 512 * d.val + b.val
  | .trace d b => 1024 + 64 * d.val + b.val
  | .store n b => 1152 + 32 * n.val + b.val
  | .rom n b => 2176 + 32 * n.val + b.val
  | .tile n t b => 3200 + 14 * (12 * n.val + t.val) + b.val

def bankWords : Bank → Nat
  | .cellar _ _ => 16384
  | .trace _ _ => 8192
  | .store _ _ => 8192
  | .rom _ _ => 8192
  | .tile _ _ b => if b.val < 8 then 4096 else if b.val < 10 then 2048 else 4096

def bankDpa (i : Nat) : Bank → Option Nat
  | .cellar d b => some (0x10000000 + d.val * 0x4000000 + 8 * (512 * i + b.val))
  | .trace d b => some (0x18000000 + d.val * 0x400000 + 8 * (64 * i + b.val))
  | .store n b => some (0x19000000 + n.val * 0x200000 + 8 * (32 * i + b.val))
  | .rom n b => some (0x20000000 + n.val * 0x200000 + 8 * (32 * i + b.val))
  | .tile n t b =>
    let w := 0x30000000 + (12 * n.val + t.val) * 0x80000
    if b.val < 4 then some (w + 8 * (4 * i + b.val))
    else if b.val < 8 then some (w + 0x20000 + 8 * (4 * i + (b.val - 4)))
    else if b.val < 10 then some (w + 0x40000 + 8 * (2 * i + (b.val - 8)))
    else if b.val < 12 then some (w + 0x50000 + 8 * (2 * i + (b.val - 10)))
    else none

/-- The cluster of a bank. -/
def bankCluster : Bank → Option Nat
  | .cellar _ _ => none
  | .trace _ _ => none
  | .store n _ => some n
  | .rom n _ => some n
  | .tile n _ _ => some n

/-- An error in a bank that no DPA names: a tile's loop cache or register spill. An uncorrectable one in the loop cache
invalidates it (R94). -/
def State.hiddenEcc (s : State) (b : Bank) (e : Ecc) : State :=
  match b, e with
  | .tile n t k, .ce synd => s.tileEcc n t k 0 false synd.toNat
  | .tile n t k, .ue synd =>
    (if k.val = 12 then s.setCore n t { s.core n t with lcache := none } else s).tileEcc n t k 0 true synd.toNat
  | _, _ => s

/-- SCRUB_READ: the word at a bank's scrub pointer is read, and the pointer advances. A cluster that is OFF does not
scrub. An uncorrectable error in a tile's bank does not end the item running there (DESIGN CHOICE, log 44). -/
def State.scrub (s : State) (b : Bank) (e : Ecc) : State :=
  let off := match bankCluster b with | some n => s.clState n == stOff | none => false
  if off then s
  else
    let i := sget s.scrubs 0 (bankKey b)
    let s1 : State := { s with scrubs := sset s.scrubs 0 (bankKey b) ((i + 1) % bankWords b) }
    match bankDpa i b with
    | some a => s1.eccAt a e
    | none => s1.hiddenEcc b e

def execScrubRead (b : Bank) (ecc : Ecc) (s : State) : Result := .next (s.scrub b ecc)

/-- PATROL_SCRUB: a trained channel reads its next line. Which word of the line an error lies in is open (log 6). -/
def State.patrol (s : State) (c : Nat) (e : Ecc) : State :=
  if s.dramBytes c = 0 then s
  else
    let i := sget s.scrubs 0 (8576 + c)
    let s1 : State := { s with scrubs := sset s.scrubs 0 (8576 + c) ((i + 1) % (s.dramBytes c / 64)) }
    ((s1.draw 1).bump (DDR.SCRUBLINES_LO c) (DDR.EVT c) F.DDR_EVT_CNT).eccAt
      (0x1000000000 + c * 0x800000000 + 64 * i + 8 * (Config.freeNat s.freeCount % 8)) e

def execPatrolScrub (c : Fin 4) (ecc : Ecc) (s : State) : Result := .next (s.patrol c ecc)

end Sys2Proof.Machine
end

