-- ==== Sys2Proof/Machine/Slots.lean ====
section
/-!
DEFINITION. The context engine (R166 to R171, R182 to R188): ALLOC, FREE, QUERY, commits, deletes, version switches,
Warden adjustments and the metrics.
-/

namespace Sys2Proof.Machine

/-! ## ALLOC, FREE and QUERY (R166, R188) -/

def slotCode : SlotState → Nat
  | .free => 0
  | .reserved => 1
  | .live => 2
  | .idle => 3
  | .deleting => 4

/-- The lowest FREE slot of a cluster. -/
def State.lowestFree (s : State) (n : Nat) : Option Nat :=
  let used := (s.slotsOf n).filter (fun e => e.2.st != .free)
  (List.range 8192).find? (fun k => !used.any (fun e => e.1 == k))

/-- SLOTINFO and VERSIONS of a slot. -/
def State.showSlot (s : State) (n k : Nat) : State :=
  let x := s.slot n k
  (s.wv (CTX.SLOTINFO n) (slotCode x.st * 2 ^ 16 + k)).wv (CTX.VERSIONS n) (x.newest.toNat * 2 ^ 16 + x.inForce.toNat)

/-- A command or commit is rejected. -/
def State.rejected (s : State) (n : Nat) : State :=
  (s.bump (CTX.REJECTED_LO n) (CTX.EVT n) F.CTX_EVT_CCNT).raise (CTX.EVT n) F.CTX_EVT_REJECT

/-- The frame of ACMD: ignored while ARES.READY is 0. -/
def State.acmd (s : State) (n code : Nat) (f : State → State) : State :=
  if !s.ready (CTX.ARES n) then s
  else if code = 0 then (f (s.begin_ (CTX.ARES n))).post (CTX.ARES n) 0
  else ((s.begin_ (CTX.ARES n)).rejected n).post (CTX.ARES n) code

def State.allocCode (s : State) (n : Nat) (tid : BitVec 18) : Nat :=
  let based := s.rf (CTX.HOMEBASE n) F.CTX_HOMEBASE_HOMEBASE != 0
  if based ∧ s.homeValid n tid ∧ !s.homeStale n tid then 0x0410
  else if s.lowestFree n = none then 0x0411
  else if !based ∨ s.clState n ≠ stRun then 0x0412
  else 0

/-- ALLOC: the lowest FREE slot is reserved and the home record written whole. -/
def State.alloc (s : State) (n : Nat) (tid : BitVec 18) : State :=
  s.acmd n (s.allocCode n tid) (fun u =>
    match s.lowestFree n with
    | none => u
    | some k =>
      let u1 := (u.setSlot n k { Slot.init with st := .reserved, tid := tid }).writeHome n tid true false k 0
      (u1.unitWrite (dieOf n) (u1.homeDpa n tid + 8) (leBytes 8 0)).showSlot n k)

def execAlloc (cl : Fin 32) (tid : BitVec 18) (s : State) : Result := hostCmd s (CTX.ACMD cl) (fun u => u.alloc cl tid)

/-- FREE: a RESERVED slot becomes FREE; its home record is cleared, so that the TID can be allocated again (log 26). A slot
reserved by a re-home is not the host's to free (log 37). -/
def State.freeSlot (s : State) (n k : Nat) : State :=
  s.acmd n (if (s.slot n k).st = .reserved ∧ !s.isTarget n k then 0 else 0x0413) (fun u =>
    let tid := (s.slot n k).tid
    let u1 := match (s.slot n k).pending with | some c => u.clsSupersede tid c.version | none => u
    (((u1.writeHome n tid false false k 0).dropPeriodic n k).clearSlot n k).showSlot n k)

def execFree (cl : Fin 32) (slot : BitVec 13) (s : State) : Result :=
  hostCmd s (CTX.ACMD cl) (fun u => u.freeSlot cl slot.toNat)

/-- QUERY: the slot of a TID homed on the cluster. -/
def State.query (s : State) (n : Nat) (tid : BitVec 18) : State :=
  match s.slotOf n tid with
  | some k => s.acmd n 0 (fun u => u.showSlot n k)
  | none => s.acmd n 0x0415 (fun u => u)

def execQuery (cl : Fin 32) (tid : BitVec 18) (s : State) : Result := hostCmd s (CTX.ACMD cl) (fun u => u.query cl tid)

/-! ## The fields of an image (R169, R171; code 0x0405) -/

/-- Bytes lo to hi of an image are 0. -/
def zeroAt (c : List Byte) (lo hi : Nat) : Bool := (slice c lo (hi + 1 - lo)).all (· == 0)

/-- Timeslots of a port (R287). -/
def State.tdmN (s : State) (p : Nat) : Nat := 32 * 2 ^ s.rf (TDM.CFG p) F.TDM_CFG_RATE

/-- DEPTH of a port as it acts, in ms (R291). -/
def State.tdmDepth (s : State) (p : Nat) : Nat := max 10 (min 480 (s.rf (TDM.CFG p) F.TDM_CFG_DEPTH))

/-- The port takes a LINE binding of a timeslot and a period in ms (R295). -/
def State.lineOk (s : State) (p ts period : Nat) : Bool :=
  s.rb (TDM.CTRL p) F.TDM_CTRL_EN && decide (ts < s.tdmN p) &&
    !(s.rb (TDM.CFG p) F.TDM_CFG_E1 && ts % 16 == 0) && decide (2 * period ≤ s.tdmDepth p)

/-- The binding of a context is valid (R169, R295). -/
def State.bindingOk (s : State) (c : List Byte) : Bool :=
  let w := ctxW c
  match ctxKind c with
  | 0 => decide (ctxPort c < 48) && decide (ctxLaw c ≤ 1) && (w 16 &&& 0xCC00FFC0) == 0 && zeroAt c 68 127 &&
      s.lineOk (ctxPort c) (ctxTslot c) (ctxPeriod c)
  | 1 => (w 16 &&& 0xF080C000) == 0 && decide (1 ≤ ctxFpp c) && decide (ctxFpp c ≤ 12) && bits (w 18) 31 24 == 0 &&
      decide (28 ≤ ctxTmplLen c) && decide (ctxTmplLen c ≤ 128) && bits (w 19) 31 18 == 0 && zeroAt c 80 127
  | 2 => (List.range 8).all (fun k => bits (w (16 + k)) 30 18 == 0) && zeroAt c 96 127
  | _ => false

/-- The fields that 0x0405 covers; `load` says that the commit loads bytes 128 to 143. -/
def State.fieldsOk (s : State) (c : List Byte) (load : Bool) : Bool :=
  let w := ctxW c
  let p := ctxPeriod c
  decide (ctxKind c ≤ 2) && decide (ctxPeriodCode c ≤ 5) && bits (w 0) 23 18 == 0 && bits (w 2) 31 18 == 0 &&
    bits (w 3) 31 28 == 0 && decide (ctxStart c 0 ≤ 2) && decide (ctxStart c 1 ≤ 2) && decide (ctxPhase c < 1000 * p) &&
    w 6 / 65536 == 0 && bits (w 7) 15 14 == 0 && bits (w 7) 31 21 == 0 && bits (w 8) 31 28 == 0 && w 9 / 65536 == 0 &&
    decide (ctxOutLead c ≤ 1000 * p) && zeroAt c 40 47 && bits (w 12) 31 23 == 0 && zeroAt c 56 63 && s.bindingOk c &&
    (!load || (w 32 / 65536 == 0 && w 34 / 16 == 0 && w 35 == 0))

/-! ## Commit and delete (R183 to R188, R191) -/

/-- The stage buffer of a doorbell. -/
def State.stageDpa (s : State) (n buf : Nat) : Nat := s.rv (CTX.STAGEBASE n) * 256 + 256 * buf

/-- The image that a commit names. -/
def State.commitImage (s : State) (n k : Nat) (staged : Bool) (buf : Nat) : List Byte :=
  if staged then s.unitBytes (dieOf n) (s.stageDpa n buf) 256 else s.ctx n k

/-- The engine's units after a slot's become the greater of its own and new ones. -/
def unitsFit (s : State) (n : Nat) (x : Slot) (u : Units) : Bool :=
  let cap := s.cap n
  let cur := s.useOf n
  let own := x.use
  let new := x.units.max u
  let ok (c own new cap : Nat) : Bool := decide (c - own + new ≤ cap) || decide (new ≤ own)
  ok cur.vat own.vat new.vat cap.vat && ok cur.tone own.tone new.tone cap.tone && ok cur.src own.src new.src cap.src &&
    ok cur.vde own.vde new.vde cap.vde

/-- The slot has a version held or in force with adaptable fields. -/
def Slot.loads (x : Slot) : Bool := x.st == .reserved || x.st == .idle

/-- The first failing check of a commit, in the order of the codes (R188). -/
def State.commitCode (s : State) (n k : Nat) (staged : Bool) (buf : Nat) (version : BitVec 16) : Nat :=
  let x := s.slot n k
  let c := s.commitImage n k staged buf
  let f := s.figures n c
  let load' := s.load n - x.load + max x.charge f.charge
  let timer := (startedBy c 1) != [] && ((s.cluster n).periodic k).isNone && (freeTimer (s.cluster n)).isNone
  let first := x.st == .reserved && x.pending.isNone
  let addr := if staged then s.stageDpa n buf else slotDpa n k
  if s.clState n ≠ stRun then 0x0401
  else if x.st = .free ∨ x.st = .deleting ∨ (!staged ∧ x.st = .live) then 0x0402
  else if s.homeMoving n x.tid then 0x0403
  else if (!first ∧ version ≠ x.newest + 1) ∨ ctxVersion c ≠ version ∨ ctxTid c ≠ x.tid then 0x0404
  else if !s.fieldsOk c x.loads ∨ f.bad.context then 0x0405
  else if f.bad.program then 0x0406
  else if f.bad.peer then 0x0407
  else if f.bad.area then 0x0408
  else if s.budget n < load' ∧ s.load n < load' then 0x0409
  else if !unitsFit s n x f.units then 0x040A
  else if timer then 0x040B
  else if staged ∧ 64 ≤ ((s.slotsOf n).filter (fun e => match e.2.pending with | some q => q.staged | none => false)).length then
    0x040C
  else if s.poisonedIn addr 256 ∨ s.programPoisoned c then 0x040D
  else 0

/-- Adjustments of a slot that have not taken effect are discarded (R186). -/
def State.dropAdjusts (s : State) (n k : Nat) : State :=
  if (s.slot n k).adjusts.isEmpty then s
  else ((s.setSlot n k { s.slot n k with adjusts := [] }).bumpBy (CTX.WDN_DISCARDED_LO n) (s.slot n k).adjusts.length
    (CTX.EVT n) F.CTX_EVT_CCNT).raise (CTX.EVT n) F.CTX_EVT_WDISC

/-- What an accepted doorbell replaces: the pending version never takes effect (R185). -/
def State.supersede (s : State) (n k : Nat) : State :=
  match (s.slot n k).pending with
  | none => s
  | some c =>
    if c.delete then s
    else (s.bump (CTX.SUPERSEDED_LO n) (CTX.EVT n) F.CTX_EVT_CCNT).clsSupersede (s.slot n k).tid c.version

/-- The boundary at which an acceptance now takes effect: the first one strictly after it of the grid in force, or of the
image's grid where none is (R184). -/
def State.switchTime (s : State) (n k : Nat) (c : List Byte) : Nat :=
  let x := s.slot n k
  if x.st = .reserved then nextTick (s.tb2usOn (dieOf n)) (ctxPeriod c) (ctxPhase c) else nextTick (s.tb2usOn (dieOf n)) x.grid.1 x.grid.2

/-- The first boundary of a grid at or after an instant. -/
def firstTick (us p phase : Nat) : Nat := if us % (1000 * p) = phase % (1000 * p) then us else nextTick us p phase

/-- A periodic timer is armed for a slot that has none (R154). -/
def State.armPeriodic (s : State) (n k due : Nat) : State :=
  let c := s.cluster n
  match c.periodic k with
  | some _ => s
  | none =>
    match freeTimer c with
    | none => s
    | some i => s.setCluster n { c with timers := sput c.timers i ⟨due, .periodic (BitVec.ofNat 13 k)⟩ }

/-- COMMIT accepted: pending until its switch, charged the greater of the old and new charges, a timer taken for it. -/
def State.acceptCommit (s : State) (n k : Nat) (keep staged : Bool) (buf : Nat) (version : BitVec 16) : State :=
  let c := s.commitImage n k staged buf
  let f := s.figures n c
  let t := s.switchTime n k c
  let s1 := ((s.supersede n k).dropAdjusts n k).bump (CTX.ACCEPTED_LO n) (CTX.EVT n) F.CTX_EVT_CCNT
  let s2 := s1.setSlot n k { s1.slot n k with
    newest := version
    pending := some ⟨c, version, keep, staged, f.charge, f.opt, f.units, s.namesOf c, false, t⟩ }
  let first := firstTick t (ctxPeriod c) (ctxPhase c)
  (if (startedBy c 1) = [] then s2 else s2.armPeriodic n k first).settleSlots n

/-- The frame of a doorbell: ignored while CSTATUS.READY is 0, with the TID and version shown (R182). -/
def State.doorbell (s : State) (n k : Nat) (version : BitVec 16) (code : Nat) (f : State → State) : State :=
  if !s.ready (CTX.CSTATUS n) then s
  else
    let s1 := ((s.begin_ (CTX.CSTATUS n)).wv (CTX.CSTATUS_TID n) (s.slot n k).tid.toNat).wv (CTX.CSTATUS_VERSION n) version.toNat
    if code = 0 then (f s1).post (CTX.CSTATUS n) 0 else (s1.rejected n).post (CTX.CSTATUS n) code

def State.commit (s : State) (n k : Nat) (keep staged : Bool) (buf : Nat) (version : BitVec 16) : State :=
  s.doorbell n k version (s.commitCode n k staged buf version) (fun u => u.acceptCommit n k keep staged buf version)

def execCommit (cl : Fin 32) (slot : BitVec 13) (keep staged : Bool) (buf : BitVec 6) (version : BitVec 16) (s : State) : Result :=
  hostCmd s (CTX.DB cl slot.toNat) (fun u => u.commit cl slot.toNat keep staged buf.toNat version)

/-- The first failing check of a DELETE. -/
def State.deleteCode (s : State) (n k : Nat) : Nat :=
  let x := s.slot n k
  if s.clState n ≠ stRun ∧ s.clState n ≠ stRecover then 0x0401
  else if x.st ≠ .live ∧ x.st ≠ .idle then 0x0402
  else if s.homeMoving n x.tid then 0x0403
  else 0

/-- DELETE accepted: the slot stops at its switch boundary. -/
def State.acceptDelete (s : State) (n k : Nat) : State :=
  let x := s.slot n k
  let s1 := (s.supersede n k).dropAdjusts n k
  (s1.setSlot n k { s1.slot n k with
    pending := some ⟨[], x.inForce, false, false, x.charge, x.opt, x.units, [], true, s.switchTime n k []⟩ }).settleSlots n

def State.delete (s : State) (n k : Nat) (version : BitVec 16) : State :=
  s.doorbell n k version (s.deleteCode n k) (fun u => u.acceptDelete n k)

def execDelete (cl : Fin 32) (slot : BitVec 13) (version : BitVec 16) (s : State) : Result :=
  hostCmd s (CTX.DB cl slot.toNat) (fun u => u.delete cl slot.toNat version)

/-- A doorbell with an invalid OP. -/
def State.badDoorbell (s : State) (n k : Nat) (version : BitVec 16) : State := s.doorbell n k version 0x0401 (fun u => u)

/-! ## Version switches (R171, R184) -/

/-- The context that takes effect: the image's (H) area; (A) from it or kept; (E) and (D) loaded and zeroed as the slot
becomes LIVE, else kept, with HELD cleared where PROG or the binding changes. -/
def switchedImage (old img : List Byte) (load keep : Bool) : List Byte :=
  let a := if keep then splice img 48 (slice old 48 16) else img
  let b := splice a 4 (if load then [0, 0] else slice old 4 2)
  if load then (splice b 144 (List.replicate 112 0)).take 256
  else
    let held := slice img 16 4 != slice old 16 4 || slice img 64 64 != slice old 64 64
    (splice (splice b 128 (slice old 128 128)) 136 (if held then [0, 0, 0, 0] else slice old 136 4)).take 256

/-- The chain that PLAYOUT starts holds a DEC with CONCEAL (R275). -/
def State.adjMode (s : State) (c : List Byte) : Bool :=
  (startedBy c 2).any (fun ch => match s.chainWords (ctxProg c) ch with
    | some ws => ws.any (fun w => ciOp w == opDec && bit w 0)
    | none => false)

/-- RTCPINT of a PKT context's template (R282). -/
def State.rtcpInt (s : State) (c : List Byte) : Nat := (s.byte (ctxArea c (ctxTmplOff c) + 130)).toNat

/-- The end of an RTCP interval that starts now: 0.5 to 1.5 times RTCPINT, drawn by the TRNG (log 6). -/
def State.rtcpDue (s : State) (n : Nat) (c : List Byte) : Option Nat :=
  let i := s.rtcpInt c
  if i = 0 then none else some (s.tb2usOn (dieOf n) + i * 500000 + Config.freeNat s.freeCount % (i * 1000000 + 1))

/-- The playout state follows a switch of a PKT termination: initialised as the slot becomes LIVE, its home, ADJMODE and
target set (R275, R277, R279). -/
def State.switchPlay (s : State) (n : Nat) (tid : BitVec 18) (c : List Byte) (load : Bool) (at_ : Nat) : State :=
  if ctxKind c ≠ 1 then s
  else
    let s0 := if load then s.dropPlay tid else s
    let x := if load then Play.init else s.play tid
    let tgt := ctxJbTgt c
    let y := { x with
      live := true, home := n, adj := s.adjMode c, grid := (ctxPeriod c, ctxPhase c)
      due := some (firstTick at_ (ctxPeriod c) (ctxPhase c))
      tgt := tgt
      rtcp := { x.rtcp with due := if s.rtcpInt c = 0 then none else if x.rtcp.due.isSome then x.rtcp.due else s.rtcpDue n c } }
    let s1 := (s0.setPlay tid y).draw 1
    if load ∨ x.tgt = tgt ∨ x.st = 0 then s1 else s1.owe tid ((tgt : Int) - x.tgt)

/-- State areas of a region are initialised as its slot becomes LIVE (R206, R241, R252, R262; log 27). -/
def State.clearAreas (s : State) (c : List Byte) : State :=
  { s with areas := s.areas.filter (fun e => decide (e.1 < ctxStBase c) || decide (ctxStBase c + 256 * ctxStSize c ≤ e.1)) }

/-- The state areas that a version names, by SOFF, with what each is for. -/
def State.areaNames (s : State) (c : List Byte) : List (Nat × Nat) :=
  (s.programWords c).filterMap (fun w =>
    let op := ciOp w
    let a := ciSoff w
    if op = opDec ∨ op = opEnc ∨ op = opPlc ∨ op = opVdeRx ∨ op = opVdeTx then some (a, op * 64 + ciCodec w)
    else if op = opSrc then some (a, op * 64 + bits w 42 40)
    else if op = opToneGen ∨ op = opToneDet then some (a, op * 64 + bits w 43 40)
    else none)

/-- Areas that the version in force before did not name alike are initialised at their next use (R241, R252, R262). The
others go on as they are, where STBASE has moved too (log 27). -/
def State.freshAreas (s : State) (old new : List Byte) : State :=
  let was := s.areaNames old
  each s (s.areaNames new) (fun u e =>
    u.setArea (ctxArea new e.1) (if was.contains e then s.area (ctxArea old e.1) else .none))

/-- A new generator takes the request then held as already taken, and starts idle (R225). -/
def State.primeGens (s : State) (c : List Byte) : State :=
  each s (((s.programWords c).filter (fun w => ciOp w == opToneGen)).map (fun w => ctxArea c (ciSoff w))) (fun u a =>
    if u.area a = .none then u.setArea a (.gen { GenSt.init with taken := (u.byte a).toNat }) else u)

def State.vdeAt (s : State) (a : Nat) : VdeSt :=
  match s.area a with
  | .vde v => v
  | _ => VdeSt.init

def State.setVde (s : State) (a : Nat) (v : VdeSt) : State := s.setArea a (.vde v)

/-- VDE areas are initialised (R241): PUT, TAKE, STATE, PASS and AFC to 0, and HSMOD of a receive area to the profile's. Areas
that the version before named alike are left. -/
def State.primeVde (s : State) (n : Nat) (was : List (Nat × Nat)) (c : List Byte) : State :=
  each s ((s.programWords c).filter (fun w => ciOp w == opVdeRx || ciOp w == opVdeTx)) (fun u w =>
    let a := ctxArea c (ciSoff w)
    if !was.contains (ciSoff w, ciOp w * 64 + ciCodec w) then
      ((((u.setArea a (.vde VdeSt.init)).writeLe a 4 0).writeLe (a + 4) 4 0).writeLe (a + 8) 4
        (if ciOp w = opVdeRx then u.rf (VDE.PW0 n (ciCodec w % 16)) F.VDE_PW0_HSMOD else 0)).writeLe (a + 12) 4 0
    else u)

/-- A profile of a cluster's Vat as it is read. -/
def State.vatProfile (s : State) (n p : Nat) : VatProfile :=
  let a := VAT.PW0 n p
  let b := VAT.PW1 n p
  let c := VAT.PW2 n p
  { nwin := s.rf a F.VAT_PW0_NWIN
    wlen := 8 * (s.rf a F.VAT_PW0_WLEN + 1)
    tail := 8 * s.rf a F.VAT_PW0_TAIL
    noSearch := s.rb a F.VAT_PW0_NOSEARCH
    freeze := s.rb a F.VAT_PW0_FREEZE
    cng := s.rf a F.VAT_PW0_CNG
    disabler := s.rf a F.VAT_PW0_DISABLER
    step := min 7 (s.rf b F.VAT_PW1_STEP)
    dtHold := 2000000 * s.rf b F.VAT_PW1_DTDHOLD
    dtThr := min 12 (s.rf b F.VAT_PW1_DTDTHR)
    disHold := 10 * max 1 (s.rf c F.VAT_PW2_DISHOLD)
    disLev := clampInt (-50) (-20) (toSigned 8 (s.rf c F.VAT_PW2_DISLEV))
    cngMax := clampInt (-90) (-30) (toSigned 8 (s.rf c F.VAT_PW2_CNGMAX)) }

/-- The profile that a program's EC names. -/
def State.ecProfile (s : State) (c : List Byte) : Option Nat :=
  ((s.programWords c).find? (fun w => ciOp w == opEc)).map (fun w => bits w 45 42)

/-- A measure in a field of 16 bits. -/
def VatSlot.field (v : VatSlot) (m : Config.VatMeasure) (ms : Nat) : Nat := ofSigned 16 (clampInt (-32768) 32767 (Config.vatMeasure v.memory m ms))

/-- ERLE and ERL over the last milliseconds, 0x7FFF where they held no block of far-end single talk (R207, R215). -/
def VatSlot.loss (v : VatSlot) (now ms : Nat) : Nat :=
  if v.single = 0 ∨ v.single + ms * 1000000 ≤ now then 0x7FFF7FFF else v.field .erle ms * 65536 + v.field .erl ms

/-- A canceller to be initialised at its next request (R206). -/
def VatSlot.fresh (v : VatSlot) : VatSlot := { v with inited := false }

/-- The canceller of a version that switches: its profile is read, and it is initialised at its next request where its slot
becomes LIVE or VATSLOT has changed (R206, R216). -/
def State.switchVat (s : State) (n : Nat) (c : List Byte) (anew : Bool) : State :=
  let a := ctxVatSlot c
  let v := if anew then (s.vat a).fresh else s.vat a
  match s.ecProfile c with
  | some p => s.setVat a { v with q := s.vatProfile n p }
  | none => if anew then s.setVat a v else s

/-- The engine writes a slot whole, which clears poison in it (R183). An unstaged version is the slot itself: a word of it
that has become poisoned stays so, but for the metrics and working state that loading zeros (R65). -/
def State.writeSlot (s : State) (n k : Nat) (c : List Byte) (inPlace load : Bool) : State :=
  let a := slotDpa n k
  let kept := if inPlace then (List.range (if load then 18 else 32)).filter (fun w => s.poisoned (a + 8 * w)) else []
  each (s.write a c) kept (fun u w => u.poisonWord (a + 8 * w))

/-- The TID whose packets the PKT.IN of a slot's program takes. -/
def State.pktTid (s : State) (n k : Nat) (c : List Byte) : BitVec 18 :=
  match (s.programWords c).find? (fun w => ciOp w == opPktIn) with
  | some w => if ciS w then ctxPeer c else (s.slot n k).tid
  | none => (s.slot n k).tid

/-- A pending version takes effect. -/
def State.switchVersion (s : State) (n k : Nat) (q : Commit) : State :=
  let x := s.slot n k
  let old := s.ctx n k
  let load := x.loads
  let c := switchedImage old (if q.staged then q.image else old) load (q.keepAdapt && x.st != .reserved)
  let held := if load then Held.init else if leAt c 136 4 == 0 then { x.held with frames := [] } else x.held
  let s1 := s.writeSlot n k c (!q.staged) load
  let s2 := s1.setSlot n k { x with
    st := .live, inForce := q.version, charge := q.charge, opt := q.opt, units := q.units
    grid := (ctxPeriod c, ctxPhase c), names := q.names, pending := none, held := held }
  let s2 := s2.switchVat n c (load || ctxVatSlot old != ctxVatSlot c)
  let s3 := ((if load then s2.clearAreas c else s2.freshAreas old c).primeGens c).primeVde n (if load then [] else s2.areaNames old) c
  let s4 := s3.dropPeriodic n k
  let s5 := if (startedBy c 1) = [] then s4 else s4.armPeriodic n k (firstTick q.switchAt (ctxPeriod c) (ctxPhase c))
  let s6 := if ctxKind c = 1 ∧ ctxSrtpx c ≠ 0 ∧ (load ∨ ctxSrtpx old ≠ ctxSrtpx c) then s5.srtpRekey (ctxSrtpx c) else s5
  let s7 := (s6.switchPlay n x.tid c load q.switchAt).bump (CTX.SWITCHED_LO n) (CTX.EVT n) F.CTX_EVT_CCNT
  let s8 := if load then s7.setSlot n k { s7.slot n k with mark := (s7.play (s7.pktTid n k c)).counts } else s7
  ((s8.clsSwitch x.tid q.version).writeHome n x.tid true false k q.version.toNat).settleSlots n

/-- A delete takes effect: no run is released, the timer is freed, and the slot waits for its last run. -/
def State.switchDelete (s : State) (n k : Nat) : State :=
  let s1 := (s.setSlot n k { s.slot n k with st := .deleting, pending := none }).dropPeriodic n k
  (s1.setPlay (s.slot n k).tid { s1.play (s.slot n k).tid with due := none }).reap n k

/-- A termination whose context is poisoned goes idle until a new version is committed (R63). -/
def State.goIdle (s : State) (n k : Nat) : State :=
  let s1 := s.setSlot n k { s.slot n k with st := .idle }
  let s2 := if s1.rb (CTX.IDLE_LOG n) F.CTX_IDLE_LOG_VALID then s1
    else s1.wv (CTX.IDLE_LOG n) (2 ^ 31 + (s.slot n k).tid.toNat)
  s2.raise (CTX.EVT n) F.CTX_EVT_IDLED

/-- A Warden adjustment takes effect: area (A), ASEQ and the target (R186). A poisoned context makes the termination idle
instead (R63). -/
def State.applyAdjust (s : State) (n k : Nat) (a : Adjust) : State :=
  if s.poisonedIn (slotDpa n k) 256 then s.goIdle n k else
  let c := s.ctx n k
  let area := ((a.area ++ [0, 0, 0, 0]).take 4).flatMap (fun (w : Word) => leBytes 4 w.toNat)
  let d := splice (splice c 48 area) 4 (leBytes 2 ((ctxAseq c + 1) % 65536))
  let s1 := (s.write (slotDpa n k) d).bump (CTX.WDN_APPLIED_LO n) (CTX.EVT n) F.CTX_EVT_CCNT
  if ctxKind d = 1 ∧ ctxJbTgt d ≠ ctxJbTgt c then
    let tid := (s.slot n k).tid
    let s2 := s1.setPlay tid { s1.play tid with tgt := ctxJbTgt d }
    if (s2.play tid).st = 0 then s2 else s2.owe tid ((ctxJbTgt d : Int) - ctxJbTgt c)
  else s1

/-- VERSION_SWITCH: what waits for a boundary of a slot that has come takes effect, the host's version first. What waits in a
slot whose group has been checkpointed waits for the commit (R365). -/
def State.versionSwitch (s : State) (n k : Nat) : State :=
  if s.frozen (s.slot n k).tid then s else
  let s1 := match (s.slot n k).pending with
    | some q => if q.switchAt ≤ s.tb2usOn (dieOf n) then (if q.delete then s.switchDelete n k else s.switchVersion n k q) else s
    | none => s
  let due := (s1.slot n k).adjusts.filter (fun a => decide (a.switchAt ≤ s.tb2usOn (dieOf n)))
  if due.isEmpty ∨ (s1.slot n k).st ≠ .live then s1
  else
    each (s1.setSlot n k { s1.slot n k with
      adjusts := (s1.slot n k).adjusts.filter (fun a => !decide (a.switchAt ≤ s.tb2usOn (dieOf n))) }) due (fun u a => u.applyAdjust n k a)

def execVersionSwitch (cl : Fin 32) (slot : BitVec 13) (s : State) : Result := .next (s.versionSwitch cl slot.toNat)

/-! ## Warden adjustments (R186) -/

/-- An adjustment is accepted, or discarded and counted. -/
def State.adjust (s : State) (n k : Nat) (base : BitVec 16) (area : List Word) : State :=
  let x := s.slot n k
  if x.st ≠ .live ∨ base ≠ x.newest then
    (s.bump (CTX.WDN_DISCARDED_LO n) (CTX.EVT n) F.CTX_EVT_CCNT).raise (CTX.EVT n) F.CTX_EVT_WDISC
  else s.setSlot n k { x with adjusts := x.adjusts ++ [⟨base, area, nextTick (s.tb2usOn (dieOf n)) x.grid.1 x.grid.2⟩] }

/-! ## Metrics (R170) -/

/-- Bytes 144 to 191 for a slot. -/
def State.metrics (s : State) (n k : Nat) : List Byte :=
  let x := s.slot n k
  let c := s.ctx n k
  let ws := s.programWords c
  let has (op : Nat) : Bool := ws.any (fun w => ciOp w == op)
  let y := s.play (s.pktTid n k c)
  let d (f : PlayCounts → Nat) : Nat :=
    if has opPktIn then min 65535 (if f x.mark ≤ f y.counts then f y.counts - f x.mark else f y.counts) else 0
  let v := s.vat (ctxVatSlot c)
  let sat (z : Nat) : Nat := min 65535 z
  ([(s.tb2sOn (dieOf n)).toNat, d PlayCounts.rx * 65536 + d PlayCounts.lost, d PlayCounts.dup * 65536 + d PlayCounts.late,
    if has opPktIn then y.jit16 / 16 * 1000 / y.khz % 2 ^ 24 else 0,
    (if has opDec then sat x.plcFrames else 0) * 65536 + (if has opPktIn then sat y.depth else 0),
    if has opEc then v.loss (s.tb2nsOn (dieOf n)) 1000 else 0,
    if has opEc then leNat v.win.toList else 0,
    0,
    if has opMeter then Config.meterOut x.metered % 65536 * 65536 + Config.meterIn x.metered % 65536 else 0,
    if has opToneDet then x.lastTone.toNat else 0,
    sat x.shed * 65536 + sat x.missed, 0] : List Nat).flatMap (fun z => leBytes 4 (z % 2 ^ 32))

/-- Frame plus lookahead of a codec in 0.1 ms (R243); the frame of an Opus stream is open (log 8). -/
def codecSpan (free codec : Nat) : Nat :=
  match codec with
  | 0x05 => 150
  | 0x06 => 250
  | 0x07 => 250
  | 0x08 => ([100, 200, 400, 600] : List Nat).getD (free % 4) 100 + 65
  | 0x09 => 320
  | _ => 0

/-- Ie and ten times Bpl of a DEC instruction (R360). -/
def impairment (w : Nat) : Nat × Nat :=
  match ciCodec w with
  | 0x04 => (if ciMode w = 2 then 7 else 15, 100)
  | 0x05 => (11, 190)
  | 0x06 => (5, 100)
  | 0x07 => (5, 100)
  | 0x08 => (0, 200)
  | 0x09 => (0, 200)
  | _ => (0, 251)

/-- The rating of R360 from JBDEPTH in ms, the period in ms, frame and lookahead in 0.1 ms, RTT in 1/65,536 s, packets
received and lost, Ie and ten times Bpl: exact, then rounded. -/
def rating (jb p span rtt rx lost ie bpl10 : Nat) : Nat :=
  let ta : Int := (jb + 2 * p : Nat) * 1310720 + span * 131072 + rtt * 10000
  let idN : Int := 24 * ta + 110 * max 0 (ta - 232390656)
  let idD : Int := 1310720000
  let n : Int := if lost = 0 then 0 else ((95 - ie) * 1000 * lost : Nat)
  let d : Int := if lost = 0 then 1 else (1000 * lost + bpl10 * (rx + lost) : Nat)
  let num : Int := 932 * idD * d - 10 * idN * d - 10 * ie * idD * d - 10 * n * idD
  let den : Int := 10 * idD * d
  (clampInt 0 100 ((2 * num + den) / (2 * den))).toNat

/-- RFACT of a slot whose chains hold METER, from the metrics in force of its own PKT termination or its peer's; with no
DEC the codec is open, and so is the rating (log 8). -/
def State.rfact (s : State) (n k : Nat) : Nat :=
  let c := s.ctx n k
  let far : Option (Nat × Nat) := if ctxKind c = 1 then some (n, k) else s.homeOf (ctxPeer c)
  let fc := match far with | some (a, b) => s.ctx a b | none => []
  let dec := (s.programWords c ++ (match far with | some _ => s.programWords fc | none => [])).find? (fun w => ciOp w == opDec)
  match dec, far with
  | some w, some (a, b) =>
    let i := impairment w
    rating (leAt fc 160 2) (ctxPeriod c) (codecSpan (Config.freeNat s.freeCount) (ciCodec w)) (s.play (s.slot a b).tid).rtt
      (leAt fc 150 2) (leAt fc 148 2) i.1 i.2
  | _, _ => Config.freeNat s.freeCount % 101

/-- METRICS_INTERVAL_END: the gauges of a LIVE context are rewritten and their counts start anew. -/
def State.metricsEnd (s : State) (n k : Nat) : State :=
  let x := s.slot n k
  if x.st ≠ .live ∨ s.frozen x.tid then s
  else
    let s0 := (s.write (slotDpa n k + 144) (s.metrics n k))
    let s1 := if (s.programWords (s.ctx n k)).any (fun w => ciOp w == opMeter)
      then (s0.writeLe (slotDpa n k + 172) 4 (s0.rfact n k)).draw 1 else s0
    s1.setSlot n k { x with
      missed := 0, shed := 0, plcFrames := 0, metered := 0, mark := (s.play (s.pktTid n k (s.ctx n k))).counts }

def execMetricsIntervalEnd (cl : Fin 32) (slot : BitVec 13) (s : State) : Result := .next (s.metricsEnd cl slot.toNat)

end Sys2Proof.Machine
end

