-- ==== Sys2Proof/Machine/Tdm.lean ====
section
/-!
DEFINITION. TDM highways (R287 to R300): channel buffers, frame sync of a slave port, loopbacks, slips, CAS and HDLC, and
the G.711 laws of a LINE binding.
-/

namespace Sys2Proof.Machine

/-! ## The G.711 laws (ITU-T G.711 at 16 bits; log 29) -/

/-- An octet expanded to a Q15 sample: law 0 A-law, else µ-law. -/
def lawExpand (law : Nat) (o : Byte) : BitVec 16 :=
  if law = 0 then
    let a := o.toNat ^^^ 0x55
    let seg := a / 16 % 8
    let t := a % 16 * 16
    let v := if seg = 0 then t + 8 else (t + 0x108) * 2 ^ (seg - 1)
    BitVec.ofNat 16 (ofSigned 16 (if bit a 7 then (v : Int) else -(v : Int)))
  else
    let m := 255 - o.toNat
    let e := m / 16 % 8
    let step := 8 * 2 ^ e
    let v := 128 * 2 ^ e + step * (m % 16) + step / 2 - 132
    BitVec.ofNat 16 (ofSigned 16 (if bit o.toNat 7 then (v : Int) else -(v : Int)))

/-- A Q15 sample compressed to an octet. -/
def lawCompress (law : Nat) (x : BitVec 16) : Byte :=
  let neg := x.msb
  let mag := if neg then (~~~x).toNat else x.toNat
  if law = 0 then
    let ix := mag / 16
    let y := if ix ≤ 15 then ix else
      let e := Nat.log2 ix - 3
      ix / 2 ^ (e - 1) - 16 + 16 * e
    BitVec.ofNat 8 ((if neg then y else y + 128) ^^^ 0x55)
  else
    let a := min 0x1FFF (mag / 4 + 33)
    let seg := if a / 64 = 0 then 1 else Nat.log2 (a / 64) + 2
    BitVec.ofNat 8 ((8 - seg) * 16 + (15 - a / 2 ^ seg % 16) + if neg then 0 else 128)

/-! ## A port -/

/-- Nanoseconds of a frame. -/
def frameNs : Nat := 125000

/-- The first instant of the TB2 grid at or after an instant (R288). -/
def gridUp (t : Nat) : Nat := (t + 124999) / 125000 * 125000

def State.tdm (s : State) (p : Nat) : Tdm := sget s.tdms Tdm.init p
def State.setTdm (s : State) (p : Nat) (x : Tdm) : State := { s with tdms := sset s.tdms Tdm.init p x }

def State.tdmOn (s : State) (p : Nat) : Bool := s.rb (TDM.CTRL p) F.TDM_CTRL_EN && !s.dormant
def State.tdmMaster (s : State) (p : Nat) : Bool := s.rb (TDM.CFG p) F.TDM_CFG_MODE
def State.tdmLof (s : State) (p : Nat) : Bool := s.rb (TDM.STATUS p) F.TDM_STATUS_LOF
def State.tdmE1 (s : State) (p : Nat) : Bool := s.rb (TDM.CFG p) F.TDM_CFG_E1

/-- Frames follow the TB2 grid: a master, or a slave in loss of frame (R288, R289). -/
def State.tdmSync (s : State) (p : Nat) : Bool := s.tdmMaster p || s.tdmLof p

def State.tdmIdle (s : State) (p : Nat) : Byte := BitVec.ofNat 8 (s.rf (TDM.CFG p) F.TDM_CFG_IDLEV)

/-- Frames of a port's buffers (R291). -/
def State.tdmFR (s : State) (p : Nat) : Nat := 8 * s.tdmDepth p

/-- The DPA of an offset of the Cellar of the port's die. -/
def portCellar (p o : Nat) : Nat := 0x10000000 + p / 24 * 0x4000000 + o

def State.ingressDpa (s : State) (p f ts : Nat) : Nat :=
  portCellar p (s.rf (TDM.IBASE p) F.TDM_IBASE_OFFS * 256 + s.tdmFR p * ts + f % s.tdmFR p)
def State.egressDpa (s : State) (p f ts : Nat) : Nat :=
  portCellar p (s.rf (TDM.EBASE p) F.TDM_EBASE_OFFS * 256 + s.tdmFR p * ts + f % s.tdmFR p)
def State.ingressTagDpa (s : State) (p f : Nat) : Nat :=
  portCellar p (s.rf (TDM.TBASE p) F.TDM_TBASE_OFFS * 256 + 8 * (f % s.tdmFR p))
def State.egressTagDpa (s : State) (p f : Nat) : Nat :=
  portCellar p (s.rf (TDM.TBASE p) F.TDM_TBASE_OFFS * 256 + 8 * s.tdmFR p + 8 * (f % s.tdmFR p))

/-- A tag entry: seconds and nanoseconds of TB2. -/
def tagEntry (t : Nat) : List Byte := leBytes 4 (t / 1000000000) ++ leBytes 4 (t % 1000000000)

def State.tagAt (s : State) (a : Nat) : Nat := s.le a 4 * 1000000000 + s.le (a + 4) 4

/-- An instant as tags hold it: seconds modulo 2^32. -/
def tagNs (t : Nat) : Nat := t % (4294967296 * 1000000000)

/-- The frame period of a port, measured over 8 frames by a slave (R292). -/
def State.tdmPeriod (s : State) (p : Nat) : Nat :=
  if s.tdmSync p then frameNs
  else if 8 ≤ (s.tdm p).periods.length then max 1 ((s.tdm p).periods.sum / 8) else frameNs

/-- From the FS edge to bit 1 of timeslot 0, in ns (R288). -/
def State.tdmOffset (s : State) (p : Nat) : Nat := (1 + s.rf (TDM.TIMING p) F.TDM_TIMING_FSOFF) * 125000 / (8 * s.tdmN p)

def State.tdmBumpBy (s : State) (p ctr n : Nat) : State := s.bumpBy ctr n (TDM.EVT p) F.TDM_EVT_TCNT
def State.tdmBump (s : State) (p ctr : Nat) : State := s.tdmBumpBy p ctr 1

/-! ## CTRL (R290, R291, R300) -/

/-- The trim in force, in 0.25 ns: AUTO + BOFFS, clamped (R290). -/
def State.tdmTrim (s : State) (p : Nat) : Nat :=
  (clampInt 0 255 (s.rf (TDM.DLY p) F.TDM_DLY_AUTO + toSigned 8 (s.rf (TDM.DLY p) F.TDM_DLY_BOFFS))).toNat

/-- The channels of a port show whether they run. -/
def State.hdlcShow (s : State) (p : Nat) (on : Bool) : State :=
  each s (List.range 64) (fun u h => u.wv (TDM.HSTAT p h) (b2n (on && s.rb (TDM.HCFG p h) F.TDM_HCFG_EN)))

/-- CTRL.EN rises: frames are numbered from 0, and every egress place counts as just fetched (R291, R292). -/
def State.tdmStart (s : State) (p : Nat) : State :=
  let now := (s.tb2nsOn (p / 24))
  let g := gridUp (now + 2000)
  let lo := portCellar p (s.rf (TDM.EBASE p) F.TDM_EBASE_OFFS * 256)
  let hi := lo + s.tdmN p * s.tdmFR p
  let x : Tdm := { Tdm.init with
    lo := lo, hi := hi, enAt := now, ready := s.tdmMaster p, due := g + frameNs, outAt := g, ref := g + frameNs }
  (({ s with egMarks := s.egMarks.filter (fun a => decide (a < lo) || decide (hi ≤ a)) } : State).setTdm p x).wv (TDM.FCNT p) 0
    |>.wv (TDM.STATUS p) (b2n x.ready) |>.hdlcShow p true

/-- CTRL.EN falls. -/
def State.tdmStop (s : State) (p : Nat) : State := ((s.setTdm p Tdm.init).wv (TDM.STATUS p) 0).hdlcShow p false

/-- CTRL.CAL: a measurement starts, or is refused with 0x0701 where the port is enabled before or after the write. -/
def State.tdmCal (s : State) (p : Nat) (on : Bool) : State :=
  if !s.ready (TDM.CALSTATUS p) then s
  else if on then (s.begin_ (TDM.CALSTATUS p)).post (TDM.CALSTATUS p) 0x0701
  else s.begin_ (TDM.CALSTATUS p)

/-- A write of CTRL. -/
def State.tdmCtrl (s : State) (p v : Nat) : State :=
  let was := s.rb (TDM.CTRL p) F.TDM_CTRL_EN
  let on := bit v 0
  let s1 := if bit v 4 then s.tdmCal p (was || on) else s
  let s2 := s1.wv (TDM.CTRL p) (v % 16)
  if on && !was then s2.tdmStart p else if was && !on then s2.tdmStop p else s2

def execTdmEnable (p : Fin 48) (val : BitVec 32) (s : State) : Result :=
  hostCmd s (TDM.CTRL p) (fun u => u.tdmCtrl p val.toNat)

def execTdmCalibrate (p : Fin 48) (s : State) : Result :=
  hostCmd s (TDM.CTRL p) (fun u => u.tdmCtrl p (u.rv (TDM.CTRL p) % 16 + 16))

/-- CALIBRATION_COMPLETE: AUTO is written; what is measured is the board's, or open (log 6). -/
def State.tdmCalDone (s : State) (p : Nat) (m : Option (BitVec 8)) : State :=
  if s.ready (TDM.CALSTATUS p) then s
  else
    let v := match m with | some b => b.toNat | none => Config.freeNat s.freeCount % 256
    ((((s.draw 1).put (TDM.DLY p) F.TDM_DLY_AUTO v).wv (TDM.CALAUTO p) v).post (TDM.CALSTATUS p) 0)

def execCalibrationComplete (p : Fin 48) (measured : Option (BitVec 8)) (s : State) : Result :=
  .next (s.tdmCalDone p measured)

/-! ## Trace of TDM, CAS and HDLC (R381, R384) -/

/-- Armed probes of a port and source whose selection meets a condition. -/
def State.portProbes (s : State) (p src : Nat) (sel : Nat → Bool) : List Nat :=
  (List.range 16).filter (fun q =>
    (s.probe (p / 24) q).armed && (s.probe (p / 24) q).src == src &&
      s.rf (TRC.P_PCFG (p / 24) q) F.TRC_P_PCFG_INST == p && sel (s.rf (TRC.P_SEL (p / 24) q) F.TRC_P_SEL_SEL))

/-- A received frame is offered to the TDM probes of the port: stored where a selected octet changed. -/
def State.traceFrameIn (s : State) (p tag : Nat) (os : List Byte) : State :=
  let d := p / 24
  each s (s.portProbes p 0 (fun _ => true)) (fun u q =>
    let sel := u.rf (TRC.P_SEL d q) F.TRC_P_SEL_SEL
    let x := u.probe d q
    let v := slice os (sel % 1024) (sel / 1024 % 8 + 1)
    let diff := !x.last.isEmpty && x.last != v
    let u1 := u.capture State.raise d q
      ⟨tag, [traceEntry tag 1 0 0 v], [(0x40, (v.getD 0 0).toNat)], x.fresh || diff, 1, b2n diff⟩
    u1.setProbe d q { u1.probe d q with last := v })

/-- An accepted abcd change, or a loss of multiframe alignment, is offered to the CAS probes of a stream. -/
def State.traceCas (s : State) (p e tag ch abcd : Nat) (lost : Bool) : State :=
  each s (s.portProbes p 2 (fun sel => sel % 32 == e)) (fun u q =>
    u.capture State.raise (p / 24) q
      ⟨tag, [traceEntry tag 4 0 0 [BitVec.ofNat 8 ch, BitVec.ofNat 8 abcd]], [(0x20, ch * 256 + abcd)], !lost, b2n (!lost),
        b2n lost⟩)

/-- A received HDLC frame is offered to the probes of its channel. PORT and SLOT stand in bytes 8 and 9 (log 22). -/
def State.traceHdlc (s : State) (p h tag : Nat) (data : List Byte) (stat : Nat) : State :=
  let o (i : Nat) : Nat := (data.getD i 0).toNat
  each s (s.portProbes p 1 (fun sel => sel % 64 == h)) (fun u q =>
    u.capture State.raise (p / 24) q
      ⟨tag, traceFrame tag stat [BitVec.ofNat 8 p, BitVec.ofNat 8 h] data,
        [(1, o 0 / 4), (2, o 1 / 2), (3, o 0 / 2 % 2), (4, o 2), (5, stat)], true, 1, b2n (stat != 0)⟩)

/-! ## CAS (R296, R297) -/

def Tdm.casOf (x : Tdm) (e : Nat) : CasSt := sget x.cas CasSt.init e

def State.setCas (s : State) (p e : Nat) (c : CasSt) : State :=
  s.setTdm p { s.tdm p with cas := sset (s.tdm p).cas CasSt.init e c }

def nibble (i : Nat) : Fld := ⟨4 * i + 3, 4 * i⟩

/-- A received abcd value of channel ch, 1 to 30: it replaces CASRX where two multiframes agree. -/
def State.casValue (s : State) (p e tag ch v : Nat) : State :=
  let c := (s.tdm p).casOf e
  let reg := TDM.CASRX p e ((ch - 1) / 8)
  let s1 := s.setCas p e { c with abcd := c.abcd.set (ch - 1) v }
  if c.abcd.getD (ch - 1) 16 = v ∧ s.rf reg (nibble ((ch - 1) % 8)) ≠ v then
    ((((s1.put reg (nibble ((ch - 1) % 8)) v).put (TDM.CASCHG p e) ⟨ch - 1, ch - 1⟩ 1).tdmBump p (TDM.CASCHG_LO p)).raise
      (TDM.EVT p) F.TDM_EVT_CAS).traceCas p e tag ch v false
  else s1

/-- The TS16 octet of a stream in a received frame. -/
def State.casRx (s : State) (p e tag : Nat) (o : Byte) : State :=
  let c := (s.tdm p).casOf e
  let hi := o.toNat / 16
  let c1 := { c with prev := some o }
  if !c.locked then
    let begins : Bool := match c.prev with | some q => q != 0 | none => false
    if hi = 0 ∧ begins then
      (s.setCas p e { c1 with locked := true, idx := 1, miss := 0, abcd := List.replicate 30 16 }).put
        (TDM.CASSTAT p e) F.TDM_CASSTAT_MFLOCK 1
    else s.setCas p e c1
  else if c.idx = 0 then
    if hi = 0 then s.setCas p e { c1 with idx := 1, miss := 0 }
    else if c.miss = 1 then
      ((s.setCas p e { c1 with locked := false, idx := 0, miss := 0 }).put (TDM.CASSTAT p e) F.TDM_CASSTAT_MFLOCK 0).traceCas
        p e tag 0 0 true
    else s.setCas p e { c1 with idx := 1, miss := c.miss + 1 }
  else
    ((s.setCas p e { c1 with idx := (c.idx + 1) % 16 }).casValue p e tag c.idx hi).casValue p e tag (c.idx + 15) (o.toNat % 16)

/-- The TS16 octet of a stream in frame k of a sent multiframe, from the values latched at its start. -/
def State.casTx (s : State) (p e k : Nat) : Byte :=
  if k = 0 then BitVec.ofNat 8 (0x0B + 4 * s.rf (TDM.CASSTAT p e) F.TDM_CASSTAT_YTX)
  else
    let v (ch : Nat) : Nat :=
      fget (nibble ((ch - 1) % 8)) (sget (s.tdm p).latch 0xDDDDDDDD (4 * e + (ch - 1) / 8))
    BitVec.ofNat 8 (v k * 16 + v (k + 15))

/-- CASTX is latched at the start of each multiframe. -/
def State.casLatch (s : State) (p : Nat) : State :=
  s.setTdm p { s.tdm p with latch := (List.range (s.tdmN p / 32 * 4)).foldl (fun l i =>
    sset l 0xDDDDDDDD i (s.reg (TDM.CASTX p (i / 4) (i % 4)))) [] }

/-! ## HDLC (R298, R299) -/

/-- Enabled channels of a die. -/
def State.hdlcCount (s : State) (d : Nat) : Nat :=
  (((List.range 24).map (fun q => ((List.range 64).filter (fun h => s.rb (TDM.HCFG (24 * d + q) h) F.TDM_HCFG_EN)).length))).sum

/-- What refuses a write of HCFG with EN = 1. -/
def State.hdlcBad (s : State) (p v : Nat) : Bool :=
  let nts := bits v 15 10
  let ts := bits v 25 16
  nts == 0 || decide (32 < nts) || (nts == 1 && v % 256 == 0) || decide (s.tdmN p < ts + nts) ||
    (s.tdmE1 p && (List.range nts).any (fun i => (ts + i) % 16 == 0)) || decide (1024 ≤ s.hdlcCount (p / 24))

/-- A write of HCFG: a channel is enabled, refused, or changed. -/
def State.hdlcCfg (s : State) (p h v : Nat) : State :=
  let w := v &&& 0xE3FFFCFF
  let was := s.rb (TDM.HCFG p h) F.TDM_HCFG_EN
  let s0 := if was && bit v 31 then s else s.setTdm p { s.tdm p with hdlc := sdel (s.tdm p).hdlc h }
  if bit v 31 && !(was && w == s.rv (TDM.HCFG p h)) then
    if (s.put (TDM.HCFG p h) F.TDM_HCFG_EN 0).hdlcBad p v then
      ((s0.wv (TDM.HCFG p h) (w % 2 ^ 31)).wv (TDM.HSTAT p h) 0).raise (TDM.EVT p) F.TDM_EVT_HCFG
    else (s0.wv (TDM.HCFG p h) w).wv (TDM.HSTAT p h) (b2n (s.rb (TDM.CTRL p) F.TDM_CTRL_EN))
  else (s0.wv (TDM.HCFG p h) w).wv (TDM.HSTAT p h) (b2n (bit v 31 && s.rb (TDM.CTRL p) F.TDM_CTRL_EN))

def execHdlcEnable (p : Fin 48) (hslot : Fin 64) (val : BitVec 32) (s : State) : Result :=
  hostCmd s (TDM.HCFG p hslot) (fun u => u.hdlcCfg p hslot val.toNat)

/-- Word 0 of an HDLC packet. -/
def hdlcWord (len stat port slot tag : Nat) : BitVec 128 :=
  BitVec.ofNat 128 (len + stat * 2 ^ 16 + port * 2 ^ 24 + slot * 2 ^ 32 + tag / 1000000000 % 2 ^ 32 * 2 ^ 64 +
    tag % 1000000000 * 2 ^ 96)

/-- Bytes as cask words, zeros after the last. -/
def dataWords (bs : List Byte) : List CWord :=
  (List.range ((bs.length + 15) / 16)).map (fun i => ⟨BitVec.ofNat 128 (leAt bs (16 * i) 16), false⟩)

def tdmProducer (p : Nat) : Producer := .tdm ⟨p % 48, Nat.mod_lt _ (by decide)⟩

/-- HDLC_FRAME_RECEIVE: at a closing flag; `data` is what stands between the flags without the FCS, `stat` 0 good, 1 FCS
error, 2 aborted, 3 overlong, 4 not whole octets. The operand's frame has its FCS removed, so a short frame is one whose
octets and FCS are fewer than 4. -/
def State.hdlcReceive (s : State) (p h : Nat) (data : List Byte) (stat : Nat) : State :=
  if !s.tdmOn p || !s.rb (TDM.HCFG p h) F.TDM_HCFG_EN || s.tdmLof p then s
  else
    let fcs := if s.rb (TDM.HCFG p h) F.TDM_HCFG_FCS32 then 4 else 2
    if data.length + fcs < 4 ∨ data = [] then s.tdmBump p (TDM.HABORT_LO p)
    else
      let tag := (s.tb2nsOn (p / 24))
      let st := if 1008 < data.length then 3 else min 4 stat
      let bs := data.take 1008
      let s0 := s.traceHdlc p h tag bs st
      let s1 := if st = 1 then s0.tdmBump p (TDM.HFCSERR_LO p)
        else if st = 2 ∨ st = 4 then s0.tdmBump p (TDM.HABORT_LO p)
        else if st = 3 then s0.tdmBump p (TDM.HOVERLONG_LO p)
        else s0
      let r := s1.postPacket (s.rf (TDM.HRXC p h) F.TDM_HRXC_CASK) (tdmProducer p)
        (⟨hdlcWord bs.length st p h tag, false⟩ :: dataWords bs)
      if r.2 then r.1.tdmBump p (TDM.HRXFRAMES_LO p)
      else (r.1.tdmBump p (TDM.HRXLOST_LO p)).raise (TDM.EVT p) F.TDM_EVT_HDLC

def execHdlcFrameReceive (p : Fin 48) (hslot : Fin 64) (data : List (BitVec 8)) (stat : BitVec 3) (s : State) : Result :=
  .next (s.hdlcReceive p hslot data stat.toNat)

/-- Bits of octets, least significant first. -/
def lsbBits (bs : List Byte) : List Bool := bs.flatMap (fun b => (List.range 8).map (fun i => bit b.toNat i))

/-- A zero after five ones; `k` counts the ones just passed. -/
def stuff : Nat → List Bool → List Bool
  | _, [] => []
  | k, true :: t => if k = 4 then true :: false :: stuff 0 t else true :: stuff (k + 1) t
  | _, false :: t => false :: stuff 0 t

def hdlcFlag : List Bool := [false, true, true, true, true, true, true, false]

/-- The remainder of a reflected CRC over octets. -/
def crcReflected (poly width : Nat) (bs : List Byte) : Nat :=
  bs.foldl (fun c b => (List.range 8).foldl (fun c _ => if c % 2 = 1 then (c / 2) ^^^ poly else c / 2) (c ^^^ b.toNat))
    (2 ^ width - 1) ^^^ (2 ^ width - 1)

/-- FCS-16 and FCS-32 of ISO/IEC 13239. -/
def hdlcFcs (wide : Bool) (bs : List Byte) : List Byte :=
  if wide then leBytes 4 (crcReflected 0xEDB88320 32 bs) else leBytes 2 (crcReflected 0x8408 16 bs)

/-- The next whole packet of a cask, taken by a block that reads its own cask: none where there is none, else its words. -/
def State.takePacket : Nat → State → Nat → List CWord → State × List CWord
  | 0, s, _, acc => (s, acc)
  | k + 1, s, h, acc =>
    let r := s.peek h
    if bit r.2.toNat 31 then (s, acc)
    else if bit r.2.toNat 29 then (s.consume h, acc ++ [r.1]) else State.takePacket k (s.consume h) h (acc ++ [r.1])

/-- Bytes of cask words. -/
def wordBytes (ws : List CWord) : List Byte := ws.flatMap (fun w => leBytes 16 w.val.toNat)

/-- HDLC_FRAME_TRANSMIT: the channel takes a committed packet and sends it as one frame, or as an aborted one. A packet
with a poisoned word is dropped and counted as malformed (R63). -/
def State.hdlcTransmit (s : State) (p h : Nat) : State :=
  if !s.tdmOn p || !s.rb (TDM.HCFG p h) F.TDM_HCFG_EN then s
  else
    let r := State.takePacket 64 s (s.rf (TDM.HTXC p h) F.TDM_HTXC_CASK) []
    match r.2 with
    | [] => s
    | w :: ws =>
      let len := w.val.toNat % 65536
      let bad := ws.length * 16 < len || len == 0 || decide (1008 < len)
      let bs := (wordBytes ws).take len
      let wide := s.rb (TDM.HCFG p h) F.TDM_HCFG_FCS32
      let body := if bit w.val.toNat 20 then bs else bs ++ hdlcFcs wide bs
      let line := if bad then hdlcFlag ++ stuff 0 (lsbBits bs) ++ List.replicate 8 true
        else hdlcFlag ++ stuff 0 (lsbBits body) ++ hdlcFlag
      let x := r.1.tdm p
      let queued := r.1.setTdm p { x with hdlc := sput x.hdlc h (sget x.hdlc [] h ++ line) }
      if (w :: ws).any (fun v => v.poison) then (r.1.tdmBump p (TDM.HTXBAD_LO p)).raise (TDM.EVT p) F.TDM_EVT_HDLC
      else if bad then (queued.tdmBump p (TDM.HTXBAD_LO p)).raise (TDM.EVT p) F.TDM_EVT_HDLC
      else queued.tdmBump p (TDM.HTXFRAMES_LO p)

def execHdlcFrameTransmit (p : Fin 48) (hslot : Fin 64) (s : State) : Result := .next (s.hdlcTransmit p hslot)

/-- k bits of a channel's line: what it has to send, then flags or ones between frames. -/
def hdlcTake (ones : Bool) : Nat → List Bool → List Bool → List Bool × List Bool
  | 0, q, acc => (acc, q)
  | k + 1, b :: q, acc => hdlcTake ones k q (acc ++ [b])
  | k + 1, [], acc => if ones then hdlcTake ones k [] (acc ++ [true]) else hdlcTake ones k (hdlcFlag.drop 1) (acc ++ [false])

/-- Octets with the bits of a channel laid over them: of timeslot TS those that MASK selects, or whole timeslots; the
first bit in line order is bit 7 of an octet. -/
def overlay (ts : Nat) : List Nat → List Bool → List Byte → List Byte
  | [], _, os => os
  | _, [], os => os
  | i :: is, b :: bs, os =>
    let o := os.getD (ts + i / 8) 0
    let m := BitVec.ofNat 8 (2 ^ (7 - i % 8))
    overlay ts is bs (os.set (ts + i / 8) (if b then o ||| m else o &&& ~~~m))

/-- The bit positions of a channel, in line order from the start of its first timeslot. -/
def hdlcBits (v : Nat) : List Nat :=
  if bits v 15 10 = 1 then (List.range 8).filter (fun i => bit v (7 - i)) else List.range (8 * bits v 15 10)

/-- The enabled channels of a port send their bits in a frame. -/
def State.hdlcLine (s : State) (p : Nat) (os : List Byte) : State × List Byte :=
  ((List.range 64).filter (fun h => s.rb (TDM.HCFG p h) F.TDM_HCFG_EN)).foldl (fun (a : State × List Byte) h =>
    let v := s.rv (TDM.HCFG p h)
    let r := hdlcTake (bit v 29) (hdlcBits v).length (sget (a.1.tdm p).hdlc [] h) []
    (a.1.setTdm p { a.1.tdm p with hdlc := sset (a.1.tdm p).hdlc [] h r.2 }, overlay (bits v 25 16) (hdlcBits v) r.1 a.2))
    (s, os)

/-! ## Frames (R291, R292, R294, R300) -/

/-- The octets of a frame are written to the ingress buffer, with the frame's tag. -/
def State.writeIngress (s : State) (p f tag : Nat) (os : List Byte) : State :=
  (each s ((List.range (s.tdmN p)).zip os) (fun u e => u.write (s.ingressDpa p f e.1) [e.2])).write
    (s.ingressTagDpa p f) (tagEntry tag)

/-- The CAS of a frame's streams. -/
def State.casFrame (s : State) (p tag : Nat) (os : List Byte) : State :=
  if s.tdmE1 p && !s.tdmLof p then
    each s (List.range (s.tdmN p / 32)) (fun u e => u.casRx p e tag (os.getD (32 * e + 16) 0))
  else s

/-- The running difference between frames received and due: one slip for each whole frame (R294). -/
def State.countSlips (s : State) (p tag : Nat) : State :=
  let x := s.tdm p
  let n := ((tag : Int) - x.ref).natAbs / frameNs
  let s1 := s.setTdm p { x with ref := (if n = 0 then x.ref else tag) + frameNs }
  if n = 0 then s1 else (s1.tdmBumpBy p (TDM.SLIP_LO p) n).raise (TDM.EVT p) F.TDM_EVT_SLIP

/-- A skew measurement takes the tags of 64 frames of the reference and of each masked port (R390). -/
def State.skewFrame (s : State) (p tag : Nat) : State :=
  match s.skew with
  | none => s
  | some k =>
    let l := sget k.tags [] p
    let wanted : Bool := k.ref.val == p ||
      (if p < 32 then bit (s.rv TRC.SKEWMASK0) p else bit (s.rv TRC.SKEWMASK1) (p - 32))
    if !wanted ∨ 64 ≤ l.length then s else { s with skew := some { k with tags := sset k.tags [] p (l ++ [tag]) } }

/-- TDM_INGRESS_FRAME: the frame in progress ends. In loss of frame its octets hold IDLEV; in local loopback they are
those of the egress frame. -/
def State.tdmIngress (s : State) (p : Nat) (octets : List Byte) : State :=
  let x := s.tdm p
  let sync := s.tdmSync p
  if !s.tdmOn p || !x.ready || decide ((if sync then (s.tb2nsOn (p / 24)) else (s.tb2nsOn (p / 24)) + 62500) < x.due) then s
  else
    let f := x.next
    let tag := if sync then x.due else (s.tb2nsOn (p / 24))
    let os := if s.tdmLof p then List.replicate (s.tdmN p) (s.tdmIdle p)
      else match x.eg.find? (fun e => e.1 == f && e.2.1 == 1) with
        | some e => e.2.2
        | none => (List.range (s.tdmN p)).map (fun i => octets.getD i 0xFF)
    let s1 := s.setTdm p { x with
      next := f + 1, due := tag + s.tdmPeriod p, rx := ((f, os) :: x.rx).take 4 }
    let s2 := ((s1.writeIngress p f tag os).wv (TDM.FCNT p) ((s.rv (TDM.FCNT p) + 1) % 2 ^ 32)).tdmBump p (TDM.FRAMES_IN_LO p)
    ((((s2.countSlips p tag).casFrame p tag os).traceFrameIn p tag os).skewFrame p tag)

def execTdmIngressFrame (p : Fin 48) (octets : List (BitVec 8)) (s : State) : Result := .next (s.tdmIngress p octets)

/-- Timeslots of a port that a LINE.OUT of a LIVE termination names (R292). -/
def State.lineOuts (s : State) (p : Nat) : List Nat :=
  let bound (c : List Byte) : Option Nat := if ctxKind c = 0 ∧ ctxPort c = p then some (ctxTslot c) else none
  ((s.slots.filter (fun e => e.2.st == .live)).flatMap (fun e =>
    let n := e.1 / 8192
    let c := s.ctx n (e.1 % 8192)
    (s.programWords c).filterMap (fun w =>
      if ciOp w ≠ opLineOut then none
      else if ciS w then (match s.livePeer n c with | some k => bound (s.ctx n k) | none => none)
      else bound c))).dedup

/-- The egress frame as it is fetched: places that a write reached, IDLEV elsewhere, CAS in TS16 of an E1 stream. -/
def State.egressFrame (s : State) (p f : Nat) : List Byte :=
  (List.range (s.tdmN p)).map (fun ts =>
    if s.tdmE1 p && ts % 32 == 0 then s.tdmIdle p
    else if s.tdmE1 p && ts % 32 == 16 then s.casTx p (ts / 32) (f % 16)
    else if mem1 s.egMarks (s.egressDpa p f ts) && !s.poisonedIn (s.egressDpa p f ts) 1 then s.byte (s.egressDpa p f ts) else s.tdmIdle p)

/-- IDLEV is written over every timeslot of a fetched frame, which then counts as fetched; its tag is written. -/
def State.refill (s : State) (p f tag : Nat) : State :=
  let ds := (List.range (s.tdmN p)).map (s.egressDpa p f)
  let s1 := each s ds (fun u a => u.write a [s.tdmIdle p])
  ({ s1 with egMarks := s1.egMarks.filter (fun a => !ds.contains a) } : State).write (s.egressTagDpa p f) (tagEntry tag)

/-- TDM_EGRESS_FETCH: 2 µs before a frame's start. -/
def State.tdmFetch (s : State) (p : Nat) : State :=
  let x := s.tdm p
  if !s.tdmOn p || !x.ready || decide ((s.tb2nsOn (p / 24)) + 2000 < x.outAt) then s
  else
    let f := x.outNext
    let loop := s.rf (TDM.CTRL p) F.TDM_CTRL_LOOP
    let s1 := if s.tdmE1 p && f % 16 == 0 then s.casLatch p else s
    let r := s1.hdlcLine p (s1.egressFrame p f)
    let since := if loop = 2 then some (x.remote.getD f) else none
    let idle := List.replicate (s.tdmN p) (s.tdmIdle p)
    let dx := if s.tdmLof p then idle
      else match since with
        | some g => if f < g + 2 then idle else (match x.rx.find? (fun e => e.1 + 2 == f) with | some e => e.2 | none => idle)
        | none => r.2
    let late := ((s.lineOuts p).filter (fun ts => decide (ts < s.tdmN p) && !mem1 s.egMarks (s.egressDpa p f ts))).length
    let y := r.1.tdm p
    let s2 := (r.1.setTdm p { y with
      outNext := f + 1, outAt := x.outAt + s.tdmPeriod p, remote := since, eg := ((f, loop, r.2) :: x.eg).take 4 }).tdmBump p
      (TDM.FRAMES_OUT_LO p)
    let s3 := if loop = 2 ∨ late = 0 then s2
      else (s2.tdmBumpBy p (TDM.IDLETX_LO p) late).raise (TDM.EVT p) F.TDM_EVT_IDLE
    let s4 := s3.refill p f x.outAt
    if s.rb (TDM.CTRL p) F.TDM_CTRL_OE then
      s4.emit (.tdm ⟨p % 48, Nat.mod_lt _ (by decide)⟩ dx (s.tdmTrim p) (s.tdmMaster p))
    else s4

def execTdmEgressFetch (p : Fin 48) (s : State) : Result := .next (s.tdmFetch p)

/-- Out of DORMANT the ports resume at the next TB2-aligned frame of their highway, the slave ports with them: the first
frame that ends lies between the next two instants of the grid (R79). -/
def State.tdmResume (s : State) : State :=
  each s ((List.range 48).filter (fun p => s.rb (TDM.CTRL p) F.TDM_CTRL_EN && (s.tdm p).ready)) (fun u p =>
    let x := u.tdm p
    let due := gridUp (u.tb2nsOn (p / 24)) + frameNs
    u.setTdm p { x with due := due, outAt := due + frameNs * x.outNext - frameNs * (x.next + 1) })

/-- After a TB2 step the frames of a port that follows the grid realign at the next frame (R294); `was` is TB2 before. -/
def State.tdmRealign (s : State) (was : Nat) : State :=
  each s ((List.range 48).filter (fun p => s.rb (TDM.CTRL p) F.TDM_CTRL_EN && s.tdmSync p && (s.tdm p).ready)) (fun u p =>
    let x := u.tdm p
    let g := gridUp (u.tb2nsOn (p / 24))
    let due := if x.due ≤ was + frameNs then g else g + frameNs
    u.setTdm p { x with due := due, outAt := due + frameNs * x.outNext - frameNs * (x.next + 1) })

/-! ## Frame sync of a slave (R289, R291) -/

/-- Loss of frame begins: frames follow the grid. -/
def State.lofBegin (s : State) (p : Nat) : State :=
  let x := s.tdm p
  let g := gridUp ((s.tb2nsOn (p / 24)) + 2000)
  (((s.setTdm p { x with due := g, outAt := g }).put (TDM.STATUS p) F.TDM_STATUS_LOF 1).tdmBump p (TDM.LOF_LO p)).raise
    (TDM.EVT p) F.TDM_EVT_LOF

/-- An FS error is counted; the third in a row begins loss of frame. -/
def State.fsError (s : State) (p : Nat) : State :=
  let x := s.tdm p
  let s1 := ((s.setTdm p { x with bad := x.bad + 1, good := 0 }).tdmBump p (TDM.FSERR_LO p)).raise (TDM.EVT p) F.TDM_EVT_FSERR
  if x.bad + 1 = 3 ∧ !s.tdmLof p then s1.lofBegin p else s1

/-- A slave port is enabled. -/
def State.slaveRuns (s : State) (p : Nat) : Bool := s.tdmOn p && !s.tdmMaster p

/-- FS_RECEIVED: the first FS after EN fixes frame 0; every other is judged against the window of half a CLK period. -/
def State.fsEdge (s : State) (p : Nat) : State :=
  if !s.slaveRuns p then s
  else
    let x := s.tdm p
    let now := (s.tb2nsOn (p / 24))
    let at_ := now + frameNs + s.tdmOffset p
    match x.lastFs with
    | none => (s.setTdm p { x with
        lastFs := some now, pred := now + frameNs, ready := true, outAt := at_, due := at_ + frameNs
        ref := at_ + frameNs }).put (TDM.STATUS p) F.TDM_STATUS_RUN 1
    | some l =>
      if 16 * s.tdmN p * ((now : Int) - x.pred).natAbs ≤ 125000 then
        let ps := (x.periods ++ [now - l]).drop ((x.periods.length + 1) - 8)
        let s1 := s.setTdm p { x with lastFs := some now, periods := ps, bad := 0, good := x.good + 1 }
        let start := now + s.tdmOffset p
        if s.tdmLof p then
          if 8 ≤ x.good + 1 then
            let s2 := s1.put (TDM.STATUS p) F.TDM_STATUS_LOF 0
            let per := s2.tdmPeriod p
            s2.setTdm p { s2.tdm p with pred := now + per, due := start + per, outAt := start + per }
          else s1.setTdm p { s1.tdm p with pred := now + frameNs }
        else
          let per := s1.tdmPeriod p
          s1.setTdm p { s1.tdm p with
            pred := now + per, outAt := if start + per / 2 < x.outAt then start + per else x.outAt }
      else
        let s1 := s.fsError p
        s1.setTdm p { s1.tdm p with lastFs := some now, pred := now + s.tdmPeriod p }

def execFsReceived (p : Fin 48) (s : State) : Result := .next (s.fsEdge p)

/-- FS_MISSING: the predicted window has closed with no FS. -/
def State.fsGone (s : State) (p : Nat) : State :=
  let x := s.tdm p
  if !s.slaveRuns p || x.lastFs.isNone || decide (16 * s.tdmN p * ((s.tb2nsOn (p / 24)) - x.pred) ≤ 125000) then s
  else
    let s1 := s.fsError p
    s1.setTdm p { s1.tdm p with pred := x.pred + s.tdmPeriod p }

def execFsMissing (p : Fin 48) (s : State) : Result := .next (s.fsGone p)

/-! ## LINE.IN and LINE.OUT (R176, R295) -/

/-- The number of the newest ingress frame of a port tagged at or before an instant. -/
def State.lastFrame (s : State) (p upto : Nat) : Option Nat :=
  let x := s.tdm p
  if !s.tdmOn p || !x.ready then none
  else ((List.range (min x.next (s.tdmFR p))).find? (fun i =>
    decide (s.tagAt (s.ingressTagDpa p (x.next - 1 - i)) ≤ tagNs upto))).map (fun i => x.next - 1 - i)

/-- A frame among the n that end with the newest one at or before an instant is poisoned. -/
def State.linePoisoned (s : State) (p ts upto n : Nat) : Bool :=
  match s.lastFrame p upto with
  | none => false
  | some f => (List.range n).any (fun j => decide (n ≤ f + 1 + j) && s.poisonedIn (s.ingressDpa p (f + 1 + j - n) ts) 1)

/-- The octets of n frames of a timeslot that end with the latest frame tagged at or before an instant, none for one not
received, with the tag of each, which one not received has by the frames after it; nothing where none was received or the port
is not enabled. -/
def State.lineFrames (s : State) (p ts upto n : Nat) : Option (List (Option Byte) × List Nat) :=
  let tag (f : Nat) : Nat := s.tagAt (s.ingressTagDpa p f) + (upto - tagNs upto)
  match s.lastFrame p upto with
    | none => none
    | some f =>
      some ((List.range n).map (fun j =>
          if f + 1 + j < n then none else some (s.byte (s.ingressDpa p (f + 1 + j - n) ts))),
        (List.range n).map (fun j => if f + 1 + j < n then tag 0 - (n - 1 - f - j) * frameNs else tag (f + 1 + j - n)))

/-- The number of the first frame tagged at or after an instant; negative before frame 0. -/
def State.frameAt (s : State) (p at_ : Nat) : Int :=
  let x := s.tdm p
  let per := s.tdmPeriod p
  if at_ ≤ x.outAt then (x.outNext : Int) - (x.outAt - at_ : Nat) / per
  else (x.outNext : Int) + ((at_ - x.outAt + (per - 1)) / per : Nat)

/-- Octets of a timeslot are written to the frames that begin with the first one tagged at or after an instant. -/
def State.lineWrite (s : State) (p ts at_ : Nat) (os : List Byte) : State :=
  if !s.tdmOn p || !(s.tdm p).ready then s
  else
    let f := s.frameAt p at_
    each s os.zipIdx (fun u e =>
      if 0 ≤ f + (e.2 : Int) then u.write (s.egressDpa p (f + (e.2 : Int)).toNat ts) [e.1] else u)

end Sys2Proof.Machine
end

