-- ==== Sys2Proof/Machine/Chains.lean ====
section
/-!
DEFINITION. Chain runs: start, deadline and END (R158 to R162, R175, R177), and the chain instructions that move blocks
or compute on them without a codec or an accelerator (R176 to R181).
-/

namespace Sys2Proof.Machine

/-! ## Start (R160, R162, R175) -/

/-- The chain sequencer of a cluster issues instructions: in RUN and in RECOVER. -/
def State.sequences (s : State) (n : Nat) : Bool := (s.clState n == stRun || s.clState n == stRecover) && !s.dormant

/-- The place in the pending store of the item of a run. -/
def State.runIndex (s : State) (n k : Nat) (chain : Fin 2) : Option Nat :=
  (s.cluster n).pend.findIdx? (fun i => i.typ == 2 && i.run == some (BitVec.ofNat 13 k, chain))

/-- The flow of the slot is free for the item at a place: no earlier item of it is pending, none is on a tile, and no run
of the slot is in progress. -/
def State.flowFree (s : State) (n k i : Nat) : Bool :=
  let flow := BitVec.ofNat 16 k
  !((s.cluster n).pend.take i).any (fun g => g.ord && g.flow == flow) && !s.flowOnTile n flow &&
    (s.slot n k).run0.isNone && (s.slot n k).run1.isNone

/-- An item leaves the pending store for the sequencer. -/
def State.takeItem (s : State) (n i : Nat) : State :=
  (s.setCluster n { s.cluster n with pend := (s.cluster n).pend.eraseIdx i }).bump (WS.DISPATCHED_LO n) (WS.EVT n) F.WS_EVT_WCNT

/-- The instructions of a chain, with their numbers. -/
def State.runWords (s : State) (c : List Byte) (chain : Fin 2) : List (Nat × Nat) :=
  (((s.chainWords (ctxProg c) chain).getD []).zipIdx).map (fun e => (e.2, e.1))

/-- What standing shedding marks in a run as it starts (R162): OPT instructions from level 1, DECs of a PKT termination at
level 2. -/
def State.standing (s : State) (n : Nat) (c : List Byte) (chain : Fin 2) : List Nat × List Nat :=
  let lv := s.rf (WS.STATUS n) F.WS_STATUS_SHED
  let ws := s.runWords c chain
  (if lv = 0 then [] else (ws.filter (fun e => ciOpt e.2)).map (·.1),
   if lv = 2 ∧ ctxKind c = 1 then (ws.filter (fun e => ciOp e.2 == opDec)).map (·.1) else [])

/-- The run's item waits for room in the store (R147). -/
def State.waitIndex (s : State) (n k : Nat) (chain : Fin 2) : Option Nat :=
  (s.cluster n).waiting.findIdx? (fun w => w.1.typ == 2 && w.1.run == some (BitVec.ofNat 13 k, chain))

/-- HSMOD of the receive areas of a chain is taken at the start of each run; a value that is no MOD of the table is none
(R238). -/
def State.takeHsmod (s : State) (c : List Byte) (chain : Fin 2) : State :=
  each s (((s.runWords c chain).filter (fun e => ciOp e.2 == opVdeRx)).map (fun e => ctxArea c (ciSoff e.2))) (fun u a =>
    let m := u.le (a + 8) 4 % 16
    let v := u.vdeAt a
    u.setVde a { v with rx := { v.rx with asked := if 2 ≤ m ∧ m ≤ 10 then m else 0 } })

/-- A run of the context in force begins. -/
def State.beginRun (s : State) (n k : Nat) (chain : Fin 2) (boundary : Nat) : State :=
  let c := s.ctx n k
  let m := s.standing n c chain
  let r : Run := ⟨boundary, c, 0, 0, m.1, m.2, false, false, .none, [], Vector.replicate 8 Block.empty⟩
  let s1 := (s.takeHsmod c chain).setRun n k chain (some r)
  let s2 := each s1 m.1 (fun u _ => u.countShed n k)
  each s2 m.2 (fun u _ => u.countPlc n)

/-- CHAIN_RUN_START: the sequencer takes the run's item. A poisoned context or instruction keeps the run from starting,
which is a missed run (R63, R159). -/
def State.chainStart (s : State) (n k : Nat) (chain : Fin 2) (ecc : Ecc) : State :=
  match s.runIndex n k chain with
  | none => s
  | some i =>
    match (s.cluster n).pend[i]? with
    | none => s
    | some it =>
      if !s.sequences n || !s.flowFree n k i then s
      else
        let prog := ctxProg (s.ctx n k) + 256 * chain.val
        let s1 := (s.takeItem n i).eccAt prog ecc
        let runs := (s.slot n k).st == .live || (s.slot n k).st == .deleting
        if !runs then s1.missSlot n k 0 3
        else if s1.poisonedIn (slotDpa n k) 256 then ((s1.goIdle n k).missSlot n k 0 3)
        else if s1.poisonedIn prog (8 * max 1 (s1.runWords (s1.ctx n k) chain).length) then
          (s1.missSlot n k 0 3).reap n k
        else s1.beginRun n k chain it.boundary

def execChainRunStart (cl : Fin 32) (slot : BitVec 13) (chain : Fin 2) (ecc : Ecc) (s : State) : Result :=
  .next (s.chainStart cl slot.toNat chain ecc)

/-! ## Deadline (R159, R160) -/

/-- An item of the run is on a tile that is halted under debug. -/
def State.runHalted (s : State) (n k : Nat) (chain : Fin 2) : Bool :=
  (List.range 12).any (fun t =>
    s.rb (TILE.STATE n t) F.TILE_STATE_HALTED &&
      (match (s.core n t).running with | some i => i.run == some (BitVec.ofNat 13 k, chain) | none => false))

/-- The run's deadline has come. -/
def State.pastDeadline (s : State) (n boundary p : Nat) : Bool := decide (boundary + 1000 * p ≤ s.tb2usOn (dieOf n))

/-- What was presented to the run is freed at its deadline (R276). -/
def State.closeRun (s : State) (n k : Nat) (chain : Fin 2) (r : Run) : State :=
  if r.wait = .none then s.endRun n k chain
  else (s.setRun n k chain (some { r with missed := true, closed := true, cells := [] })).freeCells r.cells

/-- A run that has not started by its deadline never does: its item leaves the store, or its source. -/
def State.lateStart (s : State) (n k : Nat) (chain : Fin 2) : State :=
  let c := s.cluster n
  let late (it : Item) : Bool := s.pastDeadline n it.boundary (ctxPeriod (s.ctx n k))
  let gone (c' : Cluster) : State := ((s.setCluster n c').missSlot n k 0 4).reap n k
  match s.runIndex n k chain with
  | some i =>
    match c.pend[i]? with
    | none => s
    | some it => if late it then gone { c with pend := c.pend.eraseIdx i } else s
  | none =>
    match s.waitIndex n k chain with
    | none => s
    | some i =>
      match c.waiting[i]? with
      | none => s
      | some w => if late w.1 then gone { c with waiting := c.waiting.eraseIdx i } else s

/-- DEADLINE: a run in progress issues no more; one that has not started never does. A run behind one that is closed has its
own deadline (R160). -/
def State.deadline (s : State) (n k : Nat) (chain : Fin 2) : State :=
  match s.run n k chain with
  | some r =>
    if r.closed then s.lateStart n k chain
    else if !s.pastDeadline n r.boundary (ctxPeriod r.ctx) then s
    else (s.missRun n k chain (if s.runHalted n k chain then 5 else 4)).closeRun n k chain r
  | none => s.lateStart n k chain

def execDeadline (cl : Fin 32) (slot : BitVec 13) (chain : Fin 2) (s : State) : Result :=
  .next (s.deadline cl slot.toNat chain)

/-! ## The frame of an instruction -/

/-- The instruction at the index of a run that is not closed and waits for nothing: it is issued where it is the one the
command names. One that is marked shed passes its input block on (R158). -/
def State.chainOp (s : State) (n k : Nat) (chain : Fin 2) (is : Nat → Bool) (f : State → Run → Nat → State) : State :=
  match s.run n k chain with
  | none => s
  | some r =>
    let w := s.runInstr r chain
    if r.closed || r.wait != .none || !s.sequences n || !is w then s
    else if r.shed.contains r.idx then s.instrDone n k chain (some (r.block (ciBi w)))
    else f s r w

/-- An instruction that is done within its command: its output block, where it has one, and its result code (R181). -/
def State.chainDone (s : State) (n k : Nat) (chain : Fin 2) (is : Nat → Bool)
    (f : State → Run → Nat → State × Option Block × Nat) : State :=
  s.chainOp n k chain is (fun u r w =>
    let o := f u r w
    (if o.2.2 = 0 then o.1 else o.1.kernelError n).instrDone n k chain o.2.1)

/-- The slot and context whose binding an instruction uses, of the kind it needs (R164, R177, R180). -/
def State.binder (s : State) (n k : Nat) (r : Run) (w kind : Nat) : Option (Nat × List Byte) :=
  if !ciS w then (if ctxKind r.ctx = kind then some (k, r.ctx) else none)
  else match s.livePeer n r.ctx with
    | some j => if ctxKind (s.ctx n j) = kind then some (j, s.ctx n j) else none
    | none => none

/-- Samples of a block in a run of p ms. -/
def perBlock (khz p : Nat) : Nat := khz * p

/-! ## Kernel items of the sequencer (R102, R144 to R151, R175) -/

/-- The state of a kernel at its SOFF: where it lies, and how many bytes the sequencer stages. -/
def kernelArea (r : Run) (w : Nat) : Option (Nat × Nat) :=
  let units := if ciOp w = opCall then some (min (1 + Config.callUnits % 48) (ctxStSize r.ctx - ciSoff w)) else stateUnits w
  units.map (fun u => (ctxArea r.ctx (ciSoff w), 256 * u))

/-- The kernel item of an instruction (R102, R145): it stages the input block and the kernel's state. The chain's rate of G5 is
that of the input block, 8 kHz for a MISSING one (DESIGN CHOICE, log 52). -/
def State.kernelItem (s : State) (n k : Nat) (chain : Fin 2) (r : Run) (w : Nat) (typ : BitVec 2) (entry cost : Nat) : Item :=
  let b := r.block (ciBi w)
  let area := kernelArea r w
  { cls := ⟨ctxClass r.ctx % 8, Nat.mod_lt _ (by decide)⟩
    ord := true
    typ := typ
    flow := BitVec.ofNat 16 k
    tid := (s.slot n k).tid
    entry := BitVec.ofNat 32 entry
    cost := BitVec.ofNat 32 cost
    arg0 := BitVec.ofNat 32 w
    arg1 := BitVec.ofNat 32 (bits w 51 32)
    data := 0
    origin := .sequencer
    run := some (BitVec.ofNat 13 k, chain)
    boundary := r.boundary
    regs := [BitVec.ofNat 32 (0x100000 + 256 * k), BitVec.ofNat 32 stageInAt, BitVec.ofNat 32 stageOutAt,
      BitVec.ofNat 32 (perBlock (rateKhz b.rate.val) (ctxPeriod r.ctx)),
      if area.isSome then BitVec.ofNat 32 stageStateAt else 0]
    stage := [(stageInAt, b.bytes)]
    area := area }

/-- The ROM kernel and the declared cost of the instruction at the run's index: those of PLC where it stands in for a DEC
(R158, R177). -/
def State.romEntryCost (s : State) (n : Nat) (r : Run) (chain : Fin 2) (w : Nat) : Nat × Nat :=
  let codec := if ciOp w = opDec ∨ ciOp w = opEnc ∨ ciOp w = opPlc then ciCodec w else 0
  if r.plc.contains r.idx then
    (Config.romOf opPlc codec % 65536, perRun (plcCost codec (ciB w)) (ctxPeriod r.ctx))
  else (Config.romOf (ciOp w) codec % 65536, (s.runCosts n r chain).getD r.idx 0)

/-- An instruction's kernel is posted as a work item, and the run waits for its end. -/
def State.postKernel (s : State) (n k : Nat) (chain : Fin 2) (r : Run) (it : Item) : State :=
  (s.setRun n k chain (some { r with wait := .tile })).release n it none

/-- The item is the next to be dispatched and a tile holds its image: it starts at once (R150 to R152). -/
def State.startAtOnce (s : State) (n k : Nat) (chain : Fin 2) : State :=
  match pickItem (s.readyItems n) with
  | none => s
  | some (_, it) =>
    if it.run != some (BitVec.ofNat 13 k, chain) then s
    else match s.pickTile n it with
      | some (_, false) => s.dispatchOne n
      | some (_, true) => s
      | none => s

/-- The tile that runs the ROM kernel of the run, where it executes. -/
def State.kernelTile (s : State) (n k : Nat) (chain : Fin 2) : Option Nat :=
  (List.range 12).find? (fun t =>
    !s.rb (TILE.STATE n t) F.TILE_STATE_HALTED &&
      (match (s.core n t).running with
        | some it => it.typ == 0 && it.run == some (BitVec.ofNat 13 k, chain)
        | none => false))

/-- What a ROM kernel leaves in its core: its result code in G0, and registers that are open, as its code is (R103, log 5).
`fc` is where the draws begin, `cyc` its cycles. -/
def Core.ranKernel (c : Core) (fc cyc code : Nat) : Core :=
  let w (i : Nat) : Word := Config.freeWord (fc + i)
  { c with
    g := Vector.ofFn (fun i => if i = 0 then BitVec.ofNat 32 code else w i.val)
    acc := Vector.ofFn (fun i => BitVec.ofNat 72 (Config.freeNat (fc + 32 + i.val)))
    p := Vector.ofFn (fun i => w (40 + i.val))
    m := Vector.ofFn (fun i => w (56 + i.val))
    cbase := Vector.ofFn (fun i => w (64 + i.val))
    clen := Vector.ofFn (fun i => w (72 + i.val))
    lc := Vector.ofFn (fun i => w (80 + i.val))
    q := (w 84).setWidth 8 ||| 1
    pc := 0x50000 ||| (w 85 &&& 0xFFFC)
    cyc := BitVec.ofNat 32 cyc }

/-- The counters of a tile that a ROM kernel's run raises by amounts that are open but for its cycles (R104, log 5). -/
def kernelCounters (n t : Nat) : List Nat :=
  [TILE.BUNDLES_LO n t, TILE.STALL_BUS_LO n t, TILE.STALL_OUTSIDE_LO n t, TILE.STALL_LOAD_LO n t, TILE.STALL_FETCH_LO n t,
    TILE.LCACHE_LO n t]

/-- A ROM kernel has run on its tile for a number of cycles that never exceeds its declared cost (R158). -/
def State.ranKernel (s : State) (n t : Nat) (it : Item) (code : Nat) : State :=
  let fc := s.freeCount
  let cyc := Config.freeNat (fc + 90) % (it.cost.toNat + 1)
  let s1 := (s.setCore n t ((s.core n t).ranKernel fc cyc code)).draw 128
  let s2 := (s1.bumpBy (TILE.CYCLES_LO n t) cyc (WS.EVT n) F.WS_EVT_TCNT).bumpBy (TILE.MACS_LO n t)
    (Config.freeNat (fc + 91) % (8 * cyc + 1)) (WS.EVT n) F.WS_EVT_TCNT
  each s2 (kernelCounters n t).zipIdx (fun u e =>
    u.bumpBy e.1 (Config.freeNat (fc + 92 + e.2) % (cyc + 1)) (WS.EVT n) F.WS_EVT_TCNT)

/-- The kernel of the run at a tile ends: a poisoned word among those it loads ends it by a data error (R63), else it has its
effect, returns, and the run goes on (R103, R175, R181). -/
def State.kernelEnds (s : State) (n k t : Nat) (chain : Fin 2) (it : Item) (reads : State → Run → Nat → Bool)
    (f : State → Run → Nat → State × Option Block × Nat) : State :=
  match s.run n k chain with
  | none => s
  | some r =>
    let w := s.runInstr r chain
    let staged := match it.area with | some (_, len) => s.poisonedIn (tileDpa n t stageStateAt) len | none => false
    if staged || reads s r w then
      (s.ranKernel n t it 0).exception n t 5 (Config.freeWord (s.freeCount + 100)).toNat
    else
      let o := f s r w
      let s1 := ((o.1.ranKernel n t it o.2.2).bump (TILE.ITEMS_LO n t) (WS.EVT n) F.WS_EVT_TCNT).endItem n t
      (if o.2.2 = 0 then s1 else s1.kernelError n).instrDone n k chain o.2.1

/-- A command of an instruction that a ROM kernel carries out. Where the run stands at the instruction, its item is posted,
and starts at once where its turn has come and a tile holds its image; where the item waits for DISPATCH or for its image the
run waits with it, and the instruction's next command finds it on its tile. Once on a tile the kernel runs to its end
(log 61). `reads` says that a word it loads outside its staged state is poisoned. -/
def State.romOp (s : State) (n k : Nat) (chain : Fin 2) (op : Nat) (reads : State → Run → Nat → Bool)
    (f : State → Run → Nat → State × Option Block × Nat) : State :=
  let s1 := s.chainOp n k chain (fun w => ciOp w == op) (fun u r w =>
    let e := u.romEntryCost n r chain w
    (u.postKernel n k chain r (u.kernelItem n k chain r w 0 e.1 e.2)).startAtOnce n k chain)
  match s1.run n k chain, s1.kernelTile n k chain with
  | some r, some t =>
    match (s1.core n t).running with
    | some it => if r.wait == .tile && ciOp (s1.runInstr r chain) == op then s1.kernelEnds n k t chain it reads f else s1
    | none => s1
  | some _, none => s1
  | none, _ => s1

/-- No word that a kernel loads is poisoned, beside its staged state. -/
def cleanReads (_ : State) (_ : Run) (_ : Nat) : Bool := false

/-- A word of the context whose binding the instruction uses is poisoned (R63, R180). -/
def bindingPoisoned (n k kind : Nat) (s : State) (r : Run) (w : Nat) : Bool :=
  match s.binder n k r w kind with
  | some (j, _) => ciS w && s.poisonedIn (slotDpa n j) 256
  | none => false

/-- The peer is not LIVE: BO := BI, and a kernel error (R180). -/
def peerGone (s : State) (r : Run) (w : Nat) : State × Option Block × Nat := (s, some (r.block (ciBi w)), 1)

/-- A block of samples. -/
def pcmBlock (khz tag : Nat) (xs : List (BitVec 16)) : Block :=
  { Block.empty with rate := khzCode khz, samples := xs, missing := false, tag := tag }

/-! ## LINE.IN and LINE.OUT (R174, R176, R295) -/

def lineIn (n k : Nat) (s : State) (r : Run) (w : Nat) : State × Option Block × Nat :=
  match s.binder n k r w 0 with
  | none => peerGone s r w
  | some (_, c) =>
    match s.lineFrames (ctxPort c) (ctxTslot c) (r.boundary * 1000 - 2000) (8 * ctxPeriod r.ctx) with
    | none => (s, some Block.empty, 0)
    | some (os, tags) =>
      let b := pcmBlock 8 (tags.getD 0 0) (os.map (fun o => match o with | some b => lawExpand (ctxLaw c) b | none => 0))
      (s, some { b with tags := tags }, 0)

/-- A frame that LINE.IN loads from the channel buffer is poisoned, or the peer's context is. -/
def lineReads (n k : Nat) (s : State) (r : Run) (w : Nat) : Bool :=
  bindingPoisoned n k 0 s r w ||
    (match s.binder n k r w 0 with
      | some (_, c) => s.linePoisoned (ctxPort c) (ctxTslot c) (r.boundary * 1000 - 2000) (8 * ctxPeriod r.ctx)
      | none => false)

def execLineIn (cl : Fin 32) (slot : BitVec 13) (chain : Fin 2) (s : State) : Result :=
  .next (s.romOp cl slot.toNat chain opLineIn (lineReads cl slot.toNat) (lineIn cl slot.toNat))

def lineOut (n k : Nat) (s : State) (r : Run) (w : Nat) : State × Option Block × Nat :=
  match s.binder n k r w 0 with
  | none => peerGone s r w
  | some (_, c) =>
    let b := r.block (ciBi w)
    if b.missing then (s, none, 0)
    else
      (s.lineWrite (ctxPort c) (ctxTslot c) ((r.boundary + ctxOutLead c) * 1000)
        ((b.samples.take (8 * ctxPeriod r.ctx)).map (lawCompress (ctxLaw c))), none, 0)

def execLineOut (cl : Fin 32) (slot : BitVec 13) (chain : Fin 2) (s : State) : Result :=
  .next (s.romOp cl slot.toNat chain opLineOut (bindingPoisoned cl slot.toNat 0) (lineOut cl slot.toNat))

/-! ## GAIN, VAD, CNG and METER (R177) -/

/-- A sample times a gain of Q3.12, saturated to Q15; which way an inexact product rounds is open (log 8). -/
def scaled (g v : Int) : BitVec 16 :=
  let q := v * g
  let up := if q % 4096 = 0 then 0 else b2n (Config.gainRounds (q % 4096).toNat)
  BitVec.ofNat 16 (ofSigned 16 (clampInt (-32768) 32767 (q / 4096 + (up : Int))))

def gainOf (w : Nat) : Int := toSigned 16 (ciB w)

def gain (s : State) (r : Run) (w : Nat) : State × Option Block × Nat :=
  let b := r.block (ciBi w)
  (s, some { b with samples := b.samples.map (fun x => scaled (gainOf w) x.toInt) }, 0)

def execGain (cl : Fin 32) (slot : BitVec 13) (chain : Fin 2) (s : State) : Result :=
  .next (s.romOp cl slot.toNat chain opGain cleanReads gain)

/-- What a kernel at a state area remembers. -/
def State.kernelAt (s : State) (a : Nat) : Nat :=
  match s.area a with
  | .kernel m => m
  | _ => 0

/-- VAD: NOISE where a block holds no speech. -/
def vad (s : State) (r : Run) (w : Nat) : State × Option Block × Nat :=
  let b := r.block (ciBi w)
  let a := ctxArea r.ctx (ciSoff w)
  let m := s.kernelAt a
  if b.missing then (s, some b, 0)
  else (s.setArea a (.kernel (Config.remember m b.samples)), some { b with noise := b.noise || !Config.speech m b.samples }, 0)

def execVad (cl : Fin 32) (slot : BitVec 13) (chain : Fin 2) (s : State) : Result :=
  .next (s.romOp cl slot.toNat chain opVad cleanReads vad)

/-- CNG: comfort noise where the block is NOISE or SID, after the codec that the instruction names. -/
def cng (s : State) (r : Run) (w : Nat) : State × Option Block × Nat :=
  let b := r.block (ciBi w)
  let a := ctxArea r.ctx (ciSoff w)
  let m := Config.background (s.kernelAt a) b.samples
  let k := if b.samples.isEmpty then perBlock (rateKhz b.rate.val) (ctxPeriod r.ctx) else b.samples.length
  (s.setArea a (.kernel m),
    some (if b.noise || b.sid then
      { b with samples := (List.range k).map (Config.comfort m (ciCodec w) r.boundary), frames := [], missing := false }
    else b), 0)

def execCng (cl : Fin 32) (slot : BitVec 13) (chain : Fin 2) (s : State) : Result :=
  .next (s.romOp cl slot.toNat chain opCng cleanReads cng)

/-- METER: the block is measured for the interval's levels; RFACT is computed with the metrics (R360). -/
def meter (n k : Nat) (s : State) (r : Run) (w : Nat) : State × Option Block × Nat :=
  let b := r.block (ciBi w)
  (s.setSlot n k { s.slot n k with metered := Config.remember (s.slot n k).metered b.samples }, some b, 0)

def execMeter (cl : Fin 32) (slot : BitVec 13) (chain : Fin 2) (s : State) : Result :=
  .next (s.romOp cl slot.toNat chain opMeter cleanReads (meter cl slot.toNat))

/-! ## Handoff buffers and mixers (R179, R180) -/

def State.inputsAt (s : State) (a : Nat) : List (List Tagged) :=
  match s.area a with
  | .buffers l => l
  | _ => List.replicate 8 []

/-- A block is written in place of the older of the two that an input holds, and published. -/
def State.putBlock (s : State) (a i tag : Nat) (b : Block) : State :=
  let l := s.inputsAt a
  let q := l.getD i [] ++ [⟨tag, b, []⟩]
  s.setArea a (.buffers (l.set i (q.drop (q.length - 2))))

/-- The newest complete block of an input tagged earlier than a boundary that the reader has not taken; it has now. -/
def State.takeBlock (s : State) (a i reader boundary : Nat) : State × Option Block :=
  let l := s.inputsAt a
  let q := l.getD i []
  let fits (e : Tagged) : Bool := decide (e.tag < boundary) && !e.taken.contains reader
  match (q.filter fits).getLast? with
  | none => (s, none)
  | some e =>
    (s.setArea a (.buffers (l.set i (q.map (fun x => if x.tag = e.tag then { x with taken := ins1 x.taken reader } else x)))),
      some e.block)

/-- A LIVE peer of kind VIRT: the area of its mixer. -/
def State.mixerOf (s : State) (n : Nat) (r : Run) : Option Nat :=
  match s.livePeer n r.ctx with
  | some j => if ctxKind (s.ctx n j) = 2 then some (ctxArea (s.ctx n j) 0) else none
  | none => none

/-- The rate of a mixer's sum in kHz: of the block that a FORK of the same run copied, else 8. -/
def State.mixKhz (s : State) (r : Run) (chain : Fin 2) : Nat :=
  match ((s.runWords r.ctx chain).take r.idx).find? (fun e => ciOp e.2 == opFork && bits e.2 45 44 == 0) with
  | some e => rateKhz (r.block (ciBi e.2)).rate.val
  | none => 8

/-- MIX: a gain times the sum of the inputs other than the own; MISSING ones are silence. -/
def mix (n k : Nat) (chain : Fin 2) (s : State) (r : Run) (w : Nat) : State × Option Block × Nat :=
  match s.mixerOf n r with
  | none => peerGone s r w
  | some a =>
    let khz := s.mixKhz r chain
    let m := perBlock khz (ctxPeriod r.ctx)
    let t := (s.slot n k).tid.toNat
    let o := (List.range 8).foldl (fun (x : State × List Int) i =>
      if i = bits w 45 43 then x
      else
        let g := x.1.takeBlock a i t r.boundary
        match g.2 with
        | some b => (g.1, x.2.zipIdx.map (fun e => e.1 + (b.samples.getD e.2 0).toInt))
        | none => (g.1, x.2)) (s, List.replicate m 0)
    (o.1, some (pcmBlock khz (r.boundary * 1000) (o.2.map (scaled (gainOf w)))), 0)

def execMix (cl : Fin 32) (slot : BitVec 13) (chain : Fin 2) (s : State) : Result :=
  .next (s.romOp cl slot.toNat chain opMix cleanReads (mix cl slot.toNat chain))

/-- A block as cask packets of 64 words (log 28). -/
def packetsOf : Nat → List CWord → List (List CWord)
  | 0, _ => []
  | k + 1, l => if l.isEmpty then [] else l.take 64 :: packetsOf k (l.drop 64)

def seqProducer (n : Nat) : Producer := .accel ⟨n % 32, Nat.mod_lt _ (by decide)⟩ 4

/-- FORK: the block goes to a mixer input of the peer, or to a cask. -/
def fork (n : Nat) (s : State) (r : Run) (w : Nat) : State × Option Block × Nat :=
  let b := r.block (ciBi w)
  if bits w 45 44 = 0 then
    match s.mixerOf n r with
    | none => peerGone s r w
    | some a => (s.putBlock a (bits w 43 41) r.boundary b, some b, 0)
  else
    (each s (packetsOf 16 (dataWords b.bytes)) (fun u p => (u.postPacket (ciB w % 16384) (seqProducer n) p).1), some b, 0)

def execFork (cl : Fin 32) (slot : BitVec 13) (chain : Fin 2) (s : State) : Result :=
  .next (s.chainDone cl slot.toNat chain (fun w => ciOp w == opFork) (fork cl))

/-- HANDOFF send: the block goes to the buffer at SOFF of the peer's region, wherever the peer is homed; with no peer
within reach it is dropped (log 28). -/
def handoffSend (n : Nat) (s : State) (r : Run) (w : Nat) : State × Option Block × Nat :=
  match s.homeCtx (ctxPeer r.ctx) with
  | some (m, _, c) =>
    if s.divided && dieOf m != dieOf n then (s, none, 0)
    else (s.putBlock (ctxArea c (ciSoff w)) 0 r.boundary (r.block (ciBi w)), none, 0)
  | none => (s, none, 0)

def execHandoffSend (cl : Fin 32) (slot : BitVec 13) (chain : Fin 2) (s : State) : Result :=
  .next (s.chainDone cl slot.toNat chain (fun w => ciOp w == opHandoff && !bit w 45) (handoffSend cl))

/-- A block cut or padded with MISSING samples to p ms (R179). -/
def Block.fit (b : Block) (p : Nat) : Block :=
  if b.missing || b.samples.isEmpty then b
  else
    let m := perBlock (rateKhz b.rate.val) p
    { b with samples := b.samples.take m ++ List.replicate (m - b.samples.length) 0 }

/-- HANDOFF receive: the newest block of the own buffer not yet taken, or a MISSING one. -/
def handoffReceive (n k : Nat) (s : State) (r : Run) (w : Nat) : State × Option Block × Nat :=
  let o := s.takeBlock (ctxArea r.ctx (ciSoff w)) 0 (s.slot n k).tid.toNat r.boundary
  let b := (o.2.getD Block.empty).fit (ctxPeriod r.ctx)
  (o.1, some { b with tag := if b.missing then 0 else r.boundary * 1000, tags := [] }, 0)

def execHandoffReceive (cl : Fin 32) (slot : BitVec 13) (chain : Fin 2) (s : State) : Result :=
  .next (s.chainDone cl slot.toNat chain (fun w => ciOp w == opHandoff && bit w 45) (handoffReceive cl slot.toNat))

/-! ## CALL and END (R102, R177, R193) -/

/-- The kernel item of a CALL: its image is that of UKIMG (R193); its G5 is kernelItem's (DESIGN CHOICE, log 52). -/
def State.callItem (s : State) (n k : Nat) (chain : Fin 2) (r : Run) (w : Nat) : Item :=
  s.kernelItem n k chain r w 1 (s.rv (CTX.UKIMG n (ciMode w))) (s.rf (CTX.UKCTL n (ciMode w)) F.CTX_UKCTL_COST)

/-- CALL: the item is released to the pending store and the run waits for its end. -/
def State.callKernel (s : State) (n k : Nat) (chain : Fin 2) : State :=
  s.chainOp n k chain (fun w => ciOp w == opCall) (fun u r w =>
    u.postKernel n k chain r (u.callItem n k chain r w))

def execCall (cl : Fin 32) (slot : BitVec 13) (chain : Fin 2) (s : State) : Result :=
  .next (s.callKernel cl slot.toNat chain)

/-- END: the run is over on time. -/
def State.runEnd (s : State) (n k : Nat) (chain : Fin 2) : State :=
  match s.run n k chain with
  | none => s
  | some r =>
    if r.closed || r.wait != .none || !s.sequences n || ciOp (s.runInstr r chain) != opEnd then s
    else s.endRun n k chain

def execEndRun (cl : Fin 32) (slot : BitVec 13) (chain : Fin 2) (s : State) : Result :=
  .next (s.runEnd cl slot.toNat chain)

end Sys2Proof.Machine
end

