-- ==== Sys2Proof/Machine/Modem.lean ====
section
/-!
DEFINITION. What the voiceband data engine's lines are made of: the modulations of R230, HDLC framing with the FCS-16 of T.30
(R236, R238), the samples of a carrier (R236, R237), and the UDPTL packets of T.38 (R240).
-/

namespace Sys2Proof.Machine

/-! ## Modulations (R230) -/

/-- Bit rate of a modulation. -/
def modRate (m : Nat) : Nat := ([0, 300, 2400, 4800, 4800, 7200, 9600, 7200, 9600, 12000, 14400] : List Nat).getD m 300

/-- Qualifier length in ns. -/
def modQual (m : Nat) : Nat :=
  if m = 1 then 80000000 else if m = 15 then 100000000 else if m = 2 then 26666667 else if m ≤ 6 then 20000000 else 26666667

/-- AFC range in 0.1 Hz. -/
def modAfc (m : Nat) : Nat := if m = 1 ∨ m = 15 then 200 else 100

/-- A modulation that the engine sends. -/
def modSends (m : Nat) : Bool := decide (1 ≤ m) && decide (m ≤ 10)

/-- Carrier of a modulation in Hz, where it has one. -/
def modCarrier (m : Nat) : Nat := if 4 ≤ m ∧ m ≤ 6 then 1700 else 1800

/-- Roll-off of a modulation's pulse, in percent (R237). -/
def modRoll (m : Nat) : Nat := if m ≤ 3 then 50 else 25

/-- V.21 channel 2: 1,650 Hz is a one, 1,850 Hz a zero. -/
def fskHz (b : Bool) : Nat := if b then 1650 else 1850

/-! ## HDLC (R236, R238) -/

/-- The check of T.30 over one more bit, the least significant bit of an octet first. -/
def fcsBit (c : Nat) (b : Bool) : Nat := if bit c 0 == b then c / 2 else (c / 2) ^^^ 0x8408

def fcsStart : Nat := 0xFFFF

/-- What the check leaves over a frame with its FCS, where both are right. -/
def fcsGood : Nat := 0xF0B8

/-- The bits of an octet, the least significant first. -/
def octetBits (o : Nat) : List Bool := (List.range 8).map (fun i => bit o i)

/-- The octet of eight bits, the least significant first. -/
def bitsOctet (l : List Bool) : Nat := l.foldr (fun b v => b2n b + 2 * v) 0

def flagBits : List Bool := octetBits 0x7E

/-- After a flag. -/
def HdlcIn.start : HdlcIn := ⟨[], 0, true, 0, [], fcsStart⟩

/-- What an HDLC line brings. -/
inductive HdlcEvent where
  | byte (b : Byte)
  | first
  | ends (bad : Bool)
  deriving DecidableEq, Repr

/-- An octet of an open frame: the octet before the last two is known to be data. -/
def HdlcIn.octet (h : HdlcIn) (o : Nat) : HdlcIn × List HdlcEvent :=
  let hold := h.hold ++ [BitVec.ofNat 8 o]
  let crc := (octetBits o).foldl fcsBit h.crc
  let new : List HdlcEvent := if h.octets = 0 then [.first] else []
  match hold with
  | [a, b, c] => ({ h with bits := [], octets := h.octets + 1, hold := [b, c], crc := crc }, new ++ [.byte a])
  | _ => ({ h with bits := [], octets := h.octets + 1, hold := hold, crc := crc }, new)

/-- A frame is open that has brought an octet. -/
def HdlcIn.busy (h : HdlcIn) : Bool := h.opened && h.octets != 0

/-- A data bit of an open frame. -/
def HdlcIn.dataBit (h : HdlcIn) (b : Bool) : HdlcIn × List HdlcEvent :=
  let l := h.bits ++ [b]
  if l.length = 8 then h.octet (bitsOctet l) else ({ h with bits := l }, [])

/-- A flag: it closes a frame that has brought octets, and opens the next. Its leading zero and five ones stand in the bits. -/
def HdlcIn.flag (h : HdlcIn) : HdlcIn × List HdlcEvent :=
  (HdlcIn.start,
    if h.busy then [.ends (h.bits.length != 6 || decide (h.octets < 2) || h.crc != fcsGood)] else [])

/-- A bit of the line: zeros inserted are removed; seven ones abort a frame (R238, log 64). -/
def HdlcIn.bit (h : HdlcIn) (b : Bool) : HdlcIn × List HdlcEvent :=
  if b then
    if h.ones = 6 then ({ HdlcIn.init with ones := 7 }, if h.busy then [.ends true] else [])
    else
      let h1 := { h with ones := min 7 (h.ones + 1) }
      if h.opened && decide (h.ones < 5) then h1.dataBit true else (h1, [])
  else if h.ones = 6 then h.flag
  else
    let h1 := { h with ones := 0 }
    if h.opened && h.ones != 5 then h1.dataBit false else (h1, [])

/-- A bit of data that is not framed: octets in line order. -/
def HdlcIn.plainBit (h : HdlcIn) (b : Bool) : HdlcIn × List HdlcEvent :=
  let l := h.bits ++ [b]
  if l.length = 8 then ({ h with bits := [] }, [.byte (BitVec.ofNat 8 (bitsOctet l))]) else ({ h with bits := l }, [])

/-! ## A carrier (R236, R237) -/

/-- Bits join those that wait. -/
def VdeTx.push (t : VdeTx) (l : List Bool) : VdeTx := { t with queue := t.queue ++ l }

/-- A bit of a frame: a zero goes in after five ones. -/
def VdeTx.stuff (t : VdeTx) (b : Bool) : VdeTx :=
  if b && t.ones == 4 then { t.push [true, false] with ones := 0 }
  else { t.push [b] with ones := if b then t.ones + 1 else 0 }

/-- The bytes of a DATA record. A frame is opened with a flag where none is open. -/
def VdeTx.data (t : VdeTx) (hdlc : Bool) (bs : List Byte) : VdeTx :=
  let l := bs.flatMap (fun b => octetBits b.toNat)
  if hdlc then
    let t1 := if t.frame then t else { t.push flagBits with frame := true, ones := 0, crc := fcsStart }
    let t2 := l.foldl (fun u b => u.stuff b) t1
    { t2 with crc := l.foldl fcsBit t1.crc, hdlc := true, under := 0 }
  else { t.push l with hdlc := false, under := 0 }

/-- FRAMEEND: the FCS and a flag. -/
def VdeTx.closeFrame (t : VdeTx) : VdeTx :=
  let fcs := t.crc ^^^ 0xFFFF
  let t1 := (octetBits (fcs % 256) ++ octetBits (fcs / 256)).foldl (fun u b => u.stuff b) t
  { t1.push flagBits with frame := false, ones := 0, under := 0 }

/-- The sample at which a bit begins. -/
def VdeTx.bitAt (t : VdeTx) (k : Nat) : Nat := Config.training t.mod t.short + (8000 * k + modRate t.mod - 1) / modRate t.mod

/-- Bits that have begun before a sample. -/
def VdeTx.bitsBy (t : VdeTx) (q : Nat) : Nat :=
  let d := Config.training t.mod t.short
  if q ≤ d then 0 else ((q - d) * modRate t.mod + 7999) / 8000

/-- The carrier ends as STOP ends it: what waits is sent, then the turn-off sequence. -/
def VdeTx.stop (t : VdeTx) : VdeTx :=
  if t.mod = 0 ∨ t.ends.isSome then t
  else
    let t1 := { t.push (Config.turnOff t.mod) with frame := false, under := 0 }
    { t1 with ends := some (t1.bitAt (t1.sent + t1.queue.length)) }

/-- The carrier of a modulation starts. -/
def VdeTx.start (m : Nat) (short : Bool) : VdeTx := { VdeTx.init with mod := m, short := short }

/-- The frequency of an FSK carrier at a sample: a one before and after its bits. -/
def VdeTx.hz (t : VdeTx) (q : Nat) : Nat :=
  let d := Config.training t.mod t.short
  if q < d then fskHz true else fskHz (t.queue.getD ((q - d) * modRate t.mod / 8000 - t.sent) true)

/-- The phase of the carrier at a sample of the run. -/
def VdeTx.phaseAt (t : VdeTx) : Nat → Nat
  | 0 => t.phase
  | i + 1 => (t.phaseAt i + (if t.mod = 1 then t.hz (t.pos + i) else modCarrier t.mod)) % 8000

/-- A sample of the run: none before the carrier's start or 2 ms after its end, with its ramps of 2 ms (R237). -/
def VdeTx.sample (t : VdeTx) (level : Int) (i : Nat) : BitVec 16 :=
  let q := t.pos + i
  let left := match t.ends with | some e => e + 16 - q | none => 32768
  if t.mod = 0 ∨ left = 0 then 0
  else
    let v := if t.mod = 1 then Config.wave (t.phaseAt i) level
      else Config.shaped (t.mod, t.short, modRoll t.mod) level t.past t.queue (t.phaseAt i, q)
    BitVec.ofNat 16 (ofSigned 16 (clampInt (-32768) 32767 (ramped 16 v q (left - 1))))

/-- A run of m samples has been sent. -/
def VdeTx.advance (t : VdeTx) (m : Nat) : VdeTx :=
  if t.mod = 0 then t
  else
    let q := t.pos + m
    let over_ := match t.ends with | some e => decide (e + 16 ≤ q) | none => false
    if over_ then VdeTx.init
    else
      let k := min t.queue.length (t.bitsBy q - t.sent)
      { t with
        pos := q, sent := t.sent + k, past := Config.sentBits t.past (t.queue.take k), phase := t.phaseAt m
        queue := t.queue.drop k }

/-! ## UDPTL (R240): ITU-T T.38 -/

/-- Octets with their length before them. -/
def openType (bs : List Byte) : List Byte :=
  (if bs.length < 128 then [BitVec.ofNat 8 bs.length] else beBytes 2 (0x8000 + bs.length % 0x4000)) ++ bs

/-- Octets taken by their length from a list, and the rest. -/
def takeOpen (l : List Byte) : Option (List Byte × List Byte) :=
  match l with
  | [] => none
  | a :: t =>
    if a.toNat < 128 then (if t.length < a.toNat then none else some (t.take a.toNat, t.drop a.toNat))
    else
      let n := a.toNat % 64 * 256 + beAt t 0 1
      if t.length < n + 1 then none else some (slice t 1 n, t.drop (n + 1))

/-- A packet: its number, the primary IFP and the redundant ones, the newest first. -/
def udptl (seq : Nat) (ifp : List Byte) (past : List (List Byte)) : List Byte :=
  beBytes 2 (seq % 65536) ++ openType ifp ++ [0, BitVec.ofNat 8 past.length] ++ past.flatMap openType

/-- Redundant IFPs of a packet, as many as it names. -/
def takeOpens : Nat → List Byte → List (List Byte)
  | 0, _ => []
  | n + 1, l => match takeOpen l with
    | some (a, r) => a :: takeOpens n r
    | none => []

/-- The primary IFP and the redundant IFPs of a packet; one with parity FEC brings its primary alone. -/
def udptlIfps (bs : List Byte) : Option (List Byte × List (List Byte)) :=
  match takeOpen (bs.drop 2) with
  | none => none
  | some (a, r) => some (a, if bit (beAt r 0 1) 7 then [] else takeOpens (beAt r 1 1) (r.drop 2))

/-! ## T.30 (R240) -/

/-- MOD that a DCS frame selects, by bits 11 to 14 of its information field. -/
def dcsMod (f : List Byte) : Option Nat :=
  if f.length < 5 ∨ (f.getD 2 0).toNat / 2 * 2 ≠ 0x82 then none
  else
    let v := (f.getD 4 0).toNat / 4 % 16
    ([(0, 2), (2, 3), (1, 6), (3, 5), (8, 10), (10, 9), (9, 8), (11, 7)].find? (fun e : Nat × Nat => e.1 == v)).map (·.2)

end Sys2Proof.Machine
end

