-- ==== Sys2Proof/Machine/Codecs.lean ====
section
/-!
DEFINITION. The codec library (R243 to R257): frame records, payload formats, and DEC, ENC and PLC. G.711 and L16 are
computed; the samples and coded bits of the other codecs are those of their standards, functions of their state and input that
are open here (log 8), with the frame sizes that the standards give (log 29).
-/

namespace Sys2Proof.Machine

/-! ## Frame records (R248) -/

/-- A frame record: its header and data, padded to whole words. -/
def mkRec (ft : Nat) (bad sid nodata : Bool) (nbits : Nat) (data : List Byte) : List Byte :=
  leBytes 4 (ft % 256 + b2n bad * 256 + b2n sid * 512 + b2n nodata * 1024 + nbits % 65536 * 65536) ++ data ++
    List.replicate ((4 - data.length % 4) % 4) 0

def recFt (r : List Byte) : Nat := leAt r 0 1
def recBad (r : List Byte) : Bool := bit (leAt r 0 4) 8
def recSid (r : List Byte) : Bool := bit (leAt r 0 4) 9
def recNodata (r : List Byte) : Bool := bit (leAt r 0 4) 10
def recBits (r : List Byte) : Nat := leAt r 2 2
def recData (r : List Byte) : List Byte := slice r 4 ((recBits r + 7) / 8)

/-- A damaged frame of no known content. -/
def badRec : List Byte := mkRec 0 true false false 0 []

/-! ## Frame sizes (log 29) -/

/-- Coded bits of an AMR or AMR-WB frame type, and the type of its SID. -/
def amrBits (codec : Nat) : List Nat :=
  if codec = 6 then [95, 103, 118, 134, 148, 159, 204, 244, 39]
  else [132, 177, 253, 285, 317, 365, 397, 461, 477, 40]

def amrSid (codec : Nat) : Nat := if codec = 6 then 8 else 9

/-- Coded bits of an EVS primary frame type; 12 is SID. -/
def evsBits : List Nat := [56, 144, 160, 192, 264, 328, 488, 640, 960, 1280, 1920, 2560, 48]

/-- µs of one frame of an Opus packet, from its TOC (RFC 6716). -/
def opusFrameUs (toc : Nat) : Nat :=
  let c := toc / 8
  if c < 12 then ([10000, 20000, 40000, 60000] : List Nat).getD (c % 4) 0
  else if c < 16 then ([10000, 20000] : List Nat).getD (c % 2) 0
  else ([2500, 5000, 10000, 20000] : List Nat).getD (c % 4) 0

/-- µs of an Opus packet, from its TOC and count bytes (RFC 6716). -/
def opusUs (d : List Byte) : Nat :=
  let toc := (d.getD 0 0).toNat
  opusFrameUs toc * (if toc % 4 = 0 then 1 else if toc % 4 = 3 then (d.getD 1 0).toNat % 64 else 2)

/-- The length of a frame in an Opus packet, and what follows it. -/
def opusLen (l : List Byte) : Option (Nat × List Byte) :=
  match l with
  | [] => none
  | a :: t =>
    if a.toNat < 252 then some (a.toNat, t)
    else match t with
      | [] => none
      | b :: u => some (a.toNat + 4 * b.toNat, u)

/-- The octets of padding of an Opus packet of code 3, and what follows their count. -/
def opusPad (l : List Byte) : Nat → Option (Nat × List Byte)
  | 0 => none
  | k + 1 => match l with
    | [] => none
    | a :: t => if a.toNat = 255 then (opusPad t k).map (fun e => (e.1 + 254, e.2)) else some (a.toNat, t)

/-- Frames of one length. -/
def chunks (n : Nat) : Nat → List Byte → List (List Byte)
  | 0, _ => []
  | k + 1, l => l.take n :: chunks n k (l.drop n)

/-- Frames whose lengths stand before them: the lengths of all but the last. -/
def opusLens : Nat → List Byte → Option (List Nat × List Byte)
  | 0, l => some ([], l)
  | k + 1, l => (opusLen l).bind (fun e => (opusLens k e.2).map (fun f => (e.1 :: f.1, f.2)))

/-- Frames cut by their lengths; the last is what remains. -/
def opusCut (ns : List Nat) (l : List Byte) : Option (List (List Byte)) :=
  match ns with
  | [] => some [l]
  | n :: t => if l.length < n then none else (opusCut t (l.drop n)).map (fun r => l.take n :: r)

/-- The frames of an Opus packet (RFC 6716). -/
def opusFrames (d : List Byte) : Option (List (List Byte)) :=
  match d with
  | [] => none
  | toc :: t =>
    if toc.toNat % 4 = 0 then some [t]
    else if toc.toNat % 4 = 1 then (if t.length % 2 = 0 then some (chunks (t.length / 2) 2 t) else none)
    else if toc.toNat % 4 = 2 then (opusLens 1 t).bind (fun e => opusCut e.1 e.2)
    else match t with
      | [] => none
      | c :: u =>
        let m := c.toNat % 64
        (if bit c.toNat 6 then opusPad u u.length else some (0, u)).bind (fun e =>
          if m = 0 ∨ e.2.length < e.1 then none
          else
            let body := e.2.take (e.2.length - e.1)
            if bit c.toNat 7 then (opusLens (m - 1) body).bind (fun f => opusCut f.1 f.2)
            else if body.length % m = 0 then some (chunks (body.length / m) m body) else none)

/-- Duration of a frame record in µs. G.726 is taken at the rate of its frame type (log 29); an Opus record without data has
its TOC as frame type. -/
def recUs (codec khz : Nat) (r : List Byte) : Nat :=
  match codec with
  | 0x01 => recBits r / 8 * 125
  | 0x02 => recBits r / 8 * 125
  | 0x03 => recBits r / 8 * 125
  | 0x04 => recBits r / (2 + recFt r % 4) * 125
  | 0x05 => 10000
  | 0x08 => opusUs (if recBits r = 0 then [BitVec.ofNat 8 (recFt r), 3] else recData r)
  | 0x0A => recBits r / 16 * 1000 / khz
  | _ => 20000

/-- The RTP clock of a codec in kHz. -/
def rtpKhz (codec khz : Nat) : Nat :=
  match codec with
  | 0x07 => 16
  | 0x08 => 48
  | 0x09 => 16
  | 0x0A => khz
  | _ => 8

/-! ## Payloads to records (R281) -/

/-- Bits of bytes, most significant first. -/
def msbBits (bs : List Byte) : List Bool := bs.flatMap (fun b => (List.range 8).map (fun i => bit b.toNat (7 - i)))

def bitsNat (l : List Bool) : Nat := l.foldl (fun a b => 2 * a + b2n b) 0

/-- Bytes of bits, most significant first, the last filled with zeros. -/
def bitsBytes (l : List Bool) : List Byte :=
  (List.range ((l.length + 7) / 8)).map (fun i => BitVec.ofNat 8 (bitsNat (((l.drop (8 * i)).take 8 ++ List.replicate 8 false).take 8)))

/-- Bits cut or filled with zeros to a number. -/
def fitBits (n : Nat) (bs : List Byte) : List Byte := bitsBytes ((msbBits bs ++ List.replicate n false).take n)

/-- A list cut or filled with zeros to a length. -/
def fitTo {w : Nat} (n : Nat) (l : List (BitVec w)) : List (BitVec w) := (l ++ List.replicate n 0).take n

/-- Bits in groups of a width, each reversed. -/
def mirror (wd : Nat) : Nat → List Bool → List Bool
  | 0, _ => []
  | k + 1, l => if l.isEmpty then [] else (l.take wd).reverse ++ mirror wd k (l.drop wd)

/-- G.726 code words, the most significant bit first as AAL2 packs them, packed as RFC 3551 says: each word and each octet from
its least significant bit. -/
def g726Pack (wd : Nat) (bs : List Byte) : List Byte :=
  let l := mirror wd (8 * bs.length) (msbBits bs)
  bitsBytes (mirror 8 (8 * bs.length) l)

/-- The code words of RFC 3551 packing as AAL2 packs them. -/
def g726Unpack (wd : Nat) (bs : List Byte) : List Byte :=
  let l := mirror 8 (8 * bs.length) (msbBits bs)
  bitsBytes (mirror wd (8 * bs.length) l)

/-- The table of contents of an AMR payload from a bit position: the entries (FT, Q) and the position after, none where it
runs past the end. -/
def amrToc (step : Nat) (l : List Bool) : Nat → Nat → List (Nat × Bool) → Option (List (Nat × Bool) × Nat)
  | 0, _, _ => none
  | k + 1, pos, acc =>
    if l.length < pos + 6 then none
    else
      let e := bitsNat ((l.drop pos).take 6)
      let acc' := acc ++ [(e / 2 % 16, bit e 0)]
      if bit e 5 then amrToc step l k (pos + step) acc' else some (acc', pos + step)

/-- An AMR payload: the mode request and its records, none where it cannot be parsed. -/
def amrParse (codec : Nat) (be : Bool) (d : List Byte) : Option (Nat × List (List Byte)) :=
  let l := msbBits d
  let t := amrBits codec
  match amrToc (if be then 6 else 8) l 64 (if be then 4 else 8) [] with
  | none => none
  | some (toc, pos) =>
    if toc.any (fun e => decide (t.length ≤ e.1) && decide (e.1 < 15) && !(codec == 7 && e.1 == 14)) then none
    else
      let r := toc.foldl (fun (a : Nat × List (List Byte)) e =>
        let n := t.getD e.1 0
        let x := (l.drop a.1).take n
        (a.1 + (if be then n else (n + 7) / 8 * 8),
          a.2 ++ [mkRec e.1 (!e.2 || (codec == 7 && e.1 == 14)) (e.1 == amrSid codec) (e.1 == 15) n (bitsBytes x)])) (pos, [])
      if (r.1 + 7) / 8 = d.length then some (bitsNat (l.take 4), r.2) else none

/-- AMR-WB modes that the 3-bit request of the compact EVS format names; 7 is none (log 29). -/
def evsIoModes : List Nat := [0, 1, 2, 4, 5, 7, 8]

/-- An EVS payload of one frame in the compact format, or with headers: requests are type × 16 + rate, type 1 AMR-WB IO
(log 29). -/
def evsParse (full : Bool) (d : List Byte) : Option (Option Nat × List (List Byte)) :=
  if !full then
    let n := 8 * d.length
    match (evsBits.zipIdx).find? (fun e => e.1 == n) with
    | some e => some (none, [mkRec e.2 false (e.2 == 12) false n d])
    | none =>
      match ((amrBits 7).zipIdx).find? (fun e => (e.1 + 3 + 7) / 8 == d.length && decide (e.2 < 9)) with
      | some e => some ((evsIoModes[bitsNat ((msbBits d).take 3)]?).map (fun m => 16 + m), [mkRec (0x20 + e.2) false false false e.1 (bitsBytes ((msbBits d).drop 3))])
      | none => none
  else
    let cmr := bit (d.getD 0 0).toNat 7
    let req := if cmr && (d.getD 0 0).toNat % 128 != 127 then some ((d.getD 0 0).toNat % 128) else none
    let o := b2n cmr
    let toc := d.drop o
    let k := ((toc.takeWhile (fun b => bit b.toNat 6)).length) + 1
    let r := (toc.take k).foldl (fun (a : Nat × List (List Byte)) b =>
      let ft := b.toNat % 16
      let io := bit b.toNat 5
      let n := if io then (amrBits 7).getD ft 0 else evsBits.getD ft 0
      (a.1 + (n + 7) / 8,
        a.2 ++ [mkRec (b.toNat % 64) (ft == 14 || (io && !bit b.toNat 4)) (if io then ft == 9 else ft == 12) (ft == 15) n
          (slice d a.1 ((n + 7) / 8))])) (o + k, [])
    if r.1 = d.length ∧ k ≤ toc.length then some (req, r.2) else none

/-- The records of a payload, the mode request, and whether it was parsed. -/
def payloadRecs (codec : Nat) (variant : Bool) (d : List Byte) : List (List Byte) × Option Nat × Bool :=
  let whole (ft : Nat) : List (List Byte) × Option Nat × Bool := ([mkRec ft false false false (8 * d.length) d], none, true)
  let none' : List (List Byte) × Option Nat × Bool := ([badRec], none, false)
  if d = [] then none'
  else match codec with
    | 0x01 => whole 0
    | 0x02 => whole 0
    | 0x03 => whole 0
    | 0x04 => whole 2
    | 0x05 =>
      if d.length % 10 = 0 ∨ d.length % 10 = 2 then
        ((List.range (d.length / 10)).map (fun i => mkRec 0 false false false 80 (slice d (10 * i) 10)) ++
          (if d.length % 10 = 2 then [mkRec 1 false true false 16 (d.drop (d.length - 2))] else []), none, true)
      else none'
    | 0x06 => (match amrParse 6 variant d with | some r => (r.2, if r.1 = 15 then none else some r.1, true) | none => none')
    | 0x07 => (match amrParse 7 variant d with | some r => (r.2, if r.1 = 15 then none else some r.1, true) | none => none')
    | 0x08 => if opusUs d = 0 then none' else whole (d.getD 0 0).toNat
    | 0x09 => (match evsParse variant d with | some r => (r.2, r.1, true) | none => none')
    | 0x0A => if d.length % 2 = 0 then whole 0 else none'
    | _ => none'

/-! ## Records to payloads (R283) -/

/-- The frames of several Opus packets of one configuration as one packet of code 3 (RFC 6716). -/
def opusPack (ds : List (List Byte)) : List Byte :=
  match ds with
  | [] => []
  | [d] => d
  | d :: _ =>
    let len (n : Nat) : List Byte :=
      if n < 252 then [BitVec.ofNat 8 n] else [BitVec.ofNat 8 (252 + n % 4), BitVec.ofNat 8 ((n - (252 + n % 4)) / 4)]
    let fs := ds.flatMap (fun x => (opusFrames x).getD [x.drop 1])
    [BitVec.ofNat 8 ((d.getD 0 0).toNat / 4 * 4 + 3), BitVec.ofNat 8 (128 + fs.length % 64)] ++
      (fs.dropLast.flatMap (fun x => len x.length)) ++ fs.flatten

/-- The payload of frame records. -/
def payloadOf (codec : Nat) (variant : Bool) (cmr : Nat) (rs : List (List Byte)) : List Byte :=
  let data := rs.flatMap recData
  let last := rs.length - 1
  if codec = 6 ∨ codec = 7 then
    if variant then
      bitsBytes ((msbBits [BitVec.ofNat 8 (cmr * 16)]).take 4 ++
        rs.zipIdx.flatMap (fun e => (msbBits [BitVec.ofNat 8
          ((if e.2 < last then 128 else 0) + recFt e.1 % 16 * 8 + if recBad e.1 then 0 else 4)]).take 6) ++
        rs.flatMap (fun r => (msbBits (recData r)).take (recBits r)))
    else
      BitVec.ofNat 8 (cmr * 16) :: rs.zipIdx.map (fun e => BitVec.ofNat 8
        ((if e.2 < last then 128 else 0) + recFt e.1 % 16 * 8 + if recBad e.1 then 0 else 4)) ++ data
  else if codec = 8 then opusPack (rs.map recData)
  else if codec = 9 ∧ variant then
    (if cmr = 15 then [] else [BitVec.ofNat 8 (128 + (if rs.any (fun r => bit (recFt r) 5) then 16 else 0) + cmr)]) ++
      rs.zipIdx.map (fun e => BitVec.ofNat 8 ((if e.2 < last then 64 else 0) + recFt e.1 % 64)) ++ data
  else if codec = 9 then
    rs.flatMap (fun r => if 32 ≤ recFt r then bitsBytes (((msbBits
      [BitVec.ofNat 8 (32 * (evsIoModes.findIdx? (fun m => m == cmr)).getD 7)]).take 3) ++ (msbBits (recData r)).take (recBits r)) else recData r)
  else data

/-! ## State areas (R252, R253) -/

/-- The state of a codec area: as it stands where it was initialised for the same instruction, codec and rate. -/
def State.codecAt (s : State) (a key : Nat) : CodecSt :=
  match s.area a with
  | .codec c => if c.key = key then c else CodecSt.init key
  | _ => CodecSt.init key

/-- The state at the end of a run, with its header in memory, each 64-bit word as one store. -/
def State.setCodec (s : State) (a codec : Nat) (c : CodecSt) : State :=
  ((s.setArea a (.codec c)).writeLe a 8 (codec + c.mode % 256 * 2 ^ 8 + c.rx % 256 * 2 ^ 16 + b2n c.dtx * 2 ^ 24 +
    b2n c.conc * 2 ^ 25 + c.frames % 2 ^ 32 * 2 ^ 32)).writeLe (a + 8) 8 (c.erased % 2 ^ 32)

def codecKey (op codec khz : Nat) : Nat := op * 65536 + codec * 256 + khz

/-- The rate in kHz of an instruction whose block is MISSING: that of its state, where it has one. -/
def State.stateKhz (s : State) (a op codec khz : Nat) : Nat :=
  match s.area a with
  | .codec c => if c.key / 256 = op * 256 + codec then c.key % 256 else khz
  | _ => khz

/-! ## DEC and PLC (R251, R254, R255, R257) -/

/-- An Opus record that the library decodes: no stereo, no frames of 2.5 or 5 ms, and 120 ms at most (R243). -/
def opusOk (r : List Byte) : Bool :=
  let d := recData r
  let toc := (d.getD 0 0).toNat
  !bit toc 2 && decide (10000 ≤ opusFrameUs toc) && decide (0 < opusUs d) && decide (opusUs d ≤ 120000) && (opusFrames d).isSome

/-- A record that its codec can decode (code 0x0001 otherwise). EVS primary frames are those of 7.2 to 24.4 kbit/s (R243). -/
def recOk (codec : Nat) (r : List Byte) : Bool :=
  recSid r || recNodata r ||
  (match codec with
   | 0x05 => recBits r == 80
   | 0x06 => (amrBits 6)[recFt r]? == some (recBits r)
   | 0x07 => (amrBits 7)[recFt r]? == some (recBits r)
   | 0x08 => opusOk r
   | 0x09 => if 32 ≤ recFt r then (amrBits 7)[recFt r % 16]? == some (recBits r)
     else decide (1 ≤ recFt r) && decide (recFt r ≤ 6) && evsBits[recFt r]? == some (recBits r)
   | 0x0A => recBits r % 16 == 0
   | _ => recBits r % 8 == 0)

/-- Duration in µs of a record that DEC reads: G.726 at the rate of the mode byte (R246), an Opus interval of no content as long as
the last frame. -/
def decUs (codec khz mode : Nat) (st : CodecSt) (r : List Byte) : Nat :=
  if codec = 4 then recBits r / (2 + mode % 4) * 125
  else if codec = 8 ∧ recBits r = 0 ∧ 0 < st.frameUs then st.frameUs
  else recUs codec khz r

/-- The octets of a record as the decoder takes them: G.726 code words by their packing (R247). -/
def decData (codec mode : Nat) (variant : Bool) (r : List Byte) : List Byte :=
  if codec = 4 ∧ !variant then r.take 4 ++ g726Unpack (2 + mode % 4) (recData r) else r

/-- The samples of a decoded frame: those of G.711 and L16 computed, but for what Appendix I makes of the first frame after a
loss; the rest by the codec's standard (R244). -/
def CodecSt.decoded (st : CodecSt) (codec khz mode : Nat) (variant conceal : Bool) (r : List Byte) : List (BitVec 16) :=
  let std := fitTo (khz * decUs codec khz mode st r / 1000) (Config.decoded (codec, khz, mode) st.memory (decData codec mode variant r))
  if recSid r || recNodata r || (conceal && st.lost != 0) then std
  else match codec with
    | 0x01 => (recData r).map (lawExpand 1)
    | 0x02 => (recData r).map (lawExpand 0)
    | 0x0A => (List.range (recBits r / 16)).map (fun i => BitVec.ofNat 16 (beAt (recData r) (2 * i) 2))
    | _ => std

/-- A concealed sample of G.726 after as many in a row: as it is for 10 ms, then down to silence over 50 ms (R254). -/
def g726Fade (x : BitVec 16) (i : Nat) : BitVec 16 :=
  if i < 80 then x
  else if i < 480 then BitVec.ofInt 16 (x.toInt * (32768 - (Config.fadeWeight (i - 80) 400 : Nat)) / 32768)
  else 0

/-- Samples that conceal a loss (R254). -/
def CodecSt.conceal (st : CodecSt) (codec khz m : Nat) : List (BitVec 16) :=
  let xs := fitTo m (Config.concealed (codec, khz) st.memory m)
  if codec = 4 then xs.zipIdx.map (fun e => g726Fade e.1 (st.lost + e.2)) else xs

/-- The state after a number of samples lost: it advances as for an erasure, whether they are concealed or not. -/
def CodecSt.afterLoss (st : CodecSt) (m : Nat) : CodecSt :=
  if m = 0 then st else { st with memory := Config.afterLoss st.memory m, lost := st.lost + m }

/-- What a lost interval puts out: concealed, or MISSING. -/
def CodecSt.fill (st : CodecSt) (codec khz : Nat) (conceal : Bool) (m : Nat) : List (BitVec 16 × PcmKind) :=
  if conceal then (st.conceal codec khz m).map (fun x => (x, .concealed)) else List.replicate m (0, .missing)

/-- What DEC has made of its records so far: its state, whether one was undecodable, whether an interval is quiet or lost. -/
structure DecOut where
  st : CodecSt
  bad : Bool
  quiet : Bool
  deriving DecidableEq, Repr

def decodeOne (codec khz mode : Nat) (variant conceal : Bool) (d : DecOut) (r : List Byte) : DecOut :=
  let us := decUs codec khz mode d.st r
  if recBad r || !recOk codec r then
    let m := khz * us / 1000
    { st := ({ d.st with
        held := d.st.held ++ d.st.fill codec khz conceal m, erased := d.st.erased + 1, dtx := false } : CodecSt).afterLoss m
      bad := d.bad || !recBad r, quiet := true }
  else
    let q := recSid r || recNodata r
    { st := { d.st with
        held := d.st.held ++ (d.st.decoded codec khz mode variant conceal r).map (fun x => (x, .heard))
        frames := d.st.frames + 1
        dtx := q
        mode := if q then d.st.mode else if codec = 6 ∨ codec = 7 ∨ codec = 9 then recFt r % 16 else mode
        memory := Config.afterFrame d.st.memory (decData codec mode variant r)
        frameUs := us, lost := 0 }
      bad := d.bad, quiet := d.quiet || q }

/-- Concealed frames count in the metrics too (R170). -/
def State.countConcealed (s : State) (n k f : Nat) : State :=
  s.setSlot n k { s.slot n k with plcFrames := (s.slot n k).plcFrames + f }

/-- The adjustment of the playout that a run realises (R279): held and decoded output is lengthened or shortened. `lim` bounds it
in ns; amounts of at most 2 ms are not realised. -/
def CodecSt.stretch (st : CodecSt) (khz lim : Nat) (owed : Int) : List (BitVec 16 × PcmKind) × Int :=
  if owed.natAbs ≤ 2000000 then (st.held, 0)
  else
    let m := khz * min lim owed.natAbs / 1000000
    let n := if 0 < owed then st.held.length + m else st.held.length - min m st.held.length
    let kind (i : Nat) : PcmKind := (st.held.getD i (0, .heard)).2
    (((fitTo n (Config.stretched st.memory n (st.held.map (·.1)))).zipIdx).map (fun e => (e.1, kind e.2)),
      (((n : Int) - st.held.length) * 1000000 / khz))

/-- The owed amount falls by what DEC has realised. -/
def State.realised (s : State) (b : Block) (r : Int) : State :=
  match b.owed with
  | some (tid, _) => if r = 0 then s else s.setPlay tid { s.play tid with owed := (s.play tid).owed - r }
  | none => s

/-- The samples of one of a codec's frames: of a codec without one the block of a run, of Opus the last frame decoded. -/
def CodecSt.frameSamples (st : CodecSt) (codec khz p b : Nat) : Nat :=
  let ms := codecFrame codec true b
  max 1 (if codec = 8 then khz * max 10000 st.frameUs / 1000 else khz * (if ms = 0 then p else ms))

/-- The block that a run of DEC or PLC puts out: MISSING where it holds no valid sample (R174). -/
def pcmOut (khz tag : Nat) (l : List (BitVec 16 × PcmKind)) : Block :=
  if l.all (fun e => e.2 == .missing) then { Block.empty with rate := khzCode khz } else pcmBlock khz tag (l.map (·.1))

/-- DEC: p ms of PCM from the frames presented and the samples held. Of a block of another codec nothing is taken, and none of
what is held is put out (log 65). -/
def dec (n k : Nat) (s : State) (r : Run) (w : Nat) : State × Option Block × Nat :=
  let codec := ciCodec w
  let conceal := bit w 0
  let p := ctxPeriod r.ctx
  let khz := decKhz codec (ciB w)
  let need := perBlock khz p
  let a := ctxArea r.ctx (ciSoff w)
  let b := r.block (ciBi w)
  let st := s.codecAt a (codecKey opDec codec khz)
  let other := !b.missing && !b.frames.isEmpty && b.codec.toNat != codec
  let frames := if b.missing || other then [] else b.frames
  let st0 := match b.req with | some v => if other then st else { st with rx := v } | none => st
  let d := frames.foldl (decodeOne codec khz (ciMode w) (bit w 4) conceal) ⟨st0, false, false⟩
  let quiet := d.quiet || decide (d.st.held.length < need)
  let t := match (if b.missing then none else b.owed) with
    | some (_, o) => d.st.stretch khz (if quiet then p * 1000000 else p * 125000) o
    | none => (d.st.held, 0)
  let out := if other then [] else t.1.take need
  let rest := if other then t.1 else t.1.drop need
  let frame := d.st.frameSamples codec khz p (ciB w)
  let over_ := rest.length - 120 * khz
  let short := need - out.length
  let gap := if conceal then d.st.gap + short else d.st.gap
  let full := out ++ d.st.fill codec khz conceal short
  let st1 := ({ d.st with
    held := rest.take (120 * khz)
    conc := full.any (fun e => e.2 == .concealed)
    erased := d.st.erased + (over_ + frame - 1) / frame + gap / frame
    gap := gap % frame } : CodecSt).afterLoss short
  let s1 := ((s.realised b t.2).setCodec a codec st1).countConcealed n k
    (if conceal then gap / frame + (d.st.erased - st0.erased) else 0)
  let code := if other then 2 else if d.bad then 1 else if 0 < over_ then 4 else 0
  (s1, some (pcmOut khz (if b.tag = 0 then r.boundary * 1000 else b.tag) full), code)

/-- PLC in place of a DEC: held samples first, then the whole rest concealed; the frames skipped count in ERASED (R255). -/
def decLost (n k : Nat) (s : State) (r : Run) (w : Nat) : State × Option Block × Nat :=
  let codec := ciCodec w
  let khz := decKhz codec (ciB w)
  let need := perBlock khz (ctxPeriod r.ctx)
  let a := ctxArea r.ctx (ciSoff w)
  let b := r.block (ciBi w)
  let st := s.codecAt a (codecKey opDec codec khz)
  let skipped := if b.missing then 0 else b.frames.length
  let out := st.held.take need
  let full := out ++ st.fill codec khz true (need - out.length)
  let st1 := ({ st with
    held := st.held.drop need, conc := full.any (fun e => e.2 == .concealed), erased := st.erased + skipped } : CodecSt).afterLoss
      (need - out.length)
  ((s.setCodec a codec st1).countConcealed n k skipped, some (pcmOut khz (r.boundary * 1000) full), 0)

def execDec (cl : Fin 32) (slot : BitVec 13) (chain : Fin 2) (s : State) : Result :=
  .next (s.romOp cl slot.toNat chain opDec cleanReads (fun u r w =>
    if r.plc.contains r.idx then decLost cl slot.toNat u r w else dec cl slot.toNat u r w))

/-- PLC: a MISSING block is concealed from the history of earlier ones, at their rate. -/
def plc (s : State) (r : Run) (w : Nat) : State × Option Block × Nat :=
  let b := r.block (ciBi w)
  let codec := ciCodec w
  let a := ctxArea r.ctx (ciSoff w)
  let khz := if b.missing then s.stateKhz a opPlc codec 8 else rateKhz b.rate.val
  let st := s.codecAt a (codecKey opPlc codec khz)
  let m := perBlock khz (ctxPeriod r.ctx)
  if b.missing then
    (s.setCodec a codec (({ st with conc := true, erased := st.erased + 1 } : CodecSt).afterLoss m),
      some (pcmBlock khz (r.boundary * 1000) (st.conceal codec khz m)), 0)
  else
    (s.setCodec a codec { st with
      conc := false, frames := st.frames + 1, memory := Config.remember st.memory b.samples, lost := 0 }, some b, 0)

def execPlc (cl : Fin 32) (slot : BitVec 13) (chain : Fin 2) (s : State) : Result :=
  .next (s.romOp cl slot.toNat chain opPlc cleanReads plc)

/-! ## ENC (R250, R254) -/

/-- Lookahead of an encoder in µs (R243). -/
def lookahead (codec : Nat) : Nat :=
  match codec with
  | 0x05 => 5000
  | 0x06 => 5000
  | 0x07 => 5000
  | 0x08 => 6500
  | 0x09 => 12000
  | _ => 0

/-- The mode that a request names, none where it names no mode of the codec: of EVS a rate index, or an AMR-WB mode with IO. -/
def askedMode (codec mode rx : Nat) : Option Nat :=
  if codec = 6 then (if rx ≤ 7 then some rx else none)
  else if codec = 7 then (if rx ≤ 8 then some rx else none)
  else if bit mode 7 then (if rx / 16 = 1 ∧ rx % 16 ≤ 8 then some (rx % 16) else none)
  else if (rx / 16 = 0 ∨ rx / 16 = 2 ∨ rx / 16 = 3) ∧ 1 ≤ rx % 16 ∧ rx % 16 ≤ 6 then some (rx % 16 - 1)
  else none

/-- The mode in force: with FOLLOW, no higher than the peer's RXMODE where that names a mode (R250). -/
def State.encMode (s : State) (n : Nat) (r : Run) (w : Nat) : Nat :=
  let m := ciMode w
  if !bit w 2 then m
  else match s.slotOf n (ctxPeer r.ctx) with
    | none => m
    | some j => match askedMode (ciCodec w) m (s.byte (ctxArea (s.ctx n j) (ciSoff w) + 2)).toNat with
      | none => m
      | some q => if ciCodec w = 9 then m / 32 * 32 + min (m % 32) q else min m q

/-- Coded bits of a speech frame of a mode. -/
def frameBits (codec mode : Nat) : Nat :=
  match codec with
  | 0x05 => 80
  | 0x06 => (amrBits 6).getD mode 0
  | 0x07 => (amrBits 7).getD mode 0
  | _ => if bit mode 7 then (amrBits 7).getD (mode % 16) 0 else evsBits.getD (mode % 32 + 1) 0

/-- The frame type of a speech frame. -/
def frameType (codec mode : Nat) : Nat :=
  match codec with
  | 0x06 => mode
  | 0x07 => mode
  | 0x09 => if bit mode 7 then 0x30 + mode % 16 else mode % 32 + 1
  | _ => 0

/-- The first bytes of an Opus packet of a bandwidth and duration in µs (RFC 6716); whether the encoder takes CELT where
it can is open. -/
def opusHead (celt : Bool) (bw us : Nat) : List Byte :=
  let d := us / 20000
  let cfg :=
    if celt && bw != 1 && decide (us ≤ 20000) then (if bw = 0 then 16 else if bw = 2 then 20 else if bw = 3 then 24 else 28) + 2 + d
    else if bw ≤ 2 then 4 * bw + d
    else (if bw = 3 then 12 else 14) + min 1 d
  if 3 ≤ bw ∧ us = 40000 then [BitVec.ofNat 8 (cfg * 8 + 1)]
  else if 3 ≤ bw ∧ us = 60000 then [BitVec.ofNat 8 (cfg * 8 + 3), 3]
  else [BitVec.ofNat 8 (cfg * 8)]

/-- An Opus frame: at a constant rate of as many octets as the target rate gives, 1,275 at most, else of as many as the coder
takes (R247, R248). -/
def opusRecord (mode b us mem i : Nat) : List Byte :=
  let h := opusHead (Config.celt mem i) (mode % 16) us
  let body := Config.coded (8, mode, b) mem i
  let d := if bit b 7 then fitTo (max h.length (min 1275 (bits b 15 8 * 2 * us / 8000))) (h ++ body) else (h ++ body).take 1275
  mkRec (h.getD 0 0).toNat false false false (8 * d.length) d

/-- One emitted frame: speech, or with DTX what the codec's own detector decides (R254). -/
def encRecord (codec mode b us mem i : Nat) : List Byte :=
  let pick := if bit b 1 then Config.silence (codec, mode, b) mem i else 0
  let toc := (opusHead (Config.celt mem i) (mode % 16) us).getD 0 0
  let body := Config.coded (codec, mode, b) mem i
  if pick = 2 then (if codec = 8 then mkRec toc.toNat false false true 0 [] else mkRec 15 false false true 0 [])
  else if pick = 1 then
    match codec with
    | 0x05 => mkRec 1 false true false 16 (fitBits 16 body)
    | 0x06 => mkRec 8 false true false 39 (fitBits 39 body)
    | 0x07 => mkRec 9 false true false 40 (fitBits 40 body)
    | 0x08 => mkRec toc.toNat false true false 8 [toc]
    | _ => if bit mode 7 then mkRec 0x39 false true false 40 (fitBits 40 body) else mkRec 12 false true false 48 (fitBits 48 body)
  else if codec = 8 then opusRecord mode b us mem i
  else mkRec (frameType codec mode) false false false (frameBits codec mode) (fitBits (frameBits codec mode) body)

/-- Records of a block within 4 KiB (code 0x0003). -/
def fitBlock (l : List (List Byte)) : List (List Byte) × Nat :=
  l.foldl (fun a r => if a.2 = 0 ∧ a.1.flatten.length + r.length ≤ 4096 then (a.1 ++ [r], 0) else (a.1, a.2 + 1)) ([], 0)

/-- The frames that a run of ENC emits; `mem` is what its state remembers with the block's samples. -/
def encFrames (mode w p mem : Nat) (xs : List (BitVec 16)) (st : CodecSt) : List (List Byte) :=
  let codec := ciCodec w
  let body := Config.coded (codec, mode, ciB w) mem st.frames
  match codec with
  | 0x01 => [mkRec 0 false false false (8 * xs.length) (xs.map (lawCompress 1))]
  | 0x02 => [mkRec 0 false false false (8 * xs.length) (xs.map (lawCompress 0))]
  | 0x0A => [mkRec 0 false false false (16 * xs.length) (xs.flatMap (fun x => beBytes 2 x.toNat))]
  | 0x03 => [mkRec 0 false false false (64 * p) (fitTo (8 * p) body)]
  | 0x04 =>
    let wd := mode % 4 + 2
    let d := fitTo (p * wd) body
    [mkRec (mode % 4) false false false (8 * p * wd) (if bit w 4 then d else g726Pack wd d)]
  | _ =>
    let us := codecFrame codec true (ciB w) * 1000
    let due := if us = 0 then 0 else (st.got + 1000 * p - lookahead codec - st.emitted) / us
    (List.range due).map (fun i => encRecord codec mode (ciB w) us mem (st.frames + i))

/-- ENC: frames on the codec's grid from the samples of the block; a MISSING block is coded as samples that are open. -/
def enc (n : Nat) (s : State) (r : Run) (w : Nat) : State × Option Block × Nat :=
  let codec := ciCodec w
  let b := r.block (ciBi w)
  let p := ctxPeriod r.ctx
  let a := ctxArea r.ctx (ciSoff w)
  let khz := if b.missing then s.stateKhz a opEnc codec (if codec = 3 ∨ codec = 7 then 16 else 8) else rateKhz b.rate.val
  let m := perBlock khz p
  let st := s.codecAt a (codecKey opEnc codec khz)
  let xs := if b.missing then s.freeSamples m else b.samples
  let mem := Config.remember st.memory xs
  let mode := s.encMode n r w
  let f := fitBlock (encFrames mode w p mem xs st)
  let quiet (x : List Byte) : Bool := recSid x || recNodata x
  let dtx := match f.1.getLast? with | some x => quiet x | none => st.dtx
  let st1 := { st with
    got := st.got + 1000 * p
    emitted := st.emitted + codecFrame codec true (ciB w) * 1000 * (f.1.length + f.2)
    mode := if f.1.isEmpty then st.mode else mode
    dtx := dtx
    frames := st.frames + f.1.length
    erased := st.erased + f.2
    memory := mem }
  ((s.draw (if b.missing then m else 0)).setCodec a codec st1,
    some { Block.empty with
      rate := khzCode khz, frames := f.1, codec := BitVec.ofNat 6 codec, variant := bit w 4, missing := false
      noise := if f.1.isEmpty then dtx else f.1.all quiet, sid := f.1.any recSid
      nodata := !f.1.isEmpty && f.1.all recNodata
      tag := if b.tag = 0 then r.boundary * 1000 else b.tag },
    if f.2 = 0 then 0 else 3)

def execEnc (cl : Fin 32) (slot : BitVec 13) (chain : Fin 2) (s : State) : Result :=
  .next (s.romOp cl slot.toNat chain opEnc cleanReads (enc cl))

end Sys2Proof.Machine
end

