-- ==== Sys2Proof/Machine/PktIo.lean ====
section
/-!
DEFINITION. The packet side of a chain: PLAYOUT_RELEASE and PKT.IN (R277, R280, R281), PKT.OUT (R282, R283), and RTCP
(R284, R285).
-/

namespace Sys2Proof.Machine

/-! ## The release at a boundary (R277) -/

/-- The release of a TID whose home was reset (R409): what it would have taken is freed and counted. -/
def State.orphanRelease (s : State) (tid : BitVec 18) : State :=
  let y := s.play tid
  match y.due with
  | none => s
  | some b =>
    if s.tb2usOn y.die < b then s
    else
      let set := y.dueNow b y.grid.1 (s.isUdptl tid)
      ((s.setPlay tid { y with
        ring := y.remain b y.grid.1 (s.isUdptl tid), pres := []
        due := some (nextTick b y.grid.1 y.grid.2) }).freeCells (set ++ y.pres)).countDiscard tid set.length

/-- TIDs with a playout state whose home a cluster is, without a slot (R409). -/
def State.orphans (s : State) (n : Nat) : List (BitVec 18) :=
  ((s.plays.filter (fun e => e.2.live && e.2.home == n)).map (fun e => BitVec.ofNat 18 e.1)).filter
    (fun t => (s.homeOf t).isNone)

/-- PLAYOUT_RELEASE: at a boundary the packets due are presented and the chains that PLAYOUT starts are released. It waits
for the version switch of its own boundary (R184) and for the commit of a re-home (R365). A FREE slot stands for the TIDs
that a cluster reset left without one. -/
def State.playoutRelease (s : State) (n k : Nat) : State :=
  let x := s.slot n k
  let y := s.play x.tid
  if x.st = .free then each s (s.orphans n) State.orphanRelease
  else match y.due with
  | none => s
  | some b =>
    let switching : Bool := match x.pending with | some c => decide (c.switchAt ≤ b) | none => false
    if x.st ≠ .live ∨ !y.live ∨ y.home ≠ n ∨ s.tb2usOn (dieOf n) < b ∨ switching ∨ s.frozen x.tid then s
    else
      let c := s.ctx n k
      let s1 := s.present x.tid b (ctxPeriod c) (s.isUdptl x.tid)
      let s2 := s1.setPlay x.tid { s1.play x.tid with due := some (nextTick b (ctxPeriod c) (ctxPhase c)) }
      each s2 (startedBy c 2) (fun u ch => u.release n (s.chainItem n k ch b .playout) none)

def execPlayoutRelease (cl : Fin 32) (slot : BitVec 13) (s : State) : Result := .next (s.playoutRelease cl slot.toNat)

/-! ## PKT.IN (R281) -/

/-- The packets presented at the boundary of a run, which the run now holds (R276). -/
def State.takePresented (s : State) (n k : Nat) (chain : Fin 2) (tid : BitVec 18) : State × List Stored :=
  match s.run n k chain with
  | none => (s, [])
  | some r =>
    let y := s.play tid
    if r.boundary < y.presAt then (s, [])
    else
      ((s.setRun n k chain (some { r with cells := r.cells ++ y.pres })).setPlay tid { y with pres := [] }, y.pres)

/-- The block of the packets presented: their records, and the mode request of the last that carries one. -/
def State.presentedBlock (s : State) (r : Run) (tid : BitVec 18) (owed : Int) (ps : List Stored) : Block × Nat :=
  match ps with
  | [] => (Block.empty, 0)
  | p :: _ =>
    let o := ps.map (fun q => match s.cellPayload q with
      | some bs => payloadRecs (imgCodec q.fmt.toNat) (imgVariant q.fmt.toNat) bs
      | none => ([badRec], none, false))
    let req := (o.filterMap (fun e => e.2.1)).getLast?
    ({ Block.empty with
        rate := khzCode (imgKhz p.fmt.toNat), frames := o.flatMap (·.1), codec := BitVec.ofNat 6 (imgCodec p.fmt.toNat)
        variant := imgVariant p.fmt.toNat, missing := false, tag := r.boundary * 1000
        sid := (o.flatMap (·.1)).any recSid, nodata := (o.flatMap (·.1)).any recNodata
        req := req, owed := if owed = 0 then none else some (tid, owed) },
      if o.all (fun e => e.2.2) then 0 else 1)

/-- Another PKT.IN of the program takes the presentation: chain 0's, where chain 0 runs (R277). -/
def State.yieldsPkt (s : State) (r : Run) (chain : Fin 2) : Bool :=
  chain == 1 && ctxStart r.ctx 0 != 0 && (s.runWords r.ctx 0).any (fun e => ciOp e.2 == opPktIn)

def pktIn (n k : Nat) (chain : Fin 2) (s : State) (r : Run) (w : Nat) : State × Option Block × Nat :=
  match s.binder n k r w 1 with
  | none => peerGone s r w
  | some (j, _) =>
    if s.yieldsPkt r chain then (s, some Block.empty, 0)
    else
      let tid := (s.slot n j).tid
      let t := s.takePresented n k chain tid
      let b := s.presentedBlock r tid (if (s.play tid).adj then (s.play tid).owed else 0) t.2
      (t.1, some b.1, b.2)

def execPktIn (cl : Fin 32) (slot : BitVec 13) (chain : Fin 2) (s : State) : Result :=
  .next (s.romOp cl slot.toNat chain opPktIn (bindingPoisoned cl slot.toNat 1) (pktIn cl slot.toNat chain))

/-! ## Building a packet (R282, R283) -/

/-- The template area of a binding. -/
def State.template (s : State) (c : List Byte) : List Byte := s.bytes (ctxArea c (ctxTmplOff c)) 256

def tmRtp (t : List Byte) : Bool := bit (leAt t 128 4) 9
def tmMtu (t : List Byte) : Nat := if leAt t 132 2 = 0 then 1500 else leAt t 132 2

/-- The part of the template before the UDP payload. -/
def tmHead (c t : List Byte) : List Byte := t.take (ctxTmplLen c - if tmRtp t then 12 else 0)

/-- A header's bytes replaced with a big-endian number. -/
def putBe (bs : List Byte) (o n v : Nat) : List Byte := splice bs o (beBytes n (v % 256 ^ n))

/-- A frame from the template and a UDP payload: lengths and checksums are filled in. `up` is added to both UDP ports. -/
def buildFrame (c t body : List Byte) (up : Nat) : List Byte :=
  let v6 := bit (leAt t 128 4) 8
  let head := tmHead c t
  let u := head.length - 8
  let ulen := 8 + body.length
  let h0 := if up = 0 then head else putBe (putBe head u 2 (beAt head u 2 + up)) (u + 2) 2 (beAt head (u + 2) 2 + up)
  let h1 := if v6 then putBe h0 4 2 (u - 40 + ulen) else putBe (putBe h0 2 2 (u + ulen)) 10 2 0
  let ihl := 4 * ((h1.getD 0 0).toNat % 16)
  let h2 := if v6 then h1 else putBe h1 10 2 (65535 - onesSum (h1.take ihl))
  let h3 := putBe (putBe h2 (u + 4) 2 ulen) (u + 6) 2 0
  let pseudo := if v6 then slice h3 8 32 ++ beBytes 4 ulen ++ [0, 0, 0, 17] else slice h3 12 8 ++ [0, 17] ++ beBytes 2 ulen
  let sum := 65535 - onesSum (pseudo ++ h3.drop u ++ body)
  let h4 := if v6 || bit (leAt t 128 4) 10 then putBe h3 (u + 6) 2 (if sum = 0 then 65535 else sum) else h3
  slice t 136 (leAt t 128 4 % 32) ++ h4 ++ body

/-- The playout unit of a cluster's die as a producer. -/
def plyProducer (n : Nat) : Producer := .dieUnit ⟨dieOf n % 2, Nat.mod_lt _ (by decide)⟩ 0

/-- A frame is committed to an egress cask: inline to 1,008 bytes, through a transmit buffer beyond; false where the cask
refuses it (R308). Where the buffers lie is open (log 6). -/
def State.commitFrame (s : State) (n h : Nat) (f : List Byte) : State × Bool :=
  if f.length ≤ 1008 then s.postPacket h (plyProducer n) (⟨BitVec.ofNat 128 f.length, false⟩ :: dataWords f)
  else
    let a := Config.freeNat s.freeCount % 2 ^ 32
    let s1 : State := { s.draw 1 with txBufs := sput s.txBufs a f }
    let r := s1.postPacket h (plyProducer n) [⟨BitVec.ofNat 128 (f.length + 2 ^ 16 + a * 2 ^ 96), false⟩]
    if r.2 then r else ({ r.1 with txBufs := sdel r.1.txBufs a }, false)

/-- The transmit index of a context is exhausted: the packet is dropped (R274, R286). -/
def State.exhausted (s : State) (n : Nat) (tid : BitVec 18) : State :=
  ((s.raise (plyEvt (dieOf n)) F.PLY_EVT_EXHAUST).plyLog 2 tid).plyRecord tid 0x31 0

/-- What PKT.OUT works on as it goes through a block's frames: what it holds, SEQ and TS, and the result code. -/
structure PktAcc where
  held : Held
  seq : Nat
  ts : Nat
  code : Nat
  deriving DecidableEq, Repr

/-- Bytes that SRTP adds to a packet. -/
def State.srtpGrow (s : State) (x : Nat) : Nat :=
  if x = 0 then 0 else if suiteGcm (s.srtpHalf x false).suite then 16 else suiteTag (s.srtpHalf x false).suite

/-- Length of the L3 packet of frame records. -/
def State.l3Length (s : State) (c : List Byte) (a : PktAcc) (rs : List (List Byte)) : Nat :=
  ctxTmplLen c + (payloadOf a.held.codec a.held.variant (ctxCmr c) rs).length + s.srtpGrow (ctxSrtpx c)

/-- The packet of what is held goes out: SEQ advances whether or not the cask takes it. -/
def State.sendHeld (s : State) (n : Nat) (tid : BitVec 18) (c t : List Byte) (a : PktAcc) : State × PktAcc :=
  match a.held.frames with
  | [] => (s, a)
  | f :: _ =>
    let pay := payloadOf a.held.codec a.held.variant (ctxCmr c) (a.held.frames.map (·.2))
    let hdr := slice t (ctxTmplLen c - 12) 12
    let rtp := putBe (putBe (putBe (splice hdr 1 [BitVec.ofNat 8 (ctxPt c + if a.held.mark then 128 else 0)]) 2 2 a.seq) 4 4 f.1)
      8 4 (ctxSsrc c)
    let plain := if tmRtp t then rtp ++ pay else pay
    let b := { a with held := { a.held with frames := [], mark := false }, seq := (a.seq + 1) % 65536 }
    let e := if ctxSrtpx c = 0 ∨ !tmRtp t then (s, Except.ok plain) else s.protect (ctxSrtpx c) plain
    match e.2 with
    | .error .exhausted => (e.1.exhausted n tid, b)
    | .error .unusable => (e.1, { b with code := 2 })
    | .ok body =>
      let o := e.1.commitFrame n (ctxTxCask c) (buildFrame c t body 0)
      if !o.2 then (o.1, { b with code := 2 })
      else
        let ta := ctxArea c (ctxTmplOff c)
        let s1 := (o.1.writeLe (ta + 160) 4 ((leAt t 160 4 + 1) % 2 ^ 32))
        let s2 := s1.writeLe (ta + 164) 4 ((s1.le (ta + 164) 4 + pay.length) % 2 ^ 32)
        let y := s2.play tid
        (if y.live then s2.setPlay tid { y with rtcp := { y.rtcp with sent := true, lastTx := some (s2.tb2nsOn (dieOf n), f.1) } } else s2, b)

/-- The state and the template as they stand after earlier packets of the same run. -/
def State.sendNow (s : State) (n : Nat) (tid : BitVec 18) (c : List Byte) (a : PktAcc) : State × PktAcc :=
  s.sendHeld n tid c (s.template c) a

/-- One frame of the block: held, or sent with what is held, as R283 says. -/
def State.pushFrame (s : State) (n : Nat) (tid : BitVec 18) (c : List Byte) (a : PktAcc) (f : List Byte) : State × PktAcc :=
  let mtu := tmMtu (s.template c)
  let step := recUs a.held.codec a.held.khz f * rtpKhz a.held.codec a.held.khz / 1000
  let adv (x : State × PktAcc) : State × PktAcc := (x.1, { x.2 with ts := (x.2.ts + step) % 2 ^ 32 })
  if recNodata f then
    let o := s.sendNow n tid c a
    adv (o.1, { o.2 with held := { o.2.held with quiet := true } })
  else if mtu < s.l3Length c a [f] then adv (s, { a with code := 1 })
  else
    let o := if mtu < s.l3Length c a (a.held.frames.map (·.2) ++ [f]) then s.sendNow n tid c a else (s, a)
    let h := o.2.held
    let h1 := { h with
      frames := h.frames ++ [(o.2.ts, f)]
      mark := h.mark || (h.quiet && !recSid f)
      quiet := recSid f }
    let b := { o.2 with held := h1 }
    adv (if ctxFpp c ≤ h1.frames.length then o.1.sendNow n tid c b else (o.1, b))

/-- PKT.OUT: the frames of the block are appended, and packets sent as they fill. SEQ, TS and HELD are those of the
context whose binding is used. -/
def pktOut (n k : Nat) (s : State) (r : Run) (w : Nat) : State × Option Block × Nat :=
  match s.binder n k r w 1 with
  | none => peerGone s r w
  | some (j, c) =>
    let b := r.block (ciBi w)
    let x := s.slot n j
    let fs := if b.missing then [] else b.frames
    let h := if fs.isEmpty then x.held
      else { x.held with codec := b.codec.toNat, variant := b.variant, khz := rateKhz b.rate.val }
    let cur := s.ctx n j
    let o := fs.foldl (fun (a : State × PktAcc) f => a.1.pushFrame n x.tid c a.2 f) (s, ⟨h, ctxSeq cur, ctxTs cur, 0⟩)
    let s1 := o.1.setSlot n j { o.1.slot n j with held := o.2.held }
    let s2 := (s1.writeLe (slotDpa n j + 128) 8 (o.2.seq + o.2.ts * 2 ^ 32)).writeLe (slotDpa n j + 136) 4
      (min 15 o.2.held.frames.length)
    (s2, none, o.2.code)

/-- A word of the template or of the context whose binding PKT.OUT uses is poisoned. -/
def pktOutReads (n k : Nat) (s : State) (r : Run) (w : Nat) : Bool :=
  match s.binder n k r w 1 with
  | some (j, c) => s.poisonedIn (slotDpa n j) 256 || s.poisonedIn (ctxArea c (ctxTmplOff c)) 256
  | none => false

def execPktOut (cl : Fin 32) (slot : BitVec 13) (chain : Fin 2) (s : State) : Result :=
  .next (s.romOp cl slot.toNat chain opPktOut (pktOutReads cl slot.toNat) (pktOut cl slot.toNat))

/-! ## RTCP (R284, R285) -/

/-- An instant as NTP seconds and fraction (R284). -/
def State.ntpSec (s : State) (t : Nat) : Nat :=
  ofSigned 32 ((t / 1000000000 + 2208988800 : Nat) - toSigned 16 (s.rf PLY.NTPOFFS F.PLY_NTPOFFS_NTPOFFS))
def ntpFrac (t : Nat) : Nat := t % 1000000000 * 2 ^ 32 / 1000000000

/-- NTP short format. -/
def State.ntpShort (s : State) (t : Nat) : Nat := s.ntpSec t % 65536 * 65536 + ntpFrac t / 65536

/-- Packets received, as RFC 3550 counts them. -/
def PlayCounts.received (c : PlayCounts) : Nat := c.rx + c.late + c.dup

/-- Packets expected since the anchor. -/
def Play.expected (x : Play) : Nat := if x.st = 0 then 0 else x.hseq + 1 - x.rtcp.first

/-- Packets expected and lost in the interval. -/
def Play.intervalExpected (x : Play) : Nat := x.expected - x.rtcp.expected
def Play.intervalLost (x : Play) : Nat := x.intervalExpected - (x.counts.received - x.rtcp.base.received)

/-- The report block for the learned SSRC. -/
def State.reportBlock (s : State) (x : Play) : List Byte :=
  let lost := (x.expected : Int) - (x.counts.received - x.rtcp.start.received : Nat)
  let frac := if x.intervalExpected = 0 then 0 else min 255 (x.intervalLost * 256 / x.intervalExpected)
  let dlsr := if x.rtcp.lsr = 0 then 0 else (s.tb2nsOn x.die - x.rtcp.lsrAt) * 65536 / 1000000000
  beBytes 4 x.ssrc ++ [BitVec.ofNat 8 frac] ++ beBytes 3 (ofSigned 24 (clampInt (-8388608) 8388607 lost)) ++
    beBytes 4 (x.hseq % 2 ^ 32) ++ beBytes 4 (x.jit16 / 16 % 2 ^ 32) ++ beBytes 4 x.rtcp.lsr ++ beBytes 4 (dlsr % 2 ^ 32)

/-- MOS × 10 of an R factor (ITU-T G.107). -/
def mosOf (r : Nat) : Nat := ((1000000 + 35000 * (r : Int) + 7 * r * ((r : Int) - 60) * (100 - (r : Int)) + 50000) / 100000).toNat

/-- Burst density, gap density, burst duration and gap duration of RFC 3611 for packets of a duration in ms (log 17). Without a
burst that a gap has ended, all is gap. -/
def Burst.fields (g : Burst) (ms : Nat) : List Byte :=
  let ratio (a b : Nat) : Nat := if b = 0 then 0 else min 255 (256 * a / b)
  let total := g.c11 + g.c14 + 2 * g.c13 + g.c22 + 2 * g.c23 + g.c33
  let gap := if g.c13 = 0 then (g.c11 + g.c14 + g.pkt) * ms else (g.c11 + g.c14 + g.c13) * ms / g.c13
  let burst := if g.c13 = 0 then 0 else total * ms / g.c13 - gap
  -- p23 / (p23 + p32), with p32 = c23 / (c13 + c23 + c33) and p23 = c23 / (c22 + c23)
  let out := g.c13 + g.c23 + g.c33
  let lossy := ratio out (out + g.c22 + g.c23)
  [BitVec.ofNat 8 (if g.c13 = 0 then 0 else lossy), BitVec.ofNat 8 (ratio g.c14 (g.c11 + g.c14))] ++
    beBytes 2 (min 65535 burst) ++ beBytes 2 (min 65535 gap)

/-- The VoIP metrics block of RFC 3611. -/
def State.voipBlock (s : State) (n k : Nat) (x : Play) : List Byte :=
  let c := s.ctx n k
  let has (op : Nat) : Bool := (s.programWords c).any (fun w => ciOp w == op)
  let e := max 1 x.intervalExpected
  let gone := (x.counts.late - x.rtcp.base.late) + (x.counts.dup - x.rtcp.base.dup) + (x.counts.overflow - x.rtcp.base.overflow)
  let byte (v : Nat) : Byte := BitVec.ofNat 8 v
  let rr := if has opMeter then leAt c 172 1 else 127
  let rerl := match s.livePeer n c with
    | some j => if (s.programWords (s.ctx n j)).any (fun w => ciOp w == opEc) then leAt (s.ctx n j) 164 2 / 10 % 256 else 127
    | none => 127
  let level := if has opMeter then byte (ofSigned 8 (toSigned 16 (leAt c 176 2) / 10)) else 127
  [7, 0, 0, 8] ++ beBytes 4 x.ssrc ++ [byte (min 255 (x.intervalLost * 256 / e)), byte (min 255 (gone * 256 / e))] ++
    x.rtcp.burst.fields (x.packetNs / 1000000) ++ beBytes 2 (min 65535 (x.rtt * 1000 / 65536)) ++ beBytes 2 (x.tgt + ctxPeriod c) ++
    [level, 127, byte rerl, 16, byte rr, 127, byte (if rr = 127 then 127 else mosOf rr), 127, 0, 0] ++
    beBytes 2 x.tgt ++ beBytes 2 (min 65535 x.rtcp.maxLead) ++ beBytes 2 1000

/-- An RTCP packet: count, type and body. -/
def rtcpPacket (count typ : Nat) (body : List Byte) : List Byte :=
  [BitVec.ofNat 8 (128 + count), BitVec.ofNat 8 typ] ++ beBytes 2 (body.length / 4) ++ body

/-- The compound packet of a termination. -/
def State.rtcpCompound (s : State) (n k : Nat) (x : Play) : List Byte :=
  let c := s.ctx n k
  let t := s.template c
  let own := beBytes 4 (ctxSsrc c)
  let rb := if x.st = 0 then [] else s.reportBlock x
  let count := if x.st = 0 then 0 else 1
  let khz := rtpKhz (s.slot n k).held.codec (s.slot n k).held.khz
  let now := s.tb2nsOn (dieOf n)
  let ts := match x.rtcp.lastTx with | some e => e.2 + (now - e.1) * khz / 1000000 | none => ctxTs c
  let first :=
    if x.rtcp.sent then
      rtcpPacket count 200 (own ++ beBytes 4 (s.ntpSec now) ++ beBytes 4 (ntpFrac now) ++ beBytes 4 (ts % 2 ^ 32) ++
        beBytes 4 (leAt t 160 4) ++ beBytes 4 (leAt t 164 4) ++ rb)
    else rtcpPacket count 201 (own ++ rb)
  let len := leAt t 192 1 % 64
  let item := own ++ [1, BitVec.ofNat 8 len] ++ slice t 193 len
  let sdes := rtcpPacket 1 202 (item ++ List.replicate (4 - item.length % 4) 0)
  first ++ sdes ++ (if bit (leAt t 128 4) 12 then rtcpPacket 0 207 (own ++ s.voipBlock n k x) else [])

/-- The interval after a report. -/
def State.rtcpNext (s : State) (tid : BitVec 18) (c : List Byte) : State :=
  let x := s.play tid
  (s.setPlay tid { x with
    rtcp := { x.rtcp with due := s.rtcpDue x.home c, sent := false, base := x.counts, expected := x.expected, maxLead := 0 } }).draw 1

/-- The compound as it is sent: protected where the context names a binding (R167). -/
def State.rtcpGuard (s : State) (c plain : List Byte) : State × Except SendFail (List Byte) :=
  if ctxSrtpx c = 0 then (s, .ok plain) else s.protectRtcp (ctxSrtpx c) plain

/-- The compound packet leaves in its frame, and the next interval is drawn. -/
def State.rtcpOut (s : State) (n : Nat) (tid : BitVec 18) (c t : List Byte) : Except SendFail (List Byte) → State
  | .error .exhausted => (s.exhausted n tid).rtcpNext tid c
  | .error .unusable => s.rtcpNext tid c
  | .ok body =>
    let o := s.commitFrame n (ctxTxCask c) (buildFrame c t body (if bit (leAt t 128 4) 11 then 0 else 1))
    (if o.2 then o.1.plyBump (dieOf n) (PLY.RTCPTX_LO (dieOf n)) else o.1).rtcpNext tid c

/-- RTCP_SEND: at the first boundary after the interval the compound packet goes out. -/
def State.rtcpSend (s : State) (tid : BitVec 18) : State :=
  let x := s.play tid
  match x.rtcp.due, s.homeOf tid with
  | some due, some (n, k) =>
    let c := s.ctx n k
    if (s.slot n k).st ≠ .live ∨ ctxKind c ≠ 1 ∨ s.tb2usOn (dieOf n) < firstTick due (ctxPeriod c) (ctxPhase c) ∨ !s.rb PLY.CFG F.PLY_CFG_EN
    then s
    else if s.poisonedIn (ctxArea c (ctxTmplOff c)) 256 then s.rtcpNext tid c
    else if s.rtcpInt c = 0 then s.setPlay tid { x with rtcp := { x.rtcp with due := none } }
    else
      let e := s.rtcpGuard c (s.rtcpCompound n k x)
      e.1.rtcpOut n tid c (s.template c) e.2
  | _, _ => s

def execRtcpSend (tid : BitVec 18) (s : State) : Result := .next (s.rtcpSend tid)

/-- Report blocks of a packet. -/
def reportsOf (p : List Byte) : List (List Byte) :=
  let o := if (p.getD 1 0).toNat = 200 then 28 else 8
  if (p.getD 1 0).toNat = 200 ∨ (p.getD 1 0).toNat = 201 then
    (List.range ((p.getD 0 0).toNat % 32)).filterMap (fun i =>
      if o + 24 * i + 24 ≤ p.length then some (slice p (o + 24 * i) 24) else none)
  else []

/-- The packets of a compound. -/
def rtcpSplit : Nat → List Byte → List (List Byte)
  | 0, _ => []
  | k + 1, p =>
    let n := 4 * (beAt p 2 2 + 1)
    if p.length < 4 then [] else p.take n :: rtcpSplit k (p.drop n)

/-- One packet of a received compound: an SR leaves LSR, a report on the own SSRC gives RTT. -/
def State.rtcpOne (s : State) (tid : BitVec 18) (own tag : Nat) (p : List Byte) : State :=
  let x := s.play tid
  let s1 := if (p.getD 1 0).toNat = 200 ∧ 28 ≤ p.length then
      s.setPlay tid { x with rtcp := { x.rtcp with lsr := beAt p 10 4, lsrAt := tag } } else s
  each s1 (reportsOf p) (fun u b =>
    if beAt b 0 4 = own ∧ beAt b 16 4 ≠ 0 then
      u.setPlay tid { u.play tid with
        rtt := (s.ntpShort tag + 2 * 2 ^ 32 - beAt b 16 4 - beAt b 20 4) % 2 ^ 32 }
    else u)

/-- A received RTCP compound of a termination: what goes to RTCPQ, unprotected, where anything does. -/
def State.rtcpReceive (s : State) (tid : BitVec 18) (tag : Nat) (payload : List Byte) : State × Option (List Byte) :=
  match s.homeCtx tid with
  | none => (s, none)
  | some (n, _, c) =>
    let d := dieOf n
    let x := s.srtpx tid
    if !s.rb PLY.CFG F.PLY_CFG_EN then (s.plyBump d (PLY.NOCELL_LO d), none)
    else
      let s0 := s.plyBump d (PLY.RTCPRX_LO d)
      let u := if x = 0 then (s0, Except.ok payload) else s0.unprotectRtcp x payload
      match u.2 with
      | .error e => (u.1.srtpFailed d tid e, none)
      | .ok p => (each u.1 (rtcpSplit 32 p) (fun v q => v.rtcpOne tid (ctxSsrc c) tag q), some p)

end Sys2Proof.Machine
end

