-- ==== Sys2Proof/Machine/Echo.lean ====
section
/-!
DEFINITION. Echo cancellation: EC and EC.REF, the queue of the Vat, the filter's sum, the placement of windows, double talk,
NLP, comfort noise and the tone disabler (R194 to R216). How coefficients adapt, and what is measured in signals, are open
functions of the signals (log 8).
-/

namespace Sys2Proof.Machine

/-! ## Profiles and logs (R195, R216) -/

/-- An entry of the cluster's Vat log: 1 poisoned slot, 2 reference dropped, 3 hint ignored, 4 load bypass. -/
def State.vatLog (s : State) (n cause : Nat) (tid : BitVec 18) : State :=
  if s.rb (VAT.ERR_LOG n) F.VAT_ERR_LOG_VALID then s
  else s.wv (VAT.ERR_LOG n) (2 ^ 31 + cause * 2 ^ 24 + tid.toNat)

def State.vatCount (s : State) (n ctr k : Nat) : State :=
  if k = 0 then s else s.bumpBy ctr k (VAT.EVT n) F.VAT_EVT_VCNT

def State.setVatQueue (s : State) (n : Nat) (q : List VatReq) : State :=
  (s.setCluster n { s.cluster n with vatQueue := q }).put (VAT.QUEUE n) F.VAT_QUEUE_QUEUE q.length

/-! ## Windows (R195, R198, R200) -/

/-- A position lies in the tail. -/
def VatProfile.posOk (q : VatProfile) (p : Nat) : Bool := decide (p + q.wlen ≤ q.tail)

/-- A window at a position meets a placed one. -/
def VatProfile.meets (q : VatProfile) (p : Nat) (w : BitVec 8) : Bool :=
  w != 0xFF && decide (p < w.toNat + q.wlen) && decide (w.toNat < p + q.wlen)

/-- A window, by number. -/
def VatSlot.at_ (v : VatSlot) (i : Fin 4) : BitVec 8 := v.win[i]

/-- Some window other than i meets a position. -/
def VatSlot.meets (v : VatSlot) (q : VatProfile) (p : Nat) (i : Fin 4) : Bool :=
  (List.finRange 4).any (fun j => j != i && q.meets p (v.at_ j))

/-- A window is placed or swapped in, with its coefficients. -/
def VatSlot.place (v : VatSlot) (i : Fin 4) (p co : Nat) : VatSlot :=
  { v with win := v.win.set i (BitVec.ofNat 8 p), coefs := v.coefs.set i co, low := v.low.set i 0, relocs := v.relocs + 1 }

/-- A window becomes unused. -/
def VatSlot.release (v : VatSlot) (i : Fin 4) : VatSlot :=
  { v with win := v.win.set i 0xFF, coefs := v.coefs.set i 0, low := v.low.set i 0 }

/-- The shadow that adapted for a window goes. -/
def VatSlot.dropShadow (v : VatSlot) (i : Fin 4) : VatSlot :=
  match v.shadow with
  | some (_, j, _) => if j = i then { v with shadow := none } else v
  | none => v

/-- The hint of window i takes effect: taken, left to the search, or bad (R200). Windows of a higher index that a taken
hint meets are released, since windows never overlap. -/
def VatSlot.hint (v : VatSlot) (q : VatProfile) (h : Nat) (i : Fin 4) : VatSlot × Bool :=
  let idle := { v with hinted := v.hinted.set i false }
  if h = 0xFF then (idle, false)
  else if q.nwin ≤ i.val ∨ !q.posOk h ∨ (List.finRange 4).any (fun j => decide (j < i) && q.meets h (v.at_ j)) then (idle, true)
  else
    let w := v.dropShadow i
    let w1 := if w.at_ i = BitVec.ofNat 8 h then w else w.place i h 0
    let w2 := { w1 with hinted := w1.hinted.set i true, low := w1.low.set i 0 }
    ((List.finRange 4).foldl (fun (a : VatSlot) j => if i < j ∧ q.meets h (a.at_ j) then a.release j else a) w2, false)

/-- Hints that differ from those last taken take effect, in order; bad ones are counted. -/
def State.takeHints (s : State) (n : Nat) (a : Nat) (tid : BitVec 18) (hints : Word) : State :=
  let v := s.vat a
  if v.hints = hints then s
  else
    let o := (List.finRange 4).foldl (fun (x : VatSlot × Nat) i =>
      let y := x.1.hint v.q (bits hints.toNat (8 * i.val + 7) (8 * i.val)) i
      (y.1, x.2 + b2n y.2)) ({ v with hints := hints }, 0)
    let s1 := (s.setVat a o.1).vatCount n (VAT.RELOCS_LO n) (o.1.relocs - v.relocs).toNat
    if o.2 = 0 then s1
    else
      ((s1.setCluster n { s1.cluster n with hintBad := (s1.cluster n).hintBad + o.2 }).vatLog n 3 tid).raise
        (VAT.EVT n) F.VAT_EVT_HINT

/-! ## Initialisation (R206) -/

/-- The bytes of a Vat slot. -/
def vatBytes (wide : Bool) : Nat := if wide then 24576 else 12288

/-- A slot is initialised: zero coefficients, no windows, and ECWIN of all 0xFF in the header and in the context. The profile's
values are read (R216). -/
def State.vatInit (s : State) (n k a prof : Nat) (wide : Bool) : State :=
  ((((s.zeroRange a (a + vatBytes wide)).writeLe (a + 4) 4 0xFFFFFFFF).writeLe (slotDpa n k + 168) 4 0xFFFFFFFF).setVat a
    { VatSlot.init with
      inited := true, profile := prof, q := s.vatProfile n prof, wide := wide, reinits := (s.vat a).reinits + 1 }).vatCount
      n (VAT.REINITS_LO n) 1

/-- A slot that must be is initialised before its request; whether it was. -/
def State.vatReady (s : State) (n k a prof : Nat) (wide : Bool) : State × Bool :=
  let v := s.vat a
  if s.poisonedIn a (vatBytes wide) then
    (((s.vatInit n k a prof wide).vatLog n 1 (s.slot n k).tid).raise (VAT.EVT n) F.VAT_EVT_REINIT, true)
  else if !v.inited || v.profile != prof || v.wide != wide then (s.vatInit n k a prof wide, true)
  else (s, false)

/-! ## References (R196, R197, R214) -/

/-- Samples of a block tagged before an instant. -/
def RefBlock.before (b : RefBlock) (t : Nat) : Nat :=
  if t ≤ b.tag then 0 else min b.samples.length ((t - b.tag + (b.step - 1)) / b.step)

/-- The sample of a block for an instant, where it holds one. -/
def RefBlock.at_ (b : RefBlock) (t : Nat) : Option (BitVec 16) :=
  if b.tag ≤ t then b.samples[(t - b.tag) / b.step]? else none

/-- The reference sample held for an instant: that of the newest block that has one (R197). -/
def VatSlot.refAt (v : VatSlot) (t : Nat) : Option (BitVec 16) := v.refs.reverse.findSome? (fun b => b.at_ t)

/-- A reference block reaches its slot, which is initialised first where it must be: its late samples are discarded, the
others held in place of those held for the same instants. -/
def State.takeRef (s : State) (n k a prof : Nat) (wide : Bool) (b : RefBlock) : State :=
  let s0 := (s.vatReady n k a prof wide).1
  let v := s0.vat a
  let late := b.before v.done
  let keep : RefBlock := ⟨b.tag + late * b.step, b.step, b.samples.drop late⟩
  let s1 := s0.setVat a { v with refs := if keep.samples.isEmpty then v.refs else v.refs ++ [keep] }
  let s2 := (s1.vatCount n (VAT.REFBLOCKS_LO n) 1).vatCount n (VAT.REFLATE_LO n) late
  if late = 0 then s2 else s2.raise (VAT.EVT n) F.VAT_EVT_REF

/-- A reference block is discarded whole. -/
def State.dropRef (s : State) (n : Nat) (tid : BitVec 18) : State :=
  ((s.vatCount n (VAT.REFDROP_LO n) 1).vatLog n 2 tid).raise (VAT.EVT n) F.VAT_EVT_REF

/-- References at the head of the queue reach their slots. -/
def State.drainRefs : Nat → State → Nat → State
  | 0, s, _ => s
  | f + 1, s, n =>
    match (s.cluster n).vatQueue with
    | .ref k a p wide b :: q => State.drainRefs f ((s.setVatQueue n q).takeRef n k.toNat a p wide b) n
    | .ec _ _ :: _ => s
    | [] => s

/-- The tag of the first egress frame that R176 gives a LINE context at a boundary; the boundary plus OUTLEAD elsewhere. -/
def State.refTag (s : State) (c : List Byte) (boundary : Nat) : Nat :=
  let at_ := (boundary + ctxOutLead c) * 1000
  if ctxKind c = 0 ∧ s.tdmOn (ctxPort c) ∧ (s.tdm (ctxPort c)).ready then
    ((s.tdm (ctxPort c)).outAt + (s.frameAt (ctxPort c) at_ - (s.tdm (ctxPort c)).outNext) * s.tdmPeriod (ctxPort c)).toNat
  else at_

/-- The rate in kHz of a canceller's slot, fixed at commit: that of the EC's BI. -/
def State.ecKhz (s : State) (n : Nat) (c : List Byte) : Nat := if (s.figures n c).units.vat = 2 then 16 else 8

/-- The slot that an EC.REF delivers to: LIVE, with an EC. -/
def State.refTarget (s : State) (n k : Nat) (r : Run) (w : Nat) : Option (Nat × List Byte) :=
  let own : Option (Nat × List Byte) :=
    if !ciS w then some (k, r.ctx) else (s.livePeer n r.ctx).map (fun j => (j, s.ctx n j))
  match own with
  | some (j, c) => if (s.ecProfile c).isSome then some (j, c) else none
  | none => none

/-- EC.REF: the block is queued for its slot, and BO := BI. -/
def ecRef (n k : Nat) (s : State) (r : Run) (w : Nat) : State × Option Block × Nat :=
  let b := r.block (ciBi w)
  match s.refTarget n k r w with
  | none =>
    (s.dropRef n (s.slot n k).tid, some b, if ciS w && (s.livePeer n r.ctx).isNone then 1 else 0)
  | some (j, c) =>
    if b.missing then (s, some b, 0)
    else if rateKhz b.rate.val ≠ s.ecKhz n c then (s.dropRef n (s.slot n j).tid, some b, 0)
    else
      let x : RefBlock := ⟨s.refTag c r.boundary, 1000000 / rateKhz b.rate.val, b.samples⟩
      let q : VatReq := .ref (BitVec.ofNat 13 j) (ctxVatSlot c) ((s.ecProfile c).getD 0) (s.ecKhz n c == 16) x
      ((s.setVatQueue n ((s.cluster n).vatQueue ++ [q])).drainRefs 1 n, some b, 0)

/-- The queue has room (R210); a request that finds it full waits at the sequencer. -/
def State.vatRoom (s : State) (n : Nat) : Bool := decide ((s.cluster n).vatQueue.length < 512)

def execEcRef (cl : Fin 32) (slot : BitVec 13) (chain : Fin 2) (s : State) : Result :=
  .next (s.chainDone cl slot.toNat chain (fun w => ciOp w == opEcRef && s.vatRoom cl) (ecRef cl slot.toNat))

/-! ## Requests (R197, R201 to R204, R207, R210, R211, R213) -/

/-- EC: the request is queued, and the run waits for it. -/
def execEc (cl : Fin 32) (slot : BitVec 13) (chain : Fin 2) (s : State) : Result :=
  .next (s.chainOp cl slot.toNat chain (fun w => ciOp w == opEc && s.vatRoom cl) (fun u r _ =>
    (u.setRun cl slot.toNat chain (some { r with wait := .vat })).setVatQueue cl
      ((u.cluster cl).vatQueue ++ [.ec slot chain])))

/-- The tag of a block's sample (R196). -/
def Block.tagOf (b : Block) (i : Nat) : Nat := b.tags.getD i (b.tag + 1000000 / rateKhz b.rate.val * i)

/-- The tag after a block's last sample. -/
def Block.endTag (b : Block) : Nat := b.tagOf (b.samples.length - 1) + 1000000 / rateKhz b.rate.val

/-- No reference is held for an instant since the slot's first near-end sample. -/
def VatSlot.missing (v : VatSlot) (t : Nat) : Bool :=
  (match v.start with | some a => decide (a ≤ t) | none => false) && (v.refAt t).isNone

/-- Reference samples that a block needs first and that are not held: those since the block before, as far as the tail goes. -/
def VatSlot.gaps (v : VatSlot) (b : Block) : Nat :=
  let step := 1000000 / rateKhz b.rate.val
  let from_ := if v.done = 0 then b.tag else max v.done (b.tag - 2000000 * v.q.tail)
  let early := (List.range ((b.tag - from_) / step)).map (fun i => b.tag - step * (i + 1))
  ((early ++ (List.range b.samples.length).map b.tagOf).filter (fun t => (v.refAt t).isNone)).length

/-- The instants of the references that a window at a position needs for a block. -/
def VatSlot.span (v : VatSlot) (b : Block) (p : Nat) : List Nat :=
  let khz := rateKhz b.rate.val
  (List.range (b.samples.length + 2 * v.q.wlen * khz)).map (fun j =>
    b.tag + 1000000 / khz * j - 2000000 * (p + v.q.wlen))

/-- The references of a window at a position, 0 where none is held (R197). -/
def VatSlot.window (v : VatSlot) (b : Block) (p : Nat) : List (BitVec 16) := (v.span b p).map (fun t => (v.refAt t).getD 0)

/-- A window's references for a block are not all held. -/
def VatSlot.holes (v : VatSlot) (b : Block) : Bool :=
  (List.finRange 4).any (fun i => v.at_ i != 0xFF && (v.span b (v.at_ i).toNat).any v.missing)

/-- What coefficients at a position take from a sample; zero coefficients take nothing (R198). -/
def VatSlot.part (v : VatSlot) (b : Block) (p co i : Nat) : Int := if co = 0 then 0 else Config.echo co (v.window b p) i

/-- What a window takes from a sample: cross-faded over 8 ms from those it replaced, and faded to zero over 16 ms once it has
stayed low for 256 ms (R198, R199). -/
def VatSlot.takes (v : VatSlot) (b : Block) (i : Nat) (w : Fin 4) : Int :=
  let khz := rateKhz b.rate.val
  let new := v.part b (v.at_ w).toNat v.coefs[w] i
  let x := match v.fade with
    | some (j, p, co, done) =>
      if j = w then
        let g : Int := (Config.fadeWeight (done + i) (8 * khz) : Nat)
        (new * g + v.part b p.toNat co i * (32768 - g)) / 32768
      else new
    | none => new
  if 256 ≤ v.low[w] then
    x * (32768 - (Config.fadeWeight ((v.low[w] - 256) * khz + i) (16 * khz) : Nat)) / 32768
  else x

/-- The residual: the near end less what the windows in use take (R194). -/
def VatSlot.residual (v : VatSlot) (b : Block) : List (BitVec 16) :=
  b.samples.zipIdx.map (fun e =>
    let l := (List.finRange 4).map (fun w => if v.at_ w = 0xFF then 0 else v.takes b e.2 w)
    BitVec.ofNat 16 (ofSigned 16 (clampInt (-32768) 32767 (e.1.toInt - l.sum))))

/-- Coefficients adapt: those of the windows unless adaptation has stopped, and the shadow's unless all has (R201, R211). -/
def VatSlot.adapt (v : VatSlot) (b : Block) (xs : List (BitVec 16)) (stopped still : Bool) : VatSlot :=
  let next (p co : Nat) : Nat := Config.adapt v.q.step co (v.window b p) xs
  { v with
    coefs := if stopped then v.coefs
      else Vector.ofFn (fun i => if v.at_ i = 0xFF then v.coefs[i] else next (v.at_ i).toNat v.coefs[i])
    shadow := if still then v.shadow else v.shadow.map (fun e => (e.1, e.2.1, next e.1.toNat e.2.2)) }

/-- How long each window has stayed 40 dB below the strongest; a hinted one is not released (R199, R200). -/
def VatSlot.fadeLow (v : VatSlot) (ms : Nat) : VatSlot :=
  let top := ((List.finRange 4).filter (fun i => v.at_ i != 0xFF)).map (fun i => Config.energy v.coefs[i])
  { v with low := Vector.ofFn (fun i =>
      if v.at_ i != 0xFF && !v.hinted[i] && top.any (fun m => decide (Config.energy v.coefs[i] + 400 ≤ m))
      then v.low[i] + ms else 0) }

/-- A frame of 5 ms passes through a detector of answer tones (R204). -/
def Answer.frame (d : Answer) (khz tag : Nat) (xs : List (BitVec 16)) : Answer :=
  let present := (components khz xs).any (fun c => decide (apart c.1 21000 ≤ 210) && decide (-310 ≤ c.2))
  let memory := Config.remember d.memory xs
  if !present then { Answer.init with memory := memory }
  else
    let base := if d.ms = 0 then tag else d.revTag
    let x : Answer := { d with ms := d.ms + 5, revTag := base, memory := memory }
    match Config.phaseStep d.memory xs with
    | none => x
    | some (i, deg) =>
      let at_ := tag + i * 5000000 / xs.length
      if apart (deg % 360) 180 ≤ 25 ∧ apart at_ (base + 450000000) ≤ 25000000 then { x with revTag := at_, revs := d.revs + 1 }
      else { x with revTag := at_ }

/-- A tone has qualified: it has lasted 400 ms. -/
def Answer.on (d : Answer) : Bool := decide (400 ≤ d.ms)

/-- The tone disabler over a block: both directions are heard, and it may engage (R204). -/
def VatSlot.listen (v : VatSlot) (b : Block) (far : List (BitVec 16)) : VatSlot :=
  let khz := rateKhz b.rate.val
  let per := 5 * khz
  let l := (framesOf per (b.samples.length / per) b.samples).zip (framesOf per (far.length / per) far)
  let quiet (xs : List (BitVec 16)) : Bool := match frameLevel xs with | none => true | some g => decide (g < 10 * v.q.disLev)
  let w := l.zipIdx.foldl (fun (u : VatSlot) e =>
    let tag := b.tagOf (per * e.2)
    { u with
      near := u.near.frame khz tag e.1.1, far := u.far.frame khz tag e.1.2
      quiet := if quiet e.1.1 && quiet e.1.2 then u.quiet + 5 else 0 }) v
  let any (f : Answer → Bool) : Bool := f w.near || f w.far
  { w with disabled :=
      if w.q.disabler = 2 ∧ any (fun d => d.on && decide (2 ≤ d.revs)) then 2
      else if w.q.disabler ≠ 0 ∧ w.disabled = 0 ∧ any Answer.on then 1
      else w.disabled }

/-- Double talk is met in a block: the near end exceeds the expected echo by more than DTDTHR, or the coherence is low (R201). -/
def VatSlot.talks (v : VatSlot) (b : Block) : Bool :=
  match frameLevel b.samples with
  | none => false
  | some near =>
    let expected := Config.vatMeasure v.memory .refLevel 16 - Config.vatMeasure v.memory .erl 256
    decide (expected + 10 * v.q.dtThr < near) || decide (Config.vatMeasure v.memory .coherence 16 < 500)

/-- Release of the NLP in ns (R202). -/
def nlpRelease (nlp : Nat) : Nat := if nlp ≤ 5 then 20000000 else if nlp = 6 then 30000000 else 60000000

/-- Double talk and the NLP after a block that ends at a tag (R201, R202). -/
def VatSlot.gates (v : VatSlot) (b : Block) (nlp end_ : Nat) : VatSlot :=
  let met := v.talks b
  let dt := met || v.dt
  let may := nlp != 0 && v.disabled == 0 && (!dt || (nlp == 7 && !met))
  let engages := may && decide (Config.backLevel v.back < Config.vatMeasure v.memory .echo 16)
  { v with
    dt := dt, dtEnd := if met then end_ + v.q.dtHold else v.dtEnd
    nlpOn := engages || (v.nlpOn && may), nlpEnd := if engages then end_ + nlpRelease nlp else v.nlpEnd }

/-- The gain of 32,768 of an attenuation of 6 × NLP dB. -/
def nlpGain (nlp : Nat) : Nat := ([32768, 16423, 8231, 4125, 2068, 1036] : List Nat).getD nlp 32768

/-- A sample at a gain. -/
def atGain (v : BitVec 16) (g : Nat) : BitVec 16 := BitVec.ofInt 16 ((v.toInt * g + 16384) / 32768)

/-- The gain that the NLP has at the end of a block. -/
def VatSlot.gainOf (v : VatSlot) (nlp : Nat) : Nat := if v.nlpOn && decide (nlp ≤ 5) then nlpGain nlp else 32768

/-- Level of the comfort noise: that of the background in steps of 0.5 dB, capped at CNGMAX (R203). -/
def VatSlot.comfortLevel (v : VatSlot) : Int := min (Config.backLevel v.back / 5 * 5) (10 * v.q.cngMax)

/-- What replaces the signal (R203). -/
def VatSlot.replaced (v : VatSlot) (end_ : Nat) (xs : List (BitVec 16)) : List (BitVec 16) :=
  if v.q.cng = 1 then xs.map (fun _ => 0)
  else if v.q.cng = 2 then xs.map (fun x => atGain x 1036)
  else xs.zipIdx.map (fun e => Config.comfort v.back v.comfortLevel end_ e.2)

/-- The output of a residual: the NLP's gain, ramped over 4 ms from the one before, or what replaces it (R202, R203). -/
def VatSlot.output (v : VatSlot) (nlp gain khz end_ : Nat) (xs : List (BitVec 16)) : List (BitVec 16) :=
  if v.nlpOn && decide (6 ≤ nlp) then v.replaced end_ xs
  else
    let g := v.gainOf nlp
    xs.zipIdx.map (fun e =>
      let h : Int := if e.2 < 4 * khz then gain + ((g : Int) - gain) * (Config.fadeWeight e.2 (4 * khz) : Nat) / 32768 else g
      atGain e.1 h.toNat)

/-- The first word of the slot header (R207). -/
def VatSlot.stateCode (v : VatSlot) (load fresh : Bool) : Nat :=
  if load then 6
  else if v.disabled = 2 then 5
  else if v.disabled = 1 then 4
  else if v.win.toList.all (fun w => w == 0xFF) then (if fresh then 0 else 1)
  else if Config.converged v.memory then 3 else 2

/-- The slot header, in four aligned stores. -/
def State.vatHeader (s : State) (n a : Nat) (tid : BitVec 18) (state : Nat) (frozen : Bool) : State :=
  let v := s.vat a
  let w0 := state * 2 ^ 28 + b2n v.wide * 2 ^ 27 + b2n v.dt * 2 ^ 26 + b2n v.nlpOn * 2 ^ 25 + b2n frozen * 2 ^ 24 +
    v.profile * 2 ^ 20 + tid.toNat
  let lev := v.field .refLevel 256 * 65536 + v.field .nearLevel 256
  let res := v.field .residual 256 * 65536 + ofSigned 16 (clampInt (-32768) 32767 (Config.backLevel v.back))
  (((s.writeLe a 8 (w0 + 2 ^ 32 * leNat v.win.toList)).writeLe (a + 8) 8 (v.loss v.done 256 + 2 ^ 32 * lev)).writeLe (a + 16) 8
    (res + 2 ^ 32 * (v.reinits.toNat * 65536 + v.relocs.toNat))).writeLe (a + 24) 8 (s.tb2sOn (dieOf n)).toNat

/-- A request processes a block: the slot after it, and the output. `still` says that adaptation, search and shadows are
stopped in the cluster. -/
def VatSlot.process (v : VatSlot) (b : Block) (nlp : Nat) (still : Bool) : VatSlot × List (BitVec 16) × Bool :=
  let khz := rateKhz b.rate.val
  let ms := b.samples.length / khz
  let end_ := b.endTag
  let far := (List.range b.samples.length).map (fun i => (v.refAt (b.tagOf i)).getD 0)
  let v0 := v.listen b far
  let xs := v0.residual b
  let gap := 0 < v.gaps b ∨ v.holes b
  let speech := !far.all (fun x => x == 0) && Config.speech v.memory far
  let v1 := { v0 with
    memory := Config.remember v0.memory (b.samples ++ far ++ xs), speech := speech
    fade := v0.fade.bind (fun f => if 8 * khz ≤ f.2.2.2 + b.samples.length then none else some (f.1, f.2.1, f.2.2.1, f.2.2.2 + b.samples.length)) }
  let v2 := v1.gates b nlp end_
  let hold := v2.q.freeze || still || v2.disabled == 2
  let frozen := v2.dt || hold || decide gap
  let v3 := (v2.adapt b xs frozen hold).fadeLow ms
  let calm := !speech && !(frameLevel b.samples).isNone && !Config.speech v.memory b.samples
  let v4 := { v3 with
    back := if calm then Config.background v3.back b.samples else v3.back
    single := if speech && !v3.dt then end_ else v3.single
    gain := v3.gainOf nlp, start := some (v3.start.getD b.tag), done := end_
    refs := v3.refs.filter (fun x => decide (end_ ≤ x.tag + x.step * x.samples.length + (2 * v3.q.tail + 32) * 1000000)) }
  (v4, if v4.disabled = 2 then b.samples else v4.output nlp v.gain khz end_ xs, frozen)

/-- The end of a request of a run. -/
def State.vatRequest (s : State) (n k : Nat) (chain : Fin 2) (ecc : Ecc) : State :=
  match s.run n k chain with
  | none => s
  | some r =>
    let w := s.runInstr r chain
    let b := r.block (ciBi w)
    let tid := (s.slot n k).tid
    let a := ctxVatSlot r.ctx
    let prof := bits w 45 42
    let u := (s.eccAt a ecc).vatReady n k a prof (s.ecKhz n r.ctx == 16)
    let s1 := u.1.takeHints n a tid (BitVec.ofNat 32 (ctxW r.ctx 13))
    let load := (s1.bypassed n).contains k
    let v0 := s1.vat a
    let idle := b.missing || load
    let still := s1.rf (VAT.STATUS n) F.VAT_STATUS_MODE != 0
    let gap := if idle then 0 else v0.gaps b
    let o := if idle then (if load && !b.missing then { v0 with done := b.endTag } else v0, b.samples, true) else v0.process b (ctxNlp r.ctx) still
    let s2 := (s1.setVat a o.1).vatCount n (VAT.REFGAP_LO n) gap
    let s3 := if gap = 0 then s2 else s2.raise (VAT.EVT n) F.VAT_EVT_REF
    let s4 := if v0.disabled = 0 ∧ o.1.disabled ≠ 0
      then (s3.vatCount n (VAT.DISABLES_LO n) 1).raise (VAT.EVT n) F.VAT_EVT_DISABLE else s3
    let s5 := if load then (s4.vatCount n (VAT.LOADBYPASS_LO n) 1).vatLog n 4 tid else s4
    let s6 := s5.vatHeader n a tid (o.1.stateCode load u.2) o.2.2
    (s6.vatCount n (VAT.REQUESTS_LO n) 1).instrDone n k chain (some { b with samples := o.2.1 })

/-- EC_REQUEST_COMPLETE: the request at the head of the queue ends, and the references behind it reach their slots. -/
def State.vatComplete (s : State) (n : Nat) (ecc : Ecc) : State :=
  match (s.cluster n).vatQueue with
  | .ec k chain :: q =>
    if s.dormant then s
    else ((s.setVatQueue n q).vatRequest n k.toNat chain ecc).drainRefs q.length n
  | .ref _ _ _ _ _ :: _ => s.drainRefs (s.cluster n).vatQueue.length n
  | [] => s

def execEcRequestComplete (cl : Fin 32) (ecc : Ecc) (s : State) : Result := .next (s.vatComplete cl ecc)

/-! ## Search and release (R198, R199, R201, R202, R204) -/

/-- A LIVE slot whose canceller is initialised: its Vat slot. -/
def State.vatOf (s : State) (n k : Nat) : Option Nat :=
  let c := s.ctx n k
  if (s.ecProfile c).isSome ∧ (s.slot n k).st = .live ∧ (s.vat (ctxVatSlot c)).inited ∧ !s.dormant then some (ctxVatSlot c)
  else none

/-- A step of a slot's canceller. -/
def State.vatStep (s : State) (n k : Nat) (f : State → Nat → VatSlot → State) : State :=
  (s.vatOf n k).elim s (fun a => f s a (s.vat a))

/-- Placement, swaps and release: not with a load mode, the filter bypassed, or no far-end speech (R199, R204, R211). -/
def State.vatMoves (s : State) (n : Nat) (v : VatSlot) : Bool :=
  s.rf (VAT.STATUS n) F.VAT_STATUS_MODE == 0 && v.disabled != 2 && v.speech

/-- The window of least coefficient energy among those that the search may move. -/
def VatSlot.weakest (v : VatSlot) : Option (Fin 4) :=
  ((List.finRange 4).filter (fun i => decide (i.val < v.q.nwin) && v.at_ i != 0xFF && !v.hinted[i])).foldl (fun b i => match b with
    | some j => if Config.energy v.coefs[i] < Config.energy v.coefs[j] then some i else some j
    | none => some i) none

/-- A window covers a lag in 0.5 ms. -/
def VatSlot.covers (v : VatSlot) (lag : Nat) : Bool :=
  v.win.toList.any (fun w => w != 0xFF && decide (4 * w.toNat ≤ lag) && decide (lag < 4 * (w.toNat + v.q.wlen)))

/-- A candidate that no window covers: at max(0, lag − 2 ms), within the tail, the lowest unused window is placed, or a shadow
adapts (R198). Where it explains the excess of the near end, double talk is over (R201). -/
def VatSlot.candidate (v : VatSlot) (lag : Nat) : VatSlot :=
  let p := min ((lag - 4) / 4) (v.q.tail - v.q.wlen)
  let v1 := { v with dt := v.dt && !Config.explains v.memory lag }
  if v.covers lag then v
  else match (List.finRange 4).find? (fun i => decide (i.val < v.q.nwin) && v.at_ i == 0xFF) with
    | some i => if v.meets v.q p i then v else v1.place i p 0
    | none =>
      match v.shadow, v.weakest with
      | none, some i => if v.meets v.q p i then v else { v1 with shadow := some (BitVec.ofNat 8 p, i, 0) }
      | _, _ => v

/-- The candidates of a pass: lags within 20 dB of the strongest, the strongest first. -/
def VatSlot.lags (v : VatSlot) : List Nat :=
  let l := (Config.correlation v.memory).filter (fun e => decide (e.1 < 4 * v.q.tail))
  let top := (l.map (·.2)).max?
  (sortBy (l.filter (fun e => match top with | some m => decide (m - 200 ≤ e.2) | none => false)) (fun a b => decide (b.2 ≤ a.2))).map (·.1)

/-- The shadow replaces the weakest window where its error is 6 dB below, with a cross-fade of 8 ms (R198). -/
def VatSlot.swap (v : VatSlot) : VatSlot :=
  match v.shadow, v.weakest with
  | some (p, _, co), some i =>
    if v.meets v.q p.toNat i then { v with shadow := none }
    else if Config.errorEnergy v.memory p.toNat co + 60 ≤ Config.errorEnergy v.memory (v.at_ i).toNat v.coefs[i] then
      ({ v with shadow := none, fade := some (i, v.at_ i, v.coefs[i], 0) }).place i p.toNat co
    else v
  | some _, none => { v with shadow := none }
  | none, _ => v

/-- VAT_SEARCH: every 64 ms of TB2 with far-end speech, a pass over the tail. -/
def State.vatSearch (s : State) (n k : Nat) : State :=
  s.vatStep n k (fun u a v =>
    if v.q.noSearch || !u.vatMoves n v || decide (u.tb2nsOn (dieOf n) < v.search) then u
    else
      let v1 := v.lags.foldl VatSlot.candidate v.swap
      (u.setVat a { v1 with search := u.tb2nsOn (dieOf n) + 64000000 }).vatCount n (VAT.RELOCS_LO n) (v1.relocs - v.relocs).toNat)

def execVatSearch (cl : Fin 32) (slot : BitVec 13) (s : State) : Result := .next (s.vatSearch cl slot.toNat)

/-- WINDOW_RELEASE: a window that has stayed 40 dB below the strongest for 256 ms and has faded over 16 ms becomes unused. -/
def State.windowRelease (s : State) (n k i : Nat) : State :=
  s.vatStep n k (fun u a v =>
    if h : i < 4 then
      if !u.vatMoves n v || v.win[i] == 0xFF || decide (v.low[i] < 272) then u
      else u.setVat a ((v.dropShadow ⟨i, h⟩).release ⟨i, h⟩)
    else u)

def execWindowRelease (cl : Fin 32) (slot : BitVec 13) (w : Fin 8) (s : State) : Result :=
  .next (s.windowRelease cl slot.toNat w)

/-- DOUBLE_TALK_HOLD_END: DTDHOLD after the last block that met its conditions the declaration ends (R201). -/
def execDoubleTalkHoldEnd (cl : Fin 32) (slot : BitVec 13) (s : State) : Result :=
  .next (s.vatStep cl slot.toNat (fun u a v => if u.tb2nsOn (dieOf cl) < v.dtEnd then u else u.setVat a { v with dt := false }))

/-- NLP_RELEASE: the NLP lets go at the end of its release (R202). -/
def execNlpRelease (cl : Fin 32) (slot : BitVec 13) (s : State) : Result :=
  .next (s.vatStep cl slot.toNat (fun u a v => if u.tb2nsOn (dieOf cl) < v.nlpEnd then u else u.setVat a { v with nlpOn := false }))

/-- DISABLER_RELEASE: both directions have stayed below DISLEV for DISHOLD; the coefficients are held (R204). -/
def execDisablerRelease (cl : Fin 32) (slot : BitVec 13) (s : State) : Result :=
  .next (s.vatStep cl slot.toNat (fun u a v =>
    if v.quiet < v.q.disHold then u else u.setVat a { v with disabled := 0, near := Answer.init, far := Answer.init }))

end Sys2Proof.Machine
end

