-- ==== Sys2Proof/Machine/Tones.lean ====
section
/-!
DEFINITION. The tone bank: TONE.DET and TONE.GEN (R217 to R229). What is measured in a frame, and the wave of a tone, are open
(log 8); limits, counting, cadences, muting, records, strings, patterns, ramps and sums are exact.
-/

namespace Sys2Proof.Machine

/-! ## Records (R222) -/

/-- A record that an instruction makes: its tag, type, code and duration, and its level in 0.1 dBm0 (R222). -/
structure ToneRec where
  tag : Nat
  typ : Nat
  code : Nat
  dur : Nat
  level : Int
  deriving DecidableEq, Repr

def State.toneBump (s : State) (n ctr k : Nat) : State :=
  if k = 0 then s else s.bumpBy ctr k (TONE.EVT n) F.TONE_EVT_TCNT

/-- An entry of the tone bank's log: 1 record lost, 2 code skipped. -/
def State.toneLog (s : State) (n cause : Nat) (tid : BitVec 18) : State :=
  if s.rb (TONE.ERR_LOG n) F.TONE_ERR_LOG_VALID then s
  else s.wv (TONE.ERR_LOG n) (2 ^ 31 + cause * 2 ^ 24 + tid.toNat)

/-- An accelerator of a cluster as a producer: 0 Vat, 1 tone bank, 2 resampler, 3 VDE (R132). -/
def accelProducer (n : Nat) (u : Fin 8) : Producer := .accel ⟨n % 32, Nat.mod_lt _ (by decide)⟩ u

/-- A record is posted to the termination's event cask, where EVMASK lets it; a refused one is lost. -/
def State.toneRecord (s : State) (n k : Nat) (c : List Byte) (r : ToneRec) : State :=
  let tid := (s.slot n k).tid
  let level := ofSigned 8 (clampInt (-128) 127 (r.level / 10))
  let s1 := if r.typ = 0x10 ∨ r.typ = 0x12 ∨ r.typ = 0x13
    then (s.setSlot n k { s.slot n k with lastTone := BitVec.ofNat 8 r.code }).toneBump n (TONE.DETECTS_LO n) 1 else s
  if !ctxEvMask c 0 then s1
  else
    let h := ctxEvCask c
    let p := accelProducer n 1
    let w := recordWord r.typ tid r.code level r.dur r.tag
    if s1.recordFits h p then (s1.postRecord h p w).toneBump n (TONE.RECPOSTED_LO n) 1
    else ((((s1.postRecord h p w).toneBump n (TONE.RECLOST_LO n) 1).toneLog n 1 tid).raise (TONE.EVT n) F.TONE_EVT_LOST)

/-- The records of one instruction, by tag and then by code. -/
def State.toneRecords (s : State) (n k : Nat) (c : List Byte) (l : List ToneRec) : State :=
  each s (sortBy l (fun a b => decide (a.tag < b.tag) || (a.tag == b.tag && decide (a.code ≤ b.code))))
    (fun u r => u.toneRecord n k c r)

/-! ## Detection (R217 to R219, R221) -/

/-- Frames that a code needs. -/
def State.toneOn (s : State) (n p code : Nat) : Nat :=
  if code < 0x20 then s.rf (TONE.DPW1 n p) F.TONE_DPW1_DTMFON
  else if code = 0x2A then s.rf (TONE.DPW2 n p) F.TONE_DPW2_MFON + 5
  else if code < 0x40 then s.rf (TONE.DPW2 n p) F.TONE_DPW2_MFON
  else if code < 0x60 then s.rf (TONE.DPW2 n p) F.TONE_DPW2_R2ON
  else 80

/-- Codes of the signalling detectors that a profile enables, in the order of R218. -/
def State.sigCodes (s : State) (n p : Nat) : List Nat :=
  let w := s.rv (TONE.DPW0 n p)
  let on (b lo m : Nat) : List Nat := if bit w b then (List.range m).map (fun i => lo + i) else []
  on 0 0x01 16 ++ on 1 0x20 15 ++ on 2 0x40 15 ++ on 3 0x50 15

/-- The limits of the detector of a signalling code (R218). -/
def State.sigLimits (s : State) (n p code : Nat) : PairLimits :=
  let min (a : Nat) (f : Fld) : Int := toSigned 8 (s.rf a f)
  if code < 0x20 then ⟨.permille 15 35, min (TONE.DPW1 n p) F.TONE_DPW1_DTMFMIN, s.rf (TONE.DPW1 n p) F.TONE_DPW1_FTWIST,
    s.rf (TONE.DPW1 n p) F.TONE_DPW1_RTWIST⟩
  else if code < 0x40 then ⟨.permille 15 35, min (TONE.DPW2 n p) F.TONE_DPW2_MFMIN, s.rf (TONE.DPW2 n p) F.TONE_DPW2_MFTWIST,
    s.rf (TONE.DPW2 n p) F.TONE_DPW2_MFTWIST⟩
  else ⟨.hz 10 30, min (TONE.DPW2 n p) F.TONE_DPW2_R2MIN, s.rf (TONE.DPW2 n p) F.TONE_DPW2_R2TWIST,
    s.rf (TONE.DPW2 n p) F.TONE_DPW2_R2TWIST⟩

/-- What a frame qualifies for, with its level in 0.1 dBm0. -/
abbrev Match := Option (Nat × Int)

/-- The signalling code that a frame qualifies for. -/
def State.sigMatch (s : State) (n p : Nat) (cs : List (Nat × Int)) (f : Nat) : Match :=
  ((s.sigCodes n p).filterMap (fun code =>
    (pairTone cs (s.sigLimits n p code) (10 * (codePair code).1) (10 * (codePair code).2) f).map (fun v => (code, v)))).head?

/-- The fax tone that a frame qualifies for: CNG, and an answer tone with the modulation of ANSam or without it. -/
def State.faxMatch (s : State) (n p : Nat) (memory : Nat) (xs : List (BitVec 16)) (cs : List (Nat × Int)) (f : Nat) : Match :=
  let min : Int := toSigned 8 (s.rf (TONE.DPW3 n p) F.TONE_DPW3_FAXMIN)
  if !bit (s.rv (TONE.DPW0 n p)) 4 then none
  else match singleTone cs 11000 (.hz 38 60) min f with
    | some v => some (0x70, v)
    | none =>
      let am := match Config.modulation memory xs with
        | some (hz, depth) => decide (apart hz 1500 ≤ 10) && decide (apart depth 200 ≤ 50)
        | none => false
      (singleTone cs 21000 (.hz 21 50) min (f + 2)).map (fun v => (if am then 0x73 else 0x71, v))

/-- What a step of a detector answers: its state, records, whether the frame is muted, and frames muted in vain. -/
structure DetOut where
  st : DetSt
  recs : List ToneRec
  mute : Bool
  wasted : Nat
  deriving DecidableEq, Repr

/-- A declared signal after a frame of some code: kept, or ended with its record. -/
def Heard.frame (h : Heard) (bridge code tag : Nat) (lev : Int) : Heard × List ToneRec :=
  if code = h.code then ({ h with bad := 0, level := lev }, [])
  else
    let badTag := if h.bad = 0 then tag else h.badTag
    ({ h with bad := h.bad + 1, badTag := badTag },
      if bridge ≤ h.bad then [⟨badTag, 0x11, h.code, min 65535 ((badTag - h.onset) / 1000000), h.level⟩] else [])

/-- A frame at a tag passes through a detector; `on` is what a code needs. -/
def DetSt.frame (d : DetSt) (on : Nat → Nat) (bridge : Nat) (m : Match) (tag : Nat) : DetOut :=
  let code := match m with | some x => x.1 | none => 0
  let lev := match m with | some x => x.2 | none => 0
  let mute := !d.heard.isEmpty || d.cand != 0 || code != 0
  let hs := d.heard.map (fun h => h.frame bridge code tag lev)
  let off := hs.flatMap (·.2)
  let rest := (hs.filter (fun h => h.2.isEmpty)).map (·.1)
  let new := if rest.any (fun h => h.code == code) then 0 else code
  let same := new != 0 && new == d.cand
  let count := if same then d.count + 1 else 1
  let candTag := if same then d.candTag else tag
  let wasted := if d.cand ≠ 0 ∧ !same then d.muted + b2n (code == 0) else 0
  if new = 0 then ⟨⟨0, 0, 0, 0, rest⟩, off, mute, wasted⟩
  else if on new ≤ count then
    ⟨⟨0, 0, 0, 0, rest ++ [⟨new, candTag, lev, 0, 0⟩]⟩, off ++ [⟨candTag, 0x10, new, 0, lev⟩], mute, wasted⟩
  else ⟨⟨new, count, candTag, if same then d.muted + 1 else 1, rest⟩, off, mute, wasted⟩

/-- A phase reversal of a declared answer tone (R219): a step of 180° ± 25° in the window of 450 ms ± 25 ms. One that comes
too early or too late, or an interval of more than 475 ms, restarts the interval from that point. -/
def ToneSt.reversal (t : ToneSt) (xs : List (BitVec 16)) (m : Match) (tag : Nat) : ToneSt × List ToneRec :=
  match t.fax.heard.find? (fun h => h.code == 0x71 || h.code == 0x73), m with
  | some h, some (code, lev) =>
    if code ≠ h.code then (t, [])
    else
      let from_ := max t.revTag h.onset
      match Config.phaseStep t.memory xs with
      | none => (if from_ + 475000000 < tag then ({ t with revTag := from_ + 475000000 }, []) else (t, []))
      | some (i, deg) =>
        let at_ := tag + i * 5000000 / xs.length
        if at_ < from_ + 425000000 ∨ from_ + 475000000 < at_ then ({ t with revTag := at_ }, [])
        else if apart (deg % 360) 180 ≤ 25 then ({ t with revTag := at_ }, [⟨at_, 0x13, code + 1, 0, lev⟩])
        else (t, [])
  | _, _ => (t, [])

/-! ## Call progress (R220) -/

/-- An entry as it is read: programmed intervals in frames, tolerance and cycles. -/
structure CpEntry where
  segs : List Nat
  tol : Nat
  cycles : Nat
  deriving DecidableEq, Repr

def State.cpEntry (s : State) (n e : Nat) : CpEntry :=
  let b (a i : Nat) : Nat := 2 * bits (s.rv a) (8 * i + 7) (8 * i)
  let a := TONE.CPE2 n e
  let c := TONE.CPE3 n e
  let w := TONE.CPE1 n e
  let l := [b a 0, b a 1, b a 2, b a 3, b c 0, b c 1, b c 2, b c 3]
  let m := s.rf w F.TONE_CPE1_NSEG
  ⟨if m = 0 then [b a 0] else l.take (2 * m), s.rf w F.TONE_CPE1_TOL, max 1 (s.rf w F.TONE_CPE1_REPEAT)⟩

/-- The frame in which a tone starts begins the matching. -/
def CadSt.restart (present : Bool) (tag : Nat) : CadSt :=
  if present then ⟨true, 1, true, 0, 0, tag, 0⟩ else ⟨false, 1, false, 0, 0, 0, 0⟩

/-- An interval of m frames fits a programmed one. -/
def CpEntry.fits (e : CpEntry) (i m : Nat) : Bool := decide (m ≤ e.segs.getD i 0 + e.tol) && decide (e.segs.getD i 0 ≤ m + e.tol)

/-- A frame passes through an entry with cadence: the cycles of a record, where it is matched. -/
def CadSt.frame (c : CadSt) (e : CpEntry) (present : Bool) (tag : Nat) : CadSt × Option (Nat × Nat) :=
  if e.segs.length = 1 then
    if !present then (CadSt.init, none)
    else
      let m := if c.present then c.frames + 1 else 1
      let start := if c.present then c.start else tag
      if e.segs.getD 0 0 ≤ m then (CadSt.init, some (start, 0)) else (⟨true, m, true, 0, 0, start, 0⟩, none)
  else if present = c.present then ({ c with frames := c.frames + 1 }, none)
  else if !c.begun || !e.fits c.seg c.frames then (CadSt.restart present tag, none)
  else if c.seg + 1 < e.segs.length then ({ c with present := present, frames := 1, seg := c.seg + 1 }, none)
  else if c.cycles + 1 < e.cycles then ({ c with present := present, frames := 1, seg := 0, cycles := c.cycles + 1 }, none)
  else (CadSt.restart present tag, some (c.start, c.cycles + 1))

/-- The level at which an entry's frequencies pass in a frame, where they do (R218, R220). -/
def State.cpMatch (s : State) (n e : Nat) (cs : List (Nat × Int)) (f : Nat) : Option Int :=
  let f1 := 10 * s.rf (TONE.CPE0 n e) F.TONE_CPE0_F1
  let f2 := 10 * s.rf (TONE.CPE0 n e) F.TONE_CPE0_F2
  let min : Int := toSigned 8 (s.rf (TONE.CPE1 n e) F.TONE_CPE1_MINLEV)
  if f2 = 0 then singleTone cs f1 (.permille 20 50) min f else twoTones cs f1 f2 (.permille 20 50) min f

/-! ## TONE.DET (R217, R223) -/

/-- What the frames of a run have given so far. -/
structure DetRun where
  st : ToneSt
  recs : List ToneRec
  mutes : List Bool
  wasted : Nat
  deriving DecidableEq, Repr

/-- One frame passes through the enabled detectors and entries. -/
def State.detFrame (s : State) (n p khz : Nat) (x : DetRun) (xs : List (BitVec 16)) (tag f : Nat) : DetRun :=
  let bridge := s.rf (TONE.DPW1 n p) F.TONE_DPW1_BRIDGE
  let mask := s.rf (TONE.DPW0 n p) F.TONE_DPW0_CPMASK
  let cs := components khz xs
  let sig := x.st.sig.frame (s.toneOn n p) bridge (s.sigMatch n p cs f) tag
  let faxM := s.faxMatch n p x.st.memory xs cs (f + 5)
  let fax := x.st.fax.frame (s.toneOn n p) bridge faxM tag
  let rev := ({ x.st with sig := sig.st, fax := fax.st } : ToneSt).reversal xs faxM tag
  let cads := x.st.cads.zipIdx.map (fun e =>
    let m := if bit mask e.2 then s.cpMatch n e.2 cs (f + 10 + 4 * e.2) else none
    if bit mask e.2 then (e.1.frame (s.cpEntry n e.2) m.isSome tag, m) else ((CadSt.init, none), none))
  let cadRecs := cads.zipIdx.filterMap (fun e => match e.1.1.2 with
    | some (t, m) => some ⟨t, 0x12, 0x60 + e.2, m, e.1.2.getD e.1.1.1.level⟩
    | none => none)
  { st := { rev.1 with
      cads := cads.map (fun e => { e.1.1 with level := e.2.getD e.1.1.level })
      memory := Config.remember x.st.memory xs }
    recs := x.recs ++ sig.recs ++ fax.recs ++ rev.2 ++ cadRecs
    mutes := x.mutes ++ [sig.mute]
    wasted := x.wasted + sig.wasted }

/-- Free values that a frame may use. -/
def perFrame : Nat := 80

def State.toneAt (s : State) (a : Nat) : ToneSt :=
  match s.area a with
  | .tone t => t
  | _ => ToneSt.init

/-- The frames of a run: their tags and samples. A frame of zeros, of a MISSING block or of a shed instruction does not
qualify. -/
def State.detRun (s : State) (n p khz : Nat) (t : ToneSt) (tag : Nat) (frames : List (List (BitVec 16))) : DetRun :=
  frames.zipIdx.foldl (fun x e =>
    s.detFrame n p khz x e.1 (tag + e.2 * 5000000) (s.freeCount + perFrame * e.2)) ⟨t, [], [], 0⟩

/-- TONE.DET over a block that it may change: its frames, records, and the block with its muted frames. -/
def State.detect (s : State) (n k : Nat) (r : Run) (w : Nat) (b : Block) (shed : Bool) : State × Block :=
  let p := bits w 43 40
  let a := ctxArea r.ctx (ciSoff w)
  let blind := shed || b.missing
  let per := 5 * rateKhz b.rate.val
  let frames := if blind then List.replicate (ctxPeriod r.ctx / 5) [] else framesOf per (ctxPeriod r.ctx / 5) b.samples
  let o := s.detRun n p (rateKhz b.rate.val) (s.toneAt a) (if b.missing then r.boundary * 1000 else b.tag) frames
  let mute := bit w 45 && !blind
  let s1 := (((s.setArea a (.tone o.st)).draw (perFrame * frames.length)).toneRecords n k r.ctx o.recs).toneBump n
    (TONE.FALSEMUTE_LO n) (if bit w 45 then o.wasted - b2n blind else 0)
  let muted := (frames.zip o.mutes).flatMap (fun e => if e.2 then e.1.map (fun _ => 0) else e.1)
  (s1, if mute then { b with samples := muted ++ b.samples.drop (per * frames.length) } else b)

/-! ## TONE.GEN (R224, R225) -/

/-- The codes that a set allows. -/
def setHas (set code : Nat) : Bool :=
  if set = 0 then decide (1 ≤ code) && decide (code ≤ 0x10)
  else if set = 1 then decide (0x20 ≤ code) && decide (code ≤ 0x2E)
  else if set = 2 then decide (0x40 ≤ code) && decide (code ≤ 0x4E)
  else decide (0x50 ≤ code) && decide (code ≤ 0x5E)

/-- A generator profile as it is read: TYPE, samples per ms, the set of a string, its on/off segments in ms, how long a
finite pattern plays in ms, and what sounds. -/
structure GenProfile where
  typ : Nat
  khz : Nat
  set : Nat
  segs : List (Nat × Nat)
  total : Option Nat
  f1 : Nat
  f2 : Nat
  l1 : Int
  l2 : Int
  am : Bool
  rev : Bool
  codes : List Nat
  deriving DecidableEq, Repr

/-- The segments of a string of codes. -/
def stringSegs (on off : Nat) (codes : List Nat) : List (Nat × Nat) :=
  codes.map (fun c => (if c = 0x2A then max 100 (10 * on) else 10 * on, 10 * off))

def segSum (l : List (Nat × Nat)) : Nat := (l.map (fun e => e.1 + e.2)).sum

def State.genProfile (s : State) (n g : Nat) (codes : List Nat) : GenProfile :=
  let w := TONE.GPW0 n g
  let b (a i : Nat) : Nat := bits (s.rv a) (8 * i + 7) (8 * i)
  let x := TONE.GPW2 n g
  let y := TONE.GPW3 n g
  let typ := s.rf w F.TONE_GPW0_TYPE
  let khz := if s.rb w F.TONE_GPW0_RATE then 16 else 8
  let rep := s.rf w F.TONE_GPW0_REPEAT
  let l := [(10 * b x 0, 10 * b x 1), (10 * b x 2, 10 * b x 3), (10 * b y 0, 10 * b y 1), (10 * b y 2, 10 * b y 3)].take
    (s.rf w F.TONE_GPW0_NSEG)
  let on := b x 0
  let mk (segs : List (Nat × Nat)) (total : Option Nat) : GenProfile :=
    ⟨typ, khz, s.rf w F.TONE_GPW0_SET, segs, total, s.rf (TONE.GPW1 n g) F.TONE_GPW1_F1, s.rf (TONE.GPW1 n g) F.TONE_GPW1_F2,
      toSigned 8 (s.rf w F.TONE_GPW0_L1), toSigned 8 (s.rf w F.TONE_GPW0_L2), s.rb w F.TONE_GPW0_AM, s.rb w F.TONE_GPW0_REV, codes⟩
  if typ = 0 then mk l (if rep = 0 ∨ l.isEmpty then none else some (rep * segSum l))
  else if typ = 1 then
    if on = 0 then mk [] (if codes.isEmpty then some 0 else none)
    else mk (stringSegs on (b x 1) codes) (some (segSum (stringSegs on (b x 1) codes)))
  else if rep = 0 then mk [] none
  else mk [(1000 * rep, 0)] (some (1000 * rep))

/-- The segment in which a sample lies: its number, the sample's place in it, and how long it is on. -/
def segAt : List (Nat × Nat) → Nat → Nat → Option (Nat × Nat × Nat)
  | [], _, _ => none
  | e :: t, k, i => if i < e.1 + e.2 then some (k, i, e.1) else segAt t (k + 1) (i - (e.1 + e.2))

/-- The tone of a profile before its ramps, at a sample of its pattern in a segment. -/
def GenProfile.wave (q : GenProfile) (seg i : Nat) : Int :=
  if q.typ = 0 then
    Config.sine q.khz q.f1 q.l1 i + (if q.f2 = 0 then 0 else Config.sine q.khz q.f2 q.l2 i)
  else if q.typ = 1 then
    let c := codePair (q.codes.getD seg 0)
    Config.sine q.khz c.1 q.l1 i + Config.sine q.khz c.2 q.l1 i
  else
    let v := Config.answer q.khz q.l1 q.am i
    if q.rev ∧ i / (450 * q.khz) % 2 = 1 then -v else v

/-- The tone of a profile at a sample of its pattern, with the 1 ms ramps at both ends of each interval that is on (R224). -/
def GenProfile.value (q : GenProfile) (i : Nat) : Int :=
  let l := q.segs.map (fun e => (e.1 * q.khz, e.2 * q.khz))
  let m := segSum l
  if q.segs.isEmpty then
    if q.typ = 1 ∧ q.codes.isEmpty then 0 else ramped q.khz (q.wave 0 i) i 32768
  else if m = 0 then 0
  else match segAt l 0 (if q.typ = 0 then i % m else i) with
    | some (seg, j, on) => if j < on then ramped q.khz (q.wave seg i) j (on - 1 - j) else 0
    | none => 0

def State.genAt (s : State) (a : Nat) : GenSt :=
  match s.area a with
  | .gen g => g
  | _ => { GenSt.init with taken := (s.byte a).toNat }

/-- The request word's codes that the set allows, and how many are skipped. -/
def State.genCodes (s : State) (a set : Nat) : List Nat × Nat :=
  let l := (s.bytes (a + 8) (min 24 (bits (s.le a 4) 12 8))).map (·.toNat)
  (l.filter (setHas set), (l.filter (fun c => !setHas set c)).length)

/-- Samples of the pattern in progress that have passed at a boundary. -/
def GenSt.pos (g : GenSt) (khz boundary : Nat) : Nat := (boundary - g.start) * khz / 1000

/-- What a new start stops: the output in progress ramps down (R225). -/
def GenSt.halted (g : GenSt) (khz boundary : Nat) : Option (List Nat × Nat) :=
  if g.active then some (g.codes, g.pos khz boundary) else none

/-- At the start of a run a pattern starts with its version, and a new request is taken. -/
def State.genTake (s : State) (n k : Nat) (r : Run) (w : Nat) : State :=
  let a := ctxArea r.ctx (ciSoff w)
  let g := s.genAt a
  let q := s.genProfile n (bits w 43 40) g.codes
  let v := ctxVersion r.ctx
  let old := g.halted q.khz r.boundary
  if q.typ ≠ 1 then
    if g.version = some v then s.setArea a (.gen { g with stopped := none })
    else s.setArea a (.gen { g with version := some v, active := true, codes := [], start := r.boundary, stopped := old })
  else if (s.byte a).toNat = g.taken then s.setArea a (.gen { g with stopped := none })
  else
    let o := s.genCodes a q.set
    let s1 := s.setArea a (.gen
      { g with taken := (s.byte a).toNat, active := decide (bits (s.le a 4) 12 8 ≠ 0), codes := o.1, start := r.boundary, stopped := old })
    if o.2 = 0 then s1
    else (((s1.toneBump n (TONE.BADCODE_LO n) o.2).toneLog n 2 (s.slot n k).tid).raise (TONE.EVT n) F.TONE_EVT_BADCODE)

/-- The tone of a run at its sample i: the pattern, and over 1 ms the output that its start stopped. -/
def State.genValue (s : State) (n : Nat) (r : Run) (w i : Nat) : Int :=
  let g := s.genAt (ctxArea r.ctx (ciSoff w))
  let q := s.genProfile n (bits w 43 40) g.codes
  let pos := g.pos q.khz r.boundary + i
  let live : Bool := g.active && (match q.total with | some t => decide (pos < t * q.khz) | none => true)
  let old : Int := match g.stopped with
    | some (codes, p) => if i < q.khz then ramped q.khz ((s.genProfile n (bits w 43 40) codes).value (p + i)) 32768 (q.khz - 1 - i) else 0
    | none => 0
  (if live then q.value pos else 0) + old

/-- TONE.GEN over a block: the tone alone or added, saturated to Q15, and the record of a pattern that ends in it. -/
def State.generate (s : State) (n k : Nat) (r : Run) (w : Nat) (b : Block) : State × Block :=
  let a := ctxArea r.ctx (ciSoff w)
  let g := s.genAt a
  let q := s.genProfile n (bits w 43 40) g.codes
  let m := perBlock q.khz (ctxPeriod r.ctx)
  let pos := g.pos q.khz r.boundary
  let add := bit w 44
  let under : List (BitVec 16) := if add && !b.missing then b.samples else List.replicate m 0
  let xs := under.zipIdx.map (fun e => BitVec.ofNat 16 (ofSigned 16 (clampInt (-32768) 32767 (e.1.toInt + s.genValue n r w e.2))))
  let tag := if add && !b.missing then b.tag else r.boundary * 1000
  let ends : Option Nat := match q.total with
    | some t => if g.active && decide (t * q.khz ≤ pos + m) then some (t * q.khz - pos) else none
    | none => none
  let s1 := match ends with
    | some l => (s.setArea a (.gen { g with active := false })).toneRecords n k r.ctx [⟨tag + l * (1000000 / q.khz), 0x14, 0, 0, 0⟩]
    | none => s
  (s1, if add && !b.missing then { b with samples := xs } else pcmBlock q.khz tag xs)

/-! ## The commands (R227) -/

def State.setToneQueue (s : State) (n : Nat) (q : List (BitVec 13 × Fin 2)) : State :=
  s.setCluster n { s.cluster n with toneQueue := q }

/-- A request of a run enters the queue of the tone bank, and the run waits for it. -/
def State.toneRequest (s : State) (n : Nat) (slot : BitVec 13) (chain : Fin 2) (r : Run) : State :=
  (s.setRun n slot.toNat chain (some { r with wait := .toneBank })).setToneQueue n ((s.cluster n).toneQueue ++ [(slot, chain)])

/-- TONE.DET: queued; where it is marked shed, its frames count as ones that do not qualify (R217). -/
def State.toneDet (s : State) (n : Nat) (slot : BitVec 13) (chain : Fin 2) : State :=
  match s.run n slot.toNat chain with
  | none => s
  | some r =>
    let w := s.runInstr r chain
    if r.shed.contains r.idx && !r.closed && r.wait == .none && s.sequences n && ciOp w == opToneDet then
      (s.detect n slot.toNat r w (r.block (ciBi w)) true).1.instrDone n slot.toNat chain (some (r.block (ciBi w)))
    else s.chainOp n slot.toNat chain (fun v => ciOp v == opToneDet) (fun u q _ => u.toneRequest n slot chain q)

def execToneDet (cl : Fin 32) (slot : BitVec 13) (chain : Fin 2) (s : State) : Result := .next (s.toneDet cl slot chain)

/-- TONE.GEN: its pattern starts or its request is taken, and the block is queued. -/
def execToneGen (cl : Fin 32) (slot : BitVec 13) (chain : Fin 2) (s : State) : Result :=
  .next (s.chainOp cl slot.toNat chain (fun w => ciOp w == opToneGen) (fun u r w =>
    (u.genTake cl slot.toNat r w).toneRequest cl slot chain r))

/-- The end of a request. -/
def State.toneEnd (s : State) (n k : Nat) (chain : Fin 2) : State :=
  match s.run n k chain with
  | none => s
  | some r =>
    let w := s.runInstr r chain
    let b := r.block (ciBi w)
    let o := if ciOp w = opToneDet then s.detect n k r w b false else s.generate n k r w b
    o.1.instrDone n k chain (some o.2)

/-- TONE_BANK_COMPLETE: the request at the head of the queue ends. -/
def State.toneComplete (s : State) (n : Nat) : State :=
  match (s.cluster n).toneQueue with
  | [] => s
  | (slot, chain) :: q => if s.dormant then s else (s.setToneQueue n q).toneEnd n slot.toNat chain

def execToneBankComplete (cl : Fin 32) (s : State) : Result := .next (s.toneComplete cl)

end Sys2Proof.Machine
end

