-- ==== Sys2Proof/Machine/Vde.lean ====
section
/-!
DEFINITION. The voiceband data engine: VDE.RX, VDE.TX and FAXRELAY (R230 to R242). What a demodulator makes of samples, the
shaped wave of a carrier and the coding of IFPs are open functions of what they work on (log 8); rings, records, framing,
candidates, captures, losses, the order and timing of what is sent, underruns and counts are as the rules state them.
-/

namespace Sys2Proof.Machine

/-! ## Areas and logs (R238, R242) -/

def State.vdeBump (s : State) (n ctr k : Nat) : State := if k = 0 then s else s.bumpBy ctr k (VDE.EVT n) F.VDE_EVT_VCNT

/-- An entry of the VDE's log: 1 RX overflow, 2 underrun limit, 3 record lost, 4 PASS entered. -/
def State.vdeLog (s : State) (n cause : Nat) (tid : BitVec 18) : State :=
  if s.rb (VDE.ERR_LOG n) F.VDE_ERR_LOG_VALID then s
  else s.wv (VDE.ERR_LOG n) (2 ^ 31 + cause * 2 ^ 24 + tid.toNat)

def State.vdePut (s : State) (a : Nat) : Nat := s.le a 2
def State.vdeTake (s : State) (a : Nat) : Nat := s.le (a + 4) 2

/-- The receiver, the transmitter and the relay of an area change. -/
def State.onRx (s : State) (a : Nat) (f : VdeRx → VdeRx) : State := s.setVde a { s.vdeAt a with rx := f (s.vdeAt a).rx }
def State.onTx (s : State) (a : Nat) (f : VdeTx → VdeTx) : State := s.setVde a { s.vdeAt a with tx := f (s.vdeAt a).tx }
def State.onFax (s : State) (a : Nat) (f : FaxSt → FaxSt) : State := s.setVde a { s.vdeAt a with fax := f (s.vdeAt a).fax }

/-- The word of STATE, PASS and AFC. -/
def State.vdeHeader (s : State) (a st : Nat) : State :=
  let v := s.vdeAt a
  s.writeLe (a + 12) 4 (st + b2n v.pass * 16 + v.afc % 65536 * 65536)

/-- A record enters the ring at an area: at PUT, which then advances. -/
def State.ringPut (s : State) (a : Nat) (rcd : List Byte) : State :=
  let p := s.vdePut a
  (s.write (a + 64 + 16 * (p % 124)) ((rcd ++ List.replicate 16 0).take 16)).writeLe a 4 ((p + 1) % 65536)

def State.ringFull (s : State) (a : Nat) : Bool := (s.vdePut a + 65536 - s.vdeTake a) % 65536 == 124
def State.ringEmpty (s : State) (a : Nat) : Bool := s.vdePut a == s.vdeTake a

/-- The record i of a ring. -/
def State.recordAt (s : State) (a i : Nat) : List Byte := s.bytes (a + 64 + 16 * (i % 124)) 16

/-- A record: TYPE, MOD, SHORT, HDLC, BAD and COUNT. -/
def rcdTyp (rcd : List Byte) : Nat := (rcd.getD 0 0).toNat
def rcdMod (rcd : List Byte) : Nat := (rcd.getD 1 0).toNat % 16
def rcdShort (rcd : List Byte) : Bool := bit (rcd.getD 1 0).toNat 4
def rcdHdlc (rcd : List Byte) : Bool := bit (rcd.getD 1 0).toNat 5
def rcdBad (rcd : List Byte) : Bool := bit (rcd.getD 1 0).toNat 7
def rcdLen (rcd : List Byte) : Nat := (rcd.getD 2 0).toNat % 16
def rcdData (rcd : List Byte) : List Byte := slice rcd 4 (min 12 (rcdLen rcd))

/-! ## Records to the event cask (R239) -/

def State.vdeRecord (s : State) (n k : Nat) (c : List Byte) (r : ToneRec) : State :=
  let tid := (s.slot n k).tid
  if !ctxEvMask c 1 then s
  else
    let h := ctxEvCask c
    let p := accelProducer n 3
    let w := recordWord r.typ tid r.code (ofSigned 8 (clampInt (-128) 127 (r.level / 10))) r.dur r.tag
    if s.recordFits h p then s.postRecord h p w
    else ((((s.postRecord h p w).toneBump n (TONE.RECLOST_LO n) 1).vdeLog n 3 tid).raise (VDE.EVT n) F.VDE_EVT_LOST)

def State.vdeRecords (s : State) (n k : Nat) (c : List Byte) (l : List ToneRec) : State :=
  each s (sortBy l (fun a b => decide (a.tag < b.tag) || (a.tag == b.tag && decide (a.code ≤ b.code))))
    (fun u r => u.vdeRecord n k c r)

/-! ## The RX ring (R238) -/

/-- Where a reception stands: cluster, slot, profile and area. -/
structure VdeWhere where
  n : Nat
  k : Nat
  p : Nat
  a : Nat
  deriving DecidableEq, Repr

/-- A receive record: written, or dropped where the ring is full. In PASS none is written. -/
def State.rxRecord (s : State) (x : VdeWhere) (typ flags count : Nat) (data : List Byte) : State :=
  let v := s.vdeAt x.a
  if v.pass then s
  else if s.ringFull x.a then
    (((s.onRx x.a (fun q => { q with lost := true })).vdeBump x.n (VDE.RXOVF_LO x.n) 1).vdeLog x.n 1 (s.slot x.n x.k).tid).raise
      (VDE.EVT x.n) F.VDE_EVT_RXOVF
  else
    (s.onRx x.a (fun q => { q with lost := false })).ringPut x.a
      ([BitVec.ofNat 8 typ, BitVec.ofNat 8 (flags + b2n v.rx.lost * 64), BitVec.ofNat 8 count, 0] ++ data)

/-- Flags of a record of the reception in progress. -/
def VdeRx.flags (v : VdeRx) : Nat := v.mod + b2n v.hdlc * 32

/-- Bytes received since the last record become a DATA record. -/
def State.rxFlush (s : State) (x : VdeWhere) : State :=
  let v := (s.vdeAt x.a).rx
  if v.part.isEmpty then s
  else (s.onRx x.a (fun q => { q with part := [] })).rxRecord x 0x02 v.flags v.part.length v.part

/-- A byte is received. -/
def State.rxByte (s : State) (x : VdeWhere) (b : Byte) : State :=
  let s1 := s.onRx x.a (fun q => { q with part := q.part ++ [b] })
  if 12 ≤ (s1.vdeAt x.a).rx.part.length then s1.rxFlush x else s1

/-- A frame ends, good or bad. -/
def State.rxFrameEnd (s : State) (x : VdeWhere) (bad : Bool) : State :=
  let s1 := s.rxFlush x
  (s1.rxRecord x 0x03 ((s1.vdeAt x.a).rx.flags + b2n bad * 128) 0 []).vdeBump x.n
    (if bad then VDE.FRAMES_BAD_LO x.n else VDE.FRAMES_OK_LO x.n) 1

/-- A frame or byte in progress is closed as bad. -/
def State.rxClose (s : State) (x : VdeWhere) : State :=
  let v := (s.vdeAt x.a).rx
  let s1 := (s.rxFlush x).onRx x.a (fun q => { q with line := HdlcIn.init })
  if (if v.hdlc then v.line.busy else !v.line.bits.isEmpty) then s1.rxFrameEnd x true else s1

/-! ## Reception (R231 to R235) -/

/-- The AFC freezes on an offset (R235). -/
def State.freeze (s : State) (x : VdeWhere) (offset : Int) : State :=
  let s1 := s.setVde x.a { s.vdeAt x.a with afc := ofSigned 16 offset }
  s1.onRx x.a (fun q => { q with trained := true })

/-- What the framing brings. -/
def State.rxEvent (s : State) (x : VdeWhere) (offset : Int) : HdlcEvent → State
  | .byte b => s.rxByte x b
  | .first => if (s.vdeAt x.a).rx.trained then s else s.freeze x offset
  | .ends bad => s.rxFrameEnd x bad

/-- A bit of the reception in progress. -/
def State.rxBit (s : State) (x : VdeWhere) (offset : Int) (b : Bool) : State :=
  let v := (s.vdeAt x.a).rx
  let o := if v.hdlc then v.line.bit b else v.line.plainBit b
  each (s.onRx x.a (fun q => { q with line := o.1 })) o.2 (fun u e => u.rxEvent x offset e)

/-- What the reception in progress brings between two samples of a frame: the end of its preamble, and bits. Those of V.21
channel 2 are framed from the first; those of another modulation follow its training. V.21 channel 1 brings none (R230). -/
def State.rxData (s : State) (x : VdeWhere) (xs : List (BitVec 16)) (from_ to_ : Nat) : State :=
  let v := (s.vdeAt x.a).rx
  if v.mod = 0 then s
  else
    let offset := Config.offset v.mod v.memory xs
    let ends : Option Nat := if v.trained || v.mod == 1 then none
      else (Config.trained v.mod v.memory xs).filter (fun e => decide (from_ ≤ e) && decide (e < to_))
    let s1 := if ends.isSome then (s.freeze x offset).onRx x.a (fun q => { q with hdlc := Config.framed v.mod v.memory }) else s
    let start := ends.getD from_
    if v.mod = 15 ∨ (v.mod ≠ 1 ∧ !(s1.vdeAt x.a).rx.trained) then s1
    else each s1 ((Config.demodulate v.mod v.memory xs).filter (fun e => decide (start ≤ e.1) && decide (e.1 < to_)))
      (fun u e => u.rxBit x offset e.2)

/-- A qualifier received whole: the sample at which it ends, its modulation, its level in 0.5 dBm0 and its offset (R232). -/
structure Hit where
  at_ : Nat
  mod : Nat
  level : Int
  offset : Int
  deriving DecidableEq, Repr

/-- A reception qualifies at an instant; its onset is the first qualifying symbol. Its CARRIER record has the offset as it
stands (log 64). -/
def State.rxStart (s : State) (x : VdeWhere) (h : Hit) (t : Nat) : State × ToneRec :=
  let onset := t - modQual h.mod
  let m := h.mod
  let short := (m = 2 ∨ m = 3 ∨ 7 ≤ m ∧ m ≤ 10) && Config.shortTraining m (s.vdeAt x.a).rx.memory
  let s1 := s.onRx x.a (fun q => { q with
    cands := [], mod := m, level := h.level, trained := false, hdlc := m == 1, part := []
    line := if m = 1 then HdlcIn.start else HdlcIn.init })
  let s2 := s1.rxRecord x 0x01 ((s1.vdeAt x.a).rx.flags + b2n short * 16) 0
    ([BitVec.ofNat 8 (ofSigned 8 (h.level / 2)), 0] ++ leBytes 2 (ofSigned 16 h.offset) ++ leBytes 4 (onset % 1000000000))
  (s2.vdeBump x.n (VDE.RECEPTIONS_LO x.n) 1, ⟨onset, 0x20, m, 0, 5 * h.level⟩)

/-- The reception in progress ends: with CARRIEROFF, or with ABORTED at a capture. HSMOD as last taken is applied. -/
def State.rxEnd (s : State) (x : VdeWhere) (typ : Nat) : State :=
  let s1 := s.rxClose x
  (s1.rxRecord x typ (s1.vdeAt x.a).rx.flags 0 []).onRx x.a (fun q => { q with
    mod := 0, trained := false, part := [], hs := q.asked })

/-- The modulations that an area searches. -/
def State.searched (s : State) (x : VdeWhere) : List Nat :=
  let h := (s.vdeAt x.a).rx.hs
  [1] ++ (if h = 0 then [] else [h]) ++ (if s.rb (VDE.PW0 x.n x.p) F.VDE_PW0_V8 then [15] else [])

/-- Candidates fail: a record each, and a count (R233). -/
def State.rxFail (s : State) (x : VdeWhere) (level : Int) (fails : Nat × Nat → Bool) (at_ : Nat × Nat → Nat) :
    State × List ToneRec :=
  let bad := (s.vdeAt x.a).rx.cands.filter fails
  ((s.onRx x.a (fun q => { q with cands := q.cands.filter (fun e => !fails e) })).vdeBump x.n (VDE.FALSE_LO x.n) bad.length,
    bad.map (fun e => ⟨at_ e, 0x21, e.1, 0, level⟩))

/-- When a candidate fails for want of its qualifier. -/
def State.candEnd (s : State) (x : VdeWhere) (e : Nat × Nat) : Nat :=
  e.2 + modQual e.1 + s.rf (VDE.PW1 x.n x.p) F.VDE_PW1_QWIN * 1000000

/-- The qualifiers that end in a frame, in order of time: those whose search an onset has begun, with an offset in the AFC
range. Up to 5 Hz beyond it the outcome is open (R232). -/
def State.hits (s : State) (x : VdeWhere) (xs : List (BitVec 16)) : List Hit :=
  let v := (s.vdeAt x.a).rx
  let l := ((s.searched x).filter v.search.contains).flatMap (fun m =>
    (Config.qualifiers m v.memory xs).map (fun q => (⟨q.1, m, q.2.2, q.2.1⟩ : Hit)))
  let ok := l.zipIdx.filter (fun e =>
    let o := e.1.offset.natAbs
    decide (o ≤ modAfc e.1.mod) || (decide (o ≤ modAfc e.1.mod + 50) && Config.freeBit (s.freeCount + e.2)))
  sortBy (ok.map (·.1)) (fun a b => decide (a.at_ ≤ b.at_))

/-- A qualifier has been received: a reception starts, or captures the one in progress, or is ignored. -/
def State.rxHit (s : State) (x : VdeWhere) (h : Hit) (t : Nat) : State × List ToneRec :=
  let v := (s.vdeAt x.a).rx
  let margin := s.rf (VDE.PW0 x.n x.p) F.VDE_PW0_CAPMARGIN
  if v.mod = 0 then
    let o := s.rxStart x h t
    (o.1, [o.2])
  else if margin ≠ 0 ∧ v.level + 2 * margin ≤ h.level then
    let o := ((s.rxEnd x 0x06).vdeBump x.n (VDE.ABORTED_LO x.n) 1).rxStart x h t
    (o.1, [⟨t, 0x22, v.mod, 0, 5 * v.level⟩, o.2])
  else (s.onRx x.a (fun q => { q with cands := q.cands.filter (fun e => e.1 != h.mod) }), [])

/-- What the frames of a run have given so far. -/
abbrev RxRun := State × List ToneRec

/-- The qualifiers of a frame one by one, with what the reception in progress brings between them, and the candidates that fail
before each. -/
def rxHits (x : VdeWhere) (xs : List (BitVec 16)) (tag : Nat) (level : Int) : RxRun → Nat → List Hit → RxRun
  | y, from_, [] => (y.1.rxData x xs from_ 41, y.2)
  | y, from_, h :: l =>
    let t := tag + 125000 * h.at_
    let f := (y.1.rxData x xs from_ h.at_).rxFail x level (fun e => decide (y.1.candEnd x e < t)) (y.1.candEnd x)
    let o := f.1.rxHit x h t
    rxHits x xs tag level (o.1, y.2 ++ f.2 ++ o.2) h.at_ l

/-- A V.8 sequence is reported, and with V34ACT the area enters PASS (R231). -/
def State.rxV8 (s : State) (x : VdeWhere) (dur at_ : Nat) : RxRun :=
  let v := s.vdeAt x.a
  let s1 := (s.rxRecord x 0x07 v.rx.mod 0 [BitVec.ofNat 8 dur]).raise (VDE.EVT x.n) F.VDE_EVT_V8
  let r : ToneRec := ⟨at_, 0x23, v.rx.mod, dur, 5 * v.rx.level⟩
  if s1.rb (VDE.PW0 x.n x.p) F.VDE_PW0_V34ACT && !v.pass then
    ((s1.setVde x.a { s1.vdeAt x.a with pass := true }).vdeLog x.n 4 (s.slot x.n x.k).tid, [r])
  else (s1, [r])

/-- DUR of a V.8 record: 1 for T.30 with V.34 half-duplex, 2 for another call function, and none for T.30 alone. -/
def menuDur (t30 v34 : Bool) : Nat := if !t30 then 2 else if v34 then 1 else 0

/-- What a V.8 sequence of the reception in progress brings in a frame. -/
def State.rxMenu (s : State) (x : VdeWhere) (xs : List (BitVec 16)) (tag : Nat) : RxRun :=
  let v := (s.vdeAt x.a).rx
  if !s.rb (VDE.PW0 x.n x.p) F.VDE_PW0_V8 || !(v.mod == 1 || v.mod == 15) then (s, [])
  else match Config.menu v.mod v.memory xs with
    | none => (s, [])
    | some (t30, v34) => if menuDur t30 v34 = 0 then (s, []) else s.rxV8 x (menuDur t30 v34) tag

/-- A frame's level reaches RXTHR; below it by 5 dB a carrier is lost (R232 to R234). -/
def State.rxAbove (s : State) (x : VdeWhere) (lev : Option Int) : Bool :=
  match lev with
  | none => false
  | some v => levelPasses (toSigned 8 (s.rf (VDE.PW0 x.n x.p) F.VDE_PW0_RXTHR)) v s.freeCount
def State.rxBelow (s : State) (x : VdeWhere) (lev : Option Int) : Bool :=
  match lev with
  | none => true
  | some v => decide (v < 10 * (toSigned 8 (s.rf (VDE.PW0 x.n x.p) F.VDE_PW0_RXTHR) - 5))

/-- At an energy onset candidates open on the modulations searched that have no reception. -/
def VdeRx.onset (v : VdeRx) (l : List Nat) (tag : Nat) : VdeRx :=
  let new := l.filter (fun m => m != v.mod && !v.cands.any (fun e => e.1 == m))
  { v with cands := v.cands ++ new.map (fun m => (m, tag)), search := (v.search ++ l).dedup }

/-- The level stays below for LOSSMS: the reception in progress ends, and so do candidates. -/
def State.rxGone (s : State) (x : VdeWhere) (xs : List (BitVec 16)) (tag : Nat) (level : Int) : RxRun :=
  let s1 := s.rxData x xs 0 41
  let s2 := if (s1.vdeAt x.a).rx.mod = 0 then s1 else (s1.rxEnd x 0x05).onRx x.a (fun q => { q with search := [] })
  s2.rxFail x level (fun _ => true) (fun _ => tag + 5000000)

/-- A 5 ms frame of the line. -/
def State.rxFrame (s : State) (x : VdeWhere) (xs : List (BitVec 16)) (tag : Nat) : RxRun :=
  let v := (s.vdeAt x.a).rx
  let lev := frameLevel xs
  let level := lev.getD (-1280)
  let on := s.rxAbove x lev
  let below := if s.rxBelow x lev then v.below + 5 else 0
  let v1 := { v with energy := on, below := below }
  let s1 := (s.onRx x.a (fun _ => if on && !v.energy then v1.onset (s.searched x) tag else v1)).draw 1
  let o := if s.rf (VDE.PW1 x.n x.p) F.VDE_PW1_LOSSMS ≤ below then s1.rxGone x xs tag level
    else
      let h := s1.hits x xs
      let y := rxHits x xs tag level (s1.draw (40 * 3), []) 0 h
      let f := y.1.rxFail x level (fun e => decide (s1.candEnd x e ≤ tag + 5000000)) (s1.candEnd x)
      let m := f.1.rxMenu x xs tag
      (m.1, y.2 ++ f.2 ++ m.2)
  (o.1.onRx x.a (fun q => { q with memory := Config.remember q.memory xs }), o.2)

/-- VDE.RX over a block, which is silence where it is shed or MISSING. -/
def State.vdeReceive (s : State) (n k : Nat) (r : Run) (w : Nat) (b : Block) (shed : Bool) : State :=
  let x : VdeWhere := ⟨n, k, ciCodec w % 16, ctxArea r.ctx (ciSoff w)⟩
  let s0 := s.onRx x.a (fun q => { q with hs := if q.mod = 0 then q.asked else q.hs })
  let frames := if shed || b.missing then List.replicate (ctxPeriod r.ctx / 5) (List.replicate 40 0)
    else framesOf 40 (ctxPeriod r.ctx / 5) b.samples
  let o := frames.zipIdx.foldl (fun (y : RxRun) e =>
      let z := y.1.rxFrame x e.1 ((if b.missing then r.boundary * 1000 else b.tag) + e.2 * 5000000)
      (z.1, y.2 ++ z.2)) (s0, [])
  let s1 := o.1.rxFlush x
  let u := (s1.vdeAt x.a).rx
  (s1.vdeHeader x.a (if u.mod ≠ 0 then 2 else if u.cands.isEmpty then 0 else 1)).vdeRecords n k r.ctx o.2

/-! ## Transmission (R236, R237) -/

/-- What a record other than TRAIN does to a carrier, none where it breaks the rules and is skipped. -/
def VdeTx.takes (t : VdeTx) (rcd : List Byte) : Option VdeTx :=
  if rcdTyp rcd = 0x11 then (if modSends (rcdMod rcd) then some (VdeTx.start (rcdMod rcd) (rcdShort rcd)) else none)
  else if t.mod = 0 ∨ t.ends.isSome then none
  else if rcdTyp rcd = 0x12 then (if rcdLen rcd ≤ 12 then some (t.data (rcdHdlc rcd) (rcdData rcd)) else none)
  else if rcdTyp rcd = 0x13 then (if t.frame then some t.closeFrame else none)
  else if rcdTyp rcd = 0x14 then some t.stop
  else none

/-- The first record of a ring, none where it is poisoned (R63). -/
def State.txFirst (s : State) (a : Nat) : Option (List Byte) :=
  if s.poisonedIn (a + 64 + 16 * (s.vdeTake a % 124)) 16 then none else some (s.recordAt a (s.vdeTake a))

/-- The first record of the ring is taken; one that breaks the rules, or that poison makes unreadable, is skipped (R236). -/
def State.txTake (s : State) (n a : Nat) : State :=
  let s1 := s.writeLe (a + 4) 4 ((s.vdeTake a + 1) % 65536)
  match (s.txFirst a).bind (s.vdeAt a).tx.takes with
  | some t => s1.onTx a (fun _ => t)
  | none => s1.vdeBump n (VDE.TXUNDER_LO n) 1

/-- With no carrier on, records are taken up to a TRAIN. -/
def State.txIdle (s : State) (n a : Nat) : Nat → State
  | 0 => s
  | i + 1 => if s.ringEmpty a || (s.vdeAt a).tx.mod != 0 then s else (s.txTake n a).txIdle n a i

/-- The ring is empty and the carrier on: flags in HDLC, else zero bits. The underrun ends the carrier at UNDERMAX (R236). -/
def State.txFill (s : State) (n k p a : Nat) : State :=
  let t := (s.vdeAt a).tx
  let l := if t.hdlc then flagBits else [false]
  let s1 := s.vdeBump n (VDE.TXUNDER_LO n) (if t.under = 0 then 1 else 0)
  if s.rf (VDE.PW1 n p) F.VDE_PW1_UNDERMAX * modRate t.mod ≤ t.under * 1000 then
    ((s1.onTx a VdeTx.stop).vdeLog n 2 (s.slot n k).tid).raise (VDE.EVT n) F.VDE_EVT_UNDER
  else s1.onTx a (fun t => { t.push l with under := t.under + l.length })

/-- With a carrier on, records are taken as their bits are due before a sample. A TRAIN first stops the carrier. -/
def State.txFeed (s : State) (n k p a q : Nat) : Nat → State
  | 0 => s
  | i + 1 =>
    let t := (s.vdeAt a).tx
    if t.mod = 0 ∨ t.ends.isSome ∨ t.bitsBy q ≤ t.sent + t.queue.length then s
    else if s.ringEmpty a then (s.txFill n k p a).txFeed n k p a q i
    else match s.txFirst a with
      | some rcd => if rcdTyp rcd = 0x11 ∧ modSends (rcdMod rcd) then s.onTx a VdeTx.stop else (s.txTake n a).txFeed n k p a q i
      | none => (s.txTake n a).txFeed n k p a q i

/-- A receive area of the termination is in PASS. -/
def State.inPass (s : State) (c : List Byte) : Bool :=
  (s.programWords c).any (fun w => ciOp w == opVdeRx && (s.vdeAt (ctxArea c (ciSoff w))).pass)

/-- VDE.TX of a run: line samples at TXLEV. -/
def State.vdeSend (s : State) (n k : Nat) (r : Run) (w : Nat) : State × Block :=
  let a := ctxArea r.ctx (ciSoff w)
  let p := ciCodec w % 16
  let m := 8 * ctxPeriod r.ctx
  let s1 := if s.inPass r.ctx then s.onTx a VdeTx.stop
    else
      let s0 := s.txIdle n a 65536
      s0.txFeed n k p a ((s0.vdeAt a).tx.pos + m) (65536 + 2 * m)
  let t := (s1.vdeAt a).tx
  let xs := (List.range m).map (t.sample (toSigned 8 (s.rf (VDE.PW1 n p) F.VDE_PW1_TXLEV)))
  let s2 := s1.onTx a (fun t => t.advance m)
  (s2.vdeHeader a (if (s2.vdeAt a).tx.mod ≠ 0 then 2 else 0), pcmBlock 8 (r.boundary * 1000) xs)

/-- A shed VDE.TX: zeros, and the carrier then ends as STOP ends it. -/
def State.vdeShed (s : State) (n : Nat) (r : Run) (w : Nat) : State × Block :=
  let a := ctxArea r.ctx (ciSoff w)
  let s1 := (s.onTx a VdeTx.stop).vdeBump n (VDE.TXUNDER_LO n) 1
  (s1.vdeHeader a (if (s1.vdeAt a).tx.mod ≠ 0 then 2 else 0),
    pcmBlock 8 (r.boundary * 1000) (List.replicate (8 * ctxPeriod r.ctx) 0))

/-! ## The commands (R241) -/

def State.setVdeQueue (s : State) (n : Nat) (q : List (BitVec 13 × Fin 2)) : State :=
  s.setCluster n { s.cluster n with vdeQueue := q }

def State.vdeRequest (s : State) (n : Nat) (slot : BitVec 13) (chain : Fin 2) (r : Run) : State :=
  (s.setRun n slot.toNat chain (some { r with wait := .vde })).setVdeQueue n ((s.cluster n).vdeQueue ++ [(slot, chain)])

/-- The run's next instruction is the one of this opcode, and it is marked shed (R158). -/
def State.shedNow (s : State) (n k : Nat) (chain : Fin 2) (op : Nat) : Option (Run × Nat) :=
  match s.run n k chain with
  | none => none
  | some r =>
    let w := s.runInstr r chain
    if r.shed.contains r.idx && !r.closed && r.wait == .none && s.sequences n && ciOp w == op then some (r, w) else none

/-- VDE.RX: queued; a shed one hears silence, and its block passes. -/
def execVdeRx (cl : Fin 32) (slot : BitVec 13) (chain : Fin 2) (s : State) : Result :=
  .next (match s.shedNow cl slot.toNat chain opVdeRx with
    | some (r, w) =>
      (s.vdeReceive cl slot.toNat r w (r.block (ciBi w)) true).instrDone cl slot.toNat chain (some (r.block (ciBi w)))
    | none => s.chainOp cl slot.toNat chain (fun v => ciOp v == opVdeRx) (fun u q _ => u.vdeRequest cl slot chain q))

/-- VDE.TX: queued; a shed one sends zeros. -/
def execVdeTx (cl : Fin 32) (slot : BitVec 13) (chain : Fin 2) (s : State) : Result :=
  .next (match s.shedNow cl slot.toNat chain opVdeTx with
    | some (r, w) => (s.vdeShed cl r w).1.instrDone cl slot.toNat chain (some (s.vdeShed cl r w).2)
    | none => s.chainOp cl slot.toNat chain (fun v => ciOp v == opVdeTx) (fun u q _ => u.vdeRequest cl slot chain q))

/-- The end of a request. -/
def State.vdeEnd (s : State) (n k : Nat) (chain : Fin 2) : State :=
  match s.run n k chain with
  | none => s
  | some r =>
    let w := s.runInstr r chain
    if ciOp w = opVdeRx then
      (s.vdeReceive n k r w (r.block (ciBi w)) false).instrDone n k chain (some (r.block (ciBi w)))
    else (s.vdeSend n k r w).1.instrDone n k chain (some (s.vdeSend n k r w).2)

/-- VDE_COMPLETE: the request at the head of the queue ends. -/
def State.vdeComplete (s : State) (n : Nat) : State :=
  match (s.cluster n).vdeQueue with
  | [] => s
  | (slot, chain) :: q => if s.dormant then s else (s.setVdeQueue n q).vdeEnd n slot.toNat chain

def execVdeComplete (cl : Fin 32) (s : State) : Result := .next (s.vdeComplete cl)

/-! ## FAXRELAY (R240) -/

/-- The termination whose PKT binding FAXRELAY uses: its own, or its peer's. -/
def State.faxBinder (s : State) (n k : Nat) (r : Run) : Option (Nat × List Byte) :=
  if ctxKind r.ctx = 1 then some (k, r.ctx)
  else match s.livePeer n r.ctx with
    | some j => if ctxKind (s.ctx n j) = 1 then some (j, s.ctx n j) else none
    | none => none

/-- The VDE instruction whose area FAXRELAY works on, and T38VER, RED and TCF of its profile. -/
def State.faxProfile (s : State) (n : Nat) (r : Run) (w : Nat) : Nat × Nat × Bool :=
  let p := match (s.programWords r.ctx).find? (fun v => (ciOp v == opVdeRx || ciOp v == opVdeTx) && ciSoff v == ciSoff w) with
    | some v => ciCodec v % 16
    | none => 0
  (s.rf (VDE.PW0 n p) F.VDE_PW0_T38VER, s.rf (VDE.PW0 n p) F.VDE_PW0_RED, s.rb (VDE.PW0 n p) F.VDE_PW0_TCF)

/-- HSMOD of both areas is written from the modulation that a DCS frame selects. -/
def State.faxDcs (s : State) (r : Run) (f : List Byte) : State :=
  match dcsMod f with
  | none => s
  | some m => each s ((s.programWords r.ctx).filter (fun w => ciOp w == opVdeRx || ciOp w == opVdeTx))
    (fun u w => u.writeLe (ctxArea r.ctx (ciSoff w) + 8) 4 m)

/-- A record that passes is watched for T.30 frames, which V.21 carries. -/
def State.faxWatch (s : State) (r : Run) (a : Nat) (rcd : List Byte) : State :=
  let typ := rcdTyp rcd % 16
  if rcdMod rcd = 1 ∧ typ = 2 then s.onFax a (fun f => { f with frame := f.frame ++ rcdData rcd })
  else
    let f := (s.vdeAt a).fax.frame
    let s1 := s.onFax a (fun q => { q with frame := [] })
    if rcdMod rcd = 1 ∧ typ = 3 ∧ !rcdBad rcd then s1.faxDcs r f else s1

/-- An IFP goes out in a UDPTL packet with those before it, as many as RED says, by the binding. -/
def State.sendIfp (s : State) (n red a : Nat) (c ifp : List Byte) : State :=
  let f := (s.vdeAt a).fax
  let s1 := s.onFax a (fun f => { f with next := (f.next + 1) % 65536, past := (ifp :: f.past).take 4 })
  (s1.commitFrame n (ctxTxCask c) (buildFrame c (s1.template c) (udptl f.next ifp (f.past.take red)) 0)).1.vdeBump n
    (VDE.IFP_TX_LO n) 1

/-- Line to packet: the RX ring is read, and its records go out. -/
def State.faxOut (s : State) (n : Nat) (r : Run) (w : Nat) (c : List Byte) : State :=
  let a := ctxArea r.ctx (ciSoff w)
  let m := (s.vdePut a + 65536 - s.vdeTake a) % 65536
  let recs := (List.range m).map (fun i => s.recordAt a (s.vdeTake a + i))
  let q := s.faxProfile n r w
  if m = 0 then s
  else
    let s1 := each (s.writeLe (a + 4) 4 (s.vdePut a)) recs (fun u rcd => u.faxWatch r a rcd)
    let ifps := Config.ifps q.1 q.2.2 (s.vdeAt a).fax.memory recs
    let s2 := s1.onFax a (fun f => { f with memory := Config.relayed f.memory recs.flatten })
    if s.inPass r.ctx then s2 else each s2 ifps (fun u ifp => u.sendIfp n q.2.1 a c ifp)

/-- A record enters the TX ring where it has room, with LOSS where an IFP has been lost since the last. -/
def State.txPut (s : State) (r : Run) (a : Nat) (rcd : List Byte) : State :=
  if s.ringFull a then s
  else
    let lost := (s.vdeAt a).fax.lost
    let b1 := (rcd.getD 1 0).toNat % 64 + b2n lost * 64
    let x := [BitVec.ofNat 8 (0x11 + (rcdTyp rcd + 3) % 4), BitVec.ofNat 8 b1, BitVec.ofNat 8 (rcdLen rcd % 13), 0] ++
      (rcd.drop 4 ++ List.replicate 12 0).take 12
    ((s.onFax a (fun f => { f with lost := false })).ringPut a x).faxWatch r a x

/-- An IFP becomes records. -/
def State.playIfp (s : State) (r : Run) (a ver : Nat) (tcf : Bool) (ifp : List Byte) : State :=
  let l := Config.ifpRecords ver tcf (s.vdeAt a).fax.memory ifp
  each (s.onFax a (fun f => { f with memory := Config.relayed f.memory ifp })) l (fun u rcd => u.txPut r a rcd)

/-- A primary IFP is missing: redundancy brings it, or it is lost. -/
def State.missIfp (s : State) (n : Nat) (r : Run) (a ver : Nat) (tcf : Bool) (ifp : Option (List Byte)) : State :=
  match ifp with
  | some bs => s.playIfp r a ver tcf bs
  | none => (s.onFax a (fun f => { f with lost := true })).vdeBump n (VDE.IFP_LOST_LO n) 1

/-- An IFP packet is received: the primaries between it and the one before are recovered or lost, and its own follows. -/
def State.takeIfp (s : State) (n : Nat) (r : Run) (w : Nat) (p : Stored) : State :=
  let a := ctxArea r.ctx (ciSoff w)
  let q := s.faxProfile n r w
  let l := (s.cellPayload p).bind udptlIfps
  let gap := match (s.vdeAt a).fax.last with | some q => p.seq - (q + 1) | none => 0
  let stale : Bool := match (s.vdeAt a).fax.last with | some q => decide (p.seq ≤ q) | none => false
  let s1 := (s.onFax a (fun f => { f with last := some p.seq })).vdeBump n (VDE.IFP_RX_LO n) 1
  if stale then s.vdeBump n (VDE.IFP_RX_LO n) 1
  else
    let s2 := each s1 (List.range gap) (fun u i => u.missIfp n r a q.1 q.2.2 (l.bind (fun e => e.2[gap - 1 - i]?)))
    s2.missIfp n r a q.1 q.2.2 (l.map (·.1))

def faxrelay (n k : Nat) (chain : Fin 2) (s : State) (r : Run) (w : Nat) : State × Option Block × Nat :=
  match s.faxBinder n k r with
  | none => (s, none, 1)
  | some (j, c) =>
    if bits w 45 44 = 0 then (s.faxOut n r w c, none, 0)
    else
      let o := s.takePresented n k chain (s.slot n j).tid
      (each o.1 o.2 (fun u p => u.takeIfp n r w p), none, 0)

def execFaxrelay (cl : Fin 32) (slot : BitVec 13) (chain : Fin 2) (s : State) : Result :=
  .next (s.romOp cl slot.toNat chain opFaxrelay (bindingPoisoned cl slot.toNat 1) (faxrelay cl slot.toNat chain))

end Sys2Proof.Machine
end

