-- ==== Sys2Proof/Machine/Resampler.lean ====
section
/-!
DEFINITION. The resampler: SRC, its stages, median, hold and cross-fade, and user coefficient sets (R258 to R266). The presets'
coefficients and shifts are not stated, and are open (log 8).
-/

namespace Sys2Proof.Machine

def State.srcBump (s : State) (n ctr k : Nat) : State := if k = 0 then s else s.bumpBy ctr k (SRC.EVT n) F.SRC_EVT_SCNT

/-- An entry of the resampler's log: 1 saturation, 2 fade cut short. -/
def State.srcLog (s : State) (n cause : Nat) (tid : BitVec 18) : State :=
  if s.rb (SRC.ERR_LOG n) F.SRC_ERR_LOG_VALID then s
  else s.wv (SRC.ERR_LOG n) (2 ^ 31 + cause * 2 ^ 24 + tid.toNat)

/-! ## Filters (R258, R259) -/

/-- The stages of a rate pair, as interpolation and decimation. -/
def srcStages (i o : Nat) : List (Nat × Nat) :=
  if i = o then [(1, 1)]
  else if i = 8 then (if o = 16 then [(2, 1)] else if o = 32 then [(2, 1), (2, 1)] else [(2, 1), (3, 1)])
  else if i = 16 then (if o = 8 then [(1, 2)] else if o = 32 then [(2, 1)] else [(3, 1)])
  else if i = 32 then (if o = 8 then [(1, 2), (1, 2)] else if o = 16 then [(1, 2)] else [(3, 1), (1, 2)])
  else (if o = 8 then [(1, 3), (1, 2)] else if o = 16 then [(1, 3)] else [(2, 1), (1, 3)])

/-- v ÷ 2^d, rounded convergently. -/
def roundConv (v : Int) (d : Nat) : Int :=
  let q := v / (2 ^ d : Nat)
  let r := v % (2 ^ d : Nat)
  if 2 * r < (2 ^ d : Nat) then q else if 2 * r = (2 ^ d : Nat) then q + q % 2 else q + 1

/-- A sum of products shifted left by SHIFT, rounded and saturated to Q15; whether it saturates. -/
def stageRound (sum : Int) (shift : Int) : Int × Bool :=
  let v := if 0 ≤ shift then roundConv (sum * (2 ^ shift.toNat : Nat)) 15 else roundConv sum (15 + (-shift).toNat)
  (clampInt (-32768) 32767 v, decide (v < -32768) || decide (32767 < v))

/-- A stage's output sample m: taps h over its input, interpolated and decimated. -/
def stageAt (h : List Int) (l d : Nat) (shift : Int) (xs : Array Int) (m : Nat) : Int × Bool :=
  stageRound (h.zipIdx.foldl (fun a e =>
    if e.2 ≤ m * d ∧ (m * d - e.2) % l = 0 then a + e.1 * xs.getD ((m * d - e.2) / l) 0 else a) 0) shift

/-- A stage over all of its input. -/
def stageRun (h : List Int) (l d : Nat) (shift : Int) (xs : List Int) : List (Int × Bool) :=
  (List.range (xs.length * l / d)).map (stageAt h l d shift xs.toArray)

/-- A user image: TAPS and SHIFT of a stage, and its coefficients. -/
def imgTaps (img : List Byte) (i : Nat) : Nat := leAt img (4 + 4 * i) 2 % 512
def imgShift (img : List Byte) (i : Nat) : Int := toSigned 4 (leAt img (4 + 4 * i) 2 / 4096)
def imgCoefs (img : List Byte) (i : Nat) : List Int :=
  (List.range (imgTaps img i)).map (fun j => toSigned 16 (leAt img (16 + 2 * (j + if i = 0 then 0 else imgTaps img 0)) 2))

/-- The image of a user set's bank. -/
def State.userImg (s : State) (n k bank : Nat) : List Byte := sget (s.cluster n).banks [] (2 * k + bank)

/-- The last input samples that a filter can need. -/
def srcHist : Nat := 1104

/-- The coefficients and SHIFT of a filter's stages, first stage first; a stage has 256 taps at most (R265, log 8). -/
def State.srcTaps (s : State) (n : Nat) (q : SrcFilter) (i o : Nat) : List (List Int × Int) :=
  (List.range (srcStages i o).length).map (fun j =>
    if q.set < 5 then ((Config.presetTaps (q.set, i, o) j).take 256, clampInt (-8) 7 (Config.presetShift (q.set, i, o) j))
    else
      let img := s.userImg n (q.set - 5) q.bank
      (imgCoefs img j, imgShift img j))

/-- The stages over the input history and m samples of a block: the outputs, and how many of the block's saturated. -/
def stagesRun : List ((Nat × Nat) × List Int × Int) → Nat → List Int → List Int × Nat
  | [], _, xs => (xs, 0)
  | (a, h, shift) :: rest, m, xs =>
    let y := stageRun h a.1 a.2 shift xs
    let k := m * a.1 / a.2
    let z := stagesRun rest k (y.map (·.1))
    (z.1, ((y.drop (y.length - k)).filter (·.2)).length + z.2)

/-- The points of a median code. -/
def medPoints (m : Nat) : Nat := if m = 1 then 3 else if m = 2 then 5 else 1

/-- D of R262 for a filter, in output samples: the filter's delay and the median's. -/
def State.srcDelay (s : State) (n : Nat) (q : SrcFilter) (o : Nat) : Nat :=
  let d := if q.set < 5 then ([16, 12, 8, 6, 2] : List Nat).getD q.set 0 * o / 8
    else ((s.userImg n (q.set - 5) q.bank).getD 1 0).toNat
  d + (medPoints q.median - 1) / 2

/-! ## Median (R260) -/

/-- The median of some values. -/
def medianOf (l : List Int) : Int := (sortBy l (fun a b => decide (a ≤ b))).getD (l.length / 2) 0

/-- The values of a stage's output, M − 1 of them before the block, through the median; replacements are counted. -/
def medianRun (points thr : Nat) (z : List Int) : List (Int × Bool) :=
  (List.range (z.length - (points - 1))).map (fun i =>
    let c := z.getD (i + (points - 1) / 2) 0
    let m := medianOf ((z.drop i).take points)
    if points ≠ 1 ∧ (128 * thr : Nat) < (c - m).natAbs then (m, true) else (c, false))

/-! ## A request (R261 to R264) -/

/-- What a filter makes of a block: its samples, saturations and replacements. -/
structure SrcOut where
  xs : List Int
  sats : Nat
  fixes : Nat
  deriving DecidableEq, Repr

/-- The output of a filter over history and block. -/
def State.srcRun (s : State) (n : Nat) (q : SrcFilter) (i o : Nat) (hist block : List Int) : SrcOut :=
  let m := block.length * o / i
  let y := stagesRun ((srcStages i o).zip (s.srcTaps n q i o)) block.length (hist ++ block)
  let p := medPoints q.median
  let z := medianRun p (s.rf (SRC.CFG n) F.SRC_CFG_MEDTHR) (y.1.drop (y.1.length - (m + (p - 1))))
  ⟨z.map (·.1), y.2, (z.filter (·.2)).length⟩

/-- A faded sample; which way an inexact one rounds is open (log 8). -/
def fadeSample (old new : Int) (i len : Nat) : Int :=
  let v := (len - (i + 1) : Nat) * old + (i + 1 : Nat) * new
  v / len + (if v % len ≠ 0 ∧ Config.fadeRounds (v % len).toNat len then 1 else 0)

def State.srcAt (s : State) (a : Nat) : Option SrcSt :=
  match s.area a with
  | .src r => some r
  | _ => none

/-- The filter that an instruction asks for, with the bank in force of a user set. -/
def State.srcFilter (s : State) (n w : Nat) : SrcFilter :=
  let set := bits w 45 43
  ⟨set, if set < 5 then 0 else s.rf (SRC.UINFO n (set - 5)) F.SRC_UINFO_BANK, bits w 39 38⟩

/-- XFADE as it acts. -/
def State.fadeLen (s : State) (n : Nat) : Nat := min 1024 (max 32 (s.rf (SRC.CFG n) F.SRC_CFG_XFADE))

/-- The area as a run finds it: reset, or with a fade started where the filter has changed. -/
def State.srcBegin (s : State) (n k a : Nat) (q : SrcFilter) (i : Option Nat) (o : Nat) : State × SrcSt :=
  let req := (s.byte a).toNat
  let again := match s.srcAt a with
    | none => true
    | some r => (match r.inKhz, i with | some x, some y => x != y | _, _ => false) || r.outKhz != o || r.taken != req
  match s.srcAt a, again with
  | some r, false =>
    let r1 := { r with inKhz := if r.inKhz.isSome then r.inKhz else i }
    if r.filter = q then (s, r1)
    else
      let s1 := s.srcBump n (SRC.FADES_LO n) 1
      let r2 := { r1 with filter := q, fade := some (r.filter, s.fadeLen n, 0) }
      if r.fade.isNone then (s1, r2)
      else (((s1.srcBump n (SRC.FADECUT_LO n) 1).srcLog n 2 (s.slot n k).tid).raise (SRC.EVT n) F.SRC_EVT_FADECUT, r2)
  | old, _ =>
    (s.srcBump n (SRC.SYNCS_LO n) 1,
      { inKhz := i, outKhz := o, filter := q, hist := List.replicate srcHist 0, out := 0
        hold := s.srcDelay n q o, taken := req, primed := none
        medfix := (match old with | some r => r.medfix | none => 0), fade := none })

/-- The header of an area, bytes 4 to 19. -/
def State.srcHeader (s : State) (a : Nat) (r : SrcSt) : State :=
  let v := match r.primed with | some p => p | none => (0xFFFF, 0)
  (((s.writeLe (a + 4) 4 (r.taken + b2n r.primed.isSome * 256 + b2n r.fade.isSome * 512 + v.1 * 65536)).writeLe (a + 8) 4
    (v.2 / 1000000000 % 2 ^ 32)).writeLe (a + 12) 4 (v.2 % 1000000000)).writeLe (a + 16) 4 (r.medfix % 2 ^ 32)

/-- The rate in kHz of an instruction's input block, as the version gives it; of a block that only its writer knows, the block's. -/
def State.inputKhz (s : State) (n : Nat) (chain : Fin 2) (r : Run) (w : Nat) : Option Nat :=
  let ws := ((s.runWords r.ctx chain).take r.idx).map (·.2)
  match (s.walkList (s.walkCtx n r.ctx) Walk.init [] ws).types.getD (ciBi w) .unset with
  | .pcm k => some k
  | _ => if (r.block (ciBi w)).missing then none else some (rateKhz (r.block (ciBi w)).rate.val)

/-- The samples of a block, those of a MISSING one zeros. -/
def srcInput (b : Block) (khz p : Nat) : List (BitVec 16) := if b.missing then List.replicate (khz * p) 0 else b.samples

/-- SRC over a block. -/
def State.resample (s : State) (n k : Nat) (chain : Fin 2) (r : Run) (w : Nat) (b : Block) : State × Block :=
  let a := ctxArea r.ctx (ciSoff w)
  let q := s.srcFilter n w
  let o := rateKhz (bits w 42 40)
  let p := ctxPeriod r.ctx
  let g := s.srcBegin n k a q (s.inputKhz n chain r w) o
  let x := g.2
  let i := x.inKhz.getD (rateKhz b.rate.val)
  let ins := srcInput b i p
  let m := o * p
  let hist := x.hist.map BitVec.toInt
  let y := g.1.srcRun n x.filter i o hist (ins.map BitVec.toInt)
  let old := match x.fade with
    | some e => g.1.srcRun n e.1 i o hist (ins.map BitVec.toInt)
    | none => ⟨[], 0, 0⟩
  let faded : List Int := match x.fade with
    | some e => y.xs.zipIdx.map (fun v =>
        if v.2 + e.2.2 < e.2.1 then fadeSample (old.xs.getD v.2 0) v.1 (v.2 + e.2.2) e.2.1 else v.1)
    | none => y.xs
  let d := x.hold
  let xs := faded.zipIdx.map (fun v => if v.2 + x.out < d then (0 : BitVec 16) else BitVec.ofNat 16 (ofSigned 16 v.1))
  let tag := if b.missing then r.boundary * 1000 else b.tag
  let x1 : SrcSt := { x with
    hist := (x.hist ++ ins).drop ins.length
    out := x.out + m
    primed := if x.primed.isNone && decide (d < x.out + m) then some (d - x.out, tag + (d - x.out) * 1000000 / o) else x.primed
    medfix := x.medfix + y.fixes + old.fixes
    fade := match x.fade with
      | some e => if e.2.2 + m < e.2.1 then some (e.1, e.2.1, e.2.2 + m) else none
      | none => none }
  let s1 := (g.1.setArea a (.src x1)).srcHeader a x1
  let sats := y.sats + old.sats
  let s2 := if sats = 0 then s1
    else ((s1.srcBump n (SRC.SATS_LO n) sats).srcLog n 1 (s.slot n k).tid).raise (SRC.EVT n) F.SRC_EVT_SAT
  (s2.srcBump n (SRC.REQUESTS_LO n) 1,
    { Block.empty with rate := khzCode o, samples := xs, missing := b.missing, noise := b.noise, sid := b.sid, tag := tag })

/-- A shed SRC of equal rates: the block passes, and fills the history; a reset that is due is taken (R262). -/
def State.srcShed (s : State) (n k : Nat) (chain : Fin 2) (r : Run) (w : Nat) (b : Block) : State :=
  let a := ctxArea r.ctx (ciSoff w)
  let g := s.srcBegin n k a (s.srcFilter n w) (s.inputKhz n chain r w) (rateKhz (bits w 42 40))
  let ins := srcInput b (g.2.inKhz.getD 8) (ctxPeriod r.ctx)
  let x : SrcSt := { g.2 with hist := (g.2.hist ++ ins).drop ins.length }
  (g.1.setArea a (.src x)).srcHeader a x

/-! ## The commands (R265, R266) -/

def State.setSrcQueue (s : State) (n : Nat) (q : List (BitVec 13 × Fin 2)) : State :=
  s.setCluster n { s.cluster n with srcQueue := q }

def execSrc (cl : Fin 32) (slot : BitVec 13) (chain : Fin 2) (s : State) : Result :=
  .next (match s.shedNow cl slot.toNat chain opSrc with
    | some (r, w) => (s.srcShed cl slot.toNat chain r w (r.block (ciBi w))).instrDone cl slot.toNat chain (some (r.block (ciBi w)))
    | none => s.chainOp cl slot.toNat chain (fun v => ciOp v == opSrc) (fun u q _ =>
        (u.setRun cl slot.toNat chain (some { q with wait := .resampler })).setSrcQueue cl
          ((u.cluster cl).srcQueue ++ [(slot, chain)])))

/-- The end of a request. -/
def State.srcEnd (s : State) (n k : Nat) (chain : Fin 2) : State :=
  match s.run n k chain with
  | none => s
  | some r =>
    let w := s.runInstr r chain
    let o := s.resample n k chain r w (r.block (ciBi w))
    o.1.instrDone n k chain (some o.2)

/-- RESAMPLER_COMPLETE: the request at the head of the queue ends. -/
def State.srcComplete (s : State) (n : Nat) : State :=
  match (s.cluster n).srcQueue with
  | [] => s
  | (slot, chain) :: q => if s.dormant then s else (s.setSrcQueue n q).srcEnd n slot.toNat chain

def execResamplerComplete (cl : Fin 32) (s : State) : Result := .next (s.srcComplete cl)

/-- An image lies whole in Cellar or DRAM, and is not poisoned. -/
def State.imgAt (s : State) (n a len : Nat) : Bool :=
  (match placeOf a with | .cellar _ => true | .dram _ => true | _ => false) && s.rangeOk (dieOf n) a len && !s.poisonedIn a len

/-- A header is valid: NSTG, TAPS and DELAY. -/
def imgHeadOk (h : List Byte) : Bool :=
  let b0 := (h.getD 0 0).toNat
  let k := (srcStages (rateKhz (b0 % 4)) (rateKhz (b0 / 4 % 4))).length
  let t (i : Nat) : Bool := decide (1 ≤ imgTaps h i) && decide (imgTaps h i ≤ 256)
  b0 / 16 % 4 == k && t 0 && (if k = 2 then t 1 else imgTaps h 1 == 0) && (h.getD 1 0) != 0

/-- UCMD: a user set is loaded into the bank not in force, which then comes into force. -/
def State.srcUcmd (s : State) (n op set : Nat) : State :=
  if !s.ready (SRC.USTATUS n) then s
  else
    let done (u : State) (code : Nat) : State := (u.put (SRC.USTATUS_SET n) F.SRC_USTATUS_SET_SET set).post (SRC.USTATUS n) code
    let s0 := s.begin_ (SRC.USTATUS n)
    if op ≠ 1 ∨ 3 ≤ set then done s0 0x0504
    else
      let a := s.rf (SRC.UBASE n set) F.SRC_UBASE_BASE * 256
      let h := s.bytes a 16
      let len := 16 + 2 * (imgTaps h 0 + imgTaps h 1)
      let u := SRC.UINFO n set
      let b0 := (h.getD 0 0).toNat
      if !s.imgAt n a 16 then done s0 0x0503
      else if !imgHeadOk h then done s0 0x0501
      else if !s.imgAt n a len then done s0 0x0503
      else if s.rf (SRC.USERS n set) F.SRC_USERS_USERS ≠ 0 ∧
          (s.rf u F.SRC_UINFO_INRATE ≠ b0 % 4 ∨ s.rf u F.SRC_UINFO_OUTRATE ≠ b0 / 4 % 4 ∨
            s.rf u F.SRC_UINFO_DELAY ≠ (h.getD 1 0).toNat) then done s0 0x0502
      else
        let bank := if s.rb u F.SRC_UINFO_LOADED then 1 - s.rf u F.SRC_UINFO_BANK else 0
        let s1 := s0.setCluster n { s0.cluster n with banks := sput (s0.cluster n).banks (2 * set + bank) (s.bytes a len) }
        done (s1.wv u (2 ^ 31 + bank * 2 ^ 30 + b0 % 4 * 1024 + b0 / 4 % 4 * 256 + (h.getD 1 0).toNat)) 0

def execUserSetLoad (cl : Fin 32) (set : Fin 8) (s : State) : Result :=
  hostCmd s (SRC.UCMD cl) (fun u => u.srcUcmd cl 1 set)

end Sys2Proof.Machine
end

