-- ==== Sys2Proof/Machine/Cluster.lean ====
section
/-!
DEFINITION. Operating points and target voltages of the islands (R66 to R72), the states of a cluster (R362), and what
OFF and a cluster reset do to one (R39, R149, R407, R409).
-/

namespace Sys2Proof.Machine

/-! ## Points and voltages (R66, R69) -/

/-- Islands: 0 to 31 clusters, 32 and 33 fabrics, 34 to 38 MACs, 39 to 44 TDM groups, 45 and 46 Wardens (R66). -/
def isCluster (i : Nat) : Bool := decide (i < 32)
def isFabric (i : Nat) : Bool := decide (i = 32) || decide (i = 33)

/-- The die of an island, whose fabric it borders. -/
def islandDie (i : Nat) : Nat :=
  if i < 32 then i / 16
  else if i < 34 then i - 32
  else if i < 38 then (i - 34) / 2
  else if i = 38 then 0
  else if i < 45 then (i - 39) / 3
  else i - 45

/-- The voltage of a point in mV. -/
def pointMv (i p : Nat) : Nat :=
  if isCluster i then ([600, 700, 750, 850] : List Nat).getD (p % 4) 600
  else if isFabric i then (if p = 0 then 750 else 850)
  else 750

/-- The highest and the lowest point of an island's ceiling. -/
def topPoint (i : Nat) : Nat := if isCluster i then 3 else if isFabric i then 1 else 0

/-- The target of a point with a trim, in mV. -/
def targetMv (i p trim : Nat) : Nat := ((pointMv i p : Int) + 10 * toSigned 3 trim).toNat

def State.opReq (s : State) (i : Nat) : Nat := s.rf (opReg i) F.GLB_OP_CLUSTER_REQ
def State.opCeil (s : State) (i : Nat) : Nat := s.rf (opReg i) F.GLB_OP_CLUSTER_CEIL
def State.opTrim (s : State) (i : Nat) : Nat := s.rf (opReg i) F.GLB_OP_CLUSTER_VTRIM
def State.opMv (s : State) (i : Nat) : Nat := s.rf (opReg i) F.GLB_OP_CLUSTER_MV

/-- The island has a supply: a cluster that is not OFF; a TDM group or a Warden outside DORMANT (R70, R78). -/
def State.powered (s : State) (i : Nat) : Bool :=
  if isCluster i then s.clState i != stOff
  else if i < 39 then true
  else !s.dormant

/-- Two targets keep the limit of R70. -/
def mvClose (a b : Nat) : Bool := decide (a ≤ b + 250) && decide (b ≤ a + 250)

/-- Islands that border an island: a fabric borders every island of its die, any other the fabric of its die (R66). -/
def neighbours (i : Nat) : List Nat :=
  if isFabric i then (List.range 47).filter (fun j => !isFabric j && islandDie j == i - 32)
  else [32 + islandDie i]

/-- A target of an island meets R70 against every powered neighbour. -/
def State.mvOk (s : State) (i mv : Nat) : Bool :=
  (neighbours i).all (fun j => !s.powered j || mvClose mv (s.opMv j))

/-- EFF and MV follow REQ, CEIL and VTRIM; a cluster's budget and capacities follow EFF (R69, R71). -/
def State.applyPoint (s : State) (i : Nat) : State :=
  let e := min (s.opReq i) (s.opCeil i)
  let s1 := (s.put (opReg i) F.GLB_OP_CLUSTER_EFF e).put (opReg i) F.GLB_OP_CLUSTER_MV
    (if s.powered i then targetMv i e (s.opTrim i) else 0)
  if isCluster i ∧ s.clState i ≠ stOff then s1.reassess i else s1

/-- A cluster leaves OFF at point REQ, capped by CEIL, with trim 0 where its own would break R70. -/
def State.startPoint (s : State) (n : Nat) : State :=
  let mv := targetMv n (min (s.opReq n) (s.opCeil n)) (s.opTrim n)
  (if mvClose mv (s.opMv (32 + dieOf n)) then s else s.put (opReg n) F.GLB_OP_CLUSTER_VTRIM 0).applyPoint n

/-! ## States (R362) -/

/-- The state of a cluster changes, with GLB.EVT.CLSTATE. -/
def State.setClState (s : State) (n st : Nat) : State :=
  (s.put (WS.STATUS n) F.WS_STATUS_STATE st).raise GLB.EVT F.GLB_EVT_CLSTATE

/-- SLOTS of CTX: slots that are not FREE. -/
def State.slotCount (s : State) (n : Nat) : Nat := ((s.slotsOf n).filter (fun e => e.2.st != .free)).length

/-! ## What OFF and a cluster reset discard (R149, R409) -/

/-- Packets that the runs of a cluster hold. -/
def Slot.cells (x : Slot) : List Stored :=
  (match x.run0 with | some r => r.cells | none => []) ++ (match x.run1 with | some r => r.cells | none => [])

/-- Open packets of a cluster's tiles and accelerators are abandoned (R135). -/
def State.abandonCluster (s : State) (n : Nat) : State :=
  let cl : Fin 32 := ⟨n % 32, Nat.mod_lt _ (by decide)⟩
  let s1 := each s (List.finRange 12) (fun u t => u.abandonAll (.tile cl t))
  each s1 (List.finRange 8) (fun u k => u.abandonAll (.accel cl k))

/-- Pending items, armed timers, open runs and what runs on the tiles are discarded, with the slots; what was presented to
a run is freed. -/
def State.discardCluster (s : State) (n : Nat) : State :=
  let s1 := s.freeCells ((s.slotsOf n).flatMap (fun e => e.2.cells))
  let s2 := s1.abandonCluster n
  { s2 with
    cores := s2.cores.filter (fun e => e.1 / 12 != n)
    clusters := sdel s2.clusters n
    slots := s2.slots.filter (fun e => e.1 / 8192 != n) }

/-- Items that are pending or wait for room. -/
def State.itemsOf (s : State) (n : Nat) : Nat := (s.cluster n).pend.length + (s.cluster n).waiting.length

def State.countDiscarded (s : State) (n k : Nat) : State := s.bumpBy (WS.DISCARDED_LO n) k (WS.EVT n) F.WS_EVT_WCNT

/-- The cluster's store and tile memories are zeroed. -/
def State.zeroCluster (s : State) (n : Nat) : State :=
  (s.zeroRange (0x19000000 + n * 0x200000) (0x19000000 + (n + 1) * 0x200000)).zeroRange
    (0x30000000 + n * 0x600000) (0x30000000 + (n + 1) * 0x600000)

/-- A cluster enters OFF: its memories lose their contents, its island its target (R39, R69, R149). -/
def State.clusterOff (s : State) (n : Nat) : State :=
  let k := s.itemsOf n
  let s1 := (((s.discardCluster n).countDiscarded n k).zeroCluster n).setClState n stOff
  (s1.put (opReg n) F.GLB_OP_CLUSTER_MV 0).wv (GLB.TEMP n) 0

/-- A register of the cluster that a cluster reset resets (R407). -/
def clusterDomain (n a : Nat) : Bool :=
  windowOf a == some n &&
    (match regRow a with
     | some r => r.dom == .warmCluster || r.dom == .cluster
     | none => false)

/-- The registers of a cluster's reset domain take their reset values. -/
def State.resetClusterRegs (s : State) (n : Nat) : State :=
  { s with regs := s.regs.filter (fun e => !clusterDomain n e.1) }

/-- A cluster reset (R407, R409): everything of the cluster is discarded, its registers and memories reset, EPOCH rises by
1, and the cluster passes to BRINGUP. The discarded items are counted after the counter itself was reset (log 37). -/
def State.clusterWipe (s : State) (n : Nat) : State :=
  let k := s.itemsOf n
  let e := s.rf (CTX.EPOCH n) F.CTX_EPOCH_EPOCH
  let was := s.clState n
  let s1 := ((s.discardCluster n).resetClusterRegs n).zeroCluster n
  let s2 := ((s1.put (CTX.EPOCH n) F.CTX_EPOCH_EPOCH (e + 1)).put (WS.STATUS n) F.WS_STATUS_SHED 0).countDiscarded n k
  let s3 := s.changed s2
  let s4 := s3.setClState n stBringup
  if was = stOff then s4.startPoint n else s4.reassess n

/-- BRINGUP_COMPLETE: supplies, clocks and memories are initialised. -/
def execBringupComplete (cl : Fin 32) (s : State) : Result :=
  .next (if s.clState cl = stBringup then s.setClState cl stTest else s)

end Sys2Proof.Machine
end

