-- ==== Sys2Proof/Machine/Power.lean ====
section
/-!
DEFINITION. The DVFS arbiter (R69 to R73), and DORMANT with its entry, its exit and what wakes the package (R78, R79).
-/

namespace Sys2Proof.Machine

/-! ## Requests (R69 to R71, R73) -/

/-- The result group of who asks: GLB for the host, else a Warden's. -/
def dvfsGroup (origin : Nat) : Nat := if origin = 0 then GLB.DVFS_STATUS else WDN.DVFS_STATUS (origin - 1)

/-- The point that a request asks of an island: fixed islands ignore it. -/
def DvfsReq.pt (r : DvfsReq) : Nat := if isCluster r.island || isFabric r.island then r.point else 0

/-- The target that a request asks for. -/
def DvfsReq.mv (r : DvfsReq) : Nat := targetMv r.island r.pt r.trim

/-- The target that would be in force after it. -/
def State.heldMv (s : State) (r : DvfsReq) : Nat := targetMv r.island (min r.pt (s.opCeil r.island)) r.trim

/-- A lower point no longer carries what is committed on the cluster (R71, R209, R227, R241, R266). -/
def State.tooLow (s : State) (r : DvfsReq) : Bool :=
  isCluster r.island && decide (r.pt < s.opReq r.island) &&
    (decide (s.budgetAt r.island r.pt < s.load r.island) || !(s.useOf r.island).fits (s.capAt r.island r.pt))

/-- The first cause that refuses a request, in the order 0x0002, 0x0004, 0x0001, 0x0003, or 0. Both the target asked for
and the one that a ceiling leaves in force keep R70 (log 36). -/
def State.dvfsCode (s : State) (r : DvfsReq) : Nat :=
  if 47 ≤ r.island ∨ (isFabric r.island ∧ 1 < r.point) ∨ 850 < r.mv then 2
  else if !s.powered r.island then 4
  else if !s.mvOk r.island r.mv || !s.mvOk r.island (s.heldMv r) then 1
  else if s.tooLow r then 3
  else 0

/-- A request is accepted: REQ and VTRIM take it. -/
def State.dvfsAccept (s : State) (r : DvfsReq) : State :=
  ((s.put (opReg r.island) F.GLB_OP_CLUSTER_REQ r.pt).put (opReg r.island) F.GLB_OP_CLUSTER_VTRIM r.trim).applyPoint r.island

/-- The arbiter judges the request that is first, and those behind it while each is refused. -/
def State.dvfsJudge (s : State) : List DvfsReq → State
  | [] => { s with dvfs := [] }
  | r :: rest =>
    match r.code with
    | some _ => { s with dvfs := r :: rest }
    | none =>
      let c := s.dvfsCode r
      if c = 0 then
        let s1 := s.dvfsAccept r
        { s1 with dvfs := { r with code := some (if s.opCeil r.island < r.pt then 5 else 0) } :: rest }
      else ((s.post (dvfsGroup r.origin) c).raise GLB.EVT F.GLB_EVT_DVFSREF).dvfsJudge rest

/-- A request comes to the arbiter: ignored while the result group of who asks is not READY. -/
def State.dvfsAsk (s : State) (origin island point trim : Nat) : State :=
  if !s.ready (dvfsGroup origin) then s
  else (s.begin_ (dvfsGroup origin)).dvfsJudge (s.dvfs ++ [⟨origin, island, point, trim, none⟩])

/-- DVFS_REQ: the host's request. -/
def execDvfsReq (island : BitVec 6) (point : BitVec 2) (trim : BitVec 3) (s : State) : Result :=
  hostCmd s GLB.DVFS_REQ (fun u => u.dvfsAsk 0 island.toNat point.toNat trim.toNat)

/-- DVFS_TRANSITION_END: the transition in progress ends, its code is posted, and the next request is judged. -/
def State.dvfsEnd (s : State) : State :=
  match s.dvfs with
  | [] => s
  | r :: rest =>
    match r.code with
    | none => s
    | some c => (s.post (dvfsGroup r.origin) c).dvfsJudge rest

def execDvfsTransitionEnd (s : State) : Result := .next s.dvfsEnd

/-! ## DORMANT (R78, R79) -/

/-- The islands that DORMANT powers down follow it. -/
def State.sleepIslands (s : State) : State :=
  each s ((List.range 8).map (39 + ·)) (fun u i => (u.applyPoint i).wv (GLB.TEMP i) (if u.powered i then u.rv (GLB.TEMP i) else 0))

/-- SELFREF of the trained channels. -/
def State.selfRefresh (s : State) (on : Bool) : State :=
  each s (List.range 4) (fun u c =>
    if u.rb (DDR.STATUS1 c) F.DDR_STATUS1_TRAINED then u.put (DDR.STATUS1 c) F.DDR_STATUS1_SELFREF (b2n on) else u)

/-- A DORMANT request is refused. -/
def State.pwrRefuse (s : State) (code : Nat) : State :=
  ((s.begin_ GLB.PWR_STATUS).post GLB.PWR_STATUS code).raise GLB.EVT F.GLB_EVT_PWRREF

/-- PWR_ENTER: entry begins when every cluster is OFF. While an exit that a wake began is in progress the write is dropped with no
result (DESIGN CHOICE, log 47). -/
def State.pwrEnter (s : State) : State :=
  if !s.ready GLB.PWR_STATUS || s.sleep.exiting.isSome then s
  else if s.dormant then s.pwrRefuse 0x0011
  else if (List.range 32).any (fun n => s.clState n != stOff) then s.pwrRefuse 0x0010
  else { s.begin_ GLB.PWR_STATUS with sleep := ⟨true, none, none⟩ }

def execPwrEnter (s : State) : Result := hostCmd s GLB.PWR State.pwrEnter

/-- Something wakes the package: during entry it waits for the entry's end; a wake during an exit adds nothing. -/
def State.wake (s : State) (cause : Nat) : State :=
  if s.sleep.entering then
    if s.sleep.late.isSome then s else { s with sleep := { s.sleep with late := some cause } }
  else if s.dormant && s.sleep.exiting.isNone then { s with sleep := { s.sleep with exiting := some cause } }
  else s

/-- DORMANT_ENTRY_COMPLETE: the state of R78 holds. A wake that came meanwhile begins the exit at once. A
cluster brought UP meanwhile does not stop the entry, and stays as it is (DESIGN CHOICE, log 48). -/
def State.dormantEntered (s : State) : State :=
  if !s.sleep.entering then s
  else
    let s1 := ((s.put GLB.PWR F.GLB_PWR_STATE 1).sleepIslands).selfRefresh true
    { s1.post GLB.PWR_STATUS 0 with sleep := ⟨false, s.sleep.late, none⟩ }

def execDormantEntryComplete (s : State) : Result := .next s.dormantEntered

/-- PWR_EXIT: refused in ACTIVE; a write during entry is a wake like any other (log 36). -/
def State.pwrExit (s : State) : State :=
  if s.sleep.entering then s.wake 1
  else if !s.dormant then (if s.ready GLB.PWR_STATUS then s.pwrRefuse 0x0011 else s)
  else if s.sleep.exiting.isSome || !s.ready GLB.PWR_STATUS then s
  else (s.begin_ GLB.PWR_STATUS).wake 1

def execPwrExit (s : State) : Result := hostCmd s GLB.PWR State.pwrExit

/-- WAKE_N: low for at least 1 µs, with WAKE_PIN set. -/
def execWakeN (lowNs : Nat) (s : State) : Result :=
  .next (if s.rb GLB.PWR F.GLB_PWR_WAKE_PIN ∧ 1000 ≤ lowNs then s.wake 2 else s)

/-- DORMANT_EXIT_COMPLETE: the package is ACTIVE, with the cause latched; the watchdog's count starts from 0 (R412) and TDM
frames realign to the grid. -/
def State.dormantLeft (s : State) : State :=
  match s.sleep.exiting with
  | none => s
  | some c =>
    let s1 := ((s.put GLB.PWR F.GLB_PWR_STATE 0).put GLB.PWR F.GLB_PWR_WAKE_CAUSE c).sleepIslands
    let s2 := (s1.selfRefresh false).wv GLB.WDT_COUNT 0
    let s3 := if s2.ready GLB.PWR_STATUS then s2 else s2.post GLB.PWR_STATUS 0
    (({ s3 with sleep := Sleep.init, wdt := 0 } : State).tdmResume).raise GLB.EVT F.GLB_EVT_WAKE

def execDormantExitComplete (s : State) : Result := .next s.dormantLeft

end Sys2Proof.Machine
end

