-- ==== Sys2Proof/Machine/Time.lean ====
section
/-!
DEFINITION. The time bases, their discipline, media time, pulses and the calendar (R339 to R354, R436). A base or an
increment is counted in units of 2^-32 ns where it is computed with.
-/

namespace Sys2Proof.Machine

/-! ## Numbers -/

/-- num ÷ den rounded to the nearest whole number, a tie to the even one (R436). -/
def roundEven (num den : Nat) : Nat :=
  let q := num / den
  let r := num % den
  if 2 * r < den then q else if den < 2 * r then q + 1 else q + q % 2

/-- 2 ns × ppm × 10^-6 (R436). -/
def ppmTerm (ppm : Nat) : Nat := roundEven (2 * 2 ^ 32 * ppm) 1000000

/-- 1 ns, and the nominal increment. -/
def unitNs : Nat := 2 ^ 32
def nominal : Nat := 2 * 2 ^ 32

/-- A base as one number. -/
def TimeBase.total (x : TimeBase) : Nat := (x.sec.toNat * 1000000000 + x.ns.toNat) * 2 ^ 32 + x.frac.toNat

/-- A base from one number; seconds wrap (R339). -/
def TimeBase.ofTotal (v : Nat) : TimeBase :=
  ⟨BitVec.ofNat 48 (v / 2 ^ 32 / 1000000000), BitVec.ofNat 32 (v / 2 ^ 32 % 1000000000), BitVec.ofNat 32 v⟩

def TimeBase.add (x : TimeBase) (inc : Nat) : TimeBase := TimeBase.ofTotal (x.total + inc)

def State.setTb (s : State) (b : Fin 4) (x : TimeBase) : State :=
  { s with
    tbs := s.tbs.set b x
    clockwork := if s.divided then s.clockwork else { s.clockwork with mirror := s.clockwork.mirror.set b x } }

/-! ## Domains (R340, R344) -/

def State.disc (s : State) (b : Fin 2) : Discipline := if b = 0 then s.clockwork.dom0 else s.clockwork.dom1

def State.setDisc (s : State) (b : Fin 2) (x : Discipline) : State :=
  if b = 0 then { s with clockwork := { s.clockwork with dom0 := x } } else { s with clockwork := { s.clockwork with dom1 := x } }

def domField (b : Fin 2) : Fld := if b = 0 then F.TIME_STATUS_STA else F.TIME_STATUS_STB
def domEvent (b : Fin 2) : Fld := if b = 0 then F.TIME_EVT_DOMA else F.TIME_EVT_DOMB

def domFree : Nat := 0
def domTracking : Nat := 1
def domHoldover : Nat := 2

def State.domState (s : State) (b : Fin 2) : Nat := s.rf TIME.STATUS (domField b)

/-- A domain changes state. -/
def State.setDom (s : State) (b : Fin 2) (st : Nat) : State :=
  if s.domState b = st then s else (s.put TIME.STATUS (domField b) st).raise TIME.EVT (domEvent b)

/-- INCHI:INCLO as written, and as it acts. -/
def State.incReg (s : State) (b : Fin 2) : Nat := s.rf (TIME.INCHI b.val) F.TIME_INCHI_INCNS * 2 ^ 32 + s.rv (TIME.INCLO b.val)

def incMin : Nat := 0x1FF7CED92
def incMax : Nat := 0x20083126E
def clampInc (v : Nat) : Nat := max incMin (min incMax v)

/-- The effective frequency increment of TB0 or TB1, without its slew. -/
def State.freqInc (s : State) (b : Fin 2) : Nat :=
  if s.domState b = domHoldover then (s.disc b).mean else clampInc (s.incReg b)

/-- The newest spells that a number of ticks takes in. -/
def keepSpells : Nat → List (Nat × Nat) → List (Nat × Nat)
  | _, [] => []
  | n, e :: rest => if n ≤ e.2 then [e] else e :: keepSpells (n - e.2) rest

/-- The spell at the increment in force in TRACKING is closed. -/
def State.closeSpell (s : State) (b : Fin 2) : State :=
  let x := s.disc b
  if s.domState b = domTracking then
    s.setDisc b { x with
      spells := keepSpells (63 * 500000000) ((clampInc (s.incReg b), s.clockwork.ticks - x.seg) :: x.spells)
      seg := s.clockwork.ticks }
  else s

/-- The host has adjusted a domain: TRACKING begins or goes on. -/
def State.adjusted (s : State) (b : Fin 2) : State :=
  if !s.rb (TIME.DCFG b.val) F.TIME_DCFG_EN then s
  else
    let x := s.disc b
    let seg := if s.domState b = domTracking then x.seg else s.clockwork.ticks
    (s.setDisc b { x with since := s.clockwork.ticks, seg := seg }).setDom b domTracking

/-- ADJREM: the remainder in whole ns, toward zero. -/
def State.showRem (s : State) (b : Fin 2) : State :=
  s.wv (TIME.ADJREM b.val) (ofSigned 32 ((s.disc b).rem.tdiv (unitNs : Int)))

/-- A remainder is set. -/
def State.setRem (s : State) (b : Fin 2) (rem : Int) (slewing : Bool) : State :=
  (s.setDisc b { s.disc b with rem := rem, slewing := slewing }).showRem b

/-- INC_WRITE: the increment of TB0 or TB1. A value outside the limits acts as the nearer one. A remainder kept from
HOLDOVER resumes. -/
def State.incWrite (s : State) (b : Fin 2) (hi : Bool) (val : Word) : State :=
  let s0 := s.closeSpell b
  let s1 := if hi then s0.put (TIME.INCHI b.val) F.TIME_INCHI_INCNS val.toNat else s0.setReg (TIME.INCLO b.val) val
  let s2 := if clampInc (s1.incReg b) = s1.incReg b then s1
    else (s1.bump TIME.CLAMPS_LO TIME.EVT F.TIME_EVT_CNT).raise TIME.EVT (domEvent b)
  let s3 := s2.adjusted b
  if s.domState b = domHoldover ∧ s3.domState b = domTracking then s3.setRem b (s3.disc b).rem ((s3.disc b).rem != 0) else s3

def execIncWrite (b : Fin 2) (hi : Bool) (val : BitVec 32) (s : State) : Result :=
  hostCmd s (if hi then TIME.INCHI b.val else TIME.INCLO b.val) (fun u => u.incWrite b hi val)

/-- ADJ: a phase slew starts, or replaces the remainder. -/
def State.adj (s : State) (b : Fin 2) (val : Word) : State :=
  (s.setRem b (toSigned 32 val.toNat * unitNs) (val != 0)).adjusted b

def execAdj (b : Fin 2) (val : BitVec 32) (s : State) : Result := hostCmd s (TIME.ADJ b.val) (fun u => u.adj b val)

/-- A domain goes to FREE: a remainder kept from HOLDOVER is dropped (R344). -/
def State.domToFree (s : State) (b : Fin 2) : State :=
  let s1 := s.closeSpell b
  (if s.domState b = domHoldover then s1.setRem b 0 false else s1).setDom b domFree

/-! ## Media time (R345, R346) -/

/-- TB2CTL.SRC as a base. -/
def State.tb2Source (s : State) : Fin 4 :=
  match s.rf TIME.STATUS F.TIME_STATUS_SRC with
  | 0 => 0
  | 1 => 1
  | _ => 3

/-- D: the source minus TB2. -/
def State.tb2D (s : State) : Int := (s.tb s.tb2Source).total - (s.tb 2).total

/-- TB2DIFF: D in ns, toward zero, saturating. -/
def State.showDiff (s : State) : State :=
  s.wv TIME.TB2DIFF (ofSigned 32 (clampInt (-(2 ^ 31 - 1)) (2 ^ 31 - 1) (s.tb2D.tdiv (unitNs : Int))))

/-- A switch completes when |D| is 1 ns or less. -/
def State.switchDone (s : State) : State :=
  if s.rb TIME.STATUS F.TIME_STATUS_SLEWING ∧ s.tb2D.natAbs ≤ unitNs then
    ((({ s with clockwork := { s.clockwork with corr := false } } : State).put TIME.STATUS F.TIME_STATUS_SLEWING 0).raise
      TIME.EVT F.TIME_EVT_SWITCH)
  else s

/-- SRC changes. -/
def State.setSource (s : State) (src : Nat) : State :=
  if src = 3 ∨ s.rf TIME.STATUS F.TIME_STATUS_SRC = src then s
  else
    let s1 := ((s.put TIME.STATUS F.TIME_STATUS_SRC src).put TIME.TB2CTL F.TIME_TB2CTL_SRC src).bump
      TIME.SWITCHES_LO TIME.EVT F.TIME_EVT_CNT
    (((s1.put TIME.STATUS F.TIME_STATUS_SLEWING 1).raise TIME.EVT F.TIME_EVT_SWITCH).switchDone).showDiff

/-- TB2CTL_WRITE. SRC is taken from a write that carries WSEL = 0. -/
def State.tb2ctl (s : State) (val : Word) : State :=
  let s1 := ((s.put TIME.TB2CTL F.TIME_TB2CTL_SLEW (fget F.TIME_TB2CTL_SLEW val)).put TIME.TB2CTL F.TIME_TB2CTL_WSEL
    (fget F.TIME_TB2CTL_WSEL val)).put TIME.TB2CTL F.TIME_TB2CTL_AUTOSW (fget F.TIME_TB2CTL_AUTOSW val)
  if fget F.TIME_TB2CTL_WSEL val = 0 then s1.setSource (fget F.TIME_TB2CTL_SRC val) else s1

def execTb2ctlWrite (val : BitVec 32) (s : State) : Result := hostCmd s TIME.TB2CTL (fun u => u.tb2ctl val)

/-- HOLDOVER_ENTRY: HOLDTO seconds have passed in TRACKING without an adjustment. -/
def State.holdDue (s : State) (b : Fin 2) : Bool :=
  s.domState b == domTracking &&
    decide ((s.disc b).since + max 1 (s.rf (TIME.DCFG b.val) F.TIME_DCFG_HOLDTO) * 500000000 ≤ s.clockwork.ticks)

/-- Ticks and increments of the newest spells, within a number of ticks. -/
def spellSum : Nat → List (Nat × Nat) → Nat × Nat
  | _, [] => (0, 0)
  | n, e :: rest =>
    let t := min n e.2
    let r := spellSum (n - t) rest
    (e.1 * t + r.1, t + r.2)

/-- The time-weighted mean of the increment over the last AVGS seconds in TRACKING. -/
def State.meanInc (s : State) (b : Fin 2) : Nat :=
  let r := spellSum (max 1 (s.rf (TIME.DCFG b.val) F.TIME_DCFG_AVGS) * 500000000) (s.disc b).spells
  if r.2 = 0 then clampInc (s.incReg b) else roundEven r.1 r.2

def State.holdover (s : State) (b : Fin 2) : State :=
  if !s.holdDue b then s
  else
    let s1 := s.closeSpell b
    let s2 := s1.setDisc b { s1.disc b with mean := s1.meanInc b, slewing := false }
    let s3 := (s2.setDom b domHoldover).bump TIME.HOLDOVERS_LO TIME.EVT F.TIME_EVT_CNT
    if s3.rf TIME.STATUS F.TIME_STATUS_SRC ≠ b.val then s3
    else
      let s4 := s3.raise TIME.EVT F.TIME_EVT_HOLD
      let o : Fin 2 := if b = 0 then 1 else 0
      if s4.rb TIME.TB2CTL F.TIME_TB2CTL_AUTOSW ∧ s4.domState o = domTracking then s4.setSource o.val else s4

def execHoldoverEntry (b : Fin 2) (s : State) : Result := .next (s.holdover b)

/-! ## Pulses (R350) -/

/-- PPS_OUT, where its base has passed to another second. -/
def State.ppsOut (s : State) (b : Fin 4) (was : BitVec 48) : State :=
  if s.rb TIME.PPSOUT F.TIME_PPSOUT_EN ∧ s.rf TIME.PPSOUT F.TIME_PPSOUT_SRC = b.val ∧ (s.tb b).sec ≠ was then
    s.emit (.pps (s.tb b).sec (BitVec.ofNat 8 (s.rf TIME.PPSOUT F.TIME_PPSOUT_DLY)) (max 1 (s.rf TIME.PPSOUT F.TIME_PPSOUT_WIDTH)))
  else s

/-! ## Base commands (R342) -/

/-- The frame of CMD: ignored while its group is not READY. -/
def State.baseCmd (s : State) (b : Fin 4) (code : Nat) (f : State → State) : State :=
  let g := TIME.CMD_STATUS b.val
  if !s.ready g then s
  else if code = 0 then (((f (s.begin_ g)).ppsOut b (s.tb b).sec).showDiff).post g 0
  else (s.begin_ g).post g code

/-- VSEC and VNS. -/
def State.cmdSec (s : State) (b : Fin 4) : Nat :=
  s.rf (TIME.VSECHI b.val) F.TIME_VSECHI_VSECHI * 2 ^ 32 + s.rv (TIME.VSECLO b.val)
def State.cmdNs (s : State) (b : Fin 4) : Nat := s.rf (TIME.VNS b.val) F.TIME_VNS_VNS

/-- What SET and STEP meet. -/
def State.cmdCode (s : State) (b : Fin 4) : Nat := if b = 2 then 0x0901 else if 1000000000 ≤ s.cmdNs b then 0x0902 else 0

/-- SET and STEP cancel a slew and adjust their domain. -/
def State.afterSet (s : State) (b : Fin 4) : State :=
  if b = 0 then (s.setRem 0 0 false).adjusted 0 else if b = 1 then (s.setRem 1 0 false).adjusted 1 else s

def State.tbSet (s : State) (b : Fin 4) : State :=
  s.baseCmd b (s.cmdCode b) (fun u =>
    (u.setTb b ⟨BitVec.ofNat 48 (s.cmdSec b), BitVec.ofNat 32 (s.cmdNs b), 0⟩).afterSet b)

def execTbSet (b : Fin 4) (s : State) : Result := hostCmd s (TIME.CMD b.val) (fun u => u.tbSet b)

/-- STEP adds or subtracts; seconds wrap. -/
def State.tbStep (s : State) (b : Fin 4) (neg : Bool) : State :=
  let d := (s.cmdSec b * 1000000000 + s.cmdNs b) * unitNs
  let full := 2 ^ 48 * 1000000000 * unitNs
  s.baseCmd b (s.cmdCode b) (fun u =>
    (u.setTb b (TimeBase.ofTotal (if neg then (s.tb b).total + full - d % full else (s.tb b).total + d))).afterSet b)

def execTbStep (b : Fin 4) (neg : Bool) (s : State) : Result := hostCmd s (TIME.CMD b.val) (fun u => u.tbStep b neg)

/-- ALIGN steps TB2 onto its source; TDM frames realign (R294). -/
def State.align (s : State) (b : Fin 4) : State :=
  s.baseCmd b (if b = 2 then 0 else 0x0901) (fun u =>
    let u1 := (u.setTb 2 (u.tb u.tb2Source)).switchDone
    ((({ u1 with clockwork := { u1.clockwork with corr := false } } : State).bump TIME.ALIGNS_LO TIME.EVT F.TIME_EVT_CNT).raise
      TIME.EVT F.TIME_EVT_SWITCH).tdmRealign u.tb2ns)

def execAlign (b : Fin 4) (s : State) : Result := hostCmd s (TIME.CMD b.val) (fun u => u.align b)

/-! ## Captures (R343, R351) -/

/-- Bits [47:32] and [31:0] of seconds. -/
def secHi (x : BitVec 48) : Nat := x.toNat / 2 ^ 32
def secLo (x : BitVec 48) : Nat := x.toNat % 2 ^ 32

/-- Calendar seconds and fraction. -/
def State.calSec (s : State) : Nat := s.clockwork.cal / 32768 % 2 ^ 48
def State.calFrac (s : State) : Nat := s.clockwork.cal % 32768

/-- CAPTURE latches all bases and the calendar. -/
def State.capture_ (s : State) : State :=
  if !s.ready TIME.CAP_STATUS then s
  else
    let s1 := each (s.begin_ TIME.CAP_STATUS) (List.finRange 4) (fun u i =>
      (((u.wv (TIME.CAP_SECHI i.val) (secHi (s.tb i).sec)).wv (TIME.CAP_SECLO i.val) (secLo (s.tb i).sec)).setReg
        (TIME.CAP_NS i.val) (s.tb i).ns).setReg (TIME.CAP_FRAC i.val) (s.tb i).frac)
    (((s1.wv TIME.CAP_CALHI (s.calSec / 2 ^ 32)).wv TIME.CAP_CALLO (s.calSec % 2 ^ 32)).wv TIME.CAP_CALFR s.calFrac).post
      TIME.CAP_STATUS 0

def execCapture (s : State) : Result := hostCmd s TIME.CAPTURE State.capture_

/-- PPS_IN: an edge of the chosen polarity latches all bases; one less than 100 µs after the last latched edge is a
glitch. -/
def State.ppsIn (s : State) (rising : Bool) : State :=
  if rising = s.rb TIME.PPSIN_CFG F.TIME_PPSIN_CFG_POL then s
  else
    let glitch : Bool := match s.clockwork.ppsAt with | some t => decide (s.clockwork.ticks < t + 50000) | none => false
    if glitch then s.bump TIME.PPSGLITCH_LO TIME.EVT F.TIME_EVT_CNT
    else
      let s1 := each s (List.finRange 4) (fun u i =>
        (u.wv (TIME.PPSIN_SECLO i.val) (secLo (s.tb i).sec)).setReg (TIME.PPSIN_NS i.val) (s.tb i).ns)
      (((({ s1 with clockwork := { s1.clockwork with ppsAt := some s.clockwork.ticks } } : State).post TIME.PPSIN_STATUS 0).bump
        TIME.PPSIN_LO TIME.EVT F.TIME_EVT_CNT).raise TIME.EVT F.TIME_EVT_PPSIN)

def execPpsIn (rising : Bool) (s : State) : Result := .next (s.ppsIn rising)

/-! ## The tick reference (R348) -/

/-- The 10 MHz input is lost: the tick switches to SYSCLK. -/
def State.refLost (s : State) : State :=
  ((s.put TIME.STATUS F.TIME_STATUS_REFACT 0).bump TIME.REFLOSS_LO TIME.EVT F.TIME_EVT_CNT).raise TIME.EVT F.TIME_EVT_HOLD

/-- REF_LOSS. -/
def execRefLoss (s : State) : Result := .next (if s.rb TIME.STATUS F.TIME_STATUS_REFACT then s.refLost else s)

/-- A write of REFSEL. Whether the 10 MHz input is present is open (log 38): with none the write acts as a loss. -/
def State.refsel (s : State) (on : Bool) : State :=
  let was := s.rb TIME.CFG F.TIME_CFG_REFSEL
  let s1 := s.put TIME.CFG F.TIME_CFG_REFSEL (b2n on)
  if !on then s1.put TIME.STATUS F.TIME_STATUS_REFACT 0
  else if was then s1
  else if Config.freeBit s.freeCount then (s1.draw 1).put TIME.STATUS F.TIME_STATUS_REFACT 1
  else (s1.draw 1).refLost

/-! ## The calendar (R352 to R354) -/

/-- The alarm is enabled for a second (R353). -/
def State.alarmAt (s : State) (sec : Nat) : Bool :=
  s.rb TIME.CALCFG F.TIME_CALCFG_ALEN && sec == s.rf TIME.ALARMHI F.TIME_ALARMHI_ALARMHI * 2 ^ 32 + s.rv TIME.ALARMLO

/-- The calendar is set to a second; the alarm occurs where that changes its seconds to ALARM. -/
def State.setCal (s : State) (sec : Nat) : State :=
  let due := s.calSec != sec % 2 ^ 48 && s.alarmAt (sec % 2 ^ 48)
  ({ s with clockwork := { s.clockwork with
      cal := sec % 2 ^ 48 * 32768, calSub := 0, alarm := s.clockwork.alarm || due } } : State).put
    TIME.CALCFG F.TIME_CALCFG_VALID 1

/-- CAL_SET. -/
def State.calSet (s : State) : State :=
  if !s.ready TIME.CAL_STATUS then s
  else ((s.begin_ TIME.CAL_STATUS).setCal (s.rf TIME.CALSETHI F.TIME_CALSETHI_CALSETHI * 2 ^ 32 + s.rv TIME.CALSETLO)).post
    TIME.CAL_STATUS 0

def execCalSet (s : State) : Result := hostCmd s TIME.CALCMD State.calSet

/-- SYNC waits for the base's next second boundary. -/
def State.calSync (s : State) (src : Fin 4) : State :=
  if !s.ready TIME.CAL_STATUS then s
  else { s.begin_ TIME.CAL_STATUS with clockwork := { s.clockwork with sync := some (src, (s.tb src).sec) } }

def execSync (src : BitVec 2) (s : State) : Result :=
  hostCmd s TIME.CALCMD (fun u => u.calSync ⟨src.toNat % 4, Nat.mod_lt _ (by decide)⟩)

/-- SYNC_APPLY: the base has passed to another second, which the calendar takes. -/
def State.syncApply (s : State) : State :=
  match s.clockwork.sync with
  | none => s
  | some (b, was) =>
    if (s.tb b).sec = was then s
    else (({ s with clockwork := { s.clockwork with sync := none } } : State).setCal (s.tb b).sec.toNat).post TIME.CAL_STATUS 0

def execSyncApply (s : State) : Result := .next s.syncApply

/-- CALENDAR_ALARM: the seconds have changed to ALARM with ALEN set. -/
def State.calAlarm (s : State) : State :=
  if !s.clockwork.alarm then s
  else
    let s1 := ({ s with clockwork := { s.clockwork with alarm := false } } : State).raise TIME.EVT F.TIME_EVT_ALARM
    if s1.rb GLB.PWR F.GLB_PWR_WAKE_ALARM then s1.wake 8 else s1

def execCalendarAlarm (s : State) : Result := .next s.calAlarm

/-- VBAT_LOW: the calendar loses its time. -/
def execVbatLow (s : State) : Result :=
  .next (({ s with clockwork := { s.clockwork with cal := 0, calSub := 0, alarm := false } } : State).wv TIME.CALCFG 0)

/-- A tick of 2 ns reaches the calendar's crystal, taken at its nominal rate (log 13). -/
def State.calTick (s : State) : State :=
  let k := s.clockwork
  let sub := k.calSub + 65536
  if sub < 1000000000 then { s with clockwork := { k with calSub := sub } }
  else
    let c := (k.cal + 1) % (2 ^ 48 * 32768)
    let due := c % 32768 == 0 && s.alarmAt (c / 32768)
    { s with clockwork := { k with cal := c, calSub := sub - 1000000000, alarm := k.alarm || due } }

/-- The bases as a power-on or cold reset leaves them (R354). -/
def State.loadBases (s : State) : State :=
  let x : TimeBase := if s.rb TIME.CALCFG F.TIME_CALCFG_VALID then
      ⟨BitVec.ofNat 48 s.calSec, BitVec.ofNat 32 (s.calFrac * 1000000000 / 32768), 0⟩ else ⟨0, 0, 0⟩
  { s with
    tbs := Vector.replicate 4 x
    clockwork := { Clockwork.init with
      cal := s.clockwork.cal, calSub := s.clockwork.calSub, alarm := s.clockwork.alarm, mirror := Vector.replicate 4 x } }

/-! ## The tick (R339) -/

/-- What a slew adds at this tick. -/
def State.slewStep (s : State) (b : Fin 2) : Int :=
  let x := s.disc b
  if !x.slewing then 0
  else
    let t := min (ppmTerm (max 1 (min 1000 (s.rf (TIME.DCFG b.val) F.TIME_DCFG_SLEWPPM)))) x.rem.natAbs
    if x.rem < 0 then -(t : Int) else t

/-- A slew advances; its last tick applies exactly what remains. -/
def State.slewTick (s : State) (b : Fin 2) : State :=
  let d := s.slewStep b
  if d = 0 then s else s.setRem b ((s.disc b).rem - d) (d != (s.disc b).rem)

/-- The correction of TB2 runs at this tick. -/
def State.corrOn (s : State) : Bool :=
  let d := s.tb2D.natAbs
  if s.clockwork.corr then decide (unitNs < d)
  else if s.rb TIME.STATUS F.TIME_STATUS_SLEWING then decide (unitNs < d) else decide (2 * unitNs < d)

/-- Increments of the four bases at this tick. -/
def State.increments (s : State) : Vector Nat 4 :=
  let f0 := s.freqInc 0
  let f1 := s.freqInc 1
  let f : Nat := match s.tb2Source with | 0 => f0 | 1 => f1 | _ => nominal
  let c : Int := if s.corrOn then
      (if s.tb2D < 0 then -1 else 1) * ppmTerm (max 1 (min 10 (s.rf TIME.TB2CTL F.TIME_TB2CTL_SLEW))) else 0
  #v[((f0 : Int) + s.slewStep 0).toNat, ((f1 : Int) + s.slewStep 1).toNat, ((f : Int) + c).toNat, nominal]

/-- Every base adds its increment; the registers that show it follow. -/
def State.basesTick (s : State) : State :=
  let i := s.increments
  let s1 : State := { s with
    tbs := #v[s.tbs[0].add i[0], s.tbs[1].add i[1], s.tbs[2].add i[2], s.tbs[3].add i[3]]
    clockwork := { s.clockwork with corr := s.corrOn, ticks := s.clockwork.ticks + 1 } }
  let s2 := ((s1.slewTick 0).slewTick 1).switchDone
  ((s2.wv (TIME.INCHI_RO 0) (i[2] / 2 ^ 32)).wv (TIME.INCLO_RO 0) (i[2] % 2 ^ 32)).showDiff

/-- The mirror takes the same increments; without a Hinge, the last ones that it took. -/
def State.mirrorTick (s : State) (i : Vector Nat 4) : State :=
  let k := s.clockwork
  let j := if s.divided then k.mirrorInc else i
  let s1 : State := { s with clockwork := { k with
    mirror := #v[k.mirror[0].add j[0], k.mirror[1].add j[1], k.mirror[2].add j[2], k.mirror[3].add j[3]]
    mirrorInc := j, mirrorAge := k.mirrorAge + 1 } }
  if 500000 ≤ k.mirrorAge then s1.put TIME.STATUS F.TIME_STATUS_MIRROR 0 else s1

/-- MIRROR_CORRECTION: the mirror takes the bases through the Hinge. -/
def execMirrorCorrection (s : State) : Result :=
  .next (if s.divided then s
    else ({ s with clockwork := { s.clockwork with mirror := s.tbs, mirrorAge := 0 } } : State).put
      TIME.STATUS F.TIME_STATUS_MIRROR 1)

/-- The watchdog counts in µs (R412), not in DORMANT. -/
def State.wdtTick (s : State) : State :=
  if !s.rb GLB.WDT_CFG F.GLB_WDT_CFG_EN || s.dormant then s
  else if s.wdt < 499 then { s with wdt := s.wdt + 1 }
  else ({ s with wdt := 0 } : State).wv GLB.WDT_COUNT (min (2 ^ 26 - 1) (s.rv GLB.WDT_COUNT + 1))

/-- TIME_TICK. -/
def State.tick (s : State) : State :=
  let s1 := (s.basesTick).mirrorTick s.increments
  let s2 := each s1 (List.finRange 4) (fun u b => u.ppsOut b (s.tb b).sec)
  (s2.calTick).wdtTick

def execTimeTick (s : State) : Result := .next (if s.package.held then s.calTick else s.tick)

end Sys2Proof.Machine
end

