-- ==== Sys2Proof/Machine/Ethernet.lean ====
section
/-!
DEFINITION. The receive side of the Ethernet ports (R302 to R304, R306, R310, R311, R314, R315, R317, R319): links, frame
acceptance, pause, the classifier's verdict on a frame (R267, R273) and the host receive queues.
-/

namespace Sys2Proof.Machine

/-! ## A MAC's registers (R302, R303) -/

def State.mac (s : State) (m : Nat) : Mac := sget s.macs Mac.init m
def State.setMac (s : State) (m : Nat) (x : Mac) : State := { s with macs := sset s.macs Mac.init m x }

def macDie (m : Nat) : Nat := if m = 2 ∨ m = 3 then 1 else 0

def State.macCfg (s : State) (m : Nat) (f : Fld) : Nat := s.rf (MAC.CFG m) f

def State.macBumpBy (s : State) (m ctr n : Nat) : State := s.bumpBy ctr n (MAC.EVT m) F.MAC_EVT_CNT
def State.macBump (s : State) (m ctr : Nat) : State := s.macBumpBy m ctr 1

def State.macLink (s : State) (m : Nat) : Bool := s.rb (MAC.STATUS m) F.MAC_STATUS_LINK
def State.macLoop (s : State) (m : Nat) : Bool := s.rb (MAC.CTRL m) F.MAC_CTRL_LOOP

/-- The DUPLEX bit of MACM's CFG. -/
def fldDuplex : Fld := ⟨22, 22⟩

/-- Half duplex: only MACM, at 10 or 100 Mbit/s (R316). -/
def State.halfDuplex (s : State) (m : Nat) : Bool :=
  m == 4 && s.macCfg m fldDuplex == 0 && s.macCfg m F.MAC_CFG_MODE != 2

/-- A pause quantum in ps (R314). -/
def State.quantumPs (s : State) (m : Nat) : Nat :=
  let mode := s.macCfg m F.MAC_CFG_MODE
  if m = 4 then (if mode = 2 then 512000 else if mode = 1 then 5120000 else 51200000)
  else if mode = 1 then 51200 else 20480

/-- Nanoseconds of a number of quanta. -/
def State.quantaNs (s : State) (m q : Nat) : Nat := (q * s.quantumPs m + 999) / 1000

/-! ## The link (R303) -/

/-- STATUS.LINK takes a value; each change sets its cause. -/
def State.setLink (s : State) (m : Nat) (on : Bool) : State :=
  if s.macLink m = on then s
  else (s.put (MAC.STATUS m) F.MAC_STATUS_LINK (b2n on)).raise (MAC.EVT m)
    (if on then F.MAC_EVT_LINKUP else F.MAC_EVT_LINKDN)

/-- LINK_CHANGE: what the PCS or the in-band status shows: block lock, FEC lock, a high error rate, MACM's link, and with
RS-FEC in force whether a code word was corrected or could not be. -/
def State.linkChange (s : State) (m : Nat) (lock : BitVec 8) : State :=
  let l (i : Nat) : Bool := bit lock.toNat i
  if m = 4 then
    (s.setMac 4 { s.mac 4 with inband := l 3 }).setLink 4 (l 3 || s.macLoop 4)
  else
    let fec : Bool := s.macCfg m F.MAC_CFG_RSFEC == 1 && s.macCfg m F.MAC_CFG_MODE == 0
    let s1 := ((s.put (MAC.STATUS m) F.MAC_STATUS_BLOCKLOCK (b2n (l 0))).put (MAC.STATUS m) F.MAC_STATUS_FECLOCK
      (b2n (fec && l 1))).setLink m (l 0 && (!fec || l 1) && !l 2)
    let s2 := if fec && l 4 then s1.macBump m (MAC.FECCORR_LO m) else s1
    if fec && l 5 then (s2.macBump m (MAC.FECUNC_LO m)).raise (MAC.EVT m) F.MAC_EVT_FECUNC else s2

def execLinkChange (m : Fin 5) (lock : BitVec 8) (s : State) : Result := .next (s.linkChange m lock)

/-- A write of CTRL: on MACM the link follows LOOP (R303). -/
def State.macCtrl (s : State) (m : Nat) (v : Nat) : State :=
  let s1 := s.wv (MAC.CTRL m) (v % 8)
  if m = 4 then s1.setLink 4 ((s1.mac 4).inband || s1.macLoop 4) else s1

/-! ## Lengths (R304) -/

def State.tpidOf (s : State) (m : Nat) (e : Nat) : Bool := e == 0x8100 || e == s.rf (MAC.TPID m) F.MAC_TPID_OTPID

/-- Tags of a frame, two at most. -/
def State.tagsOf (s : State) (m : Nat) (f : List Byte) : Nat := ((untag (s.tpidOf m) f).1 - 12) / 4

/-- The limit L of a port and a number of tags. -/
def State.macLimit (s : State) (m tags : Nat) : Nat :=
  if s.macCfg m F.MAC_CFG_JUMBO = 1 then max 1518 (min 9216 (s.rf (MAC.MAXLEN m) F.MAC_MAXLEN_MAXLEN)) else 1518 + 4 * tags

/-- The station address, first byte first. -/
def State.macAddr (s : State) (m : Nat) : List Byte :=
  leBytes 4 (s.rv (MAC.ADDRLO m)) ++ leBytes 2 (s.rf (MAC.ADDRHI m) F.MAC_ADDRHI_ADDR)

/-! ## Timestamps (R317) -/

/-- The timestamp of this instant in a base, in ns, adjusted for a received or a transmitted frame. -/
def State.macStamp (s : State) (m b : Nat) (tx : Bool) : Nat :=
  let t := s.tbOn (macDie m) ⟨b % 4, Nat.mod_lt _ (by decide)⟩
  let lat := toSigned 16 (s.rf (MAC.TSADJ m) (if tx then F.MAC_TSADJ_TXLAT else F.MAC_TSADJ_RXLAT))
  let adj := (lat + 2) / 4
  let now : Int := (t.sec.toNat * 1000000000 + t.ns.toNat : Nat)
  ((if tx then now + adj else now - adj) % ((2 ^ 48 * 1000000000 : Nat) : Int)).toNat

/-- The base that TSB 4 names for a frame: by the domain of a PTP message, else TB2. -/
def State.ptpBase (s : State) (m : Nat) (f : List Byte) : Nat :=
  let p := parseFrame (s.tpidOf m) f
  let at_ : Option Nat :=
    if p.etype = 0x88F7 then some ((untag (s.tpidOf m) f).1 + 2)
    else if p.ip && !p.frag && p.proto == 17 && (p.lport == 319 || p.lport == 320) then some p.off else none
  match at_ with
  | none => 2
  | some o =>
    let dom := (f.getD (o + 4) 0).toNat
    if f.length < o + 5 then 2
    else if dom = s.rf TIME.CFG F.TIME_CFG_DOMA then 0
    else if dom = s.rf TIME.CFG F.TIME_CFG_DOMB then 1 else 2

/-! ## Host receive queues (R310, R311) -/

def State.rqOn (s : State) (q : Nat) : Bool := s.rb (MACM.RQ_CFG q) F.MACM_RQ_CFG_EN
def State.rqHead (s : State) (q : Nat) : Nat := s.rf (MACM.RQ_HEAD q) F.MACM_RQ_HEAD_HEAD

/-- Bytes of host memory (LOC = 0) or at a DPA, as a ring and its buffers use them (log 35). -/
def State.ringBytes (s : State) (dpa : Bool) (a n : Nat) : List Byte := if dpa then s.bytes a n else s.hostBytes a n
def State.ringWrite (s : State) (dpa : Bool) (a : Nat) (bs : List Byte) : State :=
  if dpa then s.write a bs else s.hostStore a bs false false

/-- Bytes of a ring carry poison. -/
def State.ringPoison (s : State) (dpa : Bool) (a n : Nat) : Bool :=
  if dpa then s.poisonedIn a n else s.hostPoison.any (fun x => decide (a ≤ x) && decide (x < a + n))

/-- A descriptor of a ring; a poisoned one reads as zeros, which no send and no copy is (R65, log 35). -/
def State.ringDesc (s : State) (dpa : Bool) (a : Nat) : List Byte :=
  if s.ringPoison dpa a 32 then List.replicate 32 0 else s.ringBytes dpa a 32

/-- Data that a ring delivers: toward the host its writes are relaxed where the function enables that (R59). -/
def State.ringData (s : State) (dpa : Bool) (a : Nat) (bs : List Byte) : State :=
  if dpa then s.write a bs else s.hostStore a bs false s.pcie.relaxed

/-- The address of descriptor number i. -/
def ringAt (lo hi size i : Nat) : Nat := lo / 32 * 32 + hi * 2 ^ 32 + 32 * (i % 65536 % 2 ^ max 4 size)

def State.rqAt (s : State) (q i : Nat) : Nat :=
  ringAt (s.rv (MACM.RQ_BASELO q)) (s.rv (MACM.RQ_BASEHI q)) (s.rf (MACM.RQ_CFG q) F.MACM_RQ_CFG_SIZE) i

def State.rqDpa (s : State) (q : Nat) : Bool := s.rb (MACM.RQ_CFG q) F.MACM_RQ_CFG_LOC

def State.queueBump (s : State) (ctr : Nat) : State := s.bump ctr HIF.EVT F.HIF_EVT_QCNT

/-- Bytes of a receive buffer. -/
def State.rqBuf (s : State) (q : Nat) : Nat :=
  let b := s.rf (MACM.RQ_CFG q) F.MACM_RQ_CFG_BUFSZ
  256 * (if b = 0 then 64 else b)

/-- The timestamp of a received frame in the base of a queue; TSB 5 to 7 name none, and the timestamp is open. -/
def State.rqStamp (s : State) (q m : Nat) (f : List Byte) : Nat :=
  let b := s.rf (MACM.RQ_CFG q) F.MACM_RQ_CFG_TSB
  if b < 4 then s.macStamp m b false
  else if b = 4 then s.macStamp m (s.ptpBase m f) false
  else Config.freeNat s.freeCount % (2 ^ 48 * 1000000000)

/-- Bytes 16 to 31 of a receive descriptor. -/
def rxDone (len : Nat) (sop eop : Bool) (m rule stamp : Nat) : List Byte :=
  leBytes 4 (len % 65536 + b2n sop * 2 ^ 16 + b2n eop * 2 ^ 17 + 2 ^ 18 + m * 2 ^ 20 + 2 ^ 31) ++ leBytes 4 rule ++
    leBytes 4 (stamp / 1000000000) ++ leBytes 4 (stamp % 1000000000)

/-- The data of descriptor i of a frame at HEAD. -/
def State.rqData (s : State) (q : Nat) (f : List Byte) (i : Nat) : State :=
  let a := s.rqAt q (s.rqHead q + i)
  if s.ringPoison (s.rqDpa q) a 8 then s
  else s.ringData (s.rqDpa q) (leNat (s.ringBytes (s.rqDpa q) a 8)) (slice f (i * s.rqBuf q) (s.rqBuf q))

/-- A frame goes to a ring: the data first, then the completions; dropped whole where HEAD reaches TAIL, or where the address of
a buffer is poisoned (log 35). -/
def State.rqRing (s : State) (q m rule stamp : Nat) (f : List Byte) : State :=
  let n := (f.length + s.rqBuf q - 1) / s.rqBuf q
  let room := (s.rf (MACM.RQ_TAIL q) F.MACM_RQ_TAIL_TAIL + 65536 - s.rqHead q) % 65536
  let s1 := each s (List.range (min n room)) (fun u i => u.rqData q f i)
  let bad := (List.range n).any (fun i => s.ringPoison (s.rqDpa q) (s.rqAt q (s.rqHead q + i)) 8)
  if room < n ∨ bad then s1.queueBump (MACM.RQ_DROPS_LO q)
  else
    let s2 := each s1 (List.range n) (fun u i =>
      u.ringWrite (u.rqDpa q) (u.rqAt q (u.rqHead q + i) + 16)
        (rxDone (min (u.rqBuf q) (f.length - i * u.rqBuf q)) (i == 0) (i + 1 == n) m rule stamp))
    (s2.put (MACM.RQ_HEAD q) F.MACM_RQ_HEAD_HEAD ((s2.rqHead q + n) % 65536)).queueBump (MACM.RQ_FRAMES_LO q)

/-- A frame goes to a cask as one packet. -/
def State.rqCask (s : State) (q : Nat) (m : Fin 5) (rule stamp : Nat) (f : List Byte) : State :=
  if 1008 < f.length then s.queueBump (MACM.RQ_DROPS_LO q)
  else
    let r := s.postPacket (s.rf (MACM.RQ_CASK q) F.MACM_RQ_CASK_CASK) (.mac m)
      (dataWords (rxDone f.length true true m.val rule stamp) ++ dataWords f)
    r.1.queueBump (if r.2 then MACM.RQ_FRAMES_LO q else MACM.RQ_DROPS_LO q)

/-- A frame without its FCS goes to a host receive queue. One from die 1 is lost where the Hinge is out of service, and a
queue that is not enabled drops it (log 35). -/
def State.toQueue (s : State) (q : Nat) (m : Fin 5) (rule : Nat) (f : List Byte) : State :=
  if s.divided ∧ macDie m.val = 1 then s
  else if !s.rqOn q then s.queueBump (MACM.RQ_DROPS_LO q)
  else
    let stamp := s.rqStamp q m.val f
    if s.rf (MACM.RQ_CFG q) F.MACM_RQ_CFG_MODE = 1 then (s.draw 1).rqCask q m rule stamp f
    else (s.draw 1).rqRing q m.val rule stamp f

/-- RQ_TAIL: descriptors are provided; `cells` is what the host has written to its memory before (R60). -/
def execRqTail (q : Fin 64) (tail : BitVec 16) (cells : List (Nat × BitVec 8)) (s : State) : Result :=
  hostCmd (s.hostCells cells) (MACM.RQ_TAIL q) (fun u => u.put (MACM.RQ_TAIL q) F.MACM_RQ_TAIL_TAIL tail.toNat)

/-! ## The classifier's verdict (R267, R273) -/

/-- What the classifier finds for a frame. -/
inductive Verdict where
  | l3
  | udp
  | hit (image : List Byte) (typ : Nat)
  | rule (r : Nat)
  | miss
  deriving DecidableEq, Repr

/-- Steps 1 to 7 of R267. -/
def State.verdict (s : State) (p : Parsed) : Verdict :=
  let wild : Verdict := match s.rule p with | some r => .rule r | none => .miss
  if !s.rb CLS.CFG F.CLS_CFG_EN then .miss
  else if p.err = 1 then .l3
  else if p.err = 2 then .udp
  else if p.ip && !p.frag && p.proto == 17 then
    match s.exact p with | some e => .hit e.1 e.2 | none => wild
  else wild

/-- Whether the payload of a hit of an RTP entry is RTCP under MUX. -/
def isMuxed (img p : List Byte) : Bool :=
  imgMux img && decide (72 ≤ (p.getD 1 0).toNat % 128) && decide ((p.getD 1 0).toNat % 128 ≤ 76)

/-- RTCP of a termination (R285): the frame with the compound unprotected goes to RTCPQ. -/
def State.rtcpIn (s : State) (m : Fin 5) (f : List Byte) (p : Parsed) (img : List Byte) (tag : Nat) : State :=
  let d := macDie m.val
  let r := (s.clsBump d (CLS.RTCPIN_LO d)).rtcpReceive (imgTid img) tag (slice f p.off p.len)
  match r.2, imgQueue img 8 with
  | some c, some q => r.1.toQueue q m 257 (f.take p.off ++ c)
  | _, _ => r.1

/-- A media packet waits for the playout unit of the die that homes its TID. -/
def State.toPlayout (s : State) (m : Fin 5) (f : List Byte) (p : Parsed) (img : List Byte) (tag : Nat) (udptl : Bool) : State :=
  { s with plyIn := s.plyIn ++
      [⟨imgTid img, img, tag, slice f p.off p.len, udptl, if macDie m.val = 1 then 1 else 0, m, f.length + 4⟩] }

/-- A hit of an RTP entry: R273. The padding of a protected packet is part of what is encrypted, and is checked once the packet
is unprotected (log 25). -/
def State.rtpIn (s : State) (m : Fin 5) (f : List Byte) (p : Parsed) (img : List Byte) (tag : Nat) : State :=
  let d := macDie m.val
  let u := slice f p.off p.len
  if rtpVersion u ≠ 2 ∨ (rtpHeader u).isNone ∨ (s.srtpx (imgTid img) = 0 ∧ (rtpBody u).isNone) then s.clsBump d (CLS.RTPERR_LO d)
  else if isMuxed img u then s.rtcpIn m f p img tag
  else if (u.getD 1 0).toNat % 128 ≠ imgPt img then
    match imgQueue img 0 with
    | some q => s.toQueue q m 257 f
    | none => s.clsBump d (CLS.PTMISS_LO d)
  else s.toPlayout m f p img tag false

/-- What follows from the verdict. -/
def State.deliverFrame (s : State) (m : Fin 5) (f : List Byte) (p : Parsed) (tag : Nat) (v : Verdict) : State :=
  let d := macDie m.val
  match v with
  | .l3 => s.clsBump d (CLS.L3ERR_LO d)
  | .udp => s.clsBump d (CLS.UDPERR_LO d)
  | .hit img typ =>
    let s1 := s.clsBump d (CLS.HITS_LO d)
    if typ = 0 then s1.rtpIn m f p img tag
    else if typ = 1 then s1.rtcpIn m f p img tag
    else s1.toPlayout m f p img tag true
  | .rule r =>
    let s1 := (s.clsBump d (CLS.WILD_LO d)).clsBump d (CLS.W_HITS_LO d r)
    if s.rf (CLS.W_CTL r) F.CLS_W_CTL_ACT = 1 then s1.toQueue (s.rf (CLS.W_CTL r) F.CLS_W_CTL_QUEUE) m r f else s1
  | .miss =>
    let s1 := s.clsBump d (CLS.MISSES_LO d)
    if s.rf CLS.CFG F.CLS_CFG_MISSACT = 1 then s1.toQueue (s.rf CLS.CFG F.CLS_CFG_MISSQ) m 256 f else s1

/-! ## Trace of a MAC (R381, R387) -/

/-- What a frame shows to MAC probes beside its bytes: the parsed headers, the value of the result field where there is
one, and the TID of an exact hit. -/
structure FrameView where
  p : Parsed
  result : Option Nat
  tid : Option Nat
  deriving DecidableEq, Repr

def frameView (p : Parsed) (v : Verdict) : FrameView :=
  match v with
  | .hit img _ => ⟨p, some (imgTid img).toNat, some (imgTid img).toNat⟩
  | .rule r => ⟨p, some r, none⟩
  | .miss => ⟨p, none, none⟩
  | .l3 => ⟨p, none, none⟩
  | .udp => ⟨p, none, none⟩

/-- The RTP header of a frame: of an exact hit, or of a transmitted UDP datagram of version 2 (log 22). -/
def rtpOf (f : List Byte) (w : FrameView) (tx : Bool) : Option (List Byte) :=
  let u := slice f w.p.off w.p.len
  if w.p.ip && !w.p.frag && w.p.proto == 17 && w.p.err == 0 && (tx || w.tid.isSome) && (rtpHeader u).isSome then some u else none

/-- A frame is offered to one probe. -/
def State.traceMacOne (s : State) (d q tag : Nat) (f : List Byte) (w : FrameView) (tx : Bool) : State :=
  let x := s.probe d q
  let mode := s.rf (TRC.P_SEL d q) F.TRC_P_SEL_SEL / 2 % 4
  let rtp := rtpOf f w tx
  let gap : Nat := match rtp, x.rtpSeq with | some u, some z => b2n (rtpSeq u != (z + 1) % 65536) | _, _ => 0
  let fields : List (Nat × Nat) :=
    [(0x18, w.p.etype), (0x19, f.length + 4)] ++ (match w.tid with | some t => [(0x14, t)] | none => []) ++
    (match rtp with
      | some u => [(0x10, (u.getD 1 0).toNat % 128), (0x11, (u.getD 1 0).toNat / 128), (0x12, rtpSsrc u), (0x13, gap)]
      | none => [])
  let tid := w.tid.getD (Config.freeNat s.freeCount % 2 ^ 18)
  let body : List Byte := if mode = 0 then f.take 128 else f
  let info : List Byte := match w.result with | some r => leBytes 8 r | none => s.freeBytes 8
  let entries : List (List Byte) :=
    if mode = 2 then
      match rtp with
      | some u =>
        [traceEntry tag 3 0 (tid / 4) (leBytes 4 (rtpSsrc u) ++ leBytes 2 (rtpSeq u) ++ [u.getD 1 0, BitVec.ofNat 8 (tid % 4)])]
      | none => []
    else traceFrame tag (1 + 2 * b2n (decide (body.length < f.length))) info body
  let inter := if x.fresh then 0 else min (2 ^ 32 - 1) (tag - x.stamp)
  let meas1 := if mode = 2 then gap else inter - x.meas1
  if mode = 2 ∧ rtp = none then s
  else
    let s1 := (s.draw 8).capture State.raise d q ⟨tag, entries, fields, true, 1, meas1⟩
    s1.setProbe d q { s1.probe d q with rtpSeq := match rtp with | some u => some (rtpSeq u) | none => x.rtpSeq }

/-- A frame is offered to the probes of its MAC and direction. -/
def State.traceMac (s : State) (m tag : Nat) (f : List Byte) (w : FrameView) (tx : Bool) : State :=
  let d := macDie m
  each s ((List.range 16).filter (fun q =>
    (s.probe d q).armed && (s.probe d q).src == 3 && s.rf (TRC.P_PCFG d q) F.TRC_P_PCFG_INST == m &&
      s.rf (TRC.P_SEL d q) F.TRC_P_SEL_SEL % 2 == b2n tx)) (fun u q => u.traceMacOne d q tag f w tx)

/-! ## Pause (R314, R315) -/

/-- Transmission resumes. -/
def State.resume (s : State) (m : Nat) : State :=
  (s.setMac m { s.mac m with since := none, untilNs := none }).put (MAC.STATUS m) F.MAC_STATUS_PAUSED 0

/-- A received pause frame. -/
def State.pauseIn (s : State) (m : Nat) (f : List Byte) : State :=
  let s1 := s.macBump m (MAC.PAUSERX_LO m)
  let q := beAt f 16 2
  let x := s1.mac m
  if s.macCfg m F.MAC_CFG_PAUSERX = 0 ∨ s.halfDuplex m ∨ s.tb2nsOn (macDie m) < x.ignore then s1
  else if q = 0 then s1.resume m
  else
    let since := match x.untilNs, x.since with
      | some t, some b => if s.tb2nsOn (macDie m) < t then b else s.tb2nsOn (macDie m)
      | _, _ => s.tb2nsOn (macDie m)
    (s1.setMac m { x with since := some since, untilNs := some (s.tb2nsOn (macDie m) + s.quantaNs m q) }).put
      (MAC.STATUS m) F.MAC_STATUS_PAUSED 1

/-- PAUSE_EXPIRY. -/
def State.pauseExpires (s : State) (m : Nat) : State :=
  match (s.mac m).untilNs with
  | some t => if t ≤ s.tb2nsOn (macDie m) then s.resume m else s
  | none => s

def execPauseExpiry (m : Fin 5) (s : State) : Result := .next (s.pauseExpires m)

/-- WDMS in ns. -/
def State.wdNs (s : State) (m : Nat) : Nat := max 1 (min 1000 (s.rf (MAC.PAUSE m) F.MAC_PAUSE_WDMS)) * 1000000

/-- PAUSE_WATCHDOG: a paused interval that reaches WDMS ends; one whose count ran out earlier has ended by itself. -/
def State.pauseWatch (s : State) (m : Nat) : State :=
  match (s.mac m).since, (s.mac m).untilNs with
  | some b, some t =>
    if t + 1000 ≤ b + s.wdNs m then s.pauseExpires m
    else if s.tb2nsOn (macDie m) < b + s.wdNs m then s
    else
      let s1 := s.resume m
      let s2 := s1.setMac m { s1.mac m with ignore := s.tb2nsOn (macDie m) + s.wdNs m }
      (s2.macBump m (MAC.PAUSEWD_LO m)).raise (MAC.EVT m) F.MAC_EVT_PAUSEWD
  | _, _ => s

def execPauseWatchdog (m : Fin 5) (s : State) : Result := .next (s.pauseWatch m)

/-! ## Wake patterns (R319) -/

def State.wakeByte (s : State) (m w : Nat) (f : List Byte) (i : Nat) : Bool :=
  !bit (s.rv (MAC.WMASK m w (i / 32))) (i % 32) ||
    (decide (i < f.length) && (f.getD i 0).toNat == bits (s.rv (MAC.WDATA m w (i / 4))) (8 * (i % 4) + 7) (8 * (i % 4)))

/-- Pattern w matches a frame. -/
def State.wakeMatch (s : State) (m : Nat) (f : List Byte) (w : Nat) : Bool :=
  let n := s.rf (MAC.WCFG m w) F.MAC_WCFG_LEN
  let len := if n = 0 ∨ 128 < n then 128 else n
  let magic := List.replicate 6 0xFF ++ (List.replicate 16 (s.macAddr m)).flatten
  s.rb (MAC.WCFG m w) F.MAC_WCFG_EN &&
    ((List.range len).all (s.wakeByte m w f) ||
      (s.rb (MAC.WCFG m w) F.MAC_WCFG_MAGIC && (List.range f.length).any (fun i => decide (14 ≤ i) && slice f i 102 == magic)))

/-- A frame in DORMANT: a match on a MAC whose wake bit is set wakes the package. -/
def State.wakeFrame (s : State) (m : Nat) (f : List Byte) : State :=
  let on : Bool := if m = 4 then s.rb GLB.PWR F.GLB_PWR_WAKE_MACM else bit (s.rf GLB.PWR F.GLB_PWR_WAKE_MAC) m
  if on && (List.range 4).any (s.wakeMatch m f) then s.wake (3 + m) else s

/-! ## Receiving (R304, R306) -/

/-- Bytes of a MAC's receive buffer that are taken. -/
def State.rxUsed (s : State) (m : Nat) : Nat := ((s.plyIn.filter (fun a => a.mac.val == m)).map (fun a => a.len)).sum

def rxSize (m : Nat) : Nat := if m = 4 then 32768 else 131072

def isBroadcast (f : List Byte) : Bool := f.take 6 == List.replicate 6 0xFF
def isMulticast (f : List Byte) : Bool := (f.getD 0 0).toNat % 2 == 1

/-- The first check of R304 that a frame fails, by its counter. -/
def State.rxFails (s : State) (m : Nat) (frame : List Byte) (fcsOk : Bool) : Option Nat :=
  let l := s.macLimit m (s.tagsOf m frame)
  if frame.length < 64 then some (MAC.RUNT_LO m)
  else if l < frame.length then some (MAC.OVERSIZE_LO m)
  else if !fcsOk then some (MAC.FCSERR_LO m)
  else if !(isMulticast frame || frame.take 6 == s.macAddr m || s.macCfg m F.MAC_CFG_PROMISC == 1) then some (MAC.DAFILT_LO m)
  else if rxSize m < s.rxUsed m + l then some (MAC.RXOVF_LO m)
  else none

/-- An accepted frame is counted. -/
def State.countRx (s : State) (m : Nat) (frame : List Byte) : State :=
  let s1 := (s.macBump m (MAC.RXFRAMES_LO m)).macBumpBy m (MAC.RXOCTETS_LO m) frame.length
  if isBroadcast frame then s1.macBump m (MAC.RXBCAST_LO m)
  else if isMulticast frame then s1.macBump m (MAC.RXMCAST_LO m) else s1

/-- An accepted frame, without its FCS, is classified. -/
def State.classify (s : State) (m : Fin 5) (f : List Byte) : State :=
  let p := parseFrame (s.tpidOf m.val) f
  let v := s.verdict p
  let tag := s.macStamp m.val 2 false
  let s1 := s.traceMac m.val tag f (frameView p v) false
  (s1.clsBump (macDie m.val) (CLS.FRAMES_LO (macDie m.val))).deliverFrame m f p tag v

/-- A frame with its FCS reaches the receive path, from the line or looped. -/
def State.macReceive (s : State) (m : Fin 5) (frame : List Byte) (fcsOk looped : Bool) : State :=
  let n := m.val
  if s.package.held || !s.rb (MAC.CTRL n) F.MAC_CTRL_EN || !s.macLink n || s.macLoop n != looped then s
  else match s.rxFails n frame fcsOk with
  | some c =>
    let s1 := s.macBump n c
    if c = MAC.RXOVF_LO n then s1.raise (MAC.EVT n) F.MAC_EVT_RXOVF else s1
  | none =>
    let f := frame.take (frame.length - 4)
    if beAt f 12 2 = 0x8808 ∧ beAt f 14 2 = 1 then s.pauseIn n f
    else
      let s1 := s.countRx n frame
      if s.dormant then s1.wakeFrame n f else s1.classify m f

/-- FRAME_RECEIVE: a frame, from its destination address to its FCS, arrives at the balls. -/
def execFrameReceive (m : Fin 5) (frame : List (BitVec 8)) (fcsOk : Bool) (s : State) : Result :=
  .next (s.macReceive m frame fcsOk false)

/-! ## MDIO (R302) -/

/-- An MDIO operation of MDIOCMD: ignored while READY is 0; the cycle goes out, and a read leaves its data in DATA. -/
def State.mdio (s : State) (op : BitVec 3) (phy reg : BitVec 5) (data : BitVec 16) (read : Bool) : State :=
  if !s.ready MACM.MDIO_STATUS then s
  else
    let s1 := (s.begin_ MACM.MDIO_STATUS).emit (.mdio op phy reg (if read then 0 else data))
    (if read then s1.put MACM.MDIO_DATA F.MACM_MDIO_DATA_DATA data.toNat else s1).post MACM.MDIO_STATUS 0

def execMdioC22Read (phy reg : BitVec 5) (data : BitVec 16) (s : State) : Result :=
  hostCmd s MACM.MDIOCMD (fun u => u.mdio 0 phy reg data true)
def execMdioC22Write (phy reg : BitVec 5) (data : BitVec 16) (s : State) : Result :=
  hostCmd s MACM.MDIOCMD (fun u => u.mdio 1 phy reg data false)
def execMdioC45Address (phy dev : BitVec 5) (addr : BitVec 16) (s : State) : Result :=
  hostCmd s MACM.MDIOCMD (fun u => u.mdio 4 phy dev addr false)
def execMdioC45Write (phy dev : BitVec 5) (data : BitVec 16) (s : State) : Result :=
  hostCmd s MACM.MDIOCMD (fun u => u.mdio 5 phy dev data false)
def execMdioC45Read (phy dev : BitVec 5) (data : BitVec 16) (s : State) : Result :=
  hostCmd s MACM.MDIOCMD (fun u => u.mdio 6 phy dev data true)

end Sys2Proof.Machine
end

