-- ==== Sys2Proof/Machine/EthTx.lean ====
section
/-!
DEFINITION. The transmit side of the Ethernet ports (R303, R305, R307 to R309, R312 to R314, R316 to R318): the egress set,
descriptors, host transmit queues, segmentation, return records and completions, pause frames and collisions.
-/

namespace Sys2Proof.Machine

/-! ## Headers of an outgoing frame -/

/-- Where the L4 header of an IPv6 packet at o begins, and its protocol, behind extension headers: k of them at most. -/
def v6Upper (f : List Byte) : Nat → Nat → Nat → Nat × Nat
  | 0, proto, o => (proto, o)
  | k + 1, proto, o =>
    if proto = 0 ∨ proto = 43 ∨ proto = 60 then
      v6Upper f k (f.getD o 0).toNat (o + 8 * ((f.getD (o + 1) 0).toNat + 1))
    else if proto = 44 then v6Upper f k (f.getD o 0).toNat (o + 8)
    else (proto, o)

/-- Of a frame: whether it is IPv6, the offset of the L3 header, the protocol and the offset of the L4 header; none where it
is not IP. -/
structure L34 where
  v6 : Bool
  l3 : Nat
  proto : Nat
  l4 : Nat
  deriving DecidableEq, Repr

def findL34 (tpid : Nat → Bool) (f : List Byte) : Option L34 :=
  let t := (untag tpid f).1
  let o := t + 2
  if beAt f t 2 = 0x0800 then some ⟨false, o, (f.getD (o + 9) 0).toNat, o + 4 * ((f.getD o 0).toNat % 16)⟩
  else if beAt f t 2 = 0x86DD then
    let u := v6Upper f 8 (f.getD (o + 6) 0).toNat (o + 40)
    some ⟨true, o, u.1, u.2⟩
  else none

/-- The frame with the TCP or UDP checksum of its L4 bytes filled in. -/
def fillL4 (h : L34) (f : List Byte) : List Byte :=
  let c := h.l4 + (if h.proto = 6 then 16 else 6)
  let g := putBe f c 2 0
  let n := g.length - h.l4
  let pseudo := if h.v6 then slice g (h.l3 + 8) 32 ++ beBytes 4 n ++ [0, 0, 0, BitVec.ofNat 8 h.proto]
    else slice g (h.l3 + 12) 8 ++ [0, BitVec.ofNat 8 h.proto] ++ beBytes 2 n
  let sum := 65535 - onesSum (pseudo ++ g.drop h.l4)
  putBe g c 2 (if h.proto = 17 ∧ sum = 0 then 65535 else sum)

/-- ONESTEP (R318): seconds and nanoseconds at TSOFF, the UDP checksum of IPv6 anew, that of IPv4 cleared. -/
def oneStep (tpid : Nat → Bool) (f : List Byte) (tsoff stamp : Nat) : List Byte :=
  let g := (splice f tsoff (beBytes 6 (stamp / 1000000000) ++ beBytes 4 (stamp % 1000000000))).take f.length
  match findL34 tpid f with
  | some h => if h.proto = 17 then (if h.v6 then fillL4 h g else (putBe g (h.l4 + 6) 2 0).take f.length) else g
  | none => g

/-! ## Segmentation (R313) -/

/-- Frame i of a segmented send of n, from its header and payload. -/
def segment (h : L34) (hdr payload : List Byte) (mss n i : Nat) : List Byte :=
  let body := slice payload (i * mss) mss
  let f := hdr ++ body
  let g := if h.v6 then putBe f (h.l3 + 4) 2 (f.length - h.l3 - 40)
    else
      let a := putBe (putBe f (h.l3 + 2) 2 (f.length - h.l3)) (h.l3 + 4) 2 ((beAt f (h.l3 + 4) 2 + i) % 65536)
      let b := putBe a (h.l3 + 10) 2 0
      putBe b (h.l3 + 10) 2 (65535 - onesSum (slice b h.l3 (4 * ((b.getD h.l3 0).toNat % 16))))
  let k := if h.proto = 17 then putBe g (h.l4 + 4) 2 (f.length - h.l4)
    else
      let fl := (g.getD (h.l4 + 13) 0).toNat
      let keep := 0x76 + (if i + 1 = n then 0x09 else 0) + (if i = 0 then 0x80 else 0)
      putBe (putBe g (h.l4 + 4) 4 ((beAt g (h.l4 + 4) 4 + i * mss) % 2 ^ 32)) (h.l4 + 13) 1 (fl &&& keep)
  fillL4 h k

/-- The frames of a segmented send, or the status with which it is dropped: 3 malformed, 2 oversize. MSS and HDRLEN out of
their ranges count as malformed (log 35). -/
def segments (tpid : Nat → Bool) (limit : Nat → Nat) (data : List Byte) (mss hlen : Nat) : Nat ⊕ List (List Byte) :=
  match findL34 tpid data with
  | none => .inl 3
  | some h =>
    let payload := data.drop hlen
    let ends := if h.proto = 6 then h.l4 + 4 * ((data.getD (h.l4 + 12) 0).toNat / 16) else h.l4 + 8
    let n := (payload.length + (mss - 1)) / mss
    if mss < 64 ∨ 9000 < mss ∨ hlen < 42 ∨ 254 < hlen ∨ data.length < hlen ∨ (h.proto ≠ 6 ∧ h.proto ≠ 17) ∨ ends ≠ hlen ∨ 4096 < n
    then .inl 3
    else if limit (((untag tpid data).1 - 12) / 4) < hlen + min mss payload.length + 4 then .inl 2
    else .inr ((List.range n).map (segment h (data.take hlen) payload mss n))

/-! ## Host transmit queues (R310, R312) -/

def State.tqOn (s : State) (q : Nat) : Bool := s.rb (MACM.TQ_CFG q) F.MACM_TQ_CFG_EN
def State.tqHead (s : State) (q : Nat) : Nat := s.rf (MACM.TQ_HEAD q) F.MACM_TQ_HEAD_HEAD
def State.tqDpa (s : State) (q : Nat) : Bool := s.rb (MACM.TQ_CFG q) F.MACM_TQ_CFG_LOC
def State.tqCount (s : State) (q : Nat) : Nat := (s.rf (MACM.TQ_TAIL q) F.MACM_TQ_TAIL_TAIL + 65536 - s.tqHead q) % 65536

def State.tqAt (s : State) (q i : Nat) : Nat :=
  ringAt (s.rv (MACM.TQ_BASELO q)) (s.rv (MACM.TQ_BASEHI q)) (s.rf (MACM.TQ_CFG q) F.MACM_TQ_CFG_SIZE) i

/-- Descriptor number i of the count. -/
def State.tqDesc (s : State) (q i : Nat) : List Byte := s.ringDesc (s.tqDpa q) (s.tqAt q i)

def txSop (d : List Byte) : Bool := bit (leAt d 8 4) 24
def txEop (d : List Byte) : Bool := bit (leAt d 8 4) 25

/-- How many descriptors from number i on belong to one send: to EOP, or to the next SOP, of n provided. -/
def State.tqSpan (s : State) (q : Nat) : Nat → Nat → Nat → Nat
  | 0, _, k => k
  | n + 1, i, k =>
    let d := s.tqDesc q i
    if k ≠ 0 ∧ txSop d then k
    else if txEop d then k + 1
    else s.tqSpan q n (i + 1) (k + 1)

/-- The queue holds a frame: a send with its end in sight, or one of more than 16 descriptors. -/
def State.tqReady (s : State) (q : Nat) : Bool :=
  let n := s.tqCount q
  let k := s.tqSpan q n (s.tqHead q) 0
  s.tqOn q && decide (0 < n) && (decide (k < n) || txEop (s.tqDesc q (s.tqHead q + (k - 1))) || decide (16 < k))

/-- The data of a descriptor, and whether a byte of it was poisoned or could not be read. -/
def State.tqData (s : State) (die q i : Nat) : List Byte × Nat :=
  let d := s.tqDesc q i
  let a := leAt d 0 8
  let n := leAt d 8 4 % 2 ^ 18
  if s.tqDpa q then
    (s.bytes a n, if !s.rangeOk die a n then 3 else if s.poisonedIn a n then 4 else 0)
  else (s.hostBytes a n, if s.ringPoison false a n then 4 else 0)

/-- A send of a queue: its frames or the status with which it is dropped, with its SOP descriptor. -/
def State.tqPlan (s : State) (m q : Nat) : Nat ⊕ List (List Byte) :=
  let n := s.tqCount q
  let k := s.tqSpan q n (s.tqHead q) 0
  let sop := s.tqDesc q (s.tqHead q)
  let w := leAt sop 8 4
  let parts := (List.range k).map (fun i => s.tqData (macDie m) q (s.tqHead q + i))
  let data := parts.flatMap (·.1)
  let w3 := leAt sop 12 4
  let seg := bit w 26
  let err := (parts.map (·.2)).foldl max 0
  if !txSop sop ∨ !txEop (s.tqDesc q (s.tqHead q + (k - 1))) ∨ 16 < k ∨ 5 ≤ bits w 31 29 then .inl 3
  else if (List.range k).any (fun i => leAt (s.tqDesc q (s.tqHead q + i)) 8 4 % 2 ^ 18 == 0) then .inl 3
  else if err ≠ 0 then .inl err
  else if seg then segments (s.tpidOf m) (s.macLimit m) data (w3 % 2 ^ 14) (bits w3 23 16)
  else if s.macLimit m (s.tagsOf m data) < max 60 data.length + 4 then .inl 2
  else .inr [data]

/-- The timestamp base of a TSB. -/
def State.tsBase (s : State) (m tsb : Nat) (f : List Byte) : Nat := if tsb = 4 then s.ptpBase m f else tsb

/-- TXBAD, TXOVERSIZE or TXDISC counts a discard by its status. -/
def State.countDrop (s : State) (m status : Nat) : State :=
  if status = 0 then s
  else if status = 1 then (s.macBump m (MAC.TXDISC_LO m)).raise (MAC.EVT m) F.MAC_EVT_TXDISC
  else if status = 2 then s.macBump m (MAC.TXOVERSIZE_LO m)
  else s.macBump m (MAC.TXBAD_LO m)

def padFrame (f : List Byte) : List Byte := f ++ List.replicate (60 - f.length) 0

/-- The frame under way: its timestamp is that of this instant; a frame that is not sent has none, and the field is open
where it was asked for (log 35). -/
def State.startFrame (s : State) (m : Nat) (f : List Byte) (status tag : Nat) (ret : Option Nat) (tq : Option (Nat × Nat × Bool))
    (tsreq onestep : Bool) (tsb tsoff : Nat) : State :=
  let g := padFrame f
  let stamp := s.macStamp m (s.tsBase m tsb g) true
  let out := if onestep && status == 0 then oneStep (s.tpidOf m) g tsoff stamp else g
  let shown := if status = 0 then stamp else Config.freeNat s.freeCount % (2 ^ 48 * 1000000000)
  let x := s.mac m
  ((s.draw 1).setMac m { x with
    cur := some ⟨out, some status, status == 0, tag, ret, tq, if tsreq then some shown else none, s.macStamp m 2 true⟩
    collisions := 0 }).countDrop m status

/-- The next frame of a send in progress. A send's completion carries the status of its last frame (log 35). -/
def State.nextSegment (s : State) (m q : Nat) (t : TxSend) : State :=
  match t.frames with
  | [] => s
  | f :: rest =>
    let status := if s.macLink m then 0 else 1
    let left := if rest.isEmpty then sdel s.txSends q
      else sput s.txSends q { t with frames := rest }
    ({ s with txSends := left } : State).startFrame m f status 0 none (some (q, t.eop, rest.isEmpty)) t.tsreq t.onestep t.tsb t.tsoff

/-- A queue's next frame is taken: of the send in progress, or of the next send. -/
def State.takeQueue (s : State) (m q : Nat) : State :=
  match s.txSends.find? (fun e => e.1 == q) with
  | some e => s.nextSegment m q e.2
  | none =>
    let sop := s.tqDesc q (s.tqHead q)
    let w := leAt sop 8 4
    let eop := s.tqHead q + (s.tqSpan q (s.tqCount q) (s.tqHead q) 0 - 1)
    match s.tqPlan m q with
    | .inl code => s.startFrame m [] code 0 none (some (q, eop, true)) (bit w 27) false 0 0
    | .inr [] =>
      let x := s.mac m
      s.setMac m { x with cur := some ⟨[], some 0, false, 0, none, some (q, eop, true), none, 0⟩, collisions := 0 }
    | .inr fs => s.nextSegment m q ⟨fs, bit w 27, bit w 28, bits w 31 29, leAt sop 28 2, eop⟩

/-- TQ_TAIL: the doorbell of transmit descriptors; `cells` is what the host has written to its memory before (R60). -/
def execTqTail (q : Fin 16) (tail : BitVec 16) (cells : List (Nat × BitVec 8)) (s : State) : Result :=
  hostCmd (s.hostCells cells) (MACM.TQ_TAIL q) (fun u => u.put (MACM.TQ_TAIL q) F.MACM_TQ_TAIL_TAIL tail.toNat)

/-! ## Egress casks (R307, R308) -/

/-- The cask named by EGRESS.PARENT. -/
def State.egressCask (s : State) (m : Nat) : Nat := 8192 * macDie m + s.rf (MAC.EGRESS m) F.MAC_EGRESS_PARENT

/-- A packet of an egress cask breaks the rules of R308 or holds a poisoned word (R63). -/
def badEgress (ws : List CWord) : Bool :=
  match ws with
  | [] => true
  | d :: body =>
    let v := d.val.toNat
    let len := v % 2 ^ 14
    ws.any (fun w => w.poison) || len == 0 || decide (9212 < len) || bits v 15 14 != 0 || bits v 31 22 != 0 ||
      decide (5 ≤ bits v 21 19) || bit v 78 || bits v 95 80 != 0 ||
      (if bit v 16 then !body.isEmpty
       else decide (1008 < len) || body.length != (len + 15) / 16 || ((wordBytes body).drop len).any (· != 0))

/-- The frame of a good packet, or the status with which it is dropped. A transmit buffer is freed as its frame is taken. -/
def State.egressFrameOf (s : State) (m : Nat) (ws : List CWord) : State × (Nat ⊕ List Byte) :=
  match ws with
  | [] => (s, .inl 3)
  | d :: body =>
    let v := d.val.toNat
    let len := v % 2 ^ 14
    let a := v / 2 ^ 96 % 2 ^ 32
    let r : State × (Nat ⊕ List Byte) :=
      if !bit v 16 then (s, .inr ((wordBytes body).take len))
      else match s.txBufs.find? (fun e => e.1 == a) with
        | some e => ({ s with txBufs := sdel s.txBufs a }, .inr (e.2.take len))
        | none =>
          if !s.rangeOk (macDie m) (256 * a) len then (s, .inl 3)
          else if s.poisonedIn (256 * a) len then (s, .inl 4)
          else (s, .inr (s.bytes (256 * a) len))
    match r.2 with
    | .inl c => (r.1, .inl (if s.macLink m then c else 1))
    | .inr f =>
      if !s.macLink m then (r.1, .inl 1)
      else if s.macLimit m (s.tagsOf m f) < max 60 f.length + 4 then (r.1, .inl 2)
      else (r.1, .inr f)

/-- The next packet of the egress casks is taken. -/
def State.takeEgress (s : State) (m : Nat) : State :=
  let r := s.takePacket 64 (s.egressCask m) []
  match r.2 with
  | [] => r.1
  | d :: _ =>
    let v := d.val.toNat
    let o : State × (Nat ⊕ List Byte) := if badEgress r.2 then (r.1, .inl 3) else r.1.egressFrameOf m r.2
    let ret := if bit v 79 && !d.poison then some (bits v 77 64) else none
    let code : Nat := match o.2 with | .inl c => c | .inr _ => 0
    let f : List Byte := match o.2 with | .inl _ => [] | .inr g => g
    o.1.startFrame m f code (bits v 63 48) ret none (bit v 17) (bit v 18) (bits v 21 19) (bits v 47 32)

/-! ## MAC_TRANSMIT and MAC_TRANSMIT_END (R307, R309) -/

/-- The queues of a MAC that hold a frame. A MAC of die 1 reaches them through the Hinge. -/
def State.txQueues (s : State) (m : Nat) : List Nat :=
  if s.divided ∧ macDie m = 1 then []
  else (List.range 16).filter (fun q => s.tqOn q && s.rf (MACM.TQ_CFG q) F.MACM_TQ_CFG_MAC == m &&
    (s.txSends.any (fun e => e.1 == q) || s.tqReady q))

/-- PRIO of the egress cask whose packet is next, where one holds a packet. -/
def State.egressPrio (s : State) (m : Nat) : Option Nat :=
  if s.caskOn (s.egressCask m) then (s.readFrom (s.egressCask m)).map (fun h => s.caskCfg h F.CSK_CFG_PRIO) else none

def State.tqPrio (s : State) (q : Nat) : Nat := s.rf (MACM.TQ_CFG q) F.MACM_TQ_CFG_PRIO

/-- Transmission is paused. -/
def State.txPaused (s : State) (m : Nat) : Bool :=
  match (s.mac m).untilNs with
  | some t => decide (s.tb2nsOn (macDie m) < t) && !s.halfDuplex m
  | none => false

/-- MAC_TRANSMIT: at a frame boundary the member of highest priority that holds a frame gives it. -/
def State.macTransmits (s : State) (m : Nat) : State :=
  if s.package.held || s.dormant || !s.rb (MAC.CTRL m) F.MAC_CTRL_TXEN || (s.mac m).cur.isSome || s.txPaused m then s
  else
    let best : Option Nat := (s.txQueues m).foldl (fun b q => match b with
      | none => some q
      | some x => if s.tqPrio x < s.tqPrio q then some q else some x) none
    match best, s.egressPrio m with
    | none, none => s
    | none, some _ => s.takeEgress m
    | some q, none => s.takeQueue m q
    | some q, some p => if p < s.tqPrio q then s.takeQueue m q else s.takeEgress m

def execMacTransmit (m : Fin 5) (s : State) : Result := .next (s.macTransmits m)

/-- The return record of R309. -/
def returnRecord (tag status stamp : Nat) : BitVec 128 :=
  BitVec.ofNat 128 (0x40 * 2 ^ 24 + tag % 65536 + status % 16 * 2 ^ 32 + stamp / 1000000000 % 2 ^ 32 * 2 ^ 64 +
    stamp % 1000000000 * 2 ^ 96)

/-- A return record is posted; a refused one is counted in TXBAD. -/
def State.postReturn (s : State) (m : Fin 5) (h : Nat) (w : BitVec 128) : State :=
  let unreachable : Bool := s.divided && caskDie h != macDie m.val
  if unreachable then s.macBump m.val (MAC.TXBAD_LO m.val)
  else
    let ok := s.recordFits h (.mac m)
    let s1 := s.postRecord h (.mac m) w
    if ok then s1 else s1.macBump m.val (MAC.TXBAD_LO m.val)

/-- The completion of a send: status and timestamp in its EOP descriptor, DONE, and HEAD past it (R312). -/
def State.tqComplete (s : State) (q eop status : Nat) (stamp : Option Nat) : State :=
  let t := stamp.getD 0
  let a := s.tqAt q eop
  let s1 := s.ringWrite (s.tqDpa q) (a + 16) (leBytes 4 (status % 16 + 2 ^ 31) ++
    leBytes 4 (t / 1000000000 % 2 ^ 32) ++ leBytes 4 (t % 1000000000))
  let s2 := s1.put (MACM.TQ_HEAD q) F.MACM_TQ_HEAD_HEAD ((eop + 1) % 65536)
  if status = 3 ∨ status = 2 ∨ status = 4 then s2.queueBump (MACM.TQ_DROPS_LO q) else s2

/-- A frame's last bit has left: it is counted, traced, and goes to the line or back to the receive path. -/
def State.frameOut (s : State) (m : Fin 5) (x : Sending) : State :=
  let n := m.val
  let whole := x.bytes ++ hdlcFcs true x.bytes
  let s1 := (s.macBump n (MAC.TXFRAMES_LO n)).macBumpBy n (MAC.TXOCTETS_LO n) whole.length
  let s2 := s1.traceMac n x.start x.bytes ⟨parseFrame (s.tpidOf n) x.bytes, none, none⟩ true
  let s3 := match x.tq with | some e => s2.queueBump (MACM.TQ_FRAMES_LO e.1) | none => s2
  if s.macLoop n then s3.macReceive m whole true true else s3.emit (.frame m whole)

/-- MAC_TRANSMIT_END. No port transmits in DORMANT (R78). -/
def State.macTransmitEnds (s : State) (m : Fin 5) : State :=
  let n := m.val
  if s.dormant then s else match (s.mac n).cur with
  | none => s
  | some x =>
    let status := x.status.getD (Config.freeNat s.freeCount % 16)
    let s0 := (s.draw 1).setMac n { s.mac n with cur := none, collisions := 0 }
    let s1 := if x.sent then s0.frameOut m x else s0
    let s2 := match x.ret with | some h => s1.postReturn m h (returnRecord x.tag status (x.stamp.getD 0)) | none => s1
    match x.tq with
    | some (q, eop, true) => s2.tqComplete q eop status x.stamp
    | some (_, _, false) => s2
    | none => s2

def execMacTransmitEnd (m : Fin 5) (s : State) : Result := .next (s.macTransmitEnds m)

/-! ## Pause frames (R314) -/

/-- A pause frame of this port, without FCS. -/
def State.pauseFrame (s : State) (m q : Nat) : List Byte :=
  padFrame ([0x01, 0x80, 0xC2, 0x00, 0x00, 0x01] ++ s.macAddr m ++ [0x88, 0x08, 0x00, 0x01] ++ beBytes 2 q)

/-- A pause frame leaves. -/
def State.sendPause (s : State) (m : Fin 5) (q : Nat) : State :=
  let n := m.val
  let f := s.pauseFrame n q
  let whole := f ++ hdlcFcs true f
  let s1 := s.macBump n (MAC.PAUSETX_LO n)
  if s.macLoop n then s1.macReceive m whole true true else s1.emit (.frame m whole)

/-- PAUSE_FRAME_SEND: as the free buffer stands at 25 % and 50 %, and every 0x8000 quanta. -/
def State.pauseSends (s : State) (m : Fin 5) : State :=
  let n := m.val
  let x := s.mac n
  let free := rxSize n - s.rxUsed n
  if s.package.held || s.dormant || s.macCfg n F.MAC_CFG_PAUSETX == 0 || !s.rb (MAC.CTRL n) F.MAC_CTRL_TXEN ||
      !s.macLink n || s.halfDuplex n then s
  else if 4 * free < rxSize n then
    if x.pausing && x.low && decide (s.tb2nsOn (macDie n) < x.pauseAt + s.quantaNs n 0x8000) then s
    else (s.setMac n { x with pausing := true, low := true, pauseAt := s.tb2nsOn (macDie n) }).sendPause m 0xFFFF
  else if rxSize n < 2 * free ∧ x.pausing then (s.setMac n { x with pausing := false, low := false }).sendPause m 0
  else s.setMac n { x with low := false }

def execPauseFrameSend (m : Fin 5) (s : State) : Result := .next (s.pauseSends m)

/-! ## Half duplex (R316) -/

/-- COLLISION on MACM: counted; a late one, or the 16th of a frame, drops the frame. The status of the dropped frame is
open (log 35). -/
def State.collides (s : State) (late : Bool) : State :=
  let x := s.mac 4
  match x.cur with
  | none => s
  | some f =>
    if !s.halfDuplex 4 || !f.sent then s
    else
      let s1 := s.macBump 4 (MAC.COLL_LO 4)
      let y := s1.mac 4
      let dropped : Mac := { y with cur := some { f with sent := false, status := none }, collisions := 0 }
      if late then (s1.setMac 4 dropped).macBump 4 (MAC.LATECOL_LO 4)
      else if 16 ≤ x.collisions + 1 then (s1.setMac 4 dropped).macBump 4 (MAC.EXCOL_LO 4)
      else s1.setMac 4 { y with collisions := x.collisions + 1 }

def execCollision (late : Bool) (s : State) : Result := .next (s.collides late)

/-! ## Queue enables (R307) -/

/-- PRIOs of the enabled members of a MAC's egress set, but for a queue. -/
def State.memberPrios (s : State) (m q : Nat) : List Nat :=
  let h := s.egressCask m
  let lanes := s.regs.filter (fun e =>
    decide (CSK.CFG (caskDie h) 0 ≤ e.1) && decide (e.1 < CSK.CFG (caskDie h) 0 + 0x80000) &&
    (e.1 - CSK.CFG (caskDie h) 0) % 0x40 == 0 && fget F.CSK_CFG_EN e.2 == 1 && fget F.CSK_CFG_LANE e.2 == 1 &&
    fget F.CSK_CFG_PARENT e.2 == caskNo h)
  (if s.caskOn h then [s.caskCfg h F.CSK_CFG_PRIO] else []) ++ lanes.map (fun e => fget F.CSK_CFG_PRIO e.2) ++
    (((List.range 16).filter (fun r => r != q && s.tqOn r && s.rf (MACM.TQ_CFG r) F.MACM_TQ_CFG_MAC == m)).map s.tqPrio)

/-- A write of TQ CFG: ignored fields while EN is 1, an invalid MAC left as it is, an enable with a PRIO in use refused. -/
def State.tqCfg (s : State) (q v : Nat) : State :=
  let a := MACM.TQ_CFG q
  if s.tqOn q then
    if bit v 31 then s else { s.put a F.MACM_TQ_CFG_EN 0 with txSends := sdel s.txSends q }
  else
    let mac := if v % 8 < 5 then v % 8 else s.rf a F.MACM_TQ_CFG_MAC
    let s1 := ((((s.put a F.MACM_TQ_CFG_LOC (bits v 29 29)).put a F.MACM_TQ_CFG_SIZE (bits v 27 24)).put a
      F.MACM_TQ_CFG_PRIO (bits v 18 16))).put a F.MACM_TQ_CFG_MAC mac
    if !bit v 31 then s1
    else if (s1.memberPrios mac q).contains (s1.tqPrio q) then s1.raise (MAC.EVT mac) F.MAC_EVT_CFGREF
    else s1.put a F.MACM_TQ_CFG_EN 1

/-- A write of RQ CFG. -/
def State.rqCfg (s : State) (q v : Nat) : State :=
  let a := MACM.RQ_CFG q
  if s.rqOn q then s.put a F.MACM_RQ_CFG_EN (bits v 31 31)
  else s.wv a (v &&& 0xEF3FE000)

end Sys2Proof.Machine
end

