-- ==== Sys2Proof/Machine/DmaHost.lean ====
section
/-!
DEFINITION. DMA channels (R327 to R331), the PCIe link (R320, R323, R324), acknowledgement of vectors and MSI-X masks
(R335).
-/

namespace Sys2Proof.Machine

/-! ## A channel (R327) -/

def State.dma (s : State) (c : Nat) : Dma := sget s.dmas ⟨none⟩ c
def State.setDma (s : State) (c : Nat) (x : Dma) : State := { s with dmas := sset s.dmas ⟨none⟩ c x }

def State.dmaRun (s : State) (c : Nat) : Bool := s.rb (HIF.DMA_STATUS c) F.HIF_DMA_STATUS_RUN
def State.dmaHead (s : State) (c : Nat) : Nat := s.rf (HIF.DMA_HEAD c) F.HIF_DMA_HEAD_HEAD
def State.dmaDpa (s : State) (c : Nat) : Bool := s.rb (HIF.DMA_CFG c) F.HIF_DMA_CFG_LOC
def State.dmaSize (s : State) (c : Nat) : Nat := 2 ^ max 4 (s.rf (HIF.DMA_CFG c) F.HIF_DMA_CFG_SIZE)

/-- The address of ring entry number i. -/
def State.dmaAt (s : State) (c i : Nat) : Nat :=
  s.rv (HIF.DMA_BASELO c) / 64 * 64 + s.rv (HIF.DMA_BASEHI c) * 2 ^ 32 + 32 * (i % 65536 % s.dmaSize c)

def State.dmaCb (s : State) (c : Nat) : Nat := s.rv (HIF.DMA_CBLO c) / 16 * 16 + s.rv (HIF.DMA_CBHI c) * 2 ^ 32

/-- The PCIe link is up (R320). -/
def State.linkUp (s : State) : Bool := s.rf HIF.STATUS F.HIF_STATUS_SPEED != 0

/-- The channel works: it runs, the part is neither in reset nor in DORMANT nor its function in D3hot (R324), and host memory is
reached where it needs it (log 39). -/
def State.dmaLive (s : State) (c : Nat) : Bool :=
  s.dmaRun c && !s.package.held && !s.dormant && !s.pcie.d3hot && (s.dmaDpa c || s.linkUp)

/-- The completion block: HEAD, a code, and TAG where a descriptor has one (R329, R330). -/
def State.dmaBlock (s : State) (c code : Nat) (tag : Option Nat) : State :=
  if !s.dmaDpa c && !s.linkUp then s
  else s.ringWrite (s.dmaDpa c) (s.dmaCb c) (leBytes 4 (s.dmaHead c) ++ leBytes 4 code ++
    (match tag with | some t => leBytes 4 t | none => []))

/-- A channel stops at an error (R331). -/
def State.dmaStop (s : State) (c code : Nat) (tag : Option Nat) : State :=
  let s1 := (s.put (HIF.DMA_STATUS c) F.HIF_DMA_STATUS_RUN 0).put (HIF.DMA_STATUS c) F.HIF_DMA_STATUS_CODE code
  ((s1.setDma c ⟨none⟩).dmaBlock c code tag).raise (HIF.DMA_EVT c) F.HIF_DMA_EVT_ERR

/-- A write of CFG: EN from 0 to 1 starts the channel with HEAD at HOSTCNT; EN = 0 ends it; while EN is 1 nothing else of
it is taken. -/
def State.dmaCfg (s : State) (c v : Nat) : State :=
  let a := HIF.DMA_CFG c
  if s.rb a F.HIF_DMA_CFG_EN then
    if bit v 31 then s
    else ((s.put a F.HIF_DMA_CFG_EN 0).put (HIF.DMA_STATUS c) F.HIF_DMA_STATUS_RUN 0).setDma c ⟨none⟩
  else
    let s1 := s.wv a (v &&& 0xEF003FFF)
    if bit v 31 then
      ((s1.put (HIF.DMA_HEAD c) F.HIF_DMA_HEAD_HEAD (s.rf (HIF.DMA_HOSTCNT c) F.HIF_DMA_HOSTCNT_HOSTCNT)).put
        (HIF.DMA_STATUS c) F.HIF_DMA_STATUS_RUN 1).setDma c ⟨none⟩
    else s1

/-- DMA_ENABLE. -/
def execDmaEnable (c : Fin 4) (val : BitVec 32) (s : State) : Result :=
  hostCmd s (HIF.DMA_CFG c) (fun u => u.dmaCfg c val.toNat)

/-- DMA_HOSTCNT; `cells` is what the host has written to its memory before (R60). -/
def execDmaHostcnt (c : Fin 4) (cnt : BitVec 16) (cells : List (Nat × BitVec 8)) (s : State) : Result :=
  hostCmd (s.hostCells cells) (HIF.DMA_HOSTCNT c) (fun u =>
    u.put (HIF.DMA_HOSTCNT c) F.HIF_DMA_HOSTCNT_HOSTCNT cnt.toNat)

/-! ## COPY (R328, R329) -/

/-- A DPA range that DMA reaches (R38, R416). -/
def State.dmaRange (s : State) (a n : Nat) : Bool := s.rangeOk 0 a n

def isRom (a : Nat) : Bool := match placeOf a with | .rom _ => true | _ => false

/-- What a descriptor meets before any data moves: 0, 0x0801 or 0x0804. A range that begins at memory and runs past it
exceeds the range (log 39). -/
def State.copyCode (s : State) (d : List Byte) : Nat :=
  let a := leAt d 8 5
  let w := leAt d 16 4
  let n := w % 2 ^ 24
  if n = 0 ∨ bits w 29 24 ≠ 0 ∨ leAt d 13 3 ≠ 0 then 0x0804
  else if !s.dmaRange a 1 ∨ (!bit w 30 ∧ (isRom a ∨ isRom (a + n - 1))) then 0x0801
  else if !s.dmaRange a n then 0x0804
  else 0

/-- Device to host: the bytes, with EP = 1 on what lies in poisoned words. -/
def State.copyOut (s : State) (h a n : Nat) : State :=
  let s1 := s.hostStore h (s.bytes a n) false s.pcie.relaxed
  (s.poison.filter (fun w => decide (a < 8 * w + 8) && decide (8 * w < a + n))).foldl (fun u w =>
    let lo := max a (8 * w)
    let hi := min (a + n) (8 * w + 8)
    u.hostStore (h + (lo - a)) (s.bytes lo (hi - lo)) true s.pcie.relaxed) s1

/-- Host to device: the bytes, and a mark on every word that data with EP reaches. -/
def State.copyIn (s : State) (h a n : Nat) : State :=
  let s1 := s.write a (s.hostBytes h n)
  (s.hostPoison.filter (fun x => decide (h ≤ x) && decide (x < h + n))).foldl (fun u x => u.poisonWord (a + (x - h))) s1

/-- DMA_DESCRIPTOR: the next descriptor completes or stops the channel. `hostErr`: a read of host memory ended with an
error; `ecc`: what SECDED finds in the first word read. -/
def State.copyNext (s : State) (c : Nat) (hostErr : Bool) (ecc : Ecc) : State :=
  if !s.dmaLive c || s.rb (HIF.DMA_CFG c) F.HIF_DMA_CFG_MODE ||
      s.dmaHead c == s.rf (HIF.DMA_HOSTCNT c) F.HIF_DMA_HOSTCNT_HOSTCNT then s
  else
    let at_ := s.dmaAt c (s.dmaHead c)
    if s.dmaDpa c ∧ !s.dmaRange at_ 32 then s.dmaStop c 0x0801 none
    else
      let d := s.ringDesc (s.dmaDpa c) at_
      let w := leAt d 16 4
      let n := w % 2 ^ 24
      let h := leAt d 0 8
      let a := leAt d 8 5
      let tag := leAt d 20 2
      if hostErr ∧ !s.dmaDpa c then s.dmaStop c 0x0803 none
      else if s.copyCode d ≠ 0 then s.dmaStop c (s.copyCode d) (some tag)
      else if (hostErr ∧ !bit w 30) ∨ !s.linkUp then s.dmaStop c 0x0803 (some tag)
      else
        let s0 := if bit w 30 then s.eccAt a ecc else s
        let bad : Bool := if bit w 30 then s0.poisonedIn a n
          else s.hostPoison.any (fun x => decide (h ≤ x) && decide (x < h + n))
        let code := if bad then 0x0802 else 0
        let s1 := if bit w 30 then s0.copyOut h a n else s0.copyIn h a n
        let s2 := s1.ringWrite (s.dmaDpa c) (at_ + 24) (leBytes 4 (code + 2 ^ 31))
        let s3 := s2.put (HIF.DMA_HEAD c) F.HIF_DMA_HEAD_HEAD ((s.dmaHead c + 1) % 65536)
        let s4 := (if bad then s3.put (HIF.DMA_STATUS c) F.HIF_DMA_STATUS_CODE code else s3).dmaBlock c code (some tag)
        let s5 := if bad && bit w 30 then s4.errClass 15 else s4
        if bit w 31 then s5.raise (HIF.DMA_EVT c) F.HIF_DMA_EVT_DONE else s5

def execDmaDescriptor (c : Fin 4) (hostErr : Bool) (ecc : Ecc) (s : State) : Result := .next (s.copyNext c hostErr ecc)

/-! ## DRAIN (R330) -/

/-- The completion block reports the entries written, and DONE is set. -/
def State.drainReport (s : State) (c : Nat) : State :=
  ((s.setDma c ⟨none⟩).dmaBlock c 0 none).raise (HIF.DMA_EVT c) F.HIF_DMA_EVT_DONE

/-- An entry: the word, its read status, and zeros, with EP or the mark where the word is poisoned. -/
def State.drainWrite (s : State) (c a : Nat) (w : CWord) (st : Word) : State :=
  let bs := leBytes 16 w.val.toNat ++ leBytes 4 st.toNat ++ List.replicate 12 0
  if s.dmaDpa c then (if w.poison then (s.write a bs).poisonRange a 16 else s.write a bs)
  else
    let s1 := s.hostStore a bs false s.pcie.relaxed
    if w.poison then (s1.hostStore a (bs.take 16) true s.pcie.relaxed).errClass 15 else s1

/-- DMA_DRAIN_ENTRY: one committed word becomes one entry. -/
def State.drainNext (s : State) (c : Nat) : State :=
  let h := s.rf (HIF.DMA_CFG c) F.HIF_DMA_CFG_CASK
  if !s.dmaLive c || !s.rb (HIF.DMA_CFG c) F.HIF_DMA_CFG_MODE then s
  else if s.divided ∧ caskDie h = 1 then s.dmaStop c 0x0801 none
  else if !s.caskOn h then s.dmaStop c 0x0806 none
  else if (s.dmaHead c + 65536 - s.rf (HIF.DMA_HOSTCNT c) F.HIF_DMA_HOSTCNT_HOSTCNT) % 65536 = s.dmaSize c then s
  else
    let r := s.peek h
    let a := s.dmaAt c (s.dmaHead c)
    if bit r.2.toNat 31 then s
    else if s.dmaDpa c ∧ !s.dmaRange a 32 then s.dmaStop c 0x0801 none
    else
      let s1 := ((s.consume h).drainWrite c a r.1 r.2).put (HIF.DMA_HEAD c) F.HIF_DMA_HEAD_HEAD ((s.dmaHead c + 1) % 65536)
      if bit r.2.toNat 29 then s1.drainReport c
      else match (s1.dma c).since with
        | some _ => s1
        | none => s1.setDma c ⟨some s.tb2ns⟩

def execDmaDrainEntry (c : Fin 4) (s : State) : Result := .next (s.drainNext c)

/-- DMA_DRAIN_REPORT: after 2 µs with unreported entries. -/
def State.drainDue (s : State) (c : Nat) : State :=
  match (s.dma c).since with
  | some t => if s.dmaLive c && decide (t + 2000 ≤ s.tb2ns) then s.drainReport c else s
  | none => s

def execDmaDrainReport (c : Fin 4) (s : State) : Result := .next (s.drainDue c)

/-! ## Vectors (R335) -/

/-- EVT.VACK: vectors leave service; one still active is sent again at once. -/
def State.vackWrite (s : State) (i v : Nat) : State :=
  s.changed (each s ((List.range 32).filter (fun b => bit v b)) (fun u b => u.setService (32 * i + b) false))

def execVack (i : Fin 2) (bits : BitVec 32) (s : State) : Result :=
  hostCmd s (EVT.VACK i) (fun u => u.vackWrite i bits.toNat)

/-- A dword of BAR4 (R42): the 64 table entries at 0x0000, as address, data and vector control, and the pending bits at
0x1000. -/
def State.bar4Read (s : State) (o : Nat) : Word :=
  let e := s.msix.entry (o / 16)
  if o < 0x400 then
    match o % 16 / 4 with
    | 0 => e.addr.setWidth 32
    | 1 => e.addr.extractLsb' 32 32
    | 2 => e.data
    | _ => BitVec.ofNat 32 (b2n e.masked)
  else if o = 0x1000 ∨ o = 0x1004 then
    BitVec.ofNat 32 (bitsNat ((List.range 32).map (fun i => s.msix.pba.contains (32 * (o / 4 % 2) + i))).reverse)
  else 0

/-- A host write of a dword of BAR4: the pending bits are read-only. -/
def State.bar4Put (s : State) (o : Nat) (v : Word) : State :=
  let e := s.msix.entry (o / 16)
  let put (x : MsixEntry) : State := { s with msix := s.msix.setEntry (o / 16) x }
  if 0x400 ≤ o then s
  else match o % 16 / 4 with
    | 0 => put { e with addr := e.addr.extractLsb' 32 32 ++ v }
    | 1 => put { e with addr := v ++ e.addr.setWidth 32 }
    | 2 => put { e with data := v }
    | _ => put { e with masked := v.getLsbD 0 }

/-- MSIX_UNMASK: the host sets up entry v, clears its mask and Function Mask and has MSI-X enabled (log 14). -/
def State.msixUnmask (s : State) (v : Nat) (addr : BitVec 64) (data : Word) : State :=
  if s.package.held || s.pcie.d3hot then s
  else
    let s1 : State := { s with msix := { s.msix with enable := true, funcMask := false } }
    ((((s1.bar4Put (16 * v) (addr.setWidth 32)).bar4Put (16 * v + 4) (addr.extractLsb' 32 32)).bar4Put (16 * v + 8)
      data).bar4Put (16 * v + 12) 0).settle

def execMsixUnmask (v : Fin 64) (addr : BitVec 64) (data : BitVec 32) (s : State) : Result :=
  .next (s.msixUnmask v addr data)

/-! ## The PCIe link (R320, R323, R324) -/

/-- PCIE_LINK_UP: rates 1 to 4 at 4 or 8 lanes; other widths and HOSTSEL 0b11 leave the link down. The function is in D0
(log 39). -/
def State.pcieUp (s : State) (speed width : Nat) : State :=
  if s.package.held || s.rf HIF.STATUS F.HIF_STATUS_HOSTSEL == 3 || decide (speed = 0) || decide (4 < speed) ||
      !(width == 4 || width == 8) then s
  else
    let s1 : State := { s with pcie := { s.pcie with d3hot := false } }
    (s1.put HIF.STATUS F.HIF_STATUS_SPEED speed).put HIF.STATUS F.HIF_STATUS_WIDTH width

/-- A dword of the configuration header (R11, R323): the IDs, the class code with the revision, the subsystem IDs, and Interrupt
Pin 0. The vendor's ID serves as Subsystem Vendor ID too. -/
def State.configRead (s : State) (o : Nat) : Word :=
  match o with
  | 0x00 => s.pcie.device ++ s.pcie.vendor
  | 0x08 => s.pcie.classCode ++ s.pcie.revision
  | 0x2C => s.sec.subsysId ++ s.pcie.vendor
  | _ => 0

def execPcieLinkUp (speed width : BitVec 4) (s : State) : Result := .next (s.pcieUp speed.toNat width.toNat)

/-- PCIE_LINK_DOWN: MSI-X at its defaults, running channels stop with 0x0805, and no vector stays in service. -/
def State.pcieDown (s : State) (e : LinkEvt) : State :=
  if s.package.held then s
  else
    let s1 : State := if e = .d3hot then s
      else (s.put HIF.STATUS F.HIF_STATUS_SPEED 0).put HIF.STATUS F.HIF_STATUS_WIDTH 0
    let s2 := each s1 ((List.range 4).filter s1.dmaRun) (fun u c => u.dmaStop c 0x0805 none)
    let s3 : State := (({ s2 with
      msix := { Msix.init with pins := s2.msix.pins }
      pcie := { s2.pcie with relaxed := true, d3hot := e == .d3hot } } : State).wv (EVT.VINSVC 0) 0).wv
      (EVT.VINSVC 1) 0
    if e = .d3hot then s3 else s3.raise HIF.EVT F.HIF_EVT_LINKDN

def execPcieLinkDown (cause : LinkEvt) (s : State) : Result := .next (s.pcieDown cause)

end Sys2Proof.Machine
end

