-- ==== Sys2Proof/Machine/Inflate.lean ====
section
/-!
DEFINITION. DEFLATE decompression in its wrappers (R370, R378, R379), which RFC 1950, 1951 and 1952 define (log 40): a
machine that takes bits and gives bytes, and that can stop between two of its steps.
-/

namespace Sys2Proof.Machine

/-! ## Bits and checks -/

/-- Bits of bytes, least significant first. -/
def byteBits (bs : List Byte) : List Bool := bs.flatMap (fun b => (List.range 8).map (fun i => bit b.toNat i))

/-- A number from bits, least significant first. -/
def bitNat : List Bool → Nat
  | [] => 0
  | b :: t => b2n b + 2 * bitNat t

/-- Whole bytes of a bit list. -/
def bitBytes (bs : List Bool) : List Byte :=
  (List.range (bs.length / 8)).map (fun i => BitVec.ofNat 8 (bitNat ((bs.drop (8 * i)).take 8)))

/-- The CRC-32 register after a byte. -/
def crcStep (c : Nat) (b : Byte) : Nat :=
  (List.range 8).foldl (fun (x : Nat) _ => if x % 2 = 1 then (x / 2) ^^^ 0xEDB88320 else x / 2) (c ^^^ b.toNat)

/-- Adler-32 after a byte. -/
def adlerStep (c : Nat) (b : Byte) : Nat :=
  let lo := (c % 65536 + b.toNat) % 65521
  lo + (c / 65536 + lo) % 65521 * 65536

/-- The running check of a wrapper (1 zlib; else CRC-32): its start, its step, and its value. -/
def checkInit (wrap : Nat) : Nat := if wrap = 1 then 1 else 0xFFFFFFFF
def checkStep (wrap c : Nat) (b : Byte) : Nat := if wrap = 1 then adlerStep c b else crcStep c b
def checkValue (wrap c : Nat) : Nat := if wrap = 1 then c else c ^^^ 0xFFFFFFFF

/-! ## Huffman codes -/

/-- What a parser of bits finds: too few bits, invalid data, or a value and the bits after it. -/
inductive Got (α : Type) where
  | more
  | bad
  | ok (a : α) (rest : List Bool)

def Got.bind {α β : Type} (g : Got α) (f : α → List Bool → Got β) : Got β :=
  match g with
  | .more => .more
  | .bad => .bad
  | .ok a r => f a r

/-- A number of n bits. -/
def getBits (n : Nat) (bs : List Bool) : Got Nat := if bs.length < n then .more else .ok (bitNat (bs.take n)) (bs.drop n)

/-- Symbols with a code of a length, and all symbols in the order of their codes. -/
def symsOf (lens : List Nat) (l : Nat) : List Nat := (List.range lens.length).filter (fun i => lens.getD i 0 == l)
def symOrder (lens : List Nat) : List Nat := (List.range 15).flatMap (fun i => symsOf lens (i + 1))

/-- The code uses its space exactly, or has one symbol of one bit, or none. -/
def codeOk (lens : List Nat) : Bool :=
  let used := lens.filter (· != 0)
  let total := (used.map (fun l => 2 ^ (15 - l))).sum
  total == 2 ^ 15 || used == [1] || used.isEmpty

/-- The next symbol: k lengths remain; code and first run at the length before. -/
def decodeGo (lens : List Nat) : Nat → Nat → Nat → Nat → Nat → List Bool → Got Nat
  | 0, _, _, _, _, _ => .bad
  | _ + 1, _, _, _, _, [] => .more
  | k + 1, l, code, first, idx, b :: t =>
    let c := (symsOf lens l).length
    let v := 2 * code + b2n b
    if v < 2 * first + c then .ok ((symOrder lens).getD (idx + (v - 2 * first)) 0) t
    else decodeGo lens k (l + 1) v (2 * first + c) (idx + c) t

def decodeSym (lens : List Nat) (bs : List Bool) : Got Nat := decodeGo lens 15 1 0 0 0 bs

/-- The fixed codes. -/
def fixedLit : List Nat := List.replicate 144 8 ++ List.replicate 112 9 ++ List.replicate 24 7 ++ List.replicate 8 8
def fixedDist : List Nat := List.replicate 32 5

/-- The order of the code length codes. -/
def lenOrder : List Nat := [16, 17, 18, 0, 8, 7, 9, 6, 10, 5, 11, 4, 12, 3, 13, 2, 14, 1, 15]

/-- n code lengths, read with the code of lengths. -/
def readLens (cl : List Nat) (n : Nat) : Nat → List Nat → List Bool → Got (List Nat)
  | 0, _, _ => .bad
  | k + 1, acc, bs =>
    if n = acc.length then .ok acc bs
    else if n < acc.length then .bad
    else (decodeSym cl bs).bind (fun y r =>
      if y < 16 then readLens cl n k (acc ++ [y]) r
      else if y = 16 then
        match acc.getLast? with
        | none => .bad
        | some p => (getBits 2 r).bind (fun m r1 => readLens cl n k (acc ++ List.replicate (3 + m) p) r1)
      else if y = 17 then (getBits 3 r).bind (fun m r1 => readLens cl n k (acc ++ List.replicate (3 + m) 0) r1)
      else (getBits 7 r).bind (fun m r1 => readLens cl n k (acc ++ List.replicate (11 + m) 0) r1))

/-- The codes of a dynamic block. -/
def dynamicCodes (bs : List Bool) : Got (List Nat × List Nat) :=
  (getBits 14 bs).bind (fun h r =>
    let hlit := h % 32 + 257
    let hdist := h / 32 % 32 + 1
    let hclen := h / 1024 + 4
    if 286 < hlit then .bad
    else (getBits (3 * hclen) r).bind (fun v r1 =>
      let cl := (List.range 19).map (fun i =>
        let j := lenOrder.idxOf i
        if j < hclen then v / 8 ^ j % 8 else 0)
      if !codeOk cl then .bad
      else (readLens cl (hlit + hdist) 320 [] r1).bind (fun l r2 =>
        if codeOk (l.take hlit) && codeOk (l.drop hlit) then .ok (l.take hlit, l.drop hlit) r2 else .bad)))

/-- Base and extra bits of a length symbol 257 + i, and of a distance symbol. -/
def lenBase (i : Nat) : Nat × Nat :=
  if i < 8 then (3 + i, 0) else if i = 28 then (258, 0) else (3 + (4 + i % 4) * 2 ^ (i / 4 - 1), i / 4 - 1)
def distBase (i : Nat) : Nat × Nat := if i < 4 then (1 + i, 0) else (1 + (2 + i % 2) * 2 ^ (i / 2 - 1), i / 2 - 1)

/-- A literal, the end of a block, or a length and a distance. -/
inductive Tok where
  | lit (b : Nat)
  | fin
  | copy (len dist : Nat)

def token (lit dist : List Nat) (bs : List Bool) : Got Tok :=
  (decodeSym lit bs).bind (fun y r =>
    if y < 256 then .ok (.lit y) r
    else if y = 256 then .ok .fin r
    else if 285 < y then .bad
    else
      let lb := lenBase (y - 257)
      (getBits lb.2 r).bind (fun x r1 => (decodeSym dist r1).bind (fun z r2 =>
        if 29 < z then .bad
        else
          let db := distBase z
          (getBits db.2 r2).bind (fun w r3 => .ok (.copy (lb.1 + x) (db.1 + w)) r3))))

/-! ## The machine -/

/-- What remains of a stream: where it stands (0 wrapper header, 1 extra length, 2 extra field with `a` bytes left, 3
name, 4 comment, 5 header check, 6 block header, 7 stored with `a` bytes left, 8 coded, 9 a copy of `a` bytes at distance
`b`, 10 trailer, 11 finished), gzip's FLG, the final-block flag, the codes, header check and data check, output and input
bytes so far, the last 32 KiB of output, newest first, and bits taken and not used. -/
structure Inf where
  ph : Nat
  a : Nat
  b : Nat
  flg : Nat
  last : Bool
  lit : List Nat
  dst : List Nat
  hcrc : Nat
  chk : Nat
  total : Nat
  inp : Nat
  win : List Byte
  src : List Bool
  deriving DecidableEq, Repr

def Inf.init (wrap : Nat) : Inf := ⟨0, 0, 0, 0, false, [], [], 0xFFFFFFFF, checkInit wrap, 0, 0, [], []⟩

/-- What a step does: needs input, stops with a code, ends the stream, goes on, or gives a byte. -/
inductive InfStep where
  | more
  | stop (code : Nat)
  | done
  | next (s : Inf)
  | emit (b : Byte) (s : Inf)

/-- Where the gzip header goes on after part p: 1 extra, 3 name, 4 comment, 5 check, 6 the data. -/
def hdrNext (flg p : Nat) : Nat :=
  if p < 1 ∧ bit flg 2 then 1 else if p < 3 ∧ bit flg 3 then 3 else if p < 4 ∧ bit flg 4 then 4
  else if p < 5 ∧ bit flg 1 then 5 else 6

/-- The rest of the byte under way is dropped. -/
def aligned (bs : List Bool) : List Bool := bs.drop (bs.length % 8)

def Inf.hdrBytes (s : Inf) (n : Nat) : Nat := (bitBytes (s.src.take (8 * n))).foldl crcStep s.hcrc

/-- The wrapper header. -/
def Inf.header (s : Inf) (wrap : Nat) : InfStep :=
  match wrap with
  | 0 => .next { s with ph := 6 }
  | 1 =>
    if s.src.length < 16 then .more
    else
      let f := bitBytes (s.src.take 16)
      let v := beNat f
      if bits v 11 8 ≠ 8 ∨ 7 < bits v 15 12 ∨ bit v 5 ∨ v % 31 ≠ 0 then .stop 0x0B04
      else .next { s with ph := 6, src := s.src.drop 16 }
  | _ =>
    if s.src.length < 80 then .more
    else
      let f := bitBytes (s.src.take 80)
      let flg := leAt f 3 1
      if leAt f 0 3 ≠ 0x088B1F ∨ 32 ≤ flg then .stop 0x0B04
      else .next { s with ph := hdrNext flg 0, flg := flg, hcrc := s.hdrBytes 10, src := s.src.drop 80 }

/-- A byte of a gzip field; `ends` tells from the byte whether the field ends. -/
def Inf.hdrByte (s : Inf) (ends : Nat → Bool) : InfStep :=
  if s.src.length < 8 then .more
  else
    let v := bitNat (s.src.take 8)
    .next { s with
      ph := if ends v then hdrNext s.flg (max 2 s.ph) else s.ph
      a := s.a - 1
      hcrc := s.hdrBytes 1
      src := s.src.drop 8 }

/-- A block begins. -/
def Inf.block (s : Inf) : InfStep :=
  match getBits 3 s.src with
  | .more => .more
  | .bad => .stop 0x0B03
  | .ok h r =>
    let l : Bool := h % 2 == 1
    match h / 2 with
    | 0 =>
      match getBits 32 (aligned r) with
      | .more => .more
      | .bad => .stop 0x0B03
      | .ok v r1 =>
        if v % 65536 + v / 65536 = 65535 then .next { s with ph := 7, a := v % 65536, last := l, src := r1 } else .stop 0x0B03
    | 1 => .next { s with ph := 8, last := l, lit := fixedLit, dst := fixedDist, src := r }
    | 2 =>
      match dynamicCodes r with
      | .more => .more
      | .bad => .stop 0x0B03
      | .ok c r1 => .next { s with ph := 8, last := l, lit := c.1, dst := c.2, src := r1 }
    | _ => .stop 0x0B03

/-- A block has ended. -/
def Inf.blockEnd (s : Inf) (r : List Bool) : InfStep :=
  if s.last then .next { s with ph := 10, src := aligned r } else .next { s with ph := 6, src := r }

/-- A byte of output, with the check and the window. -/
def Inf.give (s : Inf) (wrap : Nat) (c : Byte) : InfStep :=
  .emit c { s with chk := checkStep wrap s.chk c, total := s.total + 1, win := c :: s.win }

/-- A symbol of a coded block. -/
def Inf.coded (s : Inf) (wrap : Nat) : InfStep :=
  match token s.lit s.dst s.src with
  | .more => .more
  | .bad => .stop 0x0B03
  | .ok t r =>
    match t with
    | .lit c => ({ s with src := r } : Inf).give wrap (BitVec.ofNat 8 c)
    | .fin => s.blockEnd r
    | .copy n d =>
      if d ≤ s.win.length ∧ d ≤ 32768 then .next { s with ph := 9, a := n, b := d, src := r } else .stop 0x0B03

/-- The trailer. -/
def Inf.trailer (s : Inf) (wrap : Nat) : InfStep :=
  let n := if wrap = 0 then 0 else if wrap = 1 then 4 else 8
  if s.src.length < 8 * n then .more
  else
    let f := bitBytes (s.src.take (8 * n))
    let good : Bool :=
      if wrap = 0 then true
      else if wrap = 1 then beNat f == checkValue 1 s.chk
      else leAt f 0 4 == checkValue 2 s.chk && leAt f 4 4 == s.total % 2 ^ 32
    if good then .next { s with ph := 11, src := s.src.drop (8 * n) } else .stop 0x0B04

/-- One step. -/
def Inf.step (s : Inf) (wrap : Nat) : InfStep :=
  match s.ph with
  | 0 => s.header wrap
  | 1 =>
    if s.src.length < 16 then .more
    else
      let n := bitNat (s.src.take 16)
      .next { s with ph := if n = 0 then hdrNext s.flg 2 else 2, a := n, hcrc := s.hdrBytes 2, src := s.src.drop 16 }
  | 2 => s.hdrByte (fun _ => s.a == 1)
  | 3 => s.hdrByte (· == 0)
  | 4 => s.hdrByte (· == 0)
  | 5 =>
    if s.src.length < 16 then .more
    else if bitNat (s.src.take 16) = checkValue 2 s.hcrc % 65536 then .next { s with ph := 6, src := s.src.drop 16 }
    else .stop 0x0B04
  | 6 => s.block
  | 7 =>
    if s.a = 0 then s.blockEnd s.src
    else if s.src.length < 8 then .more
    else ({ s with a := s.a - 1, src := s.src.drop 8 } : Inf).give wrap (BitVec.ofNat 8 (bitNat (s.src.take 8)))
  | 8 => s.coded wrap
  | 9 => if s.a = 0 then .next { s with ph := 8 } else ({ s with a := s.a - 1 } : Inf).give wrap (s.win.getD (s.b - 1) 0)
  | 10 => s.trailer wrap
  | _ => .done

/-- How a run ends: more input needed, output full, a code, or the end of the stream. -/
inductive InfVerdict where
  | more
  | full
  | code (c : Nat)
  | done
  deriving DecidableEq, Repr

/-- What bounds a run: the space for output, the stream's OUTMAX and RATIO, and the stream's input bytes that are
consumed once the bits given have gone. -/
structure InfLim where
  space : Nat
  outmax : Nat
  ratio : Nat
  inp : Nat

/-- Whether a byte breaks a limit of the stream totals (R379); `left` is the bits not yet used. -/
def InfLim.breaks (l : InfLim) (total left : Nat) : Option Nat :=
  if l.outmax < total then some 0x0B05
  else if l.ratio ≠ 0 ∧ 65536 < total ∧ l.ratio * (l.inp - left / 8) < total then some 0x0B06
  else none

/-- k steps at most; output is gathered newest first. -/
def Inf.run (wrap : Nat) (l : InfLim) : Nat → Inf → List Byte → Inf × List Byte × InfVerdict
  | 0, s, out => (s, out, .more)
  | k + 1, s, out =>
    match s.step wrap with
    | .more => (s, out, .more)
    | .stop c => (s, out, .code c)
    | .done => (s, out, .done)
    | .next t => Inf.run wrap l k t out
    | .emit b t =>
      match l.breaks t.total t.src.length with
      | some c => (s, out, .code c)
      | none => if out.length < l.space then Inf.run wrap l k t (b :: out) else (s, out, .full)

/-- The bits hold coded blocks only, of 16,384 symbols at most each; m symbols of the block under way have passed (R371). -/
def Inf.coding : Nat → Nat → Inf → Bool
  | 0, _, _ => true
  | k + 1, m, s =>
    match s.step 0 with
    | .stop _ => false
    | .next t =>
      if t.ph = 7 ∨ 16384 < m then false
      else Inf.coding k (if s.ph = 6 then 0 else if s.ph = 8 ∧ t.ph = 9 then m + 1 else m) t
    | .emit _ t => if 16384 < m then false else Inf.coding k (if s.ph = 8 then m + 1 else m) t
    | .more => decide (m ≤ 16384)
    | .done => decide (m ≤ 16384)

/-- Steps enough for the bits and the space. -/
def Inf.fuel (s : Inf) (space : Nat) : Nat := 2 * (s.src.length + space + s.a) + 16

end Sys2Proof.Machine
end

