-- ==== Sys2Proof/Machine/Wardens.lean ====
section
/-!
DEFINITION. The Wardens: the policy (R355 to R357), records (R368), groups (R164), the re-home (R365 to R367), evacuation
(R363, R364) and the states of a cluster that the host and the Wardens change (R362).
-/

namespace Sys2Proof.Machine

/-! ## The policy (R357) -/

def State.wdn (s : State) (d : Nat) : Wdn := sget s.wdns Wdn.init d
def State.setWdn (s : State) (d : Nat) (x : Wdn) : State := { s with wdns := sset s.wdns Wdn.init d x }

/-- The default policy: words of the global part and of a class entry. -/
def defaultGlobal : List Nat := [0, 0x06, 0x64010211, 0x0A465A, 0x5009, 0]
def defaultClass : List Nat := [0x15A, 0x00C80014, 0x05050C0A, 0x190A7064, 0x051E0546, 0x000A003C, 0, 0]

/-- Word i of the policy in force of a Warden. -/
def State.polWord (s : State) (d i : Nat) : Nat :=
  match (s.wdn d).policy with
  | some bs => leAt bs (4 * i) 4
  | none => if i < 16 then defaultGlobal.getD i 0 else defaultClass.getD ((i - 16) % 8) 0

/-- A field of the global part, and of the entry of a class. -/
def State.polG (s : State) (d w hi lo : Nat) : Nat := bits (s.polWord d w) hi lo
def State.polC (s : State) (d c w hi lo : Nat) : Nat := bits (s.polWord d (16 + 8 * c + w)) hi lo

/-- The Warden acts: EN, and not powered down in DORMANT (R78, R355). -/
def State.wdnOn (s : State) (d : Nat) : Bool := s.rb (WDN.CFG d) F.WDN_CFG_EN && !s.dormant

/-- The spare quota of a die, from WDN0's policy (R356). -/
def State.spareQuota (s : State) (d : Nat) : Nat := s.polG 0 2 (4 * d + 3) (4 * d)

/-- A value of the global part is out of range (code 0x0A01). -/
def globalBad (w : Nat → Nat) : Bool :=
  (List.range 4).any (fun i => bits (w 1) (2 * i + 1) (2 * i) == 3) || decide (8 < bits (w 2) 3 0) || decide (8 < bits (w 2) 7 4) ||
    bits (w 2) 15 8 == 0 || bits (w 2) 23 16 == 0 || decide (bits (w 3) 7 0 ≤ bits (w 3) 15 8) ||
    decide (bits (w 4) 3 2 < bits (w 4) 1 0)

/-- A value of a class entry is out of range. -/
def classBad (w : Nat → Nat) : Bool :=
  let jb (v : Nat) : Bool := decide (v < 10) || decide (500 < v)
  (List.range 4).any (fun i => bits (w 0) (2 * i + 1) (2 * i) == 3) || jb (bits (w 1) 15 0) || jb (bits (w 1) 31 16) ||
    decide (bits (w 1) 31 16 < bits (w 1) 15 0) || decide (bits (w 3) 6 4 < bits (w 3) 2 0) || decide (8 < bits (w 3) 11 8) ||
    decide (8 < bits (w 3) 15 12) || decide (bits (w 3) 15 12 < bits (w 3) 11 8)

/-- Bits of a word that are not fields: of the global part, of a class entry. -/
def globalZero : List Nat := [0xFFFF0000, 0xFFFFFF00, 0, 0xFF000000, 0xFFFF00F0, 0xFFFFFFFE]
def classZero : List Nat := [0xFFFFFE00, 0, 0, 0x88, 0, 0xFF000000]

/-- What the check of an image finds. -/
def State.policyCode (s : State) (d : Nat) (bs : List Byte) (version : BitVec 16) : Nat :=
  let w (i : Nat) : Nat := leAt bs (4 * i) 4
  let cls (c i : Nat) : Nat := w (16 + 8 * c + i)
  let inForce : Bool := (s.wdn d).policy.isSome && version.toNat == s.rf (WDN.STATUS d) F.WDN_STATUS_POLVER
  if w 0 % 65536 ≠ version.toNat ∨ inForce ∨ globalBad w ∨ (List.range 256).any (fun c => classBad (cls c)) then 0x0A01
  else if (List.range 16).any (fun i => w i &&& globalZero.getD i 0xFFFFFFFF != 0) ∨
      (List.range 256).any (fun c => (List.range 8).any (fun i => cls c i &&& classZero.getD i 0xFFFFFFFF != 0)) then 0x0A02
  else 0

/-- ERR_LOG holds the first failing code. -/
def State.wdnFail (s : State) (d code : Nat) : State :=
  if code = 0 ∨ s.rb (WDN.ERR_LOG d) F.WDN_ERR_LOG_VALID then s else s.wv (WDN.ERR_LOG d) (2 ^ 31 + code)

/-- PCMT: ignored while PSTATUS.READY is 0. -/
def State.policyCommit (s : State) (d : Nat) (version : BitVec 16) : State :=
  if !s.ready (WDN.PSTATUS d) then s
  else (s.begin_ (WDN.PSTATUS d)).setWdn d { s.wdn d with pcmt := some version }

def execPcmt (d : Fin 2) (version : BitVec 16) (s : State) : Result :=
  hostCmd s (WDN.PCMT d) (fun u => u.policyCommit d version)

/-- POLICY_IN_FORCE: the image is copied and checked, and governs from here on, or is rejected. A poisoned one is no valid
policy (R63, log 62). -/
def State.policyTaken (s : State) (d : Nat) : State :=
  match (s.wdn d).pcmt with
  | none => s
  | some v =>
    let a := s.rv (WDN.POLBASE d) * 256
    let bs := s.unitBytes d a 8256
    let code := if s.poisonedIn a 8256 then 0x0A01 else s.policyCode d bs v
    let s1 := s.setWdn d { s.wdn d with pcmt := none, policy := if code = 0 then some bs else (s.wdn d).policy }
    let s2 := if code = 0 then
        (s1.put (WDN.STATUS d) F.WDN_STATUS_POLVER v.toNat).put (WDN.STATUS d) F.WDN_STATUS_DEFAULT 0
      else s1.wdnFail d code
    s2.post (WDN.PSTATUS d) code

def execPolicyInForce (d : Fin 2) (s : State) : Result := .next (s.policyTaken d)

/-! ## Records (R366, R368) -/

def State.wdnBump (s : State) (d ctr : Nat) : State := s.bump ctr (WDN.EVT d) F.WDN_EVT_WCNT

/-- A Warden's record is posted to a cask; a refused one is counted. -/
def State.wdnPost (s : State) (d h : Nat) (w : BitVec 128) : State :=
  let lost (u : State) : State := (u.wdnBump d (WDN.RECLOST_LO d)).raise (WDN.EVT d) F.WDN_EVT_LOST
  let p : Producer := .warden ⟨d % 2, Nat.mod_lt _ (by decide)⟩
  if s.divided ∧ caskDie h ≠ d then lost s
  else
    let ok := s.recordFits h p
    let s1 := s.postRecord h p w
    if ok then s1 else lost s1

/-- A record of the Warden of a die (R368). -/
def State.wdnWord (s : State) (d typ tid code value : Nat) : BitVec 128 :=
  BitVec.ofNat 128 (typ * 2 ^ 24 + tid + (code % 256) * 2 ^ 32 + (value % 65536) * 2 ^ 48 + (s.tb2sOn d).toNat * 2 ^ 64 +
    (s.tb2nOn d).toNat * 2 ^ 96)

/-- A record of a termination in slot k of cluster n: class 3 for types to 0x57, class 4 beyond. -/
def State.wdnRecord (s : State) (d n k typ code value : Nat) : State :=
  let c := s.ctx n k
  if ctxEvMask c (if typ ≤ 0x57 then 3 else 4) then
    s.wdnPost d (ctxEvCask c) (s.wdnWord d typ (s.slot n k).tid.toNat code value)
  else s

/-- A cluster-level record. -/
def State.wdnNote (s : State) (d typ code value : Nat) : State :=
  s.wdnPost d (s.rf (WDN.EVCASK d) F.WDN_EVCASK_EVCASK) (s.wdnWord d typ 0 code value)

/-- Advice on a termination, and on a cluster or the time source. -/
def State.adviseSlot (s : State) (d n k code value : Nat) : State :=
  (s.wdnBump d (WDN.ADVISES_LO d)).wdnRecord d n k 0x57 code value
def State.advise (s : State) (d code value : Nat) : State := (s.wdnBump d (WDN.ADVISES_LO d)).wdnNote d 0x57 code value

/-- A value of 16 bits that the spec does not state (log 37). -/
def State.openValue (s : State) : Nat := Config.freeNat s.freeCount % 65536

/-! ## Groups (R164) -/

/-- The instruction links its termination with its peer. -/
def linksPeer (kind w : Nat) : Bool :=
  let op := ciOp w
  ((op == opLineIn || op == opLineOut || op == opPktIn || op == opPktOut || op == opEcRef) && ciS w) || op == opMix ||
    (op == opFork && bits w 45 44 == 0) || (op == opFaxrelay && kind != 1) || (op == opEnc && bit (ciB w) 2)

/-- The images of a slot: in force and pending. -/
def State.imagesOf (s : State) (n k : Nat) : List (List Byte) :=
  let x := s.slot n k
  (if x.st = .reserved then [] else [s.ctx n k]) ++
    (match x.pending with | some q => if q.delete then [] else [q.image] | none => [])

/-- The slots of a cluster that slot k names as its peers. -/
def State.linksOf (s : State) (n k : Nat) : List Nat :=
  (s.imagesOf n k).filterMap (fun c =>
    if (s.programWords c).any (linksPeer (ctxKind c)) then s.slotOf n (ctxPeer c) else none)

/-- Closure of a set of slots under links in both directions: m rounds. -/
def closeLinks (links : List (Nat × Nat)) : Nat → List Nat → List Nat
  | 0, l => l
  | m + 1, l =>
    let new := links.filterMap (fun e =>
      if l.contains e.1 && !l.contains e.2 then some e.2
      else if l.contains e.2 && !l.contains e.1 then some e.1 else none)
    if new.isEmpty then l else closeLinks links m (l ++ new.dedup)

/-- Slots of a cluster that hold a termination at home there. -/
def State.homed (s : State) (n : Nat) : List Nat :=
  ((s.slotsOf n).filter (fun e => e.2.st != .free && !s.isTarget n e.1)).map (·.1)

/-- The group of a slot, by TID. -/
def State.group (s : State) (n k : Nat) : List Nat :=
  let l := s.homed n
  let links := l.flatMap (fun j => (s.linksOf n j).map (fun i => (j, i)))
  sortBy (closeLinks links l.length [k]) (fun a b => decide ((s.slot n a).tid.toNat ≤ (s.slot n b).tid.toNat))

/-- The groups of a cluster, by increasing lowest TID. -/
def State.groups (s : State) (n : Nat) : List (List Nat) :=
  (sortBy (s.homed n) (fun a b => decide ((s.slot n a).tid.toNat ≤ (s.slot n b).tid.toNat))).foldl
    (fun gs k => if gs.any (fun g => g.contains k) then gs else gs ++ [s.group n k]) []

/-- A slot takes part in a re-home. -/
def State.moves (s : State) (n k : Nat) : Bool :=
  s.rehomes.any (fun r => r.src == n && r.members.any (fun m => m.slot == k))

/-! ## Home records of a move (R165, R167) -/

/-- Bytes 8 to 15 of a home record: the target, and MOVES. -/
def State.writeNewHome (s : State) (n : Nat) (tid : BitVec 18) (dst slot epoch moves : Nat) : State :=
  s.unitWrite (dieOf n) (s.homeDpa n tid + 8) (leBytes 8 (dst * 2 ^ 25 + slot * 2 ^ 12 + epoch + moves % 2 ^ 32 * 2 ^ 32))

def State.homeMoves (s : State) (n : Nat) (tid : BitVec 18) : Nat := s.unitLe (dieOf n) (s.homeDpa n tid + 12) 4

/-! ## Prepare (R365) -/

/-- A member cannot move: pending, DELETING, moving, or poisoned. -/
def State.memberBad (s : State) (n k : Nat) : Bool :=
  let x := s.slot n k
  x.pending.isSome || x.st == .deleting || s.moves n k || s.homeMoving n x.tid || s.poisonedIn (slotDpa n k) 256

/-- The chains of a slot that its periodic timer starts. -/
def State.timed (s : State) (n k : Nat) : Bool := ((s.cluster n).periodic k).isSome

/-- The target admits the group as a commit would: slots, charge, units, timers. -/
def State.admits (s : State) (n dst : Nat) (ks : List Nat) : Bool :=
  let charge := (ks.map (fun k => (s.slot n k).charge)).sum
  let u : Units := ks.foldl (fun (a : Units) k => a.add (s.slot n k).units) ⟨0, 0, 0, 0⟩
  let cur := s.useOf dst
  let cap := s.cap dst
  let fit (c x m : Nat) : Bool := x == 0 || decide (c + x ≤ m)
  dst != n && s.clState dst == stRun && !(s.divided && dieOf dst != dieOf n) &&
    decide (s.slotCount dst + ks.length ≤ 8192) && (charge == 0 || decide (s.load dst + charge ≤ s.budget dst)) &&
    fit cur.vat u.vat cap.vat && fit cur.tone u.tone cap.tone && fit cur.src u.src cap.src && fit cur.vde u.vde cap.vde &&
    decide ((s.cluster dst).timers.length + (ks.filter (s.timed n)).length ≤ 8192)

def State.prepareCode (s : State) (n dst : Nat) (ks : List Nat) : Nat :=
  if ks.any (s.memberBad n) then 0x0A22 else if !s.admits n dst ks then 0x0A21 else 0

/-- The instant of a timer reserved for a move: none that comes. -/
def farDue : Nat := 2 ^ 80

/-- A slot of the target is reserved for a member, with its charge, units and timer. -/
def State.reserveFor (s : State) (n dst k : Nat) : State × Option Member :=
  match s.lowestFree dst with
  | none => (s, none)
  | some j =>
    let x := s.slot n k
    let s1 := s.setSlot dst j { Slot.init with
      st := .reserved, tid := x.tid, charge := x.charge, opt := x.opt, units := x.units, names := x.names }
    (if s.timed n k then s1.armPeriodic dst j farDue else s1, some ⟨x.tid, k, j⟩)

/-- The home records name the target, bytes 8 to 15 first. -/
def State.markMoving (s : State) (n dst : Nat) (m : Member) : State :=
  (s.writeNewHome n m.tid dst m.target (s.rf (CTX.EPOCH dst) F.CTX_EPOCH_EPOCH) (s.homeMoves n m.tid)).writeHome n m.tid true
    true m.slot (s.slot n m.slot).inForce.toNat

/-- PREPARE of a group that the target admits. -/
def State.prepare (s : State) (n dst cause : Nat) (ks : List Nat) (host : Option (BitVec 18)) : State :=
  let r := ks.foldl (fun (a : State × List Member) k =>
    match a.1.reserveFor n dst k with
    | (u, some m) => (u, a.2 ++ [m])
    | (u, none) => (u, a.2)) (s, [])
  let s1 : State := { r.1 with rehomes := r.1.rehomes ++ [⟨n, dst, cause, host, r.2, false⟩] }
  let s2 := (each s1 r.2 (fun u m => u.markMoving n dst m)).settleSlots dst
  each s2 ks (fun u k => u.wdnRecord (dieOf n) n k 0x58 dst cause)

/-- A re-home is abandoned or aborted. -/
def State.countAbort (s : State) (d : Nat) : State := s.wdnBump d (WDN.ABORTS_LO d)

/-! ## The end of a re-home (R365, R367) -/

def State.postRh (s : State) (d code : Nat) (tid : BitVec 18) (dst : Nat) : State :=
  (((s.wv (WDN.RHSTATUS_TID d) tid.toNat).wv (WDN.RHSTATUS_CL d) dst).wdnFail d code).post (WDN.RHSTATUS d) code

def Rehome.same (r t : Rehome) : Bool := r.src == t.src && r.members.map (·.tid) == t.members.map (·.tid)

/-- The reserved slots and timers of the target are released. -/
def State.releaseTargets (s : State) (r : Rehome) : State :=
  each s r.members (fun u m => (u.dropPeriodic r.dst m.target).clearSlot r.dst m.target)

/-- An abort: the old home releases runs again, unless it was lost. -/
def State.abortRehome (s : State) (r : Rehome) (cause code : Nat) (lost : Bool) : State :=
  let d := dieOf r.src
  let s1 : State := { s with rehomes := s.rehomes.filter (fun t => !t.same r) }
  let s2 := s1.releaseTargets r
  let s3 := if lost then s2 else each s2 r.members (fun u m =>
    (u.writeHome r.src m.tid true false m.slot (u.slot r.src m.slot).inForce.toNat).writeNewHome r.src m.tid 0 0 0
      (u.homeMoves r.src m.tid))
  let s4 := each s3 r.members (fun u m => u.wdnRecord d r.src m.slot 0x5A r.dst cause)
  let s5 := (s4.countAbort d).raise (WDN.EVT d) F.WDN_EVT_ABORT
  match r.host with
  | some t => s5.postRh d code t r.dst
  | none => s5

/-- Runs whose boundary b has its successor b + p behind it are missed: the due instant moves past them (R366). -/
def catchUp (due p now : Nat) : Nat × Nat :=
  let k := if due + 1000 * p < now then (now - due - 1) / (1000 * p) else 0
  (due + k * 1000 * p, k)

/-- The runs of skipped boundaries are counted as missed on the new home. -/
def State.missMoved (s : State) (n k skipped : Nat) (chains : List (Fin 2)) : State :=
  each s (List.range skipped) (fun u _ => each u chains (fun v _ => v.missSlot n k 0 4))

/-- A first run that starts after its boundary. -/
def State.countLateRun (s : State) (d dst due : Nat) (chains : List (Fin 2)) : State :=
  if due < s.tb2usOn (dieOf dst) then each s chains (fun u _ => u.wdnBump d (WDN.LATERUNS_LO d)) else s

/-- The timer of a member goes to its new slot, with its instant. -/
def State.moveTimer (s : State) (r : Rehome) (m : Member) : State :=
  match (s.cluster r.src).periodic m.slot, (s.cluster r.dst).periodic m.target with
  | some (_, t), some (j, u) =>
    let c := s.ctx r.dst m.target
    let x := catchUp t.due (ctxPeriod c) (s.tb2usOn (dieOf r.dst))
    let s1 := (s.setCluster r.dst { s.cluster r.dst with timers := sput (s.cluster r.dst).timers j { u with due := x.1 } }).dropPeriodic
      r.src m.slot
    (s1.missMoved r.dst m.target x.2 (startedBy c 1)).countLateRun (dieOf r.src) r.dst x.1 (startedBy c 1)
  | _, _ => s

/-- The playout record's HOME follows, and the chains that PLAYOUT starts. -/
def State.movePlay (s : State) (r : Rehome) (m : Member) : State :=
  let y := s.play m.tid
  let c := s.ctx r.dst m.target
  if !y.live ∨ y.home ≠ r.src then s
  else match y.due with
    | none => s.setPlay m.tid { y with home := r.dst }
    | some t =>
      let x := catchUp t (ctxPeriod c) (s.tb2usOn (dieOf r.dst))
      ((s.setPlay m.tid { y with home := r.dst, due := some x.1 }).missMoved r.dst m.target x.2 (startedBy c 2)).countLateRun
        (dieOf r.src) r.dst x.1 (startedBy c 2)

/-- The staging place of a target slot (R365). -/
def State.stagingDpa (s : State) (r : Rehome) (m : Member) : Nat := s.rv (WDN.STAGEBASE (dieOf r.dst)) * 256 + 256 * m.target

/-- A member's owner changes: the commit record is written, the slot's state moved. -/
def State.commitMember (s : State) (r : Rehome) (m : Member) : State :=
  let x := s.slot r.src m.slot
  let s2 := s.unitWrite (dieOf r.src) (s.homeDpa r.src m.tid) (leBytes 8 (s.homeWord r.dst true false m.target x.inForce.toNat))
  let s3 := s2.writeNewHome r.src m.tid 0 0 0 (s2.homeMoves r.src m.tid + 1)
  let s4 := (s3.setSlot r.dst m.target x).setSlot r.src m.slot Slot.init
  ((s4.moveTimer r m).dropPeriodic r.src m.slot).movePlay r m

/-- COMMIT of a checkpointed re-home. -/
def State.commitRehome (s : State) (r : Rehome) : State :=
  let d := dieOf r.src
  let s1 : State := { s with rehomes := s.rehomes.filter (fun t => !t.same r) }
  let s2 := ((each s1 r.members (fun u m => u.commitMember r m)).settleSlots r.src).settleSlots r.dst
  let s3 := (each s2 r.members (fun u m => u.wdnRecord d r.dst m.target 0x59 r.dst r.cause)).wdnBump d (WDN.REHOMES_LO d)
  match r.host with
  | some t => s3.postRh d 0 t r.dst
  | none => s3

/-- A cluster is lost as a home or a target (R367, R409). -/
def State.clusterLost (s : State) (n : Nat) : State :=
  each s s.rehomes (fun u r =>
    if r.dst = n then u.abortRehome r 5 0x0A24 false
    else if r.src = n then (if r.copied then u.commitRehome r else u.abortRehome r 5 0x0A24 true)
    else u)

/-- CHECKPOINT: the runs of the group have ended, and the re-homes into the staging area of the target's die that were
prepared before have been acknowledged. The contexts are copied there; the target engine loads the copies and acknowledges. -/
def State.checkpoint (s : State) (d : Nat) (tid : BitVec 18) : State :=
  match s.rehomes.find? (fun r => dieOf r.src == d && r.members.any (fun m => m.tid == tid)) with
  | none => s
  | some r =>
    let earlier := s.rehomes.takeWhile (fun t => !t.same r)
    if r.copied ∨ earlier.any (fun t => dieOf t.dst == dieOf r.dst && !t.copied) ∨ !r.members.all (fun m => s.slotQuiet r.src m.slot) then s
    else if s.divided ∧ dieOf r.dst ≠ dieOf r.src then s.abortRehome r 5 0x0A24 false
    else
      let s1 := each s r.members (fun u m => u.copyBytes (slotDpa r.src m.slot) (u.stagingDpa r m) 256)
      let s2 := each s1 r.members (fun u m => u.copyBytes (u.stagingDpa r m) (slotDpa r.dst m.target) 256)
      { s2 with rehomes := s2.rehomes.map (fun t => if t.same r then { t with copied := true } else t) }

def execCheckpoint (d : Fin 2) (tid : BitVec 18) (s : State) : Result := .next (s.checkpoint d tid)

/-! ## Evacuation (R363, R364) -/

/-- Clusters ordered by LOAD ÷ BUDGET. -/
def State.byRatio (s : State) (l : List Nat) : List Nat :=
  sortBy l (fun a b => decide (s.load a * s.budget b ≤ s.load b * s.budget a))

/-- RUN clusters of a die. -/
def State.runOf (s : State) (d : Nat) : List Nat :=
  ((List.range 16).map (fun i => 16 * d + i)).filter (fun n => s.clState n == stRun)

/-- The clusters that a group of n is offered to, in order. -/
def State.targetsOf (s : State) (n : Nat) (promoted : Option Nat) : List Nat :=
  let ok (m : Nat) : Bool := m != n && some m != promoted
  promoted.toList ++ s.byRatio ((s.runOf (dieOf n)).filter ok) ++ s.byRatio ((s.runOf (1 - dieOf n)).filter ok)

/-- A group goes to the first target that admits it; the flag says whether one did. -/
def State.placeGroup (s : State) (n cause : Nat) (ks targets : List Nat) : State × Bool :=
  if ks.any (s.memberBad n) then (s.countAbort (dieOf n), false)
  else match targets.find? (fun t => s.admits n t ks) with
    | some t => (s.prepare n t cause ks none, true)
    | none => (s, false)

/-- The members of a group that an evacuation moves: all but a poisoned IDLE one. -/
def State.movable (s : State) (n : Nat) (ks : List Nat) : List Nat :=
  ks.filter (fun k => !((s.slot n k).st == .idle && s.poisonedIn (slotDpa n k) 256))

/-- One group of an evacuation. -/
def State.evacGroup (s : State) (e : Evac) (ks : List Nat) : State :=
  let d := dieOf e.cl
  let mv := s.movable e.cl ks
  if mv.isEmpty ∨ mv.any (s.moves e.cl) then s
  else
    let r := s.placeGroup e.cl e.cause mv (s.targetsOf e.cl e.promoted)
    if r.2 ∨ mv.any (s.memberBad e.cl) then r.1
    else
      let s1 := each r.1 mv (fun u k => u.wdnRecord d e.cl k 0x5B e.cl e.cause)
      (s1.wdnBump d (WDN.NOROOM_LO d)).raise (WDN.EVT d) F.WDN_EVT_NOROOM

/-- The groups of a RECOVER cluster are offered to the targets. -/
def State.evacPlace (s : State) (e : Evac) : State := each s (s.groups e.cl) (fun u ks => u.evacGroup e ks)

/-- The SPARE cluster that an evacuation promotes. -/
def State.spareFor (s : State) (d : Nat) : Option Nat :=
  ((List.range 16).map (fun i => 16 * d + i) ++ (List.range 16).map (fun i => 16 * (1 - d) + i)).find?
    (fun n => s.clState n == stSpare && !(s.divided && dieOf n != d))

/-- The first waiting evacuation of a die starts. -/
def State.evacStart (s : State) (e : Evac) : State :=
  let d := dieOf e.cl
  let p := s.spareFor d
  let s1 := match p with
    | some n => (s.setClState n stRun).wdnBump d (WDN.PROMOTIONS_LO d)
    | none => s
  let f : Evac := { e with promoted := p, started := true }
  ({ s1 with evacs := s1.evacs.map (fun x => if x.cl = e.cl then f else x) } : State).evacPlace f

/-- The evacuations of a die go on: one that is complete ends, its cluster halting; the next one starts: m at most. -/
def State.evacServe (s : State) (d : Nat) : Nat → State
  | 0 => s
  | m + 1 =>
    let s0 : State := { s with evacs := s.evacs.filter (fun e => s.clState e.cl == stRecover) }
    match s0.evacs.find? (fun e => dieOf e.cl == d && e.started) with
    | some e =>
      if s0.slotCount e.cl ≠ 0 then s0
      else
        let s1 := (s0.setClState e.cl stHalt).wdnNote d 0x5D e.cl s0.openValue
        let s2 := ((s1.draw 1).wdnBump d (WDN.EVACS_LO d)).raise (WDN.EVT d) F.WDN_EVT_EVAC
        State.evacServe { s2 with evacs := s2.evacs.filter (fun x => x.cl != e.cl) } d m
    | none =>
      match s0.evacs.find? (fun e => dieOf e.cl == d) with
      | some e => (s0.evacStart e).evacServe d m
      | none => s0

/-- A RUN cluster enters RECOVER and waits for its evacuation. -/
def State.evacuate (s : State) (n cause : Nat) : State :=
  let d := dieOf n
  let s1 := s.setClState n stRecover
  let s2 := each s1 (s1.rehomes.filter (fun r => r.dst == n && !r.copied)) (fun u r => u.abortRehome r 5 0x0A24 false)
  let s3 := ((s2.wdnNote d 0x5C n s2.openValue).draw 1).raise (WDN.EVT d) F.WDN_EVT_EVAC
  ({ s3 with evacs := s3.evacs ++ [⟨n, cause, none, false⟩] } : State).evacServe d 40

/-- NOROOM_RETRY: the groups left on a RECOVER cluster are offered again. -/
def State.noroomRetry (s : State) (d : Nat) : State :=
  match s.evacs.find? (fun e => dieOf e.cl == d && e.started && s.clState e.cl == stRecover) with
  | some e => (s.evacPlace e).evacServe d 40
  | none => s

def execNoroomRetry (d : Fin 2) (s : State) : Result := .next (s.noroomRetry d)

/-- REHOME_COMMIT. -/
def State.rehomeCommit (s : State) (d : Nat) (tid : BitVec 18) : State :=
  match s.rehomes.find? (fun r => dieOf r.src == d && r.members.any (fun m => m.tid == tid)) with
  | none => s
  | some r => if r.copied then (s.commitRehome r).evacServe d 40 else s

def execRehomeCommit (d : Fin 2) (tid : BitVec 18) (s : State) : Result := .next (s.rehomeCommit d tid)

/-! ## RHCMD (R365, R367) -/

/-- MOVE: READY stays 0 until the commit or the abandonment. -/
def State.rhMove (s : State) (d dst : Nat) (tid : BitVec 18) : State :=
  if !s.ready (WDN.RHSTATUS d) then s
  else
    let s1 := s.begin_ (WDN.RHSTATUS d)
    match s.homeOf tid with
    | none => s1.postRh d 0x0A22 tid dst
    | some (n, k) =>
      if dieOf n ≠ d then s1.postRh d 0x0A22 tid dst
      else
        let ks := s.group n k
        let code := s.prepareCode n dst ks
        if code = 0 then s1.prepare n dst 0 ks (some tid) else (s1.countAbort d).postRh d code tid dst

def execMove (d : Fin 2) (cl : Fin 32) (tid : BitVec 18) (s : State) : Result :=
  hostCmd s (WDN.RHCMD d) (fun u => u.rhMove d cl tid)

/-- ABORT of the re-home of a TID. -/
def State.rhAbort (s : State) (d : Nat) (tid : BitVec 18) : State :=
  if !s.ready (WDN.RHSTATUS d) then s
  else
    let s1 := s.begin_ (WDN.RHSTATUS d)
    match s.rehomes.find? (fun r => dieOf r.src == d && r.members.any (fun m => m.tid == tid)) with
    | none => s1.postRh d 0x0A23 tid 0
    | some r => if r.copied then s1.postRh d 0x0A23 tid r.dst else (s1.abortRehome r 0 0 false).postRh d 0 tid r.dst

def execRehomeAbort (d : Fin 2) (tid : BitVec 18) (s : State) : Result := hostCmd s (WDN.RHCMD d) (fun u => u.rhAbort d tid)

/-- RHCMD with an invalid OP. -/
def State.rhInvalid (s : State) (d dst : Nat) (tid : BitVec 18) : State :=
  if !s.ready (WDN.RHSTATUS d) then s else (s.begin_ (WDN.RHSTATUS d)).postRh d 0x0A12 tid dst

/-! ## CLCMD (R362) -/

/-- The frame of CLCMD: ignored while CLSTATUS.READY is 0; the result shows the cluster and its state. -/
def State.clcmd (s : State) (d n : Nat) (ok : Bool) (f : State → State) : State :=
  if !s.ready (WDN.CLSTATUS d) then s
  else
    let code := if dieOf n ≠ d then 0x0A12 else if !ok then 0x0A11 else 0
    let s1 := s.begin_ (WDN.CLSTATUS d)
    let s2 := if code = 0 then f s1 else s1.wdnFail d code
    ((s2.put (WDN.CLSTATUS1 d) F.WDN_CLSTATUS1_CLUSTER n).put (WDN.CLSTATUS1 d) F.WDN_CLSTATUS1_STATE (s2.clState n)).post
      (WDN.CLSTATUS d) code

/-- An invalid OP: code 0x0A12. -/
def State.clInvalid (s : State) (d n : Nat) : State :=
  if !s.ready (WDN.CLSTATUS d) then s
  else
    let s1 := (s.begin_ (WDN.CLSTATUS d)).wdnFail d 0x0A12
    ((s1.put (WDN.CLSTATUS1 d) F.WDN_CLSTATUS1_CLUSTER n).put (WDN.CLSTATUS1 d) F.WDN_CLSTATUS1_STATE (s1.clState n)).post
      (WDN.CLSTATUS d) 0x0A12

/-- A cluster reset with what it means for re-homes and evacuations (R367, R409). -/
def State.clusterReset (s : State) (n : Nat) : State := ((s.clusterLost n).clusterWipe n).evacServe (dieOf n) 40

/-- The operations of CLCMD: from which states each is permitted, and what it does; an OP outside 1 to 5 is invalid. -/
def State.clOp (s : State) (d n op : Nat) : State :=
  let st := s.clState n
  let empty := s.slotCount n == 0
  match op with
  | 1 => s.clcmd d n (st == stOff || st == stHalt) (fun v => v.clusterReset n)
  | 2 => s.clcmd d n (st == stSpare) (fun v => v.setClState n stRun)
  | 3 => s.clcmd d n (st == stRun && empty) (fun v => v.setClState n stSpare)
  | 4 => s.clcmd d n (st == stRun) (fun v => v.evacuate n 0)
  | 5 => s.clcmd d n (st == stSpare || st == stHalt || (st == stRun && empty)) (fun v => v.clusterOff n)
  | _ => s.clInvalid d n

def execUp (d : Fin 2) (cl : Fin 32) (s : State) : Result := hostCmd s (WDN.CLCMD d) (fun u => u.clOp d cl 1)
def execRun (d : Fin 2) (cl : Fin 32) (s : State) : Result := hostCmd s (WDN.CLCMD d) (fun u => u.clOp d cl 2)
def execSpare (d : Fin 2) (cl : Fin 32) (s : State) : Result := hostCmd s (WDN.CLCMD d) (fun u => u.clOp d cl 3)
def execEvac (d : Fin 2) (cl : Fin 32) (s : State) : Result := hostCmd s (WDN.CLCMD d) (fun u => u.clOp d cl 4)
def execOff (d : Fin 2) (cl : Fin 32) (s : State) : Result := hostCmd s (WDN.CLCMD d) (fun u => u.clOp d cl 5)

/-- A failed self-test is logged: the spec states its unit, and neither its LEVEL nor its CLASS (log 37). -/
def State.logSelfTest (s : State) (n : Nat) : State :=
  let d := dieOf n
  if s.rb (GLB.ERRLOG d) F.GLB_ERRLOG_VALID then s
  else
    let free (i m : Nat) : Nat := Config.freeNat (s.freeCount + i) % m
    (((((s.draw 5).wv (GLB.ERRLOG d) (2 ^ 31 + free 0 8 * 2 ^ 24 + free 1 256 * 2 ^ 16 + unitOf (some n) 15)).wv
      (GLB.ERRLOG_SYND d) (free 2 256)).wv (GLB.ERRLOG_BANK d) (free 3 512)).setReg (GLB.ERRLOG_TB2S d) (s.tb2sOn d)).setReg
      (GLB.ERRLOG_TB2NS d) (s.tb2nOn d)

/-- SELF_TEST_COMPLETE: to SPARE below the quota of the die, to RUN once it is met, to HALT on a failure. -/
def State.selfTested (s : State) (n : Nat) (pass : Bool) : State :=
  if s.clState n ≠ stTest then s
  else if !pass then (s.logSelfTest n).setClState n stHalt
  else
    let spares := ((List.range 16).filter (fun i => s.clState (16 * dieOf n + i) == stSpare)).length
    s.setClState n (if spares < s.spareQuota (dieOf n) then stSpare else stRun)

def execSelfTestComplete (cl : Fin 32) (pass : Bool) (s : State) : Result := .next (s.selfTested cl pass)

end Sys2Proof.Machine
end

