-- ==== Sys2Proof/Machine/WardenPoll.lean ====
section
/-!
DEFINITION. What the Wardens do of their own: the 1 ms poll with PROTECT, POWER and TIMESEL (R358, R361), the reading of
metrics with the per-termination decisions (R359) and the threshold records (R368), the relief of a cluster after a tile
withdrawal, and balancing (R361).
-/

namespace Sys2Proof.Machine

/-! ## PROTECT (R361) -/

/-- m errors or more lie within w ns up to an error that is newer than the last poll. -/
def burst (times : List Nat) (polled w m : Nat) : Bool :=
  times.any (fun t => decide (polled < t) && decide (m ≤ (times.filter (fun u => decide (u ≤ t) && decide (t ≤ u + w))).length))

/-- Why a RUN cluster is to be evacuated: 2 ECC, 3 thermal. -/
def State.protectCause (s : State) (d n : Nat) : Option Nat :=
  let c := s.cluster n
  let t := (s.wdn d).polled
  let second : Nat := 1000000000
  if burst c.storeUe t (s.polG d 2 23 16 * second) (s.polG d 2 15 8) then some 2
  else if s.polG d 2 31 24 ≠ 0 ∧ burst c.storeCe t second (s.polG d 2 31 24) then some 2
  else if s.thermal.evac.contains n then some 3
  else none

def State.protectOne (s : State) (d n : Nat) : State :=
  match s.protectCause d n with
  | none => s
  | some cause => if s.polG d 1 1 0 = 2 then s.evacuate n cause else (s.advise d 5 s.openValue).draw 1

def State.protective (s : State) (d : Nat) : State :=
  if s.polG d 1 1 0 = 0 then s else each s (s.runOf d) (fun u n => u.protectOne d n)

/-! ## POWER (R361) -/

/-- The point that POWER proposes for a RUN cluster. -/
def State.powerPoint (s : State) (d n : Nat) : Option Nat :=
  let p := s.opReq n
  if s.polG d 4 1 0 < p ∧ s.load n * 100 ≤ s.polG d 4 15 8 * s.budgetAt n (p - 1) ∧ (s.useOf n).fits (s.capAt n (p - 1)) then
    some (p - 1)
  else if p < s.polG d 4 3 2 ∧ 95 * s.budget n < s.load n * 100 then some (p + 1)
  else none

def State.powerOne (s : State) (d n : Nat) : State :=
  match s.powerPoint d n with
  | none => s
  | some p => if s.polG d 1 5 4 = 2 then s.dvfsAsk (d + 1) n p (s.opTrim n) else s.advise d 6 p

def State.power (s : State) (d : Nat) : State :=
  if s.polG d 1 5 4 = 0 then s else each s (s.runOf d) (fun u n => u.powerOne d n)

/-! ## TIMESEL (R345, R361) -/

/-- The domain that TIMESEL proposes. -/
def State.timePref (s : State) : Option Nat :=
  let on (b : Nat) : Bool := if b = 0 then s.domState 0 == domTracking else s.domState 1 == domTracking
  let b := s.polG 0 5 0 0
  if on b then some b else if on (1 - b) then some (1 - b) else none

/-- The spec names no CODE for advice on the time source (log 37). -/
def State.timesel (s : State) (d : Nat) : State :=
  if d ≠ 0 ∨ s.polG 0 1 7 6 = 0 ∨ !s.rb TIME.TB2CTL F.TIME_TB2CTL_WSEL then s
  else match s.timePref with
    | none => s
    | some b =>
      if s.rf TIME.STATUS F.TIME_STATUS_SRC = b then s
      else if s.polG 0 1 7 6 = 2 then s.setSource b
      else (s.advise d (s.openValue % 256) b).draw 1

/-! ## The poll (R358) -/

/-- The poll has read the errors: those older than the longest window are dropped. -/
def State.pollDone (s : State) (d : Nat) : State :=
  let now := s.tb2nsOn d
  let keep (l : List Nat) : List Nat := l.filter (fun t => decide (now ≤ t + 256000000000))
  let s1 := each s ((List.range 16).map (16 * d + ·)) (fun u n =>
    let c := u.cluster n
    if c.storeUe.isEmpty && c.storeCe.isEmpty then u
    else u.setCluster n { c with storeUe := keep c.storeUe, storeCe := keep c.storeCe })
  ({ s1 with thermal := { s1.thermal with evac := s1.thermal.evac.filter (fun n => dieOf n != d) } } : State).setWdn d
    { s1.wdn d with polled := now }

/-- WARDEN_POLL. A disabled Warden still completes the evacuations that the host commands (R355). -/
def State.wardenPoll (s : State) (d : Nat) : State :=
  let s1 := s.evacServe d 40
  let s2 := if s1.wdnOn d then ((s1.protective d).power d).timesel d else s1
  s2.pollDone d

def execWardenPoll (d : Fin 2) (s : State) : Result := .next (s.wardenPoll d)

/-! ## Metrics (R359) -/

def State.wdnTerm (s : State) (d : Nat) (tid : BitVec 18) : WdnTerm := sget (s.wdn d).terms WdnTerm.init tid.toNat
def State.setWdnTerm (s : State) (d : Nat) (tid : BitVec 18) (t : WdnTerm) : State :=
  s.setWdn d { s.wdn d with terms := sset (s.wdn d).terms WdnTerm.init tid.toNat t }

/-- What a Warden reads of a termination: its context and program, and the loss, in parts, of the interval. -/
structure Reading where
  ctx : List Byte
  prog : List Nat
  lost : Nat
  total : Nat

def Reading.has (r : Reading) (op : Nat) : Bool := r.prog.any (fun w => ciOp w == op)
def Reading.pkt (r : Reading) : Bool := ctxKind r.ctx == 1 && r.has opPktIn
def Reading.jitter (r : Reading) : Nat := ctxW r.ctx 39 % 2 ^ 24
def Reading.erle (r : Reading) : Int := toSigned 16 (ctxW r.ctx 41 / 65536)

/-- The interval counts toward ECHO and NLP. -/
def Reading.echo (r : Reading) : Bool := r.has opEc && ctxW r.ctx 41 / 65536 != 0x7FFF && ctxW r.ctx 41 % 65536 != 0x7FFF

/-- The codec takes mode requests: AMR-NB, AMR-WB, EVS. -/
def Reading.modes (r : Reading) : Bool :=
  ctxKind r.ctx == 1 && r.prog.any (fun w => (ciOp w == opDec || ciOp w == opEnc) && [6, 7, 9].contains (ciCodec w))

/-- Loss of an interval without packets is open (log 37). -/
def State.reading (s : State) (n k : Nat) : Reading :=
  let c := s.ctx n k
  let lost := ctxW c 37 % 65536
  let total := ctxW c 37 / 65536 + lost
  if total = 0 then ⟨c, s.programWords c, Config.freeNat s.freeCount % 1001, 1000⟩ else ⟨c, s.programWords c, lost, total⟩

/-- Loss above m tenths of a percent, and below. -/
def Reading.lossAbove (r : Reading) (m : Nat) : Bool := decide (m * r.total < 1000 * r.lost)
def Reading.lossBelow (r : Reading) (m : Nat) : Bool := decide (1000 * r.lost < m * r.total)

def clamp (lo hi v : Nat) : Nat := max lo (min hi v)

/-- JB: the target for JBTGT, where it is issued. -/
def State.jbTarget (s : State) (d c : Nat) (r : Reading) (t : WdnTerm) : Option Nat :=
  let goal := (s.polC d c 2 15 8 * r.jitter + 4000 * s.polC d c 2 7 0 + 3999) / 4000
  let v := clamp (s.polC d c 1 15 0) (s.polC d c 1 31 16) goal
  let old := ctxJbTgt r.ctx
  let far : Bool := decide (s.polC d c 2 23 16 ≤ max v old - min v old)
  let rested : Bool := match t.jbAt with
    | none => true
    | some at_ => decide (at_ + s.polC d c 2 31 24 * 1000000000 ≤ s.tb2nsOn d)
  if r.pkt ∧ v ≠ old ∧ far ∧ rested then some v else none

/-- Window i of the four has held still: its position and for how many intervals. -/
def WdnTerm.track (t : WdnTerm) (r : Reading) : WdnTerm :=
  let pos (i : Nat) : Nat := bits (ctxW r.ctx 42) (8 * i + 7) (8 * i)
  let held (i : Nat) : Nat := if pos i = t.win.getD i 0xFF then t.still.getD i 0 + 1 else 0
  { t with win := (List.range 4).map pos, still := (List.range 4).map held }

/-- ECHO: the hints, pinned where a window has held still, all cleared while ERLE stays low. -/
def State.hints (s : State) (d c : Nat) (r : Reading) (t : WdnTerm) : List Nat :=
  (List.range 4).map (fun i =>
    if 3 ≤ t.erleLow then 0xFF
    else if t.win.getD i 0xFF ≠ 0xFF ∧ s.polC d c 5 23 16 ≤ t.still.getD i 0 then t.win.getD i 0xFF
    else ctxHint r.ctx i)

/-- Runs of intervals with low and with high ERLE. -/
def State.trackErle (s : State) (d c : Nat) (r : Reading) (t : WdnTerm) : WdnTerm :=
  let lo : Bool := decide (r.erle < 10 * (s.polC d c 3 23 16 : Int))
  let hi : Bool := decide (10 * (s.polC d c 3 31 24 : Int) < r.erle)
  { t with erleLow := if lo then t.erleLow + 1 else 0, erleHigh := if hi then t.erleHigh + 1 else 0 }

/-- NLP: one up after each 2 intervals of low ERLE, one down after each 10 of high ERLE. -/
def State.nlpTarget (s : State) (d c : Nat) (r : Reading) (t : WdnTerm) : Option Nat :=
  let old := ctxNlp r.ctx
  let goal (v : Nat) : Option Nat := let w := clamp (s.polC d c 3 2 0) (s.polC d c 3 6 4) v; if w = old then none else some w
  if t.erleLow ≠ 0 ∧ t.erleLow % 2 = 0 then goal (old + 1)
  else if t.erleHigh ≠ 0 ∧ t.erleHigh % 10 = 0 then goal (old - 1)
  else none

/-- CMR: one mode down after an interval of high loss, one up after each 10 of low loss. -/
def State.cmrTarget (s : State) (d c : Nat) (r : Reading) (t : WdnTerm) : Option Nat :=
  let lo := s.polC d c 3 11 8
  let hi := s.polC d c 3 15 12
  let old := ctxCmr r.ctx
  let base := if old = 15 then hi else old
  let goal (v : Nat) : Option Nat := let w := clamp lo hi v; if w = old then none else some w
  if r.lossAbove (s.polC d c 4 23 16) then goal (base - 1)
  else if t.lossLow ≠ 0 ∧ t.lossLow % 10 = 0 then goal (base + 1)
  else none

/-- A crossing: up posts one record, back down another. -/
def crossing (was up down : Bool) (typUp typDown v : Nat) : Bool × List (Nat × Nat) :=
  if !was && up then (true, [(typUp, v)]) else if was && down then (false, [(typDown, v)]) else (was, [])

/-- Threshold records (R368): the flags, and the records with their VALUE. -/
def State.thresholds (s : State) (d c : Nat) (r : Reading) (t : WdnTerm) : WdnTerm × List (Nat × Nat) :=
  let rf := ctxW r.ctx 43 % 256
  let low := s.polC d c 4 7 0
  let a := if r.has opMeter then crossing t.rLow (decide (rf < low)) (decide (low + s.polC d c 4 15 8 < rf)) 0x50 0x51 rf
    else (t.rLow, [])
  let loss := 1000 * r.lost / max 1 r.total
  let b := if r.has opPktIn then
      crossing t.lossHi (r.lossAbove (s.polC d c 4 23 16)) (r.lossBelow (s.polC d c 4 31 24)) 0x52 0x53 loss
    else (t.lossHi, [])
  let lim := 1000 * s.polC d c 5 15 0
  let j := if r.has opPktIn then
      crossing t.jitHi (decide (lim < r.jitter)) (decide (r.jitter < lim)) 0x54 0x55 (r.jitter / 1000)
    else (t.jitHi, [])
  let elo : Bool := decide (r.erle < 10 * (s.polC d c 3 23 16 : Int))
  let e := if r.echo then crossing t.erleFlag elo (!elo) 0x56 0 (ctxW r.ctx 41 / 65536) else (t.erleFlag, [])
  ({ t with rLow := a.1, lossHi := b.1, jitHi := j.1, erleFlag := e.1 },
    if s.polC d c 0 8 8 = 1 then a.2 ++ b.2 ++ j.2 ++ e.2.filter (fun x => x.1 != 0) else [])

/-- Area (A) as the Warden of the home may write it: fields of actions that act, within the bounds of the class in force, and
what is not adaptable as it stands (R34, R356, R359). -/
def State.boundedArea (s : State) (n k : Nat) (area : List Word) : List Word :=
  let c := s.ctx n k
  let d := dieOf n
  let p := ctxPolClass c
  let a (i : Nat) : Nat := (area.getD i 0).toNat
  let field (hi old new lo up : Nat) : Nat := if s.polC d p 0 hi (hi - 1) = 2 ∧ new ≠ old then clamp lo up new else old
  let jb := field 1 (ctxJbTgt c) (a 0 % 65536) (s.polC d p 1 15 0) (s.polC d p 1 31 16)
  let nlp := field 5 (ctxNlp c) (bits (a 0) 22 20) (s.polC d p 3 2 0) (s.polC d p 3 6 4)
  let cmr := field 7 (ctxCmr c) (bits (a 0) 19 16) (s.polC d p 3 11 8) (s.polC d p 3 15 12)
  [BitVec.ofNat 32 (jb + cmr * 65536 + nlp * 2 ^ 20),
   if s.polC d p 0 3 2 = 2 then BitVec.ofNat 32 (a 1) else BitVec.ofNat 32 (ctxW c 13),
   BitVec.ofNat 32 (ctxW c 14), BitVec.ofNat 32 (ctxW c 15)]

/-- WARDEN_ADJUSTMENT: a disabled Warden issues none (R355). -/
def execWardenAdjustment (cl : Fin 32) (slot : BitVec 13) (base : BitVec 16) (area : List (BitVec 32)) (s : State) : Result :=
  .next (if s.wdnOn (dieOf cl) then s.adjust cl slot.toNat base (s.boundedArea cl slot.toNat area) else s)

/-- An action of a class in a mode: 1 advises, 2 acts. -/
def State.mode (s : State) (d c hi : Nat) : Nat := s.polC d c 0 hi (hi - 1)

/-- Advice on a value, where the action only advises. -/
def State.adviseIf (s : State) (mode d n k code : Nat) (v : Option Nat) : State :=
  match v with
  | some x => if mode = 1 then s.adviseSlot d n k code x else s
  | none => s

/-- The value that an action applies. -/
def acted (mode : Nat) (v : Option Nat) (old : Nat) : Nat :=
  match v with
  | some x => if mode = 2 then x else old
  | none => old

/-- The first window whose hint would change, with its position. -/
def hintAdvice (r : Reading) (hs : List Nat) : Option Nat :=
  ((List.range 4).find? (fun i => hs.getD i 0xFF != ctxHint r.ctx i)).map (fun i => i * 256 + hs.getD i 0xFF)

/-- The per-termination decisions: advice, and one adjustment for what acts. -/
def State.decide_ (s : State) (d n k : Nat) (r : Reading) (t : WdnTerm) : State :=
  let c := ctxPolClass r.ctx
  let jb := if s.mode d c 1 = 0 then none else s.jbTarget d c r t
  let hs := if s.mode d c 3 = 0 ∨ !r.echo then (List.range 4).map (ctxHint r.ctx) else s.hints d c r t
  let nlp := if s.mode d c 5 = 0 ∨ !r.echo then none else s.nlpTarget d c r t
  let cmr := if s.mode d c 7 = 0 ∨ !r.modes then none else s.cmrTarget d c r t
  let s1 := (((s.adviseIf (s.mode d c 1) d n k 1 jb).adviseIf (s.mode d c 3) d n k 2 (hintAdvice r hs)).adviseIf (s.mode d c 5) d n
    k 3 nlp).adviseIf (s.mode d c 7) d n k 4 cmr
  let w12 := acted (s.mode d c 1) jb (ctxJbTgt r.ctx) + acted (s.mode d c 7) cmr (ctxCmr r.ctx) * 65536 +
    acted (s.mode d c 5) nlp (ctxNlp r.ctx) * 2 ^ 20
  let w13 := if s.mode d c 3 = 2 then leNat (hs.map (BitVec.ofNat 8 ·)) else ctxW r.ctx 13
  if w12 = ctxW r.ctx 12 ∧ w13 = ctxW r.ctx 13 then s1
  else
    let s2 := (s1.wdnBump d (WDN.ADJUSTS_LO d)).adjust n k (ctxVersion r.ctx)
      [BitVec.ofNat 32 w12, BitVec.ofNat 32 w13, BitVec.ofNat 32 (ctxW r.ctx 14), BitVec.ofNat 32 (ctxW r.ctx 15)]
    if acted (s.mode d c 1) jb (ctxJbTgt r.ctx) = ctxJbTgt r.ctx then s2
    else s2.setWdnTerm d (s.slot n k).tid { s2.wdnTerm d (s.slot n k).tid with jbAt := some (s.tb2nsOn d) }

/-- WARDEN_METRICS_READ: once per interval, of a LIVE termination homed on the die and not moving. -/
def State.metricsRead (s : State) (d : Nat) (tid : BitVec 18) : State :=
  match s.homeOf tid with
  | none => s
  | some (n, k) =>
    let t := s.wdnTerm d tid
    let stamp := BitVec.ofNat 32 (ctxW (s.ctx n k) 36)
    if !s.wdnOn d ∨ dieOf n ≠ d ∨ (s.slot n k).st ≠ .live ∨ s.homeMoving n tid ∨ stamp = t.seen then s
    else
      let r := s.reading n k
      let s1 := s.draw 1
      let c := ctxPolClass r.ctx
      let t1 := if r.echo then s.trackErle d c r (t.track r) else t
      let low : Bool := r.lossBelow (s.polC d c 4 31 24)
      let t2 : WdnTerm := { t1 with seen := stamp, lossLow := if low then t.lossLow + 1 else 0 }
      let q := s.thresholds d c r t2
      let s2 := each (s1.setWdnTerm d tid q.1) q.2 (fun u x => u.wdnRecord d n k x.1 0 x.2)
      s2.decide_ d n k r q.1

def execWardenMetricsRead (d : Fin 2) (tid : BitVec 18) (s : State) : Result := .next (s.metricsRead d tid)

/-! ## Relief after a withdrawal, and balancing (R361) -/

def State.groupCharge (s : State) (n : Nat) (ks : List Nat) : Nat := (ks.map (fun k => (s.slot n k).charge)).sum

/-- Advice on the move of a termination, once per action and metrics interval: TB2S of its metrics names the interval. -/
def State.adviseMove (s : State) (d n dst action k : Nat) : State :=
  let t := s.wdnTerm d (s.slot n k).tid
  let now := BitVec.ofNat 32 (ctxW (s.ctx n k) 36)
  if t.told.contains (action, now) then s
  else (s.setWdnTerm d (s.slot n k).tid { t with told := (action, now) :: t.told.filter (fun x => x.1 != action) }).adviseSlot d n k
    5 dst

/-- Advice on the move of each member of a group. -/
def State.adviseGroup (s : State) (d n dst action : Nat) (ks : List Nat) : State :=
  each s ks (fun u k => u.adviseMove d n dst action k)

/-- A group of a relief or a balance goes, or would go, to the first target that admits it: the state, and the charge that
leaves, where it goes. -/
def State.shift (s : State) (act : Bool) (d n cause : Nat) (ks targets : List Nat) : State × Option Nat :=
  if ks.any (s.moves n) then (s, none)
  else if act then
    let r := s.placeGroup n cause ks targets
    (r.1, if r.2 then some (s.groupCharge n ks) else none)
  else match targets.find? (fun t => s.admits n t ks) with
    | some t => (s.adviseGroup d n t cause ks, some (s.groupCharge n ks))
    | none => (s, none)

/-- Groups of the highest charge go until LOAD is within BUDGET. -/
def State.relieve (s : State) (act : Bool) (d n moved : Nat) : List (List Nat) → State
  | [] => s
  | ks :: rest =>
    if s.load n ≤ s.budget n + moved then s
    else
      let r := s.shift act d n 4 ks (s.targetsOf n none)
      r.1.relieve act d n (moved + r.2.getD 0) rest

/-- Charges of the groups that are leaving a cluster. -/
def State.leaving (s : State) (n : Nat) : Nat :=
  ((s.rehomes.filter (fun r => r.src == n)).map (fun r => s.groupCharge n (r.members.map (·.slot)))).sum

/-- WITHDRAWAL_OVERLOAD_CHECK. -/
def State.overloadCheck (s : State) (n : Nat) : State :=
  let d := dieOf n
  if !s.wdnOn d ∨ s.polG d 1 1 0 = 0 ∨ s.clState n ≠ stRun ∨ s.withdrawn n = 0 ∨ s.load n ≤ s.budget n then s
  else s.relieve (s.polG d 1 1 0 == 2) d n (s.leaving n)
    (sortBy (s.groups n) (fun a b => decide (s.groupCharge n b ≤ s.groupCharge n a)))

def execWithdrawalOverloadCheck (cl : Fin 32) (s : State) : Result := .next (s.overloadCheck cl)

/-- Groups go from n to dst until n falls to BALHI %, dst would exceed BALLO %, or 64 have gone: moved is what has left n,
and took what dst takes beyond its LOAD. -/
def State.balanceFrom (s : State) (act : Bool) (d n dst gone moved took : Nat) : List (List Nat) → State
  | [] => s
  | ks :: rest =>
    let g := s.groupCharge n ks
    if 64 ≤ gone then s
    else if s.load n * 100 ≤ s.polG d 3 7 0 * s.budget n + 100 * moved then s
    else if s.polG d 3 15 8 * s.budget dst < (s.load dst + took + g) * 100 then s
    else
      let r := s.shift act d n 1 ks [dst]
      r.1.balanceFrom act d n dst (if r.2 = none then gone else gone + 1) (moved + r.2.getD 0)
        (if act then took else took + r.2.getD 0) rest

/-- BALANCE. -/
def State.balance (s : State) (d : Nat) : State :=
  let l := s.byRatio (s.runOf d)
  if !s.wdnOn d ∨ s.polG d 1 3 2 = 0 then s
  else match l.getLast?, l.head? with
    | some n, some dst =>
      if n = dst ∨ s.load n * 100 ≤ s.polG d 3 7 0 * s.budget n ∨ s.polG d 3 15 8 * s.budget dst ≤ s.load dst * 100 then s
      else s.balanceFrom (s.polG d 1 3 2 == 2) d n dst 0 0 0 (s.groups n)
    | _, _ => s

def execBalance (d : Fin 2) (s : State) : Result := .next (s.balance d)

end Sys2Proof.Machine
end

