-- ==== Sys2Proof/Machine/Press.lean ====
section
/-!
DEFINITION. The Press (R370 to R380): its jobs, its streams as they lie in their state areas, decompression, compression
and results.
-/

namespace Sys2Proof.Machine

def State.prs (s : State) (d : Nat) : Press := sget s.press ⟨none, false⟩ d
def State.setPrs (s : State) (d : Nat) (x : Press) : State := { s with press := sset s.press ⟨none, false⟩ d x }

/-! ## Jobs (R373) -/

/-- The bytes of a job, and its fields. -/
abbrev Job := List Byte

def Job.op (j : Job) : Nat := bits (leAt j 0 4) 31 30
def Job.wrap (j : Job) : Nat := bits (leAt j 0 4) 29 28
def Job.level (j : Job) : Nat := bits (leAt j 0 4) 27 24
def Job.first (j : Job) : Bool := bit (leAt j 0 4) 23
def Job.last (j : Job) : Bool := bit (leAt j 0 4) 22
def Job.sync (j : Job) : Bool := bit (leAt j 0 4) 21
def Job.irq (j : Job) : Bool := bit (leAt j 0 4) 20
def Job.tag (j : Job) : Nat := leAt j 0 2
def Job.srcLen (j : Job) : Nat := leAt j 4 3
def Job.src (j : Job) : Nat := leAt j 8 5
def Job.outList (j : Job) : Nat := leAt j 16 5
def Job.outN (j : Job) : Nat := leAt j 24 4 % 512
def Job.area (j : Job) : Nat := leAt j 28 4 * 256
def Job.resAddr (j : Job) : Nat := leAt j 32 5
def Job.outMax (j : Job) : Nat := leAt j 40 5
def Job.ratio (j : Job) : Nat := leAt j 48 4 % 1024
def Job.packs (j : Job) : Bool := j.op == 1

/-- OP, WRAP or LEVEL is invalid: the packet is discarded. -/
def Job.invalid (j : Job) : Bool :=
  j.op == 0 || j.op == 3 || j.wrap == 3 || (j.packs && decide (9 < j.level))

/-- A field shown as 0 is not, or OUTMAX of a decompression is 0 (R374). -/
def Job.bad (j : Job) : Bool :=
  bits (leAt j 0 4) 19 16 != 0 || leAt j 7 1 != 0 || leAt j 13 3 != 0 || leAt j 21 3 != 0 || leAt j 24 4 / 512 != 0 ||
    leAt j 52 12 != 0 ||
    (if j.packs then j.outMax != 0 || j.ratio != 0 else j.level != 0 || j.outMax == 0)

/-- The Press works: enabled, with no job under way, and the package neither in reset nor in DORMANT (log 36). -/
def State.pressOn (s : State) (d : Nat) : Bool :=
  s.rb (PRS.CFG d) F.PRS_CFG_EN && (s.prs d).job.isNone && !s.package.held && !s.dormant

/-- The next packet of the job cask: the state after it is taken, and its words. -/
def State.nextJob (s : State) (d : Nat) : State × List CWord :=
  State.takePacket 64 s (d * 8192 + s.rf (PRS.CFG d) F.PRS_CFG_JOBCASK) []

/-- A packet that is no job: its length, OP, WRAP or LEVEL, or a poisoned word (R63). -/
def notJob (ws : List CWord) : Bool := ws.length != 4 || ws.any (fun w => w.poison) || Job.invalid (wordBytes ws)

def State.prsBump (s : State) (d ctr : Nat) : State := s.bump ctr (PRS.EVT d) F.PRS_EVT_PCNT
def State.prsBumpBy (s : State) (d ctr n : Nat) : State := s.bumpBy ctr n (PRS.EVT d) F.PRS_EVT_PCNT

/-- BADJOB is counted and its cause set. -/
def State.countBadJob (s : State) (d : Nat) : State := (s.prsBump d (PRS.BADJOB_LO d)).raise (PRS.EVT d) F.PRS_EVT_BADJOB

/-- BADJOB: a packet that is no job is discarded. -/
def State.badJob (s : State) (d : Nat) : State :=
  if !s.pressOn d then s
  else
    let r := s.nextJob d
    if r.2.isEmpty || !notJob r.2 then s else r.1.countBadJob d

def execBadjob (d : Fin 2) (s : State) : Result := .next (s.badJob d)

/-! ## What a Press reaches (R38, R416) -/

/-- The Press of a die reaches the place of a DPA. -/
def State.pressAt (s : State) (d : Nat) (w : Bool) (a : Nat) : Bool :=
  s.mapped a && !(w && isRom a) && !(s.divided && dieAt a != d)

/-- It reaches a range, to read or to write it. -/
def State.pressRange (s : State) (d : Nat) (w : Bool) (a n : Nat) : Bool :=
  n == 0 || (s.pressAt d w a && s.pressAt d w (a + n - 1) &&
    (List.range (n / 0x8000 + 1)).all (fun i => s.pressAt d w (min (a + n - 1) ((a + i * 0x8000) / 0x8000 * 0x8000 + 0x7FFF))))

/-- The first byte of a range, in steps of 32 KiB, that is not reached. -/
def State.reachLen (s : State) (d a n : Nat) : Nat :=
  if s.pressRange d false a n then n
  else
    let starts := 0 :: (List.range (n / 0x8000 + 1)).map (fun i => (a / 0x8000 + i + 1) * 0x8000 - a)
    (starts.find? (fun o => decide (o < n) && !s.pressAt d false (a + o))).getD n

/-- Input that can be read before a poisoned word or a place that is not reached, and the code of what comes there. -/
def State.inputOf (s : State) (d a n : Nat) : List Byte × Nat :=
  let r := s.reachLen d a n
  let p := (s.poison.filter (fun w => decide (a < 8 * w + 8) && decide (8 * w < a + n))).foldl
    (fun (m : Nat) w => min m (8 * w - a)) n
  if p < r then (s.bytes a p, 0x0B07) else (s.bytes a r, if r < n then 0x0B08 else 0)

/-! ## The output list (R373) -/

/-- Entries of the output list: address and length. -/
def State.outEntries (s : State) (j : Job) : List (Nat × Nat) :=
  (List.range j.outN).map (fun i => (s.le (j.outList + 16 * i) 5, s.le (j.outList + 16 * i + 8) 3))

/-- A bit of an entry that is 0 is not. -/
def State.entriesBad (s : State) (j : Job) : Bool :=
  (List.range j.outN).any (fun i => s.le (j.outList + 16 * i + 5) 3 != 0 || s.le (j.outList + 16 * i + 11) 5 != 0)

/-- The entries up to the first that is not reached. -/
def State.goodEntries (s : State) (d : Nat) (l : List (Nat × Nat)) : List (Nat × Nat) :=
  l.takeWhile (fun e => s.pressRange d true e.1 e.2)

def spaceOf (l : List (Nat × Nat)) : Nat := (l.map (·.2)).sum

/-- Output goes to the entries in order. -/
def State.fill (s : State) : List (Nat × Nat) → List Byte → State
  | [], _ => s
  | e :: rest, bs => if bs.isEmpty then s else (s.write e.1 (bs.take e.2)).fill rest (bs.drop e.2)

/-- The entry of the last byte of n, and the bytes in it. -/
def lastEntry : Nat → List (Nat × Nat) → Nat → Nat × Nat
  | _, [], _ => (0, 0)
  | i, e :: rest, n => if n ≤ e.2 then (i, n) else lastEntry (i + 1) rest (n - e.2)

/-! ## Streams in their areas (R375; the layout is the model's, log 40) -/

/-- Fields of given widths in bytes. -/
def packFields (l : List (Nat × Nat)) : List Byte := l.flatMap (fun e => leBytes e.1 e.2)

/-- Bits as whole bytes, the last one filled with zeros. -/
def bitsPadded (bs : List Bool) : List Byte := bitBytes (bs ++ List.replicate ((8 - bs.length % 8) % 8) false)

/-- A compression stream: totals, check, the last 32 KiB of input, newest first, bits not yet written, whether the tail
of the job under way has been made, and whether the final block has. -/
structure Pack where
  chk : Nat
  total : Nat
  tail : Bool
  fin : Bool
  win : List Byte
  src : List Bool
  deriving DecidableEq, Repr

def packMark : Nat := 0x50
def infMark : Nat := 0x44

/-- The head of an area: what it holds, WRAP and LEVEL. -/
def areaHead (mark wrap level : Nat) : Nat := mark * 256 + wrap * 16 + level + 0x5052530000

def Pack.save (x : Pack) (wrap level : Nat) : List Byte :=
  packFields [(8, areaHead packMark wrap level), (4, x.chk), (8, x.total), (1, b2n x.tail), (1, b2n x.fin),
    (4, x.win.length), (4, x.src.length)] ++ x.win ++ bitsPadded x.src

/-- An area of a compression stream. -/
def packLoad (b : List Byte) : Pack :=
  let n := leAt b 22 4
  let m := leAt b 26 4
  ⟨leAt b 8 4, leAt b 12 8, leAt b 20 1 == 1, leAt b 21 1 == 1, slice b 30 n,
    (byteBits (slice b (30 + n) ((m + 7) / 8))).take m⟩

def Inf.save (x : Inf) (wrap : Nat) : List Byte :=
  packFields [(8, areaHead infMark wrap 0), (1, x.ph), (4, x.a), (4, x.b), (1, x.flg), (1, b2n x.last), (4, x.hcrc), (4, x.chk),
    (8, x.total), (8, x.inp), (2, x.lit.length), (2, x.dst.length), (4, x.win.length), (4, x.src.length)] ++
    packFields ((x.lit ++ x.dst).map (fun v => (1, v))) ++ x.win ++ bitsPadded x.src

def infLoad (b : List Byte) : Inf :=
  let nl := leAt b 43 2
  let nd := leAt b 45 2
  let nw := leAt b 47 4
  let nb := leAt b 51 4
  let o := 55 + nl + nd
  let lens (o n : Nat) : List Nat := (slice b o n).map (·.toNat)
  { ph := leAt b 8 1, a := leAt b 9 4, b := leAt b 13 4, flg := leAt b 17 1, last := leAt b 18 1 == 1
    lit := lens 55 nl, dst := lens (55 + nl) nd, hcrc := leAt b 19 4, chk := leAt b 23 4, total := leAt b 27 8
    inp := leAt b 35 8, win := slice b o nw, src := (byteBits (slice b (o + nw) ((nb + 7) / 8))).take nb }

/-- The size of an area. -/
def Job.areaSize (j : Job) : Nat := if j.packs then 131072 else 49152

/-- An area takes a stream, or holds none that can be continued. -/
def State.saveArea (s : State) (j : Job) (b : Option (List Byte)) : State :=
  let s1 := s.zeroRange j.area (j.area + j.areaSize)
  match b with
  | some l => s1.write j.area l
  | none => s1

/-- The area holds a stream of the job's OP, WRAP and LEVEL. -/
def State.areaFits (s : State) (j : Job) : Bool :=
  s.le j.area 8 == areaHead (if j.packs then packMark else infMark) j.wrap j.level

/-! ## The outcome of a job -/

/-- What a job leaves: its code, END, input used, output, the check value, and the stream that can be continued. -/
structure JobEnd where
  code : Nat
  fin : Bool
  used : Nat
  out : List Byte
  check : Nat
  keep : Option (List Byte)

/-! ## Decompression (R378, R379) -/

/-- A decompression job over its input. -/
def unpack (j : Job) (x : Inf) (input : List Byte × Nat) (space : Nat) (cut : Nat) : JobEnd :=
  let x0 : Inf := { x with src := x.src ++ byteBits input.1 }
  let r := Inf.run j.wrap ⟨space, j.outMax, j.ratio, x.inp + input.1.length⟩ (x0.fuel space) x0 []
  let st := r.1
  let spare := match r.2.2 with | .more => 0 | _ => min input.1.length (st.src.length / 8)
  let used := input.1.length - spare
  let st1 : Inf := { st with inp := x.inp + used, win := st.win.take 32768, src := st.src.take (st.src.length - 8 * spare) }
  let e (code : Nat) (fin keep : Bool) : JobEnd :=
    ⟨code, fin, used, r.2.1.reverse, checkValue j.wrap st.chk, if keep then some (st1.save j.wrap) else none⟩
  match r.2.2 with
  | .done => e 0 true false
  | .code c => e c false false
  | .full => if cut = 0 then e 0x0B01 false true else e cut false false
  | .more => if input.2 ≠ 0 then e input.2 false false else if j.last then e 0x0B02 false false else e 0 false true

/-! ## Compression (R371, R372, R376, R377) -/

/-- A stored block of a segment after n bits of a stream. -/
def storedBits (n : Nat) (final : Bool) (seg : List Byte) : List Bool :=
  [final, false, false] ++ List.replicate ((8 - (n + 3) % 8) % 8) false ++
    byteBits (leBytes 2 seg.length ++ leBytes 2 (65535 - seg.length) ++ seg)

/-- Bits that decompress to exactly the segment, in fixed and dynamic blocks that end the stream or do not, and no longer than
stored. -/
def codes (n : Nat) (win : List Byte) (final : Bool) (seg : List Byte) (c : List Bool) : Bool :=
  let pad := (8 - (n + c.length) % 8) % 8
  let x : Inf := { Inf.init 0 with ph := 6, win := win, src := c ++ List.replicate pad false }
  let r := Inf.run 0 ⟨seg.length, seg.length, 0, 0⟩ (x.fuel seg.length) x []
  decide (c.length ≤ (storedBits n final seg).length) && r.2.1.reverse == seg && Inf.coding (x.fuel seg.length) 0 x &&
    (if final then r.2.2 == .done && r.1.src.isEmpty else r.2.2 == .more && r.1.ph == 6 && r.1.src.length == pad)

/-- The bits of a segment: stored at LEVEL 0; else what the Press finds, which codes the segment and is no longer. -/
def segBits (level n : Nat) (win : List Byte) (final : Bool) (seg : List Byte) : List Bool :=
  let c := Config.deflate level win seg final (n % 8)
  if level ≠ 0 ∧ codes n win final seg c then c else storedBits n final seg

/-- The wrapper header of a stream. -/
def wrapHeader (wrap level : Nat) : List Byte :=
  if wrap = 0 then []
  else if wrap = 1 then
    let v := 0x7800 + Config.flevel level % 4 * 64
    beBytes 2 (v + (31 - v % 31) % 31)
  else [0x1F, 0x8B, 8, 0, 0, 0, 0, 0, 0, 0xFF]

/-- The wrapper trailer. -/
def wrapTrailer (wrap chk total : Nat) : List Byte :=
  if wrap = 0 then []
  else if wrap = 1 then beBytes 4 (checkValue 1 chk)
  else leBytes 4 (checkValue 2 chk) ++ leBytes 4 (total % 2 ^ 32)

def Pack.init (wrap level : Nat) : Pack := ⟨checkInit wrap, 0, false, false, [], byteBits (wrapHeader wrap level)⟩

/-- Zeros up to a whole byte. -/
def padBits (bs : List Bool) : List Bool := bs ++ List.replicate ((8 - bs.length % 8) % 8) false

/-- The stream takes a segment. -/
def Pack.take (x : Pack) (wrap level : Nat) (final : Bool) (seg : List Byte) : Pack :=
  { x with
    chk := seg.foldl (checkStep wrap) x.chk
    total := x.total + seg.length
    fin := final
    win := (seg.reverse ++ x.win).take 32768
    src := x.src ++ segBits level x.src.length x.win final seg }

/-- What follows the last segment of a job: the trailer, or the empty stored block of SYNC. -/
def Pack.finish (x : Pack) (j : Job) : Pack :=
  if j.last then { x with tail := true, src := padBits x.src ++ byteBits (wrapTrailer j.wrap x.chk x.total) }
  else if j.sync then { x with tail := true, src := x.src ++ storedBits x.src.length false [] }
  else { x with tail := true }

/-- Segments are taken while whole bytes still fit: the stream, and the input used. `n` is the input of the whole job. -/
def packLoop (j : Job) (space n : Nat) : Nat → Pack → Nat → List Byte → Pack × Nat
  | 0, x, used, _ => (x, used)
  | k + 1, x, used, bs =>
    if space < x.src.length / 8 ∨ bs.isEmpty then (x, used)
    else
      let seg := bs.take 65535
      if seg.length < 65535 ∧ used + seg.length < n then (x, used)
      else
        let final := j.last && used + seg.length == n
        packLoop j space n k (x.take j.wrap j.level final seg) (used + seg.length) (bs.drop 65535)

/-- A compression job over its input. -/
def pack (j : Job) (x : Pack) (input : List Byte × Nat) (space cut : Nat) : JobEnd :=
  let n := j.srcLen
  let old : Bool := x.tail && (n == 0 || x.fin)
  let r := if old then (x, 0) else packLoop j space n (n + 1) { x with tail := false } 0 input.1
  let all : Bool := r.2 == n
  let y0 := if !old && all && j.last && !r.1.fin then r.1.take j.wrap j.level true [] else r.1
  let y := if !old && all then y0.finish j else y0
  let out := bitBytes (y.src.take (8 * space))
  let left := y.src.drop (8 * out.length)
  let full : Bool := decide (8 ≤ left.length)
  let code := if full then (if cut = 0 then 0x0B01 else cut) else if all || old then 0 else input.2
  let z : Pack := { y with src := left, tail := full && y.tail }
  let fin : Bool := code == 0 && y.fin
  ⟨code, fin, r.2, out, checkValue j.wrap y.chk,
    if (code = 0 ∨ code = 0x0B01) ∧ !fin then some (z.save j.wrap j.level) else none⟩

/-! ## A job runs (R374, R375) -/

/-- A job that fails before any data moves; CHECK is that of the stream so far. -/
def failed (code check : Nat) : JobEnd := ⟨code, false, 0, [], check, none⟩

/-- What stops a job at once: 0x0B09, or an area or list that cannot be read; or 0. -/
def State.jobCode (s : State) (d : Nat) (j : Job) : Nat :=
  if j.bad then 0x0B09
  else if !s.pressRange d true j.area j.areaSize ∨ !s.pressRange d false j.outList (16 * j.outN) then 0x0B08
  else if s.poisonedIn j.outList (16 * j.outN) ∨ (!j.first ∧ s.poisonedIn j.area j.areaSize) then 0x0B07
  else if s.entriesBad j ∨ (!j.first ∧ !s.areaFits j) then 0x0B09
  else 0

/-- The check value of the stream that a job continues; of nothing where it begins one, or there is none. -/
def State.checkSoFar (s : State) (j : Job) : Nat :=
  let area := s.bytes j.area j.areaSize
  checkValue j.wrap (if j.first ∨ !s.areaFits j then checkInit j.wrap else if j.packs then (packLoad area).chk else (infLoad area).chk)

/-- The outcome of a job. -/
def State.jobEnd (s : State) (d : Nat) (j : Job) : JobEnd :=
  let c := s.jobCode d j
  if c ≠ 0 then failed c (s.checkSoFar j)
  else
    let l := s.outEntries j
    let good := s.goodEntries d l
    let cut := if good.length < l.length then 0x0B08 else 0
    let input := s.inputOf d j.src j.srcLen
    let area := s.bytes j.area j.areaSize
    if j.packs then pack j (if j.first then Pack.init j.wrap j.level else packLoad area) input (spaceOf good) cut
    else unpack j (if j.first then Inf.init j.wrap else infLoad area) input (spaceOf good) cut

/-- The result block (R380). -/
def State.resultBlock (s : State) (d : Nat) (j : Job) (e : JobEnd) : List Byte :=
  let last := if e.out.isEmpty then (0, 0) else lastEntry 0 (s.goodEntries d (s.outEntries j)) e.out.length
  packFields [(4, 2 ^ 31 + b2n e.fin * 2 ^ 30 + e.code), (4, j.tag), (4, e.used), (4, e.out.length), (4, last.1), (4, last.2),
    (4, e.check), (4, 0)]

/-- A job's data: output, then the state area, which 0x0B09 leaves as it is. The result waits. -/
def State.jobRun (s : State) (d : Nat) (j : Job) : State :=
  let e := s.jobEnd d j
  let s1 := s.fill (s.goodEntries d (s.outEntries j)) e.out
  let s2 := if e.code = 0x0B09 ∨ !s.pressRange d true j.area j.areaSize then s1 else s1.saveArea j e.keep
  let s3 := ((s2.prsBump d (PRS.JOBS_LO d)).prsBumpBy d (PRS.INBYTES_LO d) e.used).prsBumpBy d (PRS.OUTBYTES_LO d) e.out.length
  let s4 := (s3.put (PRS.STATUS d) F.PRS_STATUS_BUSY 1).put (PRS.STATUS d) F.PRS_STATUS_TAG j.tag
  s4.setPrs d { s4.prs d with job := some ⟨j.resAddr, j.irq, e.code, s.resultBlock d j e⟩ }

/-- The Press takes the next packet, where it is a job of this OP. -/
def State.pressJob (s : State) (d : Nat) (packs : Bool) : State :=
  if !s.pressOn d then s
  else
    let r := s.nextJob d
    let j := wordBytes r.2
    if r.2.isEmpty || notJob r.2 || Job.packs j != packs then s else r.1.jobRun d j

/-- PRESS_COMPRESS. -/
def execPressCompress (d : Fin 2) (s : State) : Result := .next (s.pressJob d true)

/-- PRESS_DECOMPRESS. -/
def execPressDecompress (d : Fin 2) (s : State) : Result := .next (s.pressJob d false)

/-! ## Results (R380) -/

/-- A failure code sets EVT.ERR, is counted and logged. -/
def State.pressFail (s : State) (d code : Nat) : State :=
  if code = 0 ∨ code = 0x0B01 ∨ code = 0x0B02 then s
  else
    let s1 := (s.prsBump d (PRS.ERRORS_LO d)).raise (PRS.EVT d) F.PRS_EVT_ERR
    if s1.rb (PRS.ERR_LOG d) F.PRS_ERR_LOG_VALID then s1 else s1.wv (PRS.ERR_LOG d) (2 ^ 31 + code)

/-- PRESS_RESULT: the block, the events, and the end of the job, with which a write of EN = 0 takes effect. -/
def State.pressResult (s : State) (d : Nat) : State :=
  match (s.prs d).job with
  | none => s
  | some e =>
    if s.package.held ∨ s.dormant then s
    else
      let ok := s.pressRange d true e.addr 32
      let s1 := if ok then s.write e.addr e.block else s.countBadJob d
      let s2 := (s1.setPrs d ⟨none, false⟩).put (PRS.STATUS d) F.PRS_STATUS_BUSY 0
      let s3 := if (s.prs d).stopping then s2.put (PRS.CFG d) F.PRS_CFG_EN 0 else s2
      let s4 := if ok && e.irq then s3.raise (PRS.EVT d) F.PRS_EVT_DONE else s3
      s4.pressFail d e.code

def execPressResult (d : Fin 2) (s : State) : Result := .next (s.pressResult d)

/-- A write of PRS.CFG: EN = 0 waits for the running job; JOBCASK is taken while EN is 0. -/
def State.pressCfg (s : State) (d v : Nat) : State :=
  let on := s.rb (PRS.CFG d) F.PRS_CFG_EN
  let s1 := if on then s else s.put (PRS.CFG d) F.PRS_CFG_JOBCASK v
  if bit v 31 then (s1.put (PRS.CFG d) F.PRS_CFG_EN 1).setPrs d { s1.prs d with stopping := false }
  else if (s.prs d).job.isSome then s1.setPrs d { s1.prs d with stopping := true }
  else s1.put (PRS.CFG d) F.PRS_CFG_EN 0

end Sys2Proof.Machine
end

