-- ==== Sys2Proof/Machine/TraceCmds.lean ====
section
/-!
DEFINITION. Arming and disarming of trace probes (R388, R389), opening of segments (R385, R386), ticks (R383), and the
cross-port skew measurement (R390).
-/

namespace Sys2Proof.Machine

/-! ## Charge (R381, R389) -/

def State.probeSrc (s : State) (d p : Nat) : Nat := s.rf (TRC.P_PCFG d p) F.TRC_P_PCFG_SRC
def State.probeInst (s : State) (d p : Nat) : Nat := s.rf (TRC.P_PCFG d p) F.TRC_P_PCFG_INST
def State.probeSel (s : State) (d p : Nat) : Nat := s.rf (TRC.P_SEL d p) F.TRC_P_SEL_SEL

/-- The line rate of a MAC in Mbit/s (R302, R316). -/
def State.lineRate (s : State) (m : Nat) : Nat :=
  let mode := s.macCfg m F.MAC_CFG_MODE
  if m = 4 then (if mode = 2 then 1000 else if mode = 1 then 100 else 10) else if mode = 1 then 10000 else 25000

/-- The bits of an HDLC channel in a frame. -/
def State.channelBits (s : State) (p h : Nat) : Nat := (hdlcBits (s.rv (TDM.HCFG p h))).length

/-- The charge of a probe in kB/s. -/
def State.chargeOf (s : State) (d p : Nat) : Nat :=
  let i := s.probeInst d p
  match s.probeSrc d p with
  | 0 => 128
  | 1 => (8 * (8000 * s.channelBits i (s.probeSel d p % 64)) + 9999) / 10000
  | 2 => 8
  | 3 => if s.probeSel d p / 2 % 4 = 2 then s.lineRate i * 25 else s.lineRate i * 125
  | 4 => 830
  | _ => 16000

/-- The probes of a die that are armed. -/
def State.armedOf (s : State) (d : Nat) : List Nat := (List.range 16).filter (fun q => (s.probe d q).armed)

def State.showCharge (s : State) (d : Nat) : State :=
  s.wv (TRC.STATUS d) ((s.armedOf d).map (fun q => (s.probe d q).charge)).sum

/-! ## Arm refusals (R388) -/

/-- The source is on the die, enabled, and selects what the port has (0x0C13). -/
def State.sourceOk (s : State) (d p : Nat) : Bool :=
  let i := s.probeInst d p
  let sel := s.probeSel d p
  let port : Bool := decide (i < 48) && i / 24 == d && s.rb (TDM.CTRL i) F.TDM_CTRL_EN
  match s.probeSrc d p with
  | 0 => port && decide (sel % 1024 + (sel / 1024 % 8 + 1) ≤ s.tdmN i)
  | 1 => port && s.rb (TDM.HCFG i (sel % 64)) F.TDM_HCFG_EN
  | 2 => port && s.tdmE1 i && decide (sel % 32 < s.tdmN i / 32)
  | 3 => decide (i < 5) && (if i = 4 then 0 else i / 2) == d && s.rb (MAC.CTRL i) F.MAC_CTRL_EN && sel / 2 % 4 != 3
  | 4 => true
  | 5 => true
  | _ => false

/-- Trigger fields that a source decodes (R387). -/
def fieldsOf (src sel : Nat) : List Nat :=
  match src with
  | 0 => [0x40]
  | 1 => [0x01, 0x02, 0x03, 0x04, 0x05]
  | 2 => [0x20]
  | 3 => if sel / 2 % 4 = 2 then [0x10, 0x11, 0x12, 0x13] else [0x10, 0x11, 0x12, 0x13, 0x14, 0x18, 0x19]
  | 4 => [0x50]
  | _ => [0x30]

def State.fieldOk (s : State) (d p : Nat) : Bool :=
  let f := s.rf (TRC.P_TRIG d p) F.TRC_P_TRIG_FIELD
  f == 0x60 || (fieldsOf (s.probeSrc d p) (s.probeSel d p)).contains f

/-- The region of a probe in 256-byte units: its start and its length. -/
def State.region (s : State) (d p : Nat) : Nat × Nat :=
  (s.rf (TRC.P_BASE d p) F.TRC_P_BASE_OFFS, s.rf (TRC.P_SEG d p) F.TRC_P_SEG_NSEG * s.rf (TRC.P_SEG d p) F.TRC_P_SEG_SEGLEN)

/-- The region and the capture counts fit (0x0C12). -/
def State.regionOk (s : State) (d p : Nat) : Bool :=
  let r := s.region d p
  let c := TRC.P_CAPT d p
  r.2 != 0 && decide (r.1 + r.2 ≤ 16384) &&
    (s.armedOf d).all (fun q => let t := s.region d q; decide (r.1 + r.2 ≤ t.1) || decide (t.1 + t.2 ≤ r.1)) &&
    decide (s.rf c F.TRC_P_CAPT_PRE < s.segEntries d p) && decide (s.rf c F.TRC_P_CAPT_POST ≤ s.segEntries d p)

/-- The first condition that refuses an arm, or 0. -/
def State.armCode (s : State) (d p : Nat) : Nat :=
  if !s.rb (TRC.CFG d) F.TRC_CFG_EN then 0x0C15
  else if !s.sourceOk d p then 0x0C13
  else if !s.fieldOk d p then 0x0C14
  else if !s.regionOk d p then 0x0C12
  else if 8000000 < s.rf (TRC.STATUS d) F.TRC_STATUS_CHARGE + s.chargeOf d p then 0x0C11
  else 0

/-! ## Arming and disarming (R388) -/

/-- A refused arm: the cause, and the first code with its probe. -/
def State.armRefuse (s : State) (d p code : Nat) : State :=
  let s1 := s.raise (TRC.EVT d) F.TRC_EVT_ARMREF
  if s1.rb (TRC.ERR_LOG d) F.TRC_ERR_LOG_VALID then s1 else s1.wv (TRC.ERR_LOG d) (2 ^ 31 + p * 65536 + code)

/-- PCFG.EN is written 1: the probe is armed with segment 0 open, or the arm is refused. -/
def State.arm (s : State) (d p : Nat) : State :=
  if s.rb (TRC.P_PCFG d p) F.TRC_P_PCFG_EN then s
  else if s.armCode d p ≠ 0 then s.armRefuse d p (s.armCode d p)
  else
    let x : Probe := { Probe.init with armed := true, src := s.probeSrc d p, charge := s.chargeOf d p }
    let s1 := ((s.put (TRC.P_PCFG d p) F.TRC_P_PCFG_EN 1).wv (TRC.P_WRIDX d p) 0).wv (TRC.P_RDIDX d p) 0
    ((s1.setProbe d p x).openSegment d p).showCharge d

def execProbeArm (d : Fin 2) (p : Fin 16) (s : State) : Result := hostCmd s (TRC.P_PCFG d p) (fun u => u.arm d p)

/-- PCFG.EN is written 0: an open segment closes with FORCED = 1. -/
def State.disarm (s : State) (d p : Nat) : State :=
  if !s.rb (TRC.P_PCFG d p) F.TRC_P_PCFG_EN then s
  else
    let s1 := if (s.probe d p).isOpen then s.closeSegment State.raise d p true else s
    ((s1.put (TRC.P_PCFG d p) F.TRC_P_PCFG_EN 0).setProbe d p Probe.init).showCharge d

def execProbeDisarm (d : Fin 2) (p : Fin 16) (s : State) : Result := hostCmd s (TRC.P_PCFG d p) (fun u => u.disarm d p)

/-- CFG: EN = 0 disarms every probe of the die. -/
def State.traceCfg (s : State) (d v : Nat) : State :=
  let s1 := s.put (TRC.CFG d) F.TRC_CFG_EN (v % 2)
  if v % 2 = 1 then s1 else each s1 (List.range 16) (fun u p => u.disarm d p)

/-- A register of a probe is written: PCFG with its EN; the others while EN is 0, but RDIDX always. -/
def State.pcfgWrite (s : State) (d p v : Nat) : State :=
  if s.rb (TRC.P_PCFG d p) F.TRC_P_PCFG_EN then (if bit v 31 then s else s.disarm d p)
  else
    let s1 := s.wv (TRC.P_PCFG d p) (v &&& 0x7C3F0000)
    if bit v 31 then s1.arm d p else s1

/-! ## Segments and ticks (R383, R385, R386) -/

/-- SEGMENT_OPEN: the next segment opens, where the region is not full. -/
def State.openNext (s : State) (d p : Nat) : State :=
  let x := s.probe d p
  if !x.armed ∨ x.isOpen ∨ s.probeFull d p ∨ s.dormant then s
  else (s.setProbe d p { x with paused := false }).openSegment d p

def execSegmentOpen (d : Fin 2) (p : Fin 16) (s : State) : Result := .next (s.openNext d p)

/-- The data of a tick entry: the seconds of TB2 in 48 bits. -/
def tickBytes (t : Nat) : List Byte := leBytes 6 (t / 1000000000)

/-- TRACE_TICK: 1 s has passed in an open segment without an entry. -/
def State.traceTick (s : State) (d p : Nat) : State :=
  let x := s.probe d p
  let now := s.tb2nsOn d
  if !x.armed ∨ !x.isOpen ∨ s.dormant ∨ now < x.stamp + 1000000000 then s
  else (s.setProbe d p { x with stamp := now }).storeGroup State.raise d p now [traceEntry now 0x0F 0 0 (tickBytes now)]

def execTraceTick (d : Fin 2) (p : Fin 16) (s : State) : Result := .next (s.traceTick d p)

/-- RDIDX_WRITE: a paused probe resumes with the SEGMENT_OPEN that follows. -/
def State.rdidxWrite (s : State) (d p v : Nat) : State := s.put (TRC.P_RDIDX d p) F.TRC_P_RDIDX_RDIDX v

def execRdidxWrite (d : Fin 2) (p : Fin 16) (val : BitVec 32) (s : State) : Result :=
  hostCmd s (TRC.P_RDIDX d p) (fun u => u.rdidxWrite d p val.toNat)

/-! ## Skew (R390) -/

/-- A port whose tags a measurement can use: in slave mode, enabled, and not in loss of frame. -/
def State.skewPort (s : State) (p : Nat) : Bool :=
  decide (p < 48) && s.rb (TDM.CTRL p) F.TDM_CTRL_EN && !s.tdmMaster p && !s.tdmLof p

def State.skewMasked (s : State) (p : Nat) : Bool :=
  if p < 32 then bit (s.rv TRC.SKEWMASK0) p else bit (s.rv TRC.SKEWMASK1) (p - 32)

/-- The measurement ends with a code. -/
def State.skewPost (s : State) (code : Nat) : State :=
  ({ s with skew := none } : State).post TRC.SKEW_STATUS code |>.raise (TRC.EVT 0) F.TRC_EVT_SKEW

/-- The code that ends a measurement, or 0. -/
def State.skewCode (s : State) (ref : Nat) : Nat :=
  if s.divided && (decide (24 ≤ ref) || (List.range 24).any (fun i => s.skewMasked (24 + i))) then 0x0C02
  else if !s.skewPort ref then 0x0C01
  else 0

/-- SKEWCMD: ignored while SKEW_STATUS.READY is 0. -/
def State.skewStart (s : State) (v : Nat) : State :=
  if !s.ready TRC.SKEW_STATUS then s
  else
    let ref := v % 64
    let s1 := s.begin_ TRC.SKEW_STATUS
    if s.skewCode ref ≠ 0 then s1.skewPost (s.skewCode ref)
    else { s1 with skew := some ⟨⟨ref, Nat.mod_lt _ (by decide)⟩, []⟩ }

def execSkewcmd (val : BitVec 32) (s : State) : Result := hostCmd s TRC.SKEWCMD (fun u => u.skewStart val.toNat)

/-- The average difference of the tags of two ports over the frames both have, in 0.25 ns. -/
def meanSkew (a ref : List Nat) : Option Int :=
  let l := (a.zip ref).map (fun e => (e.1 : Int) - e.2)
  if l.isEmpty then none else some ((4 * l.sum) / (l.length : Int))

/-- RESIDn of a port. -/
def State.skewResult (s : State) (k : Skew) (p : Nat) : State :=
  match (if s.skewMasked p && s.skewPort p then meanSkew (sget k.tags [] p) (sget k.tags [] k.ref.val) else none) with
  | some v => s.wv (TRC.RESID p) (2 ^ 31 + ofSigned 16 v)
  | none => if s.skewMasked p then s.wv (TRC.RESID p) 0 else s

/-- SKEW_COMPLETE: after 64 frames of the reference, or where the reference or die 1 has gone. -/
def State.skewDone (s : State) : State :=
  match s.skew with
  | none => s
  | some k =>
    if s.skewCode k.ref ≠ 0 then s.skewPost (s.skewCode k.ref)
    else if (sget k.tags [] k.ref.val).length < 64 then s
    else (each s (List.range 48) (fun u p => u.skewResult k p)).skewPost 0

def execSkewComplete (s : State) : Result := .next s.skewDone

end Sys2Proof.Machine
end

