-- ==== Sys2Proof/Machine/Reset.lean ====
section
/-!
DEFINITION. Resets of the package and of a cluster (R354, R406 to R412, R417), the watchdog (R412), power-good inputs and
regulators (R406), DDR5 channels (R418), and retries on the Hinge and the crossbars (R29, R415, R416). Readings: log 41.
-/

namespace Sys2Proof.Machine

/-! ## What a reset keeps (R407) -/

/-- Kinds of package reset: power-on, cold, and warm, which a watchdog reset equals. -/
inductive ResetKind where
  | power
  | cold
  | warm
  deriving DecidableEq, Repr

/-- A reset of a kind resets a register domain. -/
def ResetKind.takes (k : ResetKind) (d : Dom) : Bool :=
  match d with
  | .fixed => false
  | .cold => k != .warm
  | .warm => true
  | .warmCluster => true
  | .cluster => true

/-- A register keeps its value through a reset. -/
def ResetKind.keepsReg (k : ResetKind) (a : Nat) : Bool :=
  match regRow a with
  | some r => !k.takes r.dom
  | none => false

/-- A channel holds its contents: trained, or in the self-refresh that an earlier cold reset began (R418). -/
def State.dramHeld (s : State) (c : Nat) : Bool :=
  s.rb (DDR.STATUS1 c) F.DDR_STATUS1_TRAINED || s.rb (DDR.STATUS1 c) F.DDR_STATUS1_SELFREF

/-- A byte of the DPA space keeps its contents. -/
def State.keepsByte (s : State) (k : ResetKind) (a : Nat) : Bool :=
  match placeOf a with
  | .dram c => k != .power && s.dramHeld c
  | .cellar _ => k == .warm
  | .trace _ => k == .warm
  | _ => false

/-! ## Time through a warm reset (R354) -/

/-- A domain goes on at its rate, in FREE; a remainder kept from HOLDOVER is dropped. -/
def State.warmDisc (s : State) (b : Fin 2) : Discipline :=
  let x := s.disc b
  { x with
    rem := if s.domState b = domHoldover then 0 else x.rem
    slewing := x.slewing && s.domState b != domHoldover
    spells := [], since := 0, seg := s.clockwork.ticks }

/-- The holdover mean goes to INCHI:INCLO. -/
def State.warmInc (s : State) (t : State) (b : Fin 2) : State :=
  if t.domState b = domHoldover then
    (s.put (TIME.INCHI b.val) F.TIME_INCHI_INCNS ((t.disc b).mean / 2 ^ 32)).wv (TIME.INCLO b.val) ((t.disc b).mean % 2 ^ 32)
  else s

/-- Media time as it was: the source of TB2 with its correction, and the slews in progress. `t` is the state before. -/
def State.warmTime (s t : State) : State :=
  let src := t.rf TIME.STATUS F.TIME_STATUS_SRC
  let s1 := ((s.put TIME.STATUS F.TIME_STATUS_SRC src).put TIME.TB2CTL F.TIME_TB2CTL_SRC src).put TIME.STATUS
    F.TIME_STATUS_SLEWING (t.rf TIME.STATUS F.TIME_STATUS_SLEWING)
  let s2 := (s1.warmInc t 0).warmInc t 1
  let s3 : State := { s2 with clockwork := { s2.clockwork with dom0 := t.warmDisc 0, dom1 := t.warmDisc 1, sync := none, ppsAt := none } }
  (s3.showRem 0).showRem 1

/-! ## A package reset (R407, R411) -/

/-- What a reset makes of operations of several steps: a running OTP command has programmed some bits, and a SYNC that
waits is applied whole or not at all. -/
def State.interrupted (s : State) : State :=
  let s1 := match s.sec.otp with
    | some q => s.otpWrite q false
    | none => s
  if s1.clockwork.sync.isSome ∧ Config.freeBit s1.freeCount then (s1.draw 1).syncApply else s1.draw 1

/-- SEC after a reset: OTP and what it gives stand; measurements, challenges, scopes and the boot start again. -/
def resetSec (x : Sec) : Sec := { Sec.init with idk := x.idk, subsysId := x.subsysId, unverified := x.unverified }

/-- Registers that a reset keeps. -/
def State.keptRegs (s : State) (k : ResetKind) : List (Nat × Word) := s.regs.filter (fun e => k.keepsReg e.1)

/-- Everything of the package that a reset of a kind clears. -/
def State.cleared (s : State) (k : ResetKind) : State :=
  { s with
    regs := s.keptRegs k
    mem := s.mem.filter (fun e => s.keepsByte k e.1)
    poison := s.poison.filter (fun w => s.keepsByte k (8 * w))
    cores := [], clusters := [], slots := [], vats := [], areas := [], casks := [], flushing := [], probes := []
    skew := none, sec := resetSec s.sec, scrubs := [], cls := [], plyIn := [], plays := [], cellUse := [], srtp := [], txBufs := []
    tdms := [], egMarks := [], rehomes := [], evacs := [], wdns := [], dvfs := [], thermal := Thermal.init
    sleep := Sleep.init, wdt := 0, wdWarned := false, macs := [], txSends := [], dmas := [], press := []
    msix := if k = .warm then s.msix else { Msix.init with pins := s.msix.pins }
    pcie := if k = .warm then s.pcie else { s.pcie with relaxed := true, d3hot := false }
    dieStats := Vector.replicate 2 ⟨0, 0, 0⟩ }

/-- Registers that show what the reset leaves: HOSTSEL, the link of a warm reset, sensors of the clusters, and channels in
self-refresh after a cold reset. `t` is the state before. -/
def State.shown (s t : State) (k : ResetKind) : State :=
  let s1 := s.put HIF.STATUS F.HIF_STATUS_HOSTSEL (t.rf HIF.STATUS F.HIF_STATUS_HOSTSEL)
  let s2 := each s1 (List.range 32) (fun u n => u.wv (GLB.TEMP n) 0)
  match k with
  | .power => s2
  | .cold => each s2 ((List.range 4).filter t.dramHeld) (fun u c => u.put (DDR.STATUS1 c) F.DDR_STATUS1_SELFREF 1)
  | .warm =>
    ((((s2.put HIF.STATUS F.HIF_STATUS_SPEED (t.rf HIF.STATUS F.HIF_STATUS_SPEED)).put HIF.STATUS F.HIF_STATUS_WIDTH
      (t.rf HIF.STATUS F.HIF_STATUS_WIDTH)).warmTime t).selfRefresh false).put GLB.THERM F.GLB_THERM_LIMITING 0

/-- A package reset, up to its end. -/
def State.packageReset (s : State) (k : ResetKind) : State :=
  let t := s.interrupted
  let u := (t.cleared k).shown t k
  (if k = .warm then { u with msix := { u.msix with pba := [] } } else u).drivePins

/-- A warm or watchdog reset runs to its end; RSTCAUSE reports it. -/
def State.warmWith (s : State) (cause : Nat) : State := (s.packageReset .warm).wv GLB.RSTCAUSE cause

/-- A reset begins that holds the package; while one holds it already, it is absorbed (R408). -/
def State.holdReset (s : State) (k : ResetKind) (cause : Nat) (needFall : Bool) : State :=
  if s.package.held then s
  else { s.packageReset k with package := { s.package with held := true, needFall := needFall, fell := false, cause := cause } }

/-- PORST_N is low. -/
def State.porstLow (s : State) : State := { s with package := { s.package with porst := false, fell := true } }

/-- Every valid reading is below +95 °C. -/
def State.allCool (s : State) : Bool :=
  (List.range 47).all (fun i =>
    !s.rb (GLB.TEMP i) F.GLB_TEMP_VALID || decide (toSigned 16 (s.rf (GLB.TEMP i) F.GLB_TEMP_TEMP) < 380))

/-- What held the package has gone: the reset ends, the bases are loaded, RSTCAUSE is written (R354, R408, R417). -/
def State.tryRelease (s : State) : State :=
  let p := s.package
  if !p.held ∨ !p.porst ∨ !p.pgoodLow.isEmpty ∨ (p.needFall ∧ !p.fell) ∨ (p.cause = 16 ∧ !s.allCool) then s
  else
    let s1 := (s.loadBases).wv GLB.RSTCAUSE p.cause
    { s1 with
      package := { p with held := false, needFall := false, fell := false }
      sec := { s1.sec with subsysId := BitVec.ofNat 16 (s1.rf SEC.OTPINFO2 F.SEC_OTPINFO2_SUBSYS) } }

/-- POWER_ON_RESET: the supplies ramp, with PORST_N low (R405). No reset outlasts the supplies. -/
def execPowerOnReset (s : State) : Result :=
  .next (({ s with package := { s.package with held := false, pgoodLow := [] } } : State).holdReset .power 1 false).porstLow

/-- COLD_RESET: PORST_N has been low for 10 µs. During another reset it is absorbed. -/
def execColdReset (s : State) : Result :=
  .next (if s.package.held then s.porstLow else (s.holdReset .cold 2 false).porstLow)

/-- PORST_N_RISE: HOSTSEL is latched, and the reset ends where nothing else holds it. -/
def State.porstRise (s : State) (hostsel : Nat) : State :=
  if s.package.porst then s
  else
    let s1 : State := { s with package := { s.package with porst := true } }
    (s1.put HIF.STATUS F.HIF_STATUS_HOSTSEL hostsel).tryRelease

def execPorstNRise (hostsel : BitVec 2) (s : State) : Result := .next (s.porstRise hostsel.toNat)

/-- WARM_RESET: GLB.RESET with KEY 0xA5 and WARM. -/
def execWarmReset (s : State) : Result := hostCmd s GLB.RESET (fun u => u.warmWith 4)

/-- CLUSTER_RESET: GLB.RESET with KEY 0xA5 and CLRST. -/
def execClusterReset (cl : Fin 32) (s : State) : Result := hostCmd s GLB.RESET (fun u => u.clusterReset cl)

/-- A write of GLB.RESET. -/
def State.resetWrite (s : State) (v : Nat) : State :=
  if bits v 31 24 ≠ 0xA5 then s
  else if bit v 8 then s.warmWith 4
  else if bit v 9 then s.clusterReset (v % 32)
  else s

/-! ## The watchdog (R412) -/

def State.wdtOn (s : State) : Bool := s.rb GLB.WDT_CFG F.GLB_WDT_CFG_EN && !s.package.held && !s.dormant

/-- TIMEOUT as it acts, in ms. -/
def State.wdtTimeout (s : State) : Nat := max 10 (min 60000 (s.rf GLB.WDT_CFG F.GLB_WDT_CFG_TIMEOUT))

def State.wdtCount (s : State) : Nat := s.rf GLB.WDT_COUNT F.GLB_WDT_COUNT_COUNT

/-- The count has reached TIMEOUT ÷ 2, and TIMEOUT. -/
def State.wdtHalf (s : State) : Bool := decide (s.wdtTimeout * 500 ≤ s.wdtCount)
def State.wdtFull (s : State) : Bool := decide (s.wdtTimeout * 1000 ≤ s.wdtCount)

def State.kick (s : State) : State := { s.wv GLB.WDT_COUNT 0 with wdt := 0, wdWarned := false }

def State.wdtWarn (s : State) : State := ({ s with wdWarned := true } : State).raise GLB.EVT F.GLB_EVT_WDWARN

/-- A write of WDT_KICK: 0x5A kicks, unless the count has reached TIMEOUT. -/
def State.wdtKick (s : State) (v : Nat) : State := if v ≠ 0x5A ∨ (s.wdtOn ∧ s.wdtFull) then s else s.kick

def execWdtKick (val : BitVec 8) (s : State) : Result := hostCmd s GLB.WDT_KICK (fun u => u.wdtKick val.toNat)

/-- A write of WDT_CFG: EN from 0 to 1 is a kick; while EN stays 1 the count meets the new TIMEOUT at once. -/
def State.wdtConfig (s : State) (v : Nat) : State :=
  let on := s.rb GLB.WDT_CFG F.GLB_WDT_CFG_EN
  let s1 := s.wv GLB.WDT_CFG (v &&& 0x8000FFFF)
  if !bit v 31 then s1
  else if !on then s1.kick
  else if s1.wdtOn ∧ s1.wdtFull then s1.warmWith 8
  else if s1.wdtOn ∧ s1.wdtHalf then s1.wdtWarn
  else s1

def execWdtCfgWrite (val : BitVec 32) (s : State) : Result := hostCmd s GLB.WDT_CFG (fun u => u.wdtConfig val.toNat)

/-- WATCHDOG_WARNING: once after a kick. -/
def execWatchdogWarning (s : State) : Result := .next (if s.wdtOn ∧ s.wdtHalf ∧ !s.wdWarned then s.wdtWarn else s)

/-- WATCHDOG_RESET. -/
def execWatchdogReset (s : State) : Result := .next (if s.wdtOn ∧ s.wdtFull then s.warmWith 8 else s)

/-! ## Supplies (R406) -/

/-- RSTCAUSE of a PGOOD reset. -/
def pgoodCause (l : List Nat) : Nat := 1 + (l.map (fun i => 2 ^ (5 + i))).sum

/-- Contents of a channel are gone (log 4). -/
def State.dropDram (s : State) (c : Nat) : State :=
  s.zeroRange (0x1000000000 + c * 0x800000000) (0x1000000000 + (c + 1) * 0x800000000)

/-- VDDQ_DDR leaves its range: no channel stays in self-refresh (R418). -/
def State.loseDdr (s : State) : State :=
  each s (List.range 4) (fun u c => (u.dropDram c).put (DDR.STATUS1 c) F.DDR_STATUS1_SELFREF 0)

/-- PGOOD_LOW: a PGOOD input is low for some µs; at 50 it holds a power-on reset until it rises. During another reset it is
absorbed, and PGOOD1 ends the self-refresh of the channels. -/
def State.pgoodFall (s : State) (i us : Nat) : State :=
  if us < 50 then (if s.package.porst ∧ !s.package.held then s.errClass 14 else s)
  else
    let l := ins1 s.package.pgoodLow i
    let s0 := if i = 1 then s.loseDdr else s
    let s1 := s0.holdReset .power (pgoodCause [i]) false
    { s1 with package := { s1.package with pgoodLow := l } }

def execPgoodLow (i : Fin 3) (us : Nat) (s : State) : Result := .next (s.pgoodFall i us)

/-- PGOOD_RISE. -/
def State.pgoodRise (s : State) (i : Nat) : State :=
  ({ s with package := { s.package with pgoodLow := s.package.pgoodLow.filter (· != i) } } : State).tryRelease

def execPgoodRise (i : Fin 3) (s : State) : Result := .next (s.pgoodRise i)

/-- REGULATOR_OUT_OF_RANGE: of an island that has a supply. -/
def execRegulatorOutOfRange (island : BitVec 6) (s : State) : Result :=
  .next (if s.package.held ∨ 47 ≤ island.toNat ∨ !s.powered island.toNat then s else s.errClass 14)

/-! ## DDR5 channels (R418) -/

/-- A write of DDRc.CFG: EN from 0 to 1 starts training, unless CAP is out of range; EN = 0 stops the channel. -/
def State.ddrWrite (s : State) (c v : Nat) : State :=
  let a := DDR.CFG c
  let on := s.rb a F.DDR_CFG_EN
  let s1 := (s.wv a (v &&& 0x7FFF0003)).put a F.DDR_CFG_EN (b2n on)
  if bit v 31 then
    if on then s1
    else if bits v 29 24 = 0 ∨ 32 < bits v 29 24 then (s1.begin_ (DDR.STATUS c)).post (DDR.STATUS c) 0x0E02
    else (s1.put a F.DDR_CFG_EN 1).begin_ (DDR.STATUS c)
  else if on then
    (s1.put a F.DDR_CFG_EN 0).put (DDR.STATUS1 c) F.DDR_STATUS1_TRAINED 0
  else s1

/-- DDR_ENABLE. -/
def execDdrEnable (c : Fin 4) (val : BitVec 32) (s : State) : Result :=
  hostCmd s (DDR.CFG c) (fun u => u.ddrWrite c val.toNat)

/-- DDR_TRAINING_COMPLETE: contents stay only where RESUME meets the self-refresh of a cold reset. -/
def State.trained (s : State) (c : Nat) (ok : Bool) : State :=
  if s.package.held ∨ s.ready (DDR.STATUS c) then s
  else if !ok ∨ !s.rb (DDR.CFG c) F.DDR_CFG_EN then
    ((s.put (DDR.CFG c) F.DDR_CFG_EN 0).post (DDR.STATUS c) 0x0E01).raise (DDR.EVT c) F.DDR_EVT_TRAIN
  else
    let keep := s.rb (DDR.CFG c) F.DDR_CFG_RESUME && s.rb (DDR.STATUS1 c) F.DDR_STATUS1_SELFREF
    let s1 := if keep then s else s.dropDram c
    let s2 := (s1.put (DDR.STATUS1 c) F.DDR_STATUS1_TRAINED 1).put (DDR.STATUS1 c) F.DDR_STATUS1_SELFREF 0
    (s2.post (DDR.STATUS c) 0).raise (DDR.EVT c) F.DDR_EVT_TRAIN

def execDdrTrainingComplete (c : Fin 4) (ok : Bool) (s : State) : Result := .next (s.trained c ok)

/-! ## The Hinge and the crossbars (R29, R415, R416) -/

/-- Exhaustion on the Hinge is logged on one of the dies; the spec states neither which, nor an address (log 21). -/
def State.logFlit (s : State) : State :=
  let free (i m : Nat) : Nat := Config.freeNat (s.freeCount + i) % m
  (s.draw 4).logError (free 0 2) 7 10 0 (free 1 (2 ^ 40)) (free 2 256) (free 3 512)

/-- Every lane has left service: class 236, and cross-die re-homes that are not acknowledged are aborted (R367, R416). -/
def State.divide (s : State) : State :=
  let s1 := s.errClass 12
  each s1 (s1.rehomes.filter (fun r => dieOf r.src != dieOf r.dst && !r.copied)) (fun u r => u.abortRehome r 5 0x0A24 false)

/-- A flit has failed: it is retried, or, at the eighth attempt, its lane leaves service. -/
def State.hingeRetry (s : State) (lane attempt : Nat) : State :=
  if s.package.held ∨ !bit (s.rf HNG.STATUS F.HNG_STATUS_LANES) lane then s
  else if attempt < 7 then
    (s.bump (HNG.RETRIES0_LO + 8 * lane) HNG.EVT F.HNG_EVT_CNT).raise HNG.EVT F.HNG_EVT_RETRY
  else
    let s1 := ((s.bump HNG.EXHAUST_LO HNG.EVT F.HNG_EVT_CNT).put HNG.STATUS ⟨lane, lane⟩ 0).raise HNG.EVT F.HNG_EVT_LANE
    let s2 := s1.logFlit
    if s2.divided then s2.divide else s2

/-- HINGE_FLIT_RETRY: `attempt` counts the failed attempts of the flit before this one. -/
def execHingeFlitRetry (lane : Fin 4) (attempt : Fin 8) (s : State) : Result := .next (s.hingeRetry lane attempt)

/-- CROSSBAR_FLIT_RETRY: a flit with a CRC error is counted (R23); the eighth failure ends the fabric of the die, and the package
holds in reset until PORST_N falls, reported as COLD. -/
def execCrossbarFlitRetry (d : Fin 2) (port : Fin 32) (attempt : Fin 8) (s : State) : Result :=
  .next (if s.package.held then s
    else
      let s1 := s.bumpDie d.val (fun x => { x with flitErrors := x.flitErrors + 1 })
      if attempt.val = 7 then (s1.errClass 11).holdReset .cold 2 true else s1)

end Sys2Proof.Machine
end

