-- ==== Sys2Proof/Machine/Thermal.lean ====
section
/-!
DEFINITION. Temperature (R74 to R77): samples, ceilings that fall and rise, and the trip of R417.
-/

namespace Sys2Proof.Machine

/-- Islands with ceilings: clusters and fabrics. -/
def ceilIslands : List Nat := List.range 34

/-- LIMITING: a ceiling is below its highest point. -/
def State.showLimiting (s : State) : State :=
  s.put GLB.THERM F.GLB_THERM_LIMITING (b2n (ceilIslands.any (fun i => decide (s.opCeil i < topPoint i))))

/-- CEIL takes a value, and the effective point follows. -/
def State.setCeil (s : State) (i c : Nat) : State := (s.put (opReg i) F.GLB_OP_CLUSTER_CEIL c).applyPoint i

/-! ## Samples (R74 to R77) -/

/-- Readings that count, in units of 0.25 °C. -/
def State.validReadings (s : State) (r : List Int) : List (Nat × Int) :=
  ((List.range 47).filter s.powered).map (fun i => (i, r.getD i 0))

def State.showTemps (s : State) (l : List (Nat × Int)) : State :=
  let shown (i : Nat) : Nat := match l.find? (fun e => e.1 == i) with
    | some e => 2 ^ 31 + ofSigned 16 e.2
    | none => 0
  each s (List.range 47) (fun u i => u.wv (GLB.TEMP i) (shown i))

def coolest (l : List (Nat × Int)) : Int := l.foldl (fun (m : Int) e => min m e.2) ((l.map (·.2)).headD 0)
def hottest (l : List (Nat × Int)) : Int := l.foldl (fun (m : Int) e => max m e.2) ((l.map (·.2)).headD 0)

/-- WARN_C as it acts, in units of 0.25 °C. -/
def State.warnAt (s : State) : Int := 4 * (max 60 (min 105 (s.rf GLB.THERM F.GLB_THERM_WARN_C)) : Nat)

/-- Samples in a row that meet a condition, by island: 101 of them, 100 µs apart, span 10 ms. -/
def runLengths (old : List (Nat × Nat)) (now : List Nat) : List (Nat × Nat) := now.map (fun i => (i, sget old 0 i + 1))

/-- The thermal control after a sample. -/
def State.judge (s : State) (l : List (Nat × Int)) : Thermal :=
  let c := coolest l
  let islands (p : Int → Bool) : List Nat := (l.filter (fun e => p e.2)).map (·.1)
  let out := islands (fun v => decide (120 < v - c))
  let low := runLengths s.thermal.low (out.filter (fun i => decide (i < 34) && s.rf (opReg i) F.GLB_OP_CLUSTER_EFF == 0))
  { s.thermal with
    out := out
    hot := islands (fun v => decide (420 < v))
    warned := islands (fun v => decide (s.warnAt < v))
    cool := runLengths s.thermal.cool ((islands (fun v => decide (v - c ≤ 100) && decide (v ≤ 420))).filter (· < 34))
    low := low
    evac := s.thermal.evac ++ (low.filter (fun e => e.2 == 101 && decide (e.1 < 32))).map (·.1) }

/-- The sample raises the thermal error event: WARN_C is crossed, a fixed island goes out of limit, or an island has been
out of limit at its lowest point for 10 ms. -/
def State.thermalEvent (s : State) (t : Thermal) : Bool :=
  t.warned.any (fun i => !s.thermal.warned.contains i) ||
    t.out.any (fun i => decide (34 ≤ i) && !s.thermal.out.contains i) || t.low.any (fun e => e.2 == 101)

/-- THERMAL_SAMPLE. Above +115 °C the package trips; while a reset holds it, the readings may end the hold (R417).
SPREAD is rounded down to whole degrees (DESIGN CHOICE, log 45). -/
def State.thermalSample (s : State) (r : List Int) : State :=
  let l := s.validReadings r
  let s1 := (s.showTemps l).put GLB.THERM F.GLB_THERM_SPREAD (min 255 ((hottest l - coolest l) / 4).toNat)
  if s.package.held then s1.tryRelease
  else if l.any (fun e => decide (460 < e.2)) then (s1.errClass 13).holdReset .power 16 true
  else
    let t := s.judge l
    let s2 : State := { s1 with thermal := t }
    if s.thermalEvent t then s2.errClass 13 else s2

def execThermalSample (readings : List Int) (s : State) : Result := .next (s.thermalSample readings)

/-! ## Ceilings (R75 to R77) -/

/-- A fabric is forced to its nominal point. -/
def State.forceFabric (s : State) (f : Nat) : State :=
  { s.setCeil f 0 with thermal := { s.thermal with forced := ins1 s.thermal.forced f } }

/-- The 10 ms of an out-of-limit island at its lowest point begin where a fall brings it there (R77). -/
def State.atLowest (s : State) (i : Nat) : State :=
  if s.rf (opReg i) F.GLB_OP_CLUSTER_EFF = 0 ∧ s.thermal.out.contains i ∧ sget s.thermal.low 0 i = 0 then
    { s with thermal := { s.thermal with low := sput s.thermal.low i 1 } }
  else s

/-- A ceiling falls by one point; a fabric at its high point follows where R70 would break. -/
def State.fallOne (s : State) (i : Nat) : State :=
  if s.opCeil i = 0 ∨ !s.powered i then s
  else
    let s1 := (s.setCeil i (s.opCeil i - 1)).atLowest i
    let f := 32 + dieOf i
    if isCluster i ∧ !mvClose (s1.opMv i) (s1.opMv f) ∧ s1.rf (opReg f) F.GLB_OP_CLUSTER_EFF = 1 then s1.forceFabric f else s1

/-- A fabric would meet R70 at its REQ and trim. -/
def State.fabricFits (s : State) (f : Nat) : Bool := s.mvOk f (targetMv f (s.opReq f) (s.opTrim f))

/-- A forced fabric returns to its REQ, at the first 1 ms mark at which it may (DESIGN CHOICE, log 46). -/
def State.unforce (s : State) (f : Nat) : State :=
  if s.thermal.forced.contains f ∧ !s.thermal.out.contains f ∧ !s.thermal.hot.contains f ∧ s.fabricFits f then
    { s.setCeil f 1 with thermal := { s.thermal with forced := s.thermal.forced.filter (· != f) } }
  else s

/-- CEIL_STEP: the 1 ms mark. -/
def State.ceilStep (s : State) : State :=
  if s.package.held then s
  else
    let s1 := each s (ceilIslands.filter (fun i => s.thermal.out.contains i || s.thermal.hot.contains i)) (fun u i => u.fallOne i)
    ((s1.unforce 32).unforce 33).showLimiting

def execCeilStep (s : State) : Result := .next s.ceilStep

/-- CEIL_RISE: an island whose difference has stayed at 25.00 °C or below for 10 ms more. A fabric whose high point would
break R70 is forced to stay nominal (R77). -/
def State.ceilRise (s : State) (i : Nat) : State :=
  let t := s.thermal
  if s.package.held ∨ 34 ≤ i ∨ sget t.cool 0 i < 101 ∨ t.hot.contains i ∨ t.forced.contains i ∨ topPoint i ≤ s.opCeil i then s
  else
    let s1 : State := { s with thermal := { t with cool := sput t.cool i 1 } }
    if isFabric i ∧ !s.fabricFits i then (s1.forceFabric i).showLimiting
    else (s1.setCeil i (s.opCeil i + 1)).showLimiting

def execCeilRise (island : BitVec 6) (s : State) : Result := .next (s.ceilRise island.toNat)

end Sys2Proof.Machine
end

