-- ==== Sys2Proof/Machine/HostRegs.lean ====
section
/-!
DEFINITION. Host writes of registers and of memory, and the Keyway port (R16, R17, R38, R39, R44, R46, R58, R63, R64, R68,
R321, R325, R326, R437). A register with an action calls the operation that its own chapter defines; any other takes its
RW fields and clears its W1C bits.
-/

namespace Sys2Proof.Machine

/-! ## Fields (R16, R17) -/

/-- What a register holds after a write: RW fields are set, W1C bits cleared by ones, the rest kept. -/
def RegRow.written (r : RegRow) (old v : Word) : Word := (old &&& ~~~(r.rw ||| (v &&& r.w1c))) ||| (v &&& r.rw)

/-- A write of a register without an action; a reserved offset ignores it (R32). -/
def State.plainWrite (s : State) (a v : Nat) : State :=
  match regRow a with
  | none => s
  | some r =>
    let t := s.setReg a (r.written (s.reg a) (BitVec.ofNat 32 v))
    if r.w1c = 0 then t else s.changed t

/-- A write that is ignored while something holds. -/
def State.unlessWrite (s : State) (held : Bool) (a v : Nat) : State := if held then s else s.plainWrite a v

/-! ## GLB -/

def State.writeGlb (s : State) (o v : Nat) : State :=
  if o = 0x100 then s.dvfsAsk 0 (bits v 21 16) (bits v 9 8) (bits v 6 4)
  else if o = 0x410 then
    let s1 := s.plainWrite o v
    if bit v 0 ∧ bit v 1 then
      if Config.freeBit s1.freeCount then ((s1.draw 1).pwrEnter).pwrExit else ((s1.draw 1).pwrExit).pwrEnter
    else if bit v 0 then s1.pwrEnter
    else if bit v 1 then s1.pwrExit
    else s1
  else if o = 0x500 then s.resetWrite v
  else if o = 0x510 then s.wdtConfig v
  else if o = 0x514 then s.wdtKick (v % 256)
  else s.plainWrite o v

/-! ## SEC (R392, R397) -/

/-- The DPA that an offset of LDWIN reaches. -/
def State.ldwin (s : State) (o : Nat) : Nat := 0x10000000 + s.rf SEC.LDPAGE F.SEC_LDPAGE_LDPAGE * 0x8000 + (o - 0x8000)

/-- After GENID, OTPARG chooses the half of the public key that OTPDATA holds. -/
def State.showHalf (s : State) : State :=
  if s.sec.showPub then s.putBytes (SEC.OTPDATA 0) (s.regBytes (SEC.IDPUB (8 * (s.rv SEC.OTPARG % 2))) 8) else s

/-- A 32-bit host write of memory through a window: part of a poisoned word is discarded (R64). -/
def State.windowWrite (s : State) (a v : Nat) : State := if s.poisoned a then s.dropOther else s.writeLe a 4 v

def State.writeSec (s : State) (o v : Nat) : State :=
  let a := 0x10000 + o
  if 0x8000 ≤ o then (if s.booted then s else s.windowWrite (s.ldwin o) v)
  else if o = 0x10 then (if bits v 31 30 = 1 then s.bootLoad else s)
  else if o = 0x40 then s.otpStart (v % 16)
  else if o = 0x44 then (s.plainWrite a v).showHalf
  else if o = 0x300 then s.mrExtend (v % 8)
  else if o = 0x350 then s.quoteStart
  else if o = 0x400 then s.rng
  else if o = 0x500 then
    match v % 4 with
    | 1 => s.challenge
    | 2 => s.unlock
    | 3 => s.lock
    | _ => s
  else s.plainWrite a v

/-! ## TIME -/

def fin2 (n : Nat) : Fin 2 := ⟨n % 2, Nat.mod_lt _ (by decide)⟩
def fin4 (n : Nat) : Fin 4 := ⟨n % 4, Nat.mod_lt _ (by decide)⟩

/-- DCFG: a domain that stops tracking goes to FREE (R344). -/
def State.dcfgWrite (s : State) (b v : Nat) : State :=
  let s1 := s.plainWrite (TIME.DCFG b) v
  if s.rb (TIME.DCFG b) F.TIME_DCFG_EN ∧ !bit v 31 then s1.domToFree (fin2 b) else s1

/-- CMD of a base (R342). -/
def State.tbCommand (s : State) (b : Fin 4) (v : Nat) : State :=
  match bits v 31 30 with
  | 1 => s.tbSet b
  | 2 => s.tbStep b (bit v 29)
  | 3 => s.align b
  | _ => s.baseCmd b 0x0901 (fun u => u)

/-- CALCMD with an invalid OP. -/
def State.calInvalid (s : State) : State :=
  if s.ready TIME.CAL_STATUS then (s.begin_ TIME.CAL_STATUS).post TIME.CAL_STATUS 0x0903 else s

def State.writeBase (s : State) (b o v : Nat) : State :=
  let a := 0x20100 + 0x40 * b + o
  if o = 0x18 then s.tbCommand (fin4 b) v
  else if 2 ≤ b then s.plainWrite a v
  else if o = 0 ∨ o = 4 then s.incWrite (fin2 b) (o == 0) (BitVec.ofNat 32 v)
  else if o = 8 then s.adj (fin2 b) (BitVec.ofNat 32 v)
  else if o = 0x10 then s.dcfgWrite b v
  else s.plainWrite a v

def State.writeTime (s : State) (o v : Nat) : State :=
  let a := 0x20000 + o
  if o = 0 then
    ((s.put TIME.CFG F.TIME_CFG_DOMA (bits v 23 16)).put TIME.CFG F.TIME_CFG_DOMB (bits v 31 24)).refsel (bit v 0)
  else if o = 0x20 then s.tb2ctl (BitVec.ofNat 32 v)
  else if o = 0x30 then s.capture_
  else if 0x100 ≤ o ∧ o < 0x200 then s.writeBase ((o - 0x100) / 0x40) (o % 0x40) v
  else if o = 0x40C then
    match bits v 31 30 with
    | 1 => s.calSet
    | 2 => s.calSync (fin4 v)
    | _ => s.calInvalid
  else s.plainWrite a v

/-! ## EVT and HIF -/

def State.writeEvt (s : State) (o v : Nat) : State :=
  let a := 0x30000 + o
  if o = 0x90 then s.vackWrite 0 v
  else if o = 0x94 then s.vackWrite 1 v
  else if 0xA0 ≤ o ∧ o < 0x200 then (s.plainWrite a v).settle
  else s.plainWrite a v

def State.writeHif (s : State) (o v : Nat) : State :=
  let a := 0x40000 + o
  if 0x400 ≤ o ∧ o < 0x500 then
    let c := (o - 0x400) / 0x40
    if o % 0x40 = 0 then s.dmaCfg c v
    else s.unlessWrite (s.rb (HIF.DMA_CFG c) F.HIF_DMA_CFG_EN && decide (o % 0x40 ≤ 0x10)) a v
  else s.plainWrite a v

/-! ## Wardens -/

def State.writeWdn (s : State) (d o v : Nat) : State :=
  if o = 0x20 then s.policyCommit d (BitVec.ofNat 16 v)
  else if o = 0x40 then s.clOp d (v % 32) (bits v 31 29)
  else if o = 0x60 then
    match bits v 31 30 with
    | 1 => s.rhMove d (bits v 22 18) (BitVec.ofNat 18 v)
    | 2 => s.rhAbort d (BitVec.ofNat 18 v)
    | _ => s.rhInvalid d (bits v 22 18) (BitVec.ofNat 18 v)
  else s.plainWrite (wdnBase d + o) v

/-! ## CSK -/

def State.cskCommand (s : State) (h op : Nat) : State :=
  match op with
  | 1 => s.cskCreate h
  | 2 => s.cskFlush h
  | 3 => s.cskDestroy h
  | _ => s.cskInvalid h

def State.hwCommand (s : State) (h op : Nat) : State :=
  match op with
  | 0 => s.hwPush h
  | 1 => s.hwCommit h
  | 2 => s.hwAbort h
  | _ => s.hwAdv h

def State.writeCsk (s : State) (d o v : Nat) : State :=
  let a := cskBase d + o
  let h := 8192 * d + v % 8192
  if o = 0 then s.cskCommand h (bits v 31 30)
  else if o = 0x30 then s.hwCommand h (bits v 31 30)
  else if 0x1000 ≤ o ∧ o < 0x1800 ∧ o % 0x40 = 8 then s.gack d ((o - 0x1000) / 0x40) (v % 65536)
  else if 0x80000 ≤ o ∧ o % 0x40 < 8 then
    s.unlessWrite (s.rb (CSK.CFG d ((o - 0x80000) / 0x40)) F.CSK_CFG_EN) a v
  else s.plainWrite a v

/-! ## CLS, PLY, PRS and TRC -/

/-- EVT of CLS or PLY: an acknowledgement clears both dies' copies (R286). -/
def State.clearBoth (s : State) (x y v : Nat) : State :=
  s.changed ((s.setReg x (s.reg x &&& ~~~(BitVec.ofNat 32 v))).setReg y (s.reg y &&& ~~~(BitVec.ofNat 32 v)))

def State.writeCls (s : State) (o v : Nat) : State :=
  if o = 0 then s.clsCommand (bits v 31 30)
  else if o = 0x90 then s.clearBoth (clsEvt 0) (clsEvt 1) (v % 8)
  else s.plainWrite (0x300000 + o) v

def State.writePly (s : State) (o v : Nat) : State :=
  let a := 0x400000 + o
  let on := s.rb PLY.CFG F.PLY_CFG_EN
  if o = 0 then (if !bit v 0 then s.put PLY.CFG F.PLY_CFG_EN 0 else if on then s else s.plyEnable)
  else if o = 0x30 then s.clearBoth (plyEvt 0) (plyEvt 1) (v % 16)
  else s.unlessWrite (on && decide (o < 0x20)) a v

def State.writePrs (s : State) (o v : Nat) : State :=
  if o < 0x200 ∧ o % 0x100 = 0 then s.pressCfg (o / 0x100) v else s.plainWrite (0x500000 + o) v

def State.writeTrc (s : State) (o v : Nat) : State :=
  let a := 0x600000 + o
  if o < 0x200 ∧ o % 0x100 = 0 then s.traceCfg (o / 0x100) v
  else if o = 0x4000 then s.skewStart v
  else if 0x1000 ≤ o ∧ o < 0x3000 ∧ o % 0x1000 < 0x800 then
    let d := o / 0x1000 - 1
    let p := o % 0x1000 / 0x80
    if o % 0x80 = 0 then s.pcfgWrite d p v
    else if o % 0x80 = 0x28 then s.rdidxWrite d p v
    else s.unlessWrite (s.rb (TRC.P_PCFG d p) F.TRC_P_PCFG_EN) a v
  else s.plainWrite a v

/-! ## MAC and TDM -/

/-- CFG of a MAC: a MODE that the port does not have leaves MODE unchanged (R302). -/
def State.macCfgWrite (s : State) (m v : Nat) : State :=
  let old := s.rf (MAC.CFG m) F.MAC_CFG_MODE
  let bad := if m = 4 then bits v 25 24 == 3 else decide (2 ≤ bits v 25 24)
  let s1 := s.plainWrite (MAC.CFG m) v
  if bad then s1.put (MAC.CFG m) F.MAC_CFG_MODE old else s1

/-- MDIOCMD: an OP that is none of R302's starts nothing (log 42); what a read returns is the PHY's (log 6). -/
def State.mdioWrite (s : State) (v : Nat) : State :=
  let op := bits v 31 29
  if op = 0 ∨ op = 1 ∨ op = 4 ∨ op = 5 ∨ op = 6 then
    let rd := op == 0 || op == 6
    (s.draw (if rd then 1 else 0)).mdio (BitVec.ofNat 3 op) (BitVec.ofNat 5 (bits v 25 21)) (BitVec.ofNat 5 (bits v 20 16))
      (if rd then (Config.freeWord s.freeCount).setWidth 16 else BitVec.ofNat 16 v) rd
  else s

/-- RQ and TQ registers of MACM. -/
def State.writeQueue (s : State) (o v : Nat) : State :=
  let a := 0x700000 + o
  let r := o % 0x40
  if o < 0x9000 then
    let q := (o - 0x8000) / 0x40
    if r = 8 then s.rqCfg q v else s.unlessWrite (s.rqOn q && decide (r < 8)) a v
  else
    let q := (o - 0x9000) / 0x40
    if r = 8 then s.tqCfg q v else s.unlessWrite (s.tqOn q && decide (r < 8)) a v

def State.writeMac (s : State) (m o v : Nat) : State :=
  let a := macBase m + o
  let on := s.rb (MAC.CTRL m) F.MAC_CTRL_EN
  if o = 0 then (if on then s else s.macCfgWrite m v)
  else if o = 4 then s.macCtrl m v
  else if o = 0xC ∨ o = 0x14 ∨ o = 0x18 ∨ o = 0x1C ∨ o = 0x20 then s.unlessWrite on a v
  else if m = 4 ∧ o = 0x40 then s.mdioWrite v
  else if m = 4 ∧ 0x8000 ≤ o ∧ o < 0x9400 then s.writeQueue o v
  else s.plainWrite a v

/-- CFG of a TDM port: a RATE of 6 or 7 leaves RATE unchanged (R287). -/
def State.tdmCfgWrite (s : State) (p v : Nat) : State :=
  let old := s.rf (TDM.CFG p) F.TDM_CFG_RATE
  let s1 := s.plainWrite (TDM.CFG p) v
  if 6 ≤ v % 8 then s1.put (TDM.CFG p) F.TDM_CFG_RATE old else s1

def State.writeTdm (s : State) (p o v : Nat) : State :=
  let a := tdmBase p + o
  let on := s.rb (TDM.CTRL p) F.TDM_CTRL_EN
  if o = 0 then (if on then s else s.tdmCfgWrite p v)
  else if o = 4 then s.tdmCtrl p v
  else if o = 8 ∨ o = 0x10 ∨ o = 0x14 ∨ o = 0x18 then s.unlessWrite on a v
  else if 0x1000 ≤ o ∧ o < 0x1400 ∧ o % 16 = 0 then s.hdlcCfg p ((o - 0x1000) / 16) v
  else s.plainWrite a v

/-! ## Clusters -/

/-- HPCTL (R157): OP 0b00 asks for nothing. -/
def State.hpCommand (s : State) (n v : Nat) : State :=
  match bits v 31 30 with
  | 1 => s.hpPost n
  | 2 => s.hpDelay n (v % 2 ^ 22)
  | 3 => s.hpCancel n (v % 8192)
  | _ => s

/-- A doorbell (R182). -/
def State.ringDoorbell (s : State) (n k v : Nat) : State :=
  let version := BitVec.ofNat 16 v
  match bits v 31 30 with
  | 0 => s.commit n k (bit v 29) (bit v 28) (bits v 27 22) version
  | 1 => s.delete n k version
  | _ => s.badDoorbell n k version

/-- ACMD (R188). -/
def State.acmdWrite (s : State) (n v : Nat) : State :=
  match bits v 31 30 with
  | 1 => s.alloc n (BitVec.ofNat 18 v)
  | 2 => s.freeSlot n (v % 8192)
  | 3 => s.query n (BitVec.ofNat 18 v)
  | _ => s.acmd n 0x0414 (fun u => u)

def State.writeCtx (s : State) (n o v : Nat) : State :=
  let a := clBase n + 0x10000 + o
  if o = 0 then s.acmdWrite n v
  else if 0x8000 ≤ o then s.ringDoorbell n ((o - 0x8000) / 4) v
  else if o = 0x48 then (s.plainWrite a v).reassess n
  else s.plainWrite a v

/-- CFG of an accelerator: EN is not cleared while units are in use (R216, R228, R241, R266). -/
def State.enWrite (s : State) (n a use v : Nat) : State :=
  let keep := use != 0 && bit (s.rv a) 0
  (s.plainWrite a (if keep ∧ !bit v 0 then v + 1 else v)).reassess n

/-- A profile word: ignored while the profile has users (R216, R229, R242). -/
def State.writeVat (s : State) (n o v : Nat) : State :=
  let a := clBase n + 0x20000 + o
  if o = 0 then s.enWrite n a (s.useOf n).vat v
  else s.unlessWrite (decide (0x400 ≤ o) && decide (o < 0x600) &&
    s.rf (VAT.USERS n ((o - 0x400) / 0x20)) F.VAT_USERS_USERS != 0) a v

def State.writeTone (s : State) (n o v : Nat) : State :=
  let a := clBase n + 0x30000 + o
  let users (i : Nat) : Bool := s.rf (TONE.DUSERS n i) F.TONE_DUSERS_USERS != 0
  if o = 0 then s.enWrite n a (s.useOf n).tone v
  else if 0x400 ≤ o ∧ o < 0x600 then s.unlessWrite (users ((o - 0x400) / 0x20)) a v
  else if 0x800 ≤ o ∧ o < 0x900 then
    s.unlessWrite ((List.range 16).any (fun i => users i && bit (s.rf (TONE.DPW0 n i) F.TONE_DPW0_CPMASK) ((o - 0x800) / 16))) a v
  else if 0xC00 ≤ o ∧ o < 0xE00 then
    s.unlessWrite (s.rf (TONE.GUSERS n ((o - 0xC00) / 0x20)) F.TONE_GUSERS_USERS != 0) a v
  else s.plainWrite a v

def State.writeVde (s : State) (n o v : Nat) : State :=
  let a := clBase n + 0x50000 + o
  if o = 0 then s.enWrite n a (s.useOf n).vde v
  else s.unlessWrite (decide (0x400 ≤ o) && decide (o < 0x600) &&
    s.rf (VDE.USERS n ((o - 0x400) / 0x20)) F.VDE_USERS_USERS != 0) a v

def State.writeSrc (s : State) (n o v : Nat) : State :=
  let a := clBase n + 0x40000 + o
  if o = 0 then s.enWrite n a (s.useOf n).src v
  else if o = 0x20 then s.srcUcmd n (bits v 31 30) (v % 4)
  else s.plainWrite a v

/-! ## The tile's debug registers (R105; log 42) -/

/-- The register at an offset of the debug window. -/
def windowReg (o : Nat) : Option CReg :=
  if o < 0x1000 then none
  else if o < 0x1080 then some (.g ⟨(o - 0x1000) / 4 % 32, Nat.mod_lt _ (by decide)⟩)
  else if o < 0x1100 then none
  else if o < 0x1180 then
    match o % 16 / 4 with
    | 0 => some (.accPart ⟨(o - 0x1100) / 16 % 8, Nat.mod_lt _ (by decide)⟩ 0)
    | 1 => some (.accPart ⟨(o - 0x1100) / 16 % 8, Nat.mod_lt _ (by decide)⟩ 1)
    | 2 => some (.accPart ⟨(o - 0x1100) / 16 % 8, Nat.mod_lt _ (by decide)⟩ 2)
    | _ => none
  else if o < 0x1200 then none
  else if o < 0x1240 then some (.p ⟨(o - 0x1200) / 4 % 16, Nat.mod_lt _ (by decide)⟩)
  else if o < 0x1260 then some (.m ⟨(o - 0x1240) / 4 % 8, Nat.mod_lt _ (by decide)⟩)
  else if o < 0x1280 then some (.cbase ⟨(o - 0x1260) / 4 % 8, Nat.mod_lt _ (by decide)⟩)
  else if o < 0x12A0 then some (.clen ⟨(o - 0x1280) / 4 % 8, Nat.mod_lt _ (by decide)⟩)
  else if o < 0x12B0 then some (.lc ⟨(o - 0x12A0) / 4 % 4, Nat.mod_lt _ (by decide)⟩)
  else if o = 0x12B0 then some .qvec
  else if o < 0x1300 then none
  else if o < 0x1380 then some (.ctl ⟨(o - 0x1300) / 4 % 32, Nat.mod_lt _ (by decide)⟩)
  else none

/-- A control register written by the debugger: STAT and CTRL as their maps say, TILEID fixed, every other set. -/
def Core.debugCtl (c : Core) (k : Nat) (v : Word) : Core :=
  match k with
  | 2 => { c with pc := v }
  | 3 => { c with cyc := v }
  | 4 => { c with ilim := v }
  | 5 => { c with itid := v.setWidth 18 }
  | 7 => { c with tb2s := v }
  | 8 => { c with tb2ns := v }
  | _ =>
    if 9 ≤ k ∧ k < 13 then { c with lstart := c.lstart.set ((k - 9) % 4) v (Nat.mod_lt _ (by decide)) }
    else if 13 ≤ k ∧ k < 17 then { c with lend := c.lend.set ((k - 13) % 4) v (Nat.mod_lt _ (by decide)) }
    else c

def Core.debugWrite (c : Core) (r : CReg) (v : Word) : Core :=
  match r with
  | .ctl k => if k.val < 2 then c.write (.ctl k) (v.setWidth 72) else c.debugCtl k.val v
  | _ => c.write r (v.setWidth 72)

/-- The debug window is open: the tile is halted. -/
def State.haltedAt (s : State) (n t : Nat) : Bool := s.rb (TILE.STATE n t) F.TILE_STATE_HALTED

/-- HALT, RESUME or STEP, by bit number. -/
def State.debugAct (s : State) (n t k : Nat) : State :=
  match k with
  | 0 => s.haltTile n t
  | 1 => s.resumeTile n t
  | _ => if s.haltedAt n t then s.setCore n t { s.core n t with stepping := true } else s

/-- DBG_CTRL: where more than one action is asked for at once, which of them acts is open (log 42). -/
def State.dbgCtrl (s : State) (n t v : Nat) : State :=
  let s1 := s.plainWrite (TILE.DBG_CTRL n t) v
  match (List.range 3).filter (fun k => bit v k) with
  | [] => s1
  | [k] => s1.debugAct n t k
  | k :: l => (s1.draw 1).debugAct n t ((k :: l).getD (Config.freeNat s1.freeCount % (l.length + 1)) k)

def State.writeTile (s : State) (n t o v : Nat) : State :=
  let a := tileBase n t + o
  if 0x400 ≤ o ∧ o < 0x1380 then
    if !s.dbgOpen then s
    else if o = 0x400 then s.dbgCtrl n t v
    else if o < 0x1000 then s.plainWrite a v
    else if !s.haltedAt n t then s
    else match windowReg o with
      | some r => s.setCore n t ((s.core n t).debugWrite r (BitVec.ofNat 32 v))
      | none => s
  else if o = 0x10 ∧ bit v 31 then (s.plainWrite a v).put a F.TILE_EXC_INFO_MORE 0
  else s.plainWrite a v

def State.writeCluster (s : State) (n o v : Nat) : State :=
  if o < 0x10000 then (if o = 0x40 then s.hpCommand n v else s.plainWrite (clBase n + o) v)
  else if o < 0x20000 then s.writeCtx n (o - 0x10000) v
  else if o < 0x30000 then s.writeVat n (o - 0x20000) v
  else if o < 0x40000 then s.writeTone n (o - 0x30000) v
  else if o < 0x50000 then s.writeSrc n (o - 0x40000) v
  else if o < 0x60000 then s.writeVde n (o - 0x50000) v
  else if 0x80000 ≤ o ∧ o < 0xE0000 then s.writeTile n ((o - 0x80000) / 0x8000) (o % 0x8000) v
  else s

/-! ## A register write -/

/-- The write of a register that the access reaches, by block (R43). -/
def State.writeReg (s : State) (a v : Nat) : State :=
  if a < 0x10000 then s.writeGlb a v
  else if a < 0x20000 then s.writeSec (a - 0x10000) v
  else if a < 0x30000 then s.writeTime (a - 0x20000) v
  else if a < 0x40000 then s.writeEvt (a - 0x30000) v
  else if a < 0x50000 then s.writeHif (a - 0x40000) v
  else if a < 0x70000 then s.writeWdn ((a - 0x50000) / 0x10000) (a % 0x10000) v
  else if a < 0x80000 then s
  else if a < 0xC0000 then
    (if a % 0x10000 = 0 then s.ddrWrite ((a - 0x80000) / 0x10000) v else s.plainWrite a v)
  else if a < 0x100000 then s.plainWrite a v
  else if a < 0x300000 then s.writeCsk (a / 0x100000 - 1) (a % 0x100000) v
  else if a < 0x400000 then s.writeCls (a - 0x300000) v
  else if a < 0x500000 then s.writePly (a - 0x400000) v
  else if a < 0x600000 then s.writePrs (a - 0x500000) v
  else if a < 0x700000 then s.writeTrc (a - 0x600000) v
  else if a < 0x710000 then s.writeMac 4 (a - 0x700000) v
  else if a < 0x800000 then s
  else if a < 0x840000 then s.writeMac ((a - 0x800000) / 0x10000) (a % 0x10000) v
  else if a < 0x1000000 then s
  else if a < 0x1300000 then s.writeTdm ((a - 0x1000000) / 0x10000) (a % 0x10000) v
  else if a < 0x2000000 then s
  else if a < 0x4000000 then s.writeCluster ((a - 0x2000000) / 0x100000) (a % 0x100000) v
  else s

/-- A host write of a register through a port: partial byte enables leave it unchanged (R17); a target that is not reached
discards it (R437). -/
def State.regWrite (s : State) (port a : Nat) (be v : Nat) : State :=
  match s.reach port a false with
  | .decode => s.dropDecode
  | .unreachable => s.dropOther
  | .silent => s
  | .ok => if be % 16 = 15 then s.writeReg a v else s.dropPartial

/-- REGISTER_WRITE: a host write over PCIe of the register that holds a BAR0 offset. -/
def execRegisterWrite (off : BitVec 26) (be : BitVec 4) (val : BitVec 32) (s : State) : Result :=
  .next (s.regWrite 0 (off.toNat / 4 * 4) be.toNat val.toNat)

/-! ## Memory through BAR2 (R44, R46) -/

/-- The DPA of a BAR2 offset (R44). -/
def State.bar2 (s : State) (o : Nat) : Nat :=
  s.rf (HIF.AP0 + 4 * (o / 0x10000000 % 4)) ⟨11, 0⟩ * 0x10000000 + o % 0x10000000

/-- What a host access to memory meets (R38, R39, R68, R321, R416). -/
def State.memReach (s : State) (a : Nat) : Reach :=
  if s.package.held then .silent
  else if !s.booted then .decode
  else if s.dormant then .silent
  else if s.divided && dieAt a == 1 then .unreachable
  else if !s.mapped a then .decode
  else if s.offAt a then .silent
  else .ok

/-- A host write within one aligned 64-bit word of memory: a ROM write counts as a decode error, a part of a poisoned word
is discarded (R39, R64, R437). `ecc`: what SECDED finds in a word that is written in part (R62, R63). -/
def State.wordWrite (s : State) (a : Nat) (bs : List (Option Byte)) (ecc : Ecc) : State :=
  match s.memReach a with
  | .decode => s.dropDecode
  | .unreachable => s.dropOther
  | .silent => s
  | .ok =>
    if !s.writable a then s.dropDecode
    else if coversWord a bs (a / 8) then s.writeOpt a bs
    else
      let s1 := if s.poisoned a then s else s.eccAt a ecc
      if s1.poisoned a then s1.dropOther else s1.writeOpt a bs

/-- The bytes of a write that belong to offsets lo to hi - 1, of a write at o. -/
def cut (o : Nat) (bs : List (Option Byte)) (lo hi : Nat) : List (Option Byte) := (bs.drop (lo - o)).take (hi - lo)

/-- A part of a BAR2 write within one aligned 64-bit word: a register segment is written register by register. -/
def State.bar2Word (s : State) (port o : Nat) (bs : List (Option Byte)) (ecc : Ecc) : State :=
  if !bs.any Option.isSome then s
  else
    let a := s.bar2 o
    if a < 0x4000000 then
      each s [a / 8 * 8, a / 8 * 8 + 4] (fun u r =>
        let l := (List.range 4).map (fun i => if r + i < a then none else (bs[r + i - a]?).getD none)
        if !l.any Option.isSome then u
        else u.regWrite port r (if l.all Option.isSome then 15 else 0)
          (leNat (l.map (fun b => b.getD 0))))
    else s.wordWrite a bs ecc

/-- A write through BAR2: word by word in ascending order, within the 1 GiB of the BAR. `eccs`: what SECDED finds in each
of those words, as far as it is listed. -/
def State.bar2Write (s : State) (port o : Nat) (bs : List (Option Byte)) (eccs : List Ecc) : State :=
  each s (List.range ((o % 8 + bs.length + 7) / 8)) (fun u i =>
    let w := o / 8 * 8 + 8 * i
    let lo := max o w
    u.bar2Word port (lo % 0x40000000) (cut o bs lo (w + 8)) (eccs.getD i .ok))

/-- HOST_MEMORY_WRITE. -/
def execHostMemoryWrite (o : MemAt 30) (bytes : List (Option (BitVec 8))) (s : State) : Result :=
  .next (s.bar2Write 0 o.offset.toNat bytes o.eccs)

/-! ## What a register reads (R16, R19) -/

/-- Flags as bits, the first lowest. -/
def flags (l : List Bool) : Nat := bitsNat l.reverse

/-- A USE and CAP word (R209). -/
def useCap (use cap : Nat) : Nat := use % 8192 + 65536 * cap

/-- The registers of a cask that show its content (R143). -/
def State.readCask (s : State) (d c r : Nat) : Word :=
  let h := 8192 * d + c
  let k := s.cask h
  if r = 8 then BitVec.ofNat 32 (if s.caskOn h then k.used else 0)
  else if r = 0xC then BitVec.ofNat 32 (if s.caskOn h then s.credit h else 0)
  else if r = 0x30 then (s.peek h).2
  else if (s.peek h).1.poison then BitVec.ofNat 32 0xFFFFFFFF
  else (s.peek h).1.val.extractLsb' (32 * ((r - 0x20) / 4)) 32

/-- The registers of a cluster that show what the scheduler, the engine and the accelerators hold. -/
def State.readCluster (s : State) (n o : Nat) : Option Word :=
  let c := s.cluster n
  let pend := c.pend
  let cap := s.cap n
  let use := s.useOf n
  let w (x : Nat) : Option Word := some (BitVec.ofNat 32 x)
  if o = 0xC then w (c.timers.length % 16384 * 65536 + pend.length)
  else if o = 0x10 then w (flags ((List.range 12).map (fun t => s.tileIdle n t && s.inDispatch n t)) +
    65536 * flags ((List.range 12).map (s.inDispatch n)))
  else if 0x200 ≤ o ∧ o < 0x220 then w ((pend.filter (fun i => i.cls.toNat == (o - 0x200) / 4)).length)
  else if o = 0x10040 then w (s.budget n)
  else if o = 0x10044 then w (s.load n)
  else if o = 0x1004C then w ((s.slotsOf n).filter (fun e => e.2.st != .free)).length
  else if o = 0x10050 then w (useCap use.vat cap.vat)
  else if o = 0x10054 then w (useCap use.tone cap.tone)
  else if o = 0x10058 then w (useCap use.src cap.src)
  else if o = 0x1005C then w (useCap use.vde cap.vde)
  else if 0x18000 ≤ o ∧ o < 0x20000 then
    let x := s.slot n ((o - 0x18000) / 4)
    w (slotCode x.st * 2 ^ 29 + x.inForce.toNat)
  else if o = 0x20004 then some (fset F.VAT_STATUS_CAP (s.reg (VAT.STATUS n)) cap.vat)
  else if o = 0x30004 then w (65536 * cap.tone)
  else if o = 0x40004 then w (65536 * cap.src)
  else if o = 0x50004 then w (65536 * cap.vde)
  else if 0x80000 ≤ o ∧ o < 0xE0000 ∧ 0x400 ≤ o % 0x8000 ∧ o % 0x8000 < 0x1380 then
    let t := (o - 0x80000) / 0x8000
    let r := o % 0x8000
    if !s.dbgOpen then some 0
    else if r < 0x1000 then none
    else if !s.haltedAt n t then some 0
    else match windowReg r with
      | some g => some ((s.core n t).read n t g)
      | none => some 0
  else none

/-- STATE of a probe: idle, armed, capturing after a trigger, held off, paused (R388). -/
def State.probeState (s : State) (d p : Nat) : Nat :=
  let x := s.probe d p
  if !x.armed then 0 else if x.paused then 4 else if x.trig.isSome then 2 else if s.heldOff d p (s.tb2nsOn d) then 3 else 1

/-- What a register that is reached reads: what it holds, or what it shows of the rest of the state. -/
def State.readReg (s : State) (a : Nat) : Word :=
  let w (x : Nat) : Word := BitVec.ofNat 32 x
  let bitsOf (f : Nat → Bool) (b : Nat) : Word := w (flags ((List.range 32).map (fun i => f (32 * b + i))))
  if 0x18000 ≤ a ∧ a < 0x20000 then (if s.booted then 0 else w (s.le (s.ldwin (a - 0x10000)) 4))
  else if 0x30000 ≤ a ∧ a < 0x30020 then bitsOf s.asserted ((a - 0x30000) / 4)
  else if 0x30020 ≤ a ∧ a < 0x30040 then bitsOf s.active ((a - 0x30020) / 4)
  else if a = 0x30080 ∨ a = 0x30084 then bitsOf s.vectorActive ((a - 0x30080) / 4)
  else if a = 0x100050 ∨ a = 0x200050 then w (s.openPkts (a / 0x100000 - 1))
  else if 0x100000 ≤ a ∧ a < 0x300000 ∧ 0x80000 ≤ a % 0x100000 ∧
      (a % 0x40 = 8 ∨ a % 0x40 = 0xC ∨ (0x20 ≤ a % 0x40 ∧ a % 0x40 ≤ 0x30)) then
    s.readCask (a / 0x100000 - 1) ((a % 0x100000 - 0x80000) / 0x40) (a % 0x40)
  else if a = CLS.EVT then s.reg (clsEvt 0) ||| s.reg (clsEvt 1)
  else if a = PLY.EVT then s.reg (plyEvt 0) ||| s.reg (plyEvt 1)
  else if 0x601000 ≤ a ∧ a < 0x603000 ∧ a % 0x1000 < 0x800 ∧ a % 0x80 = 0x2C then
    w (s.probeState (a / 0x1000 % 16 - 1) (a % 0x1000 / 0x80))
  else match windowOf a with
    | some n => (s.readCluster n (a % 0x100000)).getD (s.reg a)
    | none => s.reg a

/-- A read word, whether it was poisoned, and whether it met a decode error. -/
structure ReadWord where
  val : Word
  poison : Bool
  decode : Bool
  deriving DecidableEq, Repr

/-- The word of PEEK at an address is poisoned (R63). -/
def State.peekPoison (s : State) (a : Nat) : Bool :=
  decide (0x100000 ≤ a) && decide (a < 0x300000) && decide (0x80000 ≤ a % 0x100000) && decide (0x20 ≤ a % 0x40) &&
    decide (a % 0x40 < 0x30) && (s.peek (8192 * (a / 0x100000 - 1) + (a % 0x100000 - 0x80000) / 0x40)).1.poison

/-- A register read through a port. LDWIN shows Cellar, with its poison. -/
def State.regRead (s : State) (port a : Nat) : ReadWord :=
  match s.reach port a true with
  | .decode => ⟨0, false, true⟩
  | .unreachable => ⟨0, false, false⟩
  | .silent => ⟨0, false, false⟩
  | .ok =>
    let bad := if 0x18000 ≤ a ∧ a < 0x20000 then !s.booted && s.poisoned (s.ldwin (a - 0x10000)) else s.peekPoison a
    if bad then ⟨BitVec.ofNat 32 0xFFFFFFFF, true, false⟩ else ⟨s.readReg a, false, false⟩

/-- A read of a word through BAR2. -/
def State.bar2Read (s : State) (port o : Nat) : ReadWord :=
  let a := s.bar2 o
  if a < 0x4000000 then s.regRead port a
  else match s.memReach a with
    | .decode => ⟨0, false, true⟩
    | .unreachable => ⟨0, false, false⟩
    | .silent => ⟨0, false, false⟩
    | .ok =>
      if s.poisoned a then ⟨BitVec.ofNat 32 0xFFFFFFFF, true, false⟩ else ⟨BitVec.ofNat 32 (s.le a 4), false, false⟩

/-- What SECDED finds in a word that a host read through BAR2 reaches (R62, R63). -/
def State.bar2Ecc (s : State) (o : Nat) (ecc : Ecc) : State :=
  let a := s.bar2 o
  if a < 0x4000000 ∨ s.memReach a ≠ .ok ∨ s.poisoned a then s else s.eccAt a ecc

/-- A host read of a dword is counted where it met a decode error or returned poison (R437, R333). -/
def State.readCounted (s : State) (r : ReadWord) : State :=
  if r.decode then (s.bump HIF.RDDECODE_LO HIF.EVT F.HIF_EVT_HCNT).raise HIF.EVT F.HIF_EVT_DECODE
  else if r.poison then
    ((s.bump HIF.POISONRD_LO HIF.EVT F.HIF_EVT_HCNT).raise HIF.EVT F.HIF_EVT_POISONRD).errClass 15
  else s

/-- HIF_FENCE_READ: the writes of every earlier command have been performed, so the read completes at once and changes
nothing but what a decode error counts (R19, R58). -/
def execHifFenceRead (s : State) : Result := .next (s.readCounted (s.regRead 0 HIF.FENCE))

/-! ## Keyway (R325, R326) -/

/-- The BAR offsets of n words from an address; its two lowest bits and those above the BAR are ignored (log 42). -/
def keywayAt (size addr n : Nat) : List Nat := (List.range n).map (fun i => (addr / 4 * 4 + 4 * i) % size)

/-- A read frame: every word is read, then the start byte and the words go out. -/
def State.keywayRead (s : State) (rs : List ReadWord) : State :=
  if s.package.held then s
  else
    let start : Byte := BitVec.ofNat 8 (0xA0 + 2 * b2n (rs.any (·.poison)) + b2n (rs.any (·.decode)))
    (each s rs State.readCounted).emit (.keyway start (rs.map (·.val)))

/-- The complete words of a write frame, in order: a frame has 64 at most. -/
def State.keywayWrite (s : State) (bar2 : Bool) (addr : Nat) (words : List (BitVec 32)) (eccs : List Ecc) : State :=
  if s.package.held then s
  else if bar2 then
    each s (((keywayAt 0x40000000 addr 64).zip words).zipIdx) (fun u e =>
      u.bar2Write 1 e.1.1 ((leBytes 4 e.1.2.toNat).map some) [eccs.getD e.2 .ok])
  else
    each s ((keywayAt 0x4000000 addr 64).zip words) (fun u e => u.regWrite 1 e.1 15 e.2.toNat)

def execKeywayReadBar0 (addr : BitVec 32) (count : BitVec 6) (s : State) : Result :=
  .next (s.keywayRead ((keywayAt 0x4000000 addr.toNat (count.toNat + 1)).map (s.regRead 1)))

def execKeywayWriteBar0 (addr : BitVec 32) (words : List (BitVec 32)) (s : State) : Result :=
  .next (s.keywayWrite false addr.toNat words [])

/-- KEYWAY_READ_BAR2. -/
def execKeywayReadBar2 (addr : MemAt 32) (count : BitVec 6) (s : State) : Result :=
  let offs := keywayAt 0x40000000 addr.offset.toNat (count.toNat + 1)
  let s1 := if s.package.held then s else each s offs.zipIdx (fun u e => u.bar2Ecc e.1 (addr.eccs.getD e.2 .ok))
  .next (s1.keywayRead (offs.map (s1.bar2Read 1)))

/-- KEYWAY_WRITE_BAR2: each word is a part of a 64-bit word. -/
def execKeywayWriteBar2 (addr : MemAt 32) (words : List (BitVec 32)) (s : State) : Result :=
  .next (s.keywayWrite true addr.offset.toNat words addr.eccs)

/-- KEYWAY_CS_RISE_EARLY: complete write words are kept, the incomplete one is discarded and counted; a read that ends
early has no effect. -/
def execKeywayCsRiseEarly (write bar2 : Bool) (addr : BitVec 32) (words : List (BitVec 32)) (s : State) : Result :=
  .next (if !write ∨ s.package.held then s
    else (((s.keywayWrite bar2 addr.toNat words []).bump HIF.KWABORT_LO HIF.EVT F.HIF_EVT_HCNT).raise HIF.EVT F.HIF_EVT_KWABORT))

end Sys2Proof.Machine
end

