-- ==== Sys2Proof/Machine/Dispatch.lean ====
section
/-!
DEFINITION. The effect of each command: one arm for each constructor of `Instr`.
-/

namespace Sys2Proof.Machine

def exec (i : Instr) (s : State) : Host.Outcome State Fault Refusal :=
  match i with
  | .registerWrite off be val => Sys2Proof.Machine.execRegisterWrite off be val s
  | .hostMemoryWrite o bytes => Sys2Proof.Machine.execHostMemoryWrite o bytes s
  | .hifFenceRead => Sys2Proof.Machine.execHifFenceRead s
  | .keywayReadBar0 addr count => Sys2Proof.Machine.execKeywayReadBar0 addr count s
  | .keywayWriteBar0 addr words => Sys2Proof.Machine.execKeywayWriteBar0 addr words s
  | .keywayReadBar2 addr count => Sys2Proof.Machine.execKeywayReadBar2 addr count s
  | .keywayWriteBar2 addr words => Sys2Proof.Machine.execKeywayWriteBar2 addr words s
  | .keywayCsRiseEarly write bar2 addr words => Sys2Proof.Machine.execKeywayCsRiseEarly write bar2 addr words s
  | .pcieLinkDown cause => Sys2Proof.Machine.execPcieLinkDown cause s
  | .hingeFlitRetry lane attempt => Sys2Proof.Machine.execHingeFlitRetry lane attempt s
  | .crossbarFlitRetry d port attempt => Sys2Proof.Machine.execCrossbarFlitRetry d port attempt s
  | .dvfsReq island point trim => Sys2Proof.Machine.execDvfsReq island point trim s
  | .dvfsTransitionEnd => Sys2Proof.Machine.execDvfsTransitionEnd s
  | .thermalSample readings => Sys2Proof.Machine.execThermalSample readings s
  | .ceilStep => Sys2Proof.Machine.execCeilStep s
  | .ceilRise island => Sys2Proof.Machine.execCeilRise island s
  | .pwrEnter => Sys2Proof.Machine.execPwrEnter s
  | .dormantEntryComplete => Sys2Proof.Machine.execDormantEntryComplete s
  | .pwrExit => Sys2Proof.Machine.execPwrExit s
  | .wakeN lowNs => Sys2Proof.Machine.execWakeN lowNs s
  | .dormantExitComplete => Sys2Proof.Machine.execDormantExitComplete s
  | .add h rd rs rt => Sys2Proof.Machine.execAdd h rd rs rt s
  | .sub h rd rs rt => Sys2Proof.Machine.execSub h rd rs rt s
  | .adds h rd rs rt => Sys2Proof.Machine.execAdds h rd rs rt s
  | .subs h rd rs rt => Sys2Proof.Machine.execSubs h rd rs rt s
  | .add2 h rd rs rt => Sys2Proof.Machine.execAdd2 h rd rs rt s
  | .sub2 h rd rs rt => Sys2Proof.Machine.execSub2 h rd rs rt s
  | .add2s h rd rs rt => Sys2Proof.Machine.execAdd2s h rd rs rt s
  | .sub2s h rd rs rt => Sys2Proof.Machine.execSub2s h rd rs rt s
  | .and h rd rs rt => Sys2Proof.Machine.execAnd h rd rs rt s
  | .or h rd rs rt => Sys2Proof.Machine.execOr h rd rs rt s
  | .xor h rd rs rt => Sys2Proof.Machine.execXor h rd rs rt s
  | .andn h rd rs rt => Sys2Proof.Machine.execAndn h rd rs rt s
  | .shl h rd rs rt => Sys2Proof.Machine.execShl h rd rs rt s
  | .shr h rd rs rt => Sys2Proof.Machine.execShr h rd rs rt s
  | .sra h rd rs rt => Sys2Proof.Machine.execSra h rd rs rt s
  | .shls h rd rs rt => Sys2Proof.Machine.execShls h rd rs rt s
  | .min h rd rs rt => Sys2Proof.Machine.execMin h rd rs rt s
  | .max h rd rs rt => Sys2Proof.Machine.execMax h rd rs rt s
  | .minu h rd rs rt => Sys2Proof.Machine.execMinu h rd rs rt s
  | .maxu h rd rs rt => Sys2Proof.Machine.execMaxu h rd rs rt s
  | .abs h rd rs => Sys2Proof.Machine.execAbs h rd rs s
  | .abss h rd rs => Sys2Proof.Machine.execAbss h rd rs s
  | .neg h rd rs => Sys2Proof.Machine.execNeg h rd rs s
  | .negs h rd rs => Sys2Proof.Machine.execNegs h rd rs s
  | .mov h rd rs => Sys2Proof.Machine.execMov h rd rs s
  | .clz h rd rs => Sys2Proof.Machine.execClz h rd rs s
  | .norm h rd rs => Sys2Proof.Machine.execNorm h rd rs s
  | .norm16 h rd rs => Sys2Proof.Machine.execNorm16 h rd rs s
  | .packll h rd rs rt => Sys2Proof.Machine.execPackll h rd rs rt s
  | .packhh h rd rs rt => Sys2Proof.Machine.execPackhh h rd rs rt s
  | .sxh h rd rs => Sys2Proof.Machine.execSxh h rd rs s
  | .zxh h rd rs => Sys2Proof.Machine.execZxh h rd rs s
  | .sat16 h rd rs => Sys2Proof.Machine.execSat16 h rd rs s
  | .addi h rd rs imm => Sys2Proof.Machine.execAddi h rd rs imm s
  | .andi h rd rs imm => Sys2Proof.Machine.execAndi h rd rs imm s
  | .ori h rd rs imm => Sys2Proof.Machine.execOri h rd rs imm s
  | .shi h func rd rs amt => Sys2Proof.Machine.execShi h func rd rs amt s
  | .movi h rd imm => Sys2Proof.Machine.execMovi h rd imm s
  | .movih h rd imm => Sys2Proof.Machine.execMovih h rd imm s
  | .cmp h cond qd rs rt => Sys2Proof.Machine.execCmp h cond qd rs rt s
  | .cmpi h cond qd rs imm => Sys2Proof.Machine.execCmpi h cond qd rs imm s
  | .qop h func qd qa na qb nb => Sys2Proof.Machine.execQop h func qd qa na qb nb s
  | .rnd h rd rs amt rndf => Sys2Proof.Machine.execRnd h rd rs amt rndf s
  | .divs h rd rs => Sys2Proof.Machine.execDivs h rd rs s
  | .mpy16 h accd f m14 m13 ra bsel => Sys2Proof.Machine.execMpy16 h accd f m14 m13 ra bsel s
  | .mac16 h accd f m14 m13 ra bsel => Sys2Proof.Machine.execMac16 h accd f m14 m13 ra bsel s
  | .msu16 h accd f m14 m13 ra bsel => Sys2Proof.Machine.execMsu16 h accd f m14 m13 ra bsel s
  | .mpy2 h accd f m14 m13 ra bsel => Sys2Proof.Machine.execMpy2 h accd f m14 m13 ra bsel s
  | .mac2 h accd f m14 m13 ra bsel => Sys2Proof.Machine.execMac2 h accd f m14 m13 ra bsel s
  | .msu2 h accd f m14 m13 ra bsel => Sys2Proof.Machine.execMsu2 h accd f m14 m13 ra bsel s
  | .mpyp h accd f m14 m13 ra bsel => Sys2Proof.Machine.execMpyp h accd f m14 m13 ra bsel s
  | .macp h accd f m14 m13 ra bsel => Sys2Proof.Machine.execMacp h accd f m14 m13 ra bsel s
  | .msup h accd f m14 m13 ra bsel => Sys2Proof.Machine.execMsup h accd f m14 m13 ra bsel s
  | .mpyw h accd f m14 m13 ra bsel => Sys2Proof.Machine.execMpyw h accd f m14 m13 ra bsel s
  | .macw h accd f m14 m13 ra bsel => Sys2Proof.Machine.execMacw h accd f m14 m13 ra bsel s
  | .msuw h accd f m14 m13 ra bsel => Sys2Proof.Machine.execMsuw h accd f m14 m13 ra bsel s
  | .mpyl h accd f m14 m13 ra bsel => Sys2Proof.Machine.execMpyl h accd f m14 m13 ra bsel s
  | .macl h accd f m14 m13 ra bsel => Sys2Proof.Machine.execMacl h accd f m14 m13 ra bsel s
  | .msul h accd f m14 m13 ra bsel => Sys2Proof.Machine.execMsul h accd f m14 m13 ra bsel s
  | .ext h rd accs tgt shift rndf => Sys2Proof.Machine.execExt h rd accs tgt shift rndf s
  | .aclr h accd => Sys2Proof.Machine.execAclr h accd s
  | .amov h accd accs => Sys2Proof.Machine.execAmov h accd accs s
  | .aadd h accd accs => Sys2Proof.Machine.execAadd h accd accs s
  | .asub h accd accs => Sys2Proof.Machine.execAsub h accd accs s
  | .aneg h accd accs => Sys2Proof.Machine.execAneg h accd accs s
  | .aabs h accd accs => Sys2Proof.Machine.execAabs h accd accs s
  | .ashl h accd amt => Sys2Proof.Machine.execAshl h accd amt s
  | .asra h accd amt => Sys2Proof.Machine.execAsra h accd amt s
  | .nop h => Sys2Proof.Machine.execNop h s
  | .ldB h rd pn mode off ecc => Sys2Proof.Machine.execLdB h rd pn mode off ecc s
  | .ldBu h rd pn mode off ecc => Sys2Proof.Machine.execLdBu h rd pn mode off ecc s
  | .ldH h rd pn mode off ecc => Sys2Proof.Machine.execLdH h rd pn mode off ecc s
  | .ldHu h rd pn mode off ecc => Sys2Proof.Machine.execLdHu h rd pn mode off ecc s
  | .ldW h rd pn mode off ecc => Sys2Proof.Machine.execLdW h rd pn mode off ecc s
  | .ldD h rd pn mode off ecc => Sys2Proof.Machine.execLdD h rd pn mode off ecc s
  | .stB h rs pn mode off => Sys2Proof.Machine.execStB h rs pn mode off s
  | .stH h rs pn mode off => Sys2Proof.Machine.execStH h rs pn mode off s
  | .stW h rs pn mode off => Sys2Proof.Machine.execStW h rs pn mode off s
  | .stD h rs pn mode off => Sys2Proof.Machine.execStD h rs pn mode off s
  | .movx h dst src => Sys2Proof.Machine.execMovx h dst src s
  | .pmovi h pn imm => Sys2Proof.Machine.execPmovi h pn imm s
  | .padd h pn usem imm => Sys2Proof.Machine.execPadd h pn usem imm s
  | .tbrd h rd => Sys2Proof.Machine.execTbrd h rd s
  | .br h off => Sys2Proof.Machine.execBr h off s
  | .bl h off => Sys2Proof.Machine.execBl h off s
  | .jr h rs => Sys2Proof.Machine.execJr h rs s
  | .loop h rs body => Sys2Proof.Machine.execLoop h rs body s
  | .loopi h body count => Sys2Proof.Machine.execLoopi h body count s
  | .ret h => Sys2Proof.Machine.execRet h s
  | .fence h scope kind => Sys2Proof.Machine.execFence h scope kind s
  | .ckw h rs rc qd => Sys2Proof.Machine.execCkw h rs rc qd s
  | .ckc h rc => Sys2Proof.Machine.execCkc h rc s
  | .ckcRel h rc => Sys2Proof.Machine.execCkcRel h rc s
  | .cka h rc => Sys2Proof.Machine.execCka h rc s
  | .ckr h rd rc rs ecc => Sys2Proof.Machine.execCkr h rd rc rs ecc s
  | .wpost h rs rt qd => Sys2Proof.Machine.execWpost h rs rt qd s
  | .wdelay h rs rt qd => Sys2Proof.Machine.execWdelay h rs rt qd s
  | .overrun cl t => Sys2Proof.Machine.execOverrun cl t s
  | .halt cl t => Sys2Proof.Machine.execHalt cl t s
  | .step cl t => Sys2Proof.Machine.execStep cl t s
  | .resume cl t => Sys2Proof.Machine.execResume cl t s
  | .breakpoint cl t => Sys2Proof.Machine.execBreakpoint cl t s
  | .scrubRead b ecc => Sys2Proof.Machine.execScrubRead b ecc s
  | .patrolScrub c ecc => Sys2Proof.Machine.execPatrolScrub c ecc s
  | .dispatch cl => Sys2Proof.Machine.execDispatch cl s
  | .kernelLoadComplete cl t => Sys2Proof.Machine.execKernelLoadComplete cl t s
  | .post cl => Sys2Proof.Machine.execPost cl s
  | .delay cl us => Sys2Proof.Machine.execDelay cl us s
  | .cancel cl timer => Sys2Proof.Machine.execCancel cl timer s
  | .deferredAccept cl => Sys2Proof.Machine.execDeferredAccept cl s
  | .oneShotTimerExpiry cl timer => Sys2Proof.Machine.execOneShotTimerExpiry cl timer s
  | .periodicTimerExpiry cl slot => Sys2Proof.Machine.execPeriodicTimerExpiry cl slot s
  | .chainRunStart cl slot chain ecc => Sys2Proof.Machine.execChainRunStart cl slot chain ecc s
  | .deadline cl slot chain => Sys2Proof.Machine.execDeadline cl slot chain s
  | .alloc cl tid => Sys2Proof.Machine.execAlloc cl tid s
  | .free cl slot => Sys2Proof.Machine.execFree cl slot s
  | .query cl tid => Sys2Proof.Machine.execQuery cl tid s
  | .commit cl slot keep staged buf version => Sys2Proof.Machine.execCommit cl slot keep staged buf version s
  | .delete cl slot version => Sys2Proof.Machine.execDelete cl slot version s
  | .versionSwitch cl slot => Sys2Proof.Machine.execVersionSwitch cl slot s
  | .wardenAdjustment cl slot base area => Sys2Proof.Machine.execWardenAdjustment cl slot base area s
  | .metricsIntervalEnd cl slot => Sys2Proof.Machine.execMetricsIntervalEnd cl slot s
  | .lineIn cl slot chain => Sys2Proof.Machine.execLineIn cl slot chain s
  | .lineOut cl slot chain => Sys2Proof.Machine.execLineOut cl slot chain s
  | .pktIn cl slot chain => Sys2Proof.Machine.execPktIn cl slot chain s
  | .pktOut cl slot chain => Sys2Proof.Machine.execPktOut cl slot chain s
  | .ec cl slot chain => Sys2Proof.Machine.execEc cl slot chain s
  | .ecRef cl slot chain => Sys2Proof.Machine.execEcRef cl slot chain s
  | .toneDet cl slot chain => Sys2Proof.Machine.execToneDet cl slot chain s
  | .toneGen cl slot chain => Sys2Proof.Machine.execToneGen cl slot chain s
  | .dec cl slot chain => Sys2Proof.Machine.execDec cl slot chain s
  | .enc cl slot chain => Sys2Proof.Machine.execEnc cl slot chain s
  | .plc cl slot chain => Sys2Proof.Machine.execPlc cl slot chain s
  | .vad cl slot chain => Sys2Proof.Machine.execVad cl slot chain s
  | .cng cl slot chain => Sys2Proof.Machine.execCng cl slot chain s
  | .src cl slot chain => Sys2Proof.Machine.execSrc cl slot chain s
  | .gain cl slot chain => Sys2Proof.Machine.execGain cl slot chain s
  | .mix cl slot chain => Sys2Proof.Machine.execMix cl slot chain s
  | .vdeRx cl slot chain => Sys2Proof.Machine.execVdeRx cl slot chain s
  | .vdeTx cl slot chain => Sys2Proof.Machine.execVdeTx cl slot chain s
  | .faxrelay cl slot chain => Sys2Proof.Machine.execFaxrelay cl slot chain s
  | .meter cl slot chain => Sys2Proof.Machine.execMeter cl slot chain s
  | .fork cl slot chain => Sys2Proof.Machine.execFork cl slot chain s
  | .call cl slot chain => Sys2Proof.Machine.execCall cl slot chain s
  | .handoffSend cl slot chain => Sys2Proof.Machine.execHandoffSend cl slot chain s
  | .handoffReceive cl slot chain => Sys2Proof.Machine.execHandoffReceive cl slot chain s
  | .endRun cl slot chain => Sys2Proof.Machine.execEndRun cl slot chain s
  | .ecRequestComplete cl ecc => Sys2Proof.Machine.execEcRequestComplete cl ecc s
  | .vatSearch cl slot => Sys2Proof.Machine.execVatSearch cl slot s
  | .windowRelease cl slot w => Sys2Proof.Machine.execWindowRelease cl slot w s
  | .doubleTalkHoldEnd cl slot => Sys2Proof.Machine.execDoubleTalkHoldEnd cl slot s
  | .nlpRelease cl slot => Sys2Proof.Machine.execNlpRelease cl slot s
  | .disablerRelease cl slot => Sys2Proof.Machine.execDisablerRelease cl slot s
  | .toneBankComplete cl => Sys2Proof.Machine.execToneBankComplete cl s
  | .vdeComplete cl => Sys2Proof.Machine.execVdeComplete cl s
  | .resamplerComplete cl => Sys2Proof.Machine.execResamplerComplete cl s
  | .userSetLoad cl set => Sys2Proof.Machine.execUserSetLoad cl set s
  | .create d cask => Sys2Proof.Machine.execCreate d cask s
  | .flush d cask => Sys2Proof.Machine.execFlush d cask s
  | .destroy d cask => Sys2Proof.Machine.execDestroy d cask s
  | .push d cask => Sys2Proof.Machine.execPush d cask s
  | .hwctlCommit d cask => Sys2Proof.Machine.execHwctlCommit d cask s
  | .hwctlCommitRel d cask => Sys2Proof.Machine.execHwctlCommitRel d cask s
  | .hwctlAbort d cask => Sys2Proof.Machine.execHwctlAbort d cask s
  | .adv d cask => Sys2Proof.Machine.execAdv d cask s
  | .gack d grp n => Sys2Proof.Machine.execGack d grp n s
  | .frameReceive m frame fcsOk => Sys2Proof.Machine.execFrameReceive m frame fcsOk s
  | .packetArrival d => Sys2Proof.Machine.execPacketArrival d s
  | .playoutRelease cl slot => Sys2Proof.Machine.execPlayoutRelease cl slot s
  | .playoutAdjust tid => Sys2Proof.Machine.execPlayoutAdjust tid s
  | .rtcpSend tid => Sys2Proof.Machine.execRtcpSend tid s
  | .insert => Sys2Proof.Machine.execInsert s
  | .remove => Sys2Proof.Machine.execRemove s
  | .clsQuery => Sys2Proof.Machine.execClsQuery s
  | .plyEnable => Sys2Proof.Machine.execPlyEnable s
  | .tdmEnable p val => Sys2Proof.Machine.execTdmEnable p val s
  | .tdmCalibrate p => Sys2Proof.Machine.execTdmCalibrate p s
  | .calibrationComplete p measured => Sys2Proof.Machine.execCalibrationComplete p measured s
  | .tdmIngressFrame p octets => Sys2Proof.Machine.execTdmIngressFrame p octets s
  | .tdmEgressFetch p => Sys2Proof.Machine.execTdmEgressFetch p s
  | .fsReceived p => Sys2Proof.Machine.execFsReceived p s
  | .hdlcEnable p hslot val => Sys2Proof.Machine.execHdlcEnable p hslot val s
  | .hdlcFrameReceive p hslot data stat => Sys2Proof.Machine.execHdlcFrameReceive p hslot data stat s
  | .hdlcFrameTransmit p hslot => Sys2Proof.Machine.execHdlcFrameTransmit p hslot s
  | .linkChange m lock => Sys2Proof.Machine.execLinkChange m lock s
  | .macTransmit m => Sys2Proof.Machine.execMacTransmit m s
  | .macTransmitEnd m => Sys2Proof.Machine.execMacTransmitEnd m s
  | .pauseExpiry m => Sys2Proof.Machine.execPauseExpiry m s
  | .pauseFrameSend m => Sys2Proof.Machine.execPauseFrameSend m s
  | .pauseWatchdog m => Sys2Proof.Machine.execPauseWatchdog m s
  | .collision late => Sys2Proof.Machine.execCollision late s
  | .rqTail q tail cells => Sys2Proof.Machine.execRqTail q tail cells s
  | .tqTail q tail cells => Sys2Proof.Machine.execTqTail q tail cells s
  | .mdioC22Read phy reg data => Sys2Proof.Machine.execMdioC22Read phy reg data s
  | .mdioC22Write phy reg data => Sys2Proof.Machine.execMdioC22Write phy reg data s
  | .mdioC45Address phy dev addr => Sys2Proof.Machine.execMdioC45Address phy dev addr s
  | .mdioC45Write phy dev data => Sys2Proof.Machine.execMdioC45Write phy dev data s
  | .mdioC45Read phy dev data => Sys2Proof.Machine.execMdioC45Read phy dev data s
  | .dmaEnable c val => Sys2Proof.Machine.execDmaEnable c val s
  | .dmaHostcnt c cnt cells => Sys2Proof.Machine.execDmaHostcnt c cnt cells s
  | .dmaDescriptor c hostErr ecc => Sys2Proof.Machine.execDmaDescriptor c hostErr ecc s
  | .dmaDrainEntry c => Sys2Proof.Machine.execDmaDrainEntry c s
  | .dmaDrainReport c => Sys2Proof.Machine.execDmaDrainReport c s
  | .vack w mask => Sys2Proof.Machine.execVack w mask s
  | .msixUnmask v addr data => Sys2Proof.Machine.execMsixUnmask v addr data s
  | .timeTick => Sys2Proof.Machine.execTimeTick s
  | .incWrite b hi val => Sys2Proof.Machine.execIncWrite b hi val s
  | .adj b val => Sys2Proof.Machine.execAdj b val s
  | .tbSet b => Sys2Proof.Machine.execTbSet b s
  | .tbStep b neg => Sys2Proof.Machine.execTbStep b neg s
  | .align b => Sys2Proof.Machine.execAlign b s
  | .capture => Sys2Proof.Machine.execCapture s
  | .holdoverEntry b => Sys2Proof.Machine.execHoldoverEntry b s
  | .tb2ctlWrite val => Sys2Proof.Machine.execTb2ctlWrite val s
  | .mirrorCorrection => Sys2Proof.Machine.execMirrorCorrection s
  | .refLoss => Sys2Proof.Machine.execRefLoss s
  | .ppsIn rising => Sys2Proof.Machine.execPpsIn rising s
  | .calSet => Sys2Proof.Machine.execCalSet s
  | .sync src => Sys2Proof.Machine.execSync src s
  | .syncApply => Sys2Proof.Machine.execSyncApply s
  | .calendarAlarm => Sys2Proof.Machine.execCalendarAlarm s
  | .vbatLow => Sys2Proof.Machine.execVbatLow s
  | .pcmt d version => Sys2Proof.Machine.execPcmt d version s
  | .wardenPoll d => Sys2Proof.Machine.execWardenPoll d s
  | .wardenMetricsRead d tid => Sys2Proof.Machine.execWardenMetricsRead d tid s
  | .withdrawalOverloadCheck cl => Sys2Proof.Machine.execWithdrawalOverloadCheck cl s
  | .balance d => Sys2Proof.Machine.execBalance d s
  | .up d cl => Sys2Proof.Machine.execUp d cl s
  | .run d cl => Sys2Proof.Machine.execRun d cl s
  | .spare d cl => Sys2Proof.Machine.execSpare d cl s
  | .evac d cl => Sys2Proof.Machine.execEvac d cl s
  | .off d cl => Sys2Proof.Machine.execOff d cl s
  | .bringupComplete cl => Sys2Proof.Machine.execBringupComplete cl s
  | .selfTestComplete cl pass => Sys2Proof.Machine.execSelfTestComplete cl pass s
  | .noroomRetry d => Sys2Proof.Machine.execNoroomRetry d s
  | .move d cl tid => Sys2Proof.Machine.execMove d cl tid s
  | .rehomeAbort d tid => Sys2Proof.Machine.execRehomeAbort d tid s
  | .checkpoint d tid => Sys2Proof.Machine.execCheckpoint d tid s
  | .rehomeCommit d tid => Sys2Proof.Machine.execRehomeCommit d tid s
  | .pressCompress d => Sys2Proof.Machine.execPressCompress d s
  | .pressDecompress d => Sys2Proof.Machine.execPressDecompress d s
  | .badjob d => Sys2Proof.Machine.execBadjob d s
  | .pressResult d => Sys2Proof.Machine.execPressResult d s
  | .probeArm d p => Sys2Proof.Machine.execProbeArm d p s
  | .probeDisarm d p => Sys2Proof.Machine.execProbeDisarm d p s
  | .segmentOpen d p => Sys2Proof.Machine.execSegmentOpen d p s
  | .traceTick d p => Sys2Proof.Machine.execTraceTick d p s
  | .rdidxWrite d p val => Sys2Proof.Machine.execRdidxWrite d p val s
  | .skewcmd val => Sys2Proof.Machine.execSkewcmd val s
  | .skewComplete => Sys2Proof.Machine.execSkewComplete s
  | .bootRom primary secondary otpBad => Sys2Proof.Machine.execBootRom primary secondary otpBad s
  | .load => Sys2Proof.Machine.execLoad s
  | .progkey => Sys2Proof.Machine.execProgkey s
  | .revoke => Sys2Proof.Machine.execRevoke s
  | .advance => Sys2Proof.Machine.execAdvance s
  | .subsys => Sys2Proof.Machine.execSubsys s
  | .genid => Sys2Proof.Machine.execGenid s
  | .wrcert => Sys2Proof.Machine.execWrcert s
  | .dbgoff => Sys2Proof.Machine.execDbgoff s
  | .mrext r => Sys2Proof.Machine.execMrext r s
  | .qcmd => Sys2Proof.Machine.execQcmd s
  | .quoteComplete => Sys2Proof.Machine.execQuoteComplete s
  | .rngcmd => Sys2Proof.Machine.execRngcmd s
  | .trngHealthFail => Sys2Proof.Machine.execTrngHealthFail s
  | .trngRetest pass => Sys2Proof.Machine.execTrngRetest pass s
  | .challenge => Sys2Proof.Machine.execChallenge s
  | .unlock => Sys2Proof.Machine.execUnlock s
  | .lock => Sys2Proof.Machine.execLock s
  | .powerOnReset => Sys2Proof.Machine.execPowerOnReset s
  | .coldReset => Sys2Proof.Machine.execColdReset s
  | .porstNRise hostsel => Sys2Proof.Machine.execPorstNRise hostsel s
  | .warmReset => Sys2Proof.Machine.execWarmReset s
  | .clusterReset cl => Sys2Proof.Machine.execClusterReset cl s
  | .wdtKick val => Sys2Proof.Machine.execWdtKick val s
  | .wdtCfgWrite val => Sys2Proof.Machine.execWdtCfgWrite val s
  | .watchdogWarning => Sys2Proof.Machine.execWatchdogWarning s
  | .watchdogReset => Sys2Proof.Machine.execWatchdogReset s
  | .pgoodLow rail us => Sys2Proof.Machine.execPgoodLow rail us s
  | .regulatorOutOfRange island => Sys2Proof.Machine.execRegulatorOutOfRange island s
  | .ddrEnable c val => Sys2Proof.Machine.execDdrEnable c val s
  | .ddrTrainingComplete c ok => Sys2Proof.Machine.execDdrTrainingComplete c ok s
  | .pcieLinkUp speed width => Sys2Proof.Machine.execPcieLinkUp speed width s
  | .fsMissing p => Sys2Proof.Machine.execFsMissing p s
  | .otpCommandComplete verified => Sys2Proof.Machine.execOtpCommandComplete verified s
  | .policyInForce d => Sys2Proof.Machine.execPolicyInForce d s
  | .pgoodRise rail => Sys2Proof.Machine.execPgoodRise rail s

end Sys2Proof.Machine
end

