-- ==== Sys2Proof/Machine/Step.lean ====
section
/-!
DEFINITION. The step of the part: the command at the front of the queue takes effect.
-/

namespace Sys2Proof.Machine

/-- One step: the first waiting command runs with the queue's rest; with none waiting the part idles (log 1). -/
def step (s : State) : Host.Outcome State Fault Refusal :=
  match s.pending with
  | [] => .next s
  | i :: rest => exec i { s with pending := rest }

/-- The state with the command that a table word spells put at the front of its queue; no row of the table gives bits, so
no word spells a command (log 1). -/
def State.withFetchWord (s : State) (_nbits _w : Nat) : State := s

end Sys2Proof.Machine
end

