-- ==== Sys2Proof/Machine/Package.lean ====
section
/-!
DEFINITION. The package at its balls: which ball carries what (R433), and what each group of signal balls does as the registers
stand (R18, R424). Voltages, currents, timing and thermal data are left to the board (R420 to R434; log 69).
-/

namespace Sys2Proof.Machine

/-! ## The ball map (R433) -/

inductive Rail where
  | vddCore | vddSram | vddqDdr | vddSerdes | vddaSerdes | vddIo18 | vddIo25 | vddPll | vbat
  deriving DecidableEq, Repr

/-- Signals of a DDR block. -/
inductive DdrBall where
  | dq (i : Nat)
  | dqs (neg : Bool) (b : Nat)
  | ca (i : Nat)
  | csN (i : Nat)
  | ck (neg : Bool)
  | resetN | alertN | zq
  deriving DecidableEq, Repr

inductive TdmBall where
  | dx | dr | clk | fs
  deriving DecidableEq, Repr

/-- Signals of the edge that are there once. -/
inductive EdgeBall where
  | qspiClk | qspiCsN | qspiIo (i : Nat)
  | kwSclk | kwCsN | kwMosi | kwMiso
  | tck | tms | tdi | tdo | trstN | testen
  | porstN | wakeN | evtN (k : Nat) | pgood (i : Nat) | hostsel (i : Nat)
  | ppsIn | ppsOut | clk10mIn | perstN | sysclkXi | sysclkXo | rtcXi | rtcXo
  | rgmiiTxc | rgmiiTxCtl | rgmiiTxd (i : Nat) | rgmiiRxc | rgmiiRxCtl | rgmiiRxd (i : Nat)
  | mdc | mdio
  deriving DecidableEq, Repr

/-- Signals of the SerDes columns; `rx` tells receive from transmit, `neg` the negative ball of a pair. -/
inductive SerdesBall where
  | pcie (rx neg : Bool) (lane : Nat)
  | pcieRef (neg : Bool)
  | mac (m : Nat) (rx neg : Bool)
  | sdRef (die : Nat) (neg : Bool)
  | sdRext (die : Nat)
  deriving DecidableEq, Repr

inductive Ball where
  | vss
  | rail (r : Rail)
  | ddr (c : Nat) (b : DdrBall)
  | tdm (port : Nat) (b : TdmBall)
  | edge (b : EdgeBall)
  | serdes (b : SerdesBall)
  deriving DecidableEq, Repr

/-- Position (i, j) of the DDR block of channel c. -/
def ddrBall (c i j : Nat) : Ball :=
  let b := (j - 1) / 2
  if j ≤ 18 then
    if j % 2 = 1 then
      if i ≤ 4 then .ddr c (.dq (8 * b + i - 1)) else if i = 5 then .ddr c (.dqs false b) else .vss
    else if i ≤ 4 then .ddr c (.dq (8 * b + 3 + i)) else if i = 5 then .ddr c (.dqs true b) else .rail .vddqDdr
  else match j with
    | 19 => .ddr c (.ca (i - 1))
    | 21 => .ddr c (.ca (i + 5))
    | 23 => if i ≤ 2 then .ddr c (.ca (i + 11)) else if i ≤ 4 then .ddr c (.csN (i - 3)) else .ddr c (.ck (i == 6))
    | 25 =>
      if i = 1 then .ddr c .resetN else if i = 2 then .ddr c .alertN else if i = 3 then .ddr c .zq
      else if i = 5 then .vss else .rail .vddqDdr
    | _ => if i % 2 = 1 then .vss else .rail .vddqDdr

/-- A row of four balls. -/
def four (a b c d : Ball) (col : Nat) : Ball :=
  match col with
  | 1 => a
  | 2 => b
  | 3 => c
  | _ => d

/-- The balls of TDM port p, by column. -/
def tdmBall (p col : Nat) : Ball := four (.tdm p .dx) (.tdm p .dr) (.tdm p .clk) (.tdm p .fs) col

/-- Rows 20 and 29 of the edge. -/
def edgeGap (col : Nat) : Ball := four (.rail .vddIo18) .vss (.rail .vddIo18) .vss col

/-- The edge of die 0, columns 1 to 4. -/
def edgeBall0 (row col : Nat) : Ball :=
  let e (b : EdgeBall) : Ball := .edge b
  let f (a b c d : Ball) : Ball := four a b c d col
  match row with
  | 7 => f (e .qspiClk) (e .qspiCsN) (e (.qspiIo 0)) (e (.qspiIo 1))
  | 8 => f (e (.qspiIo 2)) (e (.qspiIo 3)) (.rail .vddIo18) .vss
  | 9 => f (e .kwSclk) (e .kwCsN) (e .kwMosi) (e .kwMiso)
  | 10 => f (e .tck) (e .tms) (e .tdi) (e .tdo)
  | 11 => f (e .trstN) (e .testen) (.rail .vddIo18) .vss
  | 20 => edgeGap col
  | 29 => edgeGap col
  | 38 => f (e .porstN) (e .wakeN) (e (.evtN 0)) (e (.evtN 1))
  | 39 => f (e (.pgood 0)) (e (.pgood 1)) (e (.pgood 2)) .vss
  | 40 => f (e (.hostsel 0)) (e (.hostsel 1)) (e .ppsIn) (e .ppsOut)
  | 41 => f (e .clk10mIn) (e .perstN) .vss (.rail .vddIo18)
  | 42 => f (e .sysclkXi) (e .sysclkXo) .vss (.rail .vddPll)
  | 43 => f (e .rtcXi) (e .rtcXo) (.rail .vbat) .vss
  | 44 => f (e .rgmiiTxc) (e .rgmiiTxCtl) (e (.rgmiiTxd 0)) (e (.rgmiiTxd 1))
  | 45 => f (e (.rgmiiTxd 2)) (e (.rgmiiTxd 3)) (.rail .vddIo25) .vss
  | 46 => f (e .rgmiiRxc) (e .rgmiiRxCtl) (e (.rgmiiRxd 0)) (e (.rgmiiRxd 1))
  | 47 => f (e (.rgmiiRxd 2)) (e (.rgmiiRxd 3)) (e .mdc) (e .mdio)
  | _ => tdmBall (if row ≤ 19 then row - 12 else if row ≤ 28 then row - 13 else row - 14) col

/-- The parity rule of the I/O supply. -/
def ioSupply (row col : Nat) : Ball :=
  if (row + col) % 2 = 0 then .vss
  else if 6 ≤ col ∧ col ≤ 10 ∧ 44 ≤ row then .rail .vddIo25
  else .rail .vddIo18

/-- The edge of die 1, at the mirrored column. -/
def edgeBall1 (row col : Nat) : Ball :=
  let m := 54 - col
  if 12 ≤ row ∧ row ≤ 37 then
    match edgeBall0 row m with
    | .tdm p b => .tdm (p + 24) b
    | b => b
  else if row = 42 ∧ col = 50 then .rail .vddPll
  else ioSupply row col

/-- The SerDes columns of a die, m the column on die 0 or its mirror. -/
def serdesBall (die row m : Nat) : Ball :=
  if m = 6 ∨ m = 9 then .vss
  else if m = 10 then .rail .vddSerdes
  else
    let neg : Bool := m == 8
    let pci (b : SerdesBall) : Ball := if die = 0 then .serdes b else .vss
    match row with
    | 20 => pci (.pcieRef neg)
    | 29 => .serdes (.sdRef die neg)
    | 30 => .serdes (.mac (2 * die) false neg)
    | 31 => .serdes (.mac (2 * die) true neg)
    | 32 => .serdes (.mac (2 * die + 1) false neg)
    | 33 => .serdes (.mac (2 * die + 1) true neg)
    | 34 => if neg then .vss else .serdes (.sdRext die)
    | 35 => .rail .vddaSerdes
    | 36 => .rail .vddaSerdes
    | 37 => .rail .vddaSerdes
    | _ => let r := if row ≤ 19 then row - 12 else row - 13
           pci (.pcie (r % 2 == 1) neg (r / 2))

/-- The core rule. -/
def coreBall (row col : Nat) : Ball :=
  if row = 7 ∨ row = 47 then .rail .vddqDdr
  else if row = 8 ∨ row = 46 then .vss
  else if (row + col) % 2 = 0 then .vss
  else if col ≤ 12 ∨ 42 ≤ col then .rail .vddSram
  else .rail .vddCore

/-- The ball at a row index and a column, 1 to 53 each. -/
def ballAt (row col : Nat) : Ball :=
  if row ≤ 6 then
    if col = 27 then .vss else if col < 27 then ddrBall 0 row col else ddrBall 2 row (54 - col)
  else if 48 ≤ row then
    if col = 27 then .vss else if col < 27 then ddrBall 1 (54 - row) col else ddrBall 3 (54 - row) (54 - col)
  else if col ≤ 4 then edgeBall0 row col
  else if 50 ≤ col then edgeBall1 row col
  else if col = 5 ∨ col = 49 then .vss
  else if 11 ≤ col ∧ col ≤ 43 then coreBall row col
  else if 12 ≤ row ∧ row ≤ 37 then (if col ≤ 10 then serdesBall 0 row col else serdesBall 1 row (54 - col))
  else ioSupply row col

/-- The whole field, row by row. -/
def ballField : List Ball :=
  (List.range 53).flatMap (fun i => (List.range 53).map (fun j => ballAt (i + 1) (j + 1)))

/-! ## What the signal balls do (R18, R424) -/

/-- What drives an output ball: nothing, a level, SerDes idle, or the unit that owns it. -/
inductive Drive where
  | highZ
  | low
  | high
  | idle
  | driven
  deriving DecidableEq, Repr

/-- Groups of output balls. -/
inductive OutBall where
  | tdmDx (p : Fin 48)
  | tdmClkFs (p : Fin 48)
  | qspi
  | qspiCsN
  | kwMiso
  | tdo
  | evtN (k : Fin 2)
  | ppsOut
  | rgmiiTx
  | mdc
  | mdio
  | ddrResetN (c : Fin 4)
  | ddrRest (c : Fin 4)
  | macTx (m : Fin 4)
  | pcieTx
  deriving DecidableEq, Repr

/-- A ball is driven once its enable is set, and in its inert state until then. The flash is read within one step of the boot
ROM, and a Keyway frame is one step. -/
def State.driveOf (s : State) (b : OutBall) : Drive :=
  let on (e : Bool) (inert : Drive) : Drive := if e then .driven else inert
  match b with
  | .tdmDx p => on (s.rb (TDM.CTRL p) F.TDM_CTRL_OE) .highZ
  | .tdmClkFs p => on (s.tdmMaster p && s.rb (TDM.CTRL p) F.TDM_CTRL_EN && s.rb (TDM.CTRL p) F.TDM_CTRL_OE) .highZ
  | .qspi => .highZ
  | .qspiCsN => .high
  | .kwMiso => .highZ
  | .tdo => .highZ
  | .evtN k => if s.msix.pins.getLsbD k.val then .low else .highZ
  | .ppsOut => on (s.rb TIME.PPSOUT F.TIME_PPSOUT_EN) .low
  | .rgmiiTx => on (s.rb (MAC.CTRL 4) F.MAC_CTRL_EN) .low
  | .mdc => on (!s.ready MACM.MDIO_STATUS) .low
  | .mdio => on (!s.ready MACM.MDIO_STATUS) .highZ
  | .ddrResetN c => on (s.rb (DDR.CFG c) F.DDR_CFG_EN) .low
  | .ddrRest c => on (s.rb (DDR.CFG c) F.DDR_CFG_EN) .highZ
  | .macTx m => on (s.rb (MAC.CTRL m) F.MAC_CTRL_TXEN) .idle
  | .pcieTx => on (s.rf HIF.STATUS F.HIF_STATUS_WIDTH != 0) .idle

/-- The state that the table of R424 gives a ball from the start of a reset. -/
def inertDrive (b : OutBall) : Drive :=
  match b with
  | .tdmDx _ => .highZ
  | .tdmClkFs _ => .highZ
  | .qspi => .highZ
  | .qspiCsN => .high
  | .kwMiso => .highZ
  | .tdo => .highZ
  | .evtN _ => .highZ
  | .ppsOut => .low
  | .rgmiiTx => .low
  | .mdc => .low
  | .mdio => .highZ
  | .ddrResetN _ => .low
  | .ddrRest _ => .highZ
  | .macTx _ => .idle
  | .pcieTx => .idle

end Sys2Proof.Machine
end

