-- ==== Sys2Proof/Safety.lean ====
section
/-!
DEFINITION. What a safe run means here: the state keeps the form in which equal machines are equal data, nothing is
stored where no memory can be written, and a step completes.
-/

namespace Sys2Proof

open Sys2Proof.Machine

/-- Memory that can be written stands at a DPA: no register, no kernel ROM, no reserved address (R37 to R39). -/
def storable (a : Nat) : Bool :=
  match placeOf a with
  | .registers => false
  | .rom _ => false
  | .hole => false
  | .cellar _ => true
  | .trace _ => true
  | .store _ => true
  | .tile _ _ => true
  | .dram _ => true

/-- Every table of the state is in canonical form: keys rise strictly and no entry repeats what an unlisted key reads as, so
that equal machines are equal data; and memory lists bytes only where memory can be written. -/
structure Canon (s : State) : Prop where
  regs : swf resetOf s.regs = true
  mem : swf (fun _ => (0 : Byte)) s.mem = true
  storable : s.mem.all (fun e => storable e.1) = true
  poison : nrising s.poison = true
  hostMem : swf (fun _ => (0 : Byte)) s.hostMem = true
  hostPoison : nrising s.hostPoison = true
  cores : swf (fun _ => Core.init) s.cores = true
  clusters : swf (fun _ => Cluster.init) s.clusters = true
  slots : swf (fun _ => Slot.init) s.slots = true
  vats : swf (fun _ => VatSlot.init) s.vats = true
  areas : swf (fun _ => Area.none) s.areas = true
  casks : swf (fun _ => Cask.init) s.casks = true
  probes : swf (fun _ => Probe.init) s.probes = true
  scrubs : swf (fun _ => 0) s.scrubs = true
  plays : swf (fun _ => Play.init) s.plays = true
  cellUse : nrising s.cellUse = true
  srtp : srising s.srtp = true
  txBufs : srising s.txBufs = true
  tdms : swf (fun _ => Tdm.init) s.tdms = true
  egMarks : nrising s.egMarks = true
  wdns : swf (fun _ => Wdn.init) s.wdns = true
  macs : swf (fun _ => Mac.init) s.macs = true
  txSends : srising s.txSends = true
  dmas : swf (fun _ => (⟨none⟩ : Dma)) s.dmas = true
  press : swf (fun _ => (⟨none, false⟩ : Press)) s.press = true
  msix : swf (fun _ => MsixEntry.init) s.msix.entries = true

/-- No trace probe that captures event edges is armed, so that raising a cause writes no trace (R381, R383). -/
def Quiet (s : State) : Prop := s.probes.any (fun e => e.2.armed && e.2.src == 5) = false

/-- Two states differ in registers, MSI-X state and what was driven outward at most: what raising a cause may change while
the part is quiet (R332 to R335). -/
structure SameBut (s t : State) : Prop where
  rest : ∃ r m w, t = { s with regs := r, msix := m, wire := w }

/-! ## Commands of the host and of engines -/

/-- The host's write of a register reaches its target: the part is booted, not held in reset, awake where it must be, the
cluster not OFF, and the die not cut off (R32, R78, R320, R416). -/
def Opens (s : State) (a : Nat) : Prop := s.reach 0 a false = .ok

/-- A result group shows a new result (R21, R22): READY, the next SEQ, and the code. -/
structure Reports (s t : State) (a code : Nat) : Prop where
  ready : t.ready a = true
  seq : t.rf a fldSeq = (s.rf a fldSeq + 1) % 256
  code : t.rf a fldCode = code

/-- `t` is `u` but for the registers of a list, the in-service registers, MSI-X and what was driven outward. -/
structure Touches (l : List Nat) (u t : State) : Prop where
  regs : ∀ b, b ∉ l → b ≠ EVT.VINSVC 0 → b ≠ EVT.VINSVC 1 → t.reg b = u.reg b
  rest : ∃ r m w, t = { u with regs := r, msix := m, wire := w }

/-- The two registers of a counter. -/
def twin (a : Nat) : List Nat := [a, a + 4]

/-- A counter has risen by n. -/
def Counts (s t : State) (a n : Nat) : Prop := t.count a = (s.count a + n) % 2 ^ 40

/-! ## Core instructions alone in their bundles -/

/-- The core of an instruction. -/
def coreAt (h : Head) (s : State) : Core := s.core h.cl.val h.t.val

/-- The word that the tile of an instruction fetches next (log 15). -/
def fetched (h : Head) (s : State) : Word := BitVec.ofNat 32 (s.le (tileDpa h.cl.val h.t.val (coreAt h s).pc.toNat) 4)

/-- An instruction that makes up a bundle by itself, at a tile that executes: its word stands in P memory at the program
counter, unpoisoned, and SECDED finds no error; its predicate matches, no loop is open, no breakpoint can match, and CYC has
not reached ILIM (R84 to R87, R92, R99, R105, R106). -/
structure Alone (i : Instr) (h : Head) (s : State) : Prop where
  word : wordMatches i (fetched h s) = true
  runs : s.executes h.cl.val h.t.val = true
  first : (coreAt h s).bundle = []
  ends : h.e = true
  legal : h.ill = false
  clean : h.fetch = .ok ∧ h.cs = .ok ∧ h.merge = .ok
  on : headOn h (coreAt h s) = true
  time : (coreAt h s).cyc.toNat < (coreAt h s).ilim.toNat
  low : 0x50000 ≤ (coreAt h s).pc.toNat
  high : (coreAt h s).pc.toNat ≤ 0x5FFFC
  flat : (coreAt h s).depth = 0
  sound : s.poisoned (tileDpa h.cl.val h.t.val (coreAt h s).pc.toNat) = false
  closed : s.dbgOpen = false

/-- A core but for its cycle count and what only its timing shows. -/
def Machine.Core.arch (c : Core) : Core :=
  { c with cyc := 0, bundle := [], lcache := none, loadLate := [], accLate := [], outLoads := [], stepping := false }

/-- The counters that a bundle raises (R104). -/
def bundleCounters (n t : Nat) : List Nat :=
  [TILE.CYCLES_LO n t, TILE.BUNDLES_LO n t, TILE.MACS_LO n t, TILE.STALL_BUS_LO n t, TILE.STALL_OUTSIDE_LO n t,
   TILE.STALL_LOAD_LO n t, TILE.STALL_FETCH_LO n t, TILE.LCACHE_LO n t]

/-- The registers that a bundle may change: its counters, the cluster's event causes, and the in-service registers. -/
def bundleRegs (n t b : Nat) : Bool :=
  (bundleCounters n t).any (fun a => b == a || b == a + 4) || b == WS.EVT n || b == EVT.VINSVC 0 || b == EVT.VINSVC 1

/-- A bundle has taken effect: `f` is what it does to its core, `u` the state with what it does elsewhere. Every other core,
every register but those of bundleRegs, and all the rest of the state are those of `u`; CYC has risen, and the bundle is
over. -/
structure Ran (h : Head) (s u t : State) (f : Core → Core) : Prop where
  core : (coreAt h t).arch = (f (coreAt h s)).arch
  over_ : (coreAt h t).bundle = []
  cycles : (coreAt h s).cyc.toNat < (coreAt h t).cyc.toNat
  others : ∀ m j, 12 * m + j ≠ 12 * h.cl.val + h.t.val → t.core m j = u.core m j
  regs : ∀ b, bundleRegs h.cl.val h.t.val b = false → t.reg b = u.reg b
  rest : ∃ r c m w k, t = { u with regs := r, cores := c, msix := m, wire := w, freeCount := k }

/-- A bundle that writes nothing outside its core has taken effect. -/
abbrev RanHere (h : Head) (s t : State) (f : Core → Core) : Prop := Ran h s s t f

/-- The next bundle follows. -/
def Machine.Core.pass (c : Core) : Core := { c with pc := c.pc + 4 }

/-- The command completes with a next state. -/
def Completes (i : Instr) (s : State) : Prop := ∃ t, exec i s = .next t

end Sys2Proof
end

