-- ==== Sys2Proof/Certificates/Slice0/Obligations.lean ====
section
/-!
DEFINITION. Statements about the model for the provers.
-/

open Sys2Proof Sys2Proof.Machine


/-! ## The queue, the state, counters and result groups -/

/-- A step runs the command at the front of the queue on the state with the queue's rest; with no command waiting the part idles (the
model's choice, log 1). -/
def Obligations.StepRunsTheFrontCommand : Prop :=
  (∀ c q (s : State), s.pending = c :: q → step s = exec c { s with pending := q }) ∧ (∀ s : State, s.pending = [] → step s = .next s)

/-- Every command completes: whatever the state and the operands, exec answers a next state, in which the commands that wait are
those that waited. -/
def Obligations.EveryCommandCompletes : Prop :=
  ∀ c s, ∃ t, exec c s = .next t ∧ t.pending = s.pending

/-- Every step keeps the canonical form: registers, memory and every table stay in it, and bytes stand only where memory can be
written. -/
def Obligations.CanonicalFormKept : Prop :=
  ∀ s t, Canon s → step s = .next t → Canon t

namespace Sys2Proof

/-- The STATUS words of all result register groups (R21). -/
def resultGroups : List Nat :=
  [GLB.DVFS_STATUS, GLB.PWR_STATUS, SEC.BSTATUS, SEC.OTP_STATUS, SEC.MR_STATUS, SEC.QSTATUS, SEC.RNG_STATUS, SEC.DBG_STATUS,
    TRC.SKEW_STATUS, TIME.CAP_STATUS, TIME.PPSIN_STATUS, TIME.CAL_STATUS, MACM.MDIO_STATUS, CLS.CMD_STATUS] ++
  (List.range 2).flatMap (fun d => [WDN.PSTATUS d, WDN.CLSTATUS d, WDN.RHSTATUS d, WDN.DVFS_STATUS d, CSK.CMD_STATUS d]) ++
  (List.range 4).flatMap (fun c => [DDR.STATUS c, TIME.CMD_STATUS c]) ++ (List.range 48).map TDM.CALSTATUS ++
  (List.range 32).flatMap (fun n => [WS.HP_STATUS n, CTX.ARES n, CTX.CSTATUS n, SRC.USTATUS n])

end Sys2Proof

/-- The state after reset: canonical, with nothing waiting, every register at its reset value, every result group idle with SEQ and
CODE 0, every cluster OFF, no termination, no packet, and memory that lists nothing. -/
def Obligations.ResetState : Prop :=
  Canon State.reset ∧ State.reset.pending = [] ∧ (∀ a, State.reset.reg a = resetOf a) ∧
    (∀ a, a ∈ resultGroups → State.reset.ready a = true ∧ State.reset.rf a fldSeq = 0 ∧ State.reset.rf a fldCode = 0) ∧
    (∀ n, n < 32 → State.reset.clState n = stOff) ∧ State.reset.booted = false ∧ State.reset.slots = [] ∧ State.reset.casks = [] ∧
    State.reset.mem = [] ∧ State.reset.poison = []

/-- Counters (R20): a counter of 40 bits wraps from 2^40 - 1 to 0; the event of its group is raised when its bit 39 becomes 1; and
nothing but the counter, that cause and what it drives changes. -/
def Claims.Counters : Prop :=
  ∀ a n evt f (s : State), Canon s → Quiet s → evt ∉ twin a → evt ≠ EVT.VINSVC 0 → evt ≠ EVT.VINSVC 1 → a ≠ EVT.VINSVC 0 →
    a ≠ EVT.VINSVC 1 → a + 4 ≠ EVT.VINSVC 0 → a + 4 ≠ EVT.VINSVC 1 → f.lo ≤ f.hi → f.hi < 32 →
    ((s.bumpBy a n evt f).count a = (s.count a + n) % 2 ^ 40) ∧
    (bit (s.count a) 39 = false → bit ((s.count a + n) % 2 ^ 40) 39 = true → (s.bumpBy a n evt f).rb evt f = true) ∧
    (¬(bit (s.count a) 39 = false ∧ bit ((s.count a + n) % 2 ^ 40) 39 = true) →
      Touches (twin a) s (s.bumpBy a n evt f)) ∧
    Touches (evt :: twin a) s (s.bumpBy a n evt f)

/-- Result groups (R21, R22): starting an operation clears READY and leaves SEQ, CODE and all else; a result sets READY, raises SEQ by
1 modulo 256, shows its code, and changes no other register. -/
def Claims.ResultGroups : Prop :=
  ∀ a code (s : State), Canon s → code < 65536 →
    ((s.begin_ a).ready a = false ∧ (s.begin_ a).rf a fldSeq = s.rf a fldSeq ∧ (s.begin_ a).rf a fldCode = s.rf a fldCode ∧
      Touches [a] s (s.begin_ a)) ∧
    Reports s (s.post a code) a code ∧ Touches [a] s (s.post a code)

/-- Counters of 40 bits and result groups: the claims Counters, ResultGroups. -/
def Obligations.CountersAndResults : Prop :=
  Claims.Counters ∧ Claims.ResultGroups

/-! ## Core instructions (R106 to R129) -/

namespace Sys2Proof

/-- v held to the range of a signed number of w bits. -/
def heldTo (w : Nat) (v : Int) : Int := max (-(2 : Int) ^ (w - 1)) (min v ((2 : Int) ^ (w - 1) - 1))

/-- A 32-bit result held to its range, and whether it left it. -/
def held32 (v : Int) : Word × Bool := (BitVec.ofInt 32 (heldTo 32 v), decide (heldTo 32 v ≠ v))

/-- Two 16-bit results held to their range, as the halves of a register. -/
def held2 (h l : Int) : Word × Bool :=
  (BitVec.ofInt 16 (heldTo 16 h) ++ BitVec.ofInt 16 (heldTo 16 l), decide (heldTo 16 h ≠ h) || decide (heldTo 16 l ≠ l))

/-- A left shift held to 32 bits. -/
def heldShift (a : Word) (n : Nat) : Word × Bool := held32 (a.toInt * (2 : Int) ^ n)

/-- The four shifts: left, right logical, right arithmetic, left held. -/
def shifted (kind : Nat) (a : Word) (n : Nat) : Word × Bool :=
  match kind with
  | 0 => (if n < 32 then a <<< n else 0, false)
  | 1 => (if n < 32 then a >>> n else 0, false)
  | 2 => (a.sshiftRight (min n 31), false)
  | _ => heldShift a n

/-- Leading zero bits of a word. -/
def leadingZeros (a : Word) : Nat := if a = 0 then 32 else 31 - a.toNat.log2

/-- Bits below the sign that repeat it, of a number of w bits; 0 for 0 (R111). -/
def repeatedSigns (w : Nat) (v : Int) : Nat :=
  if v = 0 then 0
  else
    let x := (if v < 0 then -v - 1 else v).toNat
    if x = 0 then w - 1 else w - 2 - x.log2

/-- What an integer instruction writes to RD and whether it saturates: R111, formula by formula. -/
def aluRow : Instr → Option (Head × Fin 32 × (Core → Word × Bool))
  | .add h rd rs rt => some (h, rd, fun c => (c.g[rs] + c.g[rt], false))
  | .sub h rd rs rt => some (h, rd, fun c => (c.g[rs] - c.g[rt], false))
  | .adds h rd rs rt => some (h, rd, fun c => held32 (c.g[rs].toInt + c.g[rt].toInt))
  | .subs h rd rs rt => some (h, rd, fun c => held32 (c.g[rs].toInt - c.g[rt].toInt))
  | .add2 h rd rs rt => some (h, rd, fun c =>
      ((hi16 c.g[rs] + hi16 c.g[rt]) ++ (lo16 c.g[rs] + lo16 c.g[rt]), false))
  | .sub2 h rd rs rt => some (h, rd, fun c =>
      ((hi16 c.g[rs] - hi16 c.g[rt]) ++ (lo16 c.g[rs] - lo16 c.g[rt]), false))
  | .add2s h rd rs rt => some (h, rd, fun c =>
      held2 ((hi16 c.g[rs]).toInt + (hi16 c.g[rt]).toInt) ((lo16 c.g[rs]).toInt + (lo16 c.g[rt]).toInt))
  | .sub2s h rd rs rt => some (h, rd, fun c =>
      held2 ((hi16 c.g[rs]).toInt - (hi16 c.g[rt]).toInt) ((lo16 c.g[rs]).toInt - (lo16 c.g[rt]).toInt))
  | .and h rd rs rt => some (h, rd, fun c => (c.g[rs] &&& c.g[rt], false))
  | .or h rd rs rt => some (h, rd, fun c => (c.g[rs] ||| c.g[rt], false))
  | .xor h rd rs rt => some (h, rd, fun c => (c.g[rs] ^^^ c.g[rt], false))
  | .andn h rd rs rt => some (h, rd, fun c => (c.g[rs] &&& ~~~c.g[rt], false))
  | .shl h rd rs rt => some (h, rd, fun c => shifted 0 c.g[rs] (c.g[rt].toNat % 64))
  | .shr h rd rs rt => some (h, rd, fun c => shifted 1 c.g[rs] (c.g[rt].toNat % 64))
  | .sra h rd rs rt => some (h, rd, fun c => shifted 2 c.g[rs] (c.g[rt].toNat % 64))
  | .shls h rd rs rt => some (h, rd, fun c => shifted 3 c.g[rs] (c.g[rt].toNat % 64))
  | .min h rd rs rt => some (h, rd, fun c => (BitVec.ofInt 32 (min c.g[rs].toInt c.g[rt].toInt), false))
  | .max h rd rs rt => some (h, rd, fun c => (BitVec.ofInt 32 (max c.g[rs].toInt c.g[rt].toInt), false))
  | .minu h rd rs rt => some (h, rd, fun c => (BitVec.ofNat 32 (min c.g[rs].toNat c.g[rt].toNat), false))
  | .maxu h rd rs rt => some (h, rd, fun c => (BitVec.ofNat 32 (max c.g[rs].toNat c.g[rt].toNat), false))
  | .abs h rd rs => some (h, rd, fun c => (if c.g[rs].toInt < 0 then -c.g[rs] else c.g[rs], false))
  | .abss h rd rs => some (h, rd, fun c => held32 |c.g[rs].toInt|)
  | .neg h rd rs => some (h, rd, fun c => (0 - c.g[rs], false))
  | .negs h rd rs => some (h, rd, fun c => held32 (-c.g[rs].toInt))
  | .mov h rd rs => some (h, rd, fun c => (c.g[rs], false))
  | .clz h rd rs => some (h, rd, fun c => (BitVec.ofNat 32 (leadingZeros c.g[rs]), false))
  | .norm h rd rs => some (h, rd, fun c => (BitVec.ofNat 32 (repeatedSigns 32 c.g[rs].toInt), false))
  | .norm16 h rd rs => some (h, rd, fun c => (BitVec.ofNat 32 (repeatedSigns 16 (lo16 c.g[rs]).toInt), false))
  | .packll h rd rs rt => some (h, rd, fun c => (lo16 c.g[rs] ++ lo16 c.g[rt], false))
  | .packhh h rd rs rt => some (h, rd, fun c => (hi16 c.g[rs] ++ hi16 c.g[rt], false))
  | .sxh h rd rs => some (h, rd, fun c => (BitVec.ofInt 32 (lo16 c.g[rs]).toInt, false))
  | .zxh h rd rs => some (h, rd, fun c => (BitVec.ofNat 32 (c.g[rs].toNat % 65536), false))
  | .sat16 h rd rs => some (h, rd, fun c =>
      (BitVec.ofInt 32 (heldTo 16 c.g[rs].toInt), decide (heldTo 16 c.g[rs].toInt ≠ c.g[rs].toInt)))
  | .addi h rd rs imm => some (h, rd, fun c => (BitVec.ofInt 32 (c.g[rs].toInt + imm.toInt), false))
  | .andi h rd rs imm => some (h, rd, fun c => (c.g[rs] &&& BitVec.ofNat 32 imm.toNat, false))
  | .ori h rd rs imm => some (h, rd, fun c => (c.g[rs] ||| BitVec.ofNat 32 imm.toNat, false))
  | .shi h func rd rs amt => some (h, rd, fun c => shifted func.toNat c.g[rs] amt.toNat)
  | .movi h rd imm => some (h, rd, fun _ => (BitVec.ofInt 32 imm.toInt, false))
  | .movih h rd imm => some (h, rd, fun c => (imm ++ lo16 c.g[rd], false))
  | .rnd h rd rs amt rndf => some (h, rd, fun c => (word (roundShift (roundMode c.stat rndf) c.g[rs].toInt amt.toNat), false))
  | .divs h rd rs => some (h, rd, fun c =>
      let t := c.g[rd] <<< 1
      (if (lo16 c.g[rs]).toNat ≤ (hi16 t).toNat then (hi16 t - lo16 c.g[rs]) ++ (lo16 t ||| 1) else t, false))
  | _ => none

/-- One step of restoring division of RD by the low half of RS (R113). -/
def divideStep (rd rs : Word) : Word :=
  let u : Word := rd <<< 1
  if rs.toNat % 65536 ≤ u.toNat / 65536 then
    (BitVec.ofNat 32 ((u.toNat / 65536 - rs.toNat % 65536) * 65536) ||| (u &&& 0xFFFF)) ||| 1
  else u

/-- The core with RD written and SV set where the result saturated. -/
def Machine.Core.gets (c : Core) (rd : Fin 32) (v : Word × Bool) : Core :=
  { c with g := c.g.set rd v.1, stat := if v.2 then c.stat ||| 0x40 else c.stat }

/-- What a predicate instruction writes: its destination and the condition, none where the condition is reserved (R112). -/
def predRow : Instr → Option (Head × Fin 8 × (Core → Option Bool))
  | .cmp h cond qd rs rt => some (h, qd, fun c => condHolds cond c.g[rs] c.g[rt])
  | .cmpi h cond qd rs imm => some (h, qd, fun c => condHolds cond c.g[rs] (BitVec.ofInt 32 imm.toInt))
  | .qop h func qd qa na qb nb => some (h, qd, fun c =>
      let a := c.q.getLsbD qa.val ^^ na
      let b := c.q.getLsbD qb.val ^^ nb
      some (if func = 0 then a && b else if func = 1 then a || b else if func = 2 then a ^^ b else a && !b))
  | _ => none

/-- Predicates with one written; Q0 stays 1. -/
def setPred (q : BitVec 8) (qd : Fin 8) (v : Bool) : BitVec 8 :=
  if qd = 0 then q else if v then q ||| (1 <<< qd.val) else q &&& ~~~((1 : BitVec 8) <<< qd.val)

/-- A multiply: its head, kind, use of the accumulator and fields. -/
def mulRow : Instr → Option (Head × MacKind × Opk × Fin 8 × Bool × Bool × Bool × Fin 32 × BitVec 6)
  | .mpy16 h a f m14 m13 ra b => some (h, .mul16, .mpy, a, f, m14, m13, ra, b)
  | .mac16 h a f m14 m13 ra b => some (h, .mul16, .mac, a, f, m14, m13, ra, b)
  | .msu16 h a f m14 m13 ra b => some (h, .mul16, .msu, a, f, m14, m13, ra, b)
  | .mpy2 h a f m14 m13 ra b => some (h, .mul2, .mpy, a, f, m14, m13, ra, b)
  | .mac2 h a f m14 m13 ra b => some (h, .mul2, .mac, a, f, m14, m13, ra, b)
  | .msu2 h a f m14 m13 ra b => some (h, .mul2, .msu, a, f, m14, m13, ra, b)
  | .mpyp h a f m14 m13 ra b => some (h, .mulP, .mpy, a, f, m14, m13, ra, b)
  | .macp h a f m14 m13 ra b => some (h, .mulP, .mac, a, f, m14, m13, ra, b)
  | .msup h a f m14 m13 ra b => some (h, .mulP, .msu, a, f, m14, m13, ra, b)
  | .mpyw h a f m14 m13 ra b => some (h, .mulW, .mpy, a, f, m14, m13, ra, b)
  | .macw h a f m14 m13 ra b => some (h, .mulW, .mac, a, f, m14, m13, ra, b)
  | .msuw h a f m14 m13 ra b => some (h, .mulW, .msu, a, f, m14, m13, ra, b)
  | .mpyl h a f m14 m13 ra b => some (h, .mulL, .mpy, a, f, m14, m13, ra, b)
  | .macl h a f m14 m13 ra b => some (h, .mulL, .mac, a, f, m14, m13, ra, b)
  | .msul h a f m14 m13 ra b => some (h, .mulL, .msu, a, f, m14, m13, ra, b)
  | _ => none

/-- A product of a multiply of two words: bit 14 and bit 13 of the instruction choose halves, signedness or the cross sum,
F aligns a fractional product (R95, R114). -/
def product (k : MacKind) (f m14 m13 : Bool) (a b : Word) : Int :=
  let ah := (hi16 a).toInt
  let al := (lo16 a).toInt
  let bh := (hi16 b).toInt
  let bl := (lo16 b).toInt
  match k with
  | .mul16 => (if m14 then ah else al) * (if m13 then bh else bl) * (if f then 2 ^ 33 else 1)
  | .mul2 => (if m14 then al * bh + ah * bl else al * bl + ah * bh) * (if f then 2 ^ 33 else 1)
  | .mulP => al * bl * (if f then 2 ^ 33 else 1)
  | .mulW => a.toInt * (if m13 then ((half m14 b).toNat : Int) else (half m14 b).toInt) * (if f then 2 ^ 17 else 1)
  | .mulL => (if m14 then (a.toNat : Int) else a.toInt) * (if m13 then (b.toNat : Int) else b.toInt) * (if f then 2 else 1)

/-- What a multiply makes of an accumulator: the exact value before it wraps at 72 bits. -/
def accValue (o : Opk) (a : BitVec 72) (p : Int) : Int :=
  match o with
  | .mpy => p
  | .mac => a.toInt + p
  | .msu => a.toInt - p

/-- The core with an accumulator written and AV set where the value left 72 bits. -/
def Machine.Core.sums (c : Core) (n : Fin 8) (v : Int) : Core :=
  { c with acc := c.acc.set n (BitVec.ofInt 72 v)
           stat := if (BitVec.ofInt 72 v).toInt = v then c.stat else c.stat ||| 0x80 }

/-- The core after a multiply by a word b. MPYP and its kin write the pair ACCD and ACCD + 1. -/
def Machine.Core.multiplied (c : Core) (k : MacKind) (o : Opk) (n : Fin 8) (f m14 m13 : Bool) (a b : Word) : Core :=
  let c1 := c.sums n (accValue o c.acc[n] (product k f m14 m13 a b))
  if k = .mulP then
    c1.sums (n + 1) (accValue o c.acc[(n + 1 : Fin 8)] ((hi16 a).toInt * (hi16 b).toInt * (if f then 2 ^ 33 else 1)))
  else c1

/-- What an accumulator instruction leaves in ACCD before wrapping (R116). -/
def accRow : Instr → Option (Head × Fin 8 × (Core → Int))
  | .aclr h d => some (h, d, fun _ => 0)
  | .amov h d x => some (h, d, fun c => c.acc[x].toInt)
  | .aadd h d x => some (h, d, fun c => c.acc[d].toInt + c.acc[x].toInt)
  | .asub h d x => some (h, d, fun c => c.acc[d].toInt - c.acc[x].toInt)
  | .aneg h d x => some (h, d, fun c => -c.acc[x].toInt)
  | .aabs h d x => some (h, d, fun c => |c.acc[x].toInt|)
  | .ashl h d amt => some (h, d, fun c => c.acc[d].toInt * (2 : Int) ^ amt.toNat)
  | .asra h d amt => some (h, d, fun c => c.acc[d].toInt / (2 : Int) ^ amt.toNat)
  | _ => none

/-- A load: head, size in bytes, sign extension, destination, pointer, mode, offset, and what SECDED finds (R117). -/
def loadRow : Instr → Option (Head × Nat × Bool × Fin 32 × Fin 16 × BitVec 2 × BitVec 10 × Ecc)
  | .ldB h rd pn m o e => some (h, 1, true, rd, pn, m, o, e)
  | .ldBu h rd pn m o e => some (h, 1, false, rd, pn, m, o, e)
  | .ldH h rd pn m o e => some (h, 2, true, rd, pn, m, o, e)
  | .ldHu h rd pn m o e => some (h, 2, false, rd, pn, m, o, e)
  | .ldW h rd pn m o e => some (h, 4, false, rd, pn, m, o, e)
  | .ldD h rd pn m o e => some (h, 8, false, rd, pn, m, o, e)
  | _ => none

/-- A store: head, size in bytes, source, pointer, mode and offset (R117). -/
def storeRow : Instr → Option (Head × Nat × Fin 32 × Fin 16 × BitVec 2 × BitVec 10)
  | .stB h rs pn m o => some (h, 1, rs, pn, m, o)
  | .stH h rs pn m o => some (h, 2, rs, pn, m, o)
  | .stW h rs pn m o => some (h, 4, rs, pn, m, o)
  | .stD h rs pn m o => some (h, 8, rs, pn, m, o)
  | _ => none

/-- The memory operand is well-formed: a register mode's offset is a modifier number, and a double names an even register
(R117). -/
def memForm (size : Nat) (r : Fin 32) (mode : BitVec 2) (off : BitVec 10) : Prop :=
  (2 ≤ mode.toNat → off.toNat < 8) ∧ (size = 8 → r.val % 2 = 0)

/-- The core after the access's pointer is post-modified, where its mode does that. -/
def Machine.Core.posted (c : Core) (pn : Fin 16) (mode : BitVec 2) (off : BitVec 10) (size : Nat) : Core :=
  match mode.toNat with
  | 1 => { c with p := c.p.set pn (c.postMod pn (off.toInt * size)) }
  | 2 => { c with p := c.p.set pn (c.postMod pn (c.m.toList.getD off.toNat 0).toInt) }
  | _ => c

/-- The core address of an access (R117): pre-offset for mode 0, indexed for mode 3, the pointer itself for the post-modify
modes. -/
def Machine.Core.accessAt (c : Core) (pn : Fin 16) (mode : BitVec 2) (off : BitVec 10) (size : Nat) : Nat :=
  match mode.toNat with
  | 0 => (BitVec.ofInt 32 ((c.p[pn].toNat : Int) + off.toInt * size)).toNat
  | 3 => (c.p[pn] + c.m.toList.getD off.toNat 0).toNat
  | _ => c.p[pn].toNat

/-- FWB of CTRL: the window of memory that far addresses use (R40). -/
def Machine.Core.window (c : Core) : Nat := bits c.ctrl.toNat 25 16

/-- The destination registers of a load with a value of the size. -/
def Machine.Core.loaded (c : Core) (rd : Fin 32) (size : Nat) (signed : Bool) (v : Nat) : Core :=
  if size = 8 then { c with g := (c.g.set rd (BitVec.ofNat 32 v)).set (rd + 1 : Fin 32) (BitVec.ofNat 32 (v / 2 ^ 32)) }
  else if signed then { c with g := c.g.set rd (BitVec.ofInt 32 (toSigned (8 * size) v)) }
  else { c with g := c.g.set rd (BitVec.ofNat 32 v) }

end Sys2Proof

/-- Every instruction of R111 and R113, alone in its bundle, completes: RD takes the value of its formula, SV is set where a
saturating form saturates, the next bundle follows, and nothing else of the core and of the part changes but what a bundle
counts. -/
def Obligations.IntegerInstructions : Prop :=
  ∀ i h rd v s, aluRow i = some (h, rd, v) → Canon s → Quiet s → Alone i h s →
    ∃ t, exec i s = .next t ∧ RanHere h s t (fun c => (c.gets rd (v c)).pass)

/-- RND and DIVS (R113), by their formulas: RND is the exact quotient by 2^AMT, rounded in its mode; 15 steps of DIVS on
num << 16 with num < den ≤ 0x7FFF leave the Q15 quotient in RD[14:0]. -/
def Obligations.RoundAndDivide : Prop :=
  (∀ h rd rs amt rndf s, Canon s → Quiet s → Alone (.rnd h rd rs amt rndf) h s → ∃ t, exec (.rnd h rd rs amt rndf) s = .next t ∧
      RanHere h s t (fun c => (c.gets rd (BitVec.ofInt 32 (
        let v := c.g[rs].toInt
        let m : Int := 2 ^ amt.toNat
        let mode := if rndf = 0 then bits c.stat.toNat 27 26 else rndf.toNat
        if mode = 1 then v / m
        else if mode = 2 ∧ 2 * (v % m) = m then 2 * ((v / m + 1) / 2)
        else (2 * v + m) / (2 * m)), false)).pass)) ∧
  (∀ h rd rs s, Canon s → Quiet s → Alone (.divs h rd rs) h s → ∃ t, exec (.divs h rd rs) s = .next t ∧
      RanHere h s t (fun c =>
        (c.gets rd (divideStep c.g[rd] c.g[rs], false)).pass)) ∧
  (∀ num den : Nat, num < den → den ≤ 0x7FFF →
    ((List.range 15).foldl (fun u _ => divideStep u (BitVec.ofNat 32 den)) (BitVec.ofNat 32 (num * 65536))).toNat % 32768 =
      num * 32768 / den)

/-- CMP, CMPI and QOP (R112), alone in their bundles: QD takes the condition, a write of Q0 is ignored, and nothing else
changes. -/
def Obligations.PredicateInstructions : Prop :=
  ∀ i h qd v b s, predRow i = some (h, qd, v) → Canon s → Quiet s → Alone i h s → v (coreAt h s) = some b →
    ∃ t, exec i s = .next t ∧ RanHere h s t (fun c => ({ c with q := setPred c.q qd b } : Core).pass)

/-- The fifteen multiplies (R114) with a G register as second operand: the exact product or sum, wrapped at 72 bits, with AV
where it wraps. -/
def Claims.Multiplies : Prop :=
  ∀ i h k o n f m14 m13 ra b s, mulRow i = some (h, k, o, n, f, m14, m13, ra, b) → (hb : b.toNat < 32) →
    macOk k n m14 m13 = true → Canon s → Quiet s → Alone i h s →
    ∃ t, exec i s = .next t ∧
      RanHere h s t (fun c => (c.multiplied k o n f m14 m13 c.g[ra] c.g[b.toNat]).pass)

/-- The fifteen multiplies (R114) with a word of the C stream as second operand: the 64-bit word at P15 gives its low or its
high word, and P15 is post-modified by 8 (R87, R91). -/
def Claims.StreamMultiplies : Prop :=
  ∀ i h k o n f m14 m13 ra b s w, mulRow i = some (h, k, o, n, f, m14, m13, ra, b) → (b = 32 ∨ b = 33) →
    macOk k n m14 m13 = true → Canon s → Quiet s → Alone i h s →
    s.streamRead h.cl.val h.t.val (coreAt h s).window (coreAt h s).p[15].toNat .ok = (s, w, none) →
    ∃ t, exec i s = .next t ∧
      RanHere h s t (fun c =>
        let d := c.multiplied k o n f m14 m13 c.g[ra] (if b = 32 then BitVec.ofNat 32 w else BitVec.ofNat 32 (w / 2 ^ 32))
        ({ d with p := d.p.set 15 (c.postMod 15 8) } : Core).pass)

/-- The accumulator instructions (R116): the exact result wrapped at 72 bits, with AV where it wraps; and EXT (R115): ACCS as
R96 extracts it, saturated, with SV. -/
def Claims.AccumulatorInstructions : Prop :=
  (∀ i h d v s, accRow i = some (h, d, v) → Canon s → Quiet s → Alone i h s →
    ∃ t, exec i s = .next t ∧ RanHere h s t (fun c => (c.sums d (v c)).pass)) ∧
  (∀ (h : Head) (rd : Fin 32) (a : Fin 8) (tgt : BitVec 2) (shift : BitVec 5) (rndf : BitVec 2) (s : State), tgt ≠ 3 → -8 ≤ shift.toInt → shift.toInt ≤ 8 → Canon s → Quiet s → Alone (.ext h rd a tgt shift rndf) h s →
    ∃ t, exec (.ext h rd a tgt shift rndf) s = .next t ∧
      RanHere h s t (fun c => (c.gets rd
        (let raw := extractRaw tgt.toNat shift.toInt (roundMode c.stat rndf) c.acc[a]
         let w := if tgt = 0 then 16 else 32
         (BitVec.ofInt 32 (heldTo w raw), decide (heldTo w raw ≠ raw)))).pass))

/-- The loads (R117): the bytes at the core address that the mode forms, sign- or zero-extended, little-endian, from memory
that the core reaches, aligned and not poisoned; the pointer is post-modified in modes 1 and 2 alone. A corrected error of the
bytes read is noted, and the load goes on (R62). -/
def Obligations.Loads : Prop :=
  ∀ i h size sg rd pn mode off ecc s dpa, loadRow i = some (h, size, sg, rd, pn, mode, off, ecc) → memForm size rd mode off →
    Canon s → Quiet s → Alone i h s → (∀ y, ecc ≠ .ue y) →
    coreToDpa h.cl.val h.t.val (coreAt h s).window ((coreAt h s).accessAt pn mode off size) = some dpa →
    s.coreReaches h.cl.val dpa = true → (coreAt h s).accessAt pn mode off size % size = 0 → s.poisoned dpa = false →
    ∃ t, exec i s = .next t ∧
      Ran h s (s.eccAt dpa ecc) t
        (fun c => ((c.posted pn mode off size).loaded rd size sg (leNat (s.bytes dpa size))).pass)

/-- The stores (R117): the low bytes of RS, or RS and RS + 1, go to the core address that the mode forms, in memory that the
core reaches and may write, aligned, and not in part of a poisoned word; the rest of the part is that of the state after that
write. -/
def Obligations.Stores : Prop :=
  ∀ i h size rs pn mode off s dpa, storeRow i = some (h, size, rs, pn, mode, off) → memForm size rs mode off →
    Canon s → Quiet s → Alone i h s →
    coreToDpa h.cl.val h.t.val (coreAt h s).window ((coreAt h s).accessAt pn mode off size) = some dpa →
    s.coreReaches h.cl.val dpa = true → storeBarred h.cl.val h.t.val dpa = false →
    (coreAt h s).accessAt pn mode off size % size = 0 → (size = 8 ∨ s.poisoned dpa = false) →
    ∃ t, exec i s = .next t ∧
      Ran h s (s.write dpa (leBytes size ((coreAt h s).g[rs].toNat + 2 ^ 32 * (coreAt h s).g[(rs + 1 : Fin 32)].toNat))) t
        (fun c => (c.posted pn mode off size).pass)

/-- NOP, MOVX, PMOVI, PADD and TBRD (R108, R119, R121, R122): a MOVX between registers that exist, without change of a
read-only register; a pointer loaded or post-modified; TB2 in seconds and nanoseconds. -/
def Obligations.MovesAndPointers : Prop :=
  (∀ h s, Canon s → Quiet s → Alone (.nop h) h s → ∃ t, exec (.nop h) s = .next t ∧ RanHere h s t (fun c => c.pass)) ∧
  (∀ h dst src d r s, extReg dst = some d → extReg src = some r → Canon s → Quiet s → Alone (.movx h dst src) h s →
    (∀ k, d = .ctl k → (coreAt h s).roChange h.cl.val h.t.val k.val ((coreAt h s).read h.cl.val h.t.val r) = false) →
    ∃ t, exec (.movx h dst src) s = .next t ∧
      RanHere h s t (fun c => (c.write d ((c.read h.cl.val h.t.val r).setWidth 72)).pass)) ∧
  (∀ h pn imm s, Canon s → Quiet s → Alone (.pmovi h pn imm) h s → ∃ t, exec (.pmovi h pn imm) s = .next t ∧
    RanHere h s t (fun c => ({ c with p := c.p.set pn (BitVec.ofNat 32 (4 * imm.toNat)) } : Core).pass)) ∧
  (∀ h pn imm s, Canon s → Quiet s → Alone (.padd h pn false imm) h s → ∃ t, exec (.padd h pn false imm) s = .next t ∧
    RanHere h s t (fun c => ({ c with p := c.p.set pn (c.postMod pn imm.toInt) } : Core).pass)) ∧
  (∀ (h : Head) (pn : Fin 16) (imm : BitVec 16) (s : State), imm.toNat < 8 → Canon s → Quiet s → Alone (.padd h pn true imm) h s → ∃ t, exec (.padd h pn true imm) s = .next t ∧
    RanHere h s t (fun c => ({ c with p := c.p.set pn (c.postMod pn (c.m.toList.getD imm.toNat 0).toInt) } : Core).pass)) ∧
  (∀ (h : Head) (rd : Fin 32) (s : State), rd.val % 2 = 0 → Canon s → Quiet s → Alone (.tbrd h rd) h s → ∃ t, exec (.tbrd h rd) s = .next t ∧
    RanHere h s t (fun c =>
      ({ c with g := (c.g.set rd ((s.tb 2).sec.setWidth 32)).set (rd + 1 : Fin 32) (s.tb 2).ns } : Core).pass))

/-- BR, BL and JR (R123), LOOP and LOOPI (R124) and FENCE (R126) outside loops: the target of a branch, G31 for BL, the level
that a loop opens or the body that a count of 0 skips; a fence of a defined scope and kind only waits. -/
def Obligations.ControlFlow : Prop :=
  (∀ h off s, Canon s → Quiet s → Alone (.br h off) h s → ∃ t, exec (.br h off) s = .next t ∧
    RanHere h s t (fun c => { c with pc := BitVec.ofInt 32 ((c.pc.toNat : Int) + 4 * off.toInt) })) ∧
  (∀ h off s, Canon s → Quiet s → Alone (.bl h off) h s → ∃ t, exec (.bl h off) s = .next t ∧
    RanHere h s t (fun c =>
      { c with pc := BitVec.ofInt 32 ((c.pc.toNat : Int) + 4 * off.toInt), g := c.g.set 31 (c.pc + 4) })) ∧
  (∀ h rs s, Canon s → Quiet s → Alone (.jr h rs) h s → ∃ t, exec (.jr h rs) s = .next t ∧
    RanHere h s t (fun c => { c with pc := c.g[rs] &&& 0xFFFFFFFC })) ∧
  (∀ i h body count s, ((∃ rs b, i = .loop h rs b ∧ count = (coreAt h s).g[rs].toNat ∧ body = b.toNat) ∨
      (∃ b k, i = .loopi h b k ∧ count = k.toNat ∧ body = b.toNat)) → count ≠ 0 →
    (coreAt h s).pc.toNat + 4 + 4 * body < 0x60000 → Canon s → Quiet s → Alone i h s → ∃ t, exec i s = .next t ∧
    RanHere h s t (fun c =>
      { c.withDepth 1 with
        pc := c.pc + 4
        lstart := c.lstart.set 0 (c.pc + 4)
        lend := c.lend.set 0 (BitVec.ofNat 32 (c.pc.toNat + 4 + 4 * body))
        lc := c.lc.set 0 (BitVec.ofNat 32 count) })) ∧
  (∀ i h body s, ((∃ rs b, i = .loop h rs b ∧ 0 = (coreAt h s).g[rs].toNat ∧ body = b.toNat) ∨
      (∃ b, i = .loopi h b 0 ∧ body = b.toNat)) →
    (coreAt h s).pc.toNat + 4 + 4 * body < 0x60000 → Canon s → Quiet s → Alone i h s → ∃ t, exec i s = .next t ∧
    RanHere h s t (fun c => { c with pc := BitVec.ofNat 32 (c.pc.toNat + 8 + 4 * body) })) ∧
  (∀ (h : Head) (sc : BitVec 3) (kd : BitVec 2) (s : State), kd ≠ 0 → sc.toNat ≤ 4 → Canon s → Quiet s → Alone (.fence h sc kd) h s → ∃ t, exec (.fence h sc kd) s = .next t ∧
    RanHere h s t (fun c => c.pass))

/-- Words and instructions agree (R106 to R129): the word of a core instruction that is not illegal decodes to it, with every operand at
every value that its encoding admits; and a word that decodes to an instruction is that instruction's word, no bit ignored. -/
def Obligations.CoreWordsDecode : Prop :=
  (∀ i x w, coreFields i = some x → x.1.ill = false → coreWord i = some w →
    ∃ e, decodeCore x.1.cl x.1.t x.1.fetch x.1.cs x.1.merge e w = some i) ∧
  (∀ cl t f c m e w i, decodeCore cl t f c m e w = some i → coreWord i = some w)

/-- The fifteen multiplies, the accumulator instructions and EXT: the claims Multiplies, StreamMultiplies,
AccumulatorInstructions. -/
def Obligations.MultipliesAndAccumulators : Prop :=
  Claims.Multiplies ∧ Claims.StreamMultiplies ∧ Claims.AccumulatorInstructions

/-! ## Casks, work items and tiles (R99 to R157, R413) -/

namespace Sys2Proof

/-- Four G registers from RS as a 128-bit word, lowest first. -/
def quadOf (c : Core) (rs : Fin 32) : BitVec 128 :=
  c.g[(rs + 3 : Fin 32)] ++ c.g[(rs + 2 : Fin 32)] ++ c.g[(rs + 1 : Fin 32)] ++ c.g[rs]

/-- Eight G registers from RS, lowest first. -/
def octOf (c : Core) (rs : Fin 32) : List Word := (List.finRange 8).map (fun i => c.g[(rs + Fin.ofNat 32 i.val : Fin 32)])

/-- The tile of an instruction as a producer of packets. -/
def maker (h : Head) : Producer := .tile h.cl h.t

/-- No open packet of a producer. -/
def idleMaker (s : State) (p : Producer) : Prop := ∀ e ∈ s.casks, e.2.openOf p = none

end Sys2Proof

/-- CKW, CKC, CKC.REL, CKA and CKR (R127, R128, R131, R135 to R137) on a cask whose die can be reached: an accepted word takes a
free place of the cask's storage in Cellar, joins the tile's open packet and sets QD; a commit appends the whole packet behind
the others; an abandon removes it; a read delivers the word at the read position (0 where it is poisoned, or where SECDED finds
an error that it cannot correct) with its status and advances. -/
def Claims.CaskInstructions : Prop :=
  (∀ h (rs rc : Fin 32) (qd : Fin 8) s x, rs.val % 4 = 0 → qd ≠ 0 → Canon s → Quiet s → Alone (.ckw h rs rc qd) h s →
    x = handleOf (coreAt h s).g[rc] → (s.divided = false ∨ caskDie x = dieOf h.cl.val) → s.accepts x (maker h) = true →
    ∃ t, exec (.ckw h rs rc qd) s = .next t ∧
      Ran h s ((s.setCask x ((s.cask x).grow (maker h))).storeWord x (s.cask x).freeSlot ⟨quadOf (coreAt h s) rs, false⟩) t
        (fun c => ({ c with q := setPred c.q qd true } : Core).pass) ∧
      (∃ o, (t.cask x).openOf (maker h) = some o ∧ o.slots.getLast? = some (s.cask x).freeSlot) ∧
      (s.cask x).slots.contains (s.cask x).freeSlot = false ∧
      (s.placeDpa x (s.cask x).freeSlot + 16 ≤ 0x14000000 + caskDie x * 0x4000000 →
        t.storedWord x (s.cask x).freeSlot = ⟨quadOf (coreAt h s) rs, false⟩)) ∧
  (∀ i h (rc : Fin 32) s x o, (i = .ckc h rc ∨ i = .ckcRel h rc) → Canon s → Quiet s → Alone i h s →
    x = handleOf (coreAt h s).g[rc] → (s.divided = false ∨ caskDie x = dieOf h.cl.val) →
    (s.cask x).openOf (maker h) = some o → o.flushed = false →
    ∃ t, exec i s = .next t ∧ Ran h s (s.commitPkt x (maker h)) t (fun c => c.pass) ∧
      (t.cask x).pkts = (s.cask x).pkts ++ [o.slots] ∧ (t.cask x).openOf (maker h) = none) ∧
  (∀ h (rc : Fin 32) s x o, Canon s → Quiet s → Alone (.cka h rc) h s →
    x = handleOf (coreAt h s).g[rc] → (s.divided = false ∨ caskDie x = dieOf h.cl.val) →
    (s.cask x).openOf (maker h) = some o →
    ∃ t, exec (.cka h rc) s = .next t ∧ Ran h s (s.abandonPkt x (maker h)) t (fun c => c.pass) ∧
      (t.cask x).pkts = (s.cask x).pkts ∧ (t.cask x).openOf (maker h) = none) ∧
  (∀ h (rd rc rs : Fin 32) ecc s x, rd.val % 4 = 0 → rs.val / 4 ≠ rd.val / 4 → Canon s → Quiet s →
    Alone (.ckr h rd rc rs ecc) h s →
    x = handleOf (coreAt h s).g[rc] → (s.divided = false ∨ caskDie x = dieOf h.cl.val) →
    ∃ t, exec (.ckr h rd rc rs ecc) s = .next t ∧
      Ran h s ((s.caskEcc x ecc).consume x) t (fun c =>
        let w := (s.caskEcc x ecc).peek x
        let v : BitVec 128 := if w.1.poison then 0 else w.1.val
        ({ c with g := ((((c.g.set rd (v.extractLsb' 0 32)).set (rd + 1 : Fin 32) (v.extractLsb' 32 32)).set
          (rd + 2 : Fin 32) (v.extractLsb' 64 32)).set (rd + 3 : Fin 32) (v.extractLsb' 96 32)).set rs w.2 } : Core).pass))

/-- WPOST and WDELAY (R129, R147, R154): an item that the cluster's state accepts, valid and with room, joins the pending store
or the delay list, and QD is set. -/
def Claims.PostInstructions : Prop :=
  (∀ h (rs rt : Fin 32) (qd : Fin 8) s n o, rs.val % 8 = 0 → qd ≠ 0 → Canon s → Quiet s → Alone (.wpost h rs rt qd) h s →
    n = (coreAt h s).g[rt].toNat % 32 → o = (if n = h.cl.val then Origin.tile else .otherTile) →
    (s.divided = false ∨ dieOf n = dieOf h.cl.val) →
    stateAccepts (s.clState n) (((octOf (coreAt h s) rs).getD 0 0).toNat / 2 ^ 26 % 4) o = true →
    itemValid (octOf (coreAt h s) rs) o = true → (s.cluster n).pend.length < s.postLim n →
    ∃ t, exec (.wpost h rs rt qd) s = .next t ∧
      Ran h s (s.acceptItem n (itemOf (octOf (coreAt h s) rs) o)) t
        (fun c => ({ c with q := setPred c.q qd true } : Core).pass) ∧
      (t.cluster n).pend = (s.cluster n).pend ++ [itemOf (octOf (coreAt h s) rs) o]) ∧
  (∀ h (rs rt : Fin 32) (qd : Fin 8) s k, rs.val % 8 = 0 → qd ≠ 0 → Canon s → Quiet s → Alone (.wdelay h rs rt qd) h s →
    stateAccepts (s.clState h.cl.val) (((octOf (coreAt h s) rs).getD 0 0).toNat / 2 ^ 26 % 4) .tile = true →
    itemValid (octOf (coreAt h s) rs) .tile = true → (coreAt h s).g[rt].toNat ≤ 4194303 →
    freeTimer (s.cluster h.cl.val) = some k →
    ∃ t, exec (.wdelay h rs rt qd) s = .next t ∧
      Ran h s (s.armOneShot h.cl.val { itemOf (octOf (coreAt h s) rs) .tile with origin := .delayList }
          (coreAt h s).g[rt].toNat false k) t
        (fun c => ({ c with q := setPred c.q qd true } : Core).pass))

/-- RET (R103) of an item that is no kernel item of a chain run, at a tile with no open packet: the item ends, ITEMS counts, the
tile is gated and runs nothing; no other core, cask, slot or byte of memory changes. -/
def Claims.ItemEnds : Prop :=
  ∀ h s it, Canon s → Quiet s → Alone (.ret h) h s → (coreAt h s).running = some it → it.run = none → idleMaker s (maker h) →
    ∃ t, exec (.ret h) s = .next t ∧
      (coreAt h t).running = none ∧ (coreAt h t).bundle = [] ∧
      t.rb (TILE.STATE h.cl.val h.t.val) F.TILE_STATE_RUNNING = false ∧
      t.rb (TILE.STATE h.cl.val h.t.val) F.TILE_STATE_GATED = true ∧
      Counts s t (TILE.ITEMS_LO h.cl.val h.t.val) 1 ∧
      (∀ m j, 12 * m + j ≠ 12 * h.cl.val + h.t.val → t.core m j = s.core m j) ∧
      ∃ r c m w k, t = { s with regs := r, cores := c, msix := m, wire := w, freeCount := k }

/-- The exception log, the tile and the counts after an exception (R98, R100, R104). -/
structure Sys2Proof.Excepted (s t : State) (n k code addr : Nat) : Prop where
  valid : t.rb (TILE.EXC_INFO n k) F.TILE_EXC_INFO_VALID = true
  code : t.rf (TILE.EXC_INFO n k) F.TILE_EXC_INFO_CODE = code
  pc : t.reg (TILE.EXC_PC n k) = (s.core n k).pc
  addr : t.reg (TILE.EXC_ADDR n k) = BitVec.ofNat 32 addr
  tid : t.reg (TILE.EXC_TID n k) = (s.core n k).itid.setWidth 32
  counted : Counts s t (TILE.EXCEPTIONS_LO n k) 1
  cause : t.rb (WS.EVT n) F.WS_EVT_EXC = true
  ended : (t.core n k).running = none
  gated : t.rb (TILE.STATE n k) F.TILE_STATE_GATED = true
  others : ∀ m j, 12 * m + j ≠ 12 * n + k → t.core m j = s.core m j
  rest : ∃ r c m w, t = { s with regs := r, cores := c, msix := m, wire := w }

/-- A tile whose item, no kernel item of a chain run, ends without open packets, and whose exception log is empty. -/
structure Sys2Proof.Ending (s : State) (cl : Fin 32) (k : Fin 12) : Prop where
  runs : ∃ it, (s.core cl.val k.val).running = some it ∧ it.run = none
  idle : idleMaker s (.tile cl k)
  empty : s.rb (TILE.EXC_INFO cl.val k.val) F.TILE_EXC_INFO_VALID = false

/-- Exceptions (R98, R99): OVERRUN where CYC has reached ILIM (code 7); an instruction whose word is illegal (code 1); a bundle
outside P memory (code 2); a fetch from a poisoned word (code 5); a fifth loop level (code 6); a load from where no memory can be
reached (code 3), not aligned (code 4), or poisoned (code 5). No instruction of the bundle takes effect. -/
def Claims.ExceptionsEndItems : Prop :=
  (∀ (cl : Fin 32) (k : Fin 12) s, Canon s → Quiet s → s.executes cl.val k.val = true → (s.core cl.val k.val).bundle = [] →
    (s.core cl.val k.val).ilim.toNat ≤ (s.core cl.val k.val).cyc.toNat → Ending s cl k →
    ∃ t, exec (.overrun cl k) s = .next t ∧ Excepted s t cl.val k.val 7 (s.core cl.val k.val).pc.toNat) ∧
  (∀ h s (code : Nat), Canon s → Quiet s → s.executes h.cl.val h.t.val = true → (coreAt h s).bundle = [] → h.e = true →
    (coreAt h s).cyc.toNat < (coreAt h s).ilim.toNat → s.dbgOpen = false → (coreAt h s).depth = 0 → Ending s h.cl h.t →
    ((code = 1 ∧ h.ill = true ∧ wordMatches (.nop h) (fetched h s) = true ∧ h.fetch = .ok ∧
        s.poisoned (tileDpa h.cl.val h.t.val (coreAt h s).pc.toNat) = false ∧
        0x50000 ≤ (coreAt h s).pc.toNat ∧ (coreAt h s).pc.toNat ≤ 0x5FFFC) ∨
      (code = 2 ∧ (0x5FFFC < (coreAt h s).pc.toNat ∨ (coreAt h s).pc.toNat < 0x50000)) ∨
      (code = 5 ∧ s.poisoned (tileDpa h.cl.val h.t.val (coreAt h s).pc.toNat) = true ∧
        0x50000 ≤ (coreAt h s).pc.toNat ∧ (coreAt h s).pc.toNat ≤ 0x5FFFC)) →
    ∃ t, exec (.nop h) s = .next t ∧ Excepted s t h.cl.val h.t.val code (coreAt h s).pc.toNat) ∧
  (∀ h b n s, Canon s → Quiet s → s.executes h.cl.val h.t.val = true → (coreAt h s).bundle = [] → h.e = true →
    h.ill = false → h.fetch = .ok → headOn h (coreAt h s) = true → 4 ≤ (coreAt h s).depth →
    0x50000 ≤ (coreAt h s).pc.toNat → (coreAt h s).pc.toNat + 4 + 4 * b.toNat < 0x60000 →
    (coreAt h s).cyc.toNat < (coreAt h s).ilim.toNat → s.dbgOpen = false → Ending s h.cl h.t →
    s.poisoned (tileDpa h.cl.val h.t.val (coreAt h s).pc.toNat) = false →
    wordMatches (.loopi h b n) (fetched h s) = true →
    ∃ t, exec (.loopi h b n) s = .next t ∧ Excepted s t h.cl.val h.t.val 6 (coreAt h s).pc.toNat) ∧
  (∀ i h size sg rd pn mode off ecc s a (code : Nat), loadRow i = some (h, size, sg, rd, pn, mode, off, ecc) →
    memForm size rd mode off → Canon s → Quiet s → Alone i h s → Ending s h.cl h.t →
    a = (coreAt h s).accessAt pn mode off size →
    ((code = 3 ∧ ∀ d, coreToDpa h.cl.val h.t.val (coreAt h s).window a = some d → s.coreReaches h.cl.val d = false) ∨
      ∃ d, coreToDpa h.cl.val h.t.val (coreAt h s).window a = some d ∧ s.coreReaches h.cl.val d = true ∧
        ((code = 4 ∧ a % size ≠ 0) ∨ (code = 5 ∧ a % size = 0 ∧ s.poisoned d = true))) →
    ∃ t, exec i s = .next t ∧ Excepted s t h.cl.val h.t.val code a)

/-- An instruction whose predicate does not match executes nothing (R86): no register, accumulator, pointer or byte of memory
changes, nothing is loaded or stored, and the next bundle follows. So the integer and logic instructions, the loads and the
stores. -/
def Obligations.PredicateOff : Prop :=
  ∀ i h s, Canon s → Quiet s → wordMatches i (fetched h s) = true → s.executes h.cl.val h.t.val = true →
    (coreAt h s).bundle = [] → h.e = true → h.ill = false → h.fetch = .ok →
    headOn h (coreAt h s) = false → (coreAt h s).cyc.toNat < (coreAt h s).ilim.toNat → 0x50000 ≤ (coreAt h s).pc.toNat →
    (coreAt h s).pc.toNat ≤ 0x5FFFC → (coreAt h s).depth = 0 →
    s.poisoned (tileDpa h.cl.val h.t.val (coreAt h s).pc.toNat) = false → s.dbgOpen = false →
    ((∃ rd v, aluRow i = some (h, rd, v)) ∨
      (∃ size sg rd pn mode off ecc, loadRow i = some (h, size, sg, rd, pn, mode, off, ecc) ∧ memForm size rd mode off) ∨
      (∃ size rs pn mode off, storeRow i = some (h, size, rs, pn, mode, off) ∧ memForm size rs mode off)) →
    ∃ t, exec i s = .next t ∧ RanHere h s t (fun c => c.pass)

/-- HALT, STEP, RESUME and BREAKPOINT (R105) on a cluster that is not OFF, with tile debug open: the HALTED bits, a step of one
bundle, and a halt before the bundle that a breakpoint matches. -/
def Claims.TileDebug : Prop :=
  (∀ i (cl : Fin 32) (k : Fin 12) s, Canon s → s.dbgOpen = true → s.clState cl.val ≠ stOff →
    (i = .halt cl k ∨ (i = .breakpoint cl k ∧ s.executes cl.val k.val = true ∧
      s.rb (TILE.DBG_CTRL cl.val k.val) F.TILE_DBG_CTRL_BPEN = true ∧
      s.rb (TILE.BP cl.val k.val 0) F.TILE_BP_EN = true ∧
      4 * s.rf (TILE.BP cl.val k.val 0) F.TILE_BP_ADDR = (s.core cl.val k.val).pc.toNat)) →
    ∃ t, exec i s = .next t ∧ t.rb (TILE.STATE cl.val k.val) F.TILE_STATE_HALTED = true ∧
      t.rb (TILE.DBG_CTRL cl.val k.val) F.TILE_DBG_CTRL_HALTED = true ∧ t.executes cl.val k.val = false ∧
      Touches [TILE.STATE cl.val k.val, TILE.DBG_CTRL cl.val k.val]
        (s.setCore cl.val k.val { s.core cl.val k.val with bundle := [], stepping := false }) t) ∧
  (∀ (cl : Fin 32) (k : Fin 12) s, Canon s → s.dbgOpen = true → s.clState cl.val ≠ stOff →
    s.rb (TILE.STATE cl.val k.val) F.TILE_STATE_HALTED = true →
    ∃ t, exec (.step cl k) s = .next t ∧ (t.core cl.val k.val).stepping = true ∧
      t = s.setCore cl.val k.val { s.core cl.val k.val with stepping := true }) ∧
  (∀ (cl : Fin 32) (k : Fin 12) s, Canon s → s.dbgOpen = true → s.clState cl.val ≠ stOff →
    ∃ t, exec (.resume cl k) s = .next t ∧ t.rb (TILE.STATE cl.val k.val) F.TILE_STATE_HALTED = false ∧
      t.rb (TILE.DBG_CTRL cl.val k.val) F.TILE_DBG_CTRL_HALTED = false ∧
      Touches [TILE.STATE cl.val k.val, TILE.DBG_CTRL cl.val k.val] s t)

/-- POST, DELAY and CANCEL of HPCTL (R147, R154, R157): the host's item, valid, accepted by the cluster's state and with room,
joins the pending store; a timer is armed with it for the first whole microsecond of TB2 at or after now plus the delay, and its
number shown; a timer that the host armed is disarmed, unless its tick has come. Each that succeeds posts code 0. -/
def Claims.HostItems : Prop :=
  (∀ (cl : Fin 32) s ws, Canon s → Quiet s → Opens s (WS.HPCTL cl.val) → s.ready (WS.HP_STATUS cl.val) = true →
    ws = s.hpost cl.val → stateAccepts (s.clState cl.val) ((ws.getD 0 0).toNat / 2 ^ 26 % 4) .host = true →
    itemValid ws .host = true → (s.cluster cl.val).pend.length < s.postLim cl.val →
    ∃ t, exec (.post cl) s = .next t ∧ Reports s t (WS.HP_STATUS cl.val) 0 ∧ Counts s t (WS.POSTED_LO cl.val) 1 ∧
      Touches ([WS.HP_STATUS cl.val, WS.EVT cl.val] ++ twin (WS.POSTED_LO cl.val))
        (s.setCluster cl.val { s.cluster cl.val with pend := (s.cluster cl.val).pend ++ [itemOf ws .host] }) t) ∧
  (∀ (cl : Fin 32) (us : BitVec 32) s ws k, Canon s → Quiet s → Opens s (WS.HPCTL cl.val) →
    s.ready (WS.HP_STATUS cl.val) = true → ws = s.hpost cl.val →
    stateAccepts (s.clState cl.val) ((ws.getD 0 0).toNat / 2 ^ 26 % 4) .host = true → itemValid ws .host = true →
    us.toNat ≤ 4194303 → freeTimer (s.cluster cl.val) = some k →
    ∃ t, exec (.delay cl us) s = .next t ∧ Reports s t (WS.HP_STATUS cl.val) 0 ∧
      t.rv (WS.HP_TIMER cl.val) = k ∧
      (∃ x, (t.cluster cl.val).timers = sput (s.cluster cl.val).timers k
        ⟨s.tb2usUp (dieOf cl.val) + us.toNat, .oneShot { itemOf ws .host with origin := .delayList } true x⟩) ∧
      Touches [WS.HP_STATUS cl.val, WS.HP_TIMER cl.val]
        (s.armOneShot cl.val { itemOf ws .host with origin := .delayList } us.toNat true k) t) ∧
  (∀ (cl : Fin 32) (k : BitVec 13) s due it x, Canon s → Quiet s → Opens s (WS.HPCTL cl.val) →
    s.ready (WS.HP_STATUS cl.val) = true → (s.cluster cl.val).armed k.toNat = some ⟨due, .oneShot it true x⟩ →
    ∃ t, exec (.cancel cl k) s = .next t ∧
      (s.tb2usOn (dieOf cl.val) < due → Reports s t (WS.HP_STATUS cl.val) 0 ∧ Touches [WS.HP_STATUS cl.val]
        (s.setCluster cl.val { s.cluster cl.val with timers := sdel (s.cluster cl.val).timers k.toNat }) t) ∧
      (due ≤ s.tb2usOn (dieOf cl.val) → Reports s t (WS.HP_STATUS cl.val) 0x306))

/-- DEFERRED_ACCEPT and the expiry of timers (R147, R154 to R156) with room in the pending store and no release waiting before them: the first waiting item, the
item of a one-shot timer that is due and first, or the chain-run items of a periodic timer join the store; the one-shot timer
becomes free and the periodic one re-arms at its next tick. -/
def Claims.TimedReleases : Prop :=
  (∀ (cl : Fin 32) s it rest, Canon s → Quiet s → (s.cluster cl.val).waiting = (it, none) :: rest →
    (s.cluster cl.val).pend.length < 4096 → stateAccepts (s.clState cl.val) it.typ.toNat it.origin = true →
    ∃ t, exec (.deferredAccept cl) s = .next t ∧ Counts s t (WS.POSTED_LO cl.val) 1 ∧
      Touches (WS.EVT cl.val :: twin (WS.POSTED_LO cl.val)) (s.setCluster cl.val { s.cluster cl.val with
        waiting := rest, pend := (s.cluster cl.val).pend ++ [it] }) t) ∧
  (∀ (cl : Fin 32) (k : BitVec 13) s due it y x, Canon s → Quiet s →
    (s.cluster cl.val).armed k.toNat = some ⟨due, .oneShot it y x⟩ → s.timerFirst cl.val ⟨due, .oneShot it y x⟩ = true →
    s.mustWait cl.val it = false → stateAccepts (s.clState cl.val) it.typ.toNat it.origin = true →
    ∃ t, exec (.oneShotTimerExpiry cl k) s = .next t ∧ Counts s t (WS.POSTED_LO cl.val) 1 ∧
      Touches (WS.EVT cl.val :: twin (WS.POSTED_LO cl.val)) (s.setCluster cl.val { s.cluster cl.val with
        timers := sdel (s.cluster cl.val).timers k.toNat, pend := (s.cluster cl.val).pend ++ [it] }) t) ∧
  (∀ (cl : Fin 32) (k : BitVec 13) s i due ch, Canon s → Quiet s →
    (s.cluster cl.val).periodic k.toNat = some (i, ⟨due, .periodic k⟩) →
    s.timerFirst cl.val ⟨due, .periodic k⟩ = true → (s.slot cl.val k.toNat).pending = none →
    s.frozen (s.slot cl.val k.toNat).tid = false → startedBy (s.ctx cl.val k.toNat) 1 = [ch] →
    s.mustWait cl.val (s.chainItem cl.val k.toNat ch due .delayList) = false →
    stateAccepts (s.clState cl.val) 2 .delayList = true →
    ∃ t, exec (.periodicTimerExpiry cl k) s = .next t ∧
      Touches (WS.EVT cl.val :: twin (WS.POSTED_LO cl.val)) (s.setCluster cl.val { s.cluster cl.val with
        timers := sput (s.cluster cl.val).timers i ⟨nextTick (s.tb2usOn (dieOf cl.val)) (ctxPeriod (s.ctx cl.val k.toNat))
          (ctxPhase (s.ctx cl.val k.toNat)), .periodic k⟩
        pend := (s.cluster cl.val).pend ++ [s.chainItem cl.val k.toNat ch due .delayList] }) t)

/-- DISPATCH (R150, R151): the oldest ready item of the highest class leaves the pending store for the tile that is picked; where
the tile holds its image the item runs there, else the tile begins to load it. KERNEL_LOAD_COMPLETE: a ROM kernel is loaded,
counted, and its item runs. -/
def Claims.Dispatches : Prop :=
  (∀ (cl : Fin 32) s i it k, Canon s → Quiet s → pickItem (s.readyItems cl.val) = some (i, it) →
    s.pickTile cl.val it = some (k, true) → k < 12 →
    ∃ t, exec (.dispatch cl) s = .next t ∧ (t.core cl.val k).loading = some it ∧ (t.core cl.val k).image = none ∧
      Counts s t (WS.DISPATCHED_LO cl.val) 1 ∧
      Touches ([TILE.STATE cl.val k, WS.EVT cl.val] ++ twin (WS.DISPATCHED_LO cl.val))
        ((s.setCluster cl.val { s.cluster cl.val with pend := (s.cluster cl.val).pend.eraseIdx i }).setCore cl.val k
          { s.core cl.val k with loading := some it, image := none, ilim := s.itemLimit cl.val it }) t) ∧
  (∀ (cl : Fin 32) s i it k, Canon s → Quiet s → pickItem (s.readyItems cl.val) = some (i, it) →
    s.pickTile cl.val it = some (k, false) → it.stage = [] → it.area = none →
    ∃ t, exec (.dispatch cl) s = .next t ∧ (t.core cl.val k).running = some it ∧
      (t.core cl.val k).pc = (s.core cl.val k).entryPc ∧ (t.core cl.val k).cyc = 0 ∧
      (t.core cl.val k).ilim = s.itemLimit cl.val it ∧ (t.core cl.val k).g[0] = it.arg0 ∧ (t.core cl.val k).g[1] = it.arg1 ∧
      (t.core cl.val k).g[6] = it.tid.setWidth 32 ∧ (t.core cl.val k).g[9] = it.data ∧
      (t.core cl.val k).q.getLsbD 0 = true ∧ (t.core cl.val k).tb2s = s.tb2sOn (dieOf cl.val) ∧
      (t.core cl.val k).tb2ns = s.tb2nOn (dieOf cl.val) ∧
      (t.cluster cl.val).pend = (s.cluster cl.val).pend.eraseIdx i ∧ t.mem = s.mem ∧ t.slots = s.slots ∧
      t.casks = s.casks ∧ ∀ m j, 12 * m + j ≠ 12 * cl.val + k → t.core m j = s.core m j) ∧
  (∀ (cl : Fin 32) (k : Fin 12) s it, Canon s → Quiet s → (s.core cl.val k.val).loading = some it → it.typ = 0 →
    it.stage = [] → it.area = none →
    ∃ t, exec (.kernelLoadComplete cl k) s = .next t ∧ (t.core cl.val k.val).running = some it ∧
      (t.core cl.val k.val).loading = none ∧ (t.core cl.val k.val).image = some it.imageOf ∧
      (t.core cl.val k.val).pc = BitVec.ofNat 32 (0x50000 + 4 * (Config.romEntry it.entry.toNat % 16384)) ∧
      Counts s t (WS.LOADS_LO cl.val) 1)

/-- Cask instructions, WPOST and WDELAY: the claims CaskInstructions, PostInstructions. -/
def Obligations.CasksAndPosts : Prop :=
  Claims.CaskInstructions ∧ Claims.PostInstructions

/-- RET and exceptions end items: the claims ItemEnds, ExceptionsEndItems. -/
def Obligations.ItemsEnd : Prop :=
  Claims.ItemEnds ∧ Claims.ExceptionsEndItems

/-- Halt, step, resume, breakpoints, and the host's POST, DELAY and CANCEL: the claims TileDebug, HostItems. -/
def Obligations.TileDebugAndHostItems : Prop :=
  Claims.TileDebug ∧ Claims.HostItems

/-- Deferred accepts, timers, dispatch and kernel loads: the claims TimedReleases, Dispatches. -/
def Obligations.TimersAndDispatch : Prop :=
  Claims.TimedReleases ∧ Claims.Dispatches

/-! ## Control of casks and the scrubbers (R139 to R143, R413) -/

namespace Sys2Proof

/-- The cask of a packet's producer: no open packet of another is touched. -/
def hostOpen (s : State) (x : Nat) : Option OpenPkt := (s.cask x).openOf .host

/-- The result group of a die's cask control, idle, where a host write reaches it. -/
structure CskFree (s : State) (d : Fin 2) : Prop where
  canon : Canon s
  quiet : Quiet s
  opens : Opens s (CSK.CMD d)
  ready : s.ready (CSK.CMD_STATUS d) = true

end Sys2Proof

/-- CREATE, FLUSH and DESTROY (R139, R140, R143) where they succeed: code 0 is posted, with the command and the cask in force
shown. A created cask is enabled and empty; a flush without open packets keeps the packet that is partly read alone and counts
the others as DISCARDED, and with one open it marks it and stays in progress, the words of the
group still showing the result before it; a destroyed cask is disabled. -/
def Claims.CaskControl : Prop :=
  (∀ (d : Fin 2) (k : BitVec 13) s x, CskFree s d → x = Machine.handle d k → s.caskOn x = false →
    s.caskCfg x F.CSK_CFG_DEPTH ≤ 12 →
    s.rf (CSK.BASE d k.toNat) F.CSK_BASE_OFFS * 256 + 2 ^ (s.caskCfg x F.CSK_CFG_DEPTH + 4) * 16 ≤ 0x4000000 →
    s.caskCfg x F.CSK_CFG_LANE = 0 → s.caskCfg x F.CSK_CFG_NMODE ≠ 3 →
    ∃ t, exec (.create d k) s = .next t ∧ Reports s t (CSK.CMD_STATUS d) 0 ∧ t.caskOn x = true ∧ t.cask x = Cask.init ∧
      t.rf (CSK.CMD_INFORCE d) F.CSK_CMD_INFORCE_OP = 1 ∧ t.rf (CSK.CASK_INFORCE d) F.CSK_CASK_INFORCE_CASK = k.toNat ∧
      Touches [CSK.CMD_STATUS d, CSK.CMD_INFORCE d, CSK.CASK_INFORCE d, CSK.CFG d k.toNat] (s.setCask x Cask.init) t) ∧
  (∀ (d : Fin 2) (k : BitVec 13) s x keep, CskFree s d → x = Machine.handle d k → s.caskOn x = true → (s.cask x).opens = [] →
    keep = (if (s.cask x).ridx = 0 then [] else (s.cask x).pkts.take 1) →
    ∃ t, exec (.flush d k) s = .next t ∧ Reports s t (CSK.CMD_STATUS d) 0 ∧
      Counts s t (CSK.DISCARDED_LO d) ((s.cask x).pkts.length - keep.length) ∧
      Touches ([CSK.CMD_STATUS d, CSK.CMD_INFORCE d, CSK.CASK_INFORCE d, HIF.EVT] ++ twin (CSK.DISCARDED_LO d))
        { (s.setCask x { s.cask x with pkts := keep }) with flushing := sdel s.flushing d } t) ∧
  (∀ (d : Fin 2) (k : BitVec 13) s x p o, CskFree s d → x = Machine.handle d k → s.caskOn x = true →
    (s.cask x).openOf p = some o →
    ∃ t, exec (.flush d k) s = .next t ∧ t.ready (CSK.CMD_STATUS d) = false ∧
      t.reg (CSK.CMD_INFORCE d) = s.reg (CSK.CMD_INFORCE d) ∧ t.reg (CSK.CASK_INFORCE d) = s.reg (CSK.CASK_INFORCE d) ∧
      (t.cask x).opens = (s.cask x).opens.map (fun e => (e.1, { e.2 with flushed := true })) ∧
      ∀ y, y ≠ x → t.cask y = s.cask y) ∧
  (∀ (d : Fin 2) (k : BitVec 13) s x, CskFree s d → x = Machine.handle d k → s.caskOn x = true →
    (s.cask x).used = 0 → (s.cask x).openWords = 0 → s.hasLanes x = false →
    ∃ t, exec (.destroy d k) s = .next t ∧ Reports s t (CSK.CMD_STATUS d) 0 ∧ t.caskOn x = false ∧ t.credit x = 0 ∧
      Touches [CSK.CMD_STATUS d, CSK.CMD_INFORCE d, CSK.CASK_INFORCE d, CSK.CFG d k.toNat] (s.setCask x Cask.init) t)

/-- PUSH, COMMIT, COMMIT with REL, ABORT and ADV of HWCTL, and GACK (R52, R134 to R136, R142), on an enabled cask without
notices: a pushed word takes a free place of the storage and joins the host's open packet, a commit appends the packet behind the others and counts it, an abort
drops it, ADV advances the read; a write of GACK lowers the group's pending count, not below 0. -/
def Claims.HostPackets : Prop :=
  (∀ (d : Fin 2) (k : BitVec 13) s x, Canon s → Quiet s → Opens s (CSK.HWCTL d) → x = Machine.handle d k →
    s.accepts x .host = true →
    ∃ t, exec (.push d k) s = .next t ∧ Reports s t (CSK.HW_STATUS d) 0 ∧
      Touches [CSK.HW_STATUS d] ((s.setCask x ((s.cask x).grow .host)).storeWord x (s.cask x).freeSlot
        ⟨s.reg (CSK.HWR d 3) ++ s.reg (CSK.HWR d 2) ++ s.reg (CSK.HWR d 1) ++ s.reg (CSK.HWR d 0), false⟩) t) ∧
  (∀ i (d : Fin 2) (k : BitVec 13) s x o, (i = .hwctlCommit d k ∨ i = .hwctlCommitRel d k) → Canon s → Quiet s →
    Opens s (CSK.HWCTL d) → x = Machine.handle d k → s.caskOn x = true → s.caskCfg x F.CSK_CFG_NMODE = 0 →
    (s.cask x).openOf .host = some o → o.flushed = false →
    ∃ t, exec i s = .next t ∧ Reports s t (CSK.HW_STATUS d) 0 ∧ Counts s t (CSK.PKTS_LO d k.toNat) 1 ∧
      Touches ([CSK.HW_STATUS d, HIF.EVT] ++ twin (CSK.PKTS_LO d k.toNat))
        (s.setCask x { (s.cask x).dropOpen .host with pkts := (s.cask x).pkts ++ [o.slots] }) t) ∧
  (∀ (d : Fin 2) (k : BitVec 13) s x o, Canon s → Quiet s → Opens s (CSK.HWCTL d) → x = Machine.handle d k → s.caskOn x = true →
    (s.cask x).openOf .host = some o → sget s.flushing 16384 d ≠ x →
    ∃ t, exec (.hwctlAbort d k) s = .next t ∧ Reports s t (CSK.HW_STATUS d) 0 ∧ Counts s t (CSK.ABANDONED_LO d) 1 ∧
      Touches ([CSK.HW_STATUS d, HIF.EVT] ++ twin (CSK.ABANDONED_LO d)) (s.setCask x ((s.cask x).dropOpen .host)) t) ∧
  (∀ (d : Fin 2) (k : BitVec 13) s x, Canon s → Quiet s → Opens s (CSK.HWCTL d) → x = Machine.handle d k → s.caskOn x = true →
    ∃ t, exec (.adv d k) s = .next t ∧ Reports s t (CSK.HW_STATUS d) 0 ∧ Touches [CSK.HW_STATUS d] (s.consume x) t) ∧
  (∀ (d : Fin 2) (g : Fin 32) (n : BitVec 16) s, Canon s → Quiet s → Opens s (CSK.NG_GACK d g) →
    ∃ t, exec (.gack d g n) s = .next t ∧
      t.rf (CSK.NG_PEND d g) F.CSK_NG_PEND_PEND = s.rf (CSK.NG_PEND d g) F.CSK_NG_PEND_PEND - n.toNat ∧
      Touches [CSK.NG_PEND d g] s t)

/-- A read of a cask (R131, R136): what it shows first is the word, in the cask's storage, at the first place of the oldest packet,
and after it come the packet's rest or the next packet; of an empty cask the idle item, and nothing advances. A cask that is no lane and has no lane with a packet. -/
def Claims.CaskReads : Prop :=
  (∀ (s : State) (x p : Nat) (ps : List Nat) (rest : List (List Nat)), Canon s → s.caskOn x = true → s.caskCfg x F.CSK_CFG_LANE = 0 → (s.cask x).member = none → s.members x = [x] →
    (s.cask x).ridx = 0 → (s.cask x).pkts = (p :: ps) :: rest →
    (s.peek x).1 = s.storedWord x p ∧ bit (s.peek x).2.toNat 31 = false ∧ bit (s.peek x).2.toNat 30 = true ∧
      bit (s.peek x).2.toNat 29 = ps.isEmpty ∧ bit (s.peek x).2.toNat 28 = (s.storedWord x p).poison ∧
      ((s.consume x).cask x).pkts = (if ps.isEmpty then rest else (s.cask x).pkts) ∧
      ((s.consume x).cask x).ridx = if ps.isEmpty then 0 else 1) ∧
  (∀ (s : State) (x : Nat), s.caskOn x = true → s.caskCfg x F.CSK_CFG_LANE = 0 → (s.cask x).member = none → s.members x = [] →
    (s.peek x).1 = ⟨s.idleItem x, false⟩ ∧ bit (s.peek x).2.toNat 31 = true ∧ s.consume x = s) ∧
  (∀ (s : State) (x : Nat), s.caskOn x = false → bit (s.peek x).2.toNat 27 = true ∧ (s.peek x).1.val = 0 ∧ s.consume x = s)

/-- SCRUB_READ and PATROL_SCRUB (R413) of a sound word advance the pointer of the bank or the channel, wrapping at its end, and
the patrol counts its line; nothing else changes. An uncorrectable error in a word of a Cellar poisons it. -/
def Claims.Scrubs : Prop :=
  (∀ b s, Canon s → (∀ n, bankCluster b = some n → s.clState n ≠ stOff) →
    ∃ t, exec (.scrubRead b .ok) s = .next t ∧
      sget t.scrubs 0 (bankKey b) = (sget s.scrubs 0 (bankKey b) + 1) % bankWords b ∧
      (∀ k, k ≠ bankKey b → sget t.scrubs 0 k = sget s.scrubs 0 k) ∧ ∃ x, t = { s with scrubs := x }) ∧
  (∀ (d : Fin 2) (b : Fin 512) y s a, Canon s → Quiet s → sget s.scrubs 0 (bankKey (.cellar d b)) < 16384 →
    a = 0x10000000 + d.val * 0x4000000 + 8 * (512 * sget s.scrubs 0 (bankKey (.cellar d b)) + b.val) →
    ∃ t, exec (.scrubRead (.cellar d b) (.ue y)) s = .next t ∧ t.poisoned a = true ∧ t.mem = s.mem ∧
      t.rb EVT.ERRC ⟨5, 5⟩ = true ∧ t.rb (GLB.ERRLOG d) F.GLB_ERRLOG_VALID = true ∧
      (s.rb (GLB.ERRLOG d) F.GLB_ERRLOG_VALID = false → t.rf (GLB.ERRLOG d) F.GLB_ERRLOG_CLASS = 5 ∧
        t.rv (GLB.ERRLOG_ADDRLO d) = a ∧ t.rv (GLB.ERRLOG_SYND d) = y.toNat)) ∧
  (∀ (c : Fin 4) s, Canon s → Quiet s → s.dramBytes c ≠ 0 →
    ∃ t, exec (.patrolScrub c .ok) s = .next t ∧ Counts s t (DDR.SCRUBLINES_LO c) 1 ∧
      sget t.scrubs 0 (8576 + c) = (sget s.scrubs 0 (8576 + c) + 1) % (s.dramBytes c / 64) ∧
      ∃ x, Touches ([DDR.EVT c] ++ twin (DDR.SCRUBLINES_LO c)) { s with scrubs := x, freeCount := s.freeCount + 1 } t)

/-- Cask commands, and scrub reads with corrected and uncorrectable errors: the claims CaskControl, Scrubs. -/
def Obligations.CaskCommands : Prop :=
  Claims.CaskControl ∧ Claims.Scrubs

/-- Packets made and read by the host, and group acknowledges: the claims HostPackets, CaskReads. -/
def Obligations.HostCasks : Prop :=
  Claims.HostPackets ∧ Claims.CaskReads

/-! ## The context engine (R166 to R171, R182 to R188) -/

namespace Sys2Proof

/-- `t` is `u` but for the bytes of a range, with their poison marks, egress marks and the loop caches, registers, MSI-X and what
was driven outward. -/
structure Stored (u t : State) (lo n : Nat) : Prop where
  bytes : ∀ a, a < lo ∨ lo + n ≤ a → sget t.mem 0 a = sget u.mem 0 a
  rest : ∃ m p c e r x w, t = { u with mem := m, poison := p, cores := c, egMarks := e, regs := r, msix := x, wire := w }

/-- Memory stands at every byte of a range, can be written, and is reached by the units of a die (R37, R38, R416). -/
def Writable (s : State) (die lo n : Nat) : Prop :=
  ∀ i, i < n → s.writable (lo + i) = true ∧ s.unitReaches die (lo + i) = true

/-- Every other slot of a state is as before. -/
def OtherSlots (s t : State) (n k : Nat) : Prop := ∀ m j, 8192 * m + j ≠ 8192 * n + k → t.slot m j = s.slot m j

/-- A result group that an ACMD or a doorbell of a cluster answers in, idle, where a host write reaches the register. -/
structure Idle (s : State) (a group : Nat) : Prop where
  canon : Canon s
  quiet : Quiet s
  opens : Opens s a
  ready : s.ready group = true

end Sys2Proof

/-- ALLOC (R166, R167): on a RUN cluster with a home table, where the TID has no valid home record, the lowest FREE slot is
RESERVED for the TID, shown in SLOTINFO, and the home record names it with the cluster's epoch. -/
def Claims.AllocReserves : Prop :=
  ∀ (cl : Fin 32) (tid : BitVec 18) s k, Idle s (CTX.ACMD cl) (CTX.ARES cl) →
    s.rf (CTX.HOMEBASE cl) F.CTX_HOMEBASE_HOMEBASE ≠ 0 → s.clState cl.val = stRun → s.homeValid cl tid = false →
    s.lowestFree cl = some k → Writable s (dieOf cl) (s.homeDpa cl tid) 16 →
    ∃ t, exec (.alloc cl tid) s = .next t ∧ Reports s t (CTX.ARES cl) 0 ∧
      t.slot cl k = { Slot.init with st := .reserved, tid := tid } ∧ OtherSlots s t cl k ∧
      t.rv (CTX.SLOTINFO cl) = 2 ^ 16 + k ∧ t.rv (CTX.VERSIONS cl) = 0 ∧
      t.le (s.homeDpa cl tid) 8 = 2 ^ 31 + cl.val * 2 ^ 25 + k * 2 ^ 12 + s.rf (CTX.EPOCH cl) F.CTX_EPOCH_EPOCH ∧
      t.le (s.homeDpa cl tid + 8) 8 = 0 ∧
      Stored (s.setSlot cl k { Slot.init with st := .reserved, tid := tid }) t (s.homeDpa cl tid) 16

/-- FREE (R166): a RESERVED slot without a version becomes FREE and is shown so; QUERY (R188) shows the slot of a TID and changes
nothing else. -/
def Claims.FreeAndQuery : Prop :=
  (∀ (cl : Fin 32) (k : BitVec 13) s, Idle s (CTX.ACMD cl) (CTX.ARES cl) → (s.slot cl k.toNat).st = .reserved →
    (s.slot cl k.toNat).pending = none → s.isTarget cl k.toNat = false →
    ∃ t, exec (.free cl k) s = .next t ∧ Reports s t (CTX.ARES cl) 0 ∧ t.slot cl k.toNat = Slot.init ∧
      OtherSlots s t cl k.toNat ∧ t.rv (CTX.SLOTINFO cl) = k.toNat ∧ t.rv (CTX.VERSIONS cl) = 0 ∧
      (t.cluster cl).periodic k.toNat = none ∧ t.casks = s.casks ∧ t.plays = s.plays) ∧
  (∀ (cl : Fin 32) (tid : BitVec 18) s k, Idle s (CTX.ACMD cl) (CTX.ARES cl) → s.slotOf cl tid = some k →
    ∃ t, exec (.query cl tid) s = .next t ∧ Reports s t (CTX.ARES cl) 0 ∧
      t.rv (CTX.SLOTINFO cl) = slotCode (s.slot cl k).st * 2 ^ 16 + k ∧
      t.rv (CTX.VERSIONS cl) = (s.slot cl k).newest.toNat * 2 ^ 16 + (s.slot cl k).inForce.toNat ∧
      Touches [CTX.ARES cl, CTX.SLOTINFO cl, CTX.VERSIONS cl] s t)

/-- COMMIT (R183, R188, R191): a doorbell that meets no failing check makes its version the newest and pending until the first
boundary after it, charged from now on, while the version in force stays; its code, TID and version are shown. -/
def Claims.CommitPends : Prop :=
  ∀ (cl : Fin 32) (k : BitVec 13) keep staged (buf : BitVec 6) (version : BitVec 16) s,
    Idle s (CTX.DB cl k.toNat) (CTX.CSTATUS cl) → s.commitCode cl k.toNat staged buf.toNat version = 0 →
    ((s.slot cl k.toNat).st = .reserved ∨ 0 < (s.slot cl k.toNat).grid.1) →
    ∃ t q, exec (.commit cl k keep staged buf version) s = .next t ∧ Reports s t (CTX.CSTATUS cl) 0 ∧
      t.rv (CTX.CSTATUS_TID cl) = (s.slot cl k.toNat).tid.toNat ∧ t.rv (CTX.CSTATUS_VERSION cl) = version.toNat ∧
      Counts s t (CTX.ACCEPTED_LO cl) 1 ∧ (t.slot cl k.toNat).newest = version ∧ (t.slot cl k.toNat).pending = some q ∧
      (t.slot cl k.toNat).inForce = (s.slot cl k.toNat).inForce ∧ (t.slot cl k.toNat).st = (s.slot cl k.toNat).st ∧
      q.version = version ∧ q.delete = false ∧ q.keepAdapt = keep ∧ s.tb2usOn (dieOf cl) < q.switchAt ∧
      q.image = (if staged then s.unitBytes (dieOf cl) (s.rv (CTX.STAGEBASE cl) * 256 + 256 * buf.toNat) 256
        else s.ctx cl k.toNat) ∧
      q.charge = (s.figures cl q.image).charge ∧ OtherSlots s t cl k.toNat ∧ t.mem = s.mem ∧ t.cores = s.cores ∧
      t.casks = s.casks

/-- DELETE (R187): of a LIVE or IDLE slot on a RUN or RECOVER cluster, whose home record does not move, is accepted: the slot
keeps its state until its switch boundary. -/
def Claims.DeletePends : Prop :=
  ∀ (cl : Fin 32) (k : BitVec 13) (version : BitVec 16) s, Idle s (CTX.DB cl k.toNat) (CTX.CSTATUS cl) →
    (s.clState cl.val = stRun ∨ s.clState cl.val = stRecover) →
    ((s.slot cl k.toNat).st = .live ∨ (s.slot cl k.toNat).st = .idle) → s.homeMoving cl (s.slot cl k.toNat).tid = false →
    ∃ t q, exec (.delete cl k version) s = .next t ∧ Reports s t (CTX.CSTATUS cl) 0 ∧
      t.rv (CTX.CSTATUS_TID cl) = (s.slot cl k.toNat).tid.toNat ∧ (t.slot cl k.toNat).pending = some q ∧ q.delete = true ∧
      (t.slot cl k.toNat).st = (s.slot cl k.toNat).st ∧ (t.slot cl k.toNat).adjusts = [] ∧ OtherSlots s t cl k.toNat ∧
      t.mem = s.mem ∧ t.cores = s.cores

/-- VERSION_SWITCH (R171, R184): a pending version whose boundary has come is in force: the slot is LIVE with its charge, grid and
version, and nothing is pending; a pending delete leaves the slot FREE where no run of it is in progress. -/
def Claims.VersionSwitches : Prop :=
  (∀ (cl : Fin 32) (k : BitVec 13) s q, Canon s → Quiet s → (s.slot cl k.toNat).pending = some q → q.delete = false →
    q.switchAt ≤ s.tb2usOn (dieOf cl) → s.frozen (s.slot cl k.toNat).tid = false → (s.slot cl k.toNat).adjusts = [] →
    ∃ t, exec (.versionSwitch cl k) s = .next t ∧ (t.slot cl k.toNat).st = .live ∧
      (t.slot cl k.toNat).inForce = q.version ∧ (t.slot cl k.toNat).pending = none ∧
      (t.slot cl k.toNat).charge = q.charge ∧ (t.slot cl k.toNat).units = q.units ∧
      (t.slot cl k.toNat).tid = (s.slot cl k.toNat).tid ∧ Counts s t (CTX.SWITCHED_LO cl) 1 ∧ OtherSlots s t cl k.toNat) ∧
  (∀ (cl : Fin 32) (k : BitVec 13) s q, Canon s → Quiet s → (s.slot cl k.toNat).pending = some q → q.delete = true →
    q.switchAt ≤ s.tb2usOn (dieOf cl) → s.frozen (s.slot cl k.toNat).tid = false → (s.slot cl k.toNat).adjusts = [] → s.slotQuiet cl k.toNat = true →
    ∃ t, exec (.versionSwitch cl k) s = .next t ∧ t.slot cl k.toNat = Slot.init ∧ (t.cluster cl).periodic k.toNat = none ∧
      t.play (s.slot cl k.toNat).tid = Play.init ∧ OtherSlots s t cl k.toNat)

/-- A Warden adjustment of a LIVE slot on its newest version, with the Warden enabled, waits for the next boundary, within the bounds
of the policy class in force (R34, R186, R359); one on an older version is discarded and counted. METRICS_INTERVAL_END (R170)
rewrites the gauges of a LIVE context and starts its counts anew; the rating of a chain with METER is computed from them. -/
def Claims.AdjustmentsAndMetrics : Prop :=
  (∀ (cl : Fin 32) (k : BitVec 13) base area s, s.wdnOn (dieOf cl) = true → (s.slot cl k.toNat).st = .live →
    base = (s.slot cl k.toNat).newest → 0 < (s.slot cl k.toNat).grid.1 →
    ∃ t a, exec (.wardenAdjustment cl k base area) s = .next t ∧ a.area = s.boundedArea cl k.toNat area ∧
      s.tb2usOn (dieOf cl) < a.switchAt ∧
      t = s.setSlot cl k.toNat { s.slot cl k.toNat with adjusts := (s.slot cl k.toNat).adjusts ++ [a] }) ∧
  (∀ (cl : Fin 32) (k : BitVec 13) base area s, Canon s → Quiet s → s.wdnOn (dieOf cl) = true →
    ((s.slot cl k.toNat).st ≠ .live ∨ base ≠ (s.slot cl k.toNat).newest) →
    ∃ t, exec (.wardenAdjustment cl k base area) s = .next t ∧ Counts s t (CTX.WDN_DISCARDED_LO cl) 1 ∧
      t.rb (CTX.EVT cl) F.CTX_EVT_WDISC = true ∧ Touches (CTX.EVT cl :: twin (CTX.WDN_DISCARDED_LO cl)) s t) ∧
  (∀ (cl : Fin 32) (k : BitVec 13) s, Canon s → Quiet s → (s.slot cl k.toNat).st = .live → s.clState cl.val ≠ stOff →
    s.frozen (s.slot cl k.toNat).tid = false →
    ∃ t, exec (.metricsIntervalEnd cl k) s = .next t ∧
      t.bytes (slotDpa cl k.toNat + 144) 28 = (s.metrics cl k.toNat).take 28 ∧
      t.bytes (slotDpa cl k.toNat + 176) 16 = (s.metrics cl k.toNat).drop 32 ∧
      ((s.programWords (s.ctx cl k.toNat)).any (fun w => ciOp w == opMeter) = false →
        t.bytes (slotDpa cl k.toNat + 172) 4 = [0, 0, 0, 0]) ∧
      (t.slot cl k.toNat).missed = 0 ∧ (t.slot cl k.toNat).shed = 0 ∧ OtherSlots s t cl k.toNat ∧
      ∀ a, a < slotDpa cl k.toNat + 144 ∨ slotDpa cl k.toNat + 192 ≤ a → sget t.mem 0 a = sget s.mem 0 a)

/-- ALLOC, FREE and QUERY of slots: the claims AllocReserves, FreeAndQuery. -/
def Obligations.SlotsReserved : Prop :=
  Claims.AllocReserves ∧ Claims.FreeAndQuery

/-- COMMIT and DELETE make a pending version: the claims CommitPends, DeletePends. -/
def Obligations.VersionsPend : Prop :=
  Claims.CommitPends ∧ Claims.DeletePends

/-- Version switches, Warden adjustments and metrics: the claims VersionSwitches, AdjustmentsAndMetrics. -/
def Obligations.VersionsSwitch : Prop :=
  Claims.VersionSwitches ∧ Claims.AdjustmentsAndMetrics

/-! ## Chain runs (R158 to R162, R174 to R181) -/

namespace Sys2Proof

/-- The next instruction of a run in progress is `w`: it is not shed, the run is not closed and waits for nothing, and the
cluster's sequencer issues. TRACE copies nothing. -/
structure NextIs (s : State) (n k : Nat) (chain : Fin 2) (r : Run) (w : Nat) : Prop where
  canon : Canon s
  quiet : Quiet s
  run : s.run n k chain = some r
  closed : r.closed = false
  wait : r.wait = .none
  seq : s.sequences n = true
  kept : r.shed.contains r.idx = false
  word : s.runInstr r chain = w
  untraced : ciTrace w = false

/-- The run after an instruction: its output block, where it has one, is the new block BO, and the next instruction follows. -/
def Machine.Run.stepped (r : Run) (w : Nat) (out : Option Block) : Run :=
  { (match out with | some b => r.setBlock (ciBo w) b | none => r) with idx := r.idx + 1, wait := .none }

/-- The registers that the run of a ROM kernel on a tile may change: the tile's state, its counters and ITEMS, and the cluster's
causes (R104). -/
def kernelRegs (n t : Nat) : List Nat :=
  TILE.STATE n t :: WS.EVT n :: ([TILE.CYCLES_LO n t, TILE.MACS_LO n t, TILE.ITEMS_LO n t] ++ kernelCounters n t).flatMap twin

/-- The run waits for the ROM kernel of its instruction `w`, which runs on tile `t`: no word of its staged state is poisoned, and no
packet of the tile is open. -/
structure OnTile (s : State) (n k : Nat) (chain : Fin 2) (r : Run) (w t : Nat) : Prop where
  canon : Canon s
  quiet : Quiet s
  run : s.run n k chain = some r
  closed : r.closed = false
  wait : r.wait = .tile
  word : s.runInstr r chain = w
  untraced : ciTrace w = false
  tile : s.kernelTile n k chain = some t
  staged : ∀ it a len, (s.core n t).running = some it → it.area = some (a, len) →
    s.poisonedIn (tileDpa n t stageStateAt) len = false
  packets : ∀ e ∈ s.casks, e.2.openOf (tileProducer n t) = none

/-- A ROM kernel has run to its end on tile `t` with a result code (R103): `u` is the state with its effect. Beside that the tile is
idle again and has counted, and nothing differs but its core and the free values drawn. -/
structure KernelEnds (n t code : Nat) (s u v : State) : Prop where
  code : (v.core n t).g[0] = BitVec.ofNat 32 code
  idle : (v.core n t).running = none
  gated : v.rb (TILE.STATE n t) F.TILE_STATE_GATED = true
  items : Counts s v (TILE.ITEMS_LO n t) 1
  regs : ∀ b, b ∉ kernelRegs n t → b ≠ EVT.VINSVC 0 → b ≠ EVT.VINSVC 1 → v.reg b = u.reg b
  others : ∀ m j, 12 * m + j ≠ 12 * n + t → v.core m j = u.core m j
  rest : ∃ r c m x f, v = { u with regs := r, cores := c, msix := m, wire := x, freeCount := f }

/-- The commands of the instructions that a ROM kernel carries out, with their opcodes. -/
def kernelRow : Instr → Option (Fin 32 × BitVec 13 × Fin 2 × Nat)
  | .lineIn cl k ch => some (cl, k, ch, opLineIn)
  | .lineOut cl k ch => some (cl, k, ch, opLineOut)
  | .gain cl k ch => some (cl, k, ch, opGain)
  | .vad cl k ch => some (cl, k, ch, opVad)
  | .cng cl k ch => some (cl, k, ch, opCng)
  | .meter cl k ch => some (cl, k, ch, opMeter)
  | .mix cl k ch => some (cl, k, ch, opMix)
  | .dec cl k ch => some (cl, k, ch, opDec)
  | .enc cl k ch => some (cl, k, ch, opEnc)
  | .plc cl k ch => some (cl, k, ch, opPlc)
  | .pktIn cl k ch => some (cl, k, ch, opPktIn)
  | .pktOut cl k ch => some (cl, k, ch, opPktOut)
  | .faxrelay cl k ch => some (cl, k, ch, opFaxrelay)
  | _ => none

/-- The ROM kernel's item of an instruction (R102, R145). -/
def romItem (s : State) (n k : Nat) (chain : Fin 2) (r : Run) (w : Nat) : Item :=
  let e := s.romEntryCost n r chain w
  s.kernelItem n k chain r w 0 e.1 e.2

/-- A sample that is a Q3.12 gain times a value: exact where the product is, else one of the two neighbours, held to 16 bits. -/
def Gained (g v : Int) (y : BitVec 16) : Prop :=
  ∃ q : Int, (4096 * q = v * g ∨ 4096 * (q - 1) < v * g ∧ v * g < 4096 * (q + 1)) ∧ y.toInt = heldTo 16 q

/-- A list of samples is a gain times a list of values, one by one. -/
def AllGained (g : Int) (vs : List Int) (ys : List (BitVec 16)) : Prop :=
  ys.length = vs.length ∧ ∀ i (h : i < vs.length) (h' : i < ys.length), Gained g vs[i] ys[i]

end Sys2Proof

/-- CHAIN_RUN_START (R150, R175): the sequencer takes the run's item as soon as its flow is free, and a run of the context in
force begins at its first instruction with eight empty blocks; DEADLINE (R160, R161): a run that has not ended by then is missed,
counted and logged with its instruction, and no more of it is issued; END (R177) ends a run that nothing else changes. -/
def Obligations.RunsStartAndEnd : Prop :=
  (∀ (cl : Fin 32) (k : BitVec 13) (ch : Fin 2) s i it, Canon s → Quiet s → s.runIndex cl k.toNat ch = some i →
    (s.cluster cl).pend[i]? = some it → s.sequences cl = true → s.flowFree cl k.toNat i = true →
    ((s.slot cl k.toNat).st = .live ∨ (s.slot cl k.toNat).st = .deleting) → s.poison = [] →
    s.rf (WS.STATUS cl) F.WS_STATUS_SHED = 0 →
    ∃ t, exec (.chainRunStart cl k ch .ok) s = .next t ∧
      t.run cl k.toNat ch = some ⟨it.boundary, s.ctx cl k.toNat, 0, 0, [], [], false, false, .none, [],
        Vector.replicate 8 Block.empty⟩ ∧
      (t.cluster cl).pend = (s.cluster cl).pend.eraseIdx i ∧ Counts s t (WS.DISPATCHED_LO cl) 1 ∧
      OtherSlots s t cl k.toNat ∧ t.mem = s.mem ∧ t.cores = s.cores) ∧
  (∀ (cl : Fin 32) (k : BitVec 13) (ch : Fin 2) s r, Canon s → Quiet s → s.run cl k.toNat ch = some r → r.closed = false →
    r.wait = .none → r.missed = false → r.cells = [] → r.boundary + 1000 * ctxPeriod r.ctx ≤ s.tb2usOn (dieOf cl) →
    s.runHalted cl k.toNat ch = false → (s.slot cl k.toNat).st ≠ .deleting →
    ∃ t, exec (.deadline cl k ch) s = .next t ∧ t.run cl k.toNat ch = none ∧
      (t.slot cl k.toNat).missed = (s.slot cl k.toNat).missed + 1 ∧ Counts s t (WS.MISSED_LO cl) 1 ∧
      t.rb (WS.EVT cl) F.WS_EVT_MISS = true ∧
      (s.rb (WS.MISS_LOG cl) F.WS_MISS_LOG_VALID = false →
        t.rv (WS.MISS_LOG cl) = 2 ^ 31 + 4 * 2 ^ 24 + r.idx % 32 * 2 ^ 18 + (s.slot cl k.toNat).tid.toNat ∧
        t.reg (WS.MISS_TIME cl) = s.tb2nOn (dieOf cl)) ∧
      OtherSlots s t cl k.toNat ∧ t.mem = s.mem ∧ t.cores = s.cores) ∧
  (∀ (cl : Fin 32) (k : BitVec 13) (ch : Fin 2) s r w, NextIs s cl k.toNat ch r w → ciOp w = opEnd → r.cells = [] →
    (s.slot cl k.toNat).st ≠ .deleting →
    ∃ t, exec (.endRun cl k ch) s = .next t ∧ t = s.setRun cl k.toNat ch none)

/-- The sequencer dispatches the ROM kernel of an instruction as a work item (R102, R145 to R152, R175): its item joins the pending
store and the run waits for it; where it is the next of the cluster and a tile holds its image, it starts there at once, and the
command goes on as it would with the item already on the tile. -/
def Claims.KernelsPosted : Prop :=
  (∀ i (cl : Fin 32) (k : BitVec 13) (ch : Fin 2) op s r w u, kernelRow i = some (cl, k, ch, op) → NextIs s cl k.toNat ch r w →
    ciOp w = op → s.mustWait cl (romItem s cl k.toNat ch r w) = false → s.kernelTile cl k.toNat ch = none →
    u = s.postKernel cl k.toNat ch r (romItem s cl k.toNat ch r w) →
    (∀ j x t, pickItem (u.readyItems cl) = some (j, x) → x.run = some (k, ch) → u.pickTile cl x ≠ some (t, false)) →
    ∃ t, exec i s = .next t ∧ Counts s t (WS.POSTED_LO cl) 1 ∧
      (t.cluster cl).pend = (s.cluster cl).pend ++ [romItem s cl k.toNat ch r w] ∧
      t.run cl k.toNat ch = some { r with wait := .tile } ∧
      Touches (WS.EVT cl :: twin (WS.POSTED_LO cl))
        ((s.setCluster cl { s.cluster cl with pend := (s.cluster cl).pend ++ [romItem s cl k.toNat ch r w] }).setRun cl k.toNat ch
          (some { r with wait := .tile })) t) ∧
  (∀ i (cl : Fin 32) (k : BitVec 13) (ch : Fin 2) op s r w u j t, kernelRow i = some (cl, k, ch, op) →
    NextIs s cl k.toNat ch r w → ciOp w = op → u = s.postKernel cl k.toNat ch r (romItem s cl k.toNat ch r w) →
    pickItem (u.readyItems cl) = some (j, romItem s cl k.toNat ch r w) →
    u.pickTile cl (romItem s cl k.toNat ch r w) = some (t, false) → exec i s = exec i (u.dispatchOne cl))

/-- The instructions of one block that no line and no codec is in, once their kernel is on its tile: GAIN multiplies each sample, held
to Q15; VAD may set NOISE and does nothing else; CNG replaces a NOISE or SID block by as many samples and passes another on; METER
passes its block on (R177). The rounding, and what is speech, noise and level, are opaque functions of Config (log 8). -/
def Claims.BlockInstructions : Prop :=
  (∀ (cl : Fin 32) (k : BitVec 13) (ch : Fin 2) s r w t b, OnTile s cl k.toNat ch r w t → ciOp w = opGain →
    b = r.block (ciBi w) →
    ∃ v ys, exec (.gain cl k ch) s = .next v ∧ AllGained (toSigned 16 (ciB w)) (b.samples.map BitVec.toInt) ys ∧
      KernelEnds cl t 0 s (s.setRun cl k.toNat ch (some (r.stepped w (some { b with samples := ys })))) v) ∧
  (∀ (cl : Fin 32) (k : BitVec 13) (ch : Fin 2) s r w t b, OnTile s cl k.toNat ch r w t → ciOp w = opVad →
    b = r.block (ciBi w) → b.missing = false →
    ∃ v y m, exec (.vad cl k ch) s = .next v ∧
      KernelEnds cl t 0 s ((s.setArea (ctxArea r.ctx (ciSoff w)) (.kernel m)).setRun cl k.toNat ch
        (some (r.stepped w (some { b with noise := b.noise || y })))) v) ∧
  (∀ (cl : Fin 32) (k : BitVec 13) (ch : Fin 2) s r w t b, OnTile s cl k.toNat ch r w t → ciOp w = opCng →
    b = r.block (ciBi w) →
    ∃ v b' m, exec (.cng cl k ch) s = .next v ∧
      KernelEnds cl t 0 s ((s.setArea (ctxArea r.ctx (ciSoff w)) (.kernel m)).setRun cl k.toNat ch
        (some (r.stepped w (some b')))) v ∧
      (b.noise = false → b.sid = false → b' = b) ∧
      ((b.noise = true ∨ b.sid = true) → b'.missing = false ∧ b'.frames = [] ∧ b'.rate = b.rate ∧
        b'.samples.length = (if b.samples = [] then rateKhz b.rate.val * ctxPeriod r.ctx else b.samples.length))) ∧
  (∀ (cl : Fin 32) (k : BitVec 13) (ch : Fin 2) s r w t b, OnTile s cl k.toNat ch r w t → ciOp w = opMeter →
    b = r.block (ciBi w) →
    ∃ v m, exec (.meter cl k ch) s = .next v ∧
      KernelEnds cl t 0 s ((s.setSlot cl k.toNat { s.slot cl k.toNat with metered := m }).setRun cl k.toNat ch
        (some (r.stepped w (some b)))) v)

/-- LINE.IN and LINE.OUT (R176, R177), once their kernel is on its tile: the frames that the port holds before the boundary are expanded
by the binding's law into the block, each sample with its tag; the samples of a block that is not MISSING are compressed into the
egress frames from the boundary plus OUTLEAD; a MISSING block writes nothing. -/
def Claims.LineInstructions : Prop :=
  (∀ (cl : Fin 32) (k : BitVec 13) (ch : Fin 2) s r w t j c os tags, OnTile s cl k.toNat ch r w t → ciOp w = opLineIn →
    lineReads cl k.toNat s r w = false → s.binder cl k.toNat r w 0 = some (j, c) →
    s.lineFrames (ctxPort c) (ctxTslot c) (r.boundary * 1000 - 2000) (8 * ctxPeriod r.ctx) = some (os, tags) →
    ∃ v b, exec (.lineIn cl k ch) s = .next v ∧
      KernelEnds cl t 0 s (s.setRun cl k.toNat ch (some (r.stepped w (some b)))) v ∧
      b.samples = os.map (fun o => match o with | some x => lawExpand (ctxLaw c) x | none => 0) ∧ b.missing = false ∧
      b.rate = 0 ∧ b.tag = tags.getD 0 0 ∧ b.tags = tags) ∧
  (∀ (cl : Fin 32) (k : BitVec 13) (ch : Fin 2) s r w t j c, OnTile s cl k.toNat ch r w t → ciOp w = opLineOut →
    bindingPoisoned cl k.toNat 0 s r w = false → s.binder cl k.toNat r w 0 = some (j, c) →
    (r.block (ciBi w)).missing = false →
    ∃ v u, exec (.lineOut cl k ch) s = .next v ∧
      u = s.lineWrite (ctxPort c) (ctxTslot c) ((r.boundary + ctxOutLead c) * 1000)
        (((r.block (ciBi w)).samples.take (8 * ctxPeriod r.ctx)).map (lawCompress (ctxLaw c))) ∧
      v.mem = u.mem ∧ v.run cl k.toNat ch = some (r.stepped w none) ∧ OtherSlots s v cl k.toNat ∧
      (v.core cl t).running = none ∧ (v.core cl t).g[0] = 0) ∧
  (∀ (cl : Fin 32) (k : BitVec 13) (ch : Fin 2) s r w t j c, OnTile s cl k.toNat ch r w t → ciOp w = opLineOut →
    bindingPoisoned cl k.toNat 0 s r w = false → s.binder cl k.toNat r w 0 = some (j, c) →
    (r.block (ciBi w)).missing = true →
    ∃ v, exec (.lineOut cl k ch) s = .next v ∧
      KernelEnds cl t 0 s (s.setRun cl k.toNat ch (some (r.stepped w none))) v)

/-- MIX, once its kernel is on its tile, FORK to a mixer input, and HANDOFF (R177, R179): a mixer's sum of one other input is a gain
times it, and silence where no input holds a block tagged earlier; a forked or sent block is the newest of the buffer; a received
block is the newest one not taken, fitted to the period and tagged with the run's boundary, or a MISSING one. -/
def Claims.MixAndHandoff : Prop :=
  (∀ (cl : Fin 32) (k : BitVec 13) (ch : Fin 2) s r w t a (j : Nat) tag b, OnTile s cl k.toNat ch r w t → ciOp w = opMix →
    s.mixerOf cl r = some a → j < 8 → j ≠ bits w 45 43 → (s.inputsAt a).length = 8 →
    (s.inputsAt a).getD j [] = [⟨tag, b, []⟩] → tag < r.boundary →
    (∀ i, i < 8 → i ≠ j → i ≠ bits w 45 43 → (s.inputsAt a).getD i [] = []) →
    ∃ v ys, exec (.mix cl k ch) s = .next v ∧
      AllGained (toSigned 16 (ciB w)) ((List.range (s.mixKhz r ch * ctxPeriod r.ctx)).map (fun i => (b.samples.getD i 0).toInt)) ys ∧
      KernelEnds cl t 0 s ((s.setArea a (.buffers ((s.inputsAt a).set j [⟨tag, b, [(s.slot cl k.toNat).tid.toNat]⟩]))).setRun
        cl k.toNat ch (some (r.stepped w (some (pcmBlock (s.mixKhz r ch) (r.boundary * 1000) ys))))) v) ∧
  (∀ (cl : Fin 32) (k : BitVec 13) (ch : Fin 2) s r w a, NextIs s cl k.toNat ch r w → ciOp w = opFork → bits w 45 44 = 0 →
    s.mixerOf cl r = some a →
    ∃ t, exec (.fork cl k ch) s = .next t ∧
      t = (s.putBlock a (bits w 43 41) r.boundary (r.block (ciBi w))).setRun cl k.toNat ch
        (some (r.stepped w (some (r.block (ciBi w)))))) ∧
  (∀ (cl : Fin 32) (k : BitVec 13) (ch : Fin 2) s r w m j c, NextIs s cl k.toNat ch r w → ciOp w = opHandoff → bit w 45 = false →
    s.homeCtx (ctxPeer r.ctx) = some (m, j, c) → (s.divided = false ∨ dieOf m = dieOf cl) →
    ∃ t, exec (.handoffSend cl k ch) s = .next t ∧
      t = (s.putBlock (ctxArea c (ciSoff w)) 0 r.boundary (r.block (ciBi w))).setRun cl k.toNat ch (some (r.stepped w none))) ∧
  (∀ (cl : Fin 32) (k : BitVec 13) (ch : Fin 2) s r w a tag b, NextIs s cl k.toNat ch r w → ciOp w = opHandoff → bit w 45 = true →
    a = ctxArea r.ctx (ciSoff w) → (s.inputsAt a).length = 8 → (s.inputsAt a).getD 0 [] = [⟨tag, b, []⟩] → tag < r.boundary →
    b.missing = false →
    ∃ t, exec (.handoffReceive cl k ch) s = .next t ∧
      t = (s.setArea a (.buffers ((s.inputsAt a).set 0 [⟨tag, b, [(s.slot cl k.toNat).tid.toNat]⟩]))).setRun cl k.toNat ch
        (some (r.stepped w (some { b.fit (ctxPeriod r.ctx) with tag := r.boundary * 1000, tags := [] })))) ∧
  (∀ (cl : Fin 32) (k : BitVec 13) (ch : Fin 2) s r w, NextIs s cl k.toNat ch r w → ciOp w = opHandoff → bit w 45 = true →
    (s.inputsAt (ctxArea r.ctx (ciSoff w))).getD 0 [] = [] →
    ∃ t, exec (.handoffReceive cl k ch) s = .next t ∧
      t = s.setRun cl k.toNat ch (some (r.stepped w (some Block.empty))))

/-- CALL (R102, R145, R193): the run waits, and an item of the named user kernel joins the pending store for it. A shed
instruction and an instruction whose peer is gone pass the block on (R158, R180). -/
def Claims.CallsAndPassing : Prop :=
  (∀ (cl : Fin 32) (k : BitVec 13) (ch : Fin 2) s r w, NextIs s cl k.toNat ch r w → ciOp w = opCall →
    s.mustWait cl (s.callItem cl k.toNat ch r w) = false →
    ∃ t it, exec (.call cl k ch) s = .next t ∧ Counts s t (WS.POSTED_LO cl) 1 ∧ it.typ = 1 ∧
      it.entry = s.reg (CTX.UKIMG cl (ciMode w)) ∧ it.run = some (k, ch) ∧ it.tid = (s.slot cl k.toNat).tid ∧
      it.flow = BitVec.ofNat 16 k.toNat ∧ it.cost.toNat = s.rf (CTX.UKCTL cl (ciMode w)) F.CTX_UKCTL_COST ∧
      Touches (WS.EVT cl :: twin (WS.POSTED_LO cl))
        ((s.setCluster cl { s.cluster cl with pend := (s.cluster cl).pend ++ [it] }).setRun cl k.toNat ch
          (some { r with wait := .tile })) t) ∧
  (∀ (cl : Fin 32) (k : BitVec 13) (ch : Fin 2) s r w, Canon s → s.run cl k.toNat ch = some r → r.closed = false → r.wait = .none →
    s.sequences cl = true → r.shed.contains r.idx = true → s.runInstr r ch = w → ciOp w = opGain → ciTrace w = false →
    ∃ t, exec (.gain cl k ch) s = .next t ∧
      t = s.setRun cl k.toNat ch (some (r.stepped w (some (r.block (ciBi w)))))) ∧
  (∀ (cl : Fin 32) (k : BitVec 13) (ch : Fin 2) s r w t, OnTile s cl k.toNat ch r w t → ciOp w = opLineIn →
    s.binder cl k.toNat r w 0 = none →
    ∃ v, exec (.lineIn cl k ch) s = .next v ∧ Counts s v (CTX.KERR_LO cl) 1 ∧ v.rb (CTX.EVT cl) F.CTX_EVT_KERR = true ∧
      v.run cl k.toNat ch = some (r.stepped w (some (r.block (ciBi w)))) ∧ (v.core cl t).g[0] = 1)

/-- Kernel items posted; GAIN, VAD, CNG, METER, LINE.IN and LINE.OUT: the claims KernelsPosted, BlockInstructions,
LineInstructions. -/
def Obligations.ChainBlocks : Prop :=
  Claims.KernelsPosted ∧ Claims.BlockInstructions ∧ Claims.LineInstructions

/-- MIX, FORK, HANDOFF, CALL, and blocks passed on: the claims MixAndHandoff, CallsAndPassing. -/
def Obligations.ChainLinks : Prop :=
  Claims.MixAndHandoff ∧ Claims.CallsAndPassing

/-! ## TDM highways (R287 to R300) -/

namespace Sys2Proof

/-- A master port that runs, off E1, out of loss of frame, whose buffers lie in its Cellar, apart from its tags. -/
structure MasterRuns (s : State) (p : Fin 48) : Prop where
  canon : Canon s
  quiet : Quiet s
  on : s.tdmOn p = true
  ready : (s.tdm p).ready = true
  master : s.tdmMaster p = true
  plain : s.tdmE1 p = false
  synced : s.tdmLof p = false
  sound : s.poison = []
  inside : s.rf (TDM.IBASE p) F.TDM_IBASE_OFFS * 256 + s.tdmN p * s.tdmFR p ≤ 0x4000000 ∧
    s.rf (TDM.EBASE p) F.TDM_EBASE_OFFS * 256 + s.tdmN p * s.tdmFR p ≤ 0x4000000 ∧
    s.rf (TDM.TBASE p) F.TDM_TBASE_OFFS * 256 + 16 * s.tdmFR p ≤ 0x4000000
  apart : ∀ b, (b = s.rf (TDM.IBASE p) F.TDM_IBASE_OFFS ∨ b = s.rf (TDM.EBASE p) F.TDM_EBASE_OFFS) →
    b * 256 + s.tdmN p * s.tdmFR p ≤ s.rf (TDM.TBASE p) F.TDM_TBASE_OFFS * 256 ∨
    s.rf (TDM.TBASE p) F.TDM_TBASE_OFFS * 256 + 16 * s.tdmFR p ≤ b * 256

/-- A whole packet waits first in a cask that is no lane and alone in its set; its words stand in the cask's storage. -/
structure Heads (s : State) (x : Nat) (p : List CWord) (rest : List (List Nat)) : Prop where
  on : s.caskOn x = true
  lane : s.caskCfg x F.CSK_CFG_LANE = 0
  member : (s.cask x).member = none
  alone : s.members x = [x]
  start : (s.cask x).ridx = 0
  pkts : ∃ ps, (s.cask x).pkts = ps :: rest ∧ p = ps.map (s.storedWord x)
  length : 1 ≤ p.length ∧ p.length ≤ 64

/-- The cask, whose storage lies in its Cellar, takes a whole packet of n words of a producer that has none open, and raises no
notice. -/
structure Takes (s : State) (x : Nat) (p : Producer) (n : Nat) : Prop where
  on : s.caskOn x = true
  room : n ≤ s.credit x
  none_ : (s.cask x).openOf p = none
  packets : s.openPkts (caskDie x) < 2048
  silent : s.caskCfg x F.CSK_CFG_NMODE = 0
  inside : s.rf (CSK.BASE (caskDie x) (caskNo x)) F.CSK_BASE_OFFS * 256 + 16 * s.caskDepth x ≤ 0x4000000
  length : 1 ≤ n ∧ n ≤ 64

/-- A packet of these words has been committed to a cask behind the others: its words stand in the cask's storage, no other byte of
memory has changed, and no other cask. -/
structure Appended (s t : State) (x : Nat) (p : Producer) (ws : List CWord) : Prop where
  pkts : ∃ ps, (t.cask x).pkts = (s.cask x).pkts ++ [ps] ∧ ps.map (t.storedWord x) = ws
  closed : (t.cask x).openOf p = none
  casks : ∀ y, y ≠ x → t.cask y = s.cask y
  bytes : ∀ a, a < s.placeDpa x 0 ∨ s.placeDpa x (s.caskDepth x) ≤ a → sget t.mem 0 a = sget s.mem 0 a

end Sys2Proof

/-- TDM_ENABLE, TDM_CALIBRATE and CALIBRATION_COMPLETE (R290, R291): setting EN numbers frames from 0 and treats every egress
place as fetched; clearing it stops the port; CAL on a port that is off starts a measurement, whose end writes DLY.AUTO and posts
code 0. -/
def Claims.TdmPortsStart : Prop :=
  (∀ (p : Fin 48) (val : BitVec 32) s, Canon s → Opens s (TDM.CTRL p) → bit val.toNat 0 = true → bit val.toNat 4 = false →
    s.rb (TDM.CTRL p) F.TDM_CTRL_EN = false →
    ∃ t, exec (.tdmEnable p val) s = .next t ∧ t.rv (TDM.CTRL p) = val.toNat % 16 ∧ t.rv (TDM.FCNT p) = 0 ∧
      t.rv (TDM.STATUS p) = 1 ∧ (t.tdm p).next = 0 ∧ (t.tdm p).outNext = 0 ∧ (t.tdm p).enAt = s.tb2nsOn (p / 24) ∧
      (t.tdm p).ready = s.tdmMaster p ∧ (∀ q, q ≠ p.val → t.tdm q = s.tdm q) ∧
      (∀ f ts, ts < s.tdmN p → t.egMarks.contains (s.egressDpa p f ts) = false) ∧
      (∀ h, h < 64 → t.rv (TDM.HSTAT p h) = b2n (s.rb (TDM.HCFG p h) F.TDM_HCFG_EN)) ∧ t.mem = s.mem) ∧
  (∀ (p : Fin 48) (val : BitVec 32) s, Canon s → Opens s (TDM.CTRL p) → bit val.toNat 0 = false → bit val.toNat 4 = false →
    s.rb (TDM.CTRL p) F.TDM_CTRL_EN = true →
    ∃ t, exec (.tdmEnable p val) s = .next t ∧ t.rv (TDM.CTRL p) = val.toNat % 16 ∧ t.rv (TDM.STATUS p) = 0 ∧
      (∀ h, h < 64 → t.rv (TDM.HSTAT p h) = 0) ∧
      Touches (TDM.CTRL p :: TDM.STATUS p :: (List.range 64).map (TDM.HSTAT p)) (s.setTdm p Tdm.init) t) ∧
  (∀ (p : Fin 48) s, Canon s → Opens s (TDM.CTRL p) → s.ready (TDM.CALSTATUS p) = true →
    s.rb (TDM.CTRL p) F.TDM_CTRL_EN = false →
    ∃ t, exec (.tdmCalibrate p) s = .next t ∧ t.ready (TDM.CALSTATUS p) = false ∧
      Touches [TDM.CTRL p, TDM.CALSTATUS p] s t) ∧
  (∀ (p : Fin 48) (b : BitVec 8) s, Canon s → s.ready (TDM.CALSTATUS p) = false →
    ∃ t, exec (.calibrationComplete p (some b)) s = .next t ∧ Reports s t (TDM.CALSTATUS p) 0 ∧
      t.rf (TDM.DLY p) F.TDM_DLY_AUTO = b.toNat ∧
      Touches [TDM.DLY p, TDM.CALAUTO p, TDM.CALSTATUS p] { s with freeCount := s.freeCount + 1 } t) ∧
  (∀ (p : Fin 48) s, Canon s → s.ready (TDM.CALSTATUS p) = false →
    ∃ t b, exec (.calibrationComplete p none) s = .next t ∧ Reports s t (TDM.CALSTATUS p) 0 ∧ b < 256 ∧
      t.rf (TDM.DLY p) F.TDM_DLY_AUTO = b ∧
      Touches [TDM.DLY p, TDM.CALAUTO p, TDM.CALSTATUS p] { s with freeCount := s.freeCount + 1 } t)

/-- TDM_INGRESS_FRAME (R291, R292): when a master's frame has ended its octets stand in the ingress buffer at the frame's place of
each timeslot, the tag of its start in the tag table, and FCNT and FRAMES_IN count it. -/
def Claims.IngressFrames : Prop :=
  ∀ (p : Fin 48) os s f, MasterRuns s p → f = (s.tdm p).next → (s.tdm p).due ≤ s.tb2nsOn (p / 24) →
    (s.tdm p).eg.all (fun e => e.2.1 != 1) = true → os.length = s.tdmN p → s.probes = [] → s.skew = none →
    ∃ t, exec (.tdmIngressFrame p os) s = .next t ∧ (t.tdm p).next = f + 1 ∧ (t.tdm p).due = (s.tdm p).due + 125000 ∧
      (∀ ts, ts < s.tdmN p → t.byte (s.ingressDpa p f ts) = os.getD ts 0) ∧
      t.bytes (s.ingressTagDpa p f) 8 = tagEntry (s.tdm p).due ∧
      t.rv (TDM.FCNT p) = (s.rv (TDM.FCNT p) + 1) % 2 ^ 32 ∧ Counts s t (TDM.FRAMES_IN_LO p) 1 ∧
      (∀ q, q ≠ p.val → t.tdm q = s.tdm q) ∧
      ∀ a, (∀ ts, ts < s.tdmN p → a ≠ s.ingressDpa p f ts) → (a < s.ingressTagDpa p f ∨ s.ingressTagDpa p f + 8 ≤ a) →
        sget t.mem 0 a = sget s.mem 0 a

/-- TDM_EGRESS_FETCH (R292): 2 µs before its frame a master fetches, for every timeslot, the octet that a write placed there or else
IDLEV, drives them where OE is set, writes the frame's tag, and leaves IDLEV in every place, none of them written. -/
def Claims.EgressFrames : Prop :=
  ∀ (p : Fin 48) s f, MasterRuns s p → f = (s.tdm p).outNext → (s.tdm p).outAt ≤ s.tb2nsOn (p / 24) + 2000 →
    s.rf (TDM.CTRL p) F.TDM_CTRL_LOOP = 0 → (∀ h, h < 64 → s.rb (TDM.HCFG p h) F.TDM_HCFG_EN = false) → s.probes = [] →
    ∃ t, exec (.tdmEgressFetch p) s = .next t ∧ (t.tdm p).outNext = f + 1 ∧ (t.tdm p).outAt = (s.tdm p).outAt + 125000 ∧
      Counts s t (TDM.FRAMES_OUT_LO p) 1 ∧ t.bytes (s.egressTagDpa p f) 8 = tagEntry (s.tdm p).outAt ∧
      (∀ ts, ts < s.tdmN p → t.byte (s.egressDpa p f ts) = BitVec.ofNat 8 (s.rf (TDM.CFG p) F.TDM_CFG_IDLEV) ∧
        t.egMarks.contains (s.egressDpa p f ts) = false) ∧
      (s.rb (TDM.CTRL p) F.TDM_CTRL_OE = true → t.wire.head? = some (.tdm p ((List.range (s.tdmN p)).map (fun ts =>
        if s.egMarks.contains (s.egressDpa p f ts) then s.byte (s.egressDpa p f ts)
        else BitVec.ofNat 8 (s.rf (TDM.CFG p) F.TDM_CFG_IDLEV))) (s.tdmTrim p) true))

/-- FS_RECEIVED and FS_MISSING (R289, R291) of a slave: the first FS fixes frame 0; one within half a CLK period of its prediction
is good; any other, or none, counts an FS error and sets its cause, and the third in a row begins loss of frame. -/
def Claims.FrameSync : Prop :=
  (∀ (p : Fin 48) s, Canon s → s.slaveRuns p = true → (s.tdm p).lastFs = none →
    ∃ t, exec (.fsReceived p) s = .next t ∧ (t.tdm p).lastFs = some (s.tb2nsOn (p / 24)) ∧ (t.tdm p).pred = s.tb2nsOn (p / 24) + 125000 ∧
      (t.tdm p).ready = true ∧ ∃ x, t = (s.setTdm p x).put (TDM.STATUS p) F.TDM_STATUS_RUN 1) ∧
  (∀ (p : Fin 48) s l, Canon s → s.slaveRuns p = true → (s.tdm p).lastFs = some l → s.tdmLof p = false →
    16 * s.tdmN p * ((s.tb2nsOn (p / 24) : Int) - (s.tdm p).pred).natAbs ≤ 125000 →
    ∃ t, exec (.fsReceived p) s = .next t ∧ (t.tdm p).lastFs = some (s.tb2nsOn (p / 24)) ∧ (t.tdm p).bad = 0 ∧
      (t.tdm p).good = (s.tdm p).good + 1 ∧ ∃ x, t = s.setTdm p x) ∧
  (∀ i (p : Fin 48) s l, Canon s → Quiet s → s.slaveRuns p = true → (s.tdm p).lastFs = some l → s.tdmLof p = false →
    ((i = .fsReceived p ∧ 125000 < 16 * s.tdmN p * ((s.tb2nsOn (p / 24) : Int) - (s.tdm p).pred).natAbs) ∨
      (i = .fsMissing p ∧ 125000 < 16 * s.tdmN p * (s.tb2nsOn (p / 24) - (s.tdm p).pred))) →
    ∃ t, exec i s = .next t ∧ Counts s t (TDM.FSERR_LO p) 1 ∧ t.rb (TDM.EVT p) F.TDM_EVT_FSERR = true ∧
      (t.tdm p).bad = (s.tdm p).bad + 1 ∧ t.tdmLof p = decide ((s.tdm p).bad = 2) ∧
      ((s.tdm p).bad = 2 → Counts s t (TDM.LOF_LO p) 1 ∧ t.rb (TDM.EVT p) F.TDM_EVT_LOF = true) ∧
      (∀ q, q ≠ p.val → t.tdm q = s.tdm q) ∧ t.mem = s.mem)

/-- HDLC (R298, R299): a valid channel is enabled; a frame of 1 to 1,008 octets that is good is committed whole to the receive cask,
its length, port, channel and tag in word 0; a packet of the transmit cask becomes one frame of the channel's line, with its FCS
where the packet asks for one. -/
def Obligations.HdlcChannels : Prop :=
  (∀ (p : Fin 48) (h : Fin 64) (val : BitVec 32) s, Canon s → Opens s (TDM.HCFG p h) → bit val.toNat 31 = true →
    s.rb (TDM.HCFG p h) F.TDM_HCFG_EN = false → 1 ≤ bits val.toNat 15 10 → bits val.toNat 15 10 ≤ 32 →
    (bits val.toNat 15 10 = 1 → val.toNat % 256 ≠ 0) → bits val.toNat 25 16 + bits val.toNat 15 10 ≤ s.tdmN p →
    s.tdmE1 p = false → s.hdlcCount (p / 24) < 1024 →
    ∃ t, exec (.hdlcEnable p h val) s = .next t ∧ t.rv (TDM.HCFG p h) = val.toNat &&& 0xE3FFFCFF ∧
      t.rb (TDM.HCFG p h) F.TDM_HCFG_EN = true ∧ t.rv (TDM.HSTAT p h) = (if s.rb (TDM.CTRL p) F.TDM_CTRL_EN then 1 else 0) ∧
      Touches [TDM.HCFG p h, TDM.HSTAT p h] (s.setTdm p { s.tdm p with hdlc := sdel (s.tdm p).hdlc h }) t) ∧
  (∀ (p : Fin 48) (h : Fin 64) data s x, Canon s → Quiet s → s.probes = [] → s.tdmOn p = true →
    s.rb (TDM.HCFG p h) F.TDM_HCFG_EN = true → s.tdmLof p = false → 2 ≤ data.length → data.length ≤ 1008 →
    x = s.rf (TDM.HRXC p h) F.TDM_HRXC_CASK → Takes s x (.tdm p) (1 + (data.length + 15) / 16) →
    ∃ t w, exec (.hdlcFrameReceive p h data 0) s = .next t ∧ Counts s t (TDM.HRXFRAMES_LO p) 1 ∧
      Appended s t x (.tdm p) (w :: dataWords data) ∧
      w.val.toNat % 2 ^ 16 = data.length ∧ w.val.toNat / 2 ^ 16 % 8 = 0 ∧ w.val.toNat / 2 ^ 24 % 256 = p.val ∧
      w.val.toNat / 2 ^ 32 % 256 = h.val ∧ w.val.toNat / 2 ^ 64 % 2 ^ 32 = s.tb2nsOn (p / 24) / 1000000000 % 2 ^ 32 ∧
      w.val.toNat / 2 ^ 96 = s.tb2nsOn (p / 24) % 1000000000) ∧
  (∀ (p : Fin 48) (h : Fin 64) s x w ws rest len body, Canon s → Quiet s → s.tdmOn p = true →
    s.rb (TDM.HCFG p h) F.TDM_HCFG_EN = true → x = s.rf (TDM.HTXC p h) F.TDM_HTXC_CASK → Heads s x (w :: ws) rest →
    (w :: ws).any (fun v => v.poison) = false → len = w.val.toNat % 65536 → 1 ≤ len → len ≤ 1008 → len ≤ 16 * ws.length →
    body = (wordBytes ws).take len ++ (if bit w.val.toNat 20 then []
      else hdlcFcs (s.rb (TDM.HCFG p h) F.TDM_HCFG_FCS32) ((wordBytes ws).take len)) →
    ∃ t, exec (.hdlcFrameTransmit p h) s = .next t ∧ Counts s t (TDM.HTXFRAMES_LO p) 1 ∧ (t.cask x).pkts = rest ∧
      sget (t.tdm p).hdlc [] h = sget (s.tdm p).hdlc [] h ++ (hdlcFlag ++ stuff 0 (lsbBits body) ++ hdlcFlag) ∧
      (∀ y, y ≠ x → t.cask y = s.cask y) ∧ t.mem = s.mem)

/-- TDM ports start, stop, calibrate and follow FS: the claims TdmPortsStart, FrameSync. -/
def Obligations.TdmSetUp : Prop :=
  Claims.TdmPortsStart ∧ Claims.FrameSync

/-- Ingress frames are stored, egress frames fetched: the claims IngressFrames, EgressFrames. -/
def Obligations.TdmFrames : Prop :=
  Claims.IngressFrames ∧ Claims.EgressFrames

/-! ## The codec library (R243 to R257) -/

namespace Sys2Proof

/-- Two ranges of memory, each an address and a length, have no byte in common. -/
def Apart (e f : Nat × Nat) : Prop := e.1 + e.2 ≤ f.1 ∨ f.1 + f.2 ≤ e.1

/-- A range of memory lies apart from the program of a run and does not begin in a tile, so that a write there changes no code. -/
def NoCode (r : Run) (e : Nat × Nat) : Prop := Apart e (ctxProg r.ctx, 512) ∧ ∀ n t, placeOf e.1 ≠ .tile n t

/-- So lies the header of an instruction's state area. -/
def AreaApart (r : Run) (w : Nat) : Prop := NoCode r (ctxArea r.ctx (ciSoff w), 16)

/-- A ROM kernel has run to its end on tile `t` (R103): the tile is idle, and beside its own core, counters and causes nothing
changes but its slot, the working state of the area at `a`, `len` bytes of memory from `a`, and the playouts. -/
structure KernelRan (n k a len t code : Nat) (s v : State) : Prop where
  result : (v.core n t).g[0] = BitVec.ofNat 32 code
  idle : (v.core n t).running = none
  items : Counts s v (TILE.ITEMS_LO n t) 1
  errors : Counts s v (CTX.KERR_LO n) (if code = 0 then 0 else 1)
  slots : OtherSlots s v n k
  mem : ∀ x, x < a ∨ a + len ≤ x → sget v.mem 0 x = sget s.mem 0 x
  areas : ∀ x, x ≠ a → v.area x = s.area x
  regs : ∀ b, b ∉ CTX.EVT n :: twin (CTX.KERR_LO n) → b ∉ kernelRegs n t → b ≠ EVT.VINSVC 0 → b ≠ EVT.VINSVC 1 → v.reg b = s.reg b
  others : ∀ m j, 12 * m + j ≠ 12 * n + t → v.core m j = s.core m j
  rest : ∃ r c m x f sl a mem po eg pl, v = { s with
    regs := r, cores := c, msix := m, wire := x, freeCount := f, slots := sl, areas := a, mem := mem, poison := po, egMarks := eg,
    plays := pl }

/-- The samples of the codecs that the spec gives bit by bit: G.711 of either law, and L16. -/
def plainCoded (codec : Nat) (xs : List (BitVec 16)) : List Byte :=
  if codec = 1 then xs.map (lawCompress 1)
  else if codec = 2 then xs.map (lawCompress 0)
  else xs.flatMap (fun x => beBytes 2 x.toNat)

end Sys2Proof

/-- DEC and PLC, once their kernel is on its tile (R251, R254, R255): DEC with CONCEAL, or one that shedding turned into PLC, gives
p ms of samples whatever it is presented; a G.711 frame of p ms that is all there is to decode, no loss before it, gives its octets
expanded; PLC conceals a MISSING block with p ms of samples at the rate of its state and passes another on. What concealment and the
other codecs compute is opaque (log 8). -/
def Claims.Decoding : Prop :=
  (∀ (cl : Fin 32) (k : BitVec 13) (ch : Fin 2) s r w t st, OnTile s cl k.toNat ch r w t → ciOp w = opDec → AreaApart r w →
    (bit w 0 = true ∨ r.plc.contains r.idx = true) →
    st = s.codecAt (ctxArea r.ctx (ciSoff w)) (codecKey opDec (ciCodec w) (decKhz (ciCodec w) (ciB w))) →
    (∀ e ∈ st.held, e.2 ≠ .missing) →
    ∃ v b code, exec (.dec cl k ch) s = .next v ∧ v.run cl k.toNat ch = some (r.stepped w (some b)) ∧ b.missing = false ∧
      b.samples.length = decKhz (ciCodec w) (ciB w) * ctxPeriod r.ctx ∧ KernelRan cl k.toNat (ctxArea r.ctx (ciSoff w)) 16 t code s v) ∧
  (∀ (cl : Fin 32) (k : BitVec 13) (ch : Fin 2) s r w t b (law : Nat) data st, OnTile s cl k.toNat ch r w t → ciOp w = opDec →
    AreaApart r w → r.plc.contains r.idx = false → b = r.block (ciBi w) → b.missing = false → b.owed = none →
    ((ciCodec w = 1 ∧ law = 1) ∨ (ciCodec w = 2 ∧ law = 0)) → b.codec.toNat = ciCodec w →
    b.frames = [mkRec 0 false false false (8 * data.length) data] → data.length = 8 * ctxPeriod r.ctx →
    st = s.codecAt (ctxArea r.ctx (ciSoff w)) (codecKey opDec (ciCodec w) 8) → st.held = [] → st.lost = 0 →
    ∃ v b', exec (.dec cl k ch) s = .next v ∧ v.run cl k.toNat ch = some (r.stepped w (some b')) ∧
      b'.samples = data.map (lawExpand law) ∧ b'.missing = false ∧ b'.rate = 0 ∧
      KernelRan cl k.toNat (ctxArea r.ctx (ciSoff w)) 16 t 0 s v) ∧
  (∀ (cl : Fin 32) (k : BitVec 13) (ch : Fin 2) s r w t b, OnTile s cl k.toNat ch r w t → ciOp w = opPlc → AreaApart r w →
    b = r.block (ciBi w) →
    ∃ v b', exec (.plc cl k ch) s = .next v ∧ v.run cl k.toNat ch = some (r.stepped w (some b')) ∧ (b.missing = false → b' = b) ∧
      (b.missing = true → b'.missing = false ∧
        b'.samples.length = s.stateKhz (ctxArea r.ctx (ciSoff w)) opPlc (ciCodec w) 8 * ctxPeriod r.ctx) ∧
      KernelRan cl k.toNat (ctxArea r.ctx (ciSoff w)) 16 t 0 s v)

/-- ENC, once its kernel is on its tile (R250, R253): gives a block of its codec, and at the rate of its input; of G.711 and L16 one
record with the samples compressed by the law, or most significant byte first. -/
def Claims.Encoding : Prop :=
  (∀ (cl : Fin 32) (k : BitVec 13) (ch : Fin 2) s r w t, OnTile s cl k.toNat ch r w t → ciOp w = opEnc → AreaApart r w →
    ∃ v b' code, exec (.enc cl k ch) s = .next v ∧ v.run cl k.toNat ch = some (r.stepped w (some b')) ∧ b'.missing = false ∧
      b'.codec.toNat = ciCodec w ∧ ((r.block (ciBi w)).missing = false → b'.rate = (r.block (ciBi w)).rate) ∧ b'.samples = [] ∧
      KernelRan cl k.toNat (ctxArea r.ctx (ciSoff w)) 16 t code s v) ∧
  (∀ (cl : Fin 32) (k : BitVec 13) (ch : Fin 2) s r w t b data, OnTile s cl k.toNat ch r w t → ciOp w = opEnc → AreaApart r w →
    b = r.block (ciBi w) → b.missing = false → b.samples.length ≤ 1000 → (ciCodec w = 1 ∨ ciCodec w = 2 ∨ ciCodec w = 10) →
    data = plainCoded (ciCodec w) b.samples →
    ∃ v b', exec (.enc cl k ch) s = .next v ∧ v.run cl k.toNat ch = some (r.stepped w (some b')) ∧
      b'.frames = [mkRec 0 false false false (8 * data.length) data] ∧
      KernelRan cl k.toNat (ctxArea r.ctx (ciSoff w)) 16 t 0 s v)

/-- G.711 compression inverts expansion (R253): an octet expanded and compressed again is the octet, for A-law and µ-law, but for
the µ-law octet of negative zero. -/
def Obligations.LawsInvert : Prop :=
  (∀ o, lawCompress 0 (lawExpand 0 o) = o) ∧ (∀ o : Byte, o ≠ 0x7F → lawCompress 1 (lawExpand 1 o) = o) ∧
  lawCompress 1 (lawExpand 1 0x7F) = 0xFF

/-- DEC, PLC and ENC: the claims Decoding, Encoding. -/
def Obligations.CodecInstructions : Prop :=
  Claims.Decoding ∧ Claims.Encoding

/-! ## Playout, packets and the classifier (R267 to R285) -/

namespace Sys2Proof

/-- The playout record of a TID, as a range of memory. -/
def recordAt (s : State) (tid : BitVec 18) : Nat × Nat := (s.rf PLY.RECBASE F.PLY_RECBASE_RECBASE * 4096 + 4096 * tid.toNat, 4096)

/-- The storage of a cask, as a range of memory. -/
def storageOf (s : State) (x : Nat) : Nat × Nat := (s.placeDpa x 0, 16 * s.caskDepth x)

/-- A packet of these words stands behind the others in a cask, and no other cask has changed. -/
def Carries (s t : State) (x : Nat) (ws : List CWord) : Prop :=
  (∃ ps, (t.cask x).pkts = (s.cask x).pkts ++ [ps] ∧ ps.map (t.storedWord x) = ws) ∧ ∀ y, y ≠ x → t.cask y = s.cask y

/-- What sending a packet of slot j writes beside the packet lies apart from the run's program and from the cask's storage, and
these from each other. -/
structure SendsApart (s : State) (n j : Nat) (r : Run) (c : List Byte) (tid : BitVec 18) (x : Nat) : Prop where
  record : Apart (recordAt s tid) (ctxProg r.ctx, 512) ∧ Apart (recordAt s tid) (storageOf s x)
  template : Apart (ctxArea c (ctxTmplOff c), 256) (ctxProg r.ctx, 512) ∧ Apart (ctxArea c (ctxTmplOff c), 256) (storageOf s x)
  slot : Apart (slotDpa n j, 256) (ctxProg r.ctx, 512) ∧ Apart (slotDpa n j, 256) (storageOf s x)
  program : Apart (ctxProg r.ctx, 512) (storageOf s x)
  open_ : s.offAt (slotDpa n j) = false

/-- The words of a frame that a cask carries inline (R308). -/
def frameWords (f : List Byte) : List CWord := ⟨BitVec.ofNat 128 f.length, false⟩ :: dataWords f

/-- The fixed header of an RTP packet from a template's, with its payload type, sequence number, timestamp and source. -/
def rtpFields (hdr : List Byte) (pt seq ts ssrc : Nat) : List Byte :=
  [hdr.getD 0 0, BitVec.ofNat 8 pt] ++ beBytes 2 (seq % 65536) ++ beBytes 4 (ts % 2 ^ 32) ++ beBytes 4 (ssrc % 2 ^ 32)

/-- CLS.CMD is idle and reached, and the image in ENT0 to ENT15 is valid. -/
structure ClsFree (s : State) : Prop where
  canon : Canon s
  quiet : Quiet s
  opens : Opens s CLS.CMD
  ready : s.ready CLS.CMD_STATUS = true
  image : imageOk s.entImage = true

/-- The registers of a classifier command. -/
def clsRegs : List Nat := [CLS.CMD_STATUS, CLS.OCC, CLS.STASH, CLS.INDEX]

end Sys2Proof

/-- INSERT, REMOVE and QUERY of the classifier (R269 to R271) on a package whose dies are joined: an entry whose key is new and
finds a free place in one of its ways is put there, active at once where its version is in force and else pending for it, with OCC
and STASH; a removed one goes at once, or waits for its version; QUERY shows the index of the entry. Each posts code 0. -/
def Obligations.ClassifierCommands : Prop :=
  (∀ s, ClsFree s → s.divided = false → (∀ e ∈ s.cls, imgKey e.image ≠ imgKey s.entImage) → s.cls.length < 262144 →
    (∃ w, w < 4 ∧ ∀ e ∈ s.cls, e.index ≠ wayPlace w (imgKey s.entImage)) →
    ∃ t e w, exec .insert s = .next t ∧ Reports s t CLS.CMD_STATUS 0 ∧ w < 4 ∧
      e = ⟨s.entImage, s.versionInForce (imgTid s.entImage) == some (imgVersion s.entImage), imgVersion s.entImage, [],
        wayPlace w (imgKey s.entImage)⟩ ∧ (∀ f ∈ s.cls, f.index ≠ e.index) ∧
      t.rf CLS.OCC F.CLS_OCC_OCC = s.cls.length + 1 ∧
      t.rf CLS.STASH F.CLS_STASH_STASH = (s.cls.filter (fun f => decide (wayPlaces ≤ f.index))).length % 2 ^ 14 ∧
      t.rf CLS.INDEX F.CLS_INDEX_INDEX = e.index ∧ Touches clsRegs { s with cls := s.cls ++ [e] } t) ∧
  (∀ s l e, ClsFree s → s.divided = false → s.cls = l ++ [e] → e.is s.entImage = true → e.active = true →
    (∀ f ∈ l, f.is s.entImage = false) →
    ∃ t, exec .remove s = .next t ∧ Reports s t CLS.CMD_STATUS 0 ∧ t.rf CLS.INDEX F.CLS_INDEX_INDEX = 0x7FFFF ∧
      Touches clsRegs { s with
        cls := l ++ (if s.versionInForce (imgTid s.entImage) = some (imgVersion s.entImage) then []
          else [{ e with removes := e.removes ++ [imgVersion s.entImage] }]) } t) ∧
  (∀ s l e, ClsFree s → s.cls = l ++ [e] → e.is s.entImage = true → (∀ f ∈ l, f.is s.entImage = false) → e.index ≤ 0x7FFFF →
    ∃ t, exec .clsQuery s = .next t ∧ Reports s t CLS.CMD_STATUS 0 ∧ t.rf CLS.INDEX F.CLS_INDEX_INDEX = e.index ∧
      Touches [CLS.CMD_STATUS, CLS.INDEX] s t)

/-- The unit of die d takes the first waiting packet next: an RTP packet that no SRTP protects, with its body. -/
structure Sys2Proof.Arrives (s : State) (d : Nat) (a : Arrival) (rest : List Arrival) (body : List Byte) : Prop where
  canon : Canon s
  quiet : Quiet s
  first : s.plyIn = a :: rest
  die : (s.play a.tid).die = d
  on : s.rb PLY.CFG F.PLY_CFG_EN = true
  tid : a.tid.toNat ≤ s.rf PLY.TIDMAX F.PLY_TIDMAX_TIDMAX
  rtp : a.udptl = false
  plain : s.srtpx a.tid = 0
  body : rtpBody a.payload = some body

/-- PLY_ENABLE (R276): both pools' free lists hold every cell. PACKET_ARRIVAL (R278): the first packet of a termination anchors its
source and is stored in a cell; one whose number is already buffered is a duplicate and is dropped. -/
def Claims.PacketArrivals : Prop :=
  (∀ s, Canon s → Opens s PLY.CFG → s.rb PLY.CFG F.PLY_CFG_EN = false → s.cellUse = [] →
    ∃ t, exec .plyEnable s = .next t ∧ t.rb PLY.CFG F.PLY_CFG_EN = true ∧
      (∀ d, d < 2 → t.rf (PLY.FREE d) F.PLY_FREE_FREE = s.rf (PLY.POOL_CFG d) F.PLY_POOL_CFG_CELLS) ∧
      Touches [PLY.CFG, PLY.FREE 0, PLY.FREE 1] s t) ∧
  (∀ (d : Fin 2) s a rest body c, Arrives s d a rest body → body.length ≤ s.cellSize d →
    s.rf (PLY.FREE d) F.PLY_FREE_FREE ≠ 0 → (s.play a.tid).st = 0 →
    (∀ b, (s.play a.tid).relEnd = some b → b * 1000 ≤ a.tag + (s.play a.tid).tgt * 1000000) →
    c = ⟨2 ^ 32 + rtpSeq a.payload, rtpTs a.payload, a.tag, body.length, BitVec.ofNat 32 (imgW a.image 12), d, s.nextCell d, false⟩ →
    ∃ t, exec (.packetArrival d) s = .next t ∧ t.plyIn = rest ∧ (t.play a.tid).st = 1 ∧
      (t.play a.tid).ssrc = rtpSsrc a.payload ∧ (t.play a.tid).hseq = 2 ^ 32 + rtpSeq a.payload ∧
      (t.play a.tid).next = 2 ^ 32 + rtpSeq a.payload ∧ (t.play a.tid).ring = [c] ∧ s.cellUse.contains (2 ^ 22 * d + c.slot) = false ∧
      t.cellUse.contains (2 ^ 22 * d + c.slot) = true ∧
      (Writable s d (s.cellDpa d c.slot) body.length → s.poisonedIn (s.cellDpa d c.slot) body.length = false → Apart (s.cellDpa d c.slot, body.length) (recordAt s a.tid) →
        t.cellPayload c = some body) ∧
      (t.play a.tid).counts.rx = (s.play a.tid).counts.rx + 1 ∧
      t.rf (PLY.FREE d) F.PLY_FREE_FREE = s.rf (PLY.FREE d) F.PLY_FREE_FREE - 1 ∧ Counts s t (PLY.STORED_LO d) 1 ∧
      (∀ u : BitVec 18, u ≠ a.tid → t.play u = s.play u) ∧ t.slots = s.slots ∧ t.casks = s.casks) ∧
  (∀ (d : Fin 2) s a rest body x, Arrives s d a rest body → x = s.play a.tid → x.st = 1 → x.cand = none →
    x.ssrc = rtpSsrc a.payload → x.hseq % 65536 = rtpSeq a.payload → x.ring.any (fun q => q.seq == x.hseq) = true →
    ∃ t, exec (.packetArrival d) s = .next t ∧ t.plyIn = rest ∧ (t.play a.tid).ring = x.ring ∧
      (t.play a.tid).counts.dup = x.counts.dup + 1 ∧ (t.play a.tid).counts.rx = x.counts.rx ∧
      Counts s t (PLY.DUP_LO d) 1 ∧ t.rv (PLY.FREE d) = s.rv (PLY.FREE d) ∧ t.cellUse = s.cellUse ∧ t.slots = s.slots)

/-- PLAYOUT_RELEASE and PLAYOUT_ADJUST (R277, R279): at a boundary of a LIVE termination the packets due are presented and the chain
that PLAYOUT starts joins the pending store; at the end of a second with LMIN more than 2 ms off the target the offset of an
adjustable termination moves by the difference, which is then owed, and LMIN starts anew. -/
def Claims.PlayoutReleases : Prop :=
  (∀ (cl : Fin 32) (k : BitVec 13) s x y b ch it, Canon s → Quiet s → x = s.slot cl k.toNat → y = s.play x.tid → x.st = .live →
    y.due = some b → y.live = true → y.home = cl.val → b ≤ s.tb2usOn (dieOf cl) → x.pending = none → s.frozen x.tid = false →
    y.pres = [] → Apart (recordAt s x.tid) (slotDpa cl k.toNat, 256) → startedBy (s.ctx cl k.toNat) 2 = [ch] →
    it = s.chainItem cl k.toNat ch b .playout → s.mustWait cl it = false →
    ∃ t, exec (.playoutRelease cl k) s = .next t ∧ (t.cluster cl).pend = (s.cluster cl).pend ++ [it] ∧
      it.typ = 2 ∧ it.run = some (k, ch) ∧ it.boundary = b ∧ it.origin = .playout ∧ it.tid = x.tid ∧
      Counts s t (WS.POSTED_LO cl) 1 ∧
      (t.play x.tid).pres = (if y.st = 0 then [] else y.dueNow b (ctxPeriod (s.ctx cl k.toNat)) (s.isUdptl x.tid)) ∧
      (t.play x.tid).presAt = b ∧
      (t.play x.tid).due = some (nextTick b (ctxPeriod (s.ctx cl k.toNat)) (ctxPhase (s.ctx cl k.toNat))) ∧
      t.slots = s.slots ∧ t.casks = s.casks) ∧
  (∀ (tid : BitVec 18) s y l, Canon s → Quiet s → y = s.play tid → y.live = true → y.lmin = some l → y.adj = true →
    ∃ t, exec (.playoutAdjust tid) s = .next t ∧ (t.play tid).lmin = none ∧
      (((y.tgt : Int) - l).natAbs ≤ 2 → (t.play tid).off = y.off ∧ (t.play tid).owed = y.owed) ∧
      (2 < ((y.tgt : Int) - l).natAbs → (t.play tid).off = y.off + ((y.tgt : Int) - l) * 1000000 ∧
        (t.play tid).owed = y.owed + ((y.tgt : Int) - l) * 1000000) ∧
      (t.play tid).ring = y.ring ∧ t.slots = s.slots ∧ t.regs = s.regs)

/-- PKT.IN, once its kernel is on its tile (R277, R281): the block holds the records of the payloads presented at the run's boundary,
in order, and the run holds their cells; with none, or a presentation of a later boundary, it is MISSING. -/
def Claims.PacketsIn : Prop :=
  (∀ (cl : Fin 32) (k : BitVec 13) (ch : Fin 2) s r w t j c tid ps bodies, OnTile s cl k.toNat ch r w t → ciOp w = opPktIn →
    bindingPoisoned cl k.toNat 1 s r w = false → s.binder cl k.toNat r w 1 = some (j, c) → s.yieldsPkt r ch = false →
    tid = (s.slot cl j).tid → NoCode r (recordAt s tid) →
    (∀ p ∈ (s.play tid).pres, Apart (s.cellDpa p.die p.slot, p.len) (recordAt s tid)) → (s.play tid).presAt ≤ r.boundary →
    ps = (s.play tid).pres → ps.map s.cellPayload = bodies.map some →
    ∃ v b code, exec (.pktIn cl k ch) s = .next v ∧
      v.run cl k.toNat ch = some ({ r with cells := r.cells ++ ps }.stepped w (some b)) ∧ (v.play tid).pres = [] ∧
      (ps = [] → b = Block.empty ∧ code = 0) ∧
      (∀ p rest, ps = p :: rest → b.missing = false ∧ b.tag = r.boundary * 1000 ∧
        b.frames = ((ps.zip bodies).flatMap (fun e => (payloadRecs (imgCodec e.1.fmt.toNat) (imgVariant e.1.fmt.toNat) e.2).1)) ∧
        b.codec.toNat = imgCodec p.fmt.toNat) ∧
      KernelRan cl k.toNat (recordAt s tid).1 64 t code s v) ∧
  (∀ (cl : Fin 32) (k : BitVec 13) (ch : Fin 2) s r w t j c, OnTile s cl k.toNat ch r w t → ciOp w = opPktIn →
    bindingPoisoned cl k.toNat 1 s r w = false → s.binder cl k.toNat r w 1 = some (j, c) → s.yieldsPkt r ch = false →
    r.boundary < (s.play (s.slot cl j).tid).presAt →
    ∃ v, exec (.pktIn cl k ch) s = .next v ∧
      KernelEnds cl t 0 s (s.setRun cl k.toNat ch (some (r.stepped w (some Block.empty)))) v)

/-- PKT.OUT, once its kernel is on its tile (R282, R283): a MISSING block sends nothing; with one frame per packet, the RTP packet of
a frame of the block, its header and checksums filled in, is committed to TXCASK whole, and SEQ of the context advances. -/
def Claims.PacketsOut : Prop :=
  (∀ (cl : Fin 32) (k : BitVec 13) (ch : Fin 2) s r w t j c, OnTile s cl k.toNat ch r w t → ciOp w = opPktOut →
    pktOutReads cl k.toNat s r w = false → s.binder cl k.toNat r w 1 = some (j, c) → (r.block (ciBi w)).missing = true →
    Apart (slotDpa cl j, 256) (ctxProg r.ctx, 512) →
    ∃ v, exec (.pktOut cl k ch) s = .next v ∧ v.run cl k.toNat ch = some (r.stepped w none) ∧
      (v.slot cl j).held = (s.slot cl j).held ∧ KernelRan cl k.toNat (slotDpa cl j + 128) 12 t 0 s v) ∧
  (∀ (cl : Fin 32) (k : BitVec 13) (ch : Fin 2) s r w t j c tid b f tm frame x, OnTile s cl k.toNat ch r w t → ciOp w = opPktOut →
    pktOutReads cl k.toNat s r w = false → s.binder cl k.toNat r w 1 = some (j, c) → tid = (s.slot cl j).tid →
    b = r.block (ciBi w) → b.missing = false → b.frames = [f] → (s.slot cl j).held.frames = [] → (s.slot cl j).held.quiet = false →
    (s.slot cl j).held.mark = false → recNodata f = false → recSid f = false → ctxFpp c = 1 → ctxSrtpx c = 0 → tm = s.template c →
    tmRtp tm = true → 28 ≤ ctxTmplLen c →
    ctxTmplLen c + (payloadOf b.codec.toNat b.variant (ctxCmr c) [f]).length ≤ tmMtu tm →
    frame = buildFrame c tm (rtpFields (slice tm (ctxTmplLen c - 12) 12) (ctxPt c) (ctxSeq (s.ctx cl j)) (ctxTs (s.ctx cl j))
      (ctxSsrc c) ++ payloadOf b.codec.toNat b.variant (ctxCmr c) [f]) 0 →
    frame.length ≤ 1008 → x = ctxTxCask c → Takes s x (plyProducer cl) (frameWords frame).length → SendsApart s cl j r c tid x →
    ∃ v, exec (.pktOut cl k ch) s = .next v ∧ v.run cl k.toNat ch = some (r.stepped w none) ∧ Carries s v x (frameWords frame) ∧
      v.le (slotDpa cl j + 128) 2 = (ctxSeq (s.ctx cl j) + 1) % 65536 ∧ (v.slot cl j).held.frames = [] ∧
      (v.core cl t).g[0] = 0 ∧ (v.core cl t).running = none)

/-- RTCP_SEND (R284): at the first boundary after the interval of a LIVE termination its compound packet leaves for TXCASK,
unprotected where no SRTP is named, and is counted. -/
def Claims.RtcpReports : Prop :=
  ∀ (tid : BitVec 18) s n k c tm due frame x, Canon s → Quiet s → s.homeOf tid = some (n, k) → (s.slot n k).st = .live →
    n < 32 → c = s.ctx n k → ctxKind c = 1 → (s.play tid).rtcp.due = some due →
    firstTick due (ctxPeriod c) (ctxPhase c) ≤ s.tb2usOn (dieOf n) → s.rb PLY.CFG F.PLY_CFG_EN = true →
    s.poisonedIn (ctxArea c (ctxTmplOff c)) 256 = false → s.rtcpInt c ≠ 0 → ctxSrtpx c = 0 → tm = s.template c →
    frame = buildFrame c tm (s.rtcpCompound n k (s.play tid)) (if bit (leAt tm 128 4) 11 then 0 else 1) →
    frame.length ≤ 1008 → x = ctxTxCask c → Takes s x (plyProducer n) (frameWords frame).length →
    Apart (recordAt s tid) (storageOf s x) →
    ∃ t, exec (.rtcpSend tid) s = .next t ∧ Counts s t (PLY.RTCPTX_LO (dieOf n)) 1 ∧ Carries s t x (frameWords frame) ∧
      (t.play tid).rtcp.sent = false ∧ t.slots = s.slots

/-- Packets arrive in playout and are released: the claims PacketArrivals, PlayoutReleases. -/
def Obligations.PlayoutArrivals : Prop :=
  Claims.PacketArrivals ∧ Claims.PlayoutReleases

/-- RTP.RX, RTP.TX and RTCP reports: the claims PacketsIn, PacketsOut, RtcpReports. -/
def Obligations.ChainPackets : Prop :=
  Claims.PacketsIn ∧ Claims.PacketsOut ∧ Claims.RtcpReports

/-! ## Accelerators of a cluster (R194 to R266) -/

namespace Sys2Proof

/-- A request of a run in progress has reached its end at an accelerator: the run is open, its instruction is `w`, and TRACE
copies nothing. The cluster is not DORMANT. -/
structure Requested (s : State) (n k : Nat) (chain : Fin 2) (r : Run) (w : Nat) : Prop where
  canon : Canon s
  quiet : Quiet s
  awake : s.dormant = false
  run : s.run n k chain = some r
  closed : r.closed = false
  word : s.runInstr r chain = w
  untraced : ciTrace w = false

/-- What the end of a request writes lies apart from the run's program: `n` bytes from `a`, the slot's context, and the records in
the storage of the event cask. -/
structure EndsApart (s : State) (cl k : Nat) (r : Run) (a n : Nat) : Prop where
  area : Apart (ctxProg r.ctx, 512) (a, n)
  slot : Apart (ctxProg r.ctx, 512) (slotDpa cl k, 256)
  events : Apart (ctxProg r.ctx, 512) (storageOf s (ctxEvCask r.ctx))

/-- What FAXRELAY writes lies apart from the run's program: the areas of its VDE instructions, the record of the binding's TID and
the storage of its TXCASK. -/
structure FaxApart (s : State) (r : Run) (w : Nat) (c : List Byte) (tid : BitVec 18) : Prop where
  area : Apart (ctxProg r.ctx, 512) (ctxArea r.ctx (ciSoff w), 2048)
  areas : ∀ v ∈ s.programWords r.ctx, ciOp v = opVdeRx ∨ ciOp v = opVdeTx → Apart (ctxProg r.ctx, 512) (ctxArea r.ctx (ciSoff v), 2048)
  record : Apart (ctxProg r.ctx, 512) (recordAt s tid)
  frames : Apart (ctxProg r.ctx, 512) (storageOf s (ctxTxCask c))

/-- The area of a resampler is one that it made: its history is whole, and its input rate one of the four. -/
def SrcSound (s : State) (a : Nat) : Prop :=
  ∀ x, s.srcAt a = some x → x.hist.length = srcHist ∧ (x.inKhz = none ∨ ∃ c : Fin 4, x.inKhz = some (rateKhz c))

/-- The placed windows of a Vat slot do not meet. -/
def WindowsApart (v : VatSlot) : Prop :=
  ∀ i j : Fin 4, i ≠ j → v.at_ i ≠ 0xFF → v.q.meets (v.at_ i).toNat (v.at_ j) = false

end Sys2Proof

/-- EC, EC.REF and EC_REQUEST_COMPLETE (R197, R207, R210): EC queues a request and the run waits; EC.REF queues the block behind the
requests before it, tagged as R214 says, or with none before it delivers it to its slot, and passes it on; the request at the head of
the queue ends with an output block of the length of its near-end block, that block itself where it is MISSING, and changes memory in
its Vat slot and its context alone. -/
def Claims.EchoRequests : Prop :=
  (∀ (cl : Fin 32) (k : BitVec 13) (ch : Fin 2) s r w, NextIs s cl k.toNat ch r w → ciOp w = opEc →
    (s.cluster cl).vatQueue.length < 512 →
    ∃ t, exec (.ec cl k ch) s = .next t ∧
      t = (s.setRun cl k.toNat ch (some { r with wait := .vat })).setVatQueue cl ((s.cluster cl).vatQueue ++ [.ec k ch])) ∧
  (∀ (cl : Fin 32) (k : BitVec 13) (ch : Fin 2) s r w b j c a prof x, NextIs s cl k.toNat ch r w → ciOp w = opEcRef →
    b = r.block (ciBi w) → s.refTarget cl k.toNat r w = some (j, c) → b.missing = false → rateKhz b.rate.val = s.ecKhz cl c →
    a = ctxVatSlot c → s.ecProfile c = some prof → x = ⟨s.refTag c r.boundary, 1000000 / rateKhz b.rate.val, b.samples⟩ →
    (∀ k0 c0 q, (s.cluster cl).vatQueue = .ec k0 c0 :: q → q.length < 511 →
      ∃ t, exec (.ecRef cl k ch) s = .next t ∧
        t = (s.setVatQueue cl ((s.cluster cl).vatQueue ++ [.ref (BitVec.ofNat 13 j) a prof (s.ecKhz cl c == 16) x])).setRun cl k.toNat
          ch (some (r.stepped w (some b)))) ∧
    ((s.cluster cl).vatQueue = [] → (s.vat a).inited = true → (s.vat a).profile = prof → (s.vat a).wide = (s.ecKhz cl c == 16) →
      s.poisonedIn a (vatBytes (s.vat a).wide) = false → (s.vat a).done ≤ x.tag → b.samples ≠ [] →
      ∃ t, exec (.ecRef cl k ch) s = .next t ∧ (t.vat a).refs = (s.vat a).refs ++ [x] ∧ (t.cluster cl).vatQueue = [] ∧
        Counts s t (VAT.REFBLOCKS_LO cl) 1 ∧ t.rv (VAT.REFLATE_LO cl) = s.rv (VAT.REFLATE_LO cl) ∧
        t.run cl k.toNat ch = some (r.stepped w (some b)) ∧ (∀ a', a' ≠ a → t.vat a' = s.vat a') ∧ t.mem = s.mem)) ∧
  (∀ (cl : Fin 32) (k : BitVec 13) (ch : Fin 2) s r w a, Requested s cl k.toNat ch r w →
    (s.cluster cl).vatQueue = [.ec k ch] → a = ctxVatSlot r.ctx → EndsApart s cl k.toNat r a 24576 →
    ∃ t ys, exec (.ecRequestComplete cl .ok) s = .next t ∧ (t.cluster cl).vatQueue = [] ∧ t.rv (VAT.QUEUE cl) = 0 ∧
      Counts s t (VAT.REQUESTS_LO cl) 1 ∧ ys.length = (r.block (ciBi w)).samples.length ∧
      t.run cl k.toNat ch = some (r.stepped w (some { r.block (ciBi w) with samples := ys })) ∧
      ((r.block (ciBi w)).missing = true → ys = (r.block (ciBi w)).samples) ∧ (t.vat a).inited = true ∧
      (∀ b, b ≠ a → t.vat b = s.vat b) ∧
      (∀ x, x < a ∨ a + 24576 ≤ x → x < slotDpa cl k.toNat ∨ slotDpa cl k.toNat + 256 ≤ x → sget t.mem 0 x = sget s.mem 0 x) ∧
      OtherSlots s t cl k.toNat)

/-- The canceller's own events (R198 to R204): a search that is due places windows inside the tail only, keeps placed windows apart,
and changes nothing else; a window that has faded out becomes unused; double talk, the NLP and the disabled state end when their hold
is over, and not before, in the slot alone. -/
def Claims.EchoEvents : Prop :=
  (∀ (cl : Fin 32) (k : BitVec 13) s a v, Canon s → Quiet s → s.vatOf cl k.toNat = some a → v = s.vat a →
    v.q.noSearch = false → s.vatMoves cl v = true → v.search ≤ s.tb2nsOn (dieOf cl) → v.q.wlen ≤ v.q.tail → v.q.tail < 255 →
    WindowsApart v → (∀ p i co, v.shadow = some (p, i, co) → v.q.posOk p.toNat = true) →
    ∃ t, exec (.vatSearch cl k) s = .next t ∧ WindowsApart (t.vat a) ∧ (t.vat a).search = s.tb2nsOn (dieOf cl) + 64000000 ∧
      (∀ i, (t.vat a).at_ i ≠ v.at_ i → v.q.posOk ((t.vat a).at_ i).toNat = true) ∧
      (∀ b, b ≠ a → t.vat b = s.vat b) ∧ t.mem = s.mem ∧ t.slots = s.slots ∧ t.clusters = s.clusters) ∧
  (∀ (cl : Fin 32) (k : BitVec 13) (w : Fin 8) s a v i, s.vatOf cl k.toNat = some a → v = s.vat a → w.val = i →
    (h : i < 4) → s.vatMoves cl v = true → v.win[i] ≠ 0xFF → 272 ≤ v.low[i] →
    ∃ t, exec (.windowRelease cl k w) s = .next t ∧ t = s.setVat a ((v.dropShadow ⟨i, h⟩).release ⟨i, h⟩)) ∧
  (∀ (cl : Fin 32) (k : BitVec 13) s a v now, s.vatOf cl k.toNat = some a → v = s.vat a → now = s.tb2nsOn (dieOf cl) →
    (∃ t, exec (.doubleTalkHoldEnd cl k) s = .next t ∧ t = if now < v.dtEnd then s else s.setVat a { v with dt := false }) ∧
    (∃ t, exec (.nlpRelease cl k) s = .next t ∧ t = if now < v.nlpEnd then s else s.setVat a { v with nlpOn := false }) ∧
    (∃ t, exec (.disablerRelease cl k) s = .next t ∧
      t = if v.quiet < v.q.disHold then s else s.setVat a { v with disabled := 0, near := Answer.init, far := Answer.init }))

/-- TONE.DET, TONE.GEN, VDE.RX, VDE.TX and SRC that are not shed (R227, R241, R266): the request joins the end of its
accelerator's queue, and the run waits for it. -/
def Claims.AcceleratorRequests : Prop :=
  (∀ (cl : Fin 32) (k : BitVec 13) (ch : Fin 2) s r w, NextIs s cl k.toNat ch r w → ciOp w = opToneDet →
    ∃ t, exec (.toneDet cl k ch) s = .next t ∧
      t = (s.setRun cl k.toNat ch (some { r with wait := .toneBank })).setToneQueue cl ((s.cluster cl).toneQueue ++ [(k, ch)])) ∧
  (∀ (cl : Fin 32) (k : BitVec 13) (ch : Fin 2) s r w, NextIs s cl k.toNat ch r w → ciOp w = opToneGen →
    ∃ t, exec (.toneGen cl k ch) s = .next t ∧ t.run cl k.toNat ch = some { r with wait := .toneBank } ∧
      (t.cluster cl).toneQueue = (s.cluster cl).toneQueue ++ [(k, ch)] ∧ OtherSlots s t cl k.toNat ∧ t.mem = s.mem) ∧
  (∀ i (cl : Fin 32) (k : BitVec 13) (ch : Fin 2) s r w, NextIs s cl k.toNat ch r w →
    ((i = .vdeRx cl k ch ∧ ciOp w = opVdeRx) ∨ (i = .vdeTx cl k ch ∧ ciOp w = opVdeTx)) →
    ∃ t, exec i s = .next t ∧
      t = (s.setRun cl k.toNat ch (some { r with wait := .vde })).setVdeQueue cl ((s.cluster cl).vdeQueue ++ [(k, ch)])) ∧
  (∀ (cl : Fin 32) (k : BitVec 13) (ch : Fin 2) s r w, NextIs s cl k.toNat ch r w → ciOp w = opSrc →
    ∃ t, exec (.src cl k ch) s = .next t ∧
      t = (s.setRun cl k.toNat ch (some { r with wait := .resampler })).setSrcQueue cl ((s.cluster cl).srcQueue ++ [(k, ch)]))

/-- TONE_BANK_COMPLETE, VDE_COMPLETE and RESAMPLER_COMPLETE (R217, R224, R231, R236, R262, R266): the request at the head of the
queue leaves it and its run goes on. TONE.DET without MUTE and VDE.RX pass their block; TONE.GEN gives a block of its profile's rate
or the block it adds to; VDE.TX gives 8 kHz samples for the period; SRC gives samples of its output rate for the period, counted. -/
def Claims.AcceleratorEnds : Prop :=
  (∀ (cl : Fin 32) (k : BitVec 13) (ch : Fin 2) s r w q, Requested s cl k.toNat ch r w → ciOp w = opToneDet → bit w 45 = false →
    (s.cluster cl).toneQueue = (k, ch) :: q → EndsApart s cl k.toNat r (ctxArea r.ctx (ciSoff w)) 256 →
    ∃ t, exec (.toneBankComplete cl) s = .next t ∧ (t.cluster cl).toneQueue = q ∧
      t.run cl k.toNat ch = some (r.stepped w (some (r.block (ciBi w)))) ∧ OtherSlots s t cl k.toNat) ∧
  (∀ (cl : Fin 32) (k : BitVec 13) (ch : Fin 2) s r w q b, Requested s cl k.toNat ch r w → ciOp w = opToneGen →
    b = r.block (ciBi w) → (s.cluster cl).toneQueue = (k, ch) :: q →
    EndsApart s cl k.toNat r (ctxArea r.ctx (ciSoff w)) 256 →
    ∃ t xs, exec (.toneBankComplete cl) s = .next t ∧ (t.cluster cl).toneQueue = q ∧
      (bit w 44 = true → b.missing = false → xs.length = b.samples.length ∧
        t.run cl k.toNat ch = some (r.stepped w (some { b with samples := xs }))) ∧
      ((bit w 44 = false ∨ b.missing = true) → ∃ khz,
        khz = (if s.rb (TONE.GPW0 cl (bits w 43 40)) F.TONE_GPW0_RATE then 16 else 8) ∧ xs.length = khz * ctxPeriod r.ctx ∧
        t.run cl k.toNat ch = some (r.stepped w (some (pcmBlock khz (r.boundary * 1000) xs)))) ∧
      OtherSlots s t cl k.toNat) ∧
  (∀ (cl : Fin 32) (k : BitVec 13) (ch : Fin 2) s r w q, Requested s cl k.toNat ch r w → ciOp w = opVdeRx →
    EndsApart s cl k.toNat r (ctxArea r.ctx (ciSoff w)) 2048 → (s.cluster cl).vdeQueue = (k, ch) :: q →
    ∃ t, exec (.vdeComplete cl) s = .next t ∧ (t.cluster cl).vdeQueue = q ∧
      t.run cl k.toNat ch = some (r.stepped w (some (r.block (ciBi w)))) ∧ OtherSlots s t cl k.toNat) ∧
  (∀ (cl : Fin 32) (k : BitVec 13) (ch : Fin 2) s r w q, Requested s cl k.toNat ch r w → ciOp w = opVdeTx →
    EndsApart s cl k.toNat r (ctxArea r.ctx (ciSoff w)) 2048 → (s.cluster cl).vdeQueue = (k, ch) :: q →
    ∃ t xs, exec (.vdeComplete cl) s = .next t ∧ (t.cluster cl).vdeQueue = q ∧ xs.length = 8 * ctxPeriod r.ctx ∧
      t.run cl k.toNat ch = some (r.stepped w (some (pcmBlock 8 (r.boundary * 1000) xs))) ∧ OtherSlots s t cl k.toNat) ∧
  (∀ (cl : Fin 32) (k : BitVec 13) (ch : Fin 2) s r w q, Requested s cl k.toNat ch r w → ciOp w = opSrc →
    EndsApart s cl k.toNat r (ctxArea r.ctx (ciSoff w)) 20 → SrcSound s (ctxArea r.ctx (ciSoff w)) →
    (s.cluster cl).srcQueue = (k, ch) :: q →
    ((r.block (ciBi w)).missing = false →
      ∀ i, s.inputKhz cl ch r w = some i → (r.block (ciBi w)).samples.length = i * ctxPeriod r.ctx) →
    ∃ t b, exec (.resamplerComplete cl) s = .next t ∧ (t.cluster cl).srcQueue = q ∧
      b.samples.length = rateKhz (bits w 42 40) * ctxPeriod r.ctx ∧ b.missing = (r.block (ciBi w)).missing ∧
      b.noise = (r.block (ciBi w)).noise ∧ b.sid = (r.block (ciBi w)).sid ∧
      t.run cl k.toNat ch = some (r.stepped w (some b)) ∧ Counts s t (SRC.REQUESTS_LO cl) 1 ∧ OtherSlots s t cl k.toNat)

/-- FAXRELAY, once its kernel is on its tile (R240), with a PKT binding, its own or its peer's, gives no block; towards packets with
nothing in its RX ring it changes nothing. Without such a binding it ends with a kernel error. USER_SET_LOAD (R265): a valid image
that no chain uses comes into force in the bank that is not, and its figures stand in UINFO. -/
def Claims.FaxrelayAndUserSets : Prop :=
  (∀ (cl : Fin 32) (k : BitVec 13) (ch : Fin 2) s r w t j c, OnTile s cl k.toNat ch r w t → ciOp w = opFaxrelay →
    bindingPoisoned cl k.toNat 1 s r w = false → s.faxBinder cl k.toNat r = some (j, c) →
    FaxApart s r w c (s.slot cl j).tid →
    ∃ v r', exec (.faxrelay cl k ch) s = .next v ∧ v.run cl k.toNat ch = some r' ∧ r'.idx = r.idx + 1 ∧ r'.wait = .none ∧
      r'.blocks = r.blocks ∧ v.rv (CTX.KERR_LO cl) = s.rv (CTX.KERR_LO cl) ∧ (v.core cl t).running = none ∧
      (v.core cl t).g[0] = 0 ∧ OtherSlots s v cl k.toNat) ∧
  (∀ (cl : Fin 32) (k : BitVec 13) (ch : Fin 2) s r w t j c a, OnTile s cl k.toNat ch r w t → ciOp w = opFaxrelay →
    bindingPoisoned cl k.toNat 1 s r w = false → s.faxBinder cl k.toNat r = some (j, c) → bits w 45 44 = 0 →
    a = ctxArea r.ctx (ciSoff w) → s.vdePut a = s.vdeTake a →
    ∃ v, exec (.faxrelay cl k ch) s = .next v ∧ KernelEnds cl t 0 s (s.setRun cl k.toNat ch (some (r.stepped w none))) v) ∧
  (∀ (cl : Fin 32) (k : BitVec 13) (ch : Fin 2) s r w t, OnTile s cl k.toNat ch r w t → ciOp w = opFaxrelay →
    bindingPoisoned cl k.toNat 1 s r w = false → s.faxBinder cl k.toNat r = none →
    ∃ v, exec (.faxrelay cl k ch) s = .next v ∧ v.run cl k.toNat ch = some (r.stepped w none) ∧
      Counts s v (CTX.KERR_LO cl) 1 ∧ v.rb (CTX.EVT cl) F.CTX_EVT_KERR = true ∧ OtherSlots s v cl k.toNat ∧ v.mem = s.mem ∧
      (v.core cl t).running = none ∧ (v.core cl t).g[0] = 1) ∧
  (∀ (cl : Fin 32) (set : Fin 8) s a h len bank u, Canon s → Quiet s → Opens s (SRC.UCMD cl) → s.ready (SRC.USTATUS cl) = true →
    set.val < 3 → a = s.rf (SRC.UBASE cl set) F.SRC_UBASE_BASE * 256 → h = s.bytes a 16 → imgHeadOk h = true →
    len = 16 + 2 * (imgTaps h 0 + imgTaps h 1) → s.imgAt cl a 16 = true → s.imgAt cl a len = true →
    s.rf (SRC.USERS cl set) F.SRC_USERS_USERS = 0 → u = SRC.UINFO cl set →
    bank = (if s.rb u F.SRC_UINFO_LOADED then 1 - s.rf u F.SRC_UINFO_BANK else 0) →
    ∃ t, exec (.userSetLoad cl set) s = .next t ∧ Reports s t (SRC.USTATUS cl) 0 ∧ t.userImg cl set bank = s.bytes a len ∧
      t.rv u = 2 ^ 31 + bank * 2 ^ 30 + (h.getD 0 0).toNat % 4 * 1024 + (h.getD 0 0).toNat / 4 % 4 * 256 + (h.getD 1 0).toNat ∧
      (∀ i b, 2 * i + b ≠ 2 * set.val + bank → t.userImg cl i b = s.userImg cl i b) ∧ t.mem = s.mem ∧ t.slots = s.slots)

/-- Echo requests and events: the claims EchoRequests, EchoEvents. -/
def Obligations.EchoCancelling : Prop :=
  Claims.EchoRequests ∧ Claims.EchoEvents

/-- Tone, data and resampler engines, fax relay and user sets: the claims AcceleratorRequests, AcceleratorEnds,
FaxrelayAndUserSets. -/
def Obligations.Accelerators : Prop :=
  Claims.AcceleratorRequests ∧ Claims.AcceleratorEnds ∧ Claims.FaxrelayAndUserSets

/-! ## The host's accesses, DMA and vectors (R16, R17, R39, R44, R58, R320 to R335, R415, R437) -/

namespace Sys2Proof

/-- The registers that a discarded write changes. -/
def dropRegs : List Nat := [HIF.EVT, HIF.FENCE] ++ twin HIF.WRDROP_LO ++ twin HIF.PARTIAL_LO

/-- Bytes of memory that the host reaches through BAR2 from offset o, all in one aperture: mapped, writable, of a reachable part
that is awake and booted, and of words that are not poisoned. -/
structure HostOpen (s : State) (o n : Nat) : Prop where
  canon : Canon s
  one : o % 0x10000000 + n ≤ 0x10000000
  memory : 0x4000000 ≤ s.bar2 o
  reached : ∀ i, i < n → s.memReach (s.bar2 o + i) = .ok
  writable : ∀ i, i < n → s.writable (s.bar2 o + i) = true
  sound : ∀ i, i < n → s.poisoned (s.bar2 o + i) = false

/-- The enabled bytes of a write stand in memory, and no other byte of memory, no register, no cask and no slot has changed. -/
structure Written (s t : State) (a : Nat) (bs : List (Option Byte)) : Prop where
  bytes : ∀ i b, bs[i]? = some (some b) → sget t.mem 0 (a + i) = b
  rest : ∀ x, (∀ i b, bs[i]? = some (some b) → x ≠ a + i) → sget t.mem 0 x = sget s.mem 0 x
  regs : t.regs = s.regs
  slots : t.slots = s.slots
  casks : t.casks = s.casks

/-- A register of BAR0 without a cause bit or an action, that a host write through either port reaches. -/
structure PlainRegister (s : State) (a : Nat) (val : Word) (row : RegRow) : Prop where
  canon : Canon s
  opens : Opens s a
  booted : s.booted = true
  found : regRow a = some row
  plain : row.w1c = 0
  acts : s.writeReg a val.toNat = s.plainWrite a val.toNat

/-- The pins EVT_N follow their vectors (R336). -/
def PinsFollow (s : State) : Prop := ∀ k : Fin 2, s.msix.pins.getLsbD k.val = s.evtLow k.val

/-- The start byte of a Keyway read frame (R325). -/
def startByte (rs : List ReadWord) : Byte :=
  BitVec.ofNat 8 (0xA0 + 2 * b2n (rs.any (fun r => r.poison)) + b2n (rs.any (fun r => r.decode)))

/-- A Keyway write frame to BAR0, or to BAR2 with no error found in the words that it merges into. -/
def keywayWriteOf (bar2 : Bool) (addr : BitVec 32) (ws : List Word) : Instr :=
  if bar2 then .keywayWriteBar2 ⟨addr, []⟩ ws else .keywayWriteBar0 addr ws

/-- A COPY channel works and has a descriptor to take; its ring lies in host memory. -/
structure CopyReady (s : State) (c : Nat) (d : List Byte) : Prop where
  canon : Canon s
  quiet : Quiet s
  live : s.dmaLive c = true
  ring : s.dmaDpa c = false
  link : s.linkUp = true
  clean : ∀ x ∈ s.hostPoison, x < s.dmaAt c (s.dmaHead c) ∨ s.dmaAt c (s.dmaHead c) + 32 ≤ x
  mode : s.rb (HIF.DMA_CFG c) F.HIF_DMA_CFG_MODE = false
  waits : s.dmaHead c ≠ s.rf (HIF.DMA_HOSTCNT c) F.HIF_DMA_HOSTCNT_HOSTCNT
  desc : d = s.hostBytes (s.dmaAt c (s.dmaHead c)) 32
  code : s.copyCode d = 0

/-- A DRAIN channel works, its ring in host memory is not full, and a word that is not poisoned can be read from its cask. -/
structure DrainReady (s : State) (c h : Nat) (w : CWord) (st : Word) : Prop where
  canon : Canon s
  quiet : Quiet s
  live : s.dmaLive c = true
  ring : s.dmaDpa c = false
  link : s.linkUp = true
  mode : s.rb (HIF.DMA_CFG c) F.HIF_DMA_CFG_MODE = true
  cask : h = s.rf (HIF.DMA_CFG c) F.HIF_DMA_CFG_CASK
  on : s.caskOn h = true
  near : s.divided = false
  room : (s.dmaHead c + 65536 - s.rf (HIF.DMA_HOSTCNT c) F.HIF_DMA_HOSTCNT_HOSTCNT) % 65536 ≠ s.dmaSize c
  head : s.peek h = (w, st)
  full : bit st.toNat 31 = false
  sound : w.poison = false

end Sys2Proof

/-- REGISTER_WRITE and KEYWAY_WRITE_BAR0 (R16, R17, R321, R325, R437): a register without an action takes its RW fields and keeps its
RO fields through either port; a 1 clears a W1C bit; a write with partial byte enables and a write to a part that is not booted are
discarded and counted, with their causes. -/
def Claims.RegisterWrites : Prop :=
  (∀ i (val : BitVec 32) s a row,
    ((∃ off : BitVec 26, i = .registerWrite off 15 val ∧ a = off.toNat / 4 * 4) ∨
      (∃ addr : BitVec 32, i = .keywayWriteBar0 addr [val] ∧ a = addr.toNat / 4 * 4 % 0x4000000)) → PlainRegister s a val row →
    ∃ t, exec i s = .next t ∧ t.reg a = (s.reg a &&& ~~~row.rw) ||| (val &&& row.rw) ∧
      (∀ b, b ≠ a → t.reg b = s.reg b) ∧ ∃ r, t = { s with regs := r }) ∧
  (∀ (off : BitVec 26) (val : BitVec 32) s a row, Canon s → Quiet s → a = off.toNat / 4 * 4 → Opens s a → regRow a = some row →
    row.w1c ≠ 0 → s.writeReg a val.toNat = s.plainWrite a val.toNat →
    ∃ t, exec (.registerWrite off 15 val) s = .next t ∧
      t.reg a = (s.reg a &&& ~~~(row.rw ||| (val &&& row.w1c))) ||| (val &&& row.rw) ∧ Touches [a] s t) ∧
  (∀ (off : BitVec 26) (be : BitVec 4) (val : BitVec 32) s, Canon s → Quiet s → Opens s (off.toNat / 4 * 4) → be ≠ 15 →
    ∃ t, exec (.registerWrite off be val) s = .next t ∧ Counts s t HIF.WRDROP_LO 1 ∧ Counts s t HIF.PARTIAL_LO 1 ∧
      t.rb HIF.EVT F.HIF_EVT_PARTIAL = true ∧ t.rb HIF.FENCE F.HIF_FENCE_DROPPED = true ∧ Touches dropRegs s t) ∧
  (∀ (off : BitVec 26) (be : BitVec 4) (val : BitVec 32) s, Canon s → Quiet s → s.package.held = false → s.booted = false →
    s.bootPort ≠ some 0 →
    ∃ t, exec (.registerWrite off be val) s = .next t ∧ Counts s t HIF.WRDROP_LO 1 ∧
      t.rb HIF.EVT F.HIF_EVT_DECODE = true ∧ t.rb HIF.FENCE F.HIF_FENCE_DROPPED = true ∧ Touches dropRegs s t)

/-- HOST_MEMORY_WRITE, KEYWAY_WRITE_BAR2 and HIF_FENCE_READ (R44, R46, R58, R64, R325): enabled bytes are stored where BAR2's apertures
lead and nothing else changes; the fence changes nothing on a booted part. -/
def Claims.HostMemory : Prop :=
  (∀ i s (o : Nat) bs,
    ((∃ m : MemAt 30, i = .hostMemoryWrite m bs ∧ o = m.offset.toNat ∧ ∀ e ∈ m.eccs, e = .ok) ∨
      (∃ (m : MemAt 32) (v : Word), i = .keywayWriteBar2 m [v] ∧ o = m.offset.toNat / 4 * 4 % 0x40000000 ∧
        bs = (leBytes 4 v.toNat).map some ∧ ∀ e ∈ m.eccs, e = .ok)) → HostOpen s o bs.length →
    ∃ t, exec i s = .next t ∧ Written s t (s.bar2 o) bs) ∧
  (∀ s, s.package.held = false → s.booted = true → ∃ t, exec .hifFenceRead s = .next t ∧ t = s)

/-- The Keyway port (R325, R326): a read frame answers with a start byte and the words that the registers or memory read, in
ascending order, and changes nothing where none is poisoned or meets a decode error; a write frame of up to 64 words acts word by
word, at ascending addresses; complete words of a frame that ends early are kept and the frame is counted. -/
def Obligations.Keyway : Prop :=
  (∀ i s (count : BitVec 6) rs, s.package.held = false →
    ((∃ addr : BitVec 32, i = .keywayReadBar0 addr count ∧
        rs = (List.range (count.toNat + 1)).map (fun x => s.regRead 1 ((addr.toNat / 4 * 4 + 4 * x) % 0x4000000))) ∨
      (∃ m : MemAt 32, i = .keywayReadBar2 m count ∧ (∀ e ∈ m.eccs, e = .ok) ∧
        rs = (List.range (count.toNat + 1)).map (fun x => s.bar2Read 1 ((m.offset.toNat / 4 * 4 + 4 * x) % 0x40000000)))) →
    ∃ t, exec i s = .next t ∧ t.wire.head? = some (.keyway (startByte rs) (rs.map (fun r => r.val))) ∧
      ((∀ r ∈ rs, r.poison = false ∧ r.decode = false) → t = s.emit (.keyway 0xA0 (rs.map (fun r => r.val))))) ∧
  (∀ bar2 (addr : BitVec 32) v vs s, s.package.held = false → vs.length ≤ 63 →
    ∃ t u, exec (keywayWriteOf bar2 addr [v]) s = .next u ∧ exec (keywayWriteOf bar2 (addr + 4) vs) u = .next t ∧
      exec (keywayWriteOf bar2 addr (v :: vs)) s = .next t) ∧
  (∀ bar2 (addr : BitVec 32) ws s u, s.package.held = false → exec (keywayWriteOf bar2 addr ws) s = .next u → Canon u → Quiet u →
    ∃ t, exec (.keywayCsRiseEarly true bar2 addr ws) s = .next t ∧ Counts u t HIF.KWABORT_LO 1 ∧
      t.rb HIF.EVT F.HIF_EVT_KWABORT = true ∧ Touches (HIF.EVT :: twin HIF.KWABORT_LO) u t) ∧
  (∀ bar2 (addr : BitVec 32) ws s, ∃ t, exec (.keywayCsRiseEarly false bar2 addr ws) s = .next t ∧ t = s)

/-- DMA_ENABLE and DMA_HOSTCNT (R327): a channel starts with HEAD at HOSTCNT, stops with RUN 0, and takes HOSTCNT after what the
host wrote before it. -/
def Claims.DmaControl : Prop :=
  (∀ (c : Fin 4) (val : BitVec 32) s, Canon s → Opens s (HIF.DMA_CFG c) → s.rb (HIF.DMA_CFG c) F.HIF_DMA_CFG_EN = false →
    bit val.toNat 31 = true →
    ∃ t, exec (.dmaEnable c val) s = .next t ∧ t.rb (HIF.DMA_CFG c) F.HIF_DMA_CFG_EN = true ∧ t.dmaRun c = true ∧
      t.rv (HIF.DMA_CFG c) = val.toNat &&& 0xEF003FFF ∧
      t.dmaHead c = s.rf (HIF.DMA_HOSTCNT c) F.HIF_DMA_HOSTCNT_HOSTCNT ∧ (t.dma c).since = none ∧
      Touches [HIF.DMA_CFG c, HIF.DMA_HEAD c, HIF.DMA_STATUS c] (s.setDma c ⟨none⟩) t) ∧
  (∀ (c : Fin 4) (val : BitVec 32) s, Canon s → Opens s (HIF.DMA_CFG c) → s.rb (HIF.DMA_CFG c) F.HIF_DMA_CFG_EN = true →
    bit val.toNat 31 = false →
    ∃ t, exec (.dmaEnable c val) s = .next t ∧ t.rb (HIF.DMA_CFG c) F.HIF_DMA_CFG_EN = false ∧ t.dmaRun c = false ∧
      Touches [HIF.DMA_CFG c, HIF.DMA_STATUS c] (s.setDma c ⟨none⟩) t) ∧
  (∀ (c : Fin 4) cnt cells s, Canon s → Opens s (HIF.DMA_HOSTCNT c) →
    ∃ t, exec (.dmaHostcnt c cnt cells) s = .next t ∧ t.rf (HIF.DMA_HOSTCNT c) F.HIF_DMA_HOSTCNT_HOSTCNT = cnt.toNat ∧
      Touches [HIF.DMA_HOSTCNT c] (s.hostCells cells) t)

/-- DMA_DESCRIPTOR (R59, R328, R329): a descriptor copies its bytes, from host memory or to it, advances HEAD, reports code 0 in the
completion block, and raises DONE where it asks for it; toward the host the data goes first, the descriptor's status then, and the
completion block last. -/
def Claims.DmaCopies : Prop :=
  (∀ (c : Fin 4) s d w n h a, CopyReady s c d → w = leAt d 16 4 → n = w % 2 ^ 24 → h = leAt d 0 8 → a = leAt d 8 5 →
    bit w 30 = false → s.hostPoison = [] → s.poison = [] → (∀ i, i < n → s.writable (a + i) = true) →
    ∃ t, exec (.dmaDescriptor c false .ok) s = .next t ∧ t.bytes a n = s.hostBytes h n ∧
      t.dmaHead c = (s.dmaHead c + 1) % 65536 ∧
      t.hostBytes (s.dmaCb c) 12 = leBytes 4 ((s.dmaHead c + 1) % 65536) ++ leBytes 4 0 ++ leBytes 4 (leAt d 20 2) ∧
      (bit w 31 = true → t.rb (HIF.DMA_EVT c) F.HIF_DMA_EVT_DONE = true) ∧
      (∀ x, x < a ∨ a + n ≤ x → sget t.mem 0 x = sget s.mem 0 x) ∧ t.slots = s.slots ∧ t.casks = s.casks) ∧
  (∀ (c : Fin 4) s d w n h a e, CopyReady s c d → w = leAt d 16 4 → n = w % 2 ^ 24 → h = leAt d 0 8 → a = leAt d 8 5 →
    bit w 30 = true → s.poison = [] → e = s.dmaAt c (s.dmaHead c) →
    (h + n ≤ e + 24 ∨ e + 28 ≤ h) → (h + n ≤ s.dmaCb c ∨ s.dmaCb c + 12 ≤ h) →
    ∃ t, exec (.dmaDescriptor c false .ok) s = .next t ∧ t.hostBytes h n = s.bytes a n ∧
      t.dmaHead c = (s.dmaHead c + 1) % 65536 ∧
      t.hostBytes (s.dmaCb c) 12 = leBytes 4 ((s.dmaHead c + 1) % 65536) ++ leBytes 4 0 ++ leBytes 4 (leAt d 20 2) ∧
      (bit w 31 = true → t.rb (HIF.DMA_EVT c) F.HIF_DMA_EVT_DONE = true) ∧ t.mem = s.mem ∧ t.slots = s.slots ∧
      t.casks = s.casks ∧ ∃ m, t.wire = m ++ .hostWrite (BitVec.ofNat 64 (s.dmaCb c)) 12 false ::
        .hostWrite (BitVec.ofNat 64 (e + 24)) 4 false :: .hostWrite (BitVec.ofNat 64 h) n s.pcie.relaxed :: s.wire)

/-- DMA_DRAIN_ENTRY and DMA_DRAIN_REPORT (R330): a word of the cask becomes a 32-byte entry with its read status and leaves the
cask; the completion block reports entries 2 µs after the first, with DONE. -/
def Claims.DmaDrains : Prop :=
  (∀ (c : Fin 4) s h w st, DrainReady s c h w st → bit st.toNat 29 = false →
    ∃ t, exec (.dmaDrainEntry c) s = .next t ∧
      t.hostBytes (s.dmaAt c (s.dmaHead c)) 32 = leBytes 16 w.val.toNat ++ leBytes 4 st.toNat ++ List.replicate 12 0 ∧
      t.dmaHead c = (s.dmaHead c + 1) % 65536 ∧ t.casks = (s.consume h).casks ∧
      (t.dma c).since = some ((s.dma c).since.getD s.tb2ns) ∧ t.mem = s.mem ∧ t.slots = s.slots) ∧
  (∀ (c : Fin 4) s t0, Canon s → Quiet s → s.dmaLive c = true → s.dmaDpa c = false →
    (s.dma c).since = some t0 → t0 + 2000 ≤ s.tb2ns →
    ∃ t, exec (.dmaDrainReport c) s = .next t ∧ (t.dma c).since = none ∧ t.rb (HIF.DMA_EVT c) F.HIF_DMA_EVT_DONE = true ∧
      t.hostBytes (s.dmaCb c) 8 = leBytes 4 (s.dmaHead c) ++ leBytes 4 0 ∧ t.dmaHead c = s.dmaHead c ∧ t.mem = s.mem ∧
      t.casks = s.casks)

/-- VACK and MSIX_UNMASK (R335): acknowledged vectors leave service; a vector that is active sends its message again at once, and
one that its mask held sends it when the mask goes. The pins EVT_N follow their vectors as VPIN and PINCFG say (R336). -/
def Claims.Vectors : Prop :=
  (∀ (i : Fin 2) (v : BitVec 32) s, Canon s → Quiet s → Opens s (EVT.VACK i) → PinsFollow s →
    (∀ u, u < 64 → s.vectorActive u = false) →
    ∃ t, exec (.vack i v) s = .next t ∧ t.reg (EVT.VINSVC i) = s.reg (EVT.VINSVC i) &&& ~~~v ∧
      t.reg (EVT.VINSVC (1 - i)) = s.reg (EVT.VINSVC (1 - i)) ∧ t.wire = s.wire ∧ Touches [] s t) ∧
  (∀ (v : Fin 64) s, Canon s → Quiet s → Opens s (EVT.VACK (v.val / 32)) → PinsFollow s → s.pcie.d3hot = false →
    s.vectorActive v = true → s.inService v = true → (∀ u, u < 64 → u ≠ v.val → s.vectorActive u = false) →
    s.msix.enable = true → s.msix.funcMask = false → (s.msix.entry v).masked = false →
    ∃ t, exec (.vack ⟨v.val / 32, by omega⟩ (BitVec.ofNat 32 (2 ^ (v.val % 32)))) s = .next t ∧ t.inService v = true ∧
      t.wire = .message (s.msix.entry v).addr (s.msix.entry v).data :: s.wire ∧ Touches [] s t) ∧
  (∀ (v : Fin 64) addr data s, Canon s → s.package.held = false → s.pcie.d3hot = false →
    ∃ t, exec (.msixUnmask v addr data) s = .next t ∧ t.msix.entry v = ⟨addr, data, false⟩ ∧ t.msix.enable = true ∧
      t.msix.funcMask = false ∧ Touches [] s t ∧ (PinsFollow s → s.vectorActive v = true → s.inService v = false →
        (∀ u, u < 64 → u ≠ v.val → s.vectorActive u = false) →
        t.inService v = true ∧ t.wire = .message addr data :: s.wire)) ∧
  (∀ (off : BitVec 26) (val : BitVec 32) s a, Canon s → Quiet s → a = off.toNat / 4 * 4 → Opens s a →
    ((∃ j, j < 4 ∧ a = EVT.VPIN j) ∨ a = EVT.PINCFG) →
    ∃ t, exec (.registerWrite off 15 val) s = .next t ∧ PinsFollow t ∧ Touches [a] s t)

/-- PCIE_LINK_UP and PCIE_LINK_DOWN (R320, R323, R324): rate and width are shown; a link that goes down stops every running channel
with 0x0805, puts MSI-X at its defaults, takes every vector out of service, and but for D3hot raises LINKDN and shows no link. -/
def Claims.PcieLink : Prop :=
  (∀ (speed width : BitVec 4) s, Canon s → s.package.held = false → s.rf HIF.STATUS F.HIF_STATUS_HOSTSEL ≠ 3 →
    1 ≤ speed.toNat → speed.toNat ≤ 4 → (width = 4 ∨ width = 8) →
    ∃ t, exec (.pcieLinkUp speed width) s = .next t ∧ t.rf HIF.STATUS F.HIF_STATUS_SPEED = speed.toNat ∧
      t.rf HIF.STATUS F.HIF_STATUS_WIDTH = width.toNat ∧
      Touches [HIF.STATUS] { s with pcie := { s.pcie with d3hot := false } } t) ∧
  (∀ e s, Canon s → Quiet s → s.package.held = false →
    ∃ t, exec (.pcieLinkDown e) s = .next t ∧ (∃ p, t.msix = { Msix.init with pins := p }) ∧ t.rv (EVT.VINSVC 0) = 0 ∧
      t.rv (EVT.VINSVC 1) = 0 ∧ t.pcie = { s.pcie with relaxed := true, d3hot := e == .d3hot } ∧
      (∀ c, c < 4 → t.dmaRun c = false ∧ (s.dmaRun c = true →
        t.rf (HIF.DMA_STATUS c) F.HIF_DMA_STATUS_CODE = 0x0805 ∧ t.rb (HIF.DMA_EVT c) F.HIF_DMA_EVT_ERR = true)) ∧
      (e = .d3hot → t.rv HIF.STATUS = s.rv HIF.STATUS) ∧
      (e ≠ .d3hot → t.linkUp = false ∧ t.rf HIF.STATUS F.HIF_STATUS_WIDTH = 0 ∧ t.rb HIF.EVT F.HIF_EVT_LINKDN = true) ∧
      t.slots = s.slots ∧ t.casks = s.casks)

/-- HINGE_FLIT_RETRY and CROSSBAR_FLIT_RETRY (R29, R415, R416): a failed flit is retried and counted on its lane; at the eighth
failure the lane leaves service; a crossbar's is counted for its die, and its eighth failure holds the package in reset. -/
def Claims.FlitRetries : Prop :=
  (∀ (lane : Fin 4) (att : Fin 8) s, Canon s → Quiet s → s.package.held = false →
    bit (s.rf HNG.STATUS F.HNG_STATUS_LANES) lane = true → att.val < 7 →
    ∃ t, exec (.hingeFlitRetry lane att) s = .next t ∧ Counts s t (HNG.RETRIES0_LO + 8 * lane) 1 ∧
      t.rb HNG.EVT F.HNG_EVT_RETRY = true ∧ Touches (HNG.EVT :: twin (HNG.RETRIES0_LO + 8 * lane)) s t) ∧
  (∀ (lane other : Fin 4) s, Canon s → Quiet s → s.package.held = false → lane ≠ other →
    bit (s.rf HNG.STATUS F.HNG_STATUS_LANES) lane = true → bit (s.rf HNG.STATUS F.HNG_STATUS_LANES) other = true →
    ∃ t, exec (.hingeFlitRetry lane 7) s = .next t ∧ Counts s t HNG.EXHAUST_LO 1 ∧
      bit (t.rf HNG.STATUS F.HNG_STATUS_LANES) lane = false ∧ t.rb HNG.EVT F.HNG_EVT_LANE = true ∧ t.divided = false ∧
      t.mem = s.mem ∧ t.slots = s.slots) ∧
  (∀ d port att s, s.package.held = false → att.val < 7 → ∃ t, exec (.crossbarFlitRetry d port att) s = .next t ∧
    t = s.bumpDie d.val (fun x => { x with flitErrors := x.flitErrors + 1 })) ∧
  (∀ d port s, s.package.held = false → ∃ t, exec (.crossbarFlitRetry d port 7) s = .next t ∧
    t.package = { s.package with held := true, needFall := true, fell := false, cause := 2 } ∧ t.clusters = [] ∧ t.slots = [])

/-- The host's register and memory writes, and the fence: the claims RegisterWrites, HostMemory. -/
def Obligations.HostWrites : Prop :=
  Claims.RegisterWrites ∧ Claims.HostMemory

/-- DMA channels: control, copies and drains: the claims DmaControl, DmaCopies, DmaDrains. -/
def Obligations.DmaChannels : Prop :=
  Claims.DmaControl ∧ Claims.DmaCopies ∧ Claims.DmaDrains

/-- Vectors, the PCIe link, and flit retries: the claims Vectors, PcieLink, FlitRetries. -/
def Obligations.VectorsAndLinks : Prop :=
  Claims.Vectors ∧ Claims.PcieLink ∧ Claims.FlitRetries

/-! ## Operating points, temperature and DORMANT (R66 to R79) -/

namespace Sys2Proof

/-- What no command of a power or time control changes: memory, cores, slots, casks and playout. -/
structure DataKept (s t : State) : Prop where
  mem : t.mem = s.mem
  poison : t.poison = s.poison
  cores : t.cores = s.cores
  slots : t.slots = s.slots
  casks : t.casks = s.casks
  plays : t.plays = s.plays

/-- Nothing of the package's work is left: no core, cluster, slot, canceller, area, cask, probe, entry, packet, port or channel
holds anything, and every register outside TIME, GLB, HIF, SEC and DDR that a reset may reset has its reset value. -/
structure Cleared (t : State) : Prop where
  work : t.cores = [] ∧ t.clusters = [] ∧ t.slots = [] ∧ t.vats = [] ∧ t.areas = [] ∧ t.casks = [] ∧ t.flushing = [] ∧ t.probes = [] ∧ t.scrubs = [] ∧ t.cls = [] ∧
    t.plyIn = [] ∧ t.plays = [] ∧ t.cellUse = [] ∧ t.srtp = [] ∧ t.txBufs = [] ∧ t.tdms = [] ∧ t.egMarks = [] ∧ t.rehomes = [] ∧ t.evacs = [] ∧ t.wdns = [] ∧ t.dvfs = [] ∧
    t.macs = [] ∧ t.txSends = [] ∧ t.dmas = [] ∧ t.press = []
  regs : ∀ a row, 0x100000 ≤ a → regRow a = some row → row.dom ≠ .fixed → row.dom ≠ .cold → t.reg a = row.rst

end Sys2Proof

/-- DVFS_REQ and DVFS_TRANSITION_END (R69 to R73): with no request in hand a request that nothing refuses sets REQ and VTRIM, and
EFF is REQ capped by CEIL; the end of its transition posts its code, 5 where the ceiling capped it; a refused request posts its
code and sets DVFSREF. -/
def Claims.Dvfs : Prop :=
  (∀ (island : BitVec 6) (pt : BitVec 2) (trim : BitVec 3) s r i, Canon s → Quiet s → Opens s GLB.DVFS_REQ → s.dvfs = [] →
    s.ready GLB.DVFS_STATUS = true → r = ⟨0, island.toNat, pt.toNat, trim.toNat, none⟩ → s.dvfsCode r = 0 → i = island.toNat →
    ∃ t, exec (.dvfsReq island pt trim) s = .next t ∧ t.opReq i = r.pt ∧ t.opTrim i = trim.toNat ∧
      t.opCeil i = s.opCeil i ∧ t.rf (opReg i) F.GLB_OP_CLUSTER_EFF = min r.pt (s.opCeil i) ∧ t.ready GLB.DVFS_STATUS = false ∧
      t.dvfs = [{ r with code := some (if s.opCeil i < r.pt then 5 else 0) }] ∧ DataKept s t) ∧
  (∀ (island : BitVec 6) (pt : BitVec 2) (trim : BitVec 3) s r, Canon s → Quiet s → Opens s GLB.DVFS_REQ → s.dvfs = [] →
    s.ready GLB.DVFS_STATUS = true → r = ⟨0, island.toNat, pt.toNat, trim.toNat, none⟩ → s.dvfsCode r ≠ 0 →
    ∃ t, exec (.dvfsReq island pt trim) s = .next t ∧ Reports s t GLB.DVFS_STATUS (s.dvfsCode r) ∧
      t.rb GLB.EVT F.GLB_EVT_DVFSREF = true ∧ Touches [GLB.DVFS_STATUS, GLB.EVT] s t) ∧
  (∀ s (r : DvfsReq) c, Canon s → s.dvfs = [{ r with code := some c }] → r.origin ≤ 2 → c ≤ 5 →
    ∃ t, exec .dvfsTransitionEnd s = .next t ∧ Reports s t (dvfsGroup r.origin) c ∧
      Touches [dvfsGroup r.origin] { s with dvfs := [] } t)

/-- THERMAL_SAMPLE, CEIL_STEP and CEIL_RISE (R74 to R77): the sensors of powered islands show their readings, those of others none;
the 1 ms mark lowers the ceiling of each cluster that is out of limit or hot and of no other; a cluster that has stayed cool for
10 ms gets one point back, and EFF follows; a reading above 115 °C trips the package into a reset that ends only after PORST_N (R417). -/
def Claims.Temperatures : Prop :=
  (∀ l s, Canon s → Quiet s → s.package.held = false → (s.validReadings l).any (fun e => decide (460 < e.2)) = false →
    ∃ t, exec (.thermalSample l) s = .next t ∧
      (∀ i, i < 47 → t.rv (GLB.TEMP i) = if s.powered i then 2 ^ 31 + ofSigned 16 (l.getD i 0) else 0) ∧ DataKept s t) ∧
  (∀ l s, Canon s → Quiet s → s.package.held = false → (s.validReadings l).any (fun e => decide (460 < e.2)) = true →
    ∃ t, exec (.thermalSample l) s = .next t ∧ Cleared t ∧ t.mem = [] ∧
      t.package = { s.package with held := true, needFall := true, fell := false, cause := 16 }) ∧
  (∀ s, Canon s → Quiet s → s.package.held = false →
    ∃ t, exec .ceilStep s = .next t ∧
      (∀ i, i < 32 → (s.thermal.out.contains i || s.thermal.hot.contains i) = true → s.powered i = true →
        t.opCeil i = s.opCeil i - 1) ∧
      (∀ i, i < 32 → (s.thermal.out.contains i || s.thermal.hot.contains i) = false → t.opCeil i = s.opCeil i) ∧
      DataKept s t) ∧
  (∀ (i : BitVec 6) s, Canon s → Quiet s → s.package.held = false → i.toNat < 32 → 101 ≤ sget s.thermal.cool 0 i.toNat →
    s.thermal.hot.contains i.toNat = false → s.thermal.forced.contains i.toNat = false → s.opCeil i.toNat < 3 →
    ∃ t, exec (.ceilRise i) s = .next t ∧ t.opCeil i.toNat = s.opCeil i.toNat + 1 ∧
      t.rf (opReg i.toNat) F.GLB_OP_CLUSTER_EFF = min (s.opReq i.toNat) (s.opCeil i.toNat + 1) ∧
      (∀ j, j < 34 → j ≠ i.toNat → t.opCeil j = s.opCeil j) ∧ DataKept s t)

/-- PWR_ENTER, DORMANT_ENTRY_COMPLETE, PWR_EXIT, WAKE_N and DORMANT_EXIT_COMPLETE (R78, R79): entry begins when every cluster is
OFF, and ends in DORMANT with trained channels in self-refresh; an exit, by the host or by WAKE_N low for 1 µs with WAKE_PIN, ends in
ACTIVE with its cause latched and the WAKE event; an entry in DORMANT or with a cluster that is not OFF is refused. -/
def Claims.Dormant : Prop :=
  (∀ s, Opens s GLB.PWR → s.ready GLB.PWR_STATUS = true → s.sleep.exiting = none → s.dormant = false →
    (∀ n, n < 32 → s.clState n = stOff) →
    ∃ t, exec .pwrEnter s = .next t ∧ t = { s.put GLB.PWR_STATUS fldReady 0 with sleep := ⟨true, none, none⟩ }) ∧
  (∀ s c, Canon s → Quiet s → Opens s GLB.PWR → s.ready GLB.PWR_STATUS = true → s.sleep.exiting = none →
    ((s.dormant = true ∧ c = 0x0011) ∨ (s.dormant = false ∧ (∃ n, n < 32 ∧ s.clState n ≠ stOff) ∧ c = 0x0010)) →
    ∃ t, exec .pwrEnter s = .next t ∧ Reports s t GLB.PWR_STATUS c ∧ t.rb GLB.EVT F.GLB_EVT_PWRREF = true ∧
      Touches [GLB.PWR_STATUS, GLB.EVT] s t) ∧
  (∀ s, Canon s → s.sleep.entering = true →
    ∃ t, exec .dormantEntryComplete s = .next t ∧ t.dormant = true ∧ Reports s t GLB.PWR_STATUS 0 ∧
      t.sleep = ⟨false, s.sleep.late, none⟩ ∧
      (∀ c, c < 4 → s.rb (DDR.STATUS1 c) F.DDR_STATUS1_TRAINED = true → t.rb (DDR.STATUS1 c) F.DDR_STATUS1_SELFREF = true) ∧
      DataKept s t) ∧
  (∀ s, Opens s GLB.PWR → s.sleep = Sleep.init → s.dormant = true → s.ready GLB.PWR_STATUS = true →
    ∃ t, exec .pwrExit s = .next t ∧ t = { s.put GLB.PWR_STATUS fldReady 0 with sleep := ⟨false, some 1, none⟩ }) ∧
  (∀ ns s, s.sleep = Sleep.init → s.dormant = true → s.rb GLB.PWR F.GLB_PWR_WAKE_PIN = true → 1000 ≤ ns →
    ∃ t, exec (.wakeN ns) s = .next t ∧ t = { s with sleep := ⟨false, some 2, none⟩ }) ∧
  (∀ ns s, (s.rb GLB.PWR F.GLB_PWR_WAKE_PIN = false ∨ ns < 1000) → exec (.wakeN ns) s = .next s) ∧
  (∀ s c, Canon s → Quiet s → s.sleep.exiting = some c → c ≤ 3 →
    ∃ t, exec .dormantExitComplete s = .next t ∧ t.dormant = false ∧ t.rf GLB.PWR F.GLB_PWR_WAKE_CAUSE = c ∧
      t.rb GLB.EVT F.GLB_EVT_WAKE = true ∧ t.sleep = Sleep.init ∧ t.rv GLB.WDT_COUNT = 0 ∧
      (s.ready GLB.PWR_STATUS = false → Reports s t GLB.PWR_STATUS 0) ∧
      (∀ x, x < 4 → s.rb (DDR.STATUS1 x) F.DDR_STATUS1_TRAINED = true → t.rb (DDR.STATUS1 x) F.DDR_STATUS1_SELFREF = false) ∧
      DataKept s t)

/-! ## Resets and supplies (R354, R405 to R418) -/


/-- POWER_ON_RESET, COLD_RESET and PORST_N_RISE (R405, R407, R408): a power-on reset empties memory and a cold reset memory but for
DRAM held in self-refresh; both clear the package, leave every output ball inert (R424), and hold the package while PORST_N
is low; a cold reset during another is absorbed; the rise latches HOSTSEL and ends the reset where nothing else holds it, and
RSTCAUSE shows the cause. -/
def Claims.PackageResets : Prop :=
  (∀ s, Canon s →
    ∃ t, exec .powerOnReset s = .next t ∧ Cleared t ∧ t.mem = [] ∧ t.poison = [] ∧ t.msix = Msix.init ∧
      t.package = ⟨true, false, [], false, true, 1⟩ ∧ (∀ b, t.driveOf b = inertDrive b)) ∧
  (∀ s, Canon s → s.package.held = false →
    ∃ t, exec .coldReset s = .next t ∧ Cleared t ∧ t.msix = Msix.init ∧
      (∀ a c, placeOf a = .dram c → s.dramHeld c = true → sget t.mem 0 a = sget s.mem 0 a) ∧
      (∀ a, (∀ c, placeOf a = .dram c → s.dramHeld c = false) → sget t.mem 0 a = 0) ∧
      t.package = { s.package with held := true, needFall := false, fell := true, porst := false, cause := 2 } ∧
      (∀ b, t.driveOf b = inertDrive b)) ∧
  (∀ s, s.package.held = true → exec .coldReset s = .next { s with package := { s.package with porst := false, fell := true } }) ∧
  (∀ (h : BitVec 2) s, Canon s → s.package.held = true → s.package.porst = false → s.package.pgoodLow = [] →
    (s.package.needFall = true → s.package.fell = true) → s.package.cause ≠ 16 → s.package.cause < 256 →
    ∃ t, exec (.porstNRise h) s = .next t ∧ t.package.held = false ∧ t.package.porst = true ∧
      t.rf HIF.STATUS F.HIF_STATUS_HOSTSEL = h.toNat ∧ t.rv GLB.RSTCAUSE = s.package.cause ∧ t.mem = s.mem ∧
      (s.rb TIME.CALCFG F.TIME_CALCFG_VALID = false → t.tbs = Vector.replicate 4 ⟨0, 0, 0⟩))

/-- WARM_RESET, WATCHDOG_RESET and CLUSTER_RESET (R407 to R412): a warm reset clears the package and keeps Cellar, trace and trained
DRAM, RSTCAUSE telling the host's from the watchdog's; a cluster reset clears that cluster, resets its registers and memories, raises
EPOCH, and brings it up, with every other cluster's slots as they were. -/
def Claims.WarmResets : Prop :=
  (∀ i c s, ((i = .warmReset ∧ c = 4 ∧ Opens s GLB.RESET) ∨ (i = .watchdogReset ∧ c = 8 ∧ s.wdtOn = true ∧ s.wdtFull = true)) →
    Canon s → s.package.held = false →
    ∃ t, exec i s = .next t ∧ Cleared t ∧ t.rv GLB.RSTCAUSE = c ∧ t.package = s.package ∧ t.msix.entries = s.msix.entries ∧
      (∀ a d, (placeOf a = .cellar d ∨ placeOf a = .trace d) → sget t.mem 0 a = sget s.mem 0 a) ∧
      (∀ a d, placeOf a = .dram d → s.dramHeld d = true → sget t.mem 0 a = sget s.mem 0 a) ∧
      (∀ a n, (placeOf a = .store n ∨ ∃ j, placeOf a = .tile n j) → sget t.mem 0 a = 0)) ∧
  (∀ (cl : Fin 32) s, Canon s → Quiet s → Opens s GLB.RESET → s.rehomes = [] → s.evacs = [] →
    ∃ t, exec (.clusterReset cl) s = .next t ∧ t.clState cl = stBringup ∧
      t.rf (CTX.EPOCH cl) F.CTX_EPOCH_EPOCH = (s.rf (CTX.EPOCH cl) F.CTX_EPOCH_EPOCH + 1) % 256 ∧
      t.slots = s.slots.filter (fun e => e.1 / 8192 != cl.val) ∧ t.cores = s.cores.filter (fun e => e.1 / 12 != cl.val) ∧
      (∀ a, clusterAt a = some cl.val → sget t.mem 0 a = 0) ∧
      (∀ a, clusterAt a ≠ some cl.val → sget t.mem 0 a = sget s.mem 0 a) ∧
      t.rb GLB.EVT F.GLB_EVT_CLSTATE = true)

/-- WDT_CFG_WRITE, WDT_KICK and WATCHDOG_WARNING (R412): EN from 0 to 1 and 0x5A written to WDT_KICK start the count from 0, unless it
has run out; the warning comes once at half of TIMEOUT. -/
def Claims.Watchdog : Prop :=
  (∀ (v : BitVec 32) s, Canon s → Opens s GLB.WDT_CFG → s.rb GLB.WDT_CFG F.GLB_WDT_CFG_EN = false → bit v.toNat 31 = true →
    ∃ t, exec (.wdtCfgWrite v) s = .next t ∧ t.rv GLB.WDT_CFG = v.toNat &&& 0x8000FFFF ∧ t.rv GLB.WDT_COUNT = 0 ∧
      Touches [GLB.WDT_CFG, GLB.WDT_COUNT] { s with wdt := 0, wdWarned := false } t) ∧
  (∀ s, Canon s → Opens s GLB.WDT_KICK → (s.wdtOn && s.wdtFull) = false →
    ∃ t, exec (.wdtKick 0x5A) s = .next t ∧ t.rv GLB.WDT_COUNT = 0 ∧
      Touches [GLB.WDT_COUNT] { s with wdt := 0, wdWarned := false } t) ∧
  (∀ s, Canon s → Quiet s → s.wdtOn = true → s.wdtHalf = true → s.wdWarned = false →
    ∃ t, exec .watchdogWarning s = .next t ∧ t.rb GLB.EVT F.GLB_EVT_WDWARN = true ∧
      Touches [GLB.EVT] { s with wdWarned := true } t)

/-- PGOOD_LOW, PGOOD_RISE and REGULATOR_OUT_OF_RANGE (R406): a PGOOD input that is low for 50 µs holds the package in a power-on reset
until it rises, with its bit in the cause, and is absorbed by a reset that holds already; a shorter one and a regulator out of range are errors of class 238. -/
def Claims.Supplies : Prop :=
  (∀ (i : Fin 3) us s, Canon s → s.package.held = false → 50 ≤ us →
    ∃ t, exec (.pgoodLow i us) s = .next t ∧ Cleared t ∧ t.mem = [] ∧ t.package.held = true ∧
      t.package.pgoodLow = ins1 s.package.pgoodLow i ∧ t.package.cause = 1 + 2 ^ (5 + i.val)) ∧
  (∀ (i : Fin 3) us s, s.package.held = true → 50 ≤ us → i ≠ 1 →
    exec (.pgoodLow i us) s = .next { s with package := { s.package with pgoodLow := ins1 s.package.pgoodLow i } }) ∧
  (∀ us s, s.package.held = true → 50 ≤ us →
    ∃ t, exec (.pgoodLow 1 us) s = .next t ∧ (∀ c, c < 4 → t.rb (DDR.STATUS1 c) F.DDR_STATUS1_SELFREF = false) ∧
      (∀ a c, placeOf a = .dram c → sget t.mem 0 a = 0) ∧ t.package = { s.package with pgoodLow := ins1 s.package.pgoodLow 1 }) ∧
  (∀ (i : Fin 3) s, Canon s → s.package.held = true → s.package.porst = true → s.package.pgoodLow = [i.val] →
    s.package.needFall = false → s.package.cause ≠ 16 → s.package.cause < 256 →
    ∃ t, exec (.pgoodRise i) s = .next t ∧ t.package.held = false ∧ t.package.pgoodLow = [] ∧
      t.rv GLB.RSTCAUSE = s.package.cause ∧ t.mem = s.mem) ∧
  (∀ i s, Canon s → Quiet s → s.package.held = false →
    ((∃ (p : Fin 3) (us : Nat), i = .pgoodLow p us ∧ us < 50 ∧ s.package.porst = true) ∨
      (∃ n : BitVec 6, i = .regulatorOutOfRange n ∧ n.toNat < 47 ∧ s.powered n.toNat = true)) →
    ∃ t, exec i s = .next t ∧ t.rb EVT.ERRC ⟨14, 14⟩ = true ∧ Touches [EVT.ERRC] s t)

/-- DDR_ENABLE and DDR_TRAINING_COMPLETE (R418): EN from 0 to 1 with a CAP of 1 to 32 starts training; its success shows TRAINED and
posts code 0, its failure clears EN and posts 0x0E01; both raise TRAIN; EN from 1 to 0 stops the channel. -/
def Claims.DdrTraining : Prop :=
  (∀ (c : Fin 4) (v : BitVec 32) s, Canon s → Opens s (DDR.CFG c) → s.rb (DDR.CFG c) F.DDR_CFG_EN = false → bit v.toNat 31 = true →
    1 ≤ bits v.toNat 29 24 → bits v.toNat 29 24 ≤ 32 →
    ∃ t, exec (.ddrEnable c v) s = .next t ∧ t.rb (DDR.CFG c) F.DDR_CFG_EN = true ∧ t.ready (DDR.STATUS c) = false ∧
      t.rv (DDR.CFG c) = v.toNat &&& 0xFFFF0003 ∧ Touches [DDR.CFG c, DDR.STATUS c] s t) ∧
  (∀ (c : Fin 4) (v : BitVec 32) s, Canon s → Opens s (DDR.CFG c) → s.rb (DDR.CFG c) F.DDR_CFG_EN = false → bit v.toNat 31 = true →
    (bits v.toNat 29 24 = 0 ∨ 32 < bits v.toNat 29 24) →
    ∃ t, exec (.ddrEnable c v) s = .next t ∧ t.rb (DDR.CFG c) F.DDR_CFG_EN = false ∧ Reports s t (DDR.STATUS c) 0x0E02 ∧
      Touches [DDR.CFG c, DDR.STATUS c] s t) ∧
  (∀ (c : Fin 4) (v : BitVec 32) s, Canon s → Opens s (DDR.CFG c) → s.rb (DDR.CFG c) F.DDR_CFG_EN = true → bit v.toNat 31 = false →
    ∃ t, exec (.ddrEnable c v) s = .next t ∧ t.rv (DDR.CFG c) = v.toNat &&& 0x7FFF0003 ∧
      t.rb (DDR.STATUS1 c) F.DDR_STATUS1_TRAINED = false ∧ Touches [DDR.CFG c, DDR.STATUS1 c] s t) ∧
  (∀ (c : Fin 4) s, Canon s → Quiet s → s.package.held = false → s.ready (DDR.STATUS c) = false →
    s.rb (DDR.CFG c) F.DDR_CFG_EN = true →
    ∃ t, exec (.ddrTrainingComplete c true) s = .next t ∧ Reports s t (DDR.STATUS c) 0 ∧
      t.rb (DDR.STATUS1 c) F.DDR_STATUS1_TRAINED = true ∧ t.rb (DDR.STATUS1 c) F.DDR_STATUS1_SELFREF = false ∧
      t.rb (DDR.EVT c) F.DDR_EVT_TRAIN = true ∧ (∀ a, placeOf a ≠ .dram c → sget t.mem 0 a = sget s.mem 0 a) ∧
      (s.rb (DDR.CFG c) F.DDR_CFG_RESUME = true → s.rb (DDR.STATUS1 c) F.DDR_STATUS1_SELFREF = true → t.mem = s.mem)) ∧
  (∀ (c : Fin 4) s, Canon s → Quiet s → s.package.held = false → s.ready (DDR.STATUS c) = false →
    ∃ t, exec (.ddrTrainingComplete c false) s = .next t ∧ Reports s t (DDR.STATUS c) 0x0E01 ∧
      t.rb (DDR.CFG c) F.DDR_CFG_EN = false ∧ t.rb (DDR.EVT c) F.DDR_EVT_TRAIN = true ∧
      Touches [DDR.STATUS c, DDR.CFG c, DDR.EVT c] s t)

/-- Operating points and temperatures: the claims Dvfs, Temperatures. -/
def Obligations.PowerPoints : Prop :=
  Claims.Dvfs ∧ Claims.Temperatures

/-- DORMANT, the watchdog, and DRAM training: the claims Dormant, Watchdog, DdrTraining. -/
def Obligations.SleepAndTraining : Prop :=
  Claims.Dormant ∧ Claims.Watchdog ∧ Claims.DdrTraining

/-- Power-on, cold, warm, watchdog and cluster resets, and supplies: the claims PackageResets, Supplies, WarmResets. -/
def Obligations.Resets : Prop :=
  Claims.PackageResets ∧ Claims.Supplies ∧ Claims.WarmResets

/-! ## Ethernet ports and host queues (R302 to R319) -/

namespace Sys2Proof

/-- A frame with its FCS arrives at a MAC that receives and passes the checks of R304; without its FCS it is f. -/
structure FrameIn (s : State) (m : Fin 5) (frame f : List Byte) (ok : Bool) : Prop where
  canon : Canon s
  quiet : Quiet s
  noprobe : s.probes = []
  open_ : s.package.held = false
  on : s.rb (MAC.CTRL m) F.MAC_CTRL_EN = true
  link : s.macLink m = true
  unlooped : s.macLoop m = false
  passes : s.rxFails m frame ok = none
  bare : f = frame.take (frame.length - 4)

/-- A frame that is no pause frame, on a package that is awake, and the classifier's verdict on it. -/
structure Judged (s : State) (m : Fin 5) (frame f : List Byte) (ok : Bool) (p : Parsed) (v : Verdict) : Prop where
  arrives : FrameIn s m frame f ok
  plain : (beAt f 12 2 = 0x8808 ∧ beAt f 14 2 = 1) → False
  awake : s.dormant = false
  parsed : p = parseFrame (s.tpidOf m) f
  verdict : s.verdict p = v

/-- A MAC may begin a frame: it transmits, has no frame under way, and is not paused. -/
structure TxFree (s : State) (m : Fin 5) : Prop where
  canon : Canon s
  quiet : Quiet s
  open_ : s.package.held = false
  awake : s.dormant = false
  on : s.rb (MAC.CTRL m) F.MAC_CTRL_TXEN = true
  idle : (s.mac m).cur = none
  unpaused : s.txPaused m = false
  link : s.macLink m = true

end Sys2Proof

/-- LINK_CHANGE (R303): STATUS shows the lock and the link, and each change of the link sets its cause; under RS-FEC a corrected
code word and one that could not be are counted. On MACM the link follows its in-band status and LOOP. -/
def Claims.LinkChanges : Prop :=
  (∀ (m : Fin 5) (lock : BitVec 8) s fec up, Canon s → Quiet s → m ≠ 4 →
    fec = (s.macCfg m F.MAC_CFG_RSFEC == 1 && s.macCfg m F.MAC_CFG_MODE == 0) →
    up = (lock[0] && (!fec || lock[1]) && !lock[2]) →
    ∃ t, exec (.linkChange m lock) s = .next t ∧ t.macLink m = up ∧ t.rb (MAC.STATUS m) F.MAC_STATUS_BLOCKLOCK = lock[0] ∧
      t.rb (MAC.STATUS m) F.MAC_STATUS_FECLOCK = (fec && lock[1]) ∧
      (s.macLink m = false → up = true → t.rb (MAC.EVT m) F.MAC_EVT_LINKUP = true) ∧
      (s.macLink m = true → up = false → t.rb (MAC.EVT m) F.MAC_EVT_LINKDN = true) ∧
      Counts s t (MAC.FECCORR_LO m) (b2n (fec && lock[4])) ∧ Counts s t (MAC.FECUNC_LO m) (b2n (fec && lock[5])) ∧
      ((fec && lock[5]) = true → t.rb (MAC.EVT m) F.MAC_EVT_FECUNC = true) ∧
      (s.macLink m = up → (fec && (lock[4] || lock[5])) = false → t.rv (MAC.EVT m) = s.rv (MAC.EVT m)) ∧
      Touches ([MAC.STATUS m, MAC.EVT m] ++ twin (MAC.FECCORR_LO m) ++ twin (MAC.FECUNC_LO m)) s t) ∧
  (∀ (lock : BitVec 8) s, Canon s → Quiet s →
    ∃ t, exec (.linkChange 4 lock) s = .next t ∧ t.macLink 4 = (lock[3] || s.macLoop 4) ∧
      Touches [MAC.STATUS 4, MAC.EVT 4] (s.setMac 4 { s.mac 4 with inband := lock[3] }) t)

/-- FRAME_RECEIVE (R267, R273, R304, R314, R319): a frame that fails a check is counted by it and dropped; an accepted frame without
an entry or rule is counted as a miss; a hit of an RTP entry whose payload type is the entry's waits for the playout unit; a miss that
goes to a host queue is written to a receive buffer with its completion; a pause frame pauses transmission for its quanta; in DORMANT
a frame that a pattern matches begins the exit. -/
def Claims.FramesIn : Prop :=
  (∀ (m : Fin 5) frame ok s c, Canon s → Quiet s → s.package.held = false → s.rb (MAC.CTRL m) F.MAC_CTRL_EN = true →
    s.macLink m = true → s.macLoop m = false → s.rxFails m frame ok = some c →
    ∃ t, exec (.frameReceive m frame ok) s = .next t ∧ Counts s t c 1 ∧
      (c = MAC.RXOVF_LO m → t.rb (MAC.EVT m) F.MAC_EVT_RXOVF = true) ∧ Touches (MAC.EVT m :: twin c) s t) ∧
  (∀ (m : Fin 5) frame f ok s p, Judged s m frame f ok p .miss → s.rf CLS.CFG F.CLS_CFG_MISSACT ≠ 1 →
    ∃ t, exec (.frameReceive m frame ok) s = .next t ∧ Counts s t (MAC.RXFRAMES_LO m) 1 ∧
      Counts s t (MAC.RXOCTETS_LO m) frame.length ∧ Counts s t (CLS.FRAMES_LO (macDie m)) 1 ∧
      Counts s t (CLS.MISSES_LO (macDie m)) 1 ∧ t.plyIn = s.plyIn ∧ t.casks = s.casks ∧ t.hostMem = s.hostMem ∧ t.mem = s.mem) ∧
  (∀ (m : Fin 5) frame f ok s p img u, Judged s m frame f ok p (.hit img 0) → u = slice f p.off p.len →
    rtpVersion u = 2 → (rtpHeader u).isSome = true → (s.srtpx (imgTid img) = 0 → (rtpBody u).isSome = true) → isMuxed img u = false →
    (u.getD 1 0).toNat % 128 = imgPt img →
    ∃ t, exec (.frameReceive m frame ok) s = .next t ∧ Counts s t (MAC.RXFRAMES_LO m) 1 ∧
      Counts s t (CLS.HITS_LO (macDie m)) 1 ∧
      t.plyIn = s.plyIn ++ [⟨imgTid img, img, s.macStamp m 2 false, u, false, if macDie m = 1 then 1 else 0, m, f.length + 4⟩] ∧
      t.casks = s.casks ∧ t.hostMem = s.hostMem ∧ t.mem = s.mem) ∧
  (∀ (m : Fin 5) frame f ok s p q a b, Judged s m frame f ok p .miss → s.rf CLS.CFG F.CLS_CFG_MISSACT = 1 →
    q = s.rf CLS.CFG F.CLS_CFG_MISSQ → s.rqOn q = true → s.rqDpa q = false → s.divided = false →
    s.rf (MACM.RQ_CFG q) F.MACM_RQ_CFG_MODE = 0 → s.rf (MACM.RQ_CFG q) F.MACM_RQ_CFG_TSB < 4 → 1 ≤ f.length →
    f.length ≤ s.rqBuf q → s.rf (MACM.RQ_TAIL q) F.MACM_RQ_TAIL_TAIL ≠ s.rqHead q → a = s.rqAt q (s.rqHead q) →
    s.ringPoison false a 8 = false → b = leNat (s.hostBytes a 8) → (b + f.length ≤ a + 16 ∨ a + 32 ≤ b) →
    ∃ t, exec (.frameReceive m frame ok) s = .next t ∧ t.hostBytes b f.length = f ∧
      t.hostBytes (a + 16) 16 = rxDone f.length true true m 256 (s.macStamp m (s.rf (MACM.RQ_CFG q) F.MACM_RQ_CFG_TSB) false) ∧
      t.rqHead q = (s.rqHead q + 1) % 65536 ∧ Counts s t (MACM.RQ_FRAMES_LO q) 1 ∧ t.mem = s.mem ∧ t.casks = s.casks) ∧
  (∀ (m : Fin 5) frame f ok s, FrameIn s m frame f ok → beAt f 12 2 = 0x8808 → beAt f 14 2 = 1 →
    s.macCfg m F.MAC_CFG_PAUSERX = 1 → s.halfDuplex m = false → (s.mac m).ignore ≤ s.tb2nsOn (macDie m) → beAt f 16 2 ≠ 0 →
    ∃ t, exec (.frameReceive m frame ok) s = .next t ∧ Counts s t (MAC.PAUSERX_LO m) 1 ∧
      t.rb (MAC.STATUS m) F.MAC_STATUS_PAUSED = true ∧ (t.mac m).untilNs = some (s.tb2nsOn (macDie m) + s.quantaNs m (beAt f 16 2)) ∧
      (s.txPaused m = false → (t.mac m).since = some (s.tb2nsOn (macDie m))) ∧ t.mem = s.mem ∧ t.plyIn = s.plyIn) ∧
  (∀ (m : Fin 5) frame f ok s i, FrameIn s m frame f ok → (beAt f 12 2 ≠ 0x8808 ∨ beAt f 14 2 ≠ 1) → s.dormant = true →
    s.sleep = Sleep.init →
    (if m = 4 then s.rb GLB.PWR F.GLB_PWR_WAKE_MACM else bit (s.rf GLB.PWR F.GLB_PWR_WAKE_MAC) m) = true → i < 4 → s.wakeMatch m f i = true →
    ∃ t, exec (.frameReceive m frame ok) s = .next t ∧ t.sleep.exiting = some (3 + m.val) ∧ t.plyIn = s.plyIn ∧ t.mem = s.mem)

/-- MAC_TRANSMIT (R307, R308, R312): with no host queue that holds a frame, the packet at the head of the egress cask leaves the cask
and its frame, padded to 60 bytes, is under way, from the packet itself or from the transmit buffer it names; a malformed packet
leaves the cask too, is counted and is not sent; with no packet, the send of the one queue that holds one is under way. -/
def Claims.FramesTaken : Prop :=
  (∀ (m : Fin 5) s x d body rest v f, TxFree s m → s.txQueues m = [] → (s.egressPrio m).isSome = true → x = s.egressCask m →
    Heads s x (d :: body) rest → badEgress (d :: body) = false → v = d.val.toNat → bit v 16 = false → bit v 18 = false →
    f = (wordBytes body).take (v % 2 ^ 14) → max 60 f.length + 4 ≤ s.macLimit m (s.tagsOf m f) →
    ∃ t y, exec (.macTransmit m) s = .next t ∧ (t.mac m).cur = some y ∧ y.bytes = padFrame f ∧ y.status = some 0 ∧
      y.sent = true ∧ y.tag = bits v 63 48 ∧ y.ret = (if bit v 79 then some (bits v 77 64) else none) ∧ y.tq = none ∧
      (t.cask x).pkts = rest ∧ (∀ h, h ≠ x → t.cask h = s.cask h) ∧ t.mem = s.mem) ∧
  (∀ (m : Fin 5) s x d rest v a g f, TxFree s m → s.txQueues m = [] → (s.egressPrio m).isSome = true → x = s.egressCask m →
    Heads s x [d] rest → badEgress [d] = false → v = d.val.toNat → bit v 16 = true → bit v 18 = false → a = v / 2 ^ 96 % 2 ^ 32 →
    s.txBufs.find? (fun e => e.1 == a) = some (a, g) → f = g.take (v % 2 ^ 14) → max 60 f.length + 4 ≤ s.macLimit m (s.tagsOf m f) →
    ∃ t y, exec (.macTransmit m) s = .next t ∧ (t.mac m).cur = some y ∧ y.bytes = padFrame f ∧ y.status = some 0 ∧
      y.sent = true ∧ t.txBufs = sdel s.txBufs a ∧ (t.cask x).pkts = rest ∧ (∀ h, h ≠ x → t.cask h = s.cask h) ∧ t.mem = s.mem) ∧
  (∀ (m : Fin 5) s x p rest, TxFree s m → s.txQueues m = [] → (s.egressPrio m).isSome = true → x = s.egressCask m →
    Heads s x p rest → badEgress p = true →
    ∃ t y, exec (.macTransmit m) s = .next t ∧ (t.mac m).cur = some y ∧ y.status = some 3 ∧ y.sent = false ∧ y.tq = none ∧
      Counts s t (MAC.TXBAD_LO m) 1 ∧ (t.cask x).pkts = rest ∧ (∀ h, h ≠ x → t.cask h = s.cask h) ∧ t.mem = s.mem) ∧
  (∀ (m : Fin 5) s q f w, TxFree s m → s.txQueues m = [q] → s.egressPrio m = none → s.txSends = [] → s.tqPlan m q = .inr [f] →
    w = leAt (s.tqDesc q (s.tqHead q)) 8 4 → bit w 28 = false →
    ∃ t y, exec (.macTransmit m) s = .next t ∧ (t.mac m).cur = some y ∧ y.bytes = padFrame f ∧ y.status = some 0 ∧
      y.sent = true ∧ y.ret = none ∧
      y.tq = some (q, s.tqHead q + (s.tqSpan q (s.tqCount q) (s.tqHead q) 0 - 1), true) ∧ t.txSends = [] ∧
      t.casks = s.casks ∧ t.mem = s.mem)

/-- MAC_TRANSMIT_END (R309, R312): the frame leaves with its FCS and is counted; its return record is posted to the cask it names;
a queue's send gets its status with DONE in its descriptor, and HEAD passes it; in DORMANT nothing leaves (R78). -/
def Claims.FramesEnd : Prop :=
  (∀ (m : Fin 5) s, s.dormant = true → exec (.macTransmitEnd m) s = .next s) ∧
  (∀ (m : Fin 5) s x, Canon s → Quiet s → s.probes = [] → s.dormant = false → (s.mac m).cur = some x → x.sent = true → x.ret = none → x.tq = none →
    s.macLoop m = false →
    ∃ t, exec (.macTransmitEnd m) s = .next t ∧ (t.mac m).cur = none ∧
      t.wire.head? = some (.frame m (x.bytes ++ hdlcFcs true x.bytes)) ∧ Counts s t (MAC.TXFRAMES_LO m) 1 ∧
      Counts s t (MAC.TXOCTETS_LO m) (x.bytes ++ hdlcFcs true x.bytes).length ∧ t.mem = s.mem ∧ t.casks = s.casks) ∧
  (∀ (m : Fin 5) s x h c, Canon s → Quiet s → s.probes = [] → s.dormant = false → (s.mac m).cur = some x → x.sent = false → x.ret = some h →
    x.status = some c → x.tq = none → s.divided = false → Takes s h (.mac m) 1 →
    ∃ t, exec (.macTransmitEnd m) s = .next t ∧ (t.mac m).cur = none ∧
      Appended s t h (.mac m) [⟨returnRecord x.tag c (x.stamp.getD 0), false⟩] ∧ ∀ n f, .frame n f ∈ t.wire → .frame n f ∈ s.wire) ∧
  (∀ (m : Fin 5) s x q eop c, Canon s → Quiet s → s.probes = [] → s.dormant = false →
    (s.mac m).cur = some x → x.sent = false → x.ret = none → x.status = some c → x.tq = some (q, eop, true) → s.tqDpa q = false →
    ∃ t, exec (.macTransmitEnd m) s = .next t ∧ (t.mac m).cur = none ∧ t.tqHead q = (eop + 1) % 65536 ∧
      t.hostBytes (s.tqAt q eop + 16) 4 = leBytes 4 (c % 16 + 2 ^ 31) ∧ t.mem = s.mem ∧ t.casks = s.casks)

/-- PAUSE_EXPIRY, PAUSE_WATCHDOG, PAUSE_FRAME_SEND and COLLISION (R314 to R316): a pause ends as its count or the watchdog ends it; a
pause frame leaves when less than a quarter of the buffer is free; a collision is counted, and a late one or the 16th drops the
frame. -/
def Claims.PauseAndCollisions : Prop :=
  (∀ (m : Fin 5) s u, Canon s → (s.mac m).untilNs = some u → u ≤ s.tb2nsOn (macDie m) →
    ∃ t, exec (.pauseExpiry m) s = .next t ∧ t.rb (MAC.STATUS m) F.MAC_STATUS_PAUSED = false ∧
      Touches [MAC.STATUS m] (s.setMac m { s.mac m with since := none, untilNs := none }) t) ∧
  (∀ (m : Fin 5) s b u, Canon s → Quiet s → (s.mac m).since = some b → (s.mac m).untilNs = some u → b + s.wdNs m < u + 1000 →
    b + s.wdNs m ≤ s.tb2nsOn (macDie m) →
    ∃ t, exec (.pauseWatchdog m) s = .next t ∧ t.rb (MAC.STATUS m) F.MAC_STATUS_PAUSED = false ∧ (t.mac m).since = none ∧
      (t.mac m).untilNs = none ∧ (t.mac m).ignore = s.tb2nsOn (macDie m) + s.wdNs m ∧ Counts s t (MAC.PAUSEWD_LO m) 1 ∧
      t.rb (MAC.EVT m) F.MAC_EVT_PAUSEWD = true) ∧
  (∀ (m : Fin 5) s f, Canon s → Quiet s → s.package.held = false → s.dormant = false → s.macCfg m F.MAC_CFG_PAUSETX ≠ 0 →
    s.rb (MAC.CTRL m) F.MAC_CTRL_TXEN = true → s.macLink m = true → s.halfDuplex m = false → s.macLoop m = false →
    4 * (rxSize m - s.rxUsed m) < rxSize m → (s.mac m).pausing = false → f = s.pauseFrame m 0xFFFF →
    ∃ t, exec (.pauseFrameSend m) s = .next t ∧ t.wire.head? = some (.frame m (f ++ hdlcFcs true f)) ∧
      Counts s t (MAC.PAUSETX_LO m) 1 ∧ (t.mac m).pausing = true ∧ (t.mac m).low = true ∧ (t.mac m).pauseAt = s.tb2nsOn (macDie m) ∧ t.plyIn = s.plyIn) ∧
  (∀ late s f, Canon s → Quiet s → (s.mac 4).cur = some f → s.halfDuplex 4 = true → f.sent = true →
    ∃ t, exec (.collision late) s = .next t ∧ Counts s t (MAC.COLL_LO 4) 1 ∧
      (late = false → (s.mac 4).collisions < 15 → (t.mac 4).cur = some f ∧ (t.mac 4).collisions = (s.mac 4).collisions + 1) ∧
      (late = false → 15 ≤ (s.mac 4).collisions → (t.mac 4).cur = some { f with sent := false, status := none } ∧
        Counts s t (MAC.EXCOL_LO 4) 1) ∧
      (late = true → (t.mac 4).cur = some { f with sent := false, status := none } ∧ Counts s t (MAC.LATECOL_LO 4) 1))

/-- RQ_TAIL, TQ_TAIL and the MDIO commands (R302, R310, R312): TAIL takes its value after what the host wrote before; an MDIO cycle
goes out and posts code 0, and what a read brings stands in MDIO_DATA. -/
def Obligations.QueueTailsAndMdio : Prop :=
  (∀ (q : Fin 64) tail cells s, Canon s → Opens s (MACM.RQ_TAIL q) →
    ∃ t, exec (.rqTail q tail cells) s = .next t ∧ t.rf (MACM.RQ_TAIL q) F.MACM_RQ_TAIL_TAIL = tail.toNat ∧
      Touches [MACM.RQ_TAIL q] (s.hostCells cells) t) ∧
  (∀ (q : Fin 16) tail cells s, Canon s → Opens s (MACM.TQ_TAIL q) →
    ∃ t, exec (.tqTail q tail cells) s = .next t ∧ t.rf (MACM.TQ_TAIL q) F.MACM_TQ_TAIL_TAIL = tail.toNat ∧
      Touches [MACM.TQ_TAIL q] (s.hostCells cells) t) ∧
  (∀ (phy reg : BitVec 5) (data : BitVec 16) i op s, Canon s → Opens s MACM.MDIOCMD → s.ready MACM.MDIO_STATUS = true →
    ((i = .mdioC22Write phy reg data ∧ op = 1) ∨ (i = .mdioC45Address phy reg data ∧ op = 4) ∨
      (i = .mdioC45Write phy reg data ∧ op = 5)) →
    ∃ t, exec i s = .next t ∧ Reports s t MACM.MDIO_STATUS 0 ∧ t.wire = .mdio op phy reg data :: s.wire ∧
      Touches [MACM.MDIO_STATUS] s t) ∧
  (∀ (phy reg : BitVec 5) (data : BitVec 16) i op s, Canon s → Opens s MACM.MDIOCMD → s.ready MACM.MDIO_STATUS = true →
    ((i = .mdioC22Read phy reg data ∧ op = 0) ∨ (i = .mdioC45Read phy reg data ∧ op = 6)) →
    ∃ t, exec i s = .next t ∧ Reports s t MACM.MDIO_STATUS 0 ∧ t.wire = .mdio op phy reg 0 :: s.wire ∧
      t.rf MACM.MDIO_DATA F.MACM_MDIO_DATA_DATA = data.toNat ∧ Touches [MACM.MDIO_STATUS, MACM.MDIO_DATA] s t)

/-- Links, pause frames and collisions: the claims LinkChanges, PauseAndCollisions. -/
def Obligations.EthernetPorts : Prop :=
  Claims.LinkChanges ∧ Claims.PauseAndCollisions

/-- Frames received, taken and sent: the claims FramesIn, FramesTaken, FramesEnd. -/
def Obligations.EthernetFrames : Prop :=
  Claims.FramesIn ∧ Claims.FramesTaken ∧ Claims.FramesEnd

/-! ## Time (R339 to R354, R436) -/

namespace Sys2Proof

/-- The registers of CAPTURE. -/
def captureRegs : List Nat :=
  [TIME.CAP_STATUS, TIME.CAP_CALHI, TIME.CAP_CALLO, TIME.CAP_CALFR] ++
    (List.range 4).flatMap (fun i => [TIME.CAP_SECHI i, TIME.CAP_SECLO i, TIME.CAP_NS i, TIME.CAP_FRAC i])

end Sys2Proof

/-- TIME_TICK (R339 to R341): every base adds its increment of this tick; TB3 adds 2 ns, and a base whose domain does not slew and is
not in HOLDOVER its register's increment within the limits; die 1's mirror adds the same while the Hinge is up; PPS_OUT pulses where
its base passes to another second (R350). A reset that holds the package stops the bases. -/
def Claims.Ticks : Prop :=
  (∀ s, Canon s → Quiet s → s.package.held = false →
    ∃ t, exec .timeTick s = .next t ∧ (∀ b : Fin 4, t.tb b = TimeBase.ofTotal ((s.tb b).total + s.increments[b])) ∧
      s.increments[3] = 2 * 2 ^ 32 ∧
      (∀ b : Fin 2, (s.disc b).slewing = false → s.domState b ≠ domHoldover →
        t.tb ⟨b, by omega⟩ = TimeBase.ofTotal ((s.tb ⟨b, by omega⟩).total + clampInc (s.incReg b))) ∧
      (s.divided = false → ∀ b : Fin 4, t.tbOn 1 b = TimeBase.ofTotal ((s.tbOn 1 b).total + s.increments[b])) ∧
      (∀ b : Fin 4, s.rb TIME.PPSOUT F.TIME_PPSOUT_EN = true → s.rf TIME.PPSOUT F.TIME_PPSOUT_SRC = b.val →
        (t.tb b).sec ≠ (s.tb b).sec → t.wire.head? = some (.pps (t.tb b).sec (BitVec.ofNat 8 (s.rf TIME.PPSOUT F.TIME_PPSOUT_DLY))
          (max 1 (s.rf TIME.PPSOUT F.TIME_PPSOUT_WIDTH)))) ∧
      t.clockwork.ticks = s.clockwork.ticks + 1 ∧ DataKept s t) ∧
  (∀ s, s.package.held = true → ∃ t, exec .timeTick s = .next t ∧ t.tbs = s.tbs ∧ DataKept s t)

/-- INC_WRITE and ADJ (R340, R341, R344): the increment takes its written half, a sum outside the limits being counted; ADJ sets
what is left of a phase slew; each brings a domain whose EN is 1 to TRACKING, and no base jumps. -/
def Claims.Adjustments : Prop :=
  (∀ (b : Fin 2) hi (v : BitVec 32) s, Canon s → Quiet s → Opens s (if hi then TIME.INCHI b else TIME.INCLO b) →
    ∃ t, exec (.incWrite b hi v) s = .next t ∧
      t.incReg b = (if hi then v.toNat % 16 * 2 ^ 32 + s.rv (TIME.INCLO b)
        else s.rf (TIME.INCHI b) F.TIME_INCHI_INCNS * 2 ^ 32 + v.toNat) ∧
      Counts s t TIME.CLAMPS_LO (if clampInc (t.incReg b) = t.incReg b then 0 else 1) ∧
      (s.rb (TIME.DCFG b) F.TIME_DCFG_EN = true → t.domState b = domTracking) ∧ t.tbs = s.tbs ∧ DataKept s t) ∧
  (∀ (b : Fin 2) (v : BitVec 32) s, Canon s → Quiet s → Opens s (TIME.ADJ b) →
    ∃ t, exec (.adj b v) s = .next t ∧ (t.disc b).rem = v.toInt * 2 ^ 32 ∧ (t.disc b).slewing = (v != 0) ∧
      t.rv (TIME.ADJREM b) = v.toNat ∧ (s.rb (TIME.DCFG b) F.TIME_DCFG_EN = true → t.domState b = domTracking) ∧
      t.tbs = s.tbs ∧ DataKept s t)

/-- TB_SET, TB_STEP, ALIGN and CAPTURE (R342, R343, R345): SET and STEP change their base alone, on both dies at
once while the Hinge is up (the model's choice, log 38), and TB2 is refused with 0x0901; ALIGN
steps TB2 onto its source; CAPTURE latches all bases and the calendar. -/
def Claims.BaseCommands : Prop :=
  (∀ (b : Fin 4) s, Canon s → Quiet s → Opens s (TIME.CMD b) → s.ready (TIME.CMD_STATUS b) = true → b ≠ 2 → s.cmdNs b < 1000000000 →
    ∃ t, exec (.tbSet b) s = .next t ∧ Reports s t (TIME.CMD_STATUS b) 0 ∧
      t.tb b = ⟨BitVec.ofNat 48 (s.cmdSec b), BitVec.ofNat 32 (s.cmdNs b), 0⟩ ∧
      (s.divided = false → t.tbOn 1 b = t.tb b) ∧ (∀ c, c ≠ b → t.tb c = s.tb c) ∧ DataKept s t) ∧
  (∀ (b : Fin 4) neg s d, Canon s → Quiet s → Opens s (TIME.CMD b) → s.ready (TIME.CMD_STATUS b) = true → b ≠ 2 →
    s.cmdNs b < 1000000000 → d = (s.cmdSec b * 1000000000 + s.cmdNs b) * 2 ^ 32 → (neg = true → d ≤ (s.tb b).total) →
    ∃ t, exec (.tbStep b neg) s = .next t ∧ Reports s t (TIME.CMD_STATUS b) 0 ∧
      t.tb b = TimeBase.ofTotal (if neg then (s.tb b).total - d else (s.tb b).total + d) ∧
      (∀ c, c ≠ b → t.tb c = s.tb c) ∧ DataKept s t) ∧
  (∀ i s, Canon s → Opens s (TIME.CMD 2) → s.ready (TIME.CMD_STATUS 2) = true →
    (i = .tbSet 2 ∨ ∃ neg, i = .tbStep 2 neg) →
    ∃ t, exec i s = .next t ∧ Reports s t (TIME.CMD_STATUS 2) 0x0901 ∧ Touches [TIME.CMD_STATUS 2] s t) ∧
  (∀ s, Canon s → Quiet s → Opens s (TIME.CMD 2) → s.ready (TIME.CMD_STATUS 2) = true →
    ∃ t, exec (.align 2) s = .next t ∧ Reports s t (TIME.CMD_STATUS 2) 0 ∧ t.tb 2 = s.tb s.tb2Source ∧
      (∀ c, c ≠ 2 → t.tb c = s.tb c) ∧ Counts s t TIME.ALIGNS_LO 1 ∧ t.rb TIME.EVT F.TIME_EVT_SWITCH = true ∧
      t.rb TIME.STATUS F.TIME_STATUS_SLEWING = false ∧ DataKept s t) ∧
  (∀ s, Canon s → Opens s TIME.CAPTURE → s.ready TIME.CAP_STATUS = true →
    ∃ t, exec .capture s = .next t ∧ Reports s t TIME.CAP_STATUS 0 ∧
      (∀ i : Fin 4, t.rv (TIME.CAP_SECHI i) * 2 ^ 32 + t.rv (TIME.CAP_SECLO i) = (s.tb i).sec.toNat ∧
        t.reg (TIME.CAP_NS i) = (s.tb i).ns ∧ t.reg (TIME.CAP_FRAC i) = (s.tb i).frac) ∧
      t.rv TIME.CAP_CALHI * 2 ^ 32 + t.rv TIME.CAP_CALLO = s.calSec ∧ t.rv TIME.CAP_CALFR = s.calFrac ∧
      Touches captureRegs s t)

/-- HOLDOVER_ENTRY, TB2CTL_WRITE, MIRROR_CORRECTION and REF_LOSS (R344 to R348): a domain that nobody adjusts for HOLDTO enters
HOLDOVER; a new source of TB2 is shown, counted and slewed to, with no jump of any base; die 1's mirror takes the bases; a lost
reference is counted. -/
def Claims.Sources : Prop :=
  (∀ (b : Fin 2) s, Canon s → Quiet s → s.holdDue b = true →
    ∃ t, exec (.holdoverEntry b) s = .next t ∧ t.domState b = domHoldover ∧ Counts s t TIME.HOLDOVERS_LO 1 ∧
      t.rb TIME.EVT (domEvent b) = true ∧ (t.disc b).slewing = false ∧ t.tbs = s.tbs ∧ DataKept s t) ∧
  (∀ (v : BitVec 32) s src, Canon s → Quiet s → Opens s TIME.TB2CTL → fget F.TIME_TB2CTL_WSEL v = 0 →
    src = fget F.TIME_TB2CTL_SRC v → src ≠ 3 → s.rf TIME.STATUS F.TIME_STATUS_SRC ≠ src →
    ∃ t, exec (.tb2ctlWrite v) s = .next t ∧ t.rf TIME.STATUS F.TIME_STATUS_SRC = src ∧
      t.rf TIME.TB2CTL F.TIME_TB2CTL_SRC = src ∧ Counts s t TIME.SWITCHES_LO 1 ∧ t.rb TIME.EVT F.TIME_EVT_SWITCH = true ∧
      (t.rb TIME.STATUS F.TIME_STATUS_SLEWING = true ↔ 2 ^ 32 < t.tb2D.natAbs) ∧ t.tbs = s.tbs ∧ DataKept s t) ∧
  (∀ (v : BitVec 32) s, Canon s → Opens s TIME.TB2CTL → fget F.TIME_TB2CTL_WSEL v = 1 →
    ∃ t, exec (.tb2ctlWrite v) s = .next t ∧ t.rf TIME.TB2CTL F.TIME_TB2CTL_SLEW = fget F.TIME_TB2CTL_SLEW v ∧
      t.rf TIME.TB2CTL F.TIME_TB2CTL_SRC = s.rf TIME.TB2CTL F.TIME_TB2CTL_SRC ∧ Touches [TIME.TB2CTL] s t) ∧
  (∀ s, Canon s → s.divided = false →
    ∃ t, exec .mirrorCorrection s = .next t ∧ t.clockwork.mirror = s.tbs ∧ t.rb TIME.STATUS F.TIME_STATUS_MIRROR = true ∧
      Touches [TIME.STATUS] { s with clockwork := { s.clockwork with mirror := s.tbs, mirrorAge := 0 } } t) ∧
  (∀ s, Canon s → Quiet s → s.rb TIME.STATUS F.TIME_STATUS_REFACT = true →
    ∃ t, exec .refLoss s = .next t ∧ t.rb TIME.STATUS F.TIME_STATUS_REFACT = false ∧ Counts s t TIME.REFLOSS_LO 1 ∧
      t.rb TIME.EVT F.TIME_EVT_HOLD = true ∧ Touches ([TIME.STATUS, TIME.EVT] ++ twin TIME.REFLOSS_LO) s t)

/-- PPS_IN, CAL_SET, SYNC, SYNC_APPLY, CALENDAR_ALARM and VBAT_LOW (R351 to R353): an edge latches all bases, one within 100 µs of the
last is a glitch; the calendar takes the host's seconds or, at its next second, those of a base; an alarm raises ALARM; a low
battery ends the calendar's validity. -/
def Obligations.PulsesAndCalendar : Prop :=
  (∀ rising s, Canon s → Quiet s → rising ≠ s.rb TIME.PPSIN_CFG F.TIME_PPSIN_CFG_POL →
    (∀ p, s.clockwork.ppsAt = some p → p + 50000 ≤ s.clockwork.ticks) →
    ∃ t, exec (.ppsIn rising) s = .next t ∧ Reports s t TIME.PPSIN_STATUS 0 ∧ Counts s t TIME.PPSIN_LO 1 ∧
      t.rb TIME.EVT F.TIME_EVT_PPSIN = true ∧ t.clockwork.ppsAt = some s.clockwork.ticks ∧
      (∀ i : Fin 4, t.rv (TIME.PPSIN_SECLO i) = (s.tb i).sec.toNat % 2 ^ 32 ∧ t.reg (TIME.PPSIN_NS i) = (s.tb i).ns) ∧
      t.tbs = s.tbs ∧ DataKept s t) ∧
  (∀ rising s p, Canon s → Quiet s → rising ≠ s.rb TIME.PPSIN_CFG F.TIME_PPSIN_CFG_POL → s.clockwork.ppsAt = some p →
    s.clockwork.ticks < p + 50000 →
    ∃ t, exec (.ppsIn rising) s = .next t ∧ Counts s t TIME.PPSGLITCH_LO 1 ∧
      Touches (TIME.EVT :: twin TIME.PPSGLITCH_LO) s t) ∧
  (∀ s v, Canon s → Opens s TIME.CALCMD → s.ready TIME.CAL_STATUS = true →
    v = s.rf TIME.CALSETHI F.TIME_CALSETHI_CALSETHI * 2 ^ 32 + s.rv TIME.CALSETLO →
    ∃ t, exec .calSet s = .next t ∧ Reports s t TIME.CAL_STATUS 0 ∧ t.calSec = v ∧ t.calFrac = 0 ∧
      (s.calSec ≠ v → s.alarmAt v = true → t.clockwork.alarm = true) ∧
      t.rb TIME.CALCFG F.TIME_CALCFG_VALID = true ∧ t.tbs = s.tbs ∧ DataKept s t) ∧
  (∀ (src : BitVec 2) s, Canon s → Opens s TIME.CALCMD → s.ready TIME.CAL_STATUS = true →
    ∃ t, exec (.sync src) s = .next t ∧ t.ready TIME.CAL_STATUS = false ∧
      (∃ b : Fin 4, b.val = src.toNat ∧ t.clockwork.sync = some (b, (s.tb b).sec)) ∧ t.calSec = s.calSec ∧ DataKept s t) ∧
  (∀ s b was, Canon s → s.clockwork.sync = some (b, was) → (s.tb b).sec ≠ was →
    ∃ t, exec .syncApply s = .next t ∧ Reports s t TIME.CAL_STATUS 0 ∧ t.calSec = (s.tb b).sec.toNat ∧ t.calFrac = 0 ∧
      t.clockwork.sync = none ∧ t.rb TIME.CALCFG F.TIME_CALCFG_VALID = true ∧ DataKept s t) ∧
  (∀ s, Canon s → Quiet s → s.clockwork.alarm = true →
    ∃ t, exec .calendarAlarm s = .next t ∧ t.rb TIME.EVT F.TIME_EVT_ALARM = true ∧ t.clockwork.alarm = false ∧
      (s.rb GLB.PWR F.GLB_PWR_WAKE_ALARM = true → s.dormant = true → s.sleep = Sleep.init → t.sleep.exiting = some 8) ∧
      DataKept s t) ∧
  (∀ s, Canon s → ∃ t, exec .vbatLow s = .next t ∧ t.rv TIME.CALCFG = 0 ∧ t.calSec = 0 ∧ t.calFrac = 0 ∧ DataKept s t)

/-- Time bases: ticks and commands: the claims Ticks, BaseCommands. -/
def Obligations.TicksAndCommands : Prop :=
  Claims.Ticks ∧ Claims.BaseCommands

/-- Adjustments and sources of time: the claims Adjustments, Sources. -/
def Obligations.TimeSources : Prop :=
  Claims.Adjustments ∧ Claims.Sources


/-! ## Clusters and Wardens (R355 to R368) -/

namespace Sys2Proof

/-- CLSTATUS1 shows the cluster of a command and its state. -/
structure ShowsCluster (t : State) (d n st : Nat) : Prop where
  state : t.clState n = st
  shown : t.rf (WDN.CLSTATUS1 d) F.WDN_CLSTATUS1_CLUSTER = n
  shownState : t.rf (WDN.CLSTATUS1 d) F.WDN_CLSTATUS1_STATE = st
  event : t.rb GLB.EVT F.GLB_EVT_CLSTATE = true

/-- A CLCMD of die d that is taken: it reaches its register, CLSTATUS is READY, and the cluster is one of the die. -/
structure TakesCluster (s : State) (d n : Nat) : Prop where
  canon : Canon s
  quiet : Quiet s
  opens : Opens s (WDN.CLCMD d)
  ready : s.ready (WDN.CLSTATUS d) = true
  own : dieOf n = d

/-- A group of cluster n has been offered to a target: its re-home is the last in the queue, and each member holds a reserved slot
of the target under its TID. -/
def Prepared (s t : State) (n dst cause : Nat) (host : Option (BitVec 18)) (ks : List Nat) : Prop :=
  ∃ ms : List Member, ms.map (·.slot) = ks ∧ t.rehomes = s.rehomes ++ [⟨n, dst, cause, host, ms, false⟩] ∧
    ∀ m, m ∈ ms → (t.slot dst m.target).st = .reserved ∧ (t.slot dst m.target).tid = (s.slot n m.slot).tid ∧
      (t.slot dst m.target).charge = (s.slot n m.slot).charge ∧ t.slot n m.slot = s.slot n m.slot

end Sys2Proof

/-- PCMT and POLICY_IN_FORCE (R356, R357): a commit takes READY; the check then puts the image at POLBASE in force whole, with its
VERSION and DEFAULT = 0, or keeps the policy in force and posts and logs the code; a poisoned image has code 0x0A01 (the model's
choice, log 62). -/
def Claims.Policy : Prop :=
  (∀ (d : Fin 2) v s, Canon s → Opens s (WDN.PCMT d) → s.ready (WDN.PSTATUS d) = true →
    ∃ t, exec (.pcmt d v) s = .next t ∧ t.ready (WDN.PSTATUS d) = false ∧ (t.wdn d).pcmt = some v ∧
      (t.wdn d).policy = (s.wdn d).policy ∧ Touches [WDN.PSTATUS d] { s with wdns := t.wdns } t) ∧
  (∀ (d : Fin 2) v bs s, Canon s → (s.wdn d).pcmt = some v → bs = s.unitBytes d (s.rv (WDN.POLBASE d) * 256) 8256 →
    s.poisonedIn (s.rv (WDN.POLBASE d) * 256) 8256 = false → s.policyCode d bs v = 0 →
    ∃ t, exec (.policyInForce d) s = .next t ∧ (t.wdn d).policy = some bs ∧ (t.wdn d).pcmt = none ∧
      Reports s t (WDN.PSTATUS d) 0 ∧ t.rf (WDN.STATUS d) F.WDN_STATUS_POLVER = v.toNat ∧
      t.rb (WDN.STATUS d) F.WDN_STATUS_DEFAULT = false ∧
      Touches [WDN.PSTATUS d, WDN.STATUS d] { s with wdns := t.wdns } t) ∧
  (∀ (d : Fin 2) v bs c s, Canon s → (s.wdn d).pcmt = some v → bs = s.unitBytes d (s.rv (WDN.POLBASE d) * 256) 8256 →
    c = (if s.poisonedIn (s.rv (WDN.POLBASE d) * 256) 8256 then 0x0A01 else s.policyCode d bs v) → c ≠ 0 →
    ∃ t, exec (.policyInForce d) s = .next t ∧ (t.wdn d).policy = (s.wdn d).policy ∧ (t.wdn d).pcmt = none ∧
      Reports s t (WDN.PSTATUS d) c ∧ (s.rb (WDN.ERR_LOG d) F.WDN_ERR_LOG_VALID = false → t.rv (WDN.ERR_LOG d) = 2 ^ 31 + c) ∧
      Touches [WDN.PSTATUS d, WDN.ERR_LOG d] { s with wdns := t.wdns } t)

/-- UP, RUN, SPARE, EVAC and OFF (R362): from the states that permit them, each reaches its state, raises CLSTATE, and posts code 0
with the cluster and its new state; in another state the code is 0x0A11, and 0x0A12 on a cluster of the other die, and nothing of the
cluster changes. -/
def Claims.ClusterCommands : Prop :=
  (∀ (d : Fin 2) (cl : Fin 32) s, TakesCluster s d cl → (s.clState cl = stOff ∨ s.clState cl = stHalt) → s.rehomes = [] →
    s.evacs = [] →
    ∃ t, exec (.up d cl) s = .next t ∧ ShowsCluster t d cl stBringup ∧ Reports s t (WDN.CLSTATUS d) 0 ∧
      t.rf (CTX.EPOCH cl) F.CTX_EPOCH_EPOCH = (s.rf (CTX.EPOCH cl) F.CTX_EPOCH_EPOCH + 1) % 256) ∧
  (∀ i (d : Fin 2) (cl : Fin 32) v s, TakesCluster s d cl →
    ((i = .run d cl ∧ s.clState cl = stSpare ∧ v = stRun) ∨
      (i = .spare d cl ∧ s.clState cl = stRun ∧ s.slotCount cl = 0 ∧ v = stSpare)) →
    ∃ t, exec i s = .next t ∧ ShowsCluster t d cl v ∧ Reports s t (WDN.CLSTATUS d) 0 ∧
      Touches [WS.STATUS cl, GLB.EVT, WDN.CLSTATUS d, WDN.CLSTATUS1 d] s t) ∧
  (∀ (d : Fin 2) (cl : Fin 32) e s, TakesCluster s d cl → s.clState cl = stRun → s.rehomes = [] → s.evacs = [e] → e.started = true →
    dieOf e.cl = d → e.cl < 32 → e.cl ≠ cl.val → s.clState e.cl = stRecover → s.slotCount e.cl ≠ 0 →
    ∃ t, exec (.evac d cl) s = .next t ∧ ShowsCluster t d cl stRecover ∧ Reports s t (WDN.CLSTATUS d) 0 ∧
      t.evacs = s.evacs ++ [⟨cl, 0, none, false⟩] ∧ t.rb (WDN.EVT d) F.WDN_EVT_EVAC = true ∧ t.slots = s.slots) ∧
  (∀ (d : Fin 2) (cl : Fin 32) s, TakesCluster s d cl → s.clState cl = stRun → s.rehomes = [] → s.evacs = [] → s.slots = [] →
    (∀ n, n < 32 → s.clState n ≠ stSpare) →
    ∃ t, exec (.evac d cl) s = .next t ∧ ShowsCluster t d cl stHalt ∧ Reports s t (WDN.CLSTATUS d) 0 ∧ t.evacs = [] ∧
      Counts s t (WDN.EVACS_LO d) 1 ∧ t.rb (WDN.EVT d) F.WDN_EVT_EVAC = true) ∧
  (∀ (d : Fin 2) (cl : Fin 32) s, TakesCluster s d cl →
    (s.clState cl = stSpare ∨ s.clState cl = stHalt ∨ (s.clState cl = stRun ∧ s.slotCount cl = 0)) →
    ∃ t, exec (.off d cl) s = .next t ∧ ShowsCluster t d cl stOff ∧ Reports s t (WDN.CLSTATUS d) 0 ∧
      (∀ a, clusterAt a = some cl.val → sget t.mem 0 a = 0) ∧ (∀ a, clusterAt a ≠ some cl.val → sget t.mem 0 a = sget s.mem 0 a) ∧
      t.slots = s.slots.filter (fun e => e.1 / 8192 != cl.val)) ∧
  (∀ i (d : Fin 2) (cl : Fin 32) c s, Canon s → Quiet s → Opens s (WDN.CLCMD d) → s.ready (WDN.CLSTATUS d) = true →
    (i = .up d cl ∨ i = .run d cl ∨ i = .spare d cl ∨ i = .evac d cl ∨ i = .off d cl) →
    ((dieOf cl ≠ d ∧ c = 0x0A12) ∨ (dieOf cl = d ∧ c = 0x0A11 ∧ (s.clState cl = stBringup ∨ s.clState cl = stTest))) →
    ∃ t, exec i s = .next t ∧ Reports s t (WDN.CLSTATUS d) c ∧
      Touches [WDN.CLSTATUS d, WDN.CLSTATUS1 d, WDN.ERR_LOG d] s t)

/-- BRINGUP_COMPLETE and SELF_TEST_COMPLETE (R362, R356): TEST follows BRINGUP; a passed test leads to SPARE while the die has fewer
spares than its quota and to RUN otherwise, a failed one to HALT. -/
def Claims.SelfTest : Prop :=
  (∀ (cl : Fin 32) s, Canon s → Quiet s → s.clState cl = stBringup →
    ∃ t, exec (.bringupComplete cl) s = .next t ∧ t.clState cl = stTest ∧ t.rb GLB.EVT F.GLB_EVT_CLSTATE = true ∧
      Touches [WS.STATUS cl, GLB.EVT] s t) ∧
  (∀ (cl : Fin 32) s k, Canon s → Quiet s → s.clState cl = stTest →
    k = ((List.range 16).filter (fun i => s.clState (16 * dieOf cl + i) == stSpare)).length →
    ∃ t, exec (.selfTestComplete cl true) s = .next t ∧ t.clState cl = (if k < s.spareQuota (dieOf cl) then stSpare else stRun) ∧
      t.rb GLB.EVT F.GLB_EVT_CLSTATE = true ∧ Touches [WS.STATUS cl, GLB.EVT] s t) ∧
  (∀ (cl : Fin 32) s, Canon s → Quiet s → s.clState cl = stTest →
    ∃ t, exec (.selfTestComplete cl false) s = .next t ∧ t.clState cl = stHalt ∧ t.rb GLB.EVT F.GLB_EVT_CLSTATE = true ∧
      t.rb (GLB.ERRLOG (dieOf cl)) F.GLB_ERRLOG_VALID = true ∧ DataKept s t)

/-- MOVE and REHOME_ABORT (R365, R367): a group that can move and that the target admits is prepared, READY staying 0; one that
cannot is refused with its code and counted, and a TID without a home with 0x0A22; an abort before the checkpoint releases the reserved slots and leaves the members where
they are. -/
def Claims.Moves : Prop :=
  (∀ (d : Fin 2) (cl : Fin 32) tid s n k, Canon s → Quiet s → Opens s (WDN.RHCMD d) → s.ready (WDN.RHSTATUS d) = true →
    s.homeOf tid = some (n, k) → dieOf n = d → s.prepareCode n cl (s.group n k) = 0 →
    ∃ t, exec (.move d cl tid) s = .next t ∧ t.ready (WDN.RHSTATUS d) = false ∧
      Prepared s t n cl 0 (some tid) (s.group n k)) ∧
  (∀ (d : Fin 2) (cl : Fin 32) tid s n k c, Canon s → Quiet s → Opens s (WDN.RHCMD d) → s.ready (WDN.RHSTATUS d) = true →
    s.homeOf tid = some (n, k) → dieOf n = d → c = s.prepareCode n cl (s.group n k) → c ≠ 0 →
    ∃ t, exec (.move d cl tid) s = .next t ∧ Reports s t (WDN.RHSTATUS d) c ∧ t.rf (WDN.RHSTATUS_TID d) ⟨17, 0⟩ = tid.toNat ∧
      Counts s t (WDN.ABORTS_LO d) 1 ∧
      Touches ([WDN.RHSTATUS d, WDN.RHSTATUS_TID d, WDN.RHSTATUS_CL d, WDN.ERR_LOG d, WDN.EVT d] ++ twin (WDN.ABORTS_LO d)) s t) ∧
  (∀ (d : Fin 2) (cl : Fin 32) tid s, Canon s → Quiet s → Opens s (WDN.RHCMD d) → s.ready (WDN.RHSTATUS d) = true →
    s.homeOf tid = none →
    ∃ t, exec (.move d cl tid) s = .next t ∧ Reports s t (WDN.RHSTATUS d) 0x0A22 ∧
      Touches [WDN.RHSTATUS d, WDN.RHSTATUS_TID d, WDN.RHSTATUS_CL d, WDN.ERR_LOG d] s t) ∧
  (∀ (d : Fin 2) tid s r, Canon s → Quiet s → Opens s (WDN.RHCMD d) → s.ready (WDN.RHSTATUS d) = true → s.rehomes = [r] →
    dieOf r.src = d → r.src < 32 → r.dst < 32 → r.src ≠ r.dst → r.host = none → r.copied = false → tid ∈ r.members.map (·.tid) →
    (∀ m, m ∈ r.members → m.slot < 8192 ∧ m.target < 8192) →
    ∃ t, exec (.rehomeAbort d tid) s = .next t ∧ t.rehomes = [] ∧ Reports s t (WDN.RHSTATUS d) 0 ∧ Counts s t (WDN.ABORTS_LO d) 1 ∧
      t.rb (WDN.EVT d) F.WDN_EVT_ABORT = true ∧
      ∀ m, m ∈ r.members → t.slot r.dst m.target = Slot.init ∧ t.slot r.src m.slot = s.slot r.src m.slot)

/-- CHECKPOINT and REHOME_COMMIT (R365, R366): the checkpoint copies the context of a quiet member to the staging area of the target's
die, which the target loads from (at once, the model's choice, log 37); the commit gives the member's slot state to the target, frees the old slot, counts the re-home and posts code
0 to the RHCMD that asked for it. -/
def Claims.Rehomes : Prop :=
  (∀ (d : Fin 2) s r m a b c, Canon s → Quiet s → s.rehomes = [r] → r.members = [m] → dieOf r.src = d → r.src < 32 → m.slot < 8192 →
    r.dst < 32 → m.target < 8192 → r.copied = false → s.slotQuiet r.src m.slot = true → s.divided = false → s.poison = [] →
    a = slotDpa r.src m.slot → b = s.stagingDpa r m → c = slotDpa r.dst m.target → s.offAt c = false →
    (∀ i, i < 256 → (∃ x, placeOf (b + i) = .dram x) ∧ s.writable (b + i) = true) →
    ∃ t, exec (.checkpoint d m.tid) s = .next t ∧ t.rehomes = [{ r with copied := true }] ∧ t.bytes b 256 = s.bytes a 256 ∧
      t.bytes c 256 = s.bytes a 256 ∧ (∀ x, (x < b ∨ b + 256 ≤ x) → (x < c ∨ c + 256 ≤ x) → sget t.mem 0 x = sget s.mem 0 x) ∧
      t.slots = s.slots ∧ t.regs = s.regs) ∧
  (∀ (d : Fin 2) s r m, Canon s → Quiet s → s.rehomes = [r] → r.members = [m] → dieOf r.src = d → r.src < 32 → r.dst < 32 →
    r.src ≠ r.dst → m.slot < 8192 → m.target < 8192 → r.copied = true → s.evacs = [] → (s.cluster r.src).periodic m.slot = none →
    (s.play m.tid).live = false →
    ∃ t, exec (.rehomeCommit d m.tid) s = .next t ∧ t.rehomes = [] ∧ t.slot r.dst m.target = s.slot r.src m.slot ∧
      t.slot r.src m.slot = Slot.init ∧ Counts s t (WDN.REHOMES_LO d) 1 ∧
      (∀ tid, r.host = some tid → Reports s t (WDN.RHSTATUS d) 0))

/-- NOROOM_RETRY and WITHDRAWAL_OVERLOAD_CHECK (R361, R363): a group left on a RECOVER cluster is offered again, and goes to the
first target that admits it or counts NOROOM; a RUN cluster that a withdrawal left over its budget is relieved of a group. -/
def Claims.Relief : Prop :=
  (∀ (d : Fin 2) s e ks dst, Canon s → Quiet s → s.evacs = [e] → e.started = true → dieOf e.cl = d → e.cl < 32 →
    s.clState e.cl = stRecover → s.groups e.cl = [ks] → ks.any (s.memberBad e.cl) = false →
    (s.targetsOf e.cl e.promoted).find? (fun x => s.admits e.cl x ks) = some dst →
    ∃ t, exec (.noroomRetry d) s = .next t ∧ Prepared s t e.cl dst e.cause none ks ∧ t.evacs = s.evacs) ∧
  (∀ (d : Fin 2) s e ks, Canon s → Quiet s → s.evacs = [e] → e.started = true → dieOf e.cl = d → e.cl < 32 →
    s.clState e.cl = stRecover → s.groups e.cl = [ks] → ks.any (s.memberBad e.cl) = false →
    (s.targetsOf e.cl e.promoted).find? (fun x => s.admits e.cl x ks) = none →
    ∃ t, exec (.noroomRetry d) s = .next t ∧ Counts s t (WDN.NOROOM_LO d) 1 ∧ t.rb (WDN.EVT d) F.WDN_EVT_NOROOM = true ∧
      t.rehomes = s.rehomes ∧ t.slots = s.slots ∧ t.evacs = s.evacs) ∧
  (∀ (cl : Fin 32) s ks dst, Canon s → Quiet s → s.wdnOn (dieOf cl) = true → s.polG (dieOf cl) 1 1 0 = 2 → s.clState cl = stRun →
    s.withdrawn cl ≠ 0 → s.budget cl < s.load cl → s.rehomes = [] → s.groups cl = [ks] → ks.any (s.memberBad cl) = false →
    (s.targetsOf cl none).find? (fun x => s.admits cl x ks) = some dst →
    ∃ t, exec (.withdrawalOverloadCheck cl) s = .next t ∧ Prepared s t cl dst 4 none ks)

/-- WARDEN_POLL and BALANCE (R358, R361): a poll that finds nothing to do changes only what it has read; PROTECT that advises counts
its advice and leaves the cluster as it is; a most loaded cluster above BALHI gives a group to the least loaded one below BALLO where
BALANCE acts, advice is counted where it advises, and nothing changes within the limits. -/
def Claims.Polls : Prop :=
  (∀ (d : Fin 2) s, Canon s → s.evacs = [] → (s.wdnOn d = true → s.polG d 1 1 0 = 0 ∧ s.polG d 1 5 4 = 0 ∧ s.polG 0 1 7 6 = 0) →
    ∃ t, exec (.wardenPoll d) s = .next t ∧ (t.wdn d).polled = s.tb2nsOn d ∧ (t.wdn d).policy = (s.wdn d).policy ∧
      t = { s with wdns := t.wdns, clusters := t.clusters, thermal := t.thermal }) ∧
  (∀ (d : Fin 2) s n c, Canon s → Quiet s → s.evacs = [] → s.wdnOn d = true → s.polG d 1 1 0 = 1 → s.polG d 1 5 4 = 0 →
    s.polG 0 1 7 6 = 0 → s.runOf d = [n] → s.protectCause d n = some c →
    ∃ t, exec (.wardenPoll d) s = .next t ∧ Counts s t (WDN.ADVISES_LO d) 1 ∧ t.clState n = stRun ∧
      (t.wdn d).polled = s.tb2nsOn d) ∧
  (∀ (d : Fin 2) s n dst ks, Canon s → Quiet s → s.wdnOn d = true → (s.byRatio (s.runOf d)).getLast? = some n →
    (s.byRatio (s.runOf d)).head? = some dst → n ≠ dst → s.polG d 3 7 0 * s.budget n < s.load n * 100 →
    (s.load dst + s.groupCharge n ks) * 100 ≤ s.polG d 3 15 8 * s.budget dst →
    s.load dst * 100 < s.polG d 3 15 8 * s.budget dst → s.groups n = [ks] →
    ks.any (s.memberBad n) = false → s.admits n dst ks = true →
    (s.polG d 1 3 2 = 2 → ∃ t, exec (.balance d) s = .next t ∧ Prepared s t n dst 1 none ks) ∧
    (s.polG d 1 3 2 = 1 → (ks.map (fun k => (s.slot n k).tid)).Nodup →
      (∀ k, k ∈ ks → (s.wdnTerm d (s.slot n k).tid).told = []) → ∃ t, exec (.balance d) s = .next t ∧ Counts s t (WDN.ADVISES_LO d) ks.length ∧ t.rehomes = s.rehomes ∧
      t.slots = s.slots)) ∧
  (∀ (d : Fin 2) s n, s.wdnOn d = true → (s.byRatio (s.runOf d)).getLast? = some n → s.load n * 100 ≤ s.polG d 3 7 0 * s.budget n →
    exec (.balance d) s = .next s)

/-- WARDEN_METRICS_READ (R359): once per interval, of a LIVE termination homed on the die: with every action off only the reading is
noted; JB that acts adjusts and notes when, and JB that advises counts its advice. -/
def Claims.MetricsReads : Prop :=
  ∀ (d : Fin 2) tid s n k r c, Canon s → Quiet s → s.homeOf tid = some (n, k) → dieOf n = d → n < 32 → s.wdnOn d = true →
    (s.slot n k).st = .live → s.homeMoving n tid = false → BitVec.ofNat 32 (ctxW (s.ctx n k) 36) ≠ (s.wdnTerm d tid).seen →
    r = s.reading n k → c = ctxPolClass r.ctx → s.mode d c 3 = 0 → s.mode d c 5 = 0 → s.mode d c 7 = 0 → s.polC d c 0 8 8 = 0 →
    ctxW r.ctx 12 = ctxJbTgt r.ctx + ctxCmr r.ctx * 65536 + ctxNlp r.ctx * 2 ^ 20 →
    (s.mode d c 1 = 0 → ∃ t, exec (.wardenMetricsRead d tid) s = .next t ∧
      (t.wdnTerm d tid).seen = BitVec.ofNat 32 (ctxW (s.ctx n k) 36) ∧
      t = { s with wdns := t.wdns, freeCount := s.freeCount + 1 }) ∧
    (∀ v t1, s.mode d c 1 = 2 → s.jbTarget d c r t1 = some v → t1 = s.wdnTerm d tid →
      ∃ t, exec (.wardenMetricsRead d tid) s = .next t ∧ (t.wdnTerm d tid).seen = BitVec.ofNat 32 (ctxW (s.ctx n k) 36) ∧
        (t.wdnTerm d tid).jbAt = some (s.tb2nsOn d) ∧ Counts s t (WDN.ADJUSTS_LO d) 1 ∧ t.mem = s.mem) ∧
    (∀ v t1, s.mode d c 1 = 1 → s.jbTarget d c r t1 = some v → t1 = s.wdnTerm d tid →
      ∃ t, exec (.wardenMetricsRead d tid) s = .next t ∧ (t.wdnTerm d tid).seen = BitVec.ofNat 32 (ctxW (s.ctx n k) 36) ∧
        (t.wdnTerm d tid).jbAt = t1.jbAt ∧ Counts s t (WDN.ADVISES_LO d) 1 ∧ t.slots = s.slots)

/-- Warden policy and metrics reads: the claims Policy, MetricsReads. -/
def Obligations.WardenPolicy : Prop :=
  Claims.Policy ∧ Claims.MetricsReads

/-- Cluster commands and self-test: the claims ClusterCommands, SelfTest. -/
def Obligations.ClusterStates : Prop :=
  Claims.ClusterCommands ∧ Claims.SelfTest

/-- Moves and re-homes: the claims Moves, Rehomes. -/
def Obligations.Rehoming : Prop :=
  Claims.Moves ∧ Claims.Rehomes

/-- Relief and Warden polls: the claims Relief, Polls. -/
def Obligations.Balance : Prop :=
  Claims.Relief ∧ Claims.Polls


/-! ## The Press (R370 to R380) -/

/-- PRESS_COMPRESS, PRESS_DECOMPRESS and BADJOB (R373 to R375): an enabled Press with no job under way takes the next packet of its
job cask. A packet that is no job is counted and raises BADJOB; a job makes the Press busy with its TAG, counts what it used and put
out, and its result waits; a job that 0x0B09 refuses leaves memory as it is. -/
def Claims.PressJobs : Prop :=
  (∀ (d : Fin 2) s u ws, Canon s → Quiet s → s.pressOn d = true → s.nextJob d = (u, ws) → ws ≠ [] → notJob ws = true →
    ∃ t, exec (.badjob d) s = .next t ∧ Counts u t (PRS.BADJOB_LO d) 1 ∧ t.rb (PRS.EVT d) F.PRS_EVT_BADJOB = true ∧
      Touches (PRS.EVT d :: twin (PRS.BADJOB_LO d)) u t) ∧
  (∀ i (d : Fin 2) b s u ws j e, Canon s → Quiet s → s.pressOn d = true → s.nextJob d = (u, ws) → ws ≠ [] → notJob ws = false →
    ((i = .pressCompress d ∧ b = true) ∨ (i = .pressDecompress d ∧ b = false)) → j = wordBytes ws → Job.packs j = b →
    e = u.jobEnd d j →
    ∃ t, exec i s = .next t ∧ (t.prs d).job = some ⟨Job.resAddr j, Job.irq j, e.code, u.resultBlock d j e⟩ ∧
      t.rf (PRS.STATUS d) F.PRS_STATUS_TAG = Job.tag j ∧ t.rb (PRS.STATUS d) F.PRS_STATUS_BUSY = true ∧
      Counts u t (PRS.JOBS_LO d) 1 ∧ Counts u t (PRS.INBYTES_LO d) e.used ∧ Counts u t (PRS.OUTBYTES_LO d) e.out.length ∧
      (u.jobCode d j ≠ 0 → e.code = u.jobCode d j ∧ e.used = 0 ∧ e.out = []) ∧ (u.jobCode d j = 0x0B09 → t.mem = u.mem) ∧
      t.slots = s.slots ∧ t.plays = s.plays)

/-- A compression job of one segment at LEVEL 0 without a wrapper puts out one stored block, and a decompression of that block gives
the segment back (R376, R378). -/
def Obligations.StoredBlocks : Prop :=
  (∀ j seg space, Job.packs j = true → Job.wrap j = 0 → Job.level j = 0 → Job.last j = true → Job.srcLen j = seg.length →
    seg.length ≤ 65535 → seg.length + 5 ≤ space →
    ∃ e, pack j (Pack.init 0 0) (seg, 0) space 0 = e ∧ e.code = 0 ∧ e.fin = true ∧ e.used = seg.length ∧
      e.out = 1 :: (leBytes 2 seg.length ++ leBytes 2 (65535 - seg.length) ++ seg)) ∧
  (∀ j seg space, Job.packs j = false → Job.wrap j = 0 → Job.last j = true → Job.ratio j = 0 → seg.length ≤ Job.outMax j →
    seg.length ≤ 65535 → seg.length ≤ space →
    ∃ e, unpack j (Inf.init 0) (1 :: (leBytes 2 seg.length ++ leBytes 2 (65535 - seg.length) ++ seg), 0) space 0 = e ∧
      e.code = 0 ∧ e.fin = true ∧ e.used = seg.length + 5 ∧ e.out = seg)

/-- PRESS_RESULT (R380): the result block is written to RESADDR, the Press is no longer busy, DONE is raised where the job asked for
it, a failure is counted, raised and logged, and a write of EN = 0 that waited takes effect; a result that has no place is counted as
a BADJOB. -/
def Claims.PressResults : Prop :=
  (∀ (d : Fin 2) s e, Canon s → Quiet s → s.package.held = false → s.dormant = false → (s.prs d).job = some e → e.block.length = 32 →
    s.pressRange d true e.addr 32 = true → (∀ i, i < 32 → s.offAt (e.addr + i) = false) → s.poisonedIn e.addr 32 = false →
    (∀ i, i < 32 → s.writable (e.addr + i) = true) → e.code ≤ 0x0BFF →
    ∃ t, exec (.pressResult d) s = .next t ∧ t.bytes e.addr 32 = e.block ∧ t.prs d = ⟨none, false⟩ ∧
      t.rb (PRS.STATUS d) F.PRS_STATUS_BUSY = false ∧ (e.irq = true → t.rb (PRS.EVT d) F.PRS_EVT_DONE = true) ∧
      ((s.prs d).stopping = true → t.rb (PRS.CFG d) F.PRS_CFG_EN = false) ∧
      (e.code ≠ 0 → e.code ≠ 0x0B01 → e.code ≠ 0x0B02 → Counts s t (PRS.ERRORS_LO d) 1 ∧ t.rb (PRS.EVT d) F.PRS_EVT_ERR = true ∧
        (s.rb (PRS.ERR_LOG d) F.PRS_ERR_LOG_VALID = false → t.rv (PRS.ERR_LOG d) = 2 ^ 31 + e.code)) ∧
      (∀ a, (a < e.addr ∨ e.addr + 32 ≤ a) → sget t.mem 0 a = sget s.mem 0 a)) ∧
  (∀ (d : Fin 2) s e, Canon s → Quiet s → s.package.held = false → s.dormant = false → (s.prs d).job = some e →
    s.pressRange d true e.addr 32 = false →
    ∃ t, exec (.pressResult d) s = .next t ∧ Counts s t (PRS.BADJOB_LO d) 1 ∧ t.prs d = ⟨none, false⟩ ∧
      t.rb (PRS.STATUS d) F.PRS_STATUS_BUSY = false ∧ t.mem = s.mem)

/-! ## Trace (R381 to R390) -/

/-- PROBE_ARM (R388, R389): a probe whose configuration nothing refuses is armed with an empty region and segment 0 open; a refused
arm raises ARMREF and logs its code, and arms nothing. -/
def Claims.Arms : Prop :=
  (∀ (d : Fin 2) (p : Fin 16) s, Canon s → Quiet s → Opens s (TRC.P_PCFG d p) → s.rb (TRC.P_PCFG d p) F.TRC_P_PCFG_EN = false →
    s.armCode d p = 0 → s.poison = [] →
    ∃ t, exec (.probeArm d p) s = .next t ∧ t.rb (TRC.P_PCFG d p) F.TRC_P_PCFG_EN = true ∧ t.rv (TRC.P_WRIDX d p) = 0 ∧
      t.rv (TRC.P_RDIDX d p) = 0 ∧ bit (t.le (t.segAddr d p 0) 4) 31 = false ∧
      t.probe d p = { Probe.init with armed := true, src := s.probeSrc d p, charge := s.chargeOf d p, isOpen := true, stamp := s.tb2nsOn d } ∧
      (∀ e q, q < 16 → 16 * e + q ≠ 16 * d.val + p.val → t.probe e q = s.probe e q) ∧
      (s.armedOf d = [] → t.rf (TRC.STATUS d) F.TRC_STATUS_CHARGE = s.chargeOf d p)) ∧
  (∀ (d : Fin 2) (p : Fin 16) s, Canon s → Quiet s → Opens s (TRC.P_PCFG d p) → s.rb (TRC.P_PCFG d p) F.TRC_P_PCFG_EN = false →
    s.armCode d p ≠ 0 →
    ∃ t, exec (.probeArm d p) s = .next t ∧ t.rb (TRC.EVT d) F.TRC_EVT_ARMREF = true ∧
      (s.rb (TRC.ERR_LOG d) F.TRC_ERR_LOG_VALID = false → t.rv (TRC.ERR_LOG d) = 2 ^ 31 + p.val * 65536 + s.armCode d p) ∧
      Touches [TRC.EVT d, TRC.ERR_LOG d] s t)

/-- PROBE_DISARM, SEGMENT_OPEN, TRACE_TICK and RDIDX_WRITE (R383, R385, R386, R388): a disarm closes an open segment, which WRIDX and
SEGMENTS count, and leaves the probe idle; the next segment opens at WRIDX where the region is not full; after 1 s without an entry a
tick joins the ring before a trigger; RDIDX takes the value written. -/
def Claims.Segments : Prop :=
  (∀ (d : Fin 2) (p : Fin 16) s, Canon s → Quiet s → Opens s (TRC.P_PCFG d p) → s.rb (TRC.P_PCFG d p) F.TRC_P_PCFG_EN = true →
    ∃ t, exec (.probeDisarm d p) s = .next t ∧ t.rb (TRC.P_PCFG d p) F.TRC_P_PCFG_EN = false ∧ t.probe d p = Probe.init ∧
      ((s.probe d p).isOpen = true → t.rv (TRC.P_WRIDX d p) = (s.rv (TRC.P_WRIDX d p) + 1) % 65536 ∧
        Counts s t (TRC.SEGMENTS_LO d) 1) ∧
      ((s.probe d p).isOpen = false → t.mem = s.mem ∧ t.rv (TRC.P_WRIDX d p) = s.rv (TRC.P_WRIDX d p)) ∧
      (∀ e q, q < 16 → 16 * e + q ≠ 16 * d.val + p.val → t.probe e q = s.probe e q)) ∧
  (∀ (d : Fin 2) (p : Fin 16) s, Canon s → (s.probe d p).armed = true → (s.probe d p).isOpen = false → s.probeFull d p = false →
    s.dormant = false →
    ∃ t, exec (.segmentOpen d p) s = .next t ∧ (t.probe d p).isOpen = true ∧ (t.probe d p).seq = s.rv (TRC.P_WRIDX d p) ∧
      (t.probe d p).paused = false ∧ (t.probe d p).ents = (s.probe d p).ents ∧ t.regs = s.regs) ∧
  (∀ (d : Fin 2) (p : Fin 16) s x, Canon s → Quiet s → x = s.probe d p → x.armed = true → x.isOpen = true → x.trig = none →
    s.dormant = false → x.stamp + 1000000000 ≤ s.tb2nsOn d →
    ∃ t, exec (.traceTick d p) s = .next t ∧ Counts s t (TRC.ENTRIES_LO d) 1 ∧ (t.probe d p).stamp = s.tb2nsOn d ∧
      (x.ents.length < s.rf (TRC.P_CAPT d p) F.TRC_P_CAPT_PRE →
        (t.probe d p).ents = x.ents ++ [(s.tb2nsOn d, traceEntry (s.tb2nsOn d) 0x0F 0 0 (tickBytes (s.tb2nsOn d)))]) ∧ t.mem = s.mem) ∧
  (∀ (d : Fin 2) (p : Fin 16) (v : BitVec 32) s, Canon s → Opens s (TRC.P_RDIDX d p) →
    ∃ t, exec (.rdidxWrite d p v) s = .next t ∧ t.rf (TRC.P_RDIDX d p) F.TRC_P_RDIDX_RDIDX = v.toNat % 65536 ∧
      Touches [TRC.P_RDIDX d p] s t)

/-- SKEWCMD and SKEW_COMPLETE (R390): a measurement starts against a reference that can be used, and is refused with a code
otherwise; after 64 frames of the reference RESID of each masked port holds the mean difference, or nothing, and SKEW is raised. -/
def Claims.SkewMeasurements : Prop :=
  (∀ (v : BitVec 32) s, Canon s → Opens s TRC.SKEWCMD → s.ready TRC.SKEW_STATUS = true → s.skewCode (v.toNat % 64) = 0 →
    ∃ t, exec (.skewcmd v) s = .next t ∧ t.ready TRC.SKEW_STATUS = false ∧
      t.skew = some ⟨⟨v.toNat % 64, Nat.mod_lt _ (by decide)⟩, []⟩ ∧ Touches [TRC.SKEW_STATUS] { s with skew := t.skew } t) ∧
  (∀ (v : BitVec 32) s, Canon s → Quiet s → Opens s TRC.SKEWCMD → s.ready TRC.SKEW_STATUS = true → s.skewCode (v.toNat % 64) ≠ 0 →
    ∃ t, exec (.skewcmd v) s = .next t ∧ Reports s t TRC.SKEW_STATUS (s.skewCode (v.toNat % 64)) ∧
      t.rb (TRC.EVT 0) F.TRC_EVT_SKEW = true ∧ Touches [TRC.SKEW_STATUS, TRC.EVT 0] { s with skew := none } t) ∧
  (∀ s k, Canon s → Quiet s → s.skew = some k → s.skewCode k.ref = 0 → 64 ≤ (sget k.tags [] k.ref.val).length →
    ∃ t, exec .skewComplete s = .next t ∧ Reports s t TRC.SKEW_STATUS 0 ∧ t.skew = none ∧ t.rb (TRC.EVT 0) F.TRC_EVT_SKEW = true ∧
      (∀ p v, p < 48 → s.skewMasked p = true → s.skewPort p = true → meanSkew (sget k.tags [] p) (sget k.tags [] k.ref.val) = some v →
        t.rv (TRC.RESID p) = 2 ^ 31 + ofSigned 16 v) ∧
      (∀ p, p < 48 → s.skewMasked p = true → s.skewPort p = false → t.rv (TRC.RESID p) = 0) ∧
      (∀ p, p < 48 → s.skewMasked p = false → t.reg (TRC.RESID p) = s.reg (TRC.RESID p)))

/-! ## Security (R391 to R404) -/

/-- BOOT_ROM and LOAD (R395 to R397): the boot ROM waits for LOAD where the host boots the part, and otherwise starts the first copy
that verifies, showing which, or posts the code of the second; OTP that cannot be read ends the boot with 0x0D0A; LOAD starts the image in Cellar where it verifies, and posts its code,
free to be repeated, where it does not. -/
def Claims.Boots : Prop :=
  (∀ a b s, s.package.held = false → s.sec.boot = 0 → s.booted = false → s.bootPort ≠ none →
    exec (.bootRom a b false) s = .next { s with sec := { s.sec with boot := 1 } }) ∧
  (∀ a b s, Canon s → Quiet s → s.package.held = false → s.sec.boot = 0 → s.booted = false →
    ∃ t, exec (.bootRom a b true) s = .next t ∧ t.booted = false ∧ Reports s t SEC.BSTATUS 0x0D0A ∧
      t.rb SEC.EVT F.SEC_EVT_BOOT = true ∧ t.sec = { s.sec with boot := 3 } ∧ t.mem = s.mem) ∧
  (∀ f b s u, Canon s → Quiet s → s.package.held = false → s.sec.boot = 0 → s.booted = false → s.bootPort = none →
    s.bootCopy (some f) = (u, 0) →
    ∃ t, exec (.bootRom (some f) b false) s = .next t ∧ t.booted = true ∧ Reports s t SEC.BSTATUS 0 ∧
      t.rf SEC.COPY F.SEC_COPY_COPY = 0 ∧ t.rb SEC.EVT F.SEC_EVT_BOOT = true ∧ t.sec.bootSvn = (envelope (f.take 256)).svn ∧
      t.mem = (s.write 0x10000000 (f.take (256 + (envelope (f.take 256)).plen))).mem ∧ t.slots = s.slots) ∧
  (∀ a b s u v c, Canon s → Quiet s → s.package.held = false → s.sec.boot = 0 → s.booted = false → s.bootPort = none →
    (∃ e, s.bootCopy a = (u, e) ∧ e ≠ 0) → u.bootCopy b = (v, c) → c ≠ 0 →
    ∃ t, exec (.bootRom a b false) s = .next t ∧ t.booted = false ∧ Reports s t SEC.BSTATUS c ∧
      t.rf SEC.COPY F.SEC_COPY_COPY = 1 ∧ t.rb SEC.EVT F.SEC_EVT_BOOT = true) ∧
  (∀ s h e c, Canon s → Quiet s → Opens s SEC.BOOTCMD → s.booted = false → s.sec.boot = 1 → s.ready SEC.BSTATUS = true →
    h = s.bytes 0x10000000 256 → e = envelope h →
    c = (if s.poisonedIn 0x10000000 256 then 0x0D01 else if s.poisonedIn 0x10000100 e.plen then 0x0D07
      else s.verify 1 h (s.bytes 0x10000100 e.plen)) →
    ∃ t, exec .load s = .next t ∧ Reports s t SEC.BSTATUS c ∧ t.rb SEC.EVT F.SEC_EVT_BOOT = true ∧ t.mem = s.mem ∧
      (t.booted = true ↔ c = 0) ∧
      (t.booted = true → t.regBytes (SEC.MR 0 0) 8 = sha256 (s.regBytes (SEC.MR 0 0) 8 ++ sha256 (slice h 0 128))) ∧
      (t.booted = false → t.sec.boot = 1))

namespace Sys2Proof

/-- The OTP commands with their OP. -/
def otpOps : List (Instr × Nat) := [(.progkey, 1), (.revoke, 2), (.advance, 3), (.subsys, 4), (.genid, 5), (.wrcert, 6), (.dbgoff, 7)]

end Sys2Proof

/-- The OTP commands (R392): an accepted one waits with the argument and data that stand, READY being 0; a refused one posts its code
and raises OTP. -/
def Claims.OtpCommands : Prop :=
  ∀ e s c, e ∈ otpOps → Canon s → Quiet s → Opens s SEC.OTPCMD → s.ready SEC.OTP_STATUS = true → c = s.otpCode e.2 (s.rv SEC.OTPARG) →
    (c = 0 → ∃ t, exec e.1 s = .next t ∧ t.ready SEC.OTP_STATUS = false ∧
      t.sec.otp = some ⟨BitVec.ofNat 4 e.2, s.reg SEC.OTPARG, s.regBytes (SEC.OTPDATA 0) 8⟩ ∧
      Touches [SEC.OTP_STATUS] { s with sec := t.sec } t) ∧
    (c ≠ 0 → ∃ t, exec e.1 s = .next t ∧ Reports s t SEC.OTP_STATUS c ∧ t.rb SEC.EVT F.SEC_EVT_OTP = true ∧
      Touches [SEC.OTP_STATUS, SEC.EVT] s t)

/-- OTP_COMMAND_COMPLETE (R392): a write that verified programs its field, of which bits only rise, and posts code 0; one that did
not leaves some bits programmed, posts 0x0D25 and may be repeated; both raise OTP. -/
def Claims.OtpEnds : Prop :=
  (∀ s q arg, Canon s → Quiet s → s.sec.otp = some q → q.data.length = 32 → arg = q.arg.toNat →
    ∃ t, exec (.otpCommandComplete true) s = .next t ∧ Reports s t SEC.OTP_STATUS 0 ∧ t.rb SEC.EVT F.SEC_EVT_OTP = true ∧
      t.sec.otp = none ∧ t.mem = s.mem ∧
      (q.op = 1 → t.keyHash (arg % 4) = (s.keyHash (arg % 4)).zipWith (· ||| ·) q.data ∧
        t.keyPerm (arg % 4) = s.keyPerm (arg % 4) ||| bits arg 6 4) ∧
      (q.op = 2 → t.revoked (arg % 4) = true ∧ ∀ k, k < 4 → k ≠ arg % 4 → t.revoked k = s.revoked k) ∧
      (q.op = 3 → bit arg 8 = false → t.rf SEC.OTPINFO F.SEC_OTPINFO_RB0 = Nat.max (s.rf SEC.OTPINFO F.SEC_OTPINFO_RB0) (arg % 64)) ∧
      (q.op = 3 → bit arg 8 = true → t.rf SEC.OTPINFO F.SEC_OTPINFO_RB1 = Nat.max (s.rf SEC.OTPINFO F.SEC_OTPINFO_RB1) (arg % 64)) ∧
      (q.op = 4 → t.rf SEC.OTPINFO2 F.SEC_OTPINFO2_SUBSYS = arg % 65536) ∧
      (q.op = 5 → t.rb SEC.OTPINFO F.SEC_OTPINFO_IDK = true ∧ t.sec.idk = BitVec.ofNat 256 (beNat (s.trng 32)) ||| s.sec.idk) ∧
      (q.op = 6 → arg % 32 = 0 → t.regBytes (SEC.CERT (arg % 1024 / 4)) 8 =
        (s.regBytes (SEC.CERT (arg % 1024 / 4)) 8).zipWith (· ||| ·) q.data) ∧
      (q.op = 7 → t.rb SEC.OTPINFO F.SEC_OTPINFO_DBGPOL = true) ∧ t.otpAgain q.op.toNat arg = false) ∧
  (∀ s q, Canon s → Quiet s → s.sec.otp = some q →
    ∃ t, exec (.otpCommandComplete false) s = .next t ∧ Reports s t SEC.OTP_STATUS 0x0D25 ∧ t.rb SEC.EVT F.SEC_EVT_OTP = true ∧
      t.sec.otp = none ∧ t.mem = s.mem ∧ t.otpAgain q.op.toNat q.arg.toNat = true ∧
      (q.op = 1 → q.data.length = 32 →
        ∃ m, t.keyHash (q.arg.toNat % 4) = (s.keyHash (q.arg.toNat % 4)).zipWith (· ||| ·) (q.data.zipWith (· &&& ·) m)))

/-- MREXT, QCMD and QUOTE_COMPLETE (R399 to R401): MR2 to MR7 are extended with MRVAL and MR0 and MR1 are not; an accepted quote keeps
the values that stand and counts; its end writes the body and its signature and posts code 0. -/
def Claims.Measurements : Prop :=
  (∀ (r : BitVec 3) s, Canon s → Opens s SEC.MREXT → s.ready SEC.MR_STATUS = true → 2 ≤ r.toNat →
    ∃ t, exec (.mrext r) s = .next t ∧ Reports s t SEC.MR_STATUS 0 ∧
      t.regBytes (SEC.MR r.toNat 0) 8 = sha256 (s.regBytes (SEC.MR r.toNat 0) 8 ++ s.regBytes (SEC.MRVAL 0) 8) ∧
      (∀ k, k < 8 → k ≠ r.toNat → t.regBytes (SEC.MR k 0) 8 = s.regBytes (SEC.MR k 0) 8)) ∧
  (∀ (r : BitVec 3) s, Canon s → Opens s SEC.MREXT → s.ready SEC.MR_STATUS = true → r.toNat < 2 →
    ∃ t, exec (.mrext r) s = .next t ∧ Reports s t SEC.MR_STATUS 0x0D31 ∧ Touches [SEC.MR_STATUS] s t) ∧
  (∀ s, Canon s → Opens s SEC.QCMD → s.ready SEC.QSTATUS = true → s.quoteCode = 0 →
    ∃ t, exec .qcmd s = .next t ∧ t.ready SEC.QSTATUS = false ∧ t.sec.quotes = s.sec.quotes + 1 ∧
      t.sec.quote = some ⟨s.quoteBody, s.rv SEC.QADDRLO + 2 ^ 32 * s.rf SEC.QADDRHI F.SEC_QADDRHI_QADDR⟩ ∧
      Touches [SEC.QSTATUS] { s with sec := t.sec } t) ∧
  (∀ s, Canon s → Quiet s → Opens s SEC.QCMD → s.ready SEC.QSTATUS = true → s.quoteCode ≠ 0 →
    ∃ t, exec .qcmd s = .next t ∧ Reports s t SEC.QSTATUS s.quoteCode ∧ t.rb SEC.EVT F.SEC_EVT_QUOTE = true ∧
      Touches [SEC.QSTATUS, SEC.EVT] s t) ∧
  (∀ s q, Canon s → Quiet s → s.sec.quote = some q →
    ∃ t, exec .quoteComplete s = .next t ∧ Reports s t SEC.QSTATUS 0 ∧ t.rb SEC.EVT F.SEC_EVT_QUOTE = true ∧ t.sec.quote = none ∧
      t.mem = (s.write q.addr (q.body ++ ecdsaSign s.sec.idk.toNat (beNat (s.trng 32)) (sha256 q.body))).mem)

/-- RNGCMD, TRNG_HEALTH_FAIL and TRNG_RETEST (R402): RNG takes 256 fresh bits with code 0, or zeros with 0x0D41 while the TRNG has
failed; a failed health test zeroes RNG and raises TRNG, until a repeated test passes. -/
def Claims.RandomNumbers : Prop :=
  (∀ s, Canon s → Opens s SEC.RNGCMD → s.ready SEC.RNG_STATUS = true → s.sec.trngBad = false →
    ∃ t, exec .rngcmd s = .next t ∧ Reports s t SEC.RNG_STATUS 0 ∧ t.regBytes (SEC.RNG 0) 8 = s.trng 32 ∧ t.sec = s.sec ∧
      t.mem = s.mem) ∧
  (∀ s, Canon s → Opens s SEC.RNGCMD → s.ready SEC.RNG_STATUS = true → s.sec.trngBad = true →
    ∃ t, exec .rngcmd s = .next t ∧ Reports s t SEC.RNG_STATUS 0x0D41 ∧ t.regBytes (SEC.RNG 0) 8 = List.replicate 32 0) ∧
  (∀ s, Canon s → Quiet s →
    ∃ t, exec .trngHealthFail s = .next t ∧ t.sec = { s.sec with trngBad := true } ∧ t.regBytes (SEC.RNG 0) 8 = List.replicate 32 0 ∧
      t.rb SEC.EVT F.SEC_EVT_TRNG = true ∧ t.mem = s.mem) ∧
  (∀ b s, exec (.trngRetest b) s = .next { s with sec := { s.sec with trngBad := s.sec.trngBad && !b } })

/-- CHALLENGE, UNLOCK and LOCK (R403, R404): a challenge gives a fresh nonce; an unlock that nothing refuses opens the scopes named,
extends MR0 and clears the failures, any other counts one and opens nothing; both use the challenge up; a lock closes every scope and
no tile stays halted. -/
def Claims.DebugUnlocks : Prop :=
  (∀ s, Canon s → Opens s SEC.DBGCMD → s.ready SEC.DBG_STATUS = true → s.sec.trngBad = false →
    ∃ t, exec .challenge s = .next t ∧ Reports s t SEC.DBG_STATUS 0 ∧ t.regBytes (SEC.DBGCHAL 0) 8 = s.trng 32 ∧
      t.sec = { s.sec with challenge := true }) ∧
  (∀ s, Canon s → Opens s SEC.DBGCMD → s.ready SEC.DBG_STATUS = true → s.sec.trngBad = true →
    ∃ t, exec .challenge s = .next t ∧ Reports s t SEC.DBG_STATUS 0x0D41 ∧ Touches [SEC.DBG_STATUS] s t) ∧
  (∀ s o v, Canon s → Quiet s → Opens s SEC.DBGCMD → s.ready SEC.DBG_STATUS = true → s.unlockCode = 0 →
    o = s.rf SEC.DBGSCOPE F.SEC_DBGSCOPE_OPEN → v = s.rf SEC.DBGSCOPE F.SEC_DBGSCOPE_SCOPE →
    ∃ t, exec .unlock s = .next t ∧ Reports s t SEC.DBG_STATUS 0 ∧ t.rf SEC.DBGSCOPE F.SEC_DBGSCOPE_OPEN = o ||| v ∧
      t.rb SEC.EVT F.SEC_EVT_DBG = true ∧ t.sec = { s.sec with challenge := false, fails := 0 } ∧
      t.regBytes (SEC.MR 0 0) 8 = sha256 (s.regBytes (SEC.MR 0 0) 8 ++ sha256 (s.regBytes (SEC.DBGPUB 0) 16 ++ beBytes 4 v))) ∧
  (∀ s, Canon s → Opens s SEC.DBGCMD → s.ready SEC.DBG_STATUS = true → s.unlockCode ≠ 0 →
    ∃ t, exec .unlock s = .next t ∧ Reports s t SEC.DBG_STATUS s.unlockCode ∧ t.sec.fails = s.sec.fails + 1 ∧
      t.sec.challenge = false ∧ Touches [SEC.DBG_STATUS] { s with sec := t.sec } t) ∧
  (∀ s, Canon s → Quiet s → Opens s SEC.DBGCMD → s.ready SEC.DBG_STATUS = true →
    ∃ t, exec .lock s = .next t ∧ Reports s t SEC.DBG_STATUS 0 ∧ t.rf SEC.DBGSCOPE F.SEC_DBGSCOPE_OPEN = 0 ∧
      t.rb SEC.EVT F.SEC_EVT_DBG = true ∧ (∀ n j, n < 32 → j < 12 → t.rb (TILE.STATE n j) F.TILE_STATE_HALTED = false) ∧
      t.cores = s.cores ∧ t.mem = s.mem)

/-- Press jobs and results: the claims PressJobs, PressResults. -/
def Obligations.PressCommands : Prop :=
  Claims.PressJobs ∧ Claims.PressResults

/-- Trace probes and skew measurements: the claims Arms, Segments, SkewMeasurements. -/
def Obligations.TraceProbes : Prop :=
  Claims.Arms ∧ Claims.Segments ∧ Claims.SkewMeasurements

/-- Boot, measurement registers and quotes: the claims Boots, Measurements. -/
def Obligations.BootAndMeasure : Prop :=
  Claims.Boots ∧ Claims.Measurements

/-- OTP commands: the claims OtpCommands, OtpEnds. -/
def Obligations.FusesOtp : Prop :=
  Claims.OtpCommands ∧ Claims.OtpEnds

/-- Random numbers and debug unlock: the claims RandomNumbers, DebugUnlocks. -/
def Obligations.RandomAndDebug : Prop :=
  Claims.RandomNumbers ∧ Claims.DebugUnlocks
end

