-- ==== Sys2Proof/Laws/Sparse.lean ====
section
/-!
SUPPORT. Laws of sparse tables: what a key reads after another is set or removed, and that every operation keeps the
canonical form.
-/

namespace Sys2Proof.Machine

variable {α : Type}

/-- Every key of the table is above a bound. -/
def sabove (b : Nat) : List (Nat × α) → Bool
  | [] => true
  | (k, _) :: _ => decide (b < k)

theorem srising_cons (k : Nat) (v : α) (t : List (Nat × α)) :
    srising ((k, v) :: t) = (sabove k t && srising t) := by
  cases t with
  | nil => rfl
  | cons e t => rfl

theorem srising_tail {e : Nat × α} {t : List (Nat × α)} (h : srising (e :: t) = true) : srising t = true := by
  rw [srising_cons e.1 e.2] at h
  simp_all

theorem sabove_mono {b c : Nat} (hbc : b ≤ c) {t : List (Nat × α)} (h : sabove c t = true) : sabove b t = true := by
  cases t with
  | nil => rfl
  | cons e t => simp only [sabove, decide_eq_true_eq] at *; omega

/-- In a rising table every key is above what the first is above. -/
theorem sabove_all {b : Nat} {t : List (Nat × α)} (hr : srising t = true) (h : sabove b t = true) :
    ∀ e ∈ t, b < e.1 := by
  induction t generalizing b with
  | nil => simp
  | cons x t ih =>
    intro e he
    rw [srising_cons x.1 x.2, Bool.and_eq_true] at hr
    simp only [sabove, decide_eq_true_eq] at h
    rcases List.mem_cons.mp he with rfl | he
    · exact h
    · have := ih hr.2 hr.1 e he
      omega

theorem sget_of_sabove {b k : Nat} {dflt : α} {t : List (Nat × α)} (h : sabove b t = true) (hk : k ≤ b) :
    sget t dflt k = dflt := by
  cases t with
  | nil => rfl
  | cons e t =>
    simp only [sabove, decide_eq_true_eq] at h
    simp only [sget]
    rw [if_neg (by omega), if_pos (by omega)]

/-! ## Reading after writing -/

@[simp] theorem sget_sput_same (l : List (Nat × α)) (dflt : α) (k : Nat) (v : α) : sget (sput l k v) dflt k = v := by
  induction l with
  | nil => simp [sput, sget]
  | cons e t ih =>
    simp only [sput]
    split
    · simp [sget]
    · split
      · simp [sget]
      · simp only [sget]
        rw [if_neg (by omega), if_neg (by omega)]
        exact ih

theorem sget_sput_other (l : List (Nat × α)) (dflt : α) (k k' : Nat) (v : α) (h : k' ≠ k) :
    sget (sput l k v) dflt k' = sget l dflt k' := by
  induction l with
  | nil => simp only [sput, sget, if_neg h]; split <;> rfl
  | cons e t ih =>
    simp only [sput]
    split
    · rename_i hk
      simp only [sget, ← hk]
      rw [if_neg h, if_neg h]
    · split
      · rename_i hk
        simp only [sget]
        rw [if_neg h]
        by_cases h2 : k' < k
        · rw [if_pos h2, if_neg (by omega), if_pos (by omega)]
        · rw [if_neg h2]
      · simp only [sget, ih]

theorem sget_sdel_same (l : List (Nat × α)) (dflt : α) (k : Nat) (hr : srising l = true) : sget (sdel l k) dflt k = dflt := by
  induction l with
  | nil => rfl
  | cons e t ih =>
    rw [srising_cons e.1 e.2, Bool.and_eq_true] at hr
    simp only [sdel]
    split
    · rename_i hk
      exact sget_of_sabove hr.1 (by omega)
    · split
      · rename_i hk
        simp only [sget]
        rw [if_neg (by omega), if_pos hk]
      · simp only [sget]
        rw [if_neg (by omega), if_neg (by omega)]
        exact ih hr.2

theorem sget_sdel_other (l : List (Nat × α)) (dflt : α) (k k' : Nat) (h : k' ≠ k) (hr : srising l = true) :
    sget (sdel l k) dflt k' = sget l dflt k' := by
  induction l with
  | nil => rfl
  | cons e t ih =>
    rw [srising_cons e.1 e.2, Bool.and_eq_true] at hr
    simp only [sdel]
    split
    · rename_i hk
      simp only [sget]
      rw [if_neg (by omega)]
      by_cases h2 : k' < e.1
      · rw [if_pos h2]
        exact sget_of_sabove hr.1 (by omega)
      · rw [if_neg h2]
    · split
      · rfl
      · simp only [sget, ih hr.2]

/-- A key reads what was set there. -/
theorem sget_sset_same [DecidableEq α] (l : List (Nat × α)) (dflt : α) (k : Nat) (v : α) (hr : srising l = true) :
    sget (sset l dflt k v) dflt k = v := by
  unfold sset
  split
  · rename_i h
    rw [sget_sdel_same l dflt k hr, h]
  · exact sget_sput_same l dflt k v

/-- Another key reads as before, whatever value unlisted keys are given there. -/
theorem sget_sset_other [DecidableEq α] (l : List (Nat × α)) (dflt dflt' : α) (k k' : Nat) (v : α) (h : k' ≠ k)
    (hr : srising l = true) : sget (sset l dflt k v) dflt' k' = sget l dflt' k' := by
  unfold sset
  split
  · exact sget_sdel_other l dflt' k k' h hr
  · exact sget_sput_other l dflt' k k' v h

/-! ## The canonical form -/

theorem sabove_sput {b k : Nat} {v : α} {l : List (Nat × α)} (h : sabove b l = true) (hk : b < k) :
    sabove b (sput l k v) = true := by
  cases l with
  | nil => simp [sput, sabove, hk]
  | cons e t =>
    simp only [sput]
    split
    · simp [sabove, hk]
    · split
      · simp [sabove, hk]
      · exact h

theorem sabove_sdel {b k : Nat} {l : List (Nat × α)} (hr : srising l = true) (h : sabove b l = true) :
    sabove b (sdel l k) = true := by
  cases l with
  | nil => rfl
  | cons e t =>
    rw [srising_cons e.1 e.2, Bool.and_eq_true] at hr
    simp only [sdel]
    split
    · simp only [sabove, decide_eq_true_eq] at h
      exact sabove_mono (by omega) hr.1
    · split
      · exact h
      · exact h

theorem srising_sput (l : List (Nat × α)) (k : Nat) (v : α) (hr : srising l = true) : srising (sput l k v) = true := by
  induction l with
  | nil => rfl
  | cons e t ih =>
    have hc := hr
    rw [srising_cons e.1 e.2, Bool.and_eq_true] at hc
    simp only [sput]
    split
    · rename_i hk
      rw [srising_cons, hk, Bool.and_eq_true]
      exact hc
    · split
      · rename_i hk
        rw [srising_cons, Bool.and_eq_true]
        exact ⟨by simp [sabove, hk], hr⟩
      · rw [srising_cons, Bool.and_eq_true]
        exact ⟨sabove_sput hc.1 (by omega), ih hc.2⟩

theorem srising_sdel (l : List (Nat × α)) (k : Nat) (hr : srising l = true) : srising (sdel l k) = true := by
  induction l with
  | nil => rfl
  | cons e t ih =>
    have hc := hr
    rw [srising_cons e.1 e.2, Bool.and_eq_true] at hc
    simp only [sdel]
    split
    · exact hc.2
    · split
      · exact hr
      · rw [srising_cons, Bool.and_eq_true]
        exact ⟨sabove_sdel hc.2 hc.1, ih hc.2⟩

theorem mem_sput {l : List (Nat × α)} {k : Nat} {v : α} {e : Nat × α} (h : e ∈ sput l k v) : e = (k, v) ∨ e ∈ l := by
  induction l with
  | nil => simpa [sput] using h
  | cons x t ih =>
    simp only [sput] at h
    split at h
    · rcases List.mem_cons.mp h with h | h
      · exact .inl h
      · exact .inr (List.mem_cons_of_mem _ h)
    · split at h
      · rcases List.mem_cons.mp h with h | h
        · exact .inl h
        · exact .inr h
      · rcases List.mem_cons.mp h with h | h
        · exact .inr (h ▸ List.mem_cons_self)
        · rcases ih h with h | h
          · exact .inl h
          · exact .inr (List.mem_cons_of_mem _ h)

theorem mem_sdel {l : List (Nat × α)} {k : Nat} {e : Nat × α} (h : e ∈ sdel l k) : e ∈ l := by
  induction l with
  | nil => simp [sdel] at h
  | cons x t ih =>
    simp only [sdel] at h
    split at h
    · exact List.mem_cons_of_mem _ h
    · split at h
      · exact h
      · rcases List.mem_cons.mp h with h | h
        · exact h ▸ List.mem_cons_self
        · exact List.mem_cons_of_mem _ (ih h)

theorem mem_sset [DecidableEq α] {l : List (Nat × α)} {dflt : α} {k : Nat} {v : α} {e : Nat × α}
    (h : e ∈ sset l dflt k v) : (e = (k, v) ∧ v ≠ dflt) ∨ e ∈ l := by
  unfold sset at h
  split at h
  · exact .inr (mem_sdel h)
  · rename_i hv
    rcases mem_sput h with h | h
    · exact .inl ⟨h, hv⟩
    · exact .inr h

/-- Setting a key keeps the canonical form. -/
theorem swf_sset [DecidableEq α] (dflt : Nat → α) (l : List (Nat × α)) (k : Nat) (v : α) (h : swf dflt l = true) :
    swf dflt (sset l (dflt k) k v) = true := by
  unfold swf at *
  rw [Bool.and_eq_true] at *
  refine ⟨?_, ?_⟩
  · unfold sset
    split
    · exact srising_sdel l k h.1
    · exact srising_sput l k v h.1
  · rw [List.all_eq_true] at *
    intro e he
    rcases mem_sset he with ⟨rfl, hv⟩ | he
    · simpa using hv
    · exact h.2 e he

/-- Dropping entries keeps a table rising. -/
theorem swf_sdel [DecidableEq α] (dflt : Nat → α) (l : List (Nat × α)) (k : Nat) (h : swf dflt l = true) :
    swf dflt (sdel l k) = true := by
  unfold swf at *
  rw [Bool.and_eq_true] at *
  refine ⟨srising_sdel l k h.1, ?_⟩
  rw [List.all_eq_true] at *
  intro e he
  exact h.2 e (mem_sdel he)

theorem srising_filter (l : List (Nat × α)) (p : Nat × α → Bool) (hr : srising l = true) :
    srising (l.filter p) = true ∧ ∀ b, sabove b l = true → sabove b (l.filter p) = true := by
  induction l with
  | nil => exact ⟨rfl, fun _ h => h⟩
  | cons e t ih =>
    have hc := hr
    rw [srising_cons e.1 e.2, Bool.and_eq_true] at hc
    have ⟨ih1, ih2⟩ := ih hc.2
    simp only [List.filter_cons]
    split
    · refine ⟨?_, fun b hb => hb⟩
      rw [srising_cons e.1 e.2, Bool.and_eq_true]
      exact ⟨ih2 _ hc.1, ih1⟩
    · refine ⟨ih1, fun b hb => ih2 b ?_⟩
      simp only [sabove, decide_eq_true_eq] at hb
      exact sabove_mono (by omega) hc.1

theorem swf_filter [DecidableEq α] (dflt : Nat → α) (l : List (Nat × α)) (p : Nat × α → Bool) (h : swf dflt l = true) :
    swf dflt (l.filter p) = true := by
  unfold swf at *
  rw [Bool.and_eq_true] at *
  refine ⟨(srising_filter l p h.1).1, ?_⟩
  rw [List.all_eq_true] at *
  intro e he
  exact h.2 e (List.mem_filter.mp he).1

theorem sdel_unlisted (d : α) (l : List (Nat × α)) (k : Nat) (ha : ∀ e ∈ l, e.2 ≠ d) (h : sget l d k = d) :
    sdel l k = l := by
  induction l with
  | nil => rfl
  | cons e t ih =>
    obtain ⟨k', v⟩ := e
    simp only [sget] at h
    simp only [sdel]
    by_cases h1 : k = k'
    · rw [if_pos h1] at h
      exact absurd h (ha (k', v) (List.mem_cons_self ..))
    · rw [if_neg h1] at h
      rw [if_neg h1]
      split
      · rfl
      · rename_i h2
        rw [if_neg h2] at h
        rw [ih (fun e he => ha e (List.mem_cons_of_mem _ he)) h]

theorem sput_listed (d : α) (l : List (Nat × α)) (k : Nat) (h : sget l d k ≠ d) : sput l k (sget l d k) = l := by
  induction l with
  | nil => exact absurd rfl h
  | cons e t ih =>
    obtain ⟨k', v⟩ := e
    simp only [sget] at h ⊢
    simp only [sput]
    by_cases h1 : k = k'
    · simp [h1]
    · rw [if_neg h1] at h ⊢
      rw [if_neg h1]
      by_cases h2 : k < k'
      · rw [if_pos h2] at h
        exact absurd rfl h
      · rw [if_neg h2] at h ⊢
        rw [if_neg h2, ih h]

/-- Setting a key to what it already reads changes nothing, in canonical form. -/
theorem sset_same [DecidableEq α] (d : α) (l : List (Nat × α)) (k : Nat) (h : swf (fun _ => d) l = true) :
    sset l d k (sget l d k) = l := by
  unfold swf at h
  rw [Bool.and_eq_true, List.all_eq_true] at h
  unfold sset
  split
  · rename_i he
    exact sdel_unlisted d l k (fun e hm => by simpa using h.2 e hm) he
  · rename_i he
    exact sput_listed d l k he

/-! ## Sets of numbers -/

theorem map_ins1 (l : List Nat) (k : Nat) :
    (ins1 l k).map (fun x => (x, ())) = sput (l.map (fun x => (x, ()))) k () := by
  induction l with
  | nil => rfl
  | cons x t ih =>
    simp only [ins1, List.map_cons, sput]
    split
    · rename_i h; subst h; rfl
    · split
      · rfl
      · simp only [List.map_cons, ih]

theorem map_del1 (l : List Nat) (k : Nat) :
    (del1 l k).map (fun x => (x, ())) = sdel (l.map (fun x => (x, ()))) k := by
  induction l with
  | nil => rfl
  | cons x t ih =>
    simp only [del1, List.map_cons, sdel]
    split
    · rfl
    · split
      · rfl
      · simp only [List.map_cons, ih]

/-- A number joins a rising set. -/
theorem nrising_ins1 (l : List Nat) (k : Nat) (h : nrising l = true) : nrising (ins1 l k) = true := by
  unfold nrising at *
  rw [map_ins1]
  exact srising_sput _ _ _ h

/-- A number leaves a rising set. -/
theorem nrising_del1 (l : List Nat) (k : Nat) (h : nrising l = true) : nrising (del1 l k) = true := by
  unfold nrising at *
  rw [map_del1]
  exact srising_sdel _ _ h

theorem nrising_filter (l : List Nat) (p : Nat → Bool) (h : nrising l = true) : nrising (l.filter p) = true := by
  unfold nrising at *
  have e : (l.filter p).map (fun x => (x, ())) = (l.map (fun x => (x, ()))).filter (fun e => p e.1) := by
    rw [List.filter_map]
    rfl
  rw [e]
  exact (srising_filter _ _ h).1

theorem nrising_foldl {α : Type} (f : List Nat → α → List Nat) (l : List α) (hf : ∀ m x, nrising m = true → nrising (f m x) = true)
    (m : List Nat) (h : nrising m = true) : nrising (l.foldl f m) = true := by
  induction l generalizing m with
  | nil => exact h
  | cons x t ih => exact ih _ (hf m x h)

theorem swf_foldl {α β : Type} [DecidableEq α] (d : Nat → α) (f : List (Nat × α) → β → List (Nat × α)) (l : List β)
    (hf : ∀ m x, swf d m = true → swf d (f m x) = true) (m : List (Nat × α)) (h : swf d m = true) :
    swf d (l.foldl f m) = true := by
  induction l generalizing m with
  | nil => exact h
  | cons x t ih => exact ih _ (hf m x h)

end Sys2Proof.Machine
end

