-- ==== Sys2Proof/Laws/State.lean ====
section
/-!
SUPPORT. What each named update of the state leaves as it was, field by field.
-/

namespace Sys2Proof.Machine

/-! ## setReg -/

@[simp] theorem State.setReg_mem (s : State) (a : Nat) (v : Word) : (s.setReg a v).mem = s.mem := rfl
@[simp] theorem State.setReg_poison (s : State) (a : Nat) (v : Word) : (s.setReg a v).poison = s.poison := rfl
@[simp] theorem State.setReg_hostMem (s : State) (a : Nat) (v : Word) : (s.setReg a v).hostMem = s.hostMem := rfl
@[simp] theorem State.setReg_hostPoison (s : State) (a : Nat) (v : Word) : (s.setReg a v).hostPoison = s.hostPoison := rfl
@[simp] theorem State.setReg_cores (s : State) (a : Nat) (v : Word) : (s.setReg a v).cores = s.cores := rfl
@[simp] theorem State.setReg_clusters (s : State) (a : Nat) (v : Word) : (s.setReg a v).clusters = s.clusters := rfl
@[simp] theorem State.setReg_slots (s : State) (a : Nat) (v : Word) : (s.setReg a v).slots = s.slots := rfl
@[simp] theorem State.setReg_vats (s : State) (a : Nat) (v : Word) : (s.setReg a v).vats = s.vats := rfl
@[simp] theorem State.setReg_areas (s : State) (a : Nat) (v : Word) : (s.setReg a v).areas = s.areas := rfl
@[simp] theorem State.setReg_casks (s : State) (a : Nat) (v : Word) : (s.setReg a v).casks = s.casks := rfl
@[simp] theorem State.setReg_flushing (s : State) (a : Nat) (v : Word) : (s.setReg a v).flushing = s.flushing := rfl
@[simp] theorem State.setReg_probes (s : State) (a : Nat) (v : Word) : (s.setReg a v).probes = s.probes := rfl
@[simp] theorem State.setReg_skew (s : State) (a : Nat) (v : Word) : (s.setReg a v).skew = s.skew := rfl
@[simp] theorem State.setReg_sec (s : State) (a : Nat) (v : Word) : (s.setReg a v).sec = s.sec := rfl
@[simp] theorem State.setReg_scrubs (s : State) (a : Nat) (v : Word) : (s.setReg a v).scrubs = s.scrubs := rfl
@[simp] theorem State.setReg_cls (s : State) (a : Nat) (v : Word) : (s.setReg a v).cls = s.cls := rfl
@[simp] theorem State.setReg_plyIn (s : State) (a : Nat) (v : Word) : (s.setReg a v).plyIn = s.plyIn := rfl
@[simp] theorem State.setReg_plays (s : State) (a : Nat) (v : Word) : (s.setReg a v).plays = s.plays := rfl
@[simp] theorem State.setReg_srtp (s : State) (a : Nat) (v : Word) : (s.setReg a v).srtp = s.srtp := rfl
@[simp] theorem State.setReg_tdms (s : State) (a : Nat) (v : Word) : (s.setReg a v).tdms = s.tdms := rfl
@[simp] theorem State.setReg_egMarks (s : State) (a : Nat) (v : Word) : (s.setReg a v).egMarks = s.egMarks := rfl
@[simp] theorem State.setReg_rehomes (s : State) (a : Nat) (v : Word) : (s.setReg a v).rehomes = s.rehomes := rfl
@[simp] theorem State.setReg_evacs (s : State) (a : Nat) (v : Word) : (s.setReg a v).evacs = s.evacs := rfl
@[simp] theorem State.setReg_wdns (s : State) (a : Nat) (v : Word) : (s.setReg a v).wdns = s.wdns := rfl
@[simp] theorem State.setReg_dvfs (s : State) (a : Nat) (v : Word) : (s.setReg a v).dvfs = s.dvfs := rfl
@[simp] theorem State.setReg_thermal (s : State) (a : Nat) (v : Word) : (s.setReg a v).thermal = s.thermal := rfl
@[simp] theorem State.setReg_sleep (s : State) (a : Nat) (v : Word) : (s.setReg a v).sleep = s.sleep := rfl
@[simp] theorem State.setReg_package (s : State) (a : Nat) (v : Word) : (s.setReg a v).package = s.package := rfl
@[simp] theorem State.setReg_wdt (s : State) (a : Nat) (v : Word) : (s.setReg a v).wdt = s.wdt := rfl
@[simp] theorem State.setReg_clockwork (s : State) (a : Nat) (v : Word) : (s.setReg a v).clockwork = s.clockwork := rfl
@[simp] theorem State.setReg_wdWarned (s : State) (a : Nat) (v : Word) : (s.setReg a v).wdWarned = s.wdWarned := rfl
@[simp] theorem State.setReg_macs (s : State) (a : Nat) (v : Word) : (s.setReg a v).macs = s.macs := rfl
@[simp] theorem State.setReg_txSends (s : State) (a : Nat) (v : Word) : (s.setReg a v).txSends = s.txSends := rfl
@[simp] theorem State.setReg_dmas (s : State) (a : Nat) (v : Word) : (s.setReg a v).dmas = s.dmas := rfl
@[simp] theorem State.setReg_press (s : State) (a : Nat) (v : Word) : (s.setReg a v).press = s.press := rfl
@[simp] theorem State.setReg_tbs (s : State) (a : Nat) (v : Word) : (s.setReg a v).tbs = s.tbs := rfl
@[simp] theorem State.setReg_msix (s : State) (a : Nat) (v : Word) : (s.setReg a v).msix = s.msix := rfl
@[simp] theorem State.setReg_freeCount (s : State) (a : Nat) (v : Word) : (s.setReg a v).freeCount = s.freeCount := rfl
@[simp] theorem State.setReg_wire (s : State) (a : Nat) (v : Word) : (s.setReg a v).wire = s.wire := rfl
@[simp] theorem State.setReg_pending (s : State) (a : Nat) (v : Word) : (s.setReg a v).pending = s.pending := rfl
@[simp] theorem State.setReg_txBufs (s : State) (a : Nat) (v : Word) : (s.setReg a v).txBufs = s.txBufs := rfl
@[simp] theorem State.setReg_cellUse (s : State) (a : Nat) (v : Word) : (s.setReg a v).cellUse = s.cellUse := rfl
@[simp] theorem State.setReg_pcie (s : State) (a : Nat) (v : Word) : (s.setReg a v).pcie = s.pcie := rfl
@[simp] theorem State.setReg_dieStats (s : State) (a : Nat) (v : Word) : (s.setReg a v).dieStats = s.dieStats := rfl

/-! ## put -/

@[simp] theorem State.put_mem (s : State) (a : Nat) (f : Fld) (v : Nat) : (s.put a f v).mem = s.mem := rfl
@[simp] theorem State.put_poison (s : State) (a : Nat) (f : Fld) (v : Nat) : (s.put a f v).poison = s.poison := rfl
@[simp] theorem State.put_hostMem (s : State) (a : Nat) (f : Fld) (v : Nat) : (s.put a f v).hostMem = s.hostMem := rfl
@[simp] theorem State.put_hostPoison (s : State) (a : Nat) (f : Fld) (v : Nat) : (s.put a f v).hostPoison = s.hostPoison := rfl
@[simp] theorem State.put_cores (s : State) (a : Nat) (f : Fld) (v : Nat) : (s.put a f v).cores = s.cores := rfl
@[simp] theorem State.put_clusters (s : State) (a : Nat) (f : Fld) (v : Nat) : (s.put a f v).clusters = s.clusters := rfl
@[simp] theorem State.put_slots (s : State) (a : Nat) (f : Fld) (v : Nat) : (s.put a f v).slots = s.slots := rfl
@[simp] theorem State.put_vats (s : State) (a : Nat) (f : Fld) (v : Nat) : (s.put a f v).vats = s.vats := rfl
@[simp] theorem State.put_areas (s : State) (a : Nat) (f : Fld) (v : Nat) : (s.put a f v).areas = s.areas := rfl
@[simp] theorem State.put_casks (s : State) (a : Nat) (f : Fld) (v : Nat) : (s.put a f v).casks = s.casks := rfl
@[simp] theorem State.put_flushing (s : State) (a : Nat) (f : Fld) (v : Nat) : (s.put a f v).flushing = s.flushing := rfl
@[simp] theorem State.put_probes (s : State) (a : Nat) (f : Fld) (v : Nat) : (s.put a f v).probes = s.probes := rfl
@[simp] theorem State.put_skew (s : State) (a : Nat) (f : Fld) (v : Nat) : (s.put a f v).skew = s.skew := rfl
@[simp] theorem State.put_sec (s : State) (a : Nat) (f : Fld) (v : Nat) : (s.put a f v).sec = s.sec := rfl
@[simp] theorem State.put_scrubs (s : State) (a : Nat) (f : Fld) (v : Nat) : (s.put a f v).scrubs = s.scrubs := rfl
@[simp] theorem State.put_cls (s : State) (a : Nat) (f : Fld) (v : Nat) : (s.put a f v).cls = s.cls := rfl
@[simp] theorem State.put_plyIn (s : State) (a : Nat) (f : Fld) (v : Nat) : (s.put a f v).plyIn = s.plyIn := rfl
@[simp] theorem State.put_plays (s : State) (a : Nat) (f : Fld) (v : Nat) : (s.put a f v).plays = s.plays := rfl
@[simp] theorem State.put_srtp (s : State) (a : Nat) (f : Fld) (v : Nat) : (s.put a f v).srtp = s.srtp := rfl
@[simp] theorem State.put_tdms (s : State) (a : Nat) (f : Fld) (v : Nat) : (s.put a f v).tdms = s.tdms := rfl
@[simp] theorem State.put_egMarks (s : State) (a : Nat) (f : Fld) (v : Nat) : (s.put a f v).egMarks = s.egMarks := rfl
@[simp] theorem State.put_rehomes (s : State) (a : Nat) (f : Fld) (v : Nat) : (s.put a f v).rehomes = s.rehomes := rfl
@[simp] theorem State.put_evacs (s : State) (a : Nat) (f : Fld) (v : Nat) : (s.put a f v).evacs = s.evacs := rfl
@[simp] theorem State.put_wdns (s : State) (a : Nat) (f : Fld) (v : Nat) : (s.put a f v).wdns = s.wdns := rfl
@[simp] theorem State.put_dvfs (s : State) (a : Nat) (f : Fld) (v : Nat) : (s.put a f v).dvfs = s.dvfs := rfl
@[simp] theorem State.put_thermal (s : State) (a : Nat) (f : Fld) (v : Nat) : (s.put a f v).thermal = s.thermal := rfl
@[simp] theorem State.put_sleep (s : State) (a : Nat) (f : Fld) (v : Nat) : (s.put a f v).sleep = s.sleep := rfl
@[simp] theorem State.put_package (s : State) (a : Nat) (f : Fld) (v : Nat) : (s.put a f v).package = s.package := rfl
@[simp] theorem State.put_wdt (s : State) (a : Nat) (f : Fld) (v : Nat) : (s.put a f v).wdt = s.wdt := rfl
@[simp] theorem State.put_clockwork (s : State) (a : Nat) (f : Fld) (v : Nat) : (s.put a f v).clockwork = s.clockwork := rfl
@[simp] theorem State.put_wdWarned (s : State) (a : Nat) (f : Fld) (v : Nat) : (s.put a f v).wdWarned = s.wdWarned := rfl
@[simp] theorem State.put_macs (s : State) (a : Nat) (f : Fld) (v : Nat) : (s.put a f v).macs = s.macs := rfl
@[simp] theorem State.put_txSends (s : State) (a : Nat) (f : Fld) (v : Nat) : (s.put a f v).txSends = s.txSends := rfl
@[simp] theorem State.put_dmas (s : State) (a : Nat) (f : Fld) (v : Nat) : (s.put a f v).dmas = s.dmas := rfl
@[simp] theorem State.put_press (s : State) (a : Nat) (f : Fld) (v : Nat) : (s.put a f v).press = s.press := rfl
@[simp] theorem State.put_tbs (s : State) (a : Nat) (f : Fld) (v : Nat) : (s.put a f v).tbs = s.tbs := rfl
@[simp] theorem State.put_msix (s : State) (a : Nat) (f : Fld) (v : Nat) : (s.put a f v).msix = s.msix := rfl
@[simp] theorem State.put_freeCount (s : State) (a : Nat) (f : Fld) (v : Nat) : (s.put a f v).freeCount = s.freeCount := rfl
@[simp] theorem State.put_wire (s : State) (a : Nat) (f : Fld) (v : Nat) : (s.put a f v).wire = s.wire := rfl
@[simp] theorem State.put_pending (s : State) (a : Nat) (f : Fld) (v : Nat) : (s.put a f v).pending = s.pending := rfl
@[simp] theorem State.put_txBufs (s : State) (a : Nat) (f : Fld) (v : Nat) : (s.put a f v).txBufs = s.txBufs := rfl
@[simp] theorem State.put_cellUse (s : State) (a : Nat) (f : Fld) (v : Nat) : (s.put a f v).cellUse = s.cellUse := rfl
@[simp] theorem State.put_pcie (s : State) (a : Nat) (f : Fld) (v : Nat) : (s.put a f v).pcie = s.pcie := rfl
@[simp] theorem State.put_dieStats (s : State) (a : Nat) (f : Fld) (v : Nat) : (s.put a f v).dieStats = s.dieStats := rfl

/-! ## wv -/

@[simp] theorem State.wv_mem (s : State) (a v : Nat) : (s.wv a v).mem = s.mem := rfl
@[simp] theorem State.wv_poison (s : State) (a v : Nat) : (s.wv a v).poison = s.poison := rfl
@[simp] theorem State.wv_hostMem (s : State) (a v : Nat) : (s.wv a v).hostMem = s.hostMem := rfl
@[simp] theorem State.wv_hostPoison (s : State) (a v : Nat) : (s.wv a v).hostPoison = s.hostPoison := rfl
@[simp] theorem State.wv_cores (s : State) (a v : Nat) : (s.wv a v).cores = s.cores := rfl
@[simp] theorem State.wv_clusters (s : State) (a v : Nat) : (s.wv a v).clusters = s.clusters := rfl
@[simp] theorem State.wv_slots (s : State) (a v : Nat) : (s.wv a v).slots = s.slots := rfl
@[simp] theorem State.wv_vats (s : State) (a v : Nat) : (s.wv a v).vats = s.vats := rfl
@[simp] theorem State.wv_areas (s : State) (a v : Nat) : (s.wv a v).areas = s.areas := rfl
@[simp] theorem State.wv_casks (s : State) (a v : Nat) : (s.wv a v).casks = s.casks := rfl
@[simp] theorem State.wv_flushing (s : State) (a v : Nat) : (s.wv a v).flushing = s.flushing := rfl
@[simp] theorem State.wv_probes (s : State) (a v : Nat) : (s.wv a v).probes = s.probes := rfl
@[simp] theorem State.wv_skew (s : State) (a v : Nat) : (s.wv a v).skew = s.skew := rfl
@[simp] theorem State.wv_sec (s : State) (a v : Nat) : (s.wv a v).sec = s.sec := rfl
@[simp] theorem State.wv_scrubs (s : State) (a v : Nat) : (s.wv a v).scrubs = s.scrubs := rfl
@[simp] theorem State.wv_cls (s : State) (a v : Nat) : (s.wv a v).cls = s.cls := rfl
@[simp] theorem State.wv_plyIn (s : State) (a v : Nat) : (s.wv a v).plyIn = s.plyIn := rfl
@[simp] theorem State.wv_plays (s : State) (a v : Nat) : (s.wv a v).plays = s.plays := rfl
@[simp] theorem State.wv_srtp (s : State) (a v : Nat) : (s.wv a v).srtp = s.srtp := rfl
@[simp] theorem State.wv_tdms (s : State) (a v : Nat) : (s.wv a v).tdms = s.tdms := rfl
@[simp] theorem State.wv_egMarks (s : State) (a v : Nat) : (s.wv a v).egMarks = s.egMarks := rfl
@[simp] theorem State.wv_rehomes (s : State) (a v : Nat) : (s.wv a v).rehomes = s.rehomes := rfl
@[simp] theorem State.wv_evacs (s : State) (a v : Nat) : (s.wv a v).evacs = s.evacs := rfl
@[simp] theorem State.wv_wdns (s : State) (a v : Nat) : (s.wv a v).wdns = s.wdns := rfl
@[simp] theorem State.wv_dvfs (s : State) (a v : Nat) : (s.wv a v).dvfs = s.dvfs := rfl
@[simp] theorem State.wv_thermal (s : State) (a v : Nat) : (s.wv a v).thermal = s.thermal := rfl
@[simp] theorem State.wv_sleep (s : State) (a v : Nat) : (s.wv a v).sleep = s.sleep := rfl
@[simp] theorem State.wv_package (s : State) (a v : Nat) : (s.wv a v).package = s.package := rfl
@[simp] theorem State.wv_wdt (s : State) (a v : Nat) : (s.wv a v).wdt = s.wdt := rfl
@[simp] theorem State.wv_clockwork (s : State) (a v : Nat) : (s.wv a v).clockwork = s.clockwork := rfl
@[simp] theorem State.wv_wdWarned (s : State) (a v : Nat) : (s.wv a v).wdWarned = s.wdWarned := rfl
@[simp] theorem State.wv_macs (s : State) (a v : Nat) : (s.wv a v).macs = s.macs := rfl
@[simp] theorem State.wv_txSends (s : State) (a v : Nat) : (s.wv a v).txSends = s.txSends := rfl
@[simp] theorem State.wv_dmas (s : State) (a v : Nat) : (s.wv a v).dmas = s.dmas := rfl
@[simp] theorem State.wv_press (s : State) (a v : Nat) : (s.wv a v).press = s.press := rfl
@[simp] theorem State.wv_tbs (s : State) (a v : Nat) : (s.wv a v).tbs = s.tbs := rfl
@[simp] theorem State.wv_msix (s : State) (a v : Nat) : (s.wv a v).msix = s.msix := rfl
@[simp] theorem State.wv_freeCount (s : State) (a v : Nat) : (s.wv a v).freeCount = s.freeCount := rfl
@[simp] theorem State.wv_wire (s : State) (a v : Nat) : (s.wv a v).wire = s.wire := rfl
@[simp] theorem State.wv_pending (s : State) (a v : Nat) : (s.wv a v).pending = s.pending := rfl
@[simp] theorem State.wv_txBufs (s : State) (a v : Nat) : (s.wv a v).txBufs = s.txBufs := rfl
@[simp] theorem State.wv_cellUse (s : State) (a v : Nat) : (s.wv a v).cellUse = s.cellUse := rfl
@[simp] theorem State.wv_pcie (s : State) (a v : Nat) : (s.wv a v).pcie = s.pcie := rfl
@[simp] theorem State.wv_dieStats (s : State) (a v : Nat) : (s.wv a v).dieStats = s.dieStats := rfl

/-! ## begin_ -/

@[simp] theorem State.begin_mem (s : State) (a : Nat) : (s.begin_ a).mem = s.mem := rfl
@[simp] theorem State.begin_poison (s : State) (a : Nat) : (s.begin_ a).poison = s.poison := rfl
@[simp] theorem State.begin_hostMem (s : State) (a : Nat) : (s.begin_ a).hostMem = s.hostMem := rfl
@[simp] theorem State.begin_hostPoison (s : State) (a : Nat) : (s.begin_ a).hostPoison = s.hostPoison := rfl
@[simp] theorem State.begin_cores (s : State) (a : Nat) : (s.begin_ a).cores = s.cores := rfl
@[simp] theorem State.begin_clusters (s : State) (a : Nat) : (s.begin_ a).clusters = s.clusters := rfl
@[simp] theorem State.begin_slots (s : State) (a : Nat) : (s.begin_ a).slots = s.slots := rfl
@[simp] theorem State.begin_vats (s : State) (a : Nat) : (s.begin_ a).vats = s.vats := rfl
@[simp] theorem State.begin_areas (s : State) (a : Nat) : (s.begin_ a).areas = s.areas := rfl
@[simp] theorem State.begin_casks (s : State) (a : Nat) : (s.begin_ a).casks = s.casks := rfl
@[simp] theorem State.begin_flushing (s : State) (a : Nat) : (s.begin_ a).flushing = s.flushing := rfl
@[simp] theorem State.begin_probes (s : State) (a : Nat) : (s.begin_ a).probes = s.probes := rfl
@[simp] theorem State.begin_skew (s : State) (a : Nat) : (s.begin_ a).skew = s.skew := rfl
@[simp] theorem State.begin_sec (s : State) (a : Nat) : (s.begin_ a).sec = s.sec := rfl
@[simp] theorem State.begin_scrubs (s : State) (a : Nat) : (s.begin_ a).scrubs = s.scrubs := rfl
@[simp] theorem State.begin_cls (s : State) (a : Nat) : (s.begin_ a).cls = s.cls := rfl
@[simp] theorem State.begin_plyIn (s : State) (a : Nat) : (s.begin_ a).plyIn = s.plyIn := rfl
@[simp] theorem State.begin_plays (s : State) (a : Nat) : (s.begin_ a).plays = s.plays := rfl
@[simp] theorem State.begin_srtp (s : State) (a : Nat) : (s.begin_ a).srtp = s.srtp := rfl
@[simp] theorem State.begin_tdms (s : State) (a : Nat) : (s.begin_ a).tdms = s.tdms := rfl
@[simp] theorem State.begin_egMarks (s : State) (a : Nat) : (s.begin_ a).egMarks = s.egMarks := rfl
@[simp] theorem State.begin_rehomes (s : State) (a : Nat) : (s.begin_ a).rehomes = s.rehomes := rfl
@[simp] theorem State.begin_evacs (s : State) (a : Nat) : (s.begin_ a).evacs = s.evacs := rfl
@[simp] theorem State.begin_wdns (s : State) (a : Nat) : (s.begin_ a).wdns = s.wdns := rfl
@[simp] theorem State.begin_dvfs (s : State) (a : Nat) : (s.begin_ a).dvfs = s.dvfs := rfl
@[simp] theorem State.begin_thermal (s : State) (a : Nat) : (s.begin_ a).thermal = s.thermal := rfl
@[simp] theorem State.begin_sleep (s : State) (a : Nat) : (s.begin_ a).sleep = s.sleep := rfl
@[simp] theorem State.begin_package (s : State) (a : Nat) : (s.begin_ a).package = s.package := rfl
@[simp] theorem State.begin_wdt (s : State) (a : Nat) : (s.begin_ a).wdt = s.wdt := rfl
@[simp] theorem State.begin_clockwork (s : State) (a : Nat) : (s.begin_ a).clockwork = s.clockwork := rfl
@[simp] theorem State.begin_wdWarned (s : State) (a : Nat) : (s.begin_ a).wdWarned = s.wdWarned := rfl
@[simp] theorem State.begin_macs (s : State) (a : Nat) : (s.begin_ a).macs = s.macs := rfl
@[simp] theorem State.begin_txSends (s : State) (a : Nat) : (s.begin_ a).txSends = s.txSends := rfl
@[simp] theorem State.begin_dmas (s : State) (a : Nat) : (s.begin_ a).dmas = s.dmas := rfl
@[simp] theorem State.begin_press (s : State) (a : Nat) : (s.begin_ a).press = s.press := rfl
@[simp] theorem State.begin_tbs (s : State) (a : Nat) : (s.begin_ a).tbs = s.tbs := rfl
@[simp] theorem State.begin_msix (s : State) (a : Nat) : (s.begin_ a).msix = s.msix := rfl
@[simp] theorem State.begin_freeCount (s : State) (a : Nat) : (s.begin_ a).freeCount = s.freeCount := rfl
@[simp] theorem State.begin_wire (s : State) (a : Nat) : (s.begin_ a).wire = s.wire := rfl
@[simp] theorem State.begin_pending (s : State) (a : Nat) : (s.begin_ a).pending = s.pending := rfl
@[simp] theorem State.begin_txBufs (s : State) (a : Nat) : (s.begin_ a).txBufs = s.txBufs := rfl
@[simp] theorem State.begin_cellUse (s : State) (a : Nat) : (s.begin_ a).cellUse = s.cellUse := rfl
@[simp] theorem State.begin_pcie (s : State) (a : Nat) : (s.begin_ a).pcie = s.pcie := rfl
@[simp] theorem State.begin_dieStats (s : State) (a : Nat) : (s.begin_ a).dieStats = s.dieStats := rfl

/-! ## post -/

@[simp] theorem State.post_mem (s : State) (a c : Nat) : (s.post a c).mem = s.mem := rfl
@[simp] theorem State.post_poison (s : State) (a c : Nat) : (s.post a c).poison = s.poison := rfl
@[simp] theorem State.post_hostMem (s : State) (a c : Nat) : (s.post a c).hostMem = s.hostMem := rfl
@[simp] theorem State.post_hostPoison (s : State) (a c : Nat) : (s.post a c).hostPoison = s.hostPoison := rfl
@[simp] theorem State.post_cores (s : State) (a c : Nat) : (s.post a c).cores = s.cores := rfl
@[simp] theorem State.post_clusters (s : State) (a c : Nat) : (s.post a c).clusters = s.clusters := rfl
@[simp] theorem State.post_slots (s : State) (a c : Nat) : (s.post a c).slots = s.slots := rfl
@[simp] theorem State.post_vats (s : State) (a c : Nat) : (s.post a c).vats = s.vats := rfl
@[simp] theorem State.post_areas (s : State) (a c : Nat) : (s.post a c).areas = s.areas := rfl
@[simp] theorem State.post_casks (s : State) (a c : Nat) : (s.post a c).casks = s.casks := rfl
@[simp] theorem State.post_flushing (s : State) (a c : Nat) : (s.post a c).flushing = s.flushing := rfl
@[simp] theorem State.post_probes (s : State) (a c : Nat) : (s.post a c).probes = s.probes := rfl
@[simp] theorem State.post_skew (s : State) (a c : Nat) : (s.post a c).skew = s.skew := rfl
@[simp] theorem State.post_sec (s : State) (a c : Nat) : (s.post a c).sec = s.sec := rfl
@[simp] theorem State.post_scrubs (s : State) (a c : Nat) : (s.post a c).scrubs = s.scrubs := rfl
@[simp] theorem State.post_cls (s : State) (a c : Nat) : (s.post a c).cls = s.cls := rfl
@[simp] theorem State.post_plyIn (s : State) (a c : Nat) : (s.post a c).plyIn = s.plyIn := rfl
@[simp] theorem State.post_plays (s : State) (a c : Nat) : (s.post a c).plays = s.plays := rfl
@[simp] theorem State.post_srtp (s : State) (a c : Nat) : (s.post a c).srtp = s.srtp := rfl
@[simp] theorem State.post_tdms (s : State) (a c : Nat) : (s.post a c).tdms = s.tdms := rfl
@[simp] theorem State.post_egMarks (s : State) (a c : Nat) : (s.post a c).egMarks = s.egMarks := rfl
@[simp] theorem State.post_rehomes (s : State) (a c : Nat) : (s.post a c).rehomes = s.rehomes := rfl
@[simp] theorem State.post_evacs (s : State) (a c : Nat) : (s.post a c).evacs = s.evacs := rfl
@[simp] theorem State.post_wdns (s : State) (a c : Nat) : (s.post a c).wdns = s.wdns := rfl
@[simp] theorem State.post_dvfs (s : State) (a c : Nat) : (s.post a c).dvfs = s.dvfs := rfl
@[simp] theorem State.post_thermal (s : State) (a c : Nat) : (s.post a c).thermal = s.thermal := rfl
@[simp] theorem State.post_sleep (s : State) (a c : Nat) : (s.post a c).sleep = s.sleep := rfl
@[simp] theorem State.post_package (s : State) (a c : Nat) : (s.post a c).package = s.package := rfl
@[simp] theorem State.post_wdt (s : State) (a c : Nat) : (s.post a c).wdt = s.wdt := rfl
@[simp] theorem State.post_clockwork (s : State) (a c : Nat) : (s.post a c).clockwork = s.clockwork := rfl
@[simp] theorem State.post_wdWarned (s : State) (a c : Nat) : (s.post a c).wdWarned = s.wdWarned := rfl
@[simp] theorem State.post_macs (s : State) (a c : Nat) : (s.post a c).macs = s.macs := rfl
@[simp] theorem State.post_txSends (s : State) (a c : Nat) : (s.post a c).txSends = s.txSends := rfl
@[simp] theorem State.post_dmas (s : State) (a c : Nat) : (s.post a c).dmas = s.dmas := rfl
@[simp] theorem State.post_press (s : State) (a c : Nat) : (s.post a c).press = s.press := rfl
@[simp] theorem State.post_tbs (s : State) (a c : Nat) : (s.post a c).tbs = s.tbs := rfl
@[simp] theorem State.post_msix (s : State) (a c : Nat) : (s.post a c).msix = s.msix := rfl
@[simp] theorem State.post_freeCount (s : State) (a c : Nat) : (s.post a c).freeCount = s.freeCount := rfl
@[simp] theorem State.post_wire (s : State) (a c : Nat) : (s.post a c).wire = s.wire := rfl
@[simp] theorem State.post_pending (s : State) (a c : Nat) : (s.post a c).pending = s.pending := rfl
@[simp] theorem State.post_txBufs (s : State) (a c : Nat) : (s.post a c).txBufs = s.txBufs := rfl
@[simp] theorem State.post_cellUse (s : State) (a c : Nat) : (s.post a c).cellUse = s.cellUse := rfl
@[simp] theorem State.post_pcie (s : State) (a c : Nat) : (s.post a c).pcie = s.pcie := rfl
@[simp] theorem State.post_dieStats (s : State) (a c : Nat) : (s.post a c).dieStats = s.dieStats := rfl

/-! ## addCount -/

@[simp] theorem State.addCount_mem (s : State) (a n : Nat) : (s.addCount a n).mem = s.mem := rfl
@[simp] theorem State.addCount_poison (s : State) (a n : Nat) : (s.addCount a n).poison = s.poison := rfl
@[simp] theorem State.addCount_hostMem (s : State) (a n : Nat) : (s.addCount a n).hostMem = s.hostMem := rfl
@[simp] theorem State.addCount_hostPoison (s : State) (a n : Nat) : (s.addCount a n).hostPoison = s.hostPoison := rfl
@[simp] theorem State.addCount_cores (s : State) (a n : Nat) : (s.addCount a n).cores = s.cores := rfl
@[simp] theorem State.addCount_clusters (s : State) (a n : Nat) : (s.addCount a n).clusters = s.clusters := rfl
@[simp] theorem State.addCount_slots (s : State) (a n : Nat) : (s.addCount a n).slots = s.slots := rfl
@[simp] theorem State.addCount_vats (s : State) (a n : Nat) : (s.addCount a n).vats = s.vats := rfl
@[simp] theorem State.addCount_areas (s : State) (a n : Nat) : (s.addCount a n).areas = s.areas := rfl
@[simp] theorem State.addCount_casks (s : State) (a n : Nat) : (s.addCount a n).casks = s.casks := rfl
@[simp] theorem State.addCount_flushing (s : State) (a n : Nat) : (s.addCount a n).flushing = s.flushing := rfl
@[simp] theorem State.addCount_probes (s : State) (a n : Nat) : (s.addCount a n).probes = s.probes := rfl
@[simp] theorem State.addCount_skew (s : State) (a n : Nat) : (s.addCount a n).skew = s.skew := rfl
@[simp] theorem State.addCount_sec (s : State) (a n : Nat) : (s.addCount a n).sec = s.sec := rfl
@[simp] theorem State.addCount_scrubs (s : State) (a n : Nat) : (s.addCount a n).scrubs = s.scrubs := rfl
@[simp] theorem State.addCount_cls (s : State) (a n : Nat) : (s.addCount a n).cls = s.cls := rfl
@[simp] theorem State.addCount_plyIn (s : State) (a n : Nat) : (s.addCount a n).plyIn = s.plyIn := rfl
@[simp] theorem State.addCount_plays (s : State) (a n : Nat) : (s.addCount a n).plays = s.plays := rfl
@[simp] theorem State.addCount_srtp (s : State) (a n : Nat) : (s.addCount a n).srtp = s.srtp := rfl
@[simp] theorem State.addCount_tdms (s : State) (a n : Nat) : (s.addCount a n).tdms = s.tdms := rfl
@[simp] theorem State.addCount_egMarks (s : State) (a n : Nat) : (s.addCount a n).egMarks = s.egMarks := rfl
@[simp] theorem State.addCount_rehomes (s : State) (a n : Nat) : (s.addCount a n).rehomes = s.rehomes := rfl
@[simp] theorem State.addCount_evacs (s : State) (a n : Nat) : (s.addCount a n).evacs = s.evacs := rfl
@[simp] theorem State.addCount_wdns (s : State) (a n : Nat) : (s.addCount a n).wdns = s.wdns := rfl
@[simp] theorem State.addCount_dvfs (s : State) (a n : Nat) : (s.addCount a n).dvfs = s.dvfs := rfl
@[simp] theorem State.addCount_thermal (s : State) (a n : Nat) : (s.addCount a n).thermal = s.thermal := rfl
@[simp] theorem State.addCount_sleep (s : State) (a n : Nat) : (s.addCount a n).sleep = s.sleep := rfl
@[simp] theorem State.addCount_package (s : State) (a n : Nat) : (s.addCount a n).package = s.package := rfl
@[simp] theorem State.addCount_wdt (s : State) (a n : Nat) : (s.addCount a n).wdt = s.wdt := rfl
@[simp] theorem State.addCount_clockwork (s : State) (a n : Nat) : (s.addCount a n).clockwork = s.clockwork := rfl
@[simp] theorem State.addCount_wdWarned (s : State) (a n : Nat) : (s.addCount a n).wdWarned = s.wdWarned := rfl
@[simp] theorem State.addCount_macs (s : State) (a n : Nat) : (s.addCount a n).macs = s.macs := rfl
@[simp] theorem State.addCount_txSends (s : State) (a n : Nat) : (s.addCount a n).txSends = s.txSends := rfl
@[simp] theorem State.addCount_dmas (s : State) (a n : Nat) : (s.addCount a n).dmas = s.dmas := rfl
@[simp] theorem State.addCount_press (s : State) (a n : Nat) : (s.addCount a n).press = s.press := rfl
@[simp] theorem State.addCount_tbs (s : State) (a n : Nat) : (s.addCount a n).tbs = s.tbs := rfl
@[simp] theorem State.addCount_msix (s : State) (a n : Nat) : (s.addCount a n).msix = s.msix := rfl
@[simp] theorem State.addCount_freeCount (s : State) (a n : Nat) : (s.addCount a n).freeCount = s.freeCount := rfl
@[simp] theorem State.addCount_wire (s : State) (a n : Nat) : (s.addCount a n).wire = s.wire := rfl
@[simp] theorem State.addCount_pending (s : State) (a n : Nat) : (s.addCount a n).pending = s.pending := rfl
@[simp] theorem State.addCount_txBufs (s : State) (a n : Nat) : (s.addCount a n).txBufs = s.txBufs := rfl
@[simp] theorem State.addCount_cellUse (s : State) (a n : Nat) : (s.addCount a n).cellUse = s.cellUse := rfl
@[simp] theorem State.addCount_pcie (s : State) (a n : Nat) : (s.addCount a n).pcie = s.pcie := rfl
@[simp] theorem State.addCount_dieStats (s : State) (a n : Nat) : (s.addCount a n).dieStats = s.dieStats := rfl

/-! ## draw -/

@[simp] theorem State.draw_regs (s : State) (k : Nat) : (s.draw k).regs = s.regs := rfl
@[simp] theorem State.draw_mem (s : State) (k : Nat) : (s.draw k).mem = s.mem := rfl
@[simp] theorem State.draw_poison (s : State) (k : Nat) : (s.draw k).poison = s.poison := rfl
@[simp] theorem State.draw_hostMem (s : State) (k : Nat) : (s.draw k).hostMem = s.hostMem := rfl
@[simp] theorem State.draw_hostPoison (s : State) (k : Nat) : (s.draw k).hostPoison = s.hostPoison := rfl
@[simp] theorem State.draw_cores (s : State) (k : Nat) : (s.draw k).cores = s.cores := rfl
@[simp] theorem State.draw_clusters (s : State) (k : Nat) : (s.draw k).clusters = s.clusters := rfl
@[simp] theorem State.draw_slots (s : State) (k : Nat) : (s.draw k).slots = s.slots := rfl
@[simp] theorem State.draw_vats (s : State) (k : Nat) : (s.draw k).vats = s.vats := rfl
@[simp] theorem State.draw_areas (s : State) (k : Nat) : (s.draw k).areas = s.areas := rfl
@[simp] theorem State.draw_casks (s : State) (k : Nat) : (s.draw k).casks = s.casks := rfl
@[simp] theorem State.draw_flushing (s : State) (k : Nat) : (s.draw k).flushing = s.flushing := rfl
@[simp] theorem State.draw_probes (s : State) (k : Nat) : (s.draw k).probes = s.probes := rfl
@[simp] theorem State.draw_skew (s : State) (k : Nat) : (s.draw k).skew = s.skew := rfl
@[simp] theorem State.draw_sec (s : State) (k : Nat) : (s.draw k).sec = s.sec := rfl
@[simp] theorem State.draw_scrubs (s : State) (k : Nat) : (s.draw k).scrubs = s.scrubs := rfl
@[simp] theorem State.draw_cls (s : State) (k : Nat) : (s.draw k).cls = s.cls := rfl
@[simp] theorem State.draw_plyIn (s : State) (k : Nat) : (s.draw k).plyIn = s.plyIn := rfl
@[simp] theorem State.draw_plays (s : State) (k : Nat) : (s.draw k).plays = s.plays := rfl
@[simp] theorem State.draw_srtp (s : State) (k : Nat) : (s.draw k).srtp = s.srtp := rfl
@[simp] theorem State.draw_tdms (s : State) (k : Nat) : (s.draw k).tdms = s.tdms := rfl
@[simp] theorem State.draw_egMarks (s : State) (k : Nat) : (s.draw k).egMarks = s.egMarks := rfl
@[simp] theorem State.draw_rehomes (s : State) (k : Nat) : (s.draw k).rehomes = s.rehomes := rfl
@[simp] theorem State.draw_evacs (s : State) (k : Nat) : (s.draw k).evacs = s.evacs := rfl
@[simp] theorem State.draw_wdns (s : State) (k : Nat) : (s.draw k).wdns = s.wdns := rfl
@[simp] theorem State.draw_dvfs (s : State) (k : Nat) : (s.draw k).dvfs = s.dvfs := rfl
@[simp] theorem State.draw_thermal (s : State) (k : Nat) : (s.draw k).thermal = s.thermal := rfl
@[simp] theorem State.draw_sleep (s : State) (k : Nat) : (s.draw k).sleep = s.sleep := rfl
@[simp] theorem State.draw_package (s : State) (k : Nat) : (s.draw k).package = s.package := rfl
@[simp] theorem State.draw_wdt (s : State) (k : Nat) : (s.draw k).wdt = s.wdt := rfl
@[simp] theorem State.draw_clockwork (s : State) (k : Nat) : (s.draw k).clockwork = s.clockwork := rfl
@[simp] theorem State.draw_wdWarned (s : State) (k : Nat) : (s.draw k).wdWarned = s.wdWarned := rfl
@[simp] theorem State.draw_macs (s : State) (k : Nat) : (s.draw k).macs = s.macs := rfl
@[simp] theorem State.draw_txSends (s : State) (k : Nat) : (s.draw k).txSends = s.txSends := rfl
@[simp] theorem State.draw_dmas (s : State) (k : Nat) : (s.draw k).dmas = s.dmas := rfl
@[simp] theorem State.draw_press (s : State) (k : Nat) : (s.draw k).press = s.press := rfl
@[simp] theorem State.draw_tbs (s : State) (k : Nat) : (s.draw k).tbs = s.tbs := rfl
@[simp] theorem State.draw_msix (s : State) (k : Nat) : (s.draw k).msix = s.msix := rfl
@[simp] theorem State.draw_wire (s : State) (k : Nat) : (s.draw k).wire = s.wire := rfl
@[simp] theorem State.draw_pending (s : State) (k : Nat) : (s.draw k).pending = s.pending := rfl
@[simp] theorem State.draw_txBufs (s : State) (k : Nat) : (s.draw k).txBufs = s.txBufs := rfl
@[simp] theorem State.draw_cellUse (s : State) (k : Nat) : (s.draw k).cellUse = s.cellUse := rfl
@[simp] theorem State.draw_pcie (s : State) (k : Nat) : (s.draw k).pcie = s.pcie := rfl
@[simp] theorem State.draw_dieStats (s : State) (k : Nat) : (s.draw k).dieStats = s.dieStats := rfl

/-! ## setCore -/

@[simp] theorem State.setCore_regs (s : State) (n t : Nat) (c : Core) : (s.setCore n t c).regs = s.regs := rfl
@[simp] theorem State.setCore_mem (s : State) (n t : Nat) (c : Core) : (s.setCore n t c).mem = s.mem := rfl
@[simp] theorem State.setCore_poison (s : State) (n t : Nat) (c : Core) : (s.setCore n t c).poison = s.poison := rfl
@[simp] theorem State.setCore_hostMem (s : State) (n t : Nat) (c : Core) : (s.setCore n t c).hostMem = s.hostMem := rfl
@[simp] theorem State.setCore_hostPoison (s : State) (n t : Nat) (c : Core) : (s.setCore n t c).hostPoison = s.hostPoison := rfl
@[simp] theorem State.setCore_clusters (s : State) (n t : Nat) (c : Core) : (s.setCore n t c).clusters = s.clusters := rfl
@[simp] theorem State.setCore_slots (s : State) (n t : Nat) (c : Core) : (s.setCore n t c).slots = s.slots := rfl
@[simp] theorem State.setCore_vats (s : State) (n t : Nat) (c : Core) : (s.setCore n t c).vats = s.vats := rfl
@[simp] theorem State.setCore_areas (s : State) (n t : Nat) (c : Core) : (s.setCore n t c).areas = s.areas := rfl
@[simp] theorem State.setCore_casks (s : State) (n t : Nat) (c : Core) : (s.setCore n t c).casks = s.casks := rfl
@[simp] theorem State.setCore_flushing (s : State) (n t : Nat) (c : Core) : (s.setCore n t c).flushing = s.flushing := rfl
@[simp] theorem State.setCore_probes (s : State) (n t : Nat) (c : Core) : (s.setCore n t c).probes = s.probes := rfl
@[simp] theorem State.setCore_skew (s : State) (n t : Nat) (c : Core) : (s.setCore n t c).skew = s.skew := rfl
@[simp] theorem State.setCore_sec (s : State) (n t : Nat) (c : Core) : (s.setCore n t c).sec = s.sec := rfl
@[simp] theorem State.setCore_scrubs (s : State) (n t : Nat) (c : Core) : (s.setCore n t c).scrubs = s.scrubs := rfl
@[simp] theorem State.setCore_cls (s : State) (n t : Nat) (c : Core) : (s.setCore n t c).cls = s.cls := rfl
@[simp] theorem State.setCore_plyIn (s : State) (n t : Nat) (c : Core) : (s.setCore n t c).plyIn = s.plyIn := rfl
@[simp] theorem State.setCore_plays (s : State) (n t : Nat) (c : Core) : (s.setCore n t c).plays = s.plays := rfl
@[simp] theorem State.setCore_srtp (s : State) (n t : Nat) (c : Core) : (s.setCore n t c).srtp = s.srtp := rfl
@[simp] theorem State.setCore_tdms (s : State) (n t : Nat) (c : Core) : (s.setCore n t c).tdms = s.tdms := rfl
@[simp] theorem State.setCore_egMarks (s : State) (n t : Nat) (c : Core) : (s.setCore n t c).egMarks = s.egMarks := rfl
@[simp] theorem State.setCore_rehomes (s : State) (n t : Nat) (c : Core) : (s.setCore n t c).rehomes = s.rehomes := rfl
@[simp] theorem State.setCore_evacs (s : State) (n t : Nat) (c : Core) : (s.setCore n t c).evacs = s.evacs := rfl
@[simp] theorem State.setCore_wdns (s : State) (n t : Nat) (c : Core) : (s.setCore n t c).wdns = s.wdns := rfl
@[simp] theorem State.setCore_dvfs (s : State) (n t : Nat) (c : Core) : (s.setCore n t c).dvfs = s.dvfs := rfl
@[simp] theorem State.setCore_thermal (s : State) (n t : Nat) (c : Core) : (s.setCore n t c).thermal = s.thermal := rfl
@[simp] theorem State.setCore_sleep (s : State) (n t : Nat) (c : Core) : (s.setCore n t c).sleep = s.sleep := rfl
@[simp] theorem State.setCore_package (s : State) (n t : Nat) (c : Core) : (s.setCore n t c).package = s.package := rfl
@[simp] theorem State.setCore_wdt (s : State) (n t : Nat) (c : Core) : (s.setCore n t c).wdt = s.wdt := rfl
@[simp] theorem State.setCore_clockwork (s : State) (n t : Nat) (c : Core) : (s.setCore n t c).clockwork = s.clockwork := rfl
@[simp] theorem State.setCore_wdWarned (s : State) (n t : Nat) (c : Core) : (s.setCore n t c).wdWarned = s.wdWarned := rfl
@[simp] theorem State.setCore_macs (s : State) (n t : Nat) (c : Core) : (s.setCore n t c).macs = s.macs := rfl
@[simp] theorem State.setCore_txSends (s : State) (n t : Nat) (c : Core) : (s.setCore n t c).txSends = s.txSends := rfl
@[simp] theorem State.setCore_dmas (s : State) (n t : Nat) (c : Core) : (s.setCore n t c).dmas = s.dmas := rfl
@[simp] theorem State.setCore_press (s : State) (n t : Nat) (c : Core) : (s.setCore n t c).press = s.press := rfl
@[simp] theorem State.setCore_tbs (s : State) (n t : Nat) (c : Core) : (s.setCore n t c).tbs = s.tbs := rfl
@[simp] theorem State.setCore_msix (s : State) (n t : Nat) (c : Core) : (s.setCore n t c).msix = s.msix := rfl
@[simp] theorem State.setCore_freeCount (s : State) (n t : Nat) (c : Core) : (s.setCore n t c).freeCount = s.freeCount := rfl
@[simp] theorem State.setCore_wire (s : State) (n t : Nat) (c : Core) : (s.setCore n t c).wire = s.wire := rfl
@[simp] theorem State.setCore_pending (s : State) (n t : Nat) (c : Core) : (s.setCore n t c).pending = s.pending := rfl
@[simp] theorem State.setCore_txBufs (s : State) (n t : Nat) (c : Core) : (s.setCore n t c).txBufs = s.txBufs := rfl
@[simp] theorem State.setCore_cellUse (s : State) (n t : Nat) (c : Core) : (s.setCore n t c).cellUse = s.cellUse := rfl
@[simp] theorem State.setCore_pcie (s : State) (n t : Nat) (c : Core) : (s.setCore n t c).pcie = s.pcie := rfl
@[simp] theorem State.setCore_dieStats (s : State) (n t : Nat) (c : Core) : (s.setCore n t c).dieStats = s.dieStats := rfl

/-! ## setCluster -/

@[simp] theorem State.setCluster_regs (s : State) (n : Nat) (c : Cluster) : (s.setCluster n c).regs = s.regs := rfl
@[simp] theorem State.setCluster_mem (s : State) (n : Nat) (c : Cluster) : (s.setCluster n c).mem = s.mem := rfl
@[simp] theorem State.setCluster_poison (s : State) (n : Nat) (c : Cluster) : (s.setCluster n c).poison = s.poison := rfl
@[simp] theorem State.setCluster_hostMem (s : State) (n : Nat) (c : Cluster) : (s.setCluster n c).hostMem = s.hostMem := rfl
@[simp] theorem State.setCluster_hostPoison (s : State) (n : Nat) (c : Cluster) : (s.setCluster n c).hostPoison = s.hostPoison := rfl
@[simp] theorem State.setCluster_cores (s : State) (n : Nat) (c : Cluster) : (s.setCluster n c).cores = s.cores := rfl
@[simp] theorem State.setCluster_slots (s : State) (n : Nat) (c : Cluster) : (s.setCluster n c).slots = s.slots := rfl
@[simp] theorem State.setCluster_vats (s : State) (n : Nat) (c : Cluster) : (s.setCluster n c).vats = s.vats := rfl
@[simp] theorem State.setCluster_areas (s : State) (n : Nat) (c : Cluster) : (s.setCluster n c).areas = s.areas := rfl
@[simp] theorem State.setCluster_casks (s : State) (n : Nat) (c : Cluster) : (s.setCluster n c).casks = s.casks := rfl
@[simp] theorem State.setCluster_flushing (s : State) (n : Nat) (c : Cluster) : (s.setCluster n c).flushing = s.flushing := rfl
@[simp] theorem State.setCluster_probes (s : State) (n : Nat) (c : Cluster) : (s.setCluster n c).probes = s.probes := rfl
@[simp] theorem State.setCluster_skew (s : State) (n : Nat) (c : Cluster) : (s.setCluster n c).skew = s.skew := rfl
@[simp] theorem State.setCluster_sec (s : State) (n : Nat) (c : Cluster) : (s.setCluster n c).sec = s.sec := rfl
@[simp] theorem State.setCluster_scrubs (s : State) (n : Nat) (c : Cluster) : (s.setCluster n c).scrubs = s.scrubs := rfl
@[simp] theorem State.setCluster_cls (s : State) (n : Nat) (c : Cluster) : (s.setCluster n c).cls = s.cls := rfl
@[simp] theorem State.setCluster_plyIn (s : State) (n : Nat) (c : Cluster) : (s.setCluster n c).plyIn = s.plyIn := rfl
@[simp] theorem State.setCluster_plays (s : State) (n : Nat) (c : Cluster) : (s.setCluster n c).plays = s.plays := rfl
@[simp] theorem State.setCluster_srtp (s : State) (n : Nat) (c : Cluster) : (s.setCluster n c).srtp = s.srtp := rfl
@[simp] theorem State.setCluster_tdms (s : State) (n : Nat) (c : Cluster) : (s.setCluster n c).tdms = s.tdms := rfl
@[simp] theorem State.setCluster_egMarks (s : State) (n : Nat) (c : Cluster) : (s.setCluster n c).egMarks = s.egMarks := rfl
@[simp] theorem State.setCluster_rehomes (s : State) (n : Nat) (c : Cluster) : (s.setCluster n c).rehomes = s.rehomes := rfl
@[simp] theorem State.setCluster_evacs (s : State) (n : Nat) (c : Cluster) : (s.setCluster n c).evacs = s.evacs := rfl
@[simp] theorem State.setCluster_wdns (s : State) (n : Nat) (c : Cluster) : (s.setCluster n c).wdns = s.wdns := rfl
@[simp] theorem State.setCluster_dvfs (s : State) (n : Nat) (c : Cluster) : (s.setCluster n c).dvfs = s.dvfs := rfl
@[simp] theorem State.setCluster_thermal (s : State) (n : Nat) (c : Cluster) : (s.setCluster n c).thermal = s.thermal := rfl
@[simp] theorem State.setCluster_sleep (s : State) (n : Nat) (c : Cluster) : (s.setCluster n c).sleep = s.sleep := rfl
@[simp] theorem State.setCluster_package (s : State) (n : Nat) (c : Cluster) : (s.setCluster n c).package = s.package := rfl
@[simp] theorem State.setCluster_wdt (s : State) (n : Nat) (c : Cluster) : (s.setCluster n c).wdt = s.wdt := rfl
@[simp] theorem State.setCluster_clockwork (s : State) (n : Nat) (c : Cluster) : (s.setCluster n c).clockwork = s.clockwork := rfl
@[simp] theorem State.setCluster_wdWarned (s : State) (n : Nat) (c : Cluster) : (s.setCluster n c).wdWarned = s.wdWarned := rfl
@[simp] theorem State.setCluster_macs (s : State) (n : Nat) (c : Cluster) : (s.setCluster n c).macs = s.macs := rfl
@[simp] theorem State.setCluster_txSends (s : State) (n : Nat) (c : Cluster) : (s.setCluster n c).txSends = s.txSends := rfl
@[simp] theorem State.setCluster_dmas (s : State) (n : Nat) (c : Cluster) : (s.setCluster n c).dmas = s.dmas := rfl
@[simp] theorem State.setCluster_press (s : State) (n : Nat) (c : Cluster) : (s.setCluster n c).press = s.press := rfl
@[simp] theorem State.setCluster_tbs (s : State) (n : Nat) (c : Cluster) : (s.setCluster n c).tbs = s.tbs := rfl
@[simp] theorem State.setCluster_msix (s : State) (n : Nat) (c : Cluster) : (s.setCluster n c).msix = s.msix := rfl
@[simp] theorem State.setCluster_freeCount (s : State) (n : Nat) (c : Cluster) : (s.setCluster n c).freeCount = s.freeCount := rfl
@[simp] theorem State.setCluster_wire (s : State) (n : Nat) (c : Cluster) : (s.setCluster n c).wire = s.wire := rfl
@[simp] theorem State.setCluster_pending (s : State) (n : Nat) (c : Cluster) : (s.setCluster n c).pending = s.pending := rfl
@[simp] theorem State.setCluster_txBufs (s : State) (n : Nat) (c : Cluster) : (s.setCluster n c).txBufs = s.txBufs := rfl
@[simp] theorem State.setCluster_cellUse (s : State) (n : Nat) (c : Cluster) : (s.setCluster n c).cellUse = s.cellUse := rfl
@[simp] theorem State.setCluster_pcie (s : State) (n : Nat) (c : Cluster) : (s.setCluster n c).pcie = s.pcie := rfl
@[simp] theorem State.setCluster_dieStats (s : State) (n : Nat) (c : Cluster) : (s.setCluster n c).dieStats = s.dieStats := rfl

/-! ## setSlot -/

@[simp] theorem State.setSlot_regs (s : State) (n k : Nat) (x : Slot) : (s.setSlot n k x).regs = s.regs := rfl
@[simp] theorem State.setSlot_mem (s : State) (n k : Nat) (x : Slot) : (s.setSlot n k x).mem = s.mem := rfl
@[simp] theorem State.setSlot_poison (s : State) (n k : Nat) (x : Slot) : (s.setSlot n k x).poison = s.poison := rfl
@[simp] theorem State.setSlot_hostMem (s : State) (n k : Nat) (x : Slot) : (s.setSlot n k x).hostMem = s.hostMem := rfl
@[simp] theorem State.setSlot_hostPoison (s : State) (n k : Nat) (x : Slot) : (s.setSlot n k x).hostPoison = s.hostPoison := rfl
@[simp] theorem State.setSlot_cores (s : State) (n k : Nat) (x : Slot) : (s.setSlot n k x).cores = s.cores := rfl
@[simp] theorem State.setSlot_clusters (s : State) (n k : Nat) (x : Slot) : (s.setSlot n k x).clusters = s.clusters := rfl
@[simp] theorem State.setSlot_vats (s : State) (n k : Nat) (x : Slot) : (s.setSlot n k x).vats = s.vats := rfl
@[simp] theorem State.setSlot_areas (s : State) (n k : Nat) (x : Slot) : (s.setSlot n k x).areas = s.areas := rfl
@[simp] theorem State.setSlot_casks (s : State) (n k : Nat) (x : Slot) : (s.setSlot n k x).casks = s.casks := rfl
@[simp] theorem State.setSlot_flushing (s : State) (n k : Nat) (x : Slot) : (s.setSlot n k x).flushing = s.flushing := rfl
@[simp] theorem State.setSlot_probes (s : State) (n k : Nat) (x : Slot) : (s.setSlot n k x).probes = s.probes := rfl
@[simp] theorem State.setSlot_skew (s : State) (n k : Nat) (x : Slot) : (s.setSlot n k x).skew = s.skew := rfl
@[simp] theorem State.setSlot_sec (s : State) (n k : Nat) (x : Slot) : (s.setSlot n k x).sec = s.sec := rfl
@[simp] theorem State.setSlot_scrubs (s : State) (n k : Nat) (x : Slot) : (s.setSlot n k x).scrubs = s.scrubs := rfl
@[simp] theorem State.setSlot_cls (s : State) (n k : Nat) (x : Slot) : (s.setSlot n k x).cls = s.cls := rfl
@[simp] theorem State.setSlot_plyIn (s : State) (n k : Nat) (x : Slot) : (s.setSlot n k x).plyIn = s.plyIn := rfl
@[simp] theorem State.setSlot_plays (s : State) (n k : Nat) (x : Slot) : (s.setSlot n k x).plays = s.plays := rfl
@[simp] theorem State.setSlot_srtp (s : State) (n k : Nat) (x : Slot) : (s.setSlot n k x).srtp = s.srtp := rfl
@[simp] theorem State.setSlot_tdms (s : State) (n k : Nat) (x : Slot) : (s.setSlot n k x).tdms = s.tdms := rfl
@[simp] theorem State.setSlot_egMarks (s : State) (n k : Nat) (x : Slot) : (s.setSlot n k x).egMarks = s.egMarks := rfl
@[simp] theorem State.setSlot_rehomes (s : State) (n k : Nat) (x : Slot) : (s.setSlot n k x).rehomes = s.rehomes := rfl
@[simp] theorem State.setSlot_evacs (s : State) (n k : Nat) (x : Slot) : (s.setSlot n k x).evacs = s.evacs := rfl
@[simp] theorem State.setSlot_wdns (s : State) (n k : Nat) (x : Slot) : (s.setSlot n k x).wdns = s.wdns := rfl
@[simp] theorem State.setSlot_dvfs (s : State) (n k : Nat) (x : Slot) : (s.setSlot n k x).dvfs = s.dvfs := rfl
@[simp] theorem State.setSlot_thermal (s : State) (n k : Nat) (x : Slot) : (s.setSlot n k x).thermal = s.thermal := rfl
@[simp] theorem State.setSlot_sleep (s : State) (n k : Nat) (x : Slot) : (s.setSlot n k x).sleep = s.sleep := rfl
@[simp] theorem State.setSlot_package (s : State) (n k : Nat) (x : Slot) : (s.setSlot n k x).package = s.package := rfl
@[simp] theorem State.setSlot_wdt (s : State) (n k : Nat) (x : Slot) : (s.setSlot n k x).wdt = s.wdt := rfl
@[simp] theorem State.setSlot_clockwork (s : State) (n k : Nat) (x : Slot) : (s.setSlot n k x).clockwork = s.clockwork := rfl
@[simp] theorem State.setSlot_wdWarned (s : State) (n k : Nat) (x : Slot) : (s.setSlot n k x).wdWarned = s.wdWarned := rfl
@[simp] theorem State.setSlot_macs (s : State) (n k : Nat) (x : Slot) : (s.setSlot n k x).macs = s.macs := rfl
@[simp] theorem State.setSlot_txSends (s : State) (n k : Nat) (x : Slot) : (s.setSlot n k x).txSends = s.txSends := rfl
@[simp] theorem State.setSlot_dmas (s : State) (n k : Nat) (x : Slot) : (s.setSlot n k x).dmas = s.dmas := rfl
@[simp] theorem State.setSlot_press (s : State) (n k : Nat) (x : Slot) : (s.setSlot n k x).press = s.press := rfl
@[simp] theorem State.setSlot_tbs (s : State) (n k : Nat) (x : Slot) : (s.setSlot n k x).tbs = s.tbs := rfl
@[simp] theorem State.setSlot_msix (s : State) (n k : Nat) (x : Slot) : (s.setSlot n k x).msix = s.msix := rfl
@[simp] theorem State.setSlot_freeCount (s : State) (n k : Nat) (x : Slot) : (s.setSlot n k x).freeCount = s.freeCount := rfl
@[simp] theorem State.setSlot_wire (s : State) (n k : Nat) (x : Slot) : (s.setSlot n k x).wire = s.wire := rfl
@[simp] theorem State.setSlot_pending (s : State) (n k : Nat) (x : Slot) : (s.setSlot n k x).pending = s.pending := rfl
@[simp] theorem State.setSlot_txBufs (s : State) (n k : Nat) (x : Slot) : (s.setSlot n k x).txBufs = s.txBufs := rfl
@[simp] theorem State.setSlot_cellUse (s : State) (n k : Nat) (x : Slot) : (s.setSlot n k x).cellUse = s.cellUse := rfl
@[simp] theorem State.setSlot_pcie (s : State) (n k : Nat) (x : Slot) : (s.setSlot n k x).pcie = s.pcie := rfl
@[simp] theorem State.setSlot_dieStats (s : State) (n k : Nat) (x : Slot) : (s.setSlot n k x).dieStats = s.dieStats := rfl

/-! ## setVat -/

@[simp] theorem State.setVat_regs (s : State) (a : Nat) (x : VatSlot) : (s.setVat a x).regs = s.regs := rfl
@[simp] theorem State.setVat_mem (s : State) (a : Nat) (x : VatSlot) : (s.setVat a x).mem = s.mem := rfl
@[simp] theorem State.setVat_poison (s : State) (a : Nat) (x : VatSlot) : (s.setVat a x).poison = s.poison := rfl
@[simp] theorem State.setVat_hostMem (s : State) (a : Nat) (x : VatSlot) : (s.setVat a x).hostMem = s.hostMem := rfl
@[simp] theorem State.setVat_hostPoison (s : State) (a : Nat) (x : VatSlot) : (s.setVat a x).hostPoison = s.hostPoison := rfl
@[simp] theorem State.setVat_cores (s : State) (a : Nat) (x : VatSlot) : (s.setVat a x).cores = s.cores := rfl
@[simp] theorem State.setVat_clusters (s : State) (a : Nat) (x : VatSlot) : (s.setVat a x).clusters = s.clusters := rfl
@[simp] theorem State.setVat_slots (s : State) (a : Nat) (x : VatSlot) : (s.setVat a x).slots = s.slots := rfl
@[simp] theorem State.setVat_areas (s : State) (a : Nat) (x : VatSlot) : (s.setVat a x).areas = s.areas := rfl
@[simp] theorem State.setVat_casks (s : State) (a : Nat) (x : VatSlot) : (s.setVat a x).casks = s.casks := rfl
@[simp] theorem State.setVat_flushing (s : State) (a : Nat) (x : VatSlot) : (s.setVat a x).flushing = s.flushing := rfl
@[simp] theorem State.setVat_probes (s : State) (a : Nat) (x : VatSlot) : (s.setVat a x).probes = s.probes := rfl
@[simp] theorem State.setVat_skew (s : State) (a : Nat) (x : VatSlot) : (s.setVat a x).skew = s.skew := rfl
@[simp] theorem State.setVat_sec (s : State) (a : Nat) (x : VatSlot) : (s.setVat a x).sec = s.sec := rfl
@[simp] theorem State.setVat_scrubs (s : State) (a : Nat) (x : VatSlot) : (s.setVat a x).scrubs = s.scrubs := rfl
@[simp] theorem State.setVat_cls (s : State) (a : Nat) (x : VatSlot) : (s.setVat a x).cls = s.cls := rfl
@[simp] theorem State.setVat_plyIn (s : State) (a : Nat) (x : VatSlot) : (s.setVat a x).plyIn = s.plyIn := rfl
@[simp] theorem State.setVat_plays (s : State) (a : Nat) (x : VatSlot) : (s.setVat a x).plays = s.plays := rfl
@[simp] theorem State.setVat_srtp (s : State) (a : Nat) (x : VatSlot) : (s.setVat a x).srtp = s.srtp := rfl
@[simp] theorem State.setVat_tdms (s : State) (a : Nat) (x : VatSlot) : (s.setVat a x).tdms = s.tdms := rfl
@[simp] theorem State.setVat_egMarks (s : State) (a : Nat) (x : VatSlot) : (s.setVat a x).egMarks = s.egMarks := rfl
@[simp] theorem State.setVat_rehomes (s : State) (a : Nat) (x : VatSlot) : (s.setVat a x).rehomes = s.rehomes := rfl
@[simp] theorem State.setVat_evacs (s : State) (a : Nat) (x : VatSlot) : (s.setVat a x).evacs = s.evacs := rfl
@[simp] theorem State.setVat_wdns (s : State) (a : Nat) (x : VatSlot) : (s.setVat a x).wdns = s.wdns := rfl
@[simp] theorem State.setVat_dvfs (s : State) (a : Nat) (x : VatSlot) : (s.setVat a x).dvfs = s.dvfs := rfl
@[simp] theorem State.setVat_thermal (s : State) (a : Nat) (x : VatSlot) : (s.setVat a x).thermal = s.thermal := rfl
@[simp] theorem State.setVat_sleep (s : State) (a : Nat) (x : VatSlot) : (s.setVat a x).sleep = s.sleep := rfl
@[simp] theorem State.setVat_package (s : State) (a : Nat) (x : VatSlot) : (s.setVat a x).package = s.package := rfl
@[simp] theorem State.setVat_wdt (s : State) (a : Nat) (x : VatSlot) : (s.setVat a x).wdt = s.wdt := rfl
@[simp] theorem State.setVat_clockwork (s : State) (a : Nat) (x : VatSlot) : (s.setVat a x).clockwork = s.clockwork := rfl
@[simp] theorem State.setVat_wdWarned (s : State) (a : Nat) (x : VatSlot) : (s.setVat a x).wdWarned = s.wdWarned := rfl
@[simp] theorem State.setVat_macs (s : State) (a : Nat) (x : VatSlot) : (s.setVat a x).macs = s.macs := rfl
@[simp] theorem State.setVat_txSends (s : State) (a : Nat) (x : VatSlot) : (s.setVat a x).txSends = s.txSends := rfl
@[simp] theorem State.setVat_dmas (s : State) (a : Nat) (x : VatSlot) : (s.setVat a x).dmas = s.dmas := rfl
@[simp] theorem State.setVat_press (s : State) (a : Nat) (x : VatSlot) : (s.setVat a x).press = s.press := rfl
@[simp] theorem State.setVat_tbs (s : State) (a : Nat) (x : VatSlot) : (s.setVat a x).tbs = s.tbs := rfl
@[simp] theorem State.setVat_msix (s : State) (a : Nat) (x : VatSlot) : (s.setVat a x).msix = s.msix := rfl
@[simp] theorem State.setVat_freeCount (s : State) (a : Nat) (x : VatSlot) : (s.setVat a x).freeCount = s.freeCount := rfl
@[simp] theorem State.setVat_wire (s : State) (a : Nat) (x : VatSlot) : (s.setVat a x).wire = s.wire := rfl
@[simp] theorem State.setVat_pending (s : State) (a : Nat) (x : VatSlot) : (s.setVat a x).pending = s.pending := rfl
@[simp] theorem State.setVat_txBufs (s : State) (a : Nat) (x : VatSlot) : (s.setVat a x).txBufs = s.txBufs := rfl
@[simp] theorem State.setVat_cellUse (s : State) (a : Nat) (x : VatSlot) : (s.setVat a x).cellUse = s.cellUse := rfl
@[simp] theorem State.setVat_pcie (s : State) (a : Nat) (x : VatSlot) : (s.setVat a x).pcie = s.pcie := rfl
@[simp] theorem State.setVat_dieStats (s : State) (a : Nat) (x : VatSlot) : (s.setVat a x).dieStats = s.dieStats := rfl

/-! ## setArea -/

@[simp] theorem State.setArea_regs (s : State) (a : Nat) (x : Area) : (s.setArea a x).regs = s.regs := rfl
@[simp] theorem State.setArea_mem (s : State) (a : Nat) (x : Area) : (s.setArea a x).mem = s.mem := rfl
@[simp] theorem State.setArea_poison (s : State) (a : Nat) (x : Area) : (s.setArea a x).poison = s.poison := rfl
@[simp] theorem State.setArea_hostMem (s : State) (a : Nat) (x : Area) : (s.setArea a x).hostMem = s.hostMem := rfl
@[simp] theorem State.setArea_hostPoison (s : State) (a : Nat) (x : Area) : (s.setArea a x).hostPoison = s.hostPoison := rfl
@[simp] theorem State.setArea_cores (s : State) (a : Nat) (x : Area) : (s.setArea a x).cores = s.cores := rfl
@[simp] theorem State.setArea_clusters (s : State) (a : Nat) (x : Area) : (s.setArea a x).clusters = s.clusters := rfl
@[simp] theorem State.setArea_slots (s : State) (a : Nat) (x : Area) : (s.setArea a x).slots = s.slots := rfl
@[simp] theorem State.setArea_vats (s : State) (a : Nat) (x : Area) : (s.setArea a x).vats = s.vats := rfl
@[simp] theorem State.setArea_casks (s : State) (a : Nat) (x : Area) : (s.setArea a x).casks = s.casks := rfl
@[simp] theorem State.setArea_flushing (s : State) (a : Nat) (x : Area) : (s.setArea a x).flushing = s.flushing := rfl
@[simp] theorem State.setArea_probes (s : State) (a : Nat) (x : Area) : (s.setArea a x).probes = s.probes := rfl
@[simp] theorem State.setArea_skew (s : State) (a : Nat) (x : Area) : (s.setArea a x).skew = s.skew := rfl
@[simp] theorem State.setArea_sec (s : State) (a : Nat) (x : Area) : (s.setArea a x).sec = s.sec := rfl
@[simp] theorem State.setArea_scrubs (s : State) (a : Nat) (x : Area) : (s.setArea a x).scrubs = s.scrubs := rfl
@[simp] theorem State.setArea_cls (s : State) (a : Nat) (x : Area) : (s.setArea a x).cls = s.cls := rfl
@[simp] theorem State.setArea_plyIn (s : State) (a : Nat) (x : Area) : (s.setArea a x).plyIn = s.plyIn := rfl
@[simp] theorem State.setArea_plays (s : State) (a : Nat) (x : Area) : (s.setArea a x).plays = s.plays := rfl
@[simp] theorem State.setArea_srtp (s : State) (a : Nat) (x : Area) : (s.setArea a x).srtp = s.srtp := rfl
@[simp] theorem State.setArea_tdms (s : State) (a : Nat) (x : Area) : (s.setArea a x).tdms = s.tdms := rfl
@[simp] theorem State.setArea_egMarks (s : State) (a : Nat) (x : Area) : (s.setArea a x).egMarks = s.egMarks := rfl
@[simp] theorem State.setArea_rehomes (s : State) (a : Nat) (x : Area) : (s.setArea a x).rehomes = s.rehomes := rfl
@[simp] theorem State.setArea_evacs (s : State) (a : Nat) (x : Area) : (s.setArea a x).evacs = s.evacs := rfl
@[simp] theorem State.setArea_wdns (s : State) (a : Nat) (x : Area) : (s.setArea a x).wdns = s.wdns := rfl
@[simp] theorem State.setArea_dvfs (s : State) (a : Nat) (x : Area) : (s.setArea a x).dvfs = s.dvfs := rfl
@[simp] theorem State.setArea_thermal (s : State) (a : Nat) (x : Area) : (s.setArea a x).thermal = s.thermal := rfl
@[simp] theorem State.setArea_sleep (s : State) (a : Nat) (x : Area) : (s.setArea a x).sleep = s.sleep := rfl
@[simp] theorem State.setArea_package (s : State) (a : Nat) (x : Area) : (s.setArea a x).package = s.package := rfl
@[simp] theorem State.setArea_wdt (s : State) (a : Nat) (x : Area) : (s.setArea a x).wdt = s.wdt := rfl
@[simp] theorem State.setArea_clockwork (s : State) (a : Nat) (x : Area) : (s.setArea a x).clockwork = s.clockwork := rfl
@[simp] theorem State.setArea_wdWarned (s : State) (a : Nat) (x : Area) : (s.setArea a x).wdWarned = s.wdWarned := rfl
@[simp] theorem State.setArea_macs (s : State) (a : Nat) (x : Area) : (s.setArea a x).macs = s.macs := rfl
@[simp] theorem State.setArea_txSends (s : State) (a : Nat) (x : Area) : (s.setArea a x).txSends = s.txSends := rfl
@[simp] theorem State.setArea_dmas (s : State) (a : Nat) (x : Area) : (s.setArea a x).dmas = s.dmas := rfl
@[simp] theorem State.setArea_press (s : State) (a : Nat) (x : Area) : (s.setArea a x).press = s.press := rfl
@[simp] theorem State.setArea_tbs (s : State) (a : Nat) (x : Area) : (s.setArea a x).tbs = s.tbs := rfl
@[simp] theorem State.setArea_msix (s : State) (a : Nat) (x : Area) : (s.setArea a x).msix = s.msix := rfl
@[simp] theorem State.setArea_freeCount (s : State) (a : Nat) (x : Area) : (s.setArea a x).freeCount = s.freeCount := rfl
@[simp] theorem State.setArea_wire (s : State) (a : Nat) (x : Area) : (s.setArea a x).wire = s.wire := rfl
@[simp] theorem State.setArea_pending (s : State) (a : Nat) (x : Area) : (s.setArea a x).pending = s.pending := rfl
@[simp] theorem State.setArea_txBufs (s : State) (a : Nat) (x : Area) : (s.setArea a x).txBufs = s.txBufs := rfl
@[simp] theorem State.setArea_cellUse (s : State) (a : Nat) (x : Area) : (s.setArea a x).cellUse = s.cellUse := rfl
@[simp] theorem State.setArea_pcie (s : State) (a : Nat) (x : Area) : (s.setArea a x).pcie = s.pcie := rfl
@[simp] theorem State.setArea_dieStats (s : State) (a : Nat) (x : Area) : (s.setArea a x).dieStats = s.dieStats := rfl

/-! ## setCask -/

@[simp] theorem State.setCask_regs (s : State) (h : Nat) (x : Cask) : (s.setCask h x).regs = s.regs := rfl
@[simp] theorem State.setCask_mem (s : State) (h : Nat) (x : Cask) : (s.setCask h x).mem = s.mem := rfl
@[simp] theorem State.setCask_poison (s : State) (h : Nat) (x : Cask) : (s.setCask h x).poison = s.poison := rfl
@[simp] theorem State.setCask_hostMem (s : State) (h : Nat) (x : Cask) : (s.setCask h x).hostMem = s.hostMem := rfl
@[simp] theorem State.setCask_hostPoison (s : State) (h : Nat) (x : Cask) : (s.setCask h x).hostPoison = s.hostPoison := rfl
@[simp] theorem State.setCask_cores (s : State) (h : Nat) (x : Cask) : (s.setCask h x).cores = s.cores := rfl
@[simp] theorem State.setCask_clusters (s : State) (h : Nat) (x : Cask) : (s.setCask h x).clusters = s.clusters := rfl
@[simp] theorem State.setCask_slots (s : State) (h : Nat) (x : Cask) : (s.setCask h x).slots = s.slots := rfl
@[simp] theorem State.setCask_vats (s : State) (h : Nat) (x : Cask) : (s.setCask h x).vats = s.vats := rfl
@[simp] theorem State.setCask_areas (s : State) (h : Nat) (x : Cask) : (s.setCask h x).areas = s.areas := rfl
@[simp] theorem State.setCask_flushing (s : State) (h : Nat) (x : Cask) : (s.setCask h x).flushing = s.flushing := rfl
@[simp] theorem State.setCask_probes (s : State) (h : Nat) (x : Cask) : (s.setCask h x).probes = s.probes := rfl
@[simp] theorem State.setCask_skew (s : State) (h : Nat) (x : Cask) : (s.setCask h x).skew = s.skew := rfl
@[simp] theorem State.setCask_sec (s : State) (h : Nat) (x : Cask) : (s.setCask h x).sec = s.sec := rfl
@[simp] theorem State.setCask_scrubs (s : State) (h : Nat) (x : Cask) : (s.setCask h x).scrubs = s.scrubs := rfl
@[simp] theorem State.setCask_cls (s : State) (h : Nat) (x : Cask) : (s.setCask h x).cls = s.cls := rfl
@[simp] theorem State.setCask_plyIn (s : State) (h : Nat) (x : Cask) : (s.setCask h x).plyIn = s.plyIn := rfl
@[simp] theorem State.setCask_plays (s : State) (h : Nat) (x : Cask) : (s.setCask h x).plays = s.plays := rfl
@[simp] theorem State.setCask_srtp (s : State) (h : Nat) (x : Cask) : (s.setCask h x).srtp = s.srtp := rfl
@[simp] theorem State.setCask_tdms (s : State) (h : Nat) (x : Cask) : (s.setCask h x).tdms = s.tdms := rfl
@[simp] theorem State.setCask_egMarks (s : State) (h : Nat) (x : Cask) : (s.setCask h x).egMarks = s.egMarks := rfl
@[simp] theorem State.setCask_rehomes (s : State) (h : Nat) (x : Cask) : (s.setCask h x).rehomes = s.rehomes := rfl
@[simp] theorem State.setCask_evacs (s : State) (h : Nat) (x : Cask) : (s.setCask h x).evacs = s.evacs := rfl
@[simp] theorem State.setCask_wdns (s : State) (h : Nat) (x : Cask) : (s.setCask h x).wdns = s.wdns := rfl
@[simp] theorem State.setCask_dvfs (s : State) (h : Nat) (x : Cask) : (s.setCask h x).dvfs = s.dvfs := rfl
@[simp] theorem State.setCask_thermal (s : State) (h : Nat) (x : Cask) : (s.setCask h x).thermal = s.thermal := rfl
@[simp] theorem State.setCask_sleep (s : State) (h : Nat) (x : Cask) : (s.setCask h x).sleep = s.sleep := rfl
@[simp] theorem State.setCask_package (s : State) (h : Nat) (x : Cask) : (s.setCask h x).package = s.package := rfl
@[simp] theorem State.setCask_wdt (s : State) (h : Nat) (x : Cask) : (s.setCask h x).wdt = s.wdt := rfl
@[simp] theorem State.setCask_clockwork (s : State) (h : Nat) (x : Cask) : (s.setCask h x).clockwork = s.clockwork := rfl
@[simp] theorem State.setCask_wdWarned (s : State) (h : Nat) (x : Cask) : (s.setCask h x).wdWarned = s.wdWarned := rfl
@[simp] theorem State.setCask_macs (s : State) (h : Nat) (x : Cask) : (s.setCask h x).macs = s.macs := rfl
@[simp] theorem State.setCask_txSends (s : State) (h : Nat) (x : Cask) : (s.setCask h x).txSends = s.txSends := rfl
@[simp] theorem State.setCask_dmas (s : State) (h : Nat) (x : Cask) : (s.setCask h x).dmas = s.dmas := rfl
@[simp] theorem State.setCask_press (s : State) (h : Nat) (x : Cask) : (s.setCask h x).press = s.press := rfl
@[simp] theorem State.setCask_tbs (s : State) (h : Nat) (x : Cask) : (s.setCask h x).tbs = s.tbs := rfl
@[simp] theorem State.setCask_msix (s : State) (h : Nat) (x : Cask) : (s.setCask h x).msix = s.msix := rfl
@[simp] theorem State.setCask_freeCount (s : State) (h : Nat) (x : Cask) : (s.setCask h x).freeCount = s.freeCount := rfl
@[simp] theorem State.setCask_wire (s : State) (h : Nat) (x : Cask) : (s.setCask h x).wire = s.wire := rfl
@[simp] theorem State.setCask_pending (s : State) (h : Nat) (x : Cask) : (s.setCask h x).pending = s.pending := rfl
@[simp] theorem State.setCask_txBufs (s : State) (h : Nat) (x : Cask) : (s.setCask h x).txBufs = s.txBufs := rfl
@[simp] theorem State.setCask_cellUse (s : State) (h : Nat) (x : Cask) : (s.setCask h x).cellUse = s.cellUse := rfl
@[simp] theorem State.setCask_pcie (s : State) (h : Nat) (x : Cask) : (s.setCask h x).pcie = s.pcie := rfl
@[simp] theorem State.setCask_dieStats (s : State) (h : Nat) (x : Cask) : (s.setCask h x).dieStats = s.dieStats := rfl

/-! ## emit -/

@[simp] theorem State.emit_regs (s : State) (o : Out) : (s.emit o).regs = s.regs := rfl
@[simp] theorem State.emit_mem (s : State) (o : Out) : (s.emit o).mem = s.mem := rfl
@[simp] theorem State.emit_poison (s : State) (o : Out) : (s.emit o).poison = s.poison := rfl
@[simp] theorem State.emit_hostMem (s : State) (o : Out) : (s.emit o).hostMem = s.hostMem := rfl
@[simp] theorem State.emit_hostPoison (s : State) (o : Out) : (s.emit o).hostPoison = s.hostPoison := rfl
@[simp] theorem State.emit_cores (s : State) (o : Out) : (s.emit o).cores = s.cores := rfl
@[simp] theorem State.emit_clusters (s : State) (o : Out) : (s.emit o).clusters = s.clusters := rfl
@[simp] theorem State.emit_slots (s : State) (o : Out) : (s.emit o).slots = s.slots := rfl
@[simp] theorem State.emit_vats (s : State) (o : Out) : (s.emit o).vats = s.vats := rfl
@[simp] theorem State.emit_areas (s : State) (o : Out) : (s.emit o).areas = s.areas := rfl
@[simp] theorem State.emit_casks (s : State) (o : Out) : (s.emit o).casks = s.casks := rfl
@[simp] theorem State.emit_flushing (s : State) (o : Out) : (s.emit o).flushing = s.flushing := rfl
@[simp] theorem State.emit_probes (s : State) (o : Out) : (s.emit o).probes = s.probes := rfl
@[simp] theorem State.emit_skew (s : State) (o : Out) : (s.emit o).skew = s.skew := rfl
@[simp] theorem State.emit_sec (s : State) (o : Out) : (s.emit o).sec = s.sec := rfl
@[simp] theorem State.emit_scrubs (s : State) (o : Out) : (s.emit o).scrubs = s.scrubs := rfl
@[simp] theorem State.emit_cls (s : State) (o : Out) : (s.emit o).cls = s.cls := rfl
@[simp] theorem State.emit_plyIn (s : State) (o : Out) : (s.emit o).plyIn = s.plyIn := rfl
@[simp] theorem State.emit_plays (s : State) (o : Out) : (s.emit o).plays = s.plays := rfl
@[simp] theorem State.emit_srtp (s : State) (o : Out) : (s.emit o).srtp = s.srtp := rfl
@[simp] theorem State.emit_tdms (s : State) (o : Out) : (s.emit o).tdms = s.tdms := rfl
@[simp] theorem State.emit_egMarks (s : State) (o : Out) : (s.emit o).egMarks = s.egMarks := rfl
@[simp] theorem State.emit_rehomes (s : State) (o : Out) : (s.emit o).rehomes = s.rehomes := rfl
@[simp] theorem State.emit_evacs (s : State) (o : Out) : (s.emit o).evacs = s.evacs := rfl
@[simp] theorem State.emit_wdns (s : State) (o : Out) : (s.emit o).wdns = s.wdns := rfl
@[simp] theorem State.emit_dvfs (s : State) (o : Out) : (s.emit o).dvfs = s.dvfs := rfl
@[simp] theorem State.emit_thermal (s : State) (o : Out) : (s.emit o).thermal = s.thermal := rfl
@[simp] theorem State.emit_sleep (s : State) (o : Out) : (s.emit o).sleep = s.sleep := rfl
@[simp] theorem State.emit_package (s : State) (o : Out) : (s.emit o).package = s.package := rfl
@[simp] theorem State.emit_wdt (s : State) (o : Out) : (s.emit o).wdt = s.wdt := rfl
@[simp] theorem State.emit_clockwork (s : State) (o : Out) : (s.emit o).clockwork = s.clockwork := rfl
@[simp] theorem State.emit_wdWarned (s : State) (o : Out) : (s.emit o).wdWarned = s.wdWarned := rfl
@[simp] theorem State.emit_macs (s : State) (o : Out) : (s.emit o).macs = s.macs := rfl
@[simp] theorem State.emit_txSends (s : State) (o : Out) : (s.emit o).txSends = s.txSends := rfl
@[simp] theorem State.emit_dmas (s : State) (o : Out) : (s.emit o).dmas = s.dmas := rfl
@[simp] theorem State.emit_press (s : State) (o : Out) : (s.emit o).press = s.press := rfl
@[simp] theorem State.emit_tbs (s : State) (o : Out) : (s.emit o).tbs = s.tbs := rfl
@[simp] theorem State.emit_msix (s : State) (o : Out) : (s.emit o).msix = s.msix := rfl
@[simp] theorem State.emit_freeCount (s : State) (o : Out) : (s.emit o).freeCount = s.freeCount := rfl
@[simp] theorem State.emit_pending (s : State) (o : Out) : (s.emit o).pending = s.pending := rfl
@[simp] theorem State.emit_txBufs (s : State) (o : Out) : (s.emit o).txBufs = s.txBufs := rfl
@[simp] theorem State.emit_cellUse (s : State) (o : Out) : (s.emit o).cellUse = s.cellUse := rfl
@[simp] theorem State.emit_pcie (s : State) (o : Out) : (s.emit o).pcie = s.pcie := rfl
@[simp] theorem State.emit_dieStats (s : State) (o : Out) : (s.emit o).dieStats = s.dieStats := rfl

@[simp] theorem State.draw_freeCount (s : State) (k : Nat) : (s.draw k).freeCount = s.freeCount + k := rfl
@[simp] theorem State.emit_wire (s : State) (o : Out) : (s.emit o).wire = o :: s.wire := rfl

end Sys2Proof.Machine
end

