-- ==== Sys2Proof/Laws/Reg.lean ====
section
/-!
SUPPORT. Registers read after they are written, and fields of a register after a field is set.
-/

namespace Sys2Proof.Machine

/-! ## Whole registers -/

theorem reg_setReg {s : State} (hr : srising s.regs = true) (a b : Nat) (v : Word) :
    (s.setReg a v).reg b = if b = a then v else s.reg b := by
  unfold State.reg State.setReg
  split
  · rename_i h
    subst h
    exact sget_sset_same s.regs (resetOf b) b v hr
  · rename_i h
    exact sget_sset_other s.regs (resetOf a) (resetOf b) a b v h hr

theorem srising_setReg {s : State} (hr : srising s.regs = true) (a : Nat) (v : Word) :
    srising (s.setReg a v).regs = true := by
  unfold State.setReg sset
  dsimp only
  split
  · exact srising_sdel _ _ hr
  · exact srising_sput _ _ _ hr

theorem reg_put {s : State} (hr : srising s.regs = true) (a b : Nat) (f : Fld) (v : Nat) :
    (s.put a f v).reg b = if b = a then fset f (s.reg a) v else s.reg b := reg_setReg hr a b _

theorem srising_put {s : State} (hr : srising s.regs = true) (a : Nat) (f : Fld) (v : Nat) :
    srising (s.put a f v).regs = true := srising_setReg hr a _

theorem reg_wv {s : State} (hr : srising s.regs = true) (a b v : Nat) :
    (s.wv a v).reg b = if b = a then BitVec.ofNat 32 v else s.reg b := reg_setReg hr a b _

theorem srising_wv {s : State} (hr : srising s.regs = true) (a v : Nat) : srising (s.wv a v).regs = true :=
  srising_setReg hr a _

theorem swf_srising {α : Type} [DecidableEq α] {d : Nat → α} {l : List (Nat × α)} (h : swf d l = true) :
    srising l = true := by
  unfold swf at h
  rw [Bool.and_eq_true] at h
  exact h.1

/-! ## Fields -/

theorem fldMask_getLsbD (f : Fld) (h : f.hi < 32) (hl : f.lo ≤ f.hi) (i : Nat) (hi : i < 32) :
    (fldMask f).getLsbD i = (decide (f.lo ≤ i) && decide (i ≤ f.hi)) := by
  unfold fldMask
  rw [BitVec.getLsbD_ofNat]
  rw [Nat.testBit_shiftLeft, Nat.testBit_two_pow_sub_one]
  simp only [hi, decide_true, Bool.true_and, ge_iff_le]
  by_cases h1 : f.lo ≤ i <;> by_cases h2 : i ≤ f.hi <;> simp [h1, h2] <;> omega

theorem fset_getLsbD (f : Fld) (w : Word) (v : Nat) (h : f.hi < 32) (hl : f.lo ≤ f.hi) (i : Nat) (hi : i < 32) :
    (fset f w v).getLsbD i = if f.lo ≤ i ∧ i ≤ f.hi then v.testBit (i - f.lo) else w.getLsbD i := by
  unfold fset
  rw [BitVec.getLsbD_or, BitVec.getLsbD_and, BitVec.getLsbD_and, BitVec.getLsbD_not, BitVec.getLsbD_ofNat,
    Nat.testBit_shiftLeft, fldMask_getLsbD f h hl i hi]
  by_cases h1 : f.lo ≤ i <;> by_cases h2 : i ≤ f.hi <;> simp [h1, h2, hi]

theorem bits_testBit (n hi lo i : Nat) :
    (bits n hi lo).testBit i = (decide (i < hi + 1 - lo) && n.testBit (lo + i)) := by
  unfold bits
  rw [Nat.testBit_mod_two_pow, Nat.testBit_shiftRight]

/-- A field reads what was set into it, modulo its width. -/
theorem fget_fset_same (f : Fld) (w : Word) (v : Nat) (h : f.hi < 32) (hl : f.lo ≤ f.hi) :
    fget f (fset f w v) = v % 2 ^ (f.hi + 1 - f.lo) := by
  apply Nat.eq_of_testBit_eq
  intro i
  unfold fget
  rw [bits_testBit, Nat.testBit_mod_two_pow]
  by_cases hi : i < f.hi + 1 - f.lo
  · simp only [hi, decide_true, Bool.true_and]
    have := fset_getLsbD f w v h hl (f.lo + i) (by omega)
    rw [← BitVec.getLsbD, this]
    rw [if_pos (by omega)]
    congr 1
    omega
  · simp [hi]

/-- Setting a field leaves every field that shares no bit with it. -/
theorem fget_fset_other (f g : Fld) (w : Word) (v : Nat) (h : f.hi < 32) (hl : f.lo ≤ f.hi) (hg : g.hi < 32)
    (d : g.hi < f.lo ∨ f.hi < g.lo) : fget g (fset f w v) = fget g w := by
  apply Nat.eq_of_testBit_eq
  intro i
  unfold fget
  rw [bits_testBit, bits_testBit]
  by_cases hi : i < g.hi + 1 - g.lo
  · simp only [hi, decide_true, Bool.true_and]
    have := fset_getLsbD f w v h hl (g.lo + i) (by omega)
    rw [← BitVec.getLsbD, this, if_neg (by omega)]
    rfl
  · simp [hi]

/-! ## Fields of registers -/

theorem rf_put_same {s : State} (hr : srising s.regs = true) (a : Nat) (f : Fld) (v : Nat) (h : f.hi < 32)
    (hl : f.lo ≤ f.hi) : (s.put a f v).rf a f = v % 2 ^ (f.hi + 1 - f.lo) := by
  unfold State.rf
  rw [reg_put hr, if_pos rfl]
  exact fget_fset_same f _ v h hl

theorem rf_put_field {s : State} (hr : srising s.regs = true) (a : Nat) (f g : Fld) (v : Nat) (h : f.hi < 32)
    (hl : f.lo ≤ f.hi) (hg : g.hi < 32) (d : g.hi < f.lo ∨ f.hi < g.lo) : (s.put a f v).rf a g = s.rf a g := by
  unfold State.rf
  rw [reg_put hr, if_pos rfl]
  exact fget_fset_other f g _ v h hl hg d

theorem rf_put_other {s : State} (hr : srising s.regs = true) (a b : Nat) (f g : Fld) (v : Nat) (h : b ≠ a) :
    (s.put a f v).rf b g = s.rf b g := by
  unfold State.rf
  rw [reg_put hr, if_neg h]

/-! ## Order -/

theorem insertBy_perm {α : Type} (le : α → α → Bool) (a : α) (l : List α) : (insertBy le a l).Perm (a :: l) := by
  induction l with
  | nil => exact .refl _
  | cons b l ih =>
    unfold insertBy
    split
    · exact .refl _
    · exact (ih.cons b).trans (.swap a b l)

/-- sortBy keeps the elements. -/
theorem sortBy_perm {α : Type} (l : List α) (le : α → α → Bool) : (sortBy l le).Perm l := by
  induction l with
  | nil => exact .refl _
  | cons a l ih => exact (insertBy_perm le a _).trans (ih.cons a)

@[simp] theorem mem_sortBy {α : Type} {a : α} (l : List α) (le : α → α → Bool) : a ∈ sortBy l le ↔ a ∈ l :=
  (sortBy_perm l le).mem_iff

/-! ## Bytes stored -/

theorem srising_sset {α : Type} [DecidableEq α] (l : List (Nat × α)) (dflt : α) (k : Nat) (v : α) (hr : srising l = true) :
    srising (sset l dflt k v) = true := by
  unfold sset
  split
  · exact srising_sdel l k hr
  · exact srising_sput l k v hr

/-- What stands at an address after bytes are stored from a on: the byte stored there, where one is and `ok` lets it. -/
theorem sget_storeBytes (ok : Nat → Bool) (bs : List (Option Byte)) :
    ∀ (a : Nat) (m : List (Nat × Byte)) (x : Nat), srising m = true →
      sget (storeBytes ok a bs m) 0 x =
        if a ≤ x ∧ ok x = true then ((bs[x - a]?).getD none).getD (sget m 0 x) else sget m 0 x := by
  induction bs with
  | nil => intro a m x _; simp [storeBytes]
  | cons b bs ih =>
    intro a m x hr
    have step : ∀ m', srising m' = true → sget m' 0 x = (if x = a ∧ ok a = true then b.getD (sget m 0 x) else sget m 0 x) →
        sget (storeBytes ok (a + 1) bs m') 0 x =
          if a ≤ x ∧ ok x = true then (((b :: bs)[x - a]?).getD none).getD (sget m 0 x) else sget m 0 x := by
      intro m' hr' hm
      rw [ih _ _ _ hr', hm]
      by_cases hx : x = a
      · subst hx
        have : ¬ x + 1 ≤ x := by omega
        by_cases hk : ok x = true <;> simp [hk]
      · by_cases hlt : a + 1 ≤ x
        · have h1 : a ≤ x := by omega
          have h2 : x - a = (x - (a + 1)) + 1 := by omega
          simp only [hlt, h1, hx, h2, true_and, false_and, if_false, List.getElem?_cons_succ]
        · have h1 : ¬ a ≤ x := by omega
          simp [hlt, h1, hx]
    cases b with
    | none => exact step m hr (by simp)
    | some v =>
      simp only [storeBytes]
      by_cases hk : ok a = true
      · rw [if_pos hk]
        refine step _ (srising_sset m 0 a v hr) ?_
        by_cases hx : x = a
        · subst hx
          rw [if_pos ⟨rfl, hk⟩, sget_sset_same m 0 x v hr]
          rfl
        · rw [if_neg (fun h => hx h.1)]
          exact sget_sset_other m 0 0 a x v hx hr
      · rw [if_neg hk]
        exact step m hr (by simp [hk])

end Sys2Proof.Machine
end

