-- ==== Sys2Proof/Laws/Raise.lean ====
section
/-!
SUPPORT. What raising a cause, counting and logging change while no event probe is armed: registers, MSI-X state and
what is driven outward, and among the registers only those named and the two EVT.VINSVC.
-/

namespace Sys2Proof

open Sys2Proof.Machine

/-! ## States that differ in registers, MSI-X and the wire alone -/

theorem SameBut.refl (s : State) : SameBut s s := ⟨s.regs, s.msix, s.wire, rfl⟩

theorem SameBut.trans {s t u : State} (h : SameBut s t) (g : SameBut t u) : SameBut s u := by
  obtain ⟨r, m, w, rfl⟩ := h
  obtain ⟨r', m', w', rfl⟩ := g
  exact ⟨r', m', w', rfl⟩

theorem sameBut_setReg (s : State) (a : Nat) (v : Word) : SameBut s (s.setReg a v) := ⟨_, s.msix, s.wire, rfl⟩

theorem sameBut_put (s : State) (a : Nat) (f : Fld) (v : Nat) : SameBut s (s.put a f v) := sameBut_setReg s a _

theorem sameBut_ite {c : Prop} [Decidable c] {s t u : State} (ht : SameBut s t) (hu : SameBut s u) :
    SameBut s (if c then t else u) := by
  split <;> assumption

theorem SameBut.mem {s t : State} (h : SameBut s t) : t.mem = s.mem := by
  obtain ⟨r, m, w, rfl⟩ := h
  rfl

theorem SameBut.poison {s t : State} (h : SameBut s t) : t.poison = s.poison := by
  obtain ⟨r, m, w, rfl⟩ := h
  rfl

theorem SameBut.hostMem {s t : State} (h : SameBut s t) : t.hostMem = s.hostMem := by
  obtain ⟨r, m, w, rfl⟩ := h
  rfl

theorem SameBut.hostPoison {s t : State} (h : SameBut s t) : t.hostPoison = s.hostPoison := by
  obtain ⟨r, m, w, rfl⟩ := h
  rfl

theorem SameBut.cores {s t : State} (h : SameBut s t) : t.cores = s.cores := by
  obtain ⟨r, m, w, rfl⟩ := h
  rfl

theorem SameBut.clusters {s t : State} (h : SameBut s t) : t.clusters = s.clusters := by
  obtain ⟨r, m, w, rfl⟩ := h
  rfl

theorem SameBut.slots {s t : State} (h : SameBut s t) : t.slots = s.slots := by
  obtain ⟨r, m, w, rfl⟩ := h
  rfl

theorem SameBut.vats {s t : State} (h : SameBut s t) : t.vats = s.vats := by
  obtain ⟨r, m, w, rfl⟩ := h
  rfl

theorem SameBut.areas {s t : State} (h : SameBut s t) : t.areas = s.areas := by
  obtain ⟨r, m, w, rfl⟩ := h
  rfl

theorem SameBut.casks {s t : State} (h : SameBut s t) : t.casks = s.casks := by
  obtain ⟨r, m, w, rfl⟩ := h
  rfl

theorem SameBut.flushing {s t : State} (h : SameBut s t) : t.flushing = s.flushing := by
  obtain ⟨r, m, w, rfl⟩ := h
  rfl

theorem SameBut.probes {s t : State} (h : SameBut s t) : t.probes = s.probes := by
  obtain ⟨r, m, w, rfl⟩ := h
  rfl

theorem SameBut.skew {s t : State} (h : SameBut s t) : t.skew = s.skew := by
  obtain ⟨r, m, w, rfl⟩ := h
  rfl

theorem SameBut.sec {s t : State} (h : SameBut s t) : t.sec = s.sec := by
  obtain ⟨r, m, w, rfl⟩ := h
  rfl

theorem SameBut.scrubs {s t : State} (h : SameBut s t) : t.scrubs = s.scrubs := by
  obtain ⟨r, m, w, rfl⟩ := h
  rfl

theorem SameBut.cls {s t : State} (h : SameBut s t) : t.cls = s.cls := by
  obtain ⟨r, m, w, rfl⟩ := h
  rfl

theorem SameBut.plyIn {s t : State} (h : SameBut s t) : t.plyIn = s.plyIn := by
  obtain ⟨r, m, w, rfl⟩ := h
  rfl

theorem SameBut.plays {s t : State} (h : SameBut s t) : t.plays = s.plays := by
  obtain ⟨r, m, w, rfl⟩ := h
  rfl

theorem SameBut.srtp {s t : State} (h : SameBut s t) : t.srtp = s.srtp := by
  obtain ⟨r, m, w, rfl⟩ := h
  rfl

theorem SameBut.tdms {s t : State} (h : SameBut s t) : t.tdms = s.tdms := by
  obtain ⟨r, m, w, rfl⟩ := h
  rfl

theorem SameBut.egMarks {s t : State} (h : SameBut s t) : t.egMarks = s.egMarks := by
  obtain ⟨r, m, w, rfl⟩ := h
  rfl

theorem SameBut.rehomes {s t : State} (h : SameBut s t) : t.rehomes = s.rehomes := by
  obtain ⟨r, m, w, rfl⟩ := h
  rfl

theorem SameBut.evacs {s t : State} (h : SameBut s t) : t.evacs = s.evacs := by
  obtain ⟨r, m, w, rfl⟩ := h
  rfl

theorem SameBut.wdns {s t : State} (h : SameBut s t) : t.wdns = s.wdns := by
  obtain ⟨r, m, w, rfl⟩ := h
  rfl

theorem SameBut.dvfs {s t : State} (h : SameBut s t) : t.dvfs = s.dvfs := by
  obtain ⟨r, m, w, rfl⟩ := h
  rfl

theorem SameBut.thermal {s t : State} (h : SameBut s t) : t.thermal = s.thermal := by
  obtain ⟨r, m, w, rfl⟩ := h
  rfl

theorem SameBut.sleep {s t : State} (h : SameBut s t) : t.sleep = s.sleep := by
  obtain ⟨r, m, w, rfl⟩ := h
  rfl

theorem SameBut.package {s t : State} (h : SameBut s t) : t.package = s.package := by
  obtain ⟨r, m, w, rfl⟩ := h
  rfl

theorem SameBut.wdt {s t : State} (h : SameBut s t) : t.wdt = s.wdt := by
  obtain ⟨r, m, w, rfl⟩ := h
  rfl

theorem SameBut.clockwork {s t : State} (h : SameBut s t) : t.clockwork = s.clockwork := by
  obtain ⟨r, m, w, rfl⟩ := h
  rfl

theorem SameBut.wdWarned {s t : State} (h : SameBut s t) : t.wdWarned = s.wdWarned := by
  obtain ⟨r, m, w, rfl⟩ := h
  rfl

theorem SameBut.macs {s t : State} (h : SameBut s t) : t.macs = s.macs := by
  obtain ⟨r, m, w, rfl⟩ := h
  rfl

theorem SameBut.txSends {s t : State} (h : SameBut s t) : t.txSends = s.txSends := by
  obtain ⟨r, m, w, rfl⟩ := h
  rfl

theorem SameBut.dmas {s t : State} (h : SameBut s t) : t.dmas = s.dmas := by
  obtain ⟨r, m, w, rfl⟩ := h
  rfl

theorem SameBut.press {s t : State} (h : SameBut s t) : t.press = s.press := by
  obtain ⟨r, m, w, rfl⟩ := h
  rfl

theorem SameBut.tbs {s t : State} (h : SameBut s t) : t.tbs = s.tbs := by
  obtain ⟨r, m, w, rfl⟩ := h
  rfl

theorem SameBut.freeCount {s t : State} (h : SameBut s t) : t.freeCount = s.freeCount := by
  obtain ⟨r, m, w, rfl⟩ := h
  rfl

theorem SameBut.pending {s t : State} (h : SameBut s t) : t.pending = s.pending := by
  obtain ⟨r, m, w, rfl⟩ := h
  rfl

theorem SameBut.txBufs {s t : State} (h : SameBut s t) : t.txBufs = s.txBufs := by
  obtain ⟨r, m, w, rfl⟩ := h
  rfl

theorem SameBut.quiet {s t : State} (h : SameBut s t) (q : Quiet s) : Quiet t := by
  unfold Quiet at *
  rw [h.probes]
  exact q

/-! ## Delivery (R335) -/

/-- The two registers that delivery writes (R335). -/
theorem service_reg (v : Nat) (hv : v < 64) : EVT.VINSVC (v / 32) = EVT.VINSVC 0 ∨ EVT.VINSVC (v / 32) = EVT.VINSVC 1 := by
  rcases Nat.lt_or_ge v 32 with h | h
  · left
    rw [Nat.div_eq_of_lt h]
  · right
    have : v / 32 = 1 := by omega
    rw [this]

theorem sameBut_deliver (s : State) (v : Nat) : SameBut s (s.deliver v) := by
  unfold State.deliver
  split
  · split
    · exact SameBut.refl s
    · split
      · exact ⟨s.regs, _, s.wire, rfl⟩
      · refine SameBut.trans ?_ (sameBut_put _ _ _ _)
        exact ⟨s.regs, _, _, rfl⟩
  · exact ⟨s.regs, _, s.wire, rfl⟩

theorem deliver_regs {s : State} (hr : srising s.regs = true) (v : Nat) (hv : v < 64) :
    srising (s.deliver v).regs = true ∧
      ∀ b, b ≠ EVT.VINSVC 0 → b ≠ EVT.VINSVC 1 → (s.deliver v).reg b = s.reg b := by
  unfold State.deliver
  split
  · split
    · exact ⟨hr, fun _ _ _ => rfl⟩
    · split
      · exact ⟨hr, fun _ _ _ => rfl⟩
      · unfold State.setService
        generalize hu : (State.emit _ _ : State) = u
        have hu' : u.regs = s.regs := by rw [← hu]; rfl
        have hv' : srising u.regs = true := by rw [hu']; exact hr
        refine ⟨srising_put hv' _ _ _, fun b h0 h1 => ?_⟩
        rw [reg_put hv', if_neg]
        · unfold State.reg
          rw [hu']
        · intro h
          rcases service_reg v hv with e | e
          · exact h0 (h.trans e)
          · exact h1 (h.trans e)
  · exact ⟨hr, fun _ _ _ => rfl⟩

theorem settle_all (l : List Nat) (hl : ∀ v ∈ l, v < 64) : ∀ s : State, srising s.regs = true →
    SameBut s (each s l State.deliver) ∧ srising (each s l State.deliver).regs = true ∧
      ∀ b, b ≠ EVT.VINSVC 0 → b ≠ EVT.VINSVC 1 → (each s l State.deliver).reg b = s.reg b := by
  induction l with
  | nil => intro s hr; exact ⟨SameBut.refl s, hr, fun _ _ _ => rfl⟩
  | cons v l ih =>
    intro s hr
    have hd := deliver_regs hr v (hl v (List.mem_cons_self ..))
    obtain ⟨i1, i2, i3⟩ := ih (fun x hx => hl x (List.mem_cons_of_mem _ hx)) (s.deliver v) hd.1
    exact ⟨(sameBut_deliver s v).trans i1, i2, fun b h0 h1 => (i3 b h0 h1).trans (hd.2 b h0 h1)⟩

theorem drivePins_same (s : State) : ∃ m w, s.drivePins = { s with msix := m, wire := w } := by
  have one : ∀ (u : State) (k : Fin 2), ∃ m w, u.drivePin k = { u with msix := m, wire := w } := by
    intro u k
    unfold State.drivePin
    split
    · exact ⟨_, _, rfl⟩
    · exact ⟨_, _, rfl⟩
  unfold State.drivePins
  split
  · exact ⟨_, _, rfl⟩
  · obtain ⟨m, w, h⟩ := one s 0
    obtain ⟨m', w', h'⟩ := one (s.drivePin 0) 1
    rw [h', h]
    exact ⟨m', w', rfl⟩

theorem settle_keeps {s : State} (hr : srising s.regs = true) :
    SameBut s s.settle ∧ srising s.settle.regs = true ∧
      ∀ b, b ≠ EVT.VINSVC 0 → b ≠ EVT.VINSVC 1 → s.settle.reg b = s.reg b := by
  have pins : ∀ u : State, SameBut s u → srising u.regs = true →
      (∀ b, b ≠ EVT.VINSVC 0 → b ≠ EVT.VINSVC 1 → u.reg b = s.reg b) →
      SameBut s u.drivePins ∧ srising u.drivePins.regs = true ∧
        ∀ b, b ≠ EVT.VINSVC 0 → b ≠ EVT.VINSVC 1 → u.drivePins.reg b = s.reg b := by
    intro u h1 h2 h3
    obtain ⟨m, w, h⟩ := drivePins_same u
    rw [h]
    exact ⟨h1.trans ⟨⟨_, _, _, rfl⟩⟩, h2, h3⟩
  unfold State.settle
  split
  · obtain ⟨h1, h2, h3⟩ := settle_all _ (fun v hv => List.mem_range.mp hv) s hr
    exact pins _ h1 h2 h3
  · exact pins s (SameBut.refl s) hr fun _ _ _ => rfl

theorem sameBut_settle {s : State} (hr : srising s.regs = true) : SameBut s s.settle := (settle_keeps hr).1

theorem srising_settle {s : State} (hr : srising s.regs = true) : srising s.settle.regs = true := (settle_keeps hr).2.1

/-- Delivery writes the in-service registers alone. -/
theorem reg_settle {s : State} (hr : srising s.regs = true) (b : Nat) (h0 : b ≠ EVT.VINSVC 0) (h1 : b ≠ EVT.VINSVC 1) :
    s.settle.reg b = s.reg b := (settle_keeps hr).2.2 b h0 h1

/-! ## Causes while the part is quiet -/

theorem edges_quiet {s t : State} (q : Quiet t) (r : State → Nat → Fld → State) : s.edges t r = t := by
  unfold State.edges
  rw [if_neg]
  rw [q]
  decide

theorem raiseN_quiet {s : State} (q : Quiet s) (hr : srising s.regs = true) (k a : Nat) (f : Fld) :
    State.raiseN k s a f = (s.put a f 1).settle := by
  cases k with
  | zero => rfl
  | succ k =>
    unfold State.raiseN
    exact edges_quiet (SameBut.quiet ((sameBut_put s a f 1).trans (sameBut_settle (srising_put hr a f 1))) q) _

/-- Raising a cause sets its bit and delivers. -/
theorem raise_quiet {s : State} (q : Quiet s) (hr : srising s.regs = true) (a : Nat) (f : Fld) :
    s.raise a f = (s.put a f 1).settle := raiseN_quiet q hr 2 a f

theorem sameBut_raise {s : State} (q : Quiet s) (hr : srising s.regs = true) (a : Nat) (f : Fld) :
    SameBut s (s.raise a f) := by
  rw [raise_quiet q hr]
  exact (sameBut_put s a f 1).trans (sameBut_settle (srising_put hr a f 1))

theorem srising_raise {s : State} (q : Quiet s) (hr : srising s.regs = true) (a : Nat) (f : Fld) :
    srising (s.raise a f).regs = true := by
  rw [raise_quiet q hr]
  exact srising_settle (srising_put hr a f 1)

theorem reg_raise {s : State} (q : Quiet s) (hr : srising s.regs = true) (a : Nat) (f : Fld) (b : Nat)
    (h0 : b ≠ EVT.VINSVC 0) (h1 : b ≠ EVT.VINSVC 1) :
    (s.raise a f).reg b = if b = a then fset f (s.reg a) 1 else s.reg b := by
  rw [raise_quiet q hr, reg_settle (srising_put hr a f 1) b h0 h1, reg_put hr]

/-- A change of causes delivered: nothing but delivery is added to it. -/
theorem changed_quiet {s t : State} (q : Quiet t) (hr : srising t.regs = true) : s.changed t = t.settle := by
  unfold State.changed
  exact edges_quiet ((sameBut_settle hr).quiet q) _

/-! ## Counters (R20) -/

theorem sameBut_addCount (s : State) (a n : Nat) : SameBut s (s.addCount a n) :=
  (sameBut_setReg s a _).trans (sameBut_setReg _ (a + 4) _)

theorem srising_addCount {s : State} (hr : srising s.regs = true) (a n : Nat) : srising (s.addCount a n).regs = true :=
  srising_setReg (srising_setReg hr a _) (a + 4) _

theorem reg_addCount {s : State} (hr : srising s.regs = true) (a n b : Nat) (h : b ≠ a) (h4 : b ≠ a + 4) :
    (s.addCount a n).reg b = s.reg b := by
  unfold State.addCount
  rw [reg_wv (srising_wv hr a _), if_neg h4, reg_wv hr, if_neg h]

/-- A counter reads its old value and n more, modulo 2^40. -/
theorem count_addCount {s : State} (hr : srising s.regs = true) (a n : Nat) :
    (s.addCount a n).count a = (s.count a + n) % 2 ^ 40 := by
  have h1 : (s.addCount a n).reg a = BitVec.ofNat 32 ((s.count a + n) % 2 ^ 32) := by
    unfold State.addCount
    rw [reg_wv (srising_wv hr a _), if_neg (by omega), reg_wv hr, if_pos rfl]
  have h2 : (s.addCount a n).reg (a + 4) = BitVec.ofNat 32 ((s.count a + n) / 2 ^ 32 % 256) := by
    unfold State.addCount
    rw [reg_wv (srising_wv hr a _), if_pos rfl]
  generalize hc : s.count a + n = c at *
  unfold State.count State.rv
  rw [h1, h2]
  simp only [BitVec.toNat_ofNat]
  omega

theorem sameBut_bumpBy {s : State} (q : Quiet s) (hr : srising s.regs = true) (ctr n evt : Nat) (f : Fld) :
    SameBut s (s.bumpBy ctr n evt f) := by
  unfold State.bumpBy
  split
  · exact (sameBut_addCount s ctr n).trans
      (sameBut_raise ((sameBut_addCount s ctr n).quiet q) (srising_addCount hr ctr n) evt f)
  · exact sameBut_addCount s ctr n

theorem srising_bumpBy {s : State} (q : Quiet s) (hr : srising s.regs = true) (ctr n evt : Nat) (f : Fld) :
    srising (s.bumpBy ctr n evt f).regs = true := by
  unfold State.bumpBy
  split
  · exact srising_raise ((sameBut_addCount s ctr n).quiet q) (srising_addCount hr ctr n) evt f
  · exact srising_addCount hr ctr n

/-- Counting leaves every register but the counter, its cause and the in-service registers. -/
theorem reg_bumpBy {s : State} (q : Quiet s) (hr : srising s.regs = true) (ctr n evt : Nat) (f : Fld) (b : Nat)
    (h0 : b ≠ EVT.VINSVC 0) (h1 : b ≠ EVT.VINSVC 1) (hc : b ≠ ctr) (hc4 : b ≠ ctr + 4) (he : b ≠ evt) :
    (s.bumpBy ctr n evt f).reg b = s.reg b := by
  unfold State.bumpBy
  split
  · rw [reg_raise ((sameBut_addCount s ctr n).quiet q) (srising_addCount hr ctr n) evt f b h0 h1, if_neg he,
      reg_addCount hr ctr n b hc hc4]
  · exact reg_addCount hr ctr n b hc hc4

/-- A counter counts. -/
theorem count_bumpBy {s : State} (q : Quiet s) (hr : srising s.regs = true) (ctr n evt : Nat) (f : Fld)
    (h0 : ctr ≠ EVT.VINSVC 0) (h1 : ctr ≠ EVT.VINSVC 1) (g0 : ctr + 4 ≠ EVT.VINSVC 0) (g1 : ctr + 4 ≠ EVT.VINSVC 1)
    (he : evt ≠ ctr) (he4 : evt ≠ ctr + 4) : (s.bumpBy ctr n evt f).count ctr = (s.count ctr + n) % 2 ^ 40 := by
  unfold State.bumpBy
  split
  · rw [← count_addCount hr ctr n]
    have q' := (sameBut_addCount s ctr n).quiet q
    have r' := srising_addCount hr ctr n
    unfold State.count State.rv
    rw [reg_raise q' r' evt f ctr h0 h1, if_neg (Ne.symm he), reg_raise q' r' evt f (ctr + 4) g0 g1,
      if_neg (Ne.symm he4)]
  · exact count_addCount hr ctr n

end Sys2Proof
end

