-- ==== Sys2Proof/Laws/Issue.lean ====
section
/-!
SUPPORT. What a bundle of one instruction does: the shared lemma of every core instruction that stands alone.
-/

namespace Sys2Proof

open Sys2Proof.Machine

/-! ## What a bundle counts -/

/-- A state reached by counting: only registers of the bundle, MSI-X and the wire differ. -/
structure Counted (n k : Nat) (s t : State) : Prop where
  same : SameBut s t
  rising : srising t.regs = true
  regs : ∀ b, bundleRegs n k b = false → t.reg b = s.reg b

theorem Counted.refl {n k : Nat} {s : State} (hr : srising s.regs = true) : Counted n k s s :=
  ⟨SameBut.refl s, hr, fun _ _ => rfl⟩

/-- One of the bundle's counters rises, or stays where it has nothing to count. -/
theorem Counted.up {n k : Nat} {s t : State} (h : Counted n k s t) (q : Quiet s) (a v : Nat)
    (ha : a ∈ bundleCounters n k) :
    Counted n k s (if v = 0 then t else t.bumpBy a v (WS.EVT n) F.WS_EVT_TCNT) := by
  split
  · exact h
  · have q' := h.same.quiet q
    refine ⟨h.same.trans (sameBut_bumpBy q' h.rising _ _ _ _), srising_bumpBy q' h.rising _ _ _ _, fun b hb => ?_⟩
    have hb' := hb
    unfold bundleRegs at hb
    simp only [Bool.or_eq_false_iff, beq_eq_false_iff_ne, ne_eq, List.any_eq_false] at hb
    obtain ⟨⟨⟨h1, h2⟩, h3⟩, h4⟩ := hb
    have h5 := h1 a ha
    simp only [Bool.or_eq_true, beq_iff_eq, not_or] at h5
    rw [reg_bumpBy q' h.rising _ _ _ _ b h3 h4 h5.1 h5.2 h2]
    exact h.regs b hb'

theorem counted_countBundle {s : State} (q : Quiet s) (hr : srising s.regs = true) (n k : Nat) (c : Costs) :
    Counted n k s (s.countBundle n k c) := by
  unfold State.countBundle
  dsimp only
  refine Counted.up ?_ q _ _ (by simp [bundleCounters])
  refine Counted.up ?_ q _ _ (by simp [bundleCounters])
  refine Counted.up ?_ q _ _ (by simp [bundleCounters])
  refine Counted.up ?_ q _ _ (by simp [bundleCounters])
  refine Counted.up ?_ q _ _ (by simp [bundleCounters])
  refine Counted.up ?_ q _ _ (by simp [bundleCounters])
  refine Counted.up ?_ q _ _ (by simp [bundleCounters])
  refine Counted.up ?_ q _ _ (by simp [bundleCounters])
  exact Counted.refl hr

/-! ## Cores -/

theorem core_setCore {s : State} (hc : srising s.cores = true) (n k m j : Nat) (c : Core) :
    (s.setCore n k c).core m j = if 12 * m + j = 12 * n + k then c else s.core m j := by
  unfold State.core State.setCore
  split
  · rename_i h
    rw [h]
    exact sget_sset_same s.cores Core.init _ c hc
  · rename_i h
    exact sget_sset_other s.cores Core.init Core.init _ _ c h hc

/-! ## A bundle of one instruction -/

/-- The core after a bundle of one instruction that executes: `ms` and `es` are what its access and its control effect
write, `cs` the address and word of its C-stream read. -/
def soloCore (q : Pend) (ms es : List (CReg × BitVec 72)) (cs : Option (Nat × Nat)) (c : Core) : Core :=
  let mac := q.mac.toList.map (fun m => m.results c (m.operand (match cs with | some w => w.2 | none => 0)))
  let stream : List (CReg × BitVec 72) := match cs with | some _ => [(.p 15, (c.postMod 15 8).setWidth 72)] | none => []
  let c1 := (q.writes ++ ms ++ es ++ stream ++ mac.flatMap (·.1)).foldl (fun (u : Core) w => u.write w.1 w.2) c
  let stat := c1.stat ||| (if q.av || mac.any (·.2) then 0x80 else 0) ||| (if q.sv then 0x40 else 0)
  ({ c1 with stat := stat } : Core).advance q.ctl c.pc.toNat c.pc.toNat

theorem ctlOf_solo {q : Pend} (on : q.on = true) : ctlOf [q] = q.ctl := by
  unfold ctlOf
  cases h : q.ctl <;> simp [on, h]

theorem memOps_solo {q : Pend} (on : q.on = true) : memOps [q] = q.mem.toList := by
  unfold memOps
  cases h : q.mem <;> simp [on, h]

theorem costs_pos (k : Costs) : 1 ≤ k.total := by
  unfold Costs.total
  omega

theorem macs_solo (q : Pend) : ([q] : List Pend).filterMap (·.mac) = q.mac.toList := by
  cases h : q.mac <;> simp [List.filterMap, h]

theorem writes_solo (q : Pend) : ([q] : List Pend).flatMap (·.writes) = q.writes := by
  simp

/-- A bundle of one instruction takes effect: its core as soloCore says, what its control effect does outside, and counting. -/
theorem commit_solo {s e : State} {n k : Nat} {q : Pend} {a : Access} {cs : Option (Nat × Nat)}
    {es : List (CReg × BitVec 72)} (on : q.on = true) (hret : q.ctl ≠ some .ret)
    (he : (match q.ctl with
      | some y => a.s.ctlEffect n k ((s.core n k).pc.toNat + 4) y
      | none => (a.s, [])) = (e, es)) :
    ∃ c3 : Core, ∃ z : Costs, s.commitBundle n k [q] a cs = ((e.draw 3).setCore n k c3).countBundle n k z ∧
      c3.arch = (soloCore q a.writes es cs (s.core n k)).arch ∧ c3.bundle = [] ∧
      c3.cyc = BitVec.ofNat 32 (min 0xFFFFFFFF ((s.core n k).cyc.toNat + z.total)) := by
  unfold State.commitBundle
  extract_lets c on' at_ last z x e' mac stream writes c1 av sv stat late used c2 c3 s1
  have hon : on' = [q] := by
    show ([q] : List Pend).filter _ = _
    simp [on]
  have hx : x = q.ctl := by
    show ctlOf [q] = _
    rw [ctlOf_solo on]
  have hlast : last = (s.core n k).pc.toNat := by
    rfl
  have he' : e' = (e, es) := by
    rw [← he]
    show (match x with
      | some y => a.s.ctlEffect n k (last + 4) y
      | none => (a.s, [])) = _
    rw [hx, hlast]
  refine ⟨c3, z, ?_, ?_, rfl, rfl⟩
  · have : s1 = ((e.draw 3).setCore n k c3).countBundle n k z := by
      show (((e'.1.draw 3).setCore n k c3).countBundle n k z) = _
      rw [he']
    rw [← this]
    have hy : ∀ y : Option Ctl, y ≠ some .ret → (match y with
        | some .ret => s1.returnItem n k
        | _ => s1) = s1 := by
      intro y hy
      cases y with
      | none => rfl
      | some v => cases v <;> first | rfl | exact absurd rfl hy
    exact hy x (by rw [hx]; exact hret)
  · have hmac : mac = q.mac.toList.map (fun m => m.results c (m.operand (match cs with | some w => w.2 | none => 0))) := by
      show (on'.filterMap (·.mac)).map _ = _
      rw [hon, macs_solo]
      all_goals rfl
    have hc2 : c2 = soloCore q a.writes es cs c := by
      show ({ c1 with stat := stat } : Core).advance x at_ last = _
      unfold soloCore
      rw [hx, hlast]
      have hw : writes = q.writes ++ a.writes ++ es ++ stream ++ mac.flatMap (·.1) := by
        show on'.flatMap (·.writes) ++ a.writes ++ e'.2 ++ stream ++ mac.flatMap (·.1) = _
        rw [hon, he', writes_solo]
      have hav : av = (q.av || mac.any (·.2)) := by
        show (on'.any (·.av) || mac.any (·.2)) = _
        rw [hon]
        simp
      have hsv : sv = q.sv := by
        show on'.any (·.sv) = _
        rw [hon]
        simp
      have hc1 : c1 = (q.writes ++ a.writes ++ es ++ stream ++ mac.flatMap (·.1)).foldl (fun (u : Core) w => u.write w.1 w.2) c := by
        show writes.foldl _ c = _
        rw [hw]
      show ({ c1 with stat := c1.stat ||| (if av then 0x80 else 0) ||| (if sv then 0x40 else 0) } : Core).advance q.ctl _ _ = _
      rw [hav, hsv, hc1, hmac]
      all_goals rfl
    show ({ c2 with cyc := _, bundle := _, loadLate := _, accLate := _, outLoads := _, lcache := _, stepping := _ } : Core).arch = _
    rw [hc2]
    rfl

/-- A state that differs from another at one core's place, in registers that a bundle may change, MSI-X, the wire and the
free-value counter alone. -/
structure Beside (n k : Nat) (u e : State) : Prop where
  others : ∀ m j, 12 * m + j ≠ 12 * n + k → e.core m j = u.core m j
  regs : ∀ b, bundleRegs n k b = false → e.reg b = u.reg b
  rest : ∃ r c m w x, e = { u with regs := r, cores := c, msix := m, wire := w, freeCount := x }

/-- From what a bundle of one instruction does to what Ran says. -/
theorem ran_of_solo {s u e : State} {h : Head} {c3 : Core} {z : Costs} {f : Core → Core} (qe : Quiet e)
    (hr : srising e.regs = true) (hc : srising e.cores = true) (hb : Beside h.cl.val h.t.val u e)
    (time : (coreAt h s).cyc.toNat < (coreAt h s).ilim.toNat) (ha : c3.arch = (f (coreAt h s)).arch)
    (hbun : c3.bundle = []) (hcyc : c3.cyc = BitVec.ofNat 32 (min 0xFFFFFFFF ((coreAt h s).cyc.toNat + z.total))) :
    Ran h s u (((e.draw 3).setCore h.cl.val h.t.val c3).countBundle h.cl.val h.t.val z) f := by
  have hd := counted_countBundle (s := (e.draw 3).setCore h.cl.val h.t.val c3) (by exact qe) (by exact hr)
    h.cl.val h.t.val z
  have hcore : coreAt h (((e.draw 3).setCore h.cl.val h.t.val c3).countBundle h.cl.val h.t.val z) = c3 := by
    unfold coreAt State.core
    rw [hd.same.cores]
    have := core_setCore (s := e.draw 3) (by exact hc) h.cl.val h.t.val h.cl.val h.t.val c3
    rw [if_pos rfl] at this
    exact this
  refine ⟨?_, ?_, ?_, ?_, ?_, ?_⟩
  · rw [hcore]
    exact ha
  · rw [hcore]
    exact hbun
  · rw [hcore, hcyc]
    have h1 := costs_pos z
    have h2 := (coreAt h s).ilim.isLt
    rw [BitVec.toNat_ofNat, Nat.mod_eq_of_lt (by omega)]
    omega
  · intro m j hne
    rw [← hb.others m j hne]
    unfold State.core
    rw [hd.same.cores]
    have := core_setCore (s := e.draw 3) (by exact hc) h.cl.val h.t.val m j c3
    rw [if_neg hne] at this
    exact this
  · intro b hbr
    rw [hd.regs b hbr]
    exact hb.regs b hbr
  · obtain ⟨r, c, m, w, x, rfl⟩ := hb.rest
    obtain ⟨r', m', w', hw⟩ := hd.same.rest
    exact ⟨_, _, _, _, _, hw⟩

/-! ## Issue -/

theorem setCore_same {s : State} (hc : swf (fun _ => Core.init) s.cores = true) (n k : Nat) :
    s.setCore n k (s.core n k) = s := by
  have h := sset_same Core.init s.cores (12 * n + k) hc
  unfold State.setCore State.core
  rw [h]

theorem cached_flat {c : Core} (flat : c.depth = 0) (a l : Nat) : c.cached a l = false := by
  unfold Core.cached
  rw [flat]
  cases c.lcache with
  | none => rfl
  | some x => simp [openLevels]

/-- The word of an instruction alone is fetched without a finding. -/
theorem fetch_solo {s : State} {i : Instr} {h : Head} (al : Alone i h s) :
    s.fetchWord h.cl.val h.t.val (coreAt h s).pc.toNat .ok = (s, false) := by
  unfold State.fetchWord
  have h1 := cached_flat al.flat (coreAt h s).pc.toNat (coreAt h s).pc.toNat
  have h2 := al.sound
  unfold coreAt at *
  dsimp only
  rw [h1, h2]
  rfl

theorem issue_solo {s : State} {i : Instr} {h : Head} (al : Alone i h s) (inv : Canon s) (p : Core → Pend)
    (hi : (p (coreAt h s)).illegal = false) :
    s.issue i h p = s.runBundle h.cl.val h.t.val [p (coreAt h s)] true .ok := by
  have hb := al.first
  have hpc : (coreAt h s).pc.toNat + 4 * (coreAt h s).bundle.length = (coreAt h s).pc.toNat := by
    rw [hb]
    rfl
  have hf := fetch_solo al
  have hw := al.word
  have he := al.ends
  have hl := al.legal
  have h0 : ({ coreAt h s with bundle := [] } : Core) = coreAt h s := by
    rw [← hb]
  have hs : s.setCore h.cl.val h.t.val (coreAt h s) = s := setCore_same inv.cores _ _
  have hq : ({ p (coreAt h s) with illegal := false } : Pend) = p (coreAt h s) := by
    rw [← hi]
  have h1 := al.runs
  have h2 : ¬(coreAt h s).ilim.toNat ≤ (coreAt h s).cyc.toNat := Nat.not_le.mpr al.time
  have h3 := al.low
  have h4 := al.high
  unfold fetched at hw
  unfold State.issue
  unfold coreAt at *
  dsimp only
  rw [hpc, al.clean.1, al.clean.2.1, hf, he, hl, hi, hw, h1, hb, h0, hs]
  dsimp only
  rw [if_neg (by simp), if_neg (by simp [h2]), if_neg (by omega), if_neg (by simp), if_neg (by simp), if_pos (by simp)]
  simp only [Bool.not_true, Bool.false_and, Bool.or_false, List.nil_append]
  rw [hq]

/-- What the instruction of a bundle of one must be for the bundle to take effect. -/
structure Fit (h : Head) (s : State) (q : Pend) : Prop where
  on : q.on = true
  illegal : q.illegal = false
  nesting : q.nesting = false
  loopFits : ∀ b m, q.ctl = some (.loop b m) → (coreAt h s).pc.toNat + 4 + 4 * b < 0x60000
  reach : ∀ x, q.ctl = some x → s.ctlUnreached h.cl.val x = none
  stream : ∀ m, q.mac = some m → m.cs.isSome = true → q.dests.contains (.p 15) = false

theorem slotsBad_solo (q : Pend) (hs : ∀ m, q.mac = some m → m.cs.isSome = true → q.dests.contains (.p 15) = false) :
    slotsBad [q] true = false := by
  unfold slotsBad usesStream clashes clashes
  simp only [List.filter_cons, List.filter_nil, List.any_cons, List.any_nil, Bool.or_false]
  cases hm : q.mac with
  | none => cases q.cls <;> simp
  | some m =>
    have h2 := hs m hm
    cases hcs : m.cs.isSome
    · cases q.cls <;> simp [hcs]
    · have h3 := h2 hcs
      have h4 : (CReg.p 15) ∉ q.dests := by simpa using h3
      cases q.cls <;> simp [h4]

theorem fault_solo {s : State} {i : Instr} {h : Head} {q : Pend} (al : Alone i h s) (ft : Fit h s q) :
    s.bundleFault h.cl.val h.t.val [q] true = none := by
  unfold State.bundleFault
  have h1 := al.low
  have h2 := al.high
  have h3 := ctlOf_solo ft.on
  have hloop : loopTooLong [q] ((coreAt h s).pc.toNat + 4) = false := by
    unfold loopTooLong
    rw [h3]
    cases hq : q.ctl with
    | none => rfl
    | some x =>
      cases x with
      | loop b m =>
        have := ft.loopFits b m hq
        simp only [decide_eq_false_iff_not, Nat.not_le]
        exact this
      | _ => rfl
  have hu : (match q.ctl with
      | some x => (match s.ctlUnreached h.cl.val x with
        | some d => some (3, d)
        | none => none)
      | none => none) = (none : Option (Nat × Nat)) := by
    cases hq : q.ctl with
    | none => rfl
    | some x =>
      simp only [ft.reach x hq]
  dsimp only [List.length_singleton, Nat.sub_self, Nat.mul_zero, Nat.add_zero, Nat.mul_one]
  unfold coreAt at *
  rw [if_neg (by rw [hloop]; simp), if_neg (by rw [slotsBad_solo q ft.stream]; simp [ft.illegal]),
    if_neg (by simp [ft.nesting]), h3]
  exact hu

/-- A bundle of one instruction takes effect where its accesses do. -/
theorem run_solo {s : State} {i : Instr} {h : Head} {q : Pend} (al : Alone i h s) (ft : Fit h s q) {a : Access}
    {cs : Option (Nat × Nat)}
    (ha : s.bundleAccess h.cl.val h.t.val (bits (coreAt h s).ctrl.toNat 25 16) (coreAt h s).p[15].toNat q.mem.toList
      (usesStream [q]) .ok = (a, cs)) (hx : a.exc = none) :
    s.runBundle h.cl.val h.t.val [q] true .ok = s.commitBundle h.cl.val h.t.val [q] a cs := by
  have hb := al.closed
  have hon : ([q] : List Pend).filter (·.on) = [q] := by simp [ft.on]
  unfold State.runBundle
  unfold coreAt at *
  rw [fault_solo al ft]
  dsimp only
  rw [if_neg (by unfold State.breaks; simp [hb]), memOps_solo ft.on, hon, ha]
  dsimp only
  rw [hx]

/-- What a bundle of one instruction does, where `e` is the state with its access and its control effect done and `es` what
the control effect writes. -/
theorem issue_ran {s e : State} {i : Instr} {h : Head} {p : Core → Pend} (al : Alone i h s) (inv : Canon s)
    (ft : Fit h s (p (coreAt h s))) {a : Access} {cs : Option (Nat × Nat)}
    (ha : s.bundleAccess h.cl.val h.t.val (bits (coreAt h s).ctrl.toNat 25 16) (coreAt h s).p[15].toNat
      (p (coreAt h s)).mem.toList (usesStream [p (coreAt h s)]) .ok = (a, cs)) (hx : a.exc = none)
    (hret : (p (coreAt h s)).ctl ≠ some .ret) {es : List (CReg × BitVec 72)}
    (he : (match (p (coreAt h s)).ctl with
      | some y => a.s.ctlEffect h.cl.val h.t.val ((coreAt h s).pc.toNat + 4) y
      | none => (a.s, [])) = (e, es))
    (qe : Quiet e) (hr : srising e.regs = true) (hc : srising e.cores = true) :
    Ran h s e (s.issue i h p) (soloCore (p (coreAt h s)) a.writes es cs) := by
  rw [issue_solo al inv p ft.illegal, run_solo al ft ha hx]
  obtain ⟨c3, z, e1, e2, e3, e4⟩ := commit_solo (s := s) (e := e) (n := h.cl.val) (k := h.t.val) (q := p (coreAt h s))
    (a := a) (cs := cs) (es := es) ft.on hret he
  rw [e1]
  exact ran_of_solo qe hr hc ⟨fun _ _ _ => rfl, fun _ _ => rfl, _, _, _, _, _, rfl⟩ al.time e2 e3 e4

/-- What an instruction without access, C-stream read or outside effect does. -/
theorem issue_plain {s : State} {i : Instr} {h : Head} {p : Core → Pend} (al : Alone i h s) (qs : Quiet s) (inv : Canon s)
    (ft : Fit h s (p (coreAt h s))) (hm : (p (coreAt h s)).mem = none)
    (hs : ∀ m, (p (coreAt h s)).mac = some m → m.cs = none)
    (hx : ∀ x, (p (coreAt h s)).ctl = some x → x ≠ .ret ∧
      ∀ u : State, u.ctlEffect h.cl.val h.t.val ((coreAt h s).pc.toNat + 4) x = (u, [])) :
    RanHere h s (s.issue i h p) (soloCore (p (coreAt h s)) [] [] none) := by
  have hst : usesStream [p (coreAt h s)] = false := by
    unfold usesStream
    cases hq : (p (coreAt h s)).mac with
    | none => simp [hq]
    | some m => simp [hq, hs m hq]
  refine issue_ran (a := ⟨s, [], none⟩) (cs := none) (es := []) al inv ft (by rw [hm, hst]; rfl) rfl ?_ ?_ qs
    (swf_srising inv.regs) (swf_srising inv.cores)
  · intro he
    exact (hx _ he).1 rfl
  · cases hq : (p (coreAt h s)).ctl with
    | none => rfl
    | some x => exact (hx x hq).2 _

/-! ## What the shared shapes of instruction make of their core -/

theorem pass_pc {c : Core} (high : c.pc.toNat ≤ 0x5FFFC) : BitVec.ofNat 32 (c.pc.toNat + 4) = c.pc + 4 := by
  apply BitVec.eq_of_toNat_eq
  rw [BitVec.toNat_ofNat, BitVec.toNat_add]
  rfl

theorem advance_flat {c : Core} (flat : c.depth = 0) (a l : Nat) :
    c.advance none a l = { c with pc := BitVec.ofNat 32 (l + 4) } := by
  unfold Core.advance
  simp only [flat]
  rfl

theorem depth_or (w : Word) (x : Word) (hx : x = 0 ∨ x = 0x80 ∨ x = 0x40 ∨ x = 0xC0) :
    bits (w ||| x).toNat 18 16 = bits w.toNat 18 16 := by
  apply Nat.eq_of_testBit_eq
  intro i
  rw [bits_testBit, bits_testBit, BitVec.toNat_or, Nat.testBit_or]
  by_cases hi : i < 18 + 1 - 16
  · have : x.toNat.testBit (16 + i) = false := by
      have : i = 0 ∨ i = 1 ∨ i = 2 := by omega
      rcases this with rfl | rfl | rfl <;> rcases hx with rfl | rfl | rfl | rfl <;> decide
    rw [this]
    simp
  · simp [hi]

/-- An instruction that writes a G register and perhaps SV. -/
theorem solo_headG {h : Head} {c : Core} (flat : c.depth = 0) (high : c.pc.toNat ≤ 0x5FFFC) (rd : Fin 32)
    (uses : List CReg) (r : Word × Bool) :
    soloCore (headG h c rd uses r) [] [] none c =
      ({ c with g := c.g.set rd r.1, stat := if r.2 then c.stat ||| 0x40 else c.stat } : Core).pass := by
  unfold soloCore headG headPend
  simp only [Option.toList_none, List.map_nil, List.append_nil, List.flatMap_nil, List.any_nil, Bool.or_self,
    List.foldl_cons, List.foldl_nil, Core.write, Bool.false_eq_true, if_false]
  rw [advance_flat]
  · unfold Core.pass
    dsimp only
    rw [pass_pc high]
    have : (r.1.setWidth 72).setWidth 32 = r.1 := by
      rw [BitVec.setWidth_setWidth_of_le _ (by decide)]
      exact BitVec.setWidth_eq _
    rw [this]
    cases r.2 <;> simp
  · show bits _ 18 16 = 0
    rw [← flat]
    unfold Core.depth
    cases r.2
    · simp
    · simpa using depth_or c.stat 0x40 (by simp)

end Sys2Proof
end

