-- ==== Sys2Proof/Laws/Kept.lean ====
section
/-!
SUPPORT. What every operation of the model keeps: the canonical form of registers and memory, and the queue. Here the
operations that write registers and memory; the files Kept<Name> hold one lemma for each operation built on them.
-/

namespace Sys2Proof.Machine

/-- The state's tables are in canonical form, and the queue is q. -/
def Kept (q : List Instr) (s : State) : Prop := Canon s ∧ s.pending = q

theorem Kept.inv {q : List Instr} {s : State} (h : Kept q s) : Canon s := h.1

theorem kept_of_inv {s : State} (h : Canon s) : Kept s.pending s := ⟨h, rfl⟩

/-- What Kept says of the fields. -/
structure Kept3 (q : List Instr) (regs : List (Nat × Word)) (mem : List (Nat × Byte)) (poison : List Nat) (hostMem :
    List (Nat × Byte)) (hostPoison : List Nat) (cores : List (Nat × Core)) (clusters : List (Nat × Cluster)) (slots :
    List (Nat × Slot)) (vats : List (Nat × VatSlot)) (areas : List (Nat × Area)) (casks : List (Nat × Cask)) (probes :
    List (Nat × Probe)) (scrubs : List (Nat × Nat)) (plays : List (Nat × Play)) (cellUse : List Nat) (srtp : List (Nat
    × Srtp)) (txBufs : List (Nat × List Byte)) (tdms : List (Nat × Tdm)) (egMarks : List Nat) (wdns : List (Nat ×
    Wdn)) (macs : List (Nat × Mac)) (txSends : List (Nat × TxSend)) (dmas : List (Nat × Dma)) (press : List (Nat ×
    Press)) (msix : Msix) (pending : List Instr) : Prop where
  c_regs : swf resetOf regs = true
  c_mem : swf (fun _ => (0 : Byte)) mem = true
  c_storable : mem.all (fun e => storable e.1) = true
  c_poison : nrising poison = true
  c_hostMem : swf (fun _ => (0 : Byte)) hostMem = true
  c_hostPoison : nrising hostPoison = true
  c_cores : swf (fun _ => Core.init) cores = true
  c_clusters : swf (fun _ => Cluster.init) clusters = true
  c_slots : swf (fun _ => Slot.init) slots = true
  c_vats : swf (fun _ => VatSlot.init) vats = true
  c_areas : swf (fun _ => Area.none) areas = true
  c_casks : swf (fun _ => Cask.init) casks = true
  c_probes : swf (fun _ => Probe.init) probes = true
  c_scrubs : swf (fun _ => 0) scrubs = true
  c_plays : swf (fun _ => Play.init) plays = true
  c_cellUse : nrising cellUse = true
  c_srtp : srising srtp = true
  c_txBufs : srising txBufs = true
  c_tdms : swf (fun _ => Tdm.init) tdms = true
  c_egMarks : nrising egMarks = true
  c_wdns : swf (fun _ => Wdn.init) wdns = true
  c_macs : swf (fun _ => Mac.init) macs = true
  c_txSends : srising txSends = true
  c_dmas : swf (fun _ => (⟨none⟩ : Dma)) dmas = true
  c_press : swf (fun _ => (⟨none, false⟩ : Press)) press = true
  c_msix : swf (fun _ => MsixEntry.init) msix.entries = true
  c_queue : pending = q

theorem kept_fold {q : List Instr} {s : State} (h : Kept q s) : Kept3 q s.regs s.mem s.poison s.hostMem s.hostPoison
    s.cores s.clusters s.slots s.vats s.areas s.casks s.probes s.scrubs s.plays s.cellUse s.srtp s.txBufs s.tdms
    s.egMarks s.wdns s.macs s.txSends s.dmas s.press s.msix s.pending :=
⟨h.1.regs, h.1.mem, h.1.storable, h.1.poison, h.1.hostMem, h.1.hostPoison, h.1.cores, h.1.clusters, h.1.slots,
    h.1.vats, h.1.areas, h.1.casks, h.1.probes, h.1.scrubs, h.1.plays, h.1.cellUse, h.1.srtp, h.1.txBufs, h.1.tdms,
    h.1.egMarks, h.1.wdns, h.1.macs, h.1.txSends, h.1.dmas, h.1.press, h.1.msix, h.2⟩

theorem kept_unfold {q : List Instr} {s : State} (h : Kept3 q s.regs s.mem s.poison s.hostMem s.hostPoison s.cores
    s.clusters s.slots s.vats s.areas s.casks s.probes s.scrubs s.plays s.cellUse s.srtp s.txBufs s.tdms s.egMarks
    s.wdns s.macs s.txSends s.dmas s.press s.msix s.pending) : Kept q s :=
⟨⟨h.c_regs, h.c_mem, h.c_storable, h.c_poison, h.c_hostMem, h.c_hostPoison, h.c_cores, h.c_clusters, h.c_slots,
    h.c_vats, h.c_areas, h.c_casks, h.c_probes, h.c_scrubs, h.c_plays, h.c_cellUse, h.c_srtp, h.c_txBufs, h.c_tdms,
    h.c_egMarks, h.c_wdns, h.c_macs, h.c_txSends, h.c_dmas, h.c_press, h.c_msix⟩, h.c_queue⟩

/-- A state given by its fields. -/
theorem kept_mk_iff {q : List Instr} {regs : List (Nat × Word)} {mem : List (Nat × Byte)} {poison : List Nat} {hostMem
    : List (Nat × Byte)} {hostPoison : List Nat} {cores : List (Nat × Core)} {clusters : List (Nat × Cluster)} {slots
    : List (Nat × Slot)} {vats : List (Nat × VatSlot)} {areas : List (Nat × Area)} {casks : List (Nat × Cask)}
    {flushing : List (Nat × Nat)} {probes : List (Nat × Probe)} {skew : Option Skew} {sec : Sec} {scrubs : List (Nat ×
    Nat)} {cls : List ClsEntry} {plyIn : List Arrival} {plays : List (Nat × Play)} {cellUse : List Nat} {srtp : List
    (Nat × Srtp)} {txBufs : List (Nat × List Byte)} {tdms : List (Nat × Tdm)} {egMarks : List Nat} {rehomes : List
    Rehome} {evacs : List Evac} {wdns : List (Nat × Wdn)} {dvfs : List DvfsReq} {thermal : Thermal} {sleep : Sleep}
    {package : Package} {wdt : Nat} {clockwork : Clockwork} {wdWarned : Bool} {macs : List (Nat × Mac)} {txSends :
    List (Nat × TxSend)} {dmas : List (Nat × Dma)} {press : List (Nat × Press)} {tbs : Vector TimeBase 4} {msix :
    Msix} {pcie : Pcie} {dieStats : Vector DieStats 2} {freeCount : Nat} {wire : List Out} {pending : List Instr} :
    Kept q (State.mk regs mem poison hostMem hostPoison cores clusters slots vats areas casks flushing probes skew sec
    scrubs cls plyIn plays cellUse srtp txBufs tdms egMarks rehomes evacs wdns dvfs thermal sleep package wdt
    clockwork wdWarned macs txSends dmas press tbs msix pcie dieStats freeCount wire pending) ↔ Kept3 q regs mem
    poison hostMem hostPoison cores clusters slots vats areas casks probes scrubs plays cellUse srtp txBufs tdms
    egMarks wdns macs txSends dmas press msix pending :=
⟨kept_fold, fun h => ⟨⟨h.c_regs, h.c_mem, h.c_storable, h.c_poison, h.c_hostMem, h.c_hostPoison, h.c_cores,
    h.c_clusters, h.c_slots, h.c_vats, h.c_areas, h.c_casks, h.c_probes, h.c_scrubs, h.c_plays, h.c_cellUse, h.c_srtp,
    h.c_txBufs, h.c_tdms, h.c_egMarks, h.c_wdns, h.c_macs, h.c_txSends, h.c_dmas, h.c_press, h.c_msix⟩, h.c_queue⟩⟩

theorem kept_ite {q : List Instr} {c : Prop} [Decidable c] {s t : State} (hs : Kept q s) (ht : Kept q t) :
    Kept q (if c then s else t) := by
  split <;> assumption

theorem kept_ite_fst {q : List Instr} {β : Type} {c : Prop} [Decidable c] {s t : State × β} (hs : Kept q s.1)
    (ht : Kept q t.1) : Kept q (if c then s else t).1 := by
  split <;> assumption

theorem kept_of_fst {q : List Instr} {β : Type} {p : State × β} {a : State} {b : β} (e : p = (a, b)) (h : Kept q p.1) :
    Kept q a := by
  rw [e] at h
  exact h

theorem kept_of_snd {q : List Instr} {β : Type} {p : β × State} {a : State} {b : β} (e : p = (b, a)) (h : Kept q p.2) :
    Kept q a := by
  rw [e] at h
  exact h

theorem kept_mk_fst {q : List Instr} {β : Type} {a : State} {b : β} (h : Kept q a) : Kept q (a, b).1 := h

theorem kept_foldl {q : List Instr} {α : Type} (f : State → α → State) (l : List α) {s : State}
    (hf : ∀ u x, Kept q u → Kept q (f u x)) (h : Kept q s) : Kept q (l.foldl f s) := by
  induction l generalizing s with
  | nil => exact h
  | cons x l ih => exact ih (hf s x h)

theorem kept_foldl_fst {q : List Instr} {α β : Type} (f : State × β → α → State × β) (l : List α) {p : State × β}
    (hf : ∀ u x, Kept q u.1 → Kept q (f u x).1) (h : Kept q p.1) : Kept q (l.foldl f p).1 := by
  induction l generalizing p with
  | nil => exact h
  | cons x l ih => exact ih (hf p x h)

theorem each_kept {q : List Instr} {α : Type} (f : State → α → State) (l : List α) {s : State}
    (hf : ∀ u x, Kept q u → Kept q (f u x)) (h : Kept q s) : Kept q (each s l f) := kept_foldl f l hf h

/-- Every next state that a command answers keeps it. -/
def ResultKept (q : List Instr) (r : Result) : Prop := ∀ t, r = .next t → Kept q t

theorem resultKept_next {q : List Instr} {s : State} (h : Kept q s) : ResultKept q (.next s) := by
  intro t ht
  cases ht
  exact h

theorem resultKept_ite {q : List Instr} {c : Prop} [Decidable c] {r x : Result} (hr : ResultKept q r)
    (hx : ResultKept q x) : ResultKept q (if c then r else x) := by
  split <;> assumption

/-! ## Registers -/

theorem State.setReg_kept {q : List Instr} {s : State} (a : Nat) (v : Word) (h : Kept q s) : Kept q (s.setReg a v) :=
  kept_unfold { kept_fold h with c_regs := swf_sset resetOf s.regs a v h.1.regs }

/-! ## Memory -/

theorem storeBytes_swf (ok : Nat → Bool) (bs : List (Option Byte)) :
    ∀ (a : Nat) (m : List (Nat × Byte)), swf (fun _ => (0 : Byte)) m = true →
      swf (fun _ => (0 : Byte)) (storeBytes ok a bs m) = true := by
  induction bs with
  | nil => intro a m h; exact h
  | cons b bs ih =>
    intro a m h
    simp only [storeBytes]
    apply ih
    cases b with
    | none => exact h
    | some v =>
      dsimp only
      split
      · exact swf_sset (fun _ => (0 : Byte)) m a v h
      · exact h

theorem storeBytes_mem (ok : Nat → Bool) (bs : List (Option Byte)) :
    ∀ (a : Nat) (m : List (Nat × Byte)) (e : Nat × Byte), e ∈ storeBytes ok a bs m → e ∈ m ∨ ok e.1 = true := by
  induction bs with
  | nil => intro a m e h; exact .inl h
  | cons b bs ih =>
    intro a m e h
    simp only [storeBytes] at h
    rcases ih _ _ _ h with h | h
    · cases b with
      | none => exact .inl h
      | some v =>
        dsimp only at h
        split at h
        · rename_i hk
          rcases mem_sset h with ⟨rfl, _⟩ | h
          · exact .inr hk
          · exact .inl h
        · exact .inl h
    · exact .inr h

/-- A byte that a write may store stands where memory can be written (R38, R39). -/
theorem State.storable_of_writable {s : State} {a : Nat} (h : s.writable a = true) : storable a = true := by
  unfold State.writable State.mapped at h
  unfold storable
  generalize placeOf a = p at *
  cases p <;> simp_all

theorem markEgress_nrising (s : State) (ok : Nat → Bool) (bs : List (Option Byte)) :
    ∀ (a : Nat) (m : List Nat), nrising m = true → nrising (s.markEgress ok a bs m) = true := by
  induction bs with
  | nil => intro a m h; exact h
  | cons b bs ih =>
    intro a m h
    simp only [State.markEgress]
    apply ih
    split
    · exact nrising_ins1 _ _ h
    · exact h

/-- Bytes stored where the state lets them keep the form of memory. -/
theorem State.storeBytes_kept {q : List Instr} (s : State) (ok : Nat → Bool) (hok : ∀ x, ok x = true → s.writable x =
    true) (a : Nat) (bs : List (Option Byte)) (h : Kept q s) : Kept3 q s.regs (storeBytes ok a bs s.mem) s.poison
    s.hostMem s.hostPoison s.cores s.clusters s.slots s.vats s.areas s.casks s.probes s.scrubs s.plays s.cellUse
    s.srtp s.txBufs s.tdms s.egMarks s.wdns s.macs s.txSends s.dmas s.press s.msix s.pending := by
  refine { kept_fold h with c_mem := storeBytes_swf _ bs a s.mem h.1.mem, c_storable := ?_ }
  rw [List.all_eq_true]
  intro e he
  rcases storeBytes_mem _ _ _ _ _ he with he | he
  · exact List.all_eq_true.mp h.1.storable e he
  · exact State.storable_of_writable (hok _ he)

theorem State.applies_writable {s : State} {a : Nat} {bs : List (Option Byte)} {x : Nat} (h : s.applies a bs x = true) :
    s.writable x = true := by
  unfold State.applies at h
  rw [Bool.and_eq_true] at h
  exact h.1

/-- Dropping bytes, and marks of poisoned words, keeps the form of memory. -/
theorem kept_drop {q : List Instr} {s : State} (p : Nat × Byte → Bool) (m : Nat → Bool) (h : Kept q s) : Kept3 q
    s.regs (s.mem.filter p) (s.poison.filter m) s.hostMem s.hostPoison s.cores s.clusters s.slots s.vats s.areas
    s.casks s.probes s.scrubs s.plays s.cellUse s.srtp s.txBufs s.tdms s.egMarks s.wdns s.macs s.txSends s.dmas
    s.press s.msix s.pending := by
  refine { kept_fold h with c_mem := swf_filter _ _ _ h.1.mem, c_storable := ?_, c_poison := nrising_filter _ _ h.1.poison }
  rw [List.all_eq_true]
  intro e he
  exact List.all_eq_true.mp h.1.storable e (List.mem_filter.mp he).1

theorem State.zeroRange_kept {q : List Instr} {s : State} (lo hi : Nat) (h : Kept q s) : Kept q (s.zeroRange lo hi) :=
  kept_unfold (s := s.zeroRange lo hi) (kept_drop _ _ h)

/-- Dropping registers keeps their form. -/
theorem kept_filter_regs {q : List Instr} {s : State} (p : Nat × Word → Bool) (h : Kept q s) : Kept3 q (s.regs.filter
    p) s.mem s.poison s.hostMem s.hostPoison s.cores s.clusters s.slots s.vats s.areas s.casks s.probes s.scrubs
    s.plays s.cellUse s.srtp s.txBufs s.tdms s.egMarks s.wdns s.macs s.txSends s.dmas s.press s.msix s.pending :=
  { kept_fold h with c_regs := swf_filter _ _ _ h.1.regs }

/-! ## Tables -/

theorem kept_poison {q : List Instr} {s : State} {l : List Nat} (hl : nrising s.poison = true → nrising l = true) (h :
    Kept q s) : Kept3 q s.regs s.mem l s.hostMem s.hostPoison s.cores s.clusters s.slots s.vats s.areas s.casks
    s.probes s.scrubs s.plays s.cellUse s.srtp s.txBufs s.tdms s.egMarks s.wdns s.macs s.txSends s.dmas s.press s.msix
    s.pending :=
  { kept_fold h with c_poison := hl h.1.poison }

theorem kept_hostMem {q : List Instr} {s : State} {l : List (Nat × Byte)} (hl : swf (fun _ => (0 : Byte)) s.hostMem =
    true → swf (fun _ => (0 : Byte)) l = true) (h : Kept q s) : Kept3 q s.regs s.mem s.poison l s.hostPoison s.cores
    s.clusters s.slots s.vats s.areas s.casks s.probes s.scrubs s.plays s.cellUse s.srtp s.txBufs s.tdms s.egMarks
    s.wdns s.macs s.txSends s.dmas s.press s.msix s.pending :=
  { kept_fold h with c_hostMem := hl h.1.hostMem }

theorem kept_hostPoison {q : List Instr} {s : State} {l : List Nat} (hl : nrising s.hostPoison = true → nrising l =
    true) (h : Kept q s) : Kept3 q s.regs s.mem s.poison s.hostMem l s.cores s.clusters s.slots s.vats s.areas s.casks
    s.probes s.scrubs s.plays s.cellUse s.srtp s.txBufs s.tdms s.egMarks s.wdns s.macs s.txSends s.dmas s.press s.msix
    s.pending :=
  { kept_fold h with c_hostPoison := hl h.1.hostPoison }

theorem kept_cores {q : List Instr} {s : State} {l : List (Nat × Core)} (hl : swf (fun _ => Core.init) s.cores = true
    → swf (fun _ => Core.init) l = true) (h : Kept q s) : Kept3 q s.regs s.mem s.poison s.hostMem s.hostPoison l
    s.clusters s.slots s.vats s.areas s.casks s.probes s.scrubs s.plays s.cellUse s.srtp s.txBufs s.tdms s.egMarks
    s.wdns s.macs s.txSends s.dmas s.press s.msix s.pending :=
  { kept_fold h with c_cores := hl h.1.cores }

theorem kept_clusters {q : List Instr} {s : State} {l : List (Nat × Cluster)} (hl : swf (fun _ => Cluster.init)
    s.clusters = true → swf (fun _ => Cluster.init) l = true) (h : Kept q s) : Kept3 q s.regs s.mem s.poison s.hostMem
    s.hostPoison s.cores l s.slots s.vats s.areas s.casks s.probes s.scrubs s.plays s.cellUse s.srtp s.txBufs s.tdms
    s.egMarks s.wdns s.macs s.txSends s.dmas s.press s.msix s.pending :=
  { kept_fold h with c_clusters := hl h.1.clusters }

theorem kept_slots {q : List Instr} {s : State} {l : List (Nat × Slot)} (hl : swf (fun _ => Slot.init) s.slots = true
    → swf (fun _ => Slot.init) l = true) (h : Kept q s) : Kept3 q s.regs s.mem s.poison s.hostMem s.hostPoison s.cores
    s.clusters l s.vats s.areas s.casks s.probes s.scrubs s.plays s.cellUse s.srtp s.txBufs s.tdms s.egMarks s.wdns
    s.macs s.txSends s.dmas s.press s.msix s.pending :=
  { kept_fold h with c_slots := hl h.1.slots }

theorem kept_vats {q : List Instr} {s : State} {l : List (Nat × VatSlot)} (hl : swf (fun _ => VatSlot.init) s.vats =
    true → swf (fun _ => VatSlot.init) l = true) (h : Kept q s) : Kept3 q s.regs s.mem s.poison s.hostMem s.hostPoison
    s.cores s.clusters s.slots l s.areas s.casks s.probes s.scrubs s.plays s.cellUse s.srtp s.txBufs s.tdms s.egMarks
    s.wdns s.macs s.txSends s.dmas s.press s.msix s.pending :=
  { kept_fold h with c_vats := hl h.1.vats }

theorem kept_areas {q : List Instr} {s : State} {l : List (Nat × Area)} (hl : swf (fun _ => Area.none) s.areas = true
    → swf (fun _ => Area.none) l = true) (h : Kept q s) : Kept3 q s.regs s.mem s.poison s.hostMem s.hostPoison s.cores
    s.clusters s.slots s.vats l s.casks s.probes s.scrubs s.plays s.cellUse s.srtp s.txBufs s.tdms s.egMarks s.wdns
    s.macs s.txSends s.dmas s.press s.msix s.pending :=
  { kept_fold h with c_areas := hl h.1.areas }

theorem kept_casks {q : List Instr} {s : State} {l : List (Nat × Cask)} (hl : swf (fun _ => Cask.init) s.casks = true
    → swf (fun _ => Cask.init) l = true) (h : Kept q s) : Kept3 q s.regs s.mem s.poison s.hostMem s.hostPoison s.cores
    s.clusters s.slots s.vats s.areas l s.probes s.scrubs s.plays s.cellUse s.srtp s.txBufs s.tdms s.egMarks s.wdns
    s.macs s.txSends s.dmas s.press s.msix s.pending :=
  { kept_fold h with c_casks := hl h.1.casks }

theorem kept_probes {q : List Instr} {s : State} {l : List (Nat × Probe)} (hl : swf (fun _ => Probe.init) s.probes =
    true → swf (fun _ => Probe.init) l = true) (h : Kept q s) : Kept3 q s.regs s.mem s.poison s.hostMem s.hostPoison
    s.cores s.clusters s.slots s.vats s.areas s.casks l s.scrubs s.plays s.cellUse s.srtp s.txBufs s.tdms s.egMarks
    s.wdns s.macs s.txSends s.dmas s.press s.msix s.pending :=
  { kept_fold h with c_probes := hl h.1.probes }

theorem kept_scrubs {q : List Instr} {s : State} {l : List (Nat × Nat)} (hl : swf (fun _ => 0) s.scrubs = true → swf
    (fun _ => 0) l = true) (h : Kept q s) : Kept3 q s.regs s.mem s.poison s.hostMem s.hostPoison s.cores s.clusters
    s.slots s.vats s.areas s.casks s.probes l s.plays s.cellUse s.srtp s.txBufs s.tdms s.egMarks s.wdns s.macs
    s.txSends s.dmas s.press s.msix s.pending :=
  { kept_fold h with c_scrubs := hl h.1.scrubs }

theorem kept_plays {q : List Instr} {s : State} {l : List (Nat × Play)} (hl : swf (fun _ => Play.init) s.plays = true
    → swf (fun _ => Play.init) l = true) (h : Kept q s) : Kept3 q s.regs s.mem s.poison s.hostMem s.hostPoison s.cores
    s.clusters s.slots s.vats s.areas s.casks s.probes s.scrubs l s.cellUse s.srtp s.txBufs s.tdms s.egMarks s.wdns
    s.macs s.txSends s.dmas s.press s.msix s.pending :=
  { kept_fold h with c_plays := hl h.1.plays }

theorem kept_cellUse {q : List Instr} {s : State} {l : List Nat} (hl : nrising s.cellUse = true → nrising l = true) (h
    : Kept q s) : Kept3 q s.regs s.mem s.poison s.hostMem s.hostPoison s.cores s.clusters s.slots s.vats s.areas
    s.casks s.probes s.scrubs s.plays l s.srtp s.txBufs s.tdms s.egMarks s.wdns s.macs s.txSends s.dmas s.press s.msix
    s.pending :=
  { kept_fold h with c_cellUse := hl h.1.cellUse }

theorem kept_srtp {q : List Instr} {s : State} {l : List (Nat × Srtp)} (hl : srising s.srtp = true → srising l = true)
    (h : Kept q s) : Kept3 q s.regs s.mem s.poison s.hostMem s.hostPoison s.cores s.clusters s.slots s.vats s.areas
    s.casks s.probes s.scrubs s.plays s.cellUse l s.txBufs s.tdms s.egMarks s.wdns s.macs s.txSends s.dmas s.press
    s.msix s.pending :=
  { kept_fold h with c_srtp := hl h.1.srtp }

theorem kept_txBufs {q : List Instr} {s : State} {l : List (Nat × List Byte)} (hl : srising s.txBufs = true → srising
    l = true) (h : Kept q s) : Kept3 q s.regs s.mem s.poison s.hostMem s.hostPoison s.cores s.clusters s.slots s.vats
    s.areas s.casks s.probes s.scrubs s.plays s.cellUse s.srtp l s.tdms s.egMarks s.wdns s.macs s.txSends s.dmas
    s.press s.msix s.pending :=
  { kept_fold h with c_txBufs := hl h.1.txBufs }

theorem kept_tdms {q : List Instr} {s : State} {l : List (Nat × Tdm)} (hl : swf (fun _ => Tdm.init) s.tdms = true →
    swf (fun _ => Tdm.init) l = true) (h : Kept q s) : Kept3 q s.regs s.mem s.poison s.hostMem s.hostPoison s.cores
    s.clusters s.slots s.vats s.areas s.casks s.probes s.scrubs s.plays s.cellUse s.srtp s.txBufs l s.egMarks s.wdns
    s.macs s.txSends s.dmas s.press s.msix s.pending :=
  { kept_fold h with c_tdms := hl h.1.tdms }

theorem kept_egMarks {q : List Instr} {s : State} {l : List Nat} (hl : nrising s.egMarks = true → nrising l = true) (h
    : Kept q s) : Kept3 q s.regs s.mem s.poison s.hostMem s.hostPoison s.cores s.clusters s.slots s.vats s.areas
    s.casks s.probes s.scrubs s.plays s.cellUse s.srtp s.txBufs s.tdms l s.wdns s.macs s.txSends s.dmas s.press s.msix
    s.pending :=
  { kept_fold h with c_egMarks := hl h.1.egMarks }

theorem kept_wdns {q : List Instr} {s : State} {l : List (Nat × Wdn)} (hl : swf (fun _ => Wdn.init) s.wdns = true →
    swf (fun _ => Wdn.init) l = true) (h : Kept q s) : Kept3 q s.regs s.mem s.poison s.hostMem s.hostPoison s.cores
    s.clusters s.slots s.vats s.areas s.casks s.probes s.scrubs s.plays s.cellUse s.srtp s.txBufs s.tdms s.egMarks l
    s.macs s.txSends s.dmas s.press s.msix s.pending :=
  { kept_fold h with c_wdns := hl h.1.wdns }

theorem kept_macs {q : List Instr} {s : State} {l : List (Nat × Mac)} (hl : swf (fun _ => Mac.init) s.macs = true →
    swf (fun _ => Mac.init) l = true) (h : Kept q s) : Kept3 q s.regs s.mem s.poison s.hostMem s.hostPoison s.cores
    s.clusters s.slots s.vats s.areas s.casks s.probes s.scrubs s.plays s.cellUse s.srtp s.txBufs s.tdms s.egMarks
    s.wdns l s.txSends s.dmas s.press s.msix s.pending :=
  { kept_fold h with c_macs := hl h.1.macs }

theorem kept_txSends {q : List Instr} {s : State} {l : List (Nat × TxSend)} (hl : srising s.txSends = true → srising l
    = true) (h : Kept q s) : Kept3 q s.regs s.mem s.poison s.hostMem s.hostPoison s.cores s.clusters s.slots s.vats
    s.areas s.casks s.probes s.scrubs s.plays s.cellUse s.srtp s.txBufs s.tdms s.egMarks s.wdns s.macs l s.dmas
    s.press s.msix s.pending :=
  { kept_fold h with c_txSends := hl h.1.txSends }

theorem kept_dmas {q : List Instr} {s : State} {l : List (Nat × Dma)} (hl : swf (fun _ => (⟨none⟩ : Dma)) s.dmas =
    true → swf (fun _ => (⟨none⟩ : Dma)) l = true) (h : Kept q s) : Kept3 q s.regs s.mem s.poison s.hostMem
    s.hostPoison s.cores s.clusters s.slots s.vats s.areas s.casks s.probes s.scrubs s.plays s.cellUse s.srtp s.txBufs
    s.tdms s.egMarks s.wdns s.macs s.txSends l s.press s.msix s.pending :=
  { kept_fold h with c_dmas := hl h.1.dmas }

theorem kept_press {q : List Instr} {s : State} {l : List (Nat × Press)} (hl : swf (fun _ => (⟨none, false⟩ : Press))
    s.press = true → swf (fun _ => (⟨none, false⟩ : Press)) l = true) (h : Kept q s) : Kept3 q s.regs s.mem s.poison
    s.hostMem s.hostPoison s.cores s.clusters s.slots s.vats s.areas s.casks s.probes s.scrubs s.plays s.cellUse
    s.srtp s.txBufs s.tdms s.egMarks s.wdns s.macs s.txSends s.dmas l s.msix s.pending :=
  { kept_fold h with c_press := hl h.1.press }

theorem kept_msix {q : List Instr} {s : State} {m : Msix} (hl : swf (fun _ => MsixEntry.init) s.msix.entries = true →
    swf (fun _ => MsixEntry.init) m.entries = true) (h : Kept q s) : Kept3 q s.regs s.mem s.poison s.hostMem
    s.hostPoison s.cores s.clusters s.slots s.vats s.areas s.casks s.probes s.scrubs s.plays s.cellUse s.srtp s.txBufs
    s.tdms s.egMarks s.wdns s.macs s.txSends s.dmas s.press m s.pending :=
  { kept_fold h with c_msix := hl h.1.msix }

theorem State.setCore_kept {q : List Instr} {s : State} (n t : Nat) (c : Core) (h : Kept q s) : Kept q (s.setCore n t c) :=
  kept_unfold { kept_fold h with c_cores := swf_sset (fun _ => Core.init) _ _ _ h.1.cores }

theorem State.setCluster_kept {q : List Instr} {s : State} (n : Nat) (c : Cluster) (h : Kept q s) : Kept q (s.setCluster n c) :=
  kept_unfold { kept_fold h with c_clusters := swf_sset (fun _ => Cluster.init) _ _ _ h.1.clusters }

theorem State.setSlot_kept {q : List Instr} {s : State} (n k : Nat) (x : Slot) (h : Kept q s) : Kept q (s.setSlot n k x) :=
  kept_unfold { kept_fold h with c_slots := swf_sset (fun _ => Slot.init) _ _ _ h.1.slots }

theorem State.setVat_kept {q : List Instr} {s : State} (a : Nat) (x : VatSlot) (h : Kept q s) : Kept q (s.setVat a x) :=
  kept_unfold { kept_fold h with c_vats := swf_sset (fun _ => VatSlot.init) _ _ _ h.1.vats }

theorem State.setArea_kept {q : List Instr} {s : State} (a : Nat) (x : Area) (h : Kept q s) : Kept q (s.setArea a x) :=
  kept_unfold { kept_fold h with c_areas := swf_sset (fun _ => Area.none) _ _ _ h.1.areas }

theorem State.setCask_kept {q : List Instr} {s : State} (a : Nat) (x : Cask) (h : Kept q s) : Kept q (s.setCask a x) :=
  kept_unfold { kept_fold h with c_casks := swf_sset (fun _ => Cask.init) _ _ _ h.1.casks }

end Sys2Proof.Machine
end

