-- ==== Sys2Proof/Laws/KeptOps.lean ====
section
/-!
SUPPORT. What the operations of Machine/Ops.lean keep (Laws/Kept.lean).
-/

namespace Sys2Proof.Machine

theorem State.put_kept {cq : List Instr} (s : Machine.State) (a : ℕ) (f : Fld) (v : ℕ) (h_s : Kept cq s) :
    Kept cq (State.put s a f v) := by
  unfold State.put
  repeat' first
    | with_reducible assumption
    | with_reducible apply State.setReg_kept

theorem State.wv_kept {cq : List Instr} (s : Machine.State) (a : ℕ) (v : ℕ) (h_s : Kept cq s) :
    Kept cq (State.wv s a v) := by
  unfold State.wv
  repeat' first
    | with_reducible assumption
    | with_reducible apply State.setReg_kept

theorem State.begin__kept {cq : List Instr} (s : Machine.State) (a : ℕ) (h_s : Kept cq s) :
    Kept cq (State.begin_ s a) := by
  unfold State.begin_
  repeat' first
    | with_reducible assumption
    | with_reducible apply State.put_kept

theorem State.post_kept {cq : List Instr} (s : Machine.State) (a : ℕ) (code : ℕ) (h_s : Kept cq s) :
    Kept cq (State.post s a code) := by
  unfold State.post
  repeat' first
    | with_reducible assumption
    | with_reducible apply State.put_kept

theorem State.addCount_kept {cq : List Instr} (s : Machine.State) (a : ℕ) (n : ℕ) (h_s : Kept cq s) :
    Kept cq (State.addCount s a n) := by
  unfold State.addCount
  repeat' first
    | with_reducible assumption
    | with_reducible apply State.wv_kept

theorem State.draw_kept {cq : List Instr} (s : Machine.State) (k : ℕ) (h_s : Kept cq s) :
    Kept cq (State.draw s k) := by
  unfold State.draw
  repeat' first
    | with_reducible assumption
    | simp only [kept_mk_iff]
    | with_reducible apply kept_fold

theorem State.emit_kept {cq : List Instr} (s : Machine.State) (o : Out) (h_s : Kept cq s) :
    Kept cq (State.emit s o) := by
  unfold State.emit
  repeat' first
    | with_reducible assumption
    | simp only [kept_mk_iff]
    | with_reducible apply kept_fold

theorem State.touchP_kept {cq : List Instr} (s : Machine.State) (a : ℕ) (n : ℕ) (h_s : Kept cq s) :
    Kept cq (State.touchP s a n) := by
  unfold State.touchP
  repeat' first
    | with_reducible assumption
    | with_reducible apply State.setCore_kept
    | with_reducible apply kept_ite
    | simp only [kept_mk_iff]
    | split

theorem State.writeOpt_kept {q : List Instr} (s : State) (a : Nat) (bs : List (Option Byte)) (h : Kept q s) :
    Kept q (s.writeOpt a bs) := by
  unfold State.writeOpt
  refine State.touchP_kept _ _ _ (kept_mk_iff.mpr ?_)
  refine { s.storeBytes_kept _ (fun _ hx => State.applies_writable hx) a bs h with
    c_poison := nrising_filter _ _ h.1.poison, c_egMarks := ?_ }
  split
  · exact h.1.egMarks
  · exact markEgress_nrising _ _ _ _ _ h.1.egMarks

theorem State.write_kept {cq : List Instr} (s : Machine.State) (a : ℕ) (bs : List Byte) (h_s : Kept cq s) :
    Kept cq (State.write s a bs) := by
  unfold State.write
  repeat' first
    | with_reducible assumption
    | with_reducible apply State.writeOpt_kept

theorem State.writeLe_kept {cq : List Instr} (s : Machine.State) (a : ℕ) (n : ℕ) (v : ℕ) (h_s : Kept cq s) :
    Kept cq (State.writeLe s a n v) := by
  unfold State.writeLe
  repeat' first
    | with_reducible assumption
    | with_reducible apply State.write_kept

theorem State.poisonWord_kept {cq : List Instr} (s : Machine.State) (a : ℕ) (h_s : Kept cq s) :
    Kept cq (State.poisonWord s a) := by
  unfold State.poisonWord
  repeat' first
    | with_reducible assumption
    | with_reducible apply kept_ite
    | simp only [kept_mk_iff]
    | with_reducible apply kept_poison
    | with_reducible exact nrising_ins1 _ _

theorem State.poisonRange_kept {cq : List Instr} (s : Machine.State) (a : ℕ) (n : ℕ) (h_s : Kept cq s) :
    Kept cq (State.poisonRange s a n) := by
  unfold State.poisonRange
  repeat' first
    | with_reducible assumption
    | with_reducible apply State.poisonWord_kept
    | with_reducible refine each_kept _ _ (fun _ _ _ => ?_) ?_

theorem State.bumpDie_kept {cq : List Instr} (s : Machine.State) (d : ℕ) (f : DieStats → DieStats) (h_s : Kept
    cq s) : Kept cq (State.bumpDie s d f) := by
  unfold State.bumpDie
  repeat' first
    | with_reducible assumption
    | simp only [kept_mk_iff]
    | with_reducible apply kept_fold

theorem State.hostStore_kept {q : List Instr} (s : State) (a : Nat) (bs : List Byte) (ep relaxed : Bool) (h : Kept q s) :
    Kept q (s.hostStore a bs ep relaxed) := by
  unfold State.hostStore
  rw [kept_mk_iff]
  refine { kept_fold h with c_hostMem := storeBytes_swf _ _ _ _ h.1.hostMem, c_hostPoison := ?_ }
  refine nrising_foldl _ _ (fun m x hm => ?_) _ h.1.hostPoison
  split
  · exact nrising_ins1 _ _ hm
  · exact nrising_del1 _ _ hm

theorem State.hostCells_kept {q : List Instr} (s : State) (cells : List (Nat × Byte)) (h : Kept q s) :
    Kept q (s.hostCells cells) := by
  unfold State.hostCells
  rw [kept_mk_iff]
  exact { kept_fold h with
    c_hostMem := swf_foldl _ _ _ (fun m c hm => swf_sset (fun _ => (0 : Byte)) _ _ _ hm) _ h.1.hostMem
    c_hostPoison := nrising_foldl _ _ (fun m c hm => nrising_del1 _ _ hm) _ h.1.hostPoison }

theorem State.unitWrite_kept {cq : List Instr} (s : Machine.State) (die : ℕ) (a : ℕ) (bs : List Byte) (h_s :
    Kept cq s) : Kept cq (State.unitWrite s die a bs) := by
  unfold State.unitWrite
  repeat' first
    | with_reducible assumption
    | with_reducible apply State.write_kept
    | with_reducible apply State.writeOpt_kept
    | with_reducible apply kept_ite

end Sys2Proof.Machine
end

