-- ==== Sys2Proof/Laws/KeptEventUnit.lean ====
section
/-!
SUPPORT. What the operations of Machine/EventUnit.lean keep (Laws/Kept.lean).
-/

namespace Sys2Proof.Machine

theorem State.setService_kept {cq : List Instr} (s : Machine.State) (v : ℕ) (on : Bool) (h_s : Kept cq s) :
    Kept cq (State.setService s v on) := by
  unfold State.setService
  repeat' first
    | with_reducible assumption
    | with_reducible apply State.put_kept

theorem State.deliver_kept {cq : List Instr} (s : Machine.State) (v : ℕ) (h_s : Kept cq s) :
    Kept cq (State.deliver s v) := by
  unfold State.deliver
  repeat' first
    | with_reducible assumption
    | with_reducible apply State.setService_kept
    | with_reducible apply State.emit_kept
    | with_reducible apply kept_ite
    | simp only [kept_mk_iff]
    | with_reducible apply kept_msix
    | with_reducible exact id

theorem State.drivePin_kept {cq : List Instr} (s : Machine.State) (k : Fin 2) (h_s : Kept cq s) :
    Kept cq (State.drivePin s k) := by
  unfold State.drivePin
  repeat' first
    | with_reducible assumption
    | with_reducible apply State.emit_kept
    | with_reducible apply kept_ite
    | simp only [kept_mk_iff]
    | with_reducible apply kept_msix
    | with_reducible exact id

theorem State.drivePins_kept {cq : List Instr} (s : Machine.State) (h_s : Kept cq s) :
    Kept cq (State.drivePins s) := by
  unfold State.drivePins
  repeat' first
    | with_reducible assumption
    | with_reducible apply State.drivePin_kept
    | with_reducible apply kept_ite

theorem State.settle_kept {cq : List Instr} (s : Machine.State) (h_s : Kept cq s) :
    Kept cq (State.settle s) := by
  unfold State.settle
  repeat' first
    | with_reducible assumption
    | with_reducible apply State.drivePins_kept
    | with_reducible apply State.deliver_kept
    | with_reducible apply kept_ite
    | with_reducible refine each_kept _ _ (fun _ _ _ => ?_) ?_

end Sys2Proof.Machine
end

