-- ==== Sys2Proof/Laws/KeptTraceCore.lean ====
section
/-!
SUPPORT. What the operations of Machine/TraceCore.lean keep (Laws/Kept.lean).
-/

namespace Sys2Proof.Machine

theorem State.setProbe_kept {cq : List Instr} (s : Machine.State) (d : ℕ) (p : ℕ) (x : Probe) (h_s : Kept cq s)
    : Kept cq (State.setProbe s d p x) := by
  unfold State.setProbe
  repeat' first
    | with_reducible assumption
    | simp only [kept_mk_iff]
    | with_reducible apply kept_probes
    | with_reducible exact swf_sset _ _ _ _

theorem State.putEntries_kept {cq : List Instr} (s : Machine.State) (d : ℕ) (p : ℕ) (i : ℕ) (es : List (List
    Byte)) (h_s : Kept cq s) : Kept cq (State.putEntries s d p i es) := by
  unfold State.putEntries
  repeat' first
    | with_reducible assumption
    | with_reducible apply State.write_kept
    | with_reducible apply kept_ite

theorem State.trcBump_kept {cq : List Instr} (r : Machine.State → ℕ → Fld → Machine.State) (s : Machine.State)
    (d : ℕ) (ctr : ℕ) (h_r : ∀ (y0 : Machine.State) (y1 : ℕ) (y2 : Fld), Kept cq y0 → Kept cq (r y0 y1 y2)) (h_s
    : Kept cq s) : Kept cq (State.trcBump r s d ctr) := by
  unfold State.trcBump
  repeat' first
    | with_reducible assumption
    | with_reducible apply State.addCount_kept
    | with_reducible apply h_r
    | with_reducible apply kept_ite

theorem State.closeSegment_kept {cq : List Instr} (r : Machine.State → ℕ → Fld → Machine.State) (s :
    Machine.State) (d : ℕ) (p : ℕ) (forced : Bool) (h_r : ∀ (y0 : Machine.State) (y1 : ℕ) (y2 : Fld), Kept cq y0
    → Kept cq (r y0 y1 y2)) (h_s : Kept cq s) : Kept cq (State.closeSegment r s d p forced) := by
  unfold State.closeSegment
  repeat' first
    | with_reducible assumption
    | with_reducible apply State.putEntries_kept
    | with_reducible apply State.write_kept
    | with_reducible apply State.trcBump_kept
    | with_reducible apply State.wv_kept
    | with_reducible apply State.setProbe_kept
    | with_reducible apply h_r
    | with_reducible apply kept_ite

theorem State.openSegment_kept {cq : List Instr} (s : Machine.State) (d : ℕ) (p : ℕ) (h_s : Kept cq s) :
    Kept cq (State.openSegment s d p) := by
  unfold State.openSegment
  repeat' first
    | with_reducible assumption
    | with_reducible apply State.setProbe_kept
    | with_reducible apply State.writeLe_kept

theorem State.missTrigger_kept {cq : List Instr} (r : Machine.State → ℕ → Fld → Machine.State) (s :
    Machine.State) (d : ℕ) (p : ℕ) (h_r : ∀ (y0 : Machine.State) (y1 : ℕ) (y2 : Fld), Kept cq y0 → Kept cq (r y0
    y1 y2)) (h_s : Kept cq s) : Kept cq (State.missTrigger r s d p) := by
  unfold State.missTrigger
  repeat' first
    | with_reducible assumption
    | with_reducible apply State.trcBump_kept
    | with_reducible apply State.setProbe_kept

theorem State.storeGroup_kept {cq : List Instr} (r : Machine.State → ℕ → Fld → Machine.State) (s :
    Machine.State) (d : ℕ) (p : ℕ) (tag : ℕ) (es : List (List Byte)) (h_r : ∀ (y0 : Machine.State) (y1 : ℕ) (y2
    : Fld), Kept cq y0 → Kept cq (r y0 y1 y2)) (h_s : Kept cq s) :
    Kept cq (State.storeGroup r s d p tag es) := by
  unfold State.storeGroup
  repeat' first
    | with_reducible assumption
    | with_reducible apply State.trcBump_kept
    | with_reducible apply State.setProbe_kept
    | with_reducible apply State.putEntries_kept
    | with_reducible apply State.closeSegment_kept
    | with_reducible apply kept_ite
    | with_reducible refine each_kept _ _ (fun _ _ _ => ?_) ?_
    | simp only [kept_mk_iff]
    | split

theorem State.takeTrigger_kept {cq : List Instr} (s : Machine.State) (d : ℕ) (p : ℕ) (tag : ℕ) (h_s : Kept cq s)
    : Kept cq (State.takeTrigger s d p tag) := by
  unfold State.takeTrigger
  repeat' first
    | with_reducible assumption
    | with_reducible apply State.putEntries_kept
    | with_reducible apply State.setProbe_kept

theorem State.crossRounds_kept {cq : List Instr} (r : Machine.State → ℕ → Fld → Machine.State) (d : ℕ) (tag : ℕ)
    (x0_8 : ℕ) (x0_13 : Machine.State) (x1_19 : List ℕ) (x1_25 : List ℕ) (h_r : ∀ (y0 : Machine.State) (y1 : ℕ)
    (y2 : Fld), Kept cq y0 → Kept cq (r y0 y1 y2)) (h_x0_13 : Kept cq x0_13) :
    Kept cq (State.crossRounds r d tag x0_8 x0_13 x1_19 x1_25) := by
  induction x0_8 generalizing x0_13 x1_19 x1_25 with
  | zero =>
    unfold State.crossRounds
    repeat' first
      | with_reducible assumption
      | with_reducible apply ih
      | with_reducible apply State.takeTrigger_kept
      | with_reducible apply State.missTrigger_kept
      | with_reducible apply kept_ite
      | with_reducible refine each_kept _ _ (fun _ _ _ => ?_) ?_
  | succ m ih =>
    unfold State.crossRounds
    repeat' first
      | with_reducible assumption
      | with_reducible apply ih
      | with_reducible apply State.takeTrigger_kept
      | with_reducible apply State.missTrigger_kept
      | with_reducible apply kept_ite
      | with_reducible refine each_kept _ _ (fun _ _ _ => ?_) ?_

theorem State.crossTrigger_kept {cq : List Instr} (r : Machine.State → ℕ → Fld → Machine.State) (s :
    Machine.State) (d : ℕ) (p : ℕ) (tag : ℕ) (h_r : ∀ (y0 : Machine.State) (y1 : ℕ) (y2 : Fld), Kept cq y0 →
    Kept cq (r y0 y1 y2)) (h_s : Kept cq s) : Kept cq (State.crossTrigger r s d p tag) := by
  unfold State.crossTrigger
  repeat' first
    | with_reducible assumption
    | with_reducible apply State.crossRounds_kept

theorem State.capture_kept {cq : List Instr} (r : Machine.State → ℕ → Fld → Machine.State) (s : Machine.State)
    (d : ℕ) (p : ℕ) (x : TraceIn) (h_r : ∀ (y0 : Machine.State) (y1 : ℕ) (y2 : Fld), Kept cq y0 → Kept cq (r y0
    y1 y2)) (h_s : Kept cq s) : Kept cq (State.capture r s d p x) := by
  unfold State.capture
  repeat' first
    | with_reducible assumption
    | with_reducible apply State.setProbe_kept
    | with_reducible apply State.missTrigger_kept
    | with_reducible apply State.storeGroup_kept
    | with_reducible apply State.crossTrigger_kept
    | with_reducible apply State.takeTrigger_kept
    | with_reducible apply kept_ite

theorem State.edge_kept {cq : List Instr} (r : Machine.State → ℕ → Fld → Machine.State) (s : Machine.State) (k :
    ℕ) (h_r : ∀ (y0 : Machine.State) (y1 : ℕ) (y2 : Fld), Kept cq y0 → Kept cq (r y0 y1 y2)) (h_s : Kept cq s) :
    Kept cq (State.edge r s k) := by
  unfold State.edge
  repeat' first
    | with_reducible assumption
    | with_reducible apply State.trcBump_kept
    | with_reducible apply State.setProbe_kept
    | with_reducible apply State.capture_kept
    | with_reducible apply kept_ite
    | with_reducible refine each_kept _ _ (fun _ _ _ => ?_) ?_

theorem State.edges_kept {cq : List Instr} (s : Machine.State) (t : Machine.State) (r : Machine.State → ℕ → Fld
    → Machine.State) (h_s : Kept cq s) (h_t : Kept cq t) (h_r : ∀ (y0 : Machine.State) (y1 : ℕ) (y2 : Fld), Kept
    cq y0 → Kept cq (r y0 y1 y2)) : Kept cq (State.edges s t r) := by
  unfold State.edges
  repeat' first
    | with_reducible assumption
    | with_reducible apply State.edge_kept
    | with_reducible apply kept_ite
    | with_reducible refine each_kept _ _ (fun _ _ _ => ?_) ?_

end Sys2Proof.Machine
end

