-- ==== Sys2Proof/Laws/KeptEvents.lean ====
section
/-!
SUPPORT. What the operations of Machine/Events.lean keep (Laws/Kept.lean).
-/

namespace Sys2Proof.Machine

theorem State.raiseN_kept {cq : List Instr} (x0_0 : ℕ) (x0_5 : Machine.State) (x1_10 : ℕ) (x1_16 : Fld) (h_x0_5
    : Kept cq x0_5) : Kept cq (State.raiseN x0_0 x0_5 x1_10 x1_16) := by
  induction x0_0 generalizing x0_5 x1_10 x1_16 with
  | zero =>
    unfold State.raiseN
    repeat' first
      | with_reducible assumption
      | with_reducible apply State.settle_kept
      | with_reducible apply State.put_kept
      | with_reducible apply State.edges_kept
  | succ m ih =>
    unfold State.raiseN
    repeat' first
      | with_reducible assumption
      | with_reducible apply State.settle_kept
      | with_reducible apply State.put_kept
      | with_reducible apply State.edges_kept

theorem State.raise_kept {cq : List Instr} (s : Machine.State) (a : ℕ) (f : Fld) (h_s : Kept cq s) :
    Kept cq (State.raise s a f) := by
  unfold State.raise
  repeat' first
    | with_reducible assumption
    | with_reducible apply State.raiseN_kept

theorem State.changed_kept {cq : List Instr} (s : Machine.State) (t : Machine.State) (h_s : Kept cq s) (h_t :
    Kept cq t) : Kept cq (State.changed s t) := by
  unfold State.changed
  repeat' first
    | with_reducible assumption
    | with_reducible apply State.edges_kept
    | with_reducible apply State.settle_kept
    | with_reducible apply State.raiseN_kept

theorem State.bumpBy_kept {cq : List Instr} (s : Machine.State) (ctr : ℕ) (n : ℕ) (evt : ℕ) (f : Fld) (h_s :
    Kept cq s) : Kept cq (State.bumpBy s ctr n evt f) := by
  unfold State.bumpBy
  repeat' first
    | with_reducible assumption
    | with_reducible apply State.raise_kept
    | with_reducible apply State.addCount_kept
    | with_reducible apply kept_ite

theorem State.bump_kept {cq : List Instr} (s : Machine.State) (ctr : ℕ) (evt : ℕ) (f : Fld) (h_s : Kept cq s) :
    Kept cq (State.bump s ctr evt f) := by
  unfold State.bump
  repeat' first
    | with_reducible assumption
    | with_reducible apply State.bumpBy_kept

theorem State.errClass_kept {cq : List Instr} (s : Machine.State) (k : ℕ) (h_s : Kept cq s) :
    Kept cq (State.errClass s k) := by
  unfold State.errClass
  repeat' first
    | with_reducible assumption
    | with_reducible apply State.raise_kept

theorem State.logError_kept {cq : List Instr} (s : Machine.State) (d : ℕ) (level : ℕ) (k : ℕ) (unit : ℕ) (addr :
    ℕ) (synd : ℕ) (bank : ℕ) (h_s : Kept cq s) : Kept cq (State.logError s d level k unit addr synd bank) := by
  unfold State.logError
  repeat' first
    | with_reducible assumption
    | with_reducible apply State.errClass_kept
    | with_reducible apply State.wv_kept
    | with_reducible apply State.setReg_kept
    | with_reducible apply kept_ite

theorem State.dropDecode_kept {cq : List Instr} (s : Machine.State) (h_s : Kept cq s) :
    Kept cq (State.dropDecode s) := by
  unfold State.dropDecode
  repeat' first
    | with_reducible assumption
    | with_reducible apply State.raise_kept
    | with_reducible apply State.put_kept
    | with_reducible apply State.bump_kept

theorem State.dropPartial_kept {cq : List Instr} (s : Machine.State) (h_s : Kept cq s) :
    Kept cq (State.dropPartial s) := by
  unfold State.dropPartial
  repeat' first
    | with_reducible assumption
    | with_reducible apply State.raise_kept
    | with_reducible apply State.put_kept
    | with_reducible apply State.bump_kept

theorem State.dropOther_kept {cq : List Instr} (s : Machine.State) (h_s : Kept cq s) :
    Kept cq (State.dropOther s) := by
  unfold State.dropOther
  repeat' first
    | with_reducible assumption
    | with_reducible apply State.raise_kept
    | with_reducible apply State.put_kept
    | with_reducible apply State.bump_kept

end Sys2Proof.Machine
end

