-- ==== Sys2Proof/Laws/KeptSched.lean ====
section
/-!
SUPPORT. What the operations of Machine/Sched.lean keep (Laws/Kept.lean).
-/

namespace Sys2Proof.Machine

theorem State.acceptItem_kept {cq : List Instr} (s : Machine.State) (n : ℕ) (it : Item) (h_s : Kept cq s) :
    Kept cq (State.acceptItem s n it) := by
  unfold State.acceptItem
  repeat' first
    | with_reducible assumption
    | with_reducible apply State.bump_kept
    | with_reducible apply State.setCluster_kept

theorem State.refuseItem_kept {cq : List Instr} (s : Machine.State) (n : ℕ) (h_s : Kept cq s) :
    Kept cq (State.refuseItem s n) := by
  unfold State.refuseItem
  repeat' first
    | with_reducible assumption
    | with_reducible apply State.raise_kept
    | with_reducible apply State.bump_kept

theorem State.postWork_kept {cq : List Instr} (s : Machine.State) (n : ℕ) (ws : List Word) (o : Machine.Origin)
    (h_s : Kept cq s) : Kept cq (State.postWork s n ws o) := by
  unfold State.postWork
  repeat' first
    | with_reducible assumption
    | with_reducible apply State.acceptItem_kept
    | with_reducible apply State.refuseItem_kept
    | with_reducible apply kept_ite

theorem State.dropTimer_kept {cq : List Instr} (s : Machine.State) (n : ℕ) (timer : Option ℕ) (h_s : Kept cq s)
    : Kept cq (State.dropTimer s n timer) := by
  unfold State.dropTimer
  repeat' first
    | with_reducible assumption
    | with_reducible apply State.setCluster_kept
    | simp only [kept_mk_iff]
    | split

theorem State.release_kept {cq : List Instr} (s : Machine.State) (n : ℕ) (it : Item) (timer : Option ℕ) (h_s :
    Kept cq s) : Kept cq (State.release s n it timer) := by
  unfold State.release
  repeat' first
    | with_reducible assumption
    | with_reducible apply State.dropTimer_kept
    | with_reducible apply State.refuseItem_kept
    | with_reducible apply State.acceptItem_kept
    | with_reducible apply State.bump_kept
    | with_reducible apply State.setCluster_kept
    | with_reducible apply kept_ite

theorem State.deferred_kept {cq : List Instr} (s : Machine.State) (n : ℕ) (h_s : Kept cq s) :
    Kept cq (State.deferred s n) := by
  unfold State.deferred
  repeat' first
    | with_reducible assumption
    | with_reducible apply State.setCluster_kept
    | with_reducible apply State.dropTimer_kept
    | with_reducible apply State.refuseItem_kept
    | with_reducible apply State.acceptItem_kept
    | with_reducible apply kept_ite
    | simp only [kept_mk_iff]
    | split

theorem State.armOneShot_kept {cq : List Instr} (s : Machine.State) (n : ℕ) (it : Item) (d : ℕ) (byHost : Bool)
    (k : ℕ) (h_s : Kept cq s) : Kept cq (State.armOneShot s n it d byHost k) := by
  unfold State.armOneShot
  repeat' first
    | with_reducible assumption
    | with_reducible apply State.setCluster_kept

theorem State.delayWork_kept {cq : List Instr} (s : Machine.State) (n : ℕ) (ws : List Word) (d : ℕ) (o :
    Machine.Origin) (byHost : Bool) (h_s : Kept cq s) : Kept cq (State.delayWork s n ws d o byHost) := by
  unfold State.delayWork
  repeat' first
    | with_reducible assumption
    | with_reducible apply State.armOneShot_kept
    | with_reducible apply State.refuseItem_kept
    | with_reducible apply kept_ite
    | simp only [kept_mk_iff]
    | split

theorem State.copyBytes_kept {cq : List Instr} (s : Machine.State) (src : ℕ) (dst : ℕ) (n : ℕ) (h_s : Kept cq s)
    : Kept cq (State.copyBytes s src dst n) := by
  unfold State.copyBytes
  repeat' first
    | with_reducible assumption
    | with_reducible apply State.poisonWord_kept
    | with_reducible apply State.write_kept
    | with_reducible refine kept_foldl _ _ (fun _ _ _ => ?_) ?_

theorem State.stageItem_kept {cq : List Instr} (s : Machine.State) (n : ℕ) (t : ℕ) (it : Item) (h_s : Kept cq s)
    : Kept cq (State.stageItem s n t it) := by
  unfold State.stageItem
  repeat' first
    | with_reducible assumption
    | with_reducible apply State.write_kept
    | with_reducible apply State.copyBytes_kept
    | with_reducible refine each_kept _ _ (fun _ _ _ => ?_) ?_
    | simp only [kept_mk_iff]
    | split

theorem State.startItem_kept {cq : List Instr} (s : Machine.State) (n : ℕ) (t : ℕ) (it : Item) (h_s : Kept cq s)
    : Kept cq (State.startItem s n t it) := by
  unfold State.startItem
  repeat' first
    | with_reducible assumption
    | with_reducible apply State.setCore_kept
    | with_reducible apply State.stageItem_kept
    | with_reducible apply State.setCluster_kept
    | with_reducible apply State.wv_kept
    | with_reducible apply State.draw_kept

theorem State.dispatchOne_kept {cq : List Instr} (s : Machine.State) (n : ℕ) (h_s : Kept cq s) :
    Kept cq (State.dispatchOne s n) := by
  unfold State.dispatchOne
  repeat' first
    | with_reducible assumption
    | with_reducible apply State.bump_kept
    | with_reducible apply State.setCluster_kept
    | with_reducible apply State.put_kept
    | with_reducible apply State.setCore_kept
    | with_reducible apply State.startItem_kept
    | with_reducible apply kept_ite
    | simp only [kept_mk_iff]
    | split

end Sys2Proof.Machine
end

