-- ==== Sys2Proof/Laws/KeptCasks.lean ====
section
/-!
SUPPORT. What the operations of Machine/Casks.lean keep (Laws/Kept.lean).
-/

namespace Sys2Proof.Machine

theorem State.cskBump_kept {cq : List Instr} (s : Machine.State) (ctr : ℕ) (h_s : Kept cq s) :
    Kept cq (State.cskBump s ctr) := by
  unfold State.cskBump
  repeat' first
    | with_reducible assumption
    | with_reducible apply State.bump_kept

theorem State.storeWord_kept {cq : List Instr} (s : Machine.State) (h : ℕ) (i : ℕ) (w : CWord) (h_s : Kept cq s)
    : Kept cq (State.storeWord s h i w) := by
  unfold State.storeWord
  repeat' first
    | with_reducible assumption
    | with_reducible apply State.write_kept
    | with_reducible apply State.poisonWord_kept
    | with_reducible apply kept_ite

theorem State.offerWord_kept {cq : List Instr} (s : Machine.State) (h : ℕ) (p : Producer) (w : CWord) (h_s :
    Kept cq s) : Kept cq (State.offerWord s h p w) := by
  unfold State.offerWord
  repeat' first
    | with_reducible assumption
    | with_reducible apply State.storeWord_kept
    | with_reducible apply State.setCask_kept
    | with_reducible apply State.cskBump_kept
    | with_reducible apply kept_ite

theorem State.notice_kept {cq : List Instr} (s : Machine.State) (h : ℕ) (h_s : Kept cq s) :
    Kept cq (State.notice s h) := by
  unfold State.notice
  repeat' first
    | with_reducible assumption
    | with_reducible apply State.changed_kept
    | with_reducible apply State.put_kept
    | with_reducible apply State.postWork_kept
    | with_reducible apply State.cskBump_kept
    | with_reducible apply kept_ite

theorem State.cskPost_kept {cq : List Instr} (s : Machine.State) (h : ℕ) (op : ℕ) (code : ℕ) (h_s : Kept cq s) :
    Kept cq (State.cskPost s h op code) := by
  unfold State.cskPost
  repeat' first
    | with_reducible assumption
    | with_reducible apply State.post_kept
    | with_reducible apply State.put_kept

theorem State.flushCheck_kept {cq : List Instr} (s : Machine.State) (h : ℕ) (h_s : Kept cq s) :
    Kept cq (State.flushCheck s h) := by
  unfold State.flushCheck
  repeat' first
    | with_reducible assumption
    | with_reducible apply State.cskPost_kept
    | with_reducible apply kept_ite
    | simp only [kept_mk_iff]
    | with_reducible apply kept_fold

theorem State.commitPkt_kept {cq : List Instr} (s : Machine.State) (h : ℕ) (p : Producer) (h_s : Kept cq s) :
    Kept cq (State.commitPkt s h p) := by
  unfold State.commitPkt
  repeat' first
    | with_reducible assumption
    | with_reducible apply State.setCask_kept
    | with_reducible apply State.flushCheck_kept
    | with_reducible apply State.cskBump_kept
    | with_reducible apply State.notice_kept
    | with_reducible apply kept_ite
    | simp only [kept_mk_iff]
    | split

theorem State.abandonPkt_kept {cq : List Instr} (s : Machine.State) (h : ℕ) (p : Producer) (h_s : Kept cq s) :
    Kept cq (State.abandonPkt s h p) := by
  unfold State.abandonPkt
  repeat' first
    | with_reducible assumption
    | with_reducible apply State.flushCheck_kept
    | with_reducible apply State.cskBump_kept
    | with_reducible apply State.setCask_kept
    | split

theorem State.abandonAll_kept {cq : List Instr} (s : Machine.State) (p : Producer) (h_s : Kept cq s) :
    Kept cq (State.abandonAll s p) := by
  unfold State.abandonAll
  repeat' first
    | with_reducible assumption
    | with_reducible apply State.abandonPkt_kept
    | with_reducible refine each_kept _ _ (fun _ _ _ => ?_) ?_

theorem State.postRecord_kept {cq : List Instr} (s : Machine.State) (h : ℕ) (p : Producer) (w : BitVec 128) (h_s
    : Kept cq s) : Kept cq (State.postRecord s h p w) := by
  unfold State.postRecord
  repeat' first
    | with_reducible assumption
    | with_reducible apply State.commitPkt_kept
    | with_reducible apply State.offerWord_kept
    | with_reducible apply kept_ite

theorem State.postPacket_kept {cq : List Instr} (s : Machine.State) (h : ℕ) (p : Producer) (ws : List CWord)
    (h_s : Kept cq s) : Kept cq (State.postPacket s h p ws).1 := by
  unfold State.postPacket
  repeat' first
    | with_reducible assumption
    | with_reducible apply State.offerWord_kept
    | with_reducible apply State.commitPkt_kept
    | with_reducible apply State.abandonPkt_kept
    | with_reducible apply kept_ite_fst
    | with_reducible refine kept_foldl_fst _ _ (fun _ _ _ => ?_) ?_

theorem State.consume_kept {cq : List Instr} (s : Machine.State) (h : ℕ) (h_s : Kept cq s) :
    Kept cq (State.consume s h) := by
  unfold State.consume
  repeat' first
    | with_reducible assumption
    | with_reducible apply State.setCask_kept
    | with_reducible apply kept_ite
    | simp only [kept_mk_iff]
    | split

theorem State.cskBegin_kept {cq : List Instr} (s : Machine.State) (h : ℕ) (h_s : Kept cq s) :
    Kept cq (State.cskBegin s h) := by
  unfold State.cskBegin
  repeat' first
    | with_reducible assumption
    | with_reducible apply State.put_kept
    | with_reducible apply State.begin__kept

theorem State.doCreate_kept {cq : List Instr} (s : Machine.State) (h : ℕ) (h_s : Kept cq s) :
    Kept cq (State.doCreate s h) := by
  unfold State.doCreate
  repeat' first
    | with_reducible assumption
    | with_reducible apply State.put_kept
    | with_reducible apply State.setCask_kept

theorem State.doFlush_kept {cq : List Instr} (s : Machine.State) (h : ℕ) (h_s : Kept cq s) :
    Kept cq (State.doFlush s h) := by
  unfold State.doFlush
  repeat' first
    | with_reducible assumption
    | with_reducible apply State.bumpBy_kept
    | with_reducible apply State.setCask_kept

theorem State.cskCreate_kept {cq : List Instr} (s : Machine.State) (h : ℕ) (h_s : Kept cq s) :
    Kept cq (State.cskCreate s h) := by
  unfold State.cskCreate
  repeat' first
    | with_reducible assumption
    | with_reducible apply State.cskBegin_kept
    | with_reducible apply State.cskPost_kept
    | with_reducible apply State.doCreate_kept
    | with_reducible apply kept_ite

theorem State.cskFlush_kept {cq : List Instr} (s : Machine.State) (h : ℕ) (h_s : Kept cq s) :
    Kept cq (State.cskFlush s h) := by
  unfold State.cskFlush
  repeat' first
    | with_reducible assumption
    | with_reducible apply State.cskBegin_kept
    | with_reducible apply State.cskPost_kept
    | with_reducible apply State.doFlush_kept
    | with_reducible apply State.flushCheck_kept
    | with_reducible apply kept_ite
    | simp only [kept_mk_iff]
    | with_reducible apply kept_fold

theorem State.cskDestroy_kept {cq : List Instr} (s : Machine.State) (h : ℕ) (h_s : Kept cq s) :
    Kept cq (State.cskDestroy s h) := by
  unfold State.cskDestroy
  repeat' first
    | with_reducible assumption
    | with_reducible apply State.cskBegin_kept
    | with_reducible apply State.cskPost_kept
    | with_reducible apply State.put_kept
    | with_reducible apply State.setCask_kept
    | with_reducible apply kept_ite

theorem State.cskInvalid_kept {cq : List Instr} (s : Machine.State) (h : ℕ) (h_s : Kept cq s) :
    Kept cq (State.cskInvalid s h) := by
  unfold State.cskInvalid
  repeat' first
    | with_reducible assumption
    | with_reducible apply State.cskPost_kept
    | with_reducible apply State.cskBegin_kept
    | with_reducible apply kept_ite

theorem State.hwPush_kept {cq : List Instr} (s : Machine.State) (h : ℕ) (h_s : Kept cq s) :
    Kept cq (State.hwPush s h) := by
  unfold State.hwPush
  repeat' first
    | with_reducible assumption
    | with_reducible apply State.post_kept
    | with_reducible apply State.offerWord_kept
    | with_reducible apply kept_ite

theorem State.hwCommit_kept {cq : List Instr} (s : Machine.State) (h : ℕ) (h_s : Kept cq s) :
    Kept cq (State.hwCommit s h) := by
  unfold State.hwCommit
  repeat' first
    | with_reducible assumption
    | with_reducible apply State.post_kept
    | with_reducible apply State.commitPkt_kept
    | with_reducible apply kept_ite

theorem State.hwAbort_kept {cq : List Instr} (s : Machine.State) (h : ℕ) (h_s : Kept cq s) :
    Kept cq (State.hwAbort s h) := by
  unfold State.hwAbort
  repeat' first
    | with_reducible assumption
    | with_reducible apply State.post_kept
    | with_reducible apply State.abandonPkt_kept
    | with_reducible apply kept_ite

theorem State.hwAdv_kept {cq : List Instr} (s : Machine.State) (h : ℕ) (h_s : Kept cq s) :
    Kept cq (State.hwAdv s h) := by
  unfold State.hwAdv
  repeat' first
    | with_reducible assumption
    | with_reducible apply State.post_kept
    | with_reducible apply State.consume_kept
    | with_reducible apply kept_ite

end Sys2Proof.Machine
end

