-- ==== Sys2Proof/Laws/KeptReach.lean ====
section
/-!
SUPPORT. What the operations of Machine/Reach.lean keep (Laws/Kept.lean).
-/

namespace Sys2Proof.Machine

theorem State.hostOp_kept {cq : List Instr} (s : Machine.State) (a : ℕ) (f : Machine.State → Machine.State) (h_s
    : Kept cq s) (h_f : ∀ (y0 : Machine.State), Kept cq y0 → Kept cq (f y0)) :
    Kept cq (State.hostOp s a f) := by
  unfold State.hostOp
  repeat' first
    | with_reducible assumption
    | with_reducible apply State.dropDecode_kept
    | with_reducible apply State.dropOther_kept
    | with_reducible apply h_f
    | split

theorem hostCmd_kept {cq : List Instr} (s : Machine.State) (a : ℕ) (f : Machine.State → Machine.State) (h_s :
    Kept cq s) (h_f : ∀ (y0 : Machine.State), Kept cq y0 → Kept cq (f y0)) :
    ResultKept cq (hostCmd s a f) := by
  unfold hostCmd
  repeat' first
    | with_reducible assumption
    | with_reducible apply State.hostOp_kept
    | with_reducible apply resultKept_next

end Sys2Proof.Machine
end

