-- ==== Sys2Proof/Laws/KeptClassifier.lean ====
section
/-!
SUPPORT. What the operations of Machine/Classifier.lean keep (Laws/Kept.lean).
-/

namespace Sys2Proof.Machine

theorem State.setCls_kept {cq : List Instr} (s : Machine.State) (l : List ClsEntry) (h_s : Kept cq s) :
    Kept cq (State.setCls s l) := by
  unfold State.setCls
  repeat' first
    | with_reducible assumption
    | with_reducible apply State.put_kept
    | simp only [kept_mk_iff]
    | with_reducible apply kept_fold

theorem State.clsInsert_kept {cq : List Instr} (s : Machine.State) (img : List Byte) (h_s : Kept cq s) :
    Kept cq (State.clsInsert s img) := by
  unfold State.clsInsert
  repeat' first
    | with_reducible assumption
    | with_reducible apply State.draw_kept
    | with_reducible apply State.setCls_kept

theorem State.clsRemove_kept {cq : List Instr} (s : Machine.State) (img : List Byte) (h_s : Kept cq s) :
    Kept cq (State.clsRemove s img) := by
  unfold State.clsRemove
  repeat' first
    | with_reducible assumption
    | with_reducible apply State.setCls_kept

theorem State.clsFail_kept {cq : List Instr} (s : Machine.State) (code : ℕ) (h_s : Kept cq s) :
    Kept cq (State.clsFail s code) := by
  unfold State.clsFail
  repeat' first
    | with_reducible assumption
    | with_reducible apply State.wv_kept
    | with_reducible apply State.raise_kept
    | with_reducible apply kept_ite

theorem State.clsCommand_kept {cq : List Instr} (s : Machine.State) (op : ℕ) (h_s : Kept cq s) :
    Kept cq (State.clsCommand s op) := by
  unfold State.clsCommand
  repeat' first
    | with_reducible assumption
    | with_reducible apply State.begin__kept
    | with_reducible apply State.clsFail_kept
    | with_reducible apply State.clsInsert_kept
    | with_reducible apply State.clsRemove_kept
    | with_reducible apply State.put_kept
    | with_reducible apply State.post_kept
    | with_reducible apply kept_ite

theorem execInsert_kept {cq : List Instr} (s : Machine.State) (h_s : Kept cq s) :
    ResultKept cq (execInsert s) := by
  unfold execInsert
  repeat' first
    | with_reducible assumption
    | with_reducible apply hostCmd_kept
    | with_reducible apply State.clsCommand_kept
    | intro _

theorem execRemove_kept {cq : List Instr} (s : Machine.State) (h_s : Kept cq s) :
    ResultKept cq (execRemove s) := by
  unfold execRemove
  repeat' first
    | with_reducible assumption
    | with_reducible apply hostCmd_kept
    | with_reducible apply State.clsCommand_kept
    | intro _

theorem execClsQuery_kept {cq : List Instr} (s : Machine.State) (h_s : Kept cq s) :
    ResultKept cq (execClsQuery s) := by
  unfold execClsQuery
  repeat' first
    | with_reducible assumption
    | with_reducible apply hostCmd_kept
    | with_reducible apply State.clsCommand_kept
    | intro _

theorem State.clsSwitch_kept {cq : List Instr} (s : Machine.State) (tid : BitVec 18) (v : BitVec 16) (h_s : Kept
    cq s) : Kept cq (State.clsSwitch s tid v) := by
  unfold State.clsSwitch
  repeat' first
    | with_reducible assumption
    | with_reducible apply State.setCls_kept

theorem State.clsSupersede_kept {cq : List Instr} (s : Machine.State) (tid : BitVec 18) (v : BitVec 16) (h_s :
    Kept cq s) : Kept cq (State.clsSupersede s tid v) := by
  unfold State.clsSupersede
  repeat' first
    | with_reducible assumption
    | with_reducible apply State.setCls_kept

theorem State.clsDelete_kept {cq : List Instr} (s : Machine.State) (tid : BitVec 18) (h_s : Kept cq s) :
    Kept cq (State.clsDelete s tid) := by
  unfold State.clsDelete
  repeat' first
    | with_reducible assumption
    | with_reducible apply State.setCls_kept

theorem State.clsBump_kept {cq : List Instr} (s : Machine.State) (d : ℕ) (ctr : ℕ) (h_s : Kept cq s) :
    Kept cq (State.clsBump s d ctr) := by
  unfold State.clsBump
  repeat' first
    | with_reducible assumption
    | with_reducible apply State.bump_kept

end Sys2Proof.Machine
end

