-- ==== Sys2Proof/Laws/KeptSrtp.lean ====
section
/-!
SUPPORT. What the operations of Machine/Srtp.lean keep (Laws/Kept.lean).
-/

namespace Sys2Proof.Machine

theorem State.setSrtp_kept {cq : List Instr} (s : Machine.State) (x : ℕ) (recv : Bool) (q : Srtp) (h_s : Kept cq
    s) : Kept cq (State.setSrtp s x recv q) := by
  unfold State.setSrtp
  repeat' first
    | with_reducible assumption
    | simp only [kept_mk_iff]
    | with_reducible apply kept_srtp
    | with_reducible exact fun h => srising_sput _ _ _ h

theorem State.srtpRekey_kept {cq : List Instr} (s : Machine.State) (x : ℕ) (h_s : Kept cq s) :
    Kept cq (State.srtpRekey s x) := by
  unfold State.srtpRekey
  repeat' first
    | with_reducible assumption
    | simp only [kept_mk_iff]
    | with_reducible apply kept_srtp
    | with_reducible exact fun h => (srising_filter _ _ h).1

theorem State.unprotect_kept {cq : List Instr} (s : Machine.State) (x : ℕ) (p : List Byte) (h_s : Kept cq s) :
    Kept cq (State.unprotect s x p).1 := by
  unfold State.unprotect
  repeat' first
    | with_reducible assumption
    | with_reducible apply State.setSrtp_kept
    | with_reducible apply kept_ite_fst
    | simp only [kept_mk_iff]
    | split

theorem State.protect_kept {cq : List Instr} (s : Machine.State) (x : ℕ) (p : List Byte) (h_s : Kept cq s) :
    Kept cq (State.protect s x p).1 := by
  unfold State.protect
  repeat' first
    | with_reducible assumption
    | with_reducible apply State.setSrtp_kept
    | with_reducible apply kept_ite_fst

theorem State.unprotectRtcp_kept {cq : List Instr} (s : Machine.State) (x : ℕ) (p : List Byte) (h_s : Kept cq s)
    : Kept cq (State.unprotectRtcp s x p).1 := by
  unfold State.unprotectRtcp
  repeat' first
    | with_reducible assumption
    | with_reducible apply State.setSrtp_kept
    | with_reducible apply kept_ite_fst

theorem State.protectRtcp_kept {cq : List Instr} (s : Machine.State) (x : ℕ) (p : List Byte) (h_s : Kept cq s) :
    Kept cq (State.protectRtcp s x p).1 := by
  unfold State.protectRtcp
  repeat' first
    | with_reducible assumption
    | with_reducible apply State.setSrtp_kept
    | with_reducible apply kept_ite_fst

end Sys2Proof.Machine
end

