-- ==== Sys2Proof/Laws/KeptPlayout.lean ====
section
/-!
SUPPORT. What the operations of Machine/Playout.lean keep (Laws/Kept.lean).
-/

namespace Sys2Proof.Machine

theorem State.setPlay_kept {cq : List Instr} (s : Machine.State) (tid : BitVec 18) (x : Play) (h_s : Kept cq s)
    : Kept cq (State.setPlay s tid x) := by
  unfold State.setPlay
  repeat' first
    | with_reducible assumption
    | with_reducible apply State.unitWrite_kept
    | with_reducible apply kept_ite
    | simp only [kept_mk_iff]
    | with_reducible apply kept_plays
    | with_reducible exact swf_sset _ _ _ _

theorem State.plyBumpBy_kept {cq : List Instr} (s : Machine.State) (d : ℕ) (ctr : ℕ) (n : ℕ) (h_s : Kept cq s) :
    Kept cq (State.plyBumpBy s d ctr n) := by
  unfold State.plyBumpBy
  repeat' first
    | with_reducible assumption
    | with_reducible apply State.bumpBy_kept

theorem State.plyBump_kept {cq : List Instr} (s : Machine.State) (d : ℕ) (ctr : ℕ) (h_s : Kept cq s) :
    Kept cq (State.plyBump s d ctr) := by
  unfold State.plyBump
  repeat' first
    | with_reducible assumption
    | with_reducible apply State.plyBumpBy_kept

theorem State.plyLog_kept {cq : List Instr} (s : Machine.State) (cause : ℕ) (tid : BitVec 18) (h_s : Kept cq s)
    : Kept cq (State.plyLog s cause tid) := by
  unfold State.plyLog
  repeat' first
    | with_reducible assumption
    | with_reducible apply State.wv_kept
    | with_reducible apply kept_ite

theorem State.noCell_kept {cq : List Instr} (s : Machine.State) (d : ℕ) (tid : BitVec 18) (h_s : Kept cq s) :
    Kept cq (State.noCell s d tid) := by
  unfold State.noCell
  repeat' first
    | with_reducible assumption
    | with_reducible apply State.plyLog_kept
    | with_reducible apply State.raise_kept
    | with_reducible apply State.plyBump_kept

theorem State.freeCells_kept {cq : List Instr} (s : Machine.State) (ps : List Stored) (h_s : Kept cq s) :
    Kept cq (State.freeCells s ps) := by
  unfold State.freeCells
  repeat' first
    | with_reducible assumption
    | with_reducible apply State.put_kept
    | with_reducible refine each_kept _ _ (fun _ _ _ => ?_) ?_
    | simp only [kept_mk_iff]
    | with_reducible apply kept_cellUse
    | with_reducible exact nrising_del1 _ _

theorem State.plyRecord_kept {cq : List Instr} (s : Machine.State) (tid : BitVec 18) (typ : ℕ) (code : ℕ) (h_s :
    Kept cq s) : Kept cq (State.plyRecord s tid typ code) := by
  unfold State.plyRecord
  repeat' first
    | with_reducible assumption
    | with_reducible apply State.postRecord_kept
    | with_reducible apply State.plyLog_kept
    | with_reducible apply State.raise_kept
    | with_reducible apply State.plyBump_kept
    | with_reducible apply kept_ite
    | simp only [kept_mk_iff]
    | split

theorem State.writeRing_kept {cq : List Instr} (s : Machine.State) (tid : BitVec 18) (p : Stored) (h_s : Kept cq
    s) : Kept cq (State.writeRing s tid p) := by
  unfold State.writeRing
  repeat' first
    | with_reducible assumption
    | with_reducible apply State.unitWrite_kept

theorem State.storePacket_kept {cq : List Instr} (s : Machine.State) (tid : BitVec 18) (p : Packet) (udptl :
    Bool) (h_s : Kept cq s) : Kept cq (State.storePacket s tid p udptl) := by
  unfold State.storePacket
  repeat' first
    | with_reducible assumption
    | with_reducible apply State.plyBump_kept
    | with_reducible apply State.setPlay_kept
    | with_reducible apply State.noCell_kept
    | with_reducible apply State.put_kept
    | with_reducible apply State.writeRing_kept
    | with_reducible apply State.unitWrite_kept
    | with_reducible apply kept_ite
    | simp only [kept_mk_iff]
    | with_reducible apply kept_cellUse
    | with_reducible exact nrising_ins1 _ _

theorem State.playCount_kept {cq : List Instr} (s : Machine.State) (tid : BitVec 18) (ctr : ℕ) (f : PlayCounts →
    PlayCounts) (h_s : Kept cq s) : Kept cq (State.playCount s tid ctr f) := by
  unfold State.playCount
  repeat' first
    | with_reducible assumption
    | with_reducible apply State.plyBump_kept
    | with_reducible apply State.setPlay_kept

theorem State.countDup_kept {cq : List Instr} (s : Machine.State) (tid : BitVec 18) (h_s : Kept cq s) :
    Kept cq (State.countDup s tid) := by
  unfold State.countDup
  repeat' first
    | with_reducible assumption
    | with_reducible apply State.playCount_kept

theorem State.countLate_kept {cq : List Instr} (s : Machine.State) (tid : BitVec 18) (h_s : Kept cq s) :
    Kept cq (State.countLate s tid) := by
  unfold State.countLate
  repeat' first
    | with_reducible assumption
    | with_reducible apply State.playCount_kept

theorem State.countOverflow_kept {cq : List Instr} (s : Machine.State) (tid : BitVec 18) (h_s : Kept cq s) :
    Kept cq (State.countOverflow s tid) := by
  unfold State.countOverflow
  repeat' first
    | with_reducible assumption
    | with_reducible apply State.playCount_kept

theorem State.countReorder_kept {cq : List Instr} (s : Machine.State) (tid : BitVec 18) (h_s : Kept cq s) :
    Kept cq (State.countReorder s tid) := by
  unfold State.countReorder
  repeat' first
    | with_reducible assumption
    | with_reducible apply State.playCount_kept

theorem State.countDiscard_kept {cq : List Instr} (s : Machine.State) (tid : BitVec 18) (n : ℕ) (h_s : Kept cq
    s) : Kept cq (State.countDiscard s tid n) := by
  unfold State.countDiscard
  repeat' first
    | with_reducible assumption
    | with_reducible apply State.plyBumpBy_kept

theorem State.storeAnchored_kept {cq : List Instr} (s : Machine.State) (tid : BitVec 18) (p : Packet) (udptl :
    Bool) (h_s : Kept cq s) : Kept cq (State.storeAnchored s tid p udptl) := by
  unfold State.storeAnchored
  repeat' first
    | with_reducible assumption
    | with_reducible apply State.countLate_kept
    | with_reducible apply State.setPlay_kept
    | with_reducible apply State.storePacket_kept
    | with_reducible apply kept_ite

theorem State.resync_kept {cq : List Instr} (s : Machine.State) (tid : BitVec 18) (ssrc : ℕ) (p : Packet) (ts :
    ℕ) (code : ℕ) (khz : ℕ) (keep : Option (Packet × ℕ)) (h_s : Kept cq s) :
    Kept cq (State.resync s tid ssrc p ts code khz keep) := by
  unfold State.resync
  repeat' first
    | with_reducible assumption
    | with_reducible apply State.countDiscard_kept
    | with_reducible apply State.freeCells_kept
    | with_reducible apply State.plyBump_kept
    | with_reducible apply State.setPlay_kept
    | with_reducible apply State.countLate_kept
    | with_reducible apply State.storePacket_kept
    | with_reducible apply State.plyRecord_kept
    | with_reducible apply State.storeAnchored_kept
    | with_reducible apply kept_ite
    | simp only [kept_mk_iff]
    | split

theorem State.arriveTable_kept {cq : List Instr} (s : Machine.State) (tid : BitVec 18) (a : Arrival) (payload :
    List Byte) (seq : ℕ) (ts : ℕ) (ssrc : ℕ) (h_s : Kept cq s) :
    Kept cq (State.arriveTable s tid a payload seq ts ssrc) := by
  unfold State.arriveTable
  repeat' first
    | with_reducible assumption
    | with_reducible apply State.setPlay_kept
    | with_reducible apply State.countDup_kept
    | with_reducible apply State.countLate_kept
    | with_reducible apply State.resync_kept
    | with_reducible apply State.countOverflow_kept
    | with_reducible apply State.storePacket_kept
    | with_reducible apply State.countReorder_kept
    | with_reducible apply kept_ite

theorem State.arrive_kept {cq : List Instr} (s : Machine.State) (a : Arrival) (payload : List Byte) (seq : ℕ)
    (ts : ℕ) (ssrc : ℕ) (h_s : Kept cq s) : Kept cq (State.arrive s a payload seq ts ssrc) := by
  unfold State.arrive
  repeat' first
    | with_reducible assumption
    | with_reducible apply State.storeAnchored_kept
    | with_reducible apply State.setPlay_kept
    | with_reducible apply State.resync_kept
    | with_reducible apply State.arriveTable_kept
    | with_reducible apply State.countDiscard_kept
    | with_reducible apply kept_ite
    | simp only [kept_mk_iff]
    | split

theorem State.srtpFailed_kept {cq : List Instr} (s : Machine.State) (d : ℕ) (tid : BitVec 18) (e : SrtpFail)
    (h_s : Kept cq s) : Kept cq (State.srtpFailed s d tid e) := by
  unfold State.srtpFailed
  repeat' first
    | with_reducible assumption
    | with_reducible apply State.plyLog_kept
    | with_reducible apply State.plyBump_kept
    | split

theorem State.packetArrives_kept {cq : List Instr} (s : Machine.State) (a : Arrival) (h_s : Kept cq s) :
    Kept cq (State.packetArrives s a) := by
  unfold State.packetArrives
  repeat' first
    | with_reducible assumption
    | with_reducible apply State.plyBump_kept
    | with_reducible apply State.arrive_kept
    | with_reducible apply State.unprotect_kept
    | with_reducible apply State.srtpFailed_kept
    | with_reducible apply State.clsBump_kept
    | with_reducible apply kept_ite
    | with_reducible apply kept_ite_fst
    | simp only [kept_mk_iff]
    | split

theorem execPacketArrival_kept {cq : List Instr} (d : Fin 2) (s : Machine.State) (h_s : Kept cq s) :
    ResultKept cq (execPacketArrival d s) := by
  unfold execPacketArrival
  repeat' first
    | with_reducible assumption
    | with_reducible apply State.packetArrives_kept
    | with_reducible apply resultKept_next
    | simp only [kept_mk_iff]
    | with_reducible apply kept_fold
    | extract_lets
    | split

theorem State.present_kept {cq : List Instr} (s : Machine.State) (tid : BitVec 18) (b : ℕ) (p : ℕ) (udptl :
    Bool) (h_s : Kept cq s) : Kept cq (State.present s tid b p udptl) := by
  unfold State.present
  repeat' first
    | with_reducible assumption
    | with_reducible apply State.freeCells_kept
    | with_reducible apply State.setPlay_kept
    | with_reducible apply State.plyBumpBy_kept
    | with_reducible apply kept_ite

theorem State.owe_kept {cq : List Instr} (s : Machine.State) (tid : BitVec 18) (ms : ℤ) (h_s : Kept cq s) :
    Kept cq (State.owe s tid ms) := by
  unfold State.owe
  repeat' first
    | with_reducible assumption
    | with_reducible apply State.setPlay_kept
    | with_reducible apply State.countDiscard_kept
    | with_reducible apply State.freeCells_kept
    | with_reducible apply kept_ite

theorem State.playoutAdjust_kept {cq : List Instr} (s : Machine.State) (tid : BitVec 18) (h_s : Kept cq s) :
    Kept cq (State.playoutAdjust s tid) := by
  unfold State.playoutAdjust
  repeat' first
    | with_reducible assumption
    | with_reducible apply State.owe_kept
    | with_reducible apply State.setPlay_kept
    | with_reducible apply kept_ite

theorem execPlayoutAdjust_kept {cq : List Instr} (tid : BitVec 18) (s : Machine.State) (h_s : Kept cq s) :
    ResultKept cq (execPlayoutAdjust tid s) := by
  unfold execPlayoutAdjust
  repeat' first
    | with_reducible assumption
    | with_reducible apply State.playoutAdjust_kept
    | with_reducible apply resultKept_next

theorem State.plyEnable_kept {cq : List Instr} (s : Machine.State) (h_s : Kept cq s) :
    Kept cq (State.plyEnable s) := by
  unfold State.plyEnable
  repeat' first
    | with_reducible assumption
    | with_reducible apply State.put_kept
    | with_reducible refine each_kept _ _ (fun _ _ _ => ?_) ?_

theorem execPlyEnable_kept {cq : List Instr} (s : Machine.State) (h_s : Kept cq s) :
    ResultKept cq (execPlyEnable s) := by
  unfold execPlyEnable
  repeat' first
    | with_reducible assumption
    | with_reducible apply hostCmd_kept
    | with_reducible apply State.plyEnable_kept
    | with_reducible apply kept_ite
    | intro _

end Sys2Proof.Machine
end

