-- ==== Sys2Proof/Laws/KeptAdmission.lean ====
section
/-!
SUPPORT. What the operations of Machine/Admission.lean keep (Laws/Kept.lean).
-/

namespace Sys2Proof.Machine

theorem State.reassess_kept {cq : List Instr} (s : Machine.State) (n : ℕ) (h_s : Kept cq s) :
    Kept cq (State.reassess s n) := by
  unfold State.reassess
  repeat' first
    | with_reducible assumption
    | with_reducible apply State.raise_kept
    | with_reducible apply State.put_kept
    | with_reducible apply kept_ite

theorem State.tileError_kept {cq : List Instr} (s : Machine.State) (n : ℕ) (t : ℕ) (h_s : Kept cq s) :
    Kept cq (State.tileError s n t) := by
  unfold State.tileError
  repeat' first
    | with_reducible assumption
    | with_reducible apply State.setCore_kept
    | with_reducible apply State.reassess_kept
    | with_reducible apply State.put_kept
    | with_reducible apply kept_ite

theorem State.tileEcc_kept {cq : List Instr} (s : Machine.State) (n : ℕ) (t : ℕ) (bank : ℕ) (addr : ℕ) (ue :
    Bool) (synd : ℕ) (h_s : Kept cq s) : Kept cq (State.tileEcc s n t bank addr ue synd) := by
  unfold State.tileEcc
  repeat' first
    | with_reducible assumption
    | with_reducible apply State.bump_kept
    | with_reducible apply State.logError_kept
    | with_reducible apply State.tileError_kept
    | with_reducible apply kept_ite

theorem State.countStore_kept {cq : List Instr} (s : Machine.State) (n : ℕ) (ue : Bool) (h_s : Kept cq s) :
    Kept cq (State.countStore s n ue) := by
  unfold State.countStore
  repeat' first
    | with_reducible assumption
    | with_reducible apply State.setCluster_kept

theorem State.countCellar_kept {cq : List Instr} (s : Machine.State) (d : ℕ) (ue : Bool) (h_s : Kept cq s) :
    Kept cq (State.countCellar s d ue) := by
  unfold State.countCellar
  repeat' first
    | with_reducible assumption
    | with_reducible apply State.bumpDie_kept

theorem State.storeEcc_kept {cq : List Instr} (s : Machine.State) (n : ℕ) (bank : ℕ) (addr : ℕ) (ue : Bool)
    (synd : ℕ) (h_s : Kept cq s) : Kept cq (State.storeEcc s n bank addr ue synd) := by
  unfold State.storeEcc
  repeat' first
    | with_reducible assumption
    | with_reducible apply State.logError_kept
    | with_reducible apply State.setCluster_kept

theorem State.dramEcc_kept {cq : List Instr} (s : Machine.State) (c : ℕ) (addr : ℕ) (ue : Bool) (synd : ℕ) (h_s
    : Kept cq s) : Kept cq (State.dramEcc s c addr ue synd) := by
  unfold State.dramEcc
  repeat' first
    | with_reducible assumption
    | with_reducible apply State.bump_kept
    | with_reducible apply State.raise_kept
    | with_reducible apply State.logError_kept
    | with_reducible apply kept_ite

theorem State.noteEcc_kept {cq : List Instr} (s : Machine.State) (a : ℕ) (ue : Bool) (synd : ℕ) (h_s : Kept cq
    s) : Kept cq (State.noteEcc s a ue synd) := by
  unfold State.noteEcc
  repeat' first
    | with_reducible assumption
    | with_reducible apply State.tileEcc_kept
    | with_reducible apply State.storeEcc_kept
    | with_reducible apply State.countStore_kept
    | with_reducible apply State.logError_kept
    | with_reducible apply State.countCellar_kept
    | with_reducible apply State.dramEcc_kept
    | split

theorem State.eccAt_kept {cq : List Instr} (s : Machine.State) (a : ℕ) (e : Ecc) (h_s : Kept cq s) :
    Kept cq (State.eccAt s a e) := by
  unfold State.eccAt
  repeat' first
    | with_reducible assumption
    | with_reducible apply State.noteEcc_kept
    | with_reducible apply State.poisonWord_kept
    | split

theorem State.otherEcc_kept {cq : List Instr} (s : Machine.State) (d : ℕ) (ue : Bool) (synd : ℕ) (h_s : Kept cq
    s) : Kept cq (State.otherEcc s d ue synd) := by
  unfold State.otherEcc
  repeat' first
    | with_reducible assumption
    | with_reducible apply State.logError_kept

end Sys2Proof.Machine
end

