-- ==== Sys2Proof/Laws/KeptSlotOps.lean ====
section
/-!
SUPPORT. What the operations of Machine/SlotOps.lean keep (Laws/Kept.lean).
-/

namespace Sys2Proof.Machine

theorem State.writeHome_kept {cq : List Instr} (s : Machine.State) (n : ℕ) (tid : BitVec 18) (valid : Bool)
    (moving : Bool) (slot : ℕ) (version : ℕ) (h_s : Kept cq s) :
    Kept cq (State.writeHome s n tid valid moving slot version) := by
  unfold State.writeHome
  repeat' first
    | with_reducible assumption
    | with_reducible apply State.unitWrite_kept

theorem State.recount_kept {cq : List Instr} (s : Machine.State) (n : ℕ) (h_s : Kept cq s) :
    Kept cq (State.recount s n) := by
  unfold State.recount
  repeat' first
    | with_reducible assumption
    | with_reducible apply State.put_kept
    | with_reducible refine each_kept _ _ (fun _ _ _ => ?_) ?_

theorem State.settleSlots_kept {cq : List Instr} (s : Machine.State) (n : ℕ) (h_s : Kept cq s) :
    Kept cq (State.settleSlots s n) := by
  unfold State.settleSlots
  repeat' first
    | with_reducible assumption
    | with_reducible apply State.reassess_kept
    | with_reducible apply State.recount_kept

theorem State.dropPlay_kept {cq : List Instr} (s : State) (tid : BitVec 18) (h : Kept cq s) :
    Kept cq (State.dropPlay s tid) := by
  unfold State.dropPlay
  extract_lets x
  rw [kept_mk_iff]
  exact { kept_fold (State.freeCells_kept s (x.ring ++ x.pres) h) with c_plays := swf_sset (fun _ => _) _ _ _ h.1.plays }

theorem State.dropPeriodic_kept {cq : List Instr} (s : Machine.State) (n : ℕ) (k : ℕ) (h_s : Kept cq s) :
    Kept cq (State.dropPeriodic s n k) := by
  unfold State.dropPeriodic
  repeat' first
    | with_reducible assumption
    | with_reducible apply State.setCluster_kept

theorem State.clearSlot_kept {cq : List Instr} (s : Machine.State) (n : ℕ) (k : ℕ) (h_s : Kept cq s) :
    Kept cq (State.clearSlot s n k) := by
  unfold State.clearSlot
  repeat' first
    | with_reducible assumption
    | with_reducible apply State.settleSlots_kept
    | with_reducible apply State.setSlot_kept

theorem State.freeTermination_kept {cq : List Instr} (s : Machine.State) (n : ℕ) (k : ℕ) (h_s : Kept cq s) :
    Kept cq (State.freeTermination s n k) := by
  unfold State.freeTermination
  repeat' first
    | with_reducible assumption
    | with_reducible apply State.clearSlot_kept
    | with_reducible apply State.dropPeriodic_kept
    | with_reducible apply State.writeHome_kept
    | with_reducible apply State.clsDelete_kept
    | with_reducible apply State.dropPlay_kept

theorem State.reap_kept {cq : List Instr} (s : Machine.State) (n : ℕ) (k : ℕ) (h_s : Kept cq s) :
    Kept cq (State.reap s n k) := by
  unfold State.reap
  repeat' first
    | with_reducible assumption
    | with_reducible apply State.freeTermination_kept
    | with_reducible apply kept_ite

end Sys2Proof.Machine
end

