-- ==== Sys2Proof/Laws/KeptRuns.lean ====
section
/-!
SUPPORT. What the operations of Machine/Runs.lean keep (Laws/Kept.lean).
-/

namespace Sys2Proof.Machine

theorem State.setRun_kept {cq : List Instr} (s : Machine.State) (n : ℕ) (k : ℕ) (chain : Fin 2) (r : Option Run)
    (h_s : Kept cq s) : Kept cq (State.setRun s n k chain r) := by
  unfold State.setRun
  repeat' first
    | with_reducible assumption
    | with_reducible apply State.setSlot_kept
    | with_reducible apply kept_ite

theorem State.logMiss_kept {cq : List Instr} (s : Machine.State) (n : ℕ) (tid : BitVec 18) (idx : ℕ) (cause : ℕ)
    (h_s : Kept cq s) : Kept cq (State.logMiss s n tid idx cause) := by
  unfold State.logMiss
  repeat' first
    | with_reducible assumption
    | with_reducible apply State.bump_kept
    | with_reducible apply State.setReg_kept
    | with_reducible apply State.wv_kept
    | with_reducible apply State.raise_kept
    | with_reducible apply kept_ite

theorem State.missSlot_kept {cq : List Instr} (s : Machine.State) (n : ℕ) (k : ℕ) (idx : ℕ) (cause : ℕ) (h_s :
    Kept cq s) : Kept cq (State.missSlot s n k idx cause) := by
  unfold State.missSlot
  repeat' first
    | with_reducible assumption
    | with_reducible apply State.logMiss_kept
    | with_reducible apply State.setSlot_kept

theorem State.missRun_kept {cq : List Instr} (s : Machine.State) (n : ℕ) (k : ℕ) (chain : Fin 2) (cause : ℕ)
    (h_s : Kept cq s) : Kept cq (State.missRun s n k chain cause) := by
  unfold State.missRun
  repeat' first
    | with_reducible assumption
    | with_reducible apply State.missSlot_kept
    | with_reducible apply State.setRun_kept
    | with_reducible apply kept_ite
    | split

theorem State.countShed_kept {cq : List Instr} (s : Machine.State) (n : ℕ) (k : ℕ) (h_s : Kept cq s) :
    Kept cq (State.countShed s n k) := by
  unfold State.countShed
  repeat' first
    | with_reducible assumption
    | with_reducible apply State.bump_kept
    | with_reducible apply State.setSlot_kept

theorem State.countPlc_kept {cq : List Instr} (s : Machine.State) (n : ℕ) (h_s : Kept cq s) :
    Kept cq (State.countPlc s n) := by
  unfold State.countPlc
  repeat' first
    | with_reducible assumption
    | with_reducible apply State.bump_kept

theorem State.shedOpt_kept {cq : List Instr} (s : Machine.State) (n : ℕ) (k : ℕ) (chain : Fin 2) (l : List (ℕ ×
    ℕ × ℕ)) (h_s : Kept cq s) : Kept cq (State.shedOpt s n k chain l) := by
  unfold State.shedOpt
  repeat' first
    | with_reducible assumption
    | with_reducible apply State.countShed_kept
    | with_reducible apply State.setRun_kept
    | with_reducible apply kept_ite
    | with_reducible refine each_kept _ _ (fun _ _ _ => ?_) ?_
    | extract_lets
    | split

theorem State.substPlc_kept {cq : List Instr} (s : Machine.State) (n : ℕ) (k : ℕ) (chain : Fin 2) (l : List (ℕ ×
    ℕ × ℕ)) (h_s : Kept cq s) : Kept cq (State.substPlc s n k chain l) := by
  unfold State.substPlc
  repeat' first
    | with_reducible assumption
    | with_reducible apply State.countPlc_kept
    | with_reducible apply State.setRun_kept
    | with_reducible apply kept_ite
    | with_reducible refine each_kept _ _ (fun _ _ _ => ?_) ?_
    | extract_lets
    | split

theorem State.addExcess_kept {cq : List Instr} (s : Machine.State) (n : ℕ) (k : ℕ) (chain : Fin 2) (x : ℕ) (h_s
    : Kept cq s) : Kept cq (State.addExcess s n k chain x) := by
  unfold State.addExcess
  repeat' first
    | with_reducible assumption
    | with_reducible apply State.setRun_kept
    | with_reducible apply State.shedOpt_kept
    | with_reducible apply State.substPlc_kept
    | with_reducible apply State.missRun_kept
    | with_reducible apply kept_ite
    | simp only [kept_mk_iff]
    | split

theorem State.forkTrace_kept {cq : List Instr} (s : Machine.State) (n : ℕ) (tid : BitVec 18) (boundary : ℕ) (b :
    Block) (h_s : Kept cq s) : Kept cq (State.forkTrace s n tid boundary b) := by
  unfold State.forkTrace
  repeat' first
    | with_reducible assumption
    | with_reducible apply State.trcBump_kept
    | with_reducible apply State.raise_kept
    | with_reducible apply State.draw_kept
    | with_reducible apply State.capture_kept
    | with_reducible apply kept_ite
    | with_reducible refine each_kept _ _ (fun _ _ _ => ?_) ?_

theorem State.kernelError_kept {cq : List Instr} (s : Machine.State) (n : ℕ) (h_s : Kept cq s) :
    Kept cq (State.kernelError s n) := by
  unfold State.kernelError
  repeat' first
    | with_reducible assumption
    | with_reducible apply State.raise_kept
    | with_reducible apply State.bump_kept

theorem State.endRun_kept {cq : List Instr} (s : Machine.State) (n : ℕ) (k : ℕ) (chain : Fin 2) (h_s : Kept cq
    s) : Kept cq (State.endRun s n k chain) := by
  unfold State.endRun
  repeat' first
    | with_reducible assumption
    | with_reducible apply State.setRun_kept
    | with_reducible apply State.reap_kept
    | with_reducible apply State.freeCells_kept
    | simp only [kept_mk_iff]
    | split

theorem State.instrDone_kept {cq : List Instr} (s : Machine.State) (n : ℕ) (k : ℕ) (chain : Fin 2) (out : Option
    Block) (h_s : Kept cq s) : Kept cq (State.instrDone s n k chain out) := by
  unfold State.instrDone
  repeat' first
    | with_reducible assumption
    | with_reducible apply State.endRun_kept
    | with_reducible apply State.setRun_kept
    | with_reducible apply State.forkTrace_kept
    | with_reducible apply kept_ite
    | simp only [kept_mk_iff]
    | extract_lets
    | split

theorem State.stateBack_kept {cq : List Instr} (s : Machine.State) (n : ℕ) (t : ℕ) (it : Item) (h_s : Kept cq s)
    : Kept cq (State.stateBack s n t it) := by
  unfold State.stateBack
  repeat' first
    | with_reducible assumption
    | with_reducible apply State.copyBytes_kept
    | split

theorem State.runItemDone_kept {cq : List Instr} (s : Machine.State) (n : ℕ) (t : ℕ) (it : Item) (cyc : ℕ) (code
    : ℕ) (h_s : Kept cq s) : Kept cq (State.runItemDone s n t it cyc code) := by
  unfold State.runItemDone
  repeat' first
    | with_reducible assumption
    | with_reducible apply State.kernelError_kept
    | with_reducible apply State.addExcess_kept
    | with_reducible apply State.instrDone_kept
    | with_reducible apply State.stateBack_kept
    | with_reducible apply kept_ite
    | simp only [kept_mk_iff]
    | split

theorem State.faultPasses_kept {cq : List Instr} (s : Machine.State) (n : ℕ) (k : ℕ) (chain : Fin 2) (h_s : Kept
    cq s) : Kept cq (State.faultPasses s n k chain) := by
  unfold State.faultPasses
  repeat' first
    | with_reducible assumption
    | with_reducible apply State.countPlc_kept
    | with_reducible apply State.setRun_kept
    | with_reducible apply State.instrDone_kept
    | with_reducible apply kept_ite
    | simp only [kept_mk_iff]
    | split

theorem State.runItemFault_kept {cq : List Instr} (s : Machine.State) (n : ℕ) (it : Item) (cyc : ℕ) (h_s : Kept
    cq s) : Kept cq (State.runItemFault s n it cyc) := by
  unfold State.runItemFault
  repeat' first
    | with_reducible assumption
    | with_reducible apply State.faultPasses_kept
    | with_reducible apply State.missRun_kept
    | with_reducible apply State.addExcess_kept
    | split

end Sys2Proof.Machine
end

