-- ==== Sys2Proof/Laws/KeptBundle.lean ====
section
/-!
SUPPORT. What the operations of Machine/Bundle.lean keep (Laws/Kept.lean).
-/

namespace Sys2Proof.Machine

theorem State.endItem_kept {cq : List Instr} (s : Machine.State) (n : ℕ) (t : ℕ) (h_s : Kept cq s) :
    Kept cq (State.endItem s n t) := by
  unfold State.endItem
  repeat' first
    | with_reducible assumption
    | with_reducible apply State.setCore_kept
    | with_reducible apply State.put_kept
    | with_reducible apply State.abandonAll_kept

theorem State.logException_kept {cq : List Instr} (s : Machine.State) (n : ℕ) (t : ℕ) (code : ℕ) (addr : ℕ) (h_s
    : Kept cq s) : Kept cq (State.logException s n t code addr) := by
  unfold State.logException
  repeat' first
    | with_reducible assumption
    | with_reducible apply State.put_kept
    | with_reducible apply State.wv_kept
    | with_reducible apply State.setReg_kept
    | with_reducible apply kept_ite

theorem State.exception_kept {cq : List Instr} (s : Machine.State) (n : ℕ) (t : ℕ) (code : ℕ) (addr : ℕ) (h_s :
    Kept cq s) : Kept cq (State.exception s n t code addr) := by
  unfold State.exception
  repeat' first
    | with_reducible assumption
    | with_reducible apply State.raise_kept
    | with_reducible apply State.bump_kept
    | with_reducible apply State.logException_kept
    | with_reducible apply State.endItem_kept
    | with_reducible apply State.runItemFault_kept
    | simp only [kept_mk_iff]
    | split

theorem State.returnItem_kept {cq : List Instr} (s : Machine.State) (n : ℕ) (t : ℕ) (h_s : Kept cq s) :
    Kept cq (State.returnItem s n t) := by
  unfold State.returnItem
  repeat' first
    | with_reducible assumption
    | with_reducible apply State.endItem_kept
    | with_reducible apply State.bump_kept
    | with_reducible apply State.runItemDone_kept
    | simp only [kept_mk_iff]
    | split

theorem State.access_kept {cq : List Instr} (s : Machine.State) (n : ℕ) (t : ℕ) (fwb : ℕ) (m : MemOp) (h_s :
    Kept cq s) : Kept cq (State.access s n t fwb m).s := by
  unfold State.access
  repeat' first
    | with_reducible assumption
    | with_reducible apply State.eccAt_kept
    | with_reducible apply State.write_kept
    | simp only [kept_mk_iff]
    | split

theorem State.accessAll_kept {cq : List Instr} (s : Machine.State) (n : ℕ) (t : ℕ) (fwb : ℕ) (x1_10 : List
    MemOp) (h_s : Kept cq s) : Kept cq (State.accessAll s n t fwb x1_10).s := by
  induction x1_10 generalizing s with
  | nil =>
    unfold State.accessAll
    repeat' first
      | with_reducible assumption
      | with_reducible apply ih
      | with_reducible apply State.access_kept
      | simp only [kept_mk_iff]
      | split
  | cons x l ih =>
    unfold State.accessAll
    repeat' first
      | with_reducible assumption
      | with_reducible apply ih
      | with_reducible apply State.access_kept
      | simp only [kept_mk_iff]
      | split

theorem State.streamRead_kept {cq : List Instr} (s : Machine.State) (n : ℕ) (t : ℕ) (fwb : ℕ) (a : ℕ) (ecc :
    Ecc) (h_s : Kept cq s) : Kept cq (State.streamRead s n t fwb a ecc).1 := by
  unfold State.streamRead
  repeat' first
    | with_reducible assumption
    | with_reducible apply State.eccAt_kept
    | with_reducible apply kept_ite_fst
    | extract_lets
    | split

theorem State.caskEcc_kept {cq : List Instr} (s : Machine.State) (h : ℕ) (e : Ecc) (h_s : Kept cq s) :
    Kept cq (State.caskEcc s h e) := by
  unfold State.caskEcc
  repeat' first
    | with_reducible assumption
    | with_reducible apply State.eccAt_kept
    | with_reducible apply kept_ite
    | split

theorem State.coreRead_kept {cq : List Instr} (s : Machine.State) (h : ℕ) (rd : Fin 32) (rs : Fin 32) (e : Ecc)
    (h_s : Kept cq s) : Kept cq (State.coreRead s h rd rs e).1 := by
  unfold State.coreRead
  repeat' first
    | with_reducible assumption
    | with_reducible apply State.caskEcc_kept
    | with_reducible apply State.consume_kept
    | with_reducible apply kept_ite

theorem State.ctlEffect_kept {cq : List Instr} (s : Machine.State) (n : ℕ) (t : ℕ) (next : ℕ) (x : Ctl) (h_s :
    Kept cq s) : Kept cq (State.ctlEffect s n t next x).1 := by
  unfold State.ctlEffect
  repeat' first
    | with_reducible assumption
    | with_reducible apply State.offerWord_kept
    | with_reducible apply State.commitPkt_kept
    | with_reducible apply State.abandonPkt_kept
    | with_reducible apply State.coreRead_kept
    | with_reducible apply State.postWork_kept
    | with_reducible apply State.delayWork_kept
    | simp only [kept_mk_iff]
    | split

theorem State.haltTile_kept {cq : List Instr} (s : Machine.State) (n : ℕ) (t : ℕ) (h_s : Kept cq s) :
    Kept cq (State.haltTile s n t) := by
  unfold State.haltTile
  repeat' first
    | with_reducible assumption
    | with_reducible apply State.setCore_kept
    | with_reducible apply State.put_kept

theorem State.countBundle_kept {cq : List Instr} (s : Machine.State) (n : ℕ) (t : ℕ) (k : Costs) (h_s : Kept cq
    s) : Kept cq (State.countBundle s n t k) := by
  unfold State.countBundle
  repeat' first
    | with_reducible assumption
    | with_reducible apply State.bumpBy_kept
    | with_reducible apply kept_ite

theorem State.commitBundle_kept {cq : List Instr} (s : Machine.State) (n : ℕ) (t : ℕ) (ps : List Pend) (a :
    Access) (cs : Option (ℕ × ℕ)) (h_s : Kept cq s) (h_a : Kept cq a.s) :
    Kept cq (State.commitBundle s n t ps a cs) := by
  unfold State.commitBundle
  repeat' first
    | with_reducible assumption
    | with_reducible apply State.ctlEffect_kept
    | with_reducible apply State.countBundle_kept
    | with_reducible apply State.setCore_kept
    | with_reducible apply State.draw_kept
    | with_reducible apply State.returnItem_kept
    | simp only [kept_mk_iff]
    | extract_lets
    | split

theorem State.bundleFaults_kept {cq : List Instr} (s : Machine.State) (n : ℕ) (t : ℕ) (code : ℕ) (addr : ℕ) (h_s
    : Kept cq s) : Kept cq (State.bundleFaults s n t code addr) := by
  unfold State.bundleFaults
  repeat' first
    | with_reducible assumption
    | with_reducible apply State.exception_kept
    | with_reducible apply State.setCore_kept
    | with_reducible apply State.bumpBy_kept

theorem State.bundleAccess_kept {cq : List Instr} (s : Machine.State) (n t fwb p15 : Nat) (ms : List MemOp) (stream : Bool)
    (ecc : Ecc) (h_s : Kept cq s) : Kept cq (State.bundleAccess s n t fwb p15 ms stream ecc).1.s := by
  unfold State.bundleAccess
  extract_lets a
  have h : Kept cq a.s := State.accessAll_kept _ _ _ _ _ h_s
  split
  · exact h
  · split
    · exact State.streamRead_kept _ _ _ _ _ _ h
    · exact h

theorem State.runBundle_kept {cq : List Instr} (s : Machine.State) (n : ℕ) (t : ℕ) (ps : List Pend) (ended :
    Bool) (ecc : Ecc) (h_s : Kept cq s) : Kept cq (State.runBundle s n t ps ended ecc) := by
  unfold State.runBundle
  repeat' first
    | with_reducible assumption
    | with_reducible apply State.haltTile_kept
    | with_reducible apply State.bundleFaults_kept
    | with_reducible apply State.bundleAccess_kept
    | with_reducible apply State.eccAt_kept
    | with_reducible apply State.commitBundle_kept
    | with_reducible apply kept_ite
    | simp only [kept_mk_iff]
    | split

theorem State.fetchWord_kept {cq : List Instr} (s : Machine.State) (n : ℕ) (t : ℕ) (a : ℕ) (ecc : Ecc) (h_s :
    Kept cq s) : Kept cq (State.fetchWord s n t a ecc).1 := by
  unfold State.fetchWord
  repeat' first
    | with_reducible assumption
    | with_reducible apply State.tileEcc_kept
    | with_reducible apply State.setCore_kept
    | with_reducible apply State.eccAt_kept
    | with_reducible apply kept_ite_fst
    | extract_lets
    | split

theorem State.fetchFault_kept {cq : List Instr} (s : Machine.State) (n : ℕ) (t : ℕ) (a : ℕ) (code : ℕ) (h_s :
    Kept cq s) : Kept cq (State.fetchFault s n t a code) := by
  unfold State.fetchFault
  repeat' first
    | with_reducible assumption
    | with_reducible apply State.haltTile_kept
    | with_reducible apply State.exception_kept
    | with_reducible apply kept_ite

theorem State.issue_kept {cq : List Instr} (s : Machine.State) (i : Instr) (h : Head) (p : Core → Pend) (h_s :
    Kept cq s) : Kept cq (State.issue s i h p) := by
  unfold State.issue
  repeat' first
    | with_reducible assumption
    | with_reducible apply State.exception_kept
    | with_reducible apply State.fetchFault_kept
    | with_reducible apply State.fetchWord_kept
    | with_reducible apply State.runBundle_kept
    | with_reducible apply State.setCore_kept
    | with_reducible apply kept_ite

end Sys2Proof.Machine
end

