-- ==== Sys2Proof/Laws/KeptAlu.lean ====
section
/-!
SUPPORT. What the operations of Machine/Alu.lean keep (Laws/Kept.lean).
-/

namespace Sys2Proof.Machine

theorem issued_kept {cq : List Instr} (s : Machine.State) (i : Instr) (h : Head) (p : Core → Pend) (h_s : Kept
    cq s) : ResultKept cq (issued s i h p) := by
  unfold issued
  repeat' first
    | with_reducible assumption
    | with_reducible apply State.issue_kept
    | with_reducible apply resultKept_next

theorem alu3_kept {cq : List Instr} (i : Instr) (h : Head) (rd : Fin 32) (rs : Fin 32) (rt : Fin 32) (f : Word →
    Word → Word × Bool) (s : Machine.State) (h_s : Kept cq s) : ResultKept cq (alu3 i h rd rs rt f s) := by
  unfold alu3
  repeat' first
    | with_reducible assumption
    | with_reducible apply issued_kept

theorem alu2_kept {cq : List Instr} (i : Instr) (h : Head) (rd : Fin 32) (rs : Fin 32) (f : Word → Word × Bool)
    (s : Machine.State) (h_s : Kept cq s) : ResultKept cq (alu2 i h rd rs f s) := by
  unfold alu2
  repeat' first
    | with_reducible assumption
    | with_reducible apply issued_kept

theorem execAdd_kept {cq : List Instr} (h : Head) (rd : Fin 32) (rs : Fin 32) (rt : Fin 32) (s : Machine.State)
    (h_s : Kept cq s) : ResultKept cq (execAdd h rd rs rt s) := by
  unfold execAdd
  repeat' first
    | with_reducible assumption
    | with_reducible apply alu3_kept

theorem execSub_kept {cq : List Instr} (h : Head) (rd : Fin 32) (rs : Fin 32) (rt : Fin 32) (s : Machine.State)
    (h_s : Kept cq s) : ResultKept cq (execSub h rd rs rt s) := by
  unfold execSub
  repeat' first
    | with_reducible assumption
    | with_reducible apply alu3_kept

theorem execAdds_kept {cq : List Instr} (h : Head) (rd : Fin 32) (rs : Fin 32) (rt : Fin 32) (s : Machine.State)
    (h_s : Kept cq s) : ResultKept cq (execAdds h rd rs rt s) := by
  unfold execAdds
  repeat' first
    | with_reducible assumption
    | with_reducible apply alu3_kept

theorem execSubs_kept {cq : List Instr} (h : Head) (rd : Fin 32) (rs : Fin 32) (rt : Fin 32) (s : Machine.State)
    (h_s : Kept cq s) : ResultKept cq (execSubs h rd rs rt s) := by
  unfold execSubs
  repeat' first
    | with_reducible assumption
    | with_reducible apply alu3_kept

theorem execAdd2_kept {cq : List Instr} (h : Head) (rd : Fin 32) (rs : Fin 32) (rt : Fin 32) (s : Machine.State)
    (h_s : Kept cq s) : ResultKept cq (execAdd2 h rd rs rt s) := by
  unfold execAdd2
  repeat' first
    | with_reducible assumption
    | with_reducible apply alu3_kept

theorem execSub2_kept {cq : List Instr} (h : Head) (rd : Fin 32) (rs : Fin 32) (rt : Fin 32) (s : Machine.State)
    (h_s : Kept cq s) : ResultKept cq (execSub2 h rd rs rt s) := by
  unfold execSub2
  repeat' first
    | with_reducible assumption
    | with_reducible apply alu3_kept

theorem execAdd2s_kept {cq : List Instr} (h : Head) (rd : Fin 32) (rs : Fin 32) (rt : Fin 32) (s :
    Machine.State) (h_s : Kept cq s) : ResultKept cq (execAdd2s h rd rs rt s) := by
  unfold execAdd2s
  repeat' first
    | with_reducible assumption
    | with_reducible apply alu3_kept

theorem execSub2s_kept {cq : List Instr} (h : Head) (rd : Fin 32) (rs : Fin 32) (rt : Fin 32) (s :
    Machine.State) (h_s : Kept cq s) : ResultKept cq (execSub2s h rd rs rt s) := by
  unfold execSub2s
  repeat' first
    | with_reducible assumption
    | with_reducible apply alu3_kept

theorem execAnd_kept {cq : List Instr} (h : Head) (rd : Fin 32) (rs : Fin 32) (rt : Fin 32) (s : Machine.State)
    (h_s : Kept cq s) : ResultKept cq (execAnd h rd rs rt s) := by
  unfold execAnd
  repeat' first
    | with_reducible assumption
    | with_reducible apply alu3_kept

theorem execOr_kept {cq : List Instr} (h : Head) (rd : Fin 32) (rs : Fin 32) (rt : Fin 32) (s : Machine.State)
    (h_s : Kept cq s) : ResultKept cq (execOr h rd rs rt s) := by
  unfold execOr
  repeat' first
    | with_reducible assumption
    | with_reducible apply alu3_kept

theorem execXor_kept {cq : List Instr} (h : Head) (rd : Fin 32) (rs : Fin 32) (rt : Fin 32) (s : Machine.State)
    (h_s : Kept cq s) : ResultKept cq (execXor h rd rs rt s) := by
  unfold execXor
  repeat' first
    | with_reducible assumption
    | with_reducible apply alu3_kept

theorem execAndn_kept {cq : List Instr} (h : Head) (rd : Fin 32) (rs : Fin 32) (rt : Fin 32) (s : Machine.State)
    (h_s : Kept cq s) : ResultKept cq (execAndn h rd rs rt s) := by
  unfold execAndn
  repeat' first
    | with_reducible assumption
    | with_reducible apply alu3_kept

theorem execShl_kept {cq : List Instr} (h : Head) (rd : Fin 32) (rs : Fin 32) (rt : Fin 32) (s : Machine.State)
    (h_s : Kept cq s) : ResultKept cq (execShl h rd rs rt s) := by
  unfold execShl
  repeat' first
    | with_reducible assumption
    | with_reducible apply alu3_kept

theorem execShr_kept {cq : List Instr} (h : Head) (rd : Fin 32) (rs : Fin 32) (rt : Fin 32) (s : Machine.State)
    (h_s : Kept cq s) : ResultKept cq (execShr h rd rs rt s) := by
  unfold execShr
  repeat' first
    | with_reducible assumption
    | with_reducible apply alu3_kept

theorem execSra_kept {cq : List Instr} (h : Head) (rd : Fin 32) (rs : Fin 32) (rt : Fin 32) (s : Machine.State)
    (h_s : Kept cq s) : ResultKept cq (execSra h rd rs rt s) := by
  unfold execSra
  repeat' first
    | with_reducible assumption
    | with_reducible apply alu3_kept

theorem execShls_kept {cq : List Instr} (h : Head) (rd : Fin 32) (rs : Fin 32) (rt : Fin 32) (s : Machine.State)
    (h_s : Kept cq s) : ResultKept cq (execShls h rd rs rt s) := by
  unfold execShls
  repeat' first
    | with_reducible assumption
    | with_reducible apply alu3_kept

theorem execMin_kept {cq : List Instr} (h : Head) (rd : Fin 32) (rs : Fin 32) (rt : Fin 32) (s : Machine.State)
    (h_s : Kept cq s) : ResultKept cq (execMin h rd rs rt s) := by
  unfold execMin
  repeat' first
    | with_reducible assumption
    | with_reducible apply alu3_kept

theorem execMax_kept {cq : List Instr} (h : Head) (rd : Fin 32) (rs : Fin 32) (rt : Fin 32) (s : Machine.State)
    (h_s : Kept cq s) : ResultKept cq (execMax h rd rs rt s) := by
  unfold execMax
  repeat' first
    | with_reducible assumption
    | with_reducible apply alu3_kept

theorem execMinu_kept {cq : List Instr} (h : Head) (rd : Fin 32) (rs : Fin 32) (rt : Fin 32) (s : Machine.State)
    (h_s : Kept cq s) : ResultKept cq (execMinu h rd rs rt s) := by
  unfold execMinu
  repeat' first
    | with_reducible assumption
    | with_reducible apply alu3_kept

theorem execMaxu_kept {cq : List Instr} (h : Head) (rd : Fin 32) (rs : Fin 32) (rt : Fin 32) (s : Machine.State)
    (h_s : Kept cq s) : ResultKept cq (execMaxu h rd rs rt s) := by
  unfold execMaxu
  repeat' first
    | with_reducible assumption
    | with_reducible apply alu3_kept

theorem execPackll_kept {cq : List Instr} (h : Head) (rd : Fin 32) (rs : Fin 32) (rt : Fin 32) (s :
    Machine.State) (h_s : Kept cq s) : ResultKept cq (execPackll h rd rs rt s) := by
  unfold execPackll
  repeat' first
    | with_reducible assumption
    | with_reducible apply alu3_kept

theorem execPackhh_kept {cq : List Instr} (h : Head) (rd : Fin 32) (rs : Fin 32) (rt : Fin 32) (s :
    Machine.State) (h_s : Kept cq s) : ResultKept cq (execPackhh h rd rs rt s) := by
  unfold execPackhh
  repeat' first
    | with_reducible assumption
    | with_reducible apply alu3_kept

theorem execAbs_kept {cq : List Instr} (h : Head) (rd : Fin 32) (rs : Fin 32) (s : Machine.State) (h_s : Kept cq
    s) : ResultKept cq (execAbs h rd rs s) := by
  unfold execAbs
  repeat' first
    | with_reducible assumption
    | with_reducible apply alu2_kept

theorem execAbss_kept {cq : List Instr} (h : Head) (rd : Fin 32) (rs : Fin 32) (s : Machine.State) (h_s : Kept
    cq s) : ResultKept cq (execAbss h rd rs s) := by
  unfold execAbss
  repeat' first
    | with_reducible assumption
    | with_reducible apply alu2_kept

theorem execNeg_kept {cq : List Instr} (h : Head) (rd : Fin 32) (rs : Fin 32) (s : Machine.State) (h_s : Kept cq
    s) : ResultKept cq (execNeg h rd rs s) := by
  unfold execNeg
  repeat' first
    | with_reducible assumption
    | with_reducible apply alu2_kept

theorem execNegs_kept {cq : List Instr} (h : Head) (rd : Fin 32) (rs : Fin 32) (s : Machine.State) (h_s : Kept
    cq s) : ResultKept cq (execNegs h rd rs s) := by
  unfold execNegs
  repeat' first
    | with_reducible assumption
    | with_reducible apply alu2_kept

theorem execMov_kept {cq : List Instr} (h : Head) (rd : Fin 32) (rs : Fin 32) (s : Machine.State) (h_s : Kept cq
    s) : ResultKept cq (execMov h rd rs s) := by
  unfold execMov
  repeat' first
    | with_reducible assumption
    | with_reducible apply alu2_kept

theorem execClz_kept {cq : List Instr} (h : Head) (rd : Fin 32) (rs : Fin 32) (s : Machine.State) (h_s : Kept cq
    s) : ResultKept cq (execClz h rd rs s) := by
  unfold execClz
  repeat' first
    | with_reducible assumption
    | with_reducible apply alu2_kept

theorem execNorm_kept {cq : List Instr} (h : Head) (rd : Fin 32) (rs : Fin 32) (s : Machine.State) (h_s : Kept
    cq s) : ResultKept cq (execNorm h rd rs s) := by
  unfold execNorm
  repeat' first
    | with_reducible assumption
    | with_reducible apply alu2_kept

theorem execNorm16_kept {cq : List Instr} (h : Head) (rd : Fin 32) (rs : Fin 32) (s : Machine.State) (h_s : Kept
    cq s) : ResultKept cq (execNorm16 h rd rs s) := by
  unfold execNorm16
  repeat' first
    | with_reducible assumption
    | with_reducible apply alu2_kept

theorem execSxh_kept {cq : List Instr} (h : Head) (rd : Fin 32) (rs : Fin 32) (s : Machine.State) (h_s : Kept cq
    s) : ResultKept cq (execSxh h rd rs s) := by
  unfold execSxh
  repeat' first
    | with_reducible assumption
    | with_reducible apply alu2_kept

theorem execZxh_kept {cq : List Instr} (h : Head) (rd : Fin 32) (rs : Fin 32) (s : Machine.State) (h_s : Kept cq
    s) : ResultKept cq (execZxh h rd rs s) := by
  unfold execZxh
  repeat' first
    | with_reducible assumption
    | with_reducible apply alu2_kept

theorem execSat16_kept {cq : List Instr} (h : Head) (rd : Fin 32) (rs : Fin 32) (s : Machine.State) (h_s : Kept
    cq s) : ResultKept cq (execSat16 h rd rs s) := by
  unfold execSat16
  repeat' first
    | with_reducible assumption
    | with_reducible apply alu2_kept

theorem execAddi_kept {cq : List Instr} (h : Head) (rd : Fin 32) (rs : Fin 32) (imm : BitVec 11) (s :
    Machine.State) (h_s : Kept cq s) : ResultKept cq (execAddi h rd rs imm s) := by
  unfold execAddi
  repeat' first
    | with_reducible assumption
    | with_reducible apply alu2_kept

theorem execAndi_kept {cq : List Instr} (h : Head) (rd : Fin 32) (rs : Fin 32) (imm : BitVec 11) (s :
    Machine.State) (h_s : Kept cq s) : ResultKept cq (execAndi h rd rs imm s) := by
  unfold execAndi
  repeat' first
    | with_reducible assumption
    | with_reducible apply alu2_kept

theorem execOri_kept {cq : List Instr} (h : Head) (rd : Fin 32) (rs : Fin 32) (imm : BitVec 11) (s :
    Machine.State) (h_s : Kept cq s) : ResultKept cq (execOri h rd rs imm s) := by
  unfold execOri
  repeat' first
    | with_reducible assumption
    | with_reducible apply alu2_kept

theorem execShi_kept {cq : List Instr} (h : Head) (func : BitVec 2) (rd : Fin 32) (rs : Fin 32) (amt : BitVec 5)
    (s : Machine.State) (h_s : Kept cq s) : ResultKept cq (execShi h func rd rs amt s) := by
  unfold execShi
  repeat' first
    | with_reducible assumption
    | with_reducible apply alu2_kept

theorem execMovi_kept {cq : List Instr} (h : Head) (rd : Fin 32) (imm : BitVec 16) (s : Machine.State) (h_s :
    Kept cq s) : ResultKept cq (execMovi h rd imm s) := by
  unfold execMovi
  repeat' first
    | with_reducible assumption
    | with_reducible apply issued_kept

theorem execMovih_kept {cq : List Instr} (h : Head) (rd : Fin 32) (imm : BitVec 16) (s : Machine.State) (h_s :
    Kept cq s) : ResultKept cq (execMovih h rd imm s) := by
  unfold execMovih
  repeat' first
    | with_reducible assumption
    | with_reducible apply issued_kept

theorem execCmp_kept {cq : List Instr} (h : Head) (cond : BitVec 4) (qd : Fin 8) (rs : Fin 32) (rt : Fin 32) (s
    : Machine.State) (h_s : Kept cq s) : ResultKept cq (execCmp h cond qd rs rt s) := by
  unfold execCmp
  repeat' first
    | with_reducible assumption
    | with_reducible apply issued_kept

theorem execCmpi_kept {cq : List Instr} (h : Head) (cond : BitVec 4) (qd : Fin 8) (rs : Fin 32) (imm : BitVec 9)
    (s : Machine.State) (h_s : Kept cq s) : ResultKept cq (execCmpi h cond qd rs imm s) := by
  unfold execCmpi
  repeat' first
    | with_reducible assumption
    | with_reducible apply issued_kept

theorem execQop_kept {cq : List Instr} (h : Head) (func : BitVec 2) (qd : Fin 8) (qa : Fin 8) (na : Bool) (qb :
    Fin 8) (nb : Bool) (s : Machine.State) (h_s : Kept cq s) :
    ResultKept cq (execQop h func qd qa na qb nb s) := by
  unfold execQop
  repeat' first
    | with_reducible assumption
    | with_reducible apply issued_kept

theorem execRnd_kept {cq : List Instr} (h : Head) (rd : Fin 32) (rs : Fin 32) (amt : BitVec 5) (rndf : BitVec 2)
    (s : Machine.State) (h_s : Kept cq s) : ResultKept cq (execRnd h rd rs amt rndf s) := by
  unfold execRnd
  repeat' first
    | with_reducible assumption
    | with_reducible apply issued_kept

theorem execDivs_kept {cq : List Instr} (h : Head) (rd : Fin 32) (rs : Fin 32) (s : Machine.State) (h_s : Kept
    cq s) : ResultKept cq (execDivs h rd rs s) := by
  unfold execDivs
  repeat' first
    | with_reducible assumption
    | with_reducible apply issued_kept

end Sys2Proof.Machine
end

