-- ==== Sys2Proof/Laws/KeptMac.lean ====
section
/-!
SUPPORT. What the operations of Machine/Mac.lean keep (Laws/Kept.lean).
-/

namespace Sys2Proof.Machine

theorem multiply_kept {cq : List Instr} (i : Instr) (k : MacKind) (o : Opk) (h : Head) (accd : Fin 8) (f : Bool)
    (m14 : Bool) (m13 : Bool) (ra : Fin 32) (bsel : BitVec 6) (s : Machine.State) (h_s : Kept cq s) :
    ResultKept cq (multiply i k o h accd f m14 m13 ra bsel s) := by
  unfold multiply
  repeat' first
    | with_reducible assumption
    | with_reducible apply issued_kept

theorem execMpy16_kept {cq : List Instr} (h : Head) (accd : Fin 8) (f : Bool) (m14 : Bool) (m13 : Bool) (ra :
    Fin 32) (bsel : BitVec 6) (s : Machine.State) (h_s : Kept cq s) :
    ResultKept cq (execMpy16 h accd f m14 m13 ra bsel s) := by
  unfold execMpy16
  repeat' first
    | with_reducible assumption
    | with_reducible apply multiply_kept

theorem execMac16_kept {cq : List Instr} (h : Head) (accd : Fin 8) (f : Bool) (m14 : Bool) (m13 : Bool) (ra :
    Fin 32) (bsel : BitVec 6) (s : Machine.State) (h_s : Kept cq s) :
    ResultKept cq (execMac16 h accd f m14 m13 ra bsel s) := by
  unfold execMac16
  repeat' first
    | with_reducible assumption
    | with_reducible apply multiply_kept

theorem execMsu16_kept {cq : List Instr} (h : Head) (accd : Fin 8) (f : Bool) (m14 : Bool) (m13 : Bool) (ra :
    Fin 32) (bsel : BitVec 6) (s : Machine.State) (h_s : Kept cq s) :
    ResultKept cq (execMsu16 h accd f m14 m13 ra bsel s) := by
  unfold execMsu16
  repeat' first
    | with_reducible assumption
    | with_reducible apply multiply_kept

theorem execMpy2_kept {cq : List Instr} (h : Head) (accd : Fin 8) (f : Bool) (m14 : Bool) (m13 : Bool) (ra : Fin
    32) (bsel : BitVec 6) (s : Machine.State) (h_s : Kept cq s) :
    ResultKept cq (execMpy2 h accd f m14 m13 ra bsel s) := by
  unfold execMpy2
  repeat' first
    | with_reducible assumption
    | with_reducible apply multiply_kept

theorem execMac2_kept {cq : List Instr} (h : Head) (accd : Fin 8) (f : Bool) (m14 : Bool) (m13 : Bool) (ra : Fin
    32) (bsel : BitVec 6) (s : Machine.State) (h_s : Kept cq s) :
    ResultKept cq (execMac2 h accd f m14 m13 ra bsel s) := by
  unfold execMac2
  repeat' first
    | with_reducible assumption
    | with_reducible apply multiply_kept

theorem execMsu2_kept {cq : List Instr} (h : Head) (accd : Fin 8) (f : Bool) (m14 : Bool) (m13 : Bool) (ra : Fin
    32) (bsel : BitVec 6) (s : Machine.State) (h_s : Kept cq s) :
    ResultKept cq (execMsu2 h accd f m14 m13 ra bsel s) := by
  unfold execMsu2
  repeat' first
    | with_reducible assumption
    | with_reducible apply multiply_kept

theorem execMpyp_kept {cq : List Instr} (h : Head) (accd : Fin 8) (f : Bool) (m14 : Bool) (m13 : Bool) (ra : Fin
    32) (bsel : BitVec 6) (s : Machine.State) (h_s : Kept cq s) :
    ResultKept cq (execMpyp h accd f m14 m13 ra bsel s) := by
  unfold execMpyp
  repeat' first
    | with_reducible assumption
    | with_reducible apply multiply_kept

theorem execMacp_kept {cq : List Instr} (h : Head) (accd : Fin 8) (f : Bool) (m14 : Bool) (m13 : Bool) (ra : Fin
    32) (bsel : BitVec 6) (s : Machine.State) (h_s : Kept cq s) :
    ResultKept cq (execMacp h accd f m14 m13 ra bsel s) := by
  unfold execMacp
  repeat' first
    | with_reducible assumption
    | with_reducible apply multiply_kept

theorem execMsup_kept {cq : List Instr} (h : Head) (accd : Fin 8) (f : Bool) (m14 : Bool) (m13 : Bool) (ra : Fin
    32) (bsel : BitVec 6) (s : Machine.State) (h_s : Kept cq s) :
    ResultKept cq (execMsup h accd f m14 m13 ra bsel s) := by
  unfold execMsup
  repeat' first
    | with_reducible assumption
    | with_reducible apply multiply_kept

theorem execMpyw_kept {cq : List Instr} (h : Head) (accd : Fin 8) (f : Bool) (m14 : Bool) (m13 : Bool) (ra : Fin
    32) (bsel : BitVec 6) (s : Machine.State) (h_s : Kept cq s) :
    ResultKept cq (execMpyw h accd f m14 m13 ra bsel s) := by
  unfold execMpyw
  repeat' first
    | with_reducible assumption
    | with_reducible apply multiply_kept

theorem execMacw_kept {cq : List Instr} (h : Head) (accd : Fin 8) (f : Bool) (m14 : Bool) (m13 : Bool) (ra : Fin
    32) (bsel : BitVec 6) (s : Machine.State) (h_s : Kept cq s) :
    ResultKept cq (execMacw h accd f m14 m13 ra bsel s) := by
  unfold execMacw
  repeat' first
    | with_reducible assumption
    | with_reducible apply multiply_kept

theorem execMsuw_kept {cq : List Instr} (h : Head) (accd : Fin 8) (f : Bool) (m14 : Bool) (m13 : Bool) (ra : Fin
    32) (bsel : BitVec 6) (s : Machine.State) (h_s : Kept cq s) :
    ResultKept cq (execMsuw h accd f m14 m13 ra bsel s) := by
  unfold execMsuw
  repeat' first
    | with_reducible assumption
    | with_reducible apply multiply_kept

theorem execMpyl_kept {cq : List Instr} (h : Head) (accd : Fin 8) (f : Bool) (m14 : Bool) (m13 : Bool) (ra : Fin
    32) (bsel : BitVec 6) (s : Machine.State) (h_s : Kept cq s) :
    ResultKept cq (execMpyl h accd f m14 m13 ra bsel s) := by
  unfold execMpyl
  repeat' first
    | with_reducible assumption
    | with_reducible apply multiply_kept

theorem execMacl_kept {cq : List Instr} (h : Head) (accd : Fin 8) (f : Bool) (m14 : Bool) (m13 : Bool) (ra : Fin
    32) (bsel : BitVec 6) (s : Machine.State) (h_s : Kept cq s) :
    ResultKept cq (execMacl h accd f m14 m13 ra bsel s) := by
  unfold execMacl
  repeat' first
    | with_reducible assumption
    | with_reducible apply multiply_kept

theorem execMsul_kept {cq : List Instr} (h : Head) (accd : Fin 8) (f : Bool) (m14 : Bool) (m13 : Bool) (ra : Fin
    32) (bsel : BitVec 6) (s : Machine.State) (h_s : Kept cq s) :
    ResultKept cq (execMsul h accd f m14 m13 ra bsel s) := by
  unfold execMsul
  repeat' first
    | with_reducible assumption
    | with_reducible apply multiply_kept

theorem execExt_kept {cq : List Instr} (h : Head) (rd : Fin 32) (accs : Fin 8) (tgt : BitVec 2) (shift : BitVec
    5) (rndf : BitVec 2) (s : Machine.State) (h_s : Kept cq s) :
    ResultKept cq (execExt h rd accs tgt shift rndf s) := by
  unfold execExt
  repeat' first
    | with_reducible assumption
    | with_reducible apply issued_kept

theorem accOp_kept {cq : List Instr} (i : Instr) (h : Head) (accd : Fin 8) (f : BitVec 72 → BitVec 72 × Bool) (s
    : Machine.State) (h_s : Kept cq s) : ResultKept cq (accOp i h accd f s) := by
  unfold accOp
  repeat' first
    | with_reducible assumption
    | with_reducible apply issued_kept

theorem accOp2_kept {cq : List Instr} (i : Instr) (h : Head) (accd : Fin 8) (accs : Fin 8) (f : BitVec 72 →
    BitVec 72 → BitVec 72 × Bool) (s : Machine.State) (h_s : Kept cq s) :
    ResultKept cq (accOp2 i h accd accs f s) := by
  unfold accOp2
  repeat' first
    | with_reducible assumption
    | with_reducible apply issued_kept

theorem execAclr_kept {cq : List Instr} (h : Head) (accd : Fin 8) (s : Machine.State) (h_s : Kept cq s) :
    ResultKept cq (execAclr h accd s) := by
  unfold execAclr
  repeat' first
    | with_reducible assumption
    | with_reducible apply accOp_kept

theorem execAmov_kept {cq : List Instr} (h : Head) (accd : Fin 8) (accs : Fin 8) (s : Machine.State) (h_s : Kept
    cq s) : ResultKept cq (execAmov h accd accs s) := by
  unfold execAmov
  repeat' first
    | with_reducible assumption
    | with_reducible apply accOp2_kept

theorem execAadd_kept {cq : List Instr} (h : Head) (accd : Fin 8) (accs : Fin 8) (s : Machine.State) (h_s : Kept
    cq s) : ResultKept cq (execAadd h accd accs s) := by
  unfold execAadd
  repeat' first
    | with_reducible assumption
    | with_reducible apply accOp2_kept

theorem execAsub_kept {cq : List Instr} (h : Head) (accd : Fin 8) (accs : Fin 8) (s : Machine.State) (h_s : Kept
    cq s) : ResultKept cq (execAsub h accd accs s) := by
  unfold execAsub
  repeat' first
    | with_reducible assumption
    | with_reducible apply accOp2_kept

theorem execAneg_kept {cq : List Instr} (h : Head) (accd : Fin 8) (accs : Fin 8) (s : Machine.State) (h_s : Kept
    cq s) : ResultKept cq (execAneg h accd accs s) := by
  unfold execAneg
  repeat' first
    | with_reducible assumption
    | with_reducible apply accOp2_kept

theorem execAabs_kept {cq : List Instr} (h : Head) (accd : Fin 8) (accs : Fin 8) (s : Machine.State) (h_s : Kept
    cq s) : ResultKept cq (execAabs h accd accs s) := by
  unfold execAabs
  repeat' first
    | with_reducible assumption
    | with_reducible apply accOp2_kept

theorem execAshl_kept {cq : List Instr} (h : Head) (accd : Fin 8) (amt : BitVec 6) (s : Machine.State) (h_s :
    Kept cq s) : ResultKept cq (execAshl h accd amt s) := by
  unfold execAshl
  repeat' first
    | with_reducible assumption
    | with_reducible apply accOp_kept

theorem execAsra_kept {cq : List Instr} (h : Head) (accd : Fin 8) (amt : BitVec 6) (s : Machine.State) (h_s :
    Kept cq s) : ResultKept cq (execAsra h accd amt s) := by
  unfold execAsra
  repeat' first
    | with_reducible assumption
    | with_reducible apply accOp_kept

end Sys2Proof.Machine
end

