-- ==== Sys2Proof/Laws/KeptMemInstr.lean ====
section
/-!
SUPPORT. What the operations of Machine/MemInstr.lean keep (Laws/Kept.lean).
-/

namespace Sys2Proof.Machine

theorem loadOp_kept {cq : List Instr} (i : Instr) (h : Head) (size : ℕ) (signed : Bool) (rd : Fin 32) (pn : Fin
    16) (mode : BitVec 2) (off : BitVec 10) (ecc : Ecc) (s : Machine.State) (h_s : Kept cq s) :
    ResultKept cq (loadOp i h size signed rd pn mode off ecc s) := by
  unfold loadOp
  repeat' first
    | with_reducible assumption
    | with_reducible apply issued_kept

theorem storeOp_kept {cq : List Instr} (i : Instr) (h : Head) (size : ℕ) (rs : Fin 32) (pn : Fin 16) (mode :
    BitVec 2) (off : BitVec 10) (s : Machine.State) (h_s : Kept cq s) :
    ResultKept cq (storeOp i h size rs pn mode off s) := by
  unfold storeOp
  repeat' first
    | with_reducible assumption
    | with_reducible apply issued_kept

theorem execLdB_kept {cq : List Instr} (h : Head) (rd : Fin 32) (pn : Fin 16) (mode : BitVec 2) (off : BitVec
    10) (ecc : Ecc) (s : Machine.State) (h_s : Kept cq s) :
    ResultKept cq (execLdB h rd pn mode off ecc s) := by
  unfold execLdB
  repeat' first
    | with_reducible assumption
    | with_reducible apply loadOp_kept

theorem execLdBu_kept {cq : List Instr} (h : Head) (rd : Fin 32) (pn : Fin 16) (mode : BitVec 2) (off : BitVec
    10) (ecc : Ecc) (s : Machine.State) (h_s : Kept cq s) :
    ResultKept cq (execLdBu h rd pn mode off ecc s) := by
  unfold execLdBu
  repeat' first
    | with_reducible assumption
    | with_reducible apply loadOp_kept

theorem execLdH_kept {cq : List Instr} (h : Head) (rd : Fin 32) (pn : Fin 16) (mode : BitVec 2) (off : BitVec
    10) (ecc : Ecc) (s : Machine.State) (h_s : Kept cq s) :
    ResultKept cq (execLdH h rd pn mode off ecc s) := by
  unfold execLdH
  repeat' first
    | with_reducible assumption
    | with_reducible apply loadOp_kept

theorem execLdHu_kept {cq : List Instr} (h : Head) (rd : Fin 32) (pn : Fin 16) (mode : BitVec 2) (off : BitVec
    10) (ecc : Ecc) (s : Machine.State) (h_s : Kept cq s) :
    ResultKept cq (execLdHu h rd pn mode off ecc s) := by
  unfold execLdHu
  repeat' first
    | with_reducible assumption
    | with_reducible apply loadOp_kept

theorem execLdW_kept {cq : List Instr} (h : Head) (rd : Fin 32) (pn : Fin 16) (mode : BitVec 2) (off : BitVec
    10) (ecc : Ecc) (s : Machine.State) (h_s : Kept cq s) :
    ResultKept cq (execLdW h rd pn mode off ecc s) := by
  unfold execLdW
  repeat' first
    | with_reducible assumption
    | with_reducible apply loadOp_kept

theorem execLdD_kept {cq : List Instr} (h : Head) (rd : Fin 32) (pn : Fin 16) (mode : BitVec 2) (off : BitVec
    10) (ecc : Ecc) (s : Machine.State) (h_s : Kept cq s) :
    ResultKept cq (execLdD h rd pn mode off ecc s) := by
  unfold execLdD
  repeat' first
    | with_reducible assumption
    | with_reducible apply loadOp_kept

theorem execStB_kept {cq : List Instr} (h : Head) (rs : Fin 32) (pn : Fin 16) (mode : BitVec 2) (off : BitVec
    10) (s : Machine.State) (h_s : Kept cq s) : ResultKept cq (execStB h rs pn mode off s) := by
  unfold execStB
  repeat' first
    | with_reducible assumption
    | with_reducible apply storeOp_kept

theorem execStH_kept {cq : List Instr} (h : Head) (rs : Fin 32) (pn : Fin 16) (mode : BitVec 2) (off : BitVec
    10) (s : Machine.State) (h_s : Kept cq s) : ResultKept cq (execStH h rs pn mode off s) := by
  unfold execStH
  repeat' first
    | with_reducible assumption
    | with_reducible apply storeOp_kept

theorem execStW_kept {cq : List Instr} (h : Head) (rs : Fin 32) (pn : Fin 16) (mode : BitVec 2) (off : BitVec
    10) (s : Machine.State) (h_s : Kept cq s) : ResultKept cq (execStW h rs pn mode off s) := by
  unfold execStW
  repeat' first
    | with_reducible assumption
    | with_reducible apply storeOp_kept

theorem execStD_kept {cq : List Instr} (h : Head) (rs : Fin 32) (pn : Fin 16) (mode : BitVec 2) (off : BitVec
    10) (s : Machine.State) (h_s : Kept cq s) : ResultKept cq (execStD h rs pn mode off s) := by
  unfold execStD
  repeat' first
    | with_reducible assumption
    | with_reducible apply storeOp_kept

theorem execNop_kept {cq : List Instr} (h : Head) (s : Machine.State) (h_s : Kept cq s) :
    ResultKept cq (execNop h s) := by
  unfold execNop
  repeat' first
    | with_reducible assumption
    | with_reducible apply issued_kept

theorem execMovx_kept {cq : List Instr} (h : Head) (dst : BitVec 8) (src : BitVec 8) (s : Machine.State) (h_s :
    Kept cq s) : ResultKept cq (execMovx h dst src s) := by
  unfold execMovx
  repeat' first
    | with_reducible assumption
    | with_reducible apply issued_kept

theorem execPmovi_kept {cq : List Instr} (h : Head) (pn : Fin 16) (imm : BitVec 17) (s : Machine.State) (h_s :
    Kept cq s) : ResultKept cq (execPmovi h pn imm s) := by
  unfold execPmovi
  repeat' first
    | with_reducible assumption
    | with_reducible apply issued_kept

theorem execPadd_kept {cq : List Instr} (h : Head) (pn : Fin 16) (usem : Bool) (imm : BitVec 16) (s :
    Machine.State) (h_s : Kept cq s) : ResultKept cq (execPadd h pn usem imm s) := by
  unfold execPadd
  repeat' first
    | with_reducible assumption
    | with_reducible apply issued_kept

theorem execTbrd_kept {cq : List Instr} (h : Head) (rd : Fin 32) (s : Machine.State) (h_s : Kept cq s) :
    ResultKept cq (execTbrd h rd s) := by
  unfold execTbrd
  repeat' first
    | with_reducible assumption
    | with_reducible apply issued_kept

end Sys2Proof.Machine
end

