-- ==== Sys2Proof/Laws/KeptControl.lean ====
section
/-!
SUPPORT. What the operations of Machine/Control.lean keep (Laws/Kept.lean).
-/

namespace Sys2Proof.Machine

theorem execBr_kept {cq : List Instr} (h : Head) (off : BitVec 21) (s : Machine.State) (h_s : Kept cq s) :
    ResultKept cq (execBr h off s) := by
  unfold execBr
  repeat' first
    | with_reducible assumption
    | with_reducible apply issued_kept

theorem execBl_kept {cq : List Instr} (h : Head) (off : BitVec 21) (s : Machine.State) (h_s : Kept cq s) :
    ResultKept cq (execBl h off s) := by
  unfold execBl
  repeat' first
    | with_reducible assumption
    | with_reducible apply issued_kept

theorem execJr_kept {cq : List Instr} (h : Head) (rs : Fin 32) (s : Machine.State) (h_s : Kept cq s) :
    ResultKept cq (execJr h rs s) := by
  unfold execJr
  repeat' first
    | with_reducible assumption
    | with_reducible apply issued_kept

theorem execLoop_kept {cq : List Instr} (h : Head) (rs : Fin 32) (body : BitVec 16) (s : Machine.State) (h_s :
    Kept cq s) : ResultKept cq (execLoop h rs body s) := by
  unfold execLoop
  repeat' first
    | with_reducible assumption
    | with_reducible apply issued_kept

theorem execLoopi_kept {cq : List Instr} (h : Head) (body : BitVec 6) (count : BitVec 16) (s : Machine.State)
    (h_s : Kept cq s) : ResultKept cq (execLoopi h body count s) := by
  unfold execLoopi
  repeat' first
    | with_reducible assumption
    | with_reducible apply issued_kept

theorem execRet_kept {cq : List Instr} (h : Head) (s : Machine.State) (h_s : Kept cq s) :
    ResultKept cq (execRet h s) := by
  unfold execRet
  repeat' first
    | with_reducible assumption
    | with_reducible apply issued_kept

theorem execFence_kept {cq : List Instr} (h : Head) (scope : BitVec 3) (kind : BitVec 2) (s : Machine.State)
    (h_s : Kept cq s) : ResultKept cq (execFence h scope kind s) := by
  unfold execFence
  repeat' first
    | with_reducible assumption
    | with_reducible apply issued_kept

theorem execCkw_kept {cq : List Instr} (h : Head) (rs : Fin 32) (rc : Fin 32) (qd : Fin 8) (s : Machine.State)
    (h_s : Kept cq s) : ResultKept cq (execCkw h rs rc qd s) := by
  unfold execCkw
  repeat' first
    | with_reducible assumption
    | with_reducible apply issued_kept

theorem execCkc_kept {cq : List Instr} (h : Head) (rc : Fin 32) (s : Machine.State) (h_s : Kept cq s) :
    ResultKept cq (execCkc h rc s) := by
  unfold execCkc
  repeat' first
    | with_reducible assumption
    | with_reducible apply issued_kept

theorem execCkcRel_kept {cq : List Instr} (h : Head) (rc : Fin 32) (s : Machine.State) (h_s : Kept cq s) :
    ResultKept cq (execCkcRel h rc s) := by
  unfold execCkcRel
  repeat' first
    | with_reducible assumption
    | with_reducible apply issued_kept

theorem execCka_kept {cq : List Instr} (h : Head) (rc : Fin 32) (s : Machine.State) (h_s : Kept cq s) :
    ResultKept cq (execCka h rc s) := by
  unfold execCka
  repeat' first
    | with_reducible assumption
    | with_reducible apply issued_kept

theorem execCkr_kept {cq : List Instr} (h : Head) (rd : Fin 32) (rc : Fin 32) (rs : Fin 32) (ecc : Ecc) (s :
    Machine.State) (h_s : Kept cq s) : ResultKept cq (execCkr h rd rc rs ecc s) := by
  unfold execCkr
  repeat' first
    | with_reducible assumption
    | with_reducible apply issued_kept

theorem execWpost_kept {cq : List Instr} (h : Head) (rs : Fin 32) (rt : Fin 32) (qd : Fin 8) (s : Machine.State)
    (h_s : Kept cq s) : ResultKept cq (execWpost h rs rt qd s) := by
  unfold execWpost
  repeat' first
    | with_reducible assumption
    | with_reducible apply issued_kept

theorem execWdelay_kept {cq : List Instr} (h : Head) (rs : Fin 32) (rt : Fin 32) (qd : Fin 8) (s :
    Machine.State) (h_s : Kept cq s) : ResultKept cq (execWdelay h rs rt qd s) := by
  unfold execWdelay
  repeat' first
    | with_reducible assumption
    | with_reducible apply issued_kept

theorem execOverrun_kept {cq : List Instr} (cl : Fin 32) (t : Fin 12) (s : Machine.State) (h_s : Kept cq s) :
    ResultKept cq (execOverrun cl t s) := by
  unfold execOverrun
  repeat' first
    | with_reducible assumption
    | with_reducible apply State.exception_kept
    | with_reducible apply kept_ite
    | with_reducible apply resultKept_next

theorem execHalt_kept {cq : List Instr} (cl : Fin 32) (t : Fin 12) (s : Machine.State) (h_s : Kept cq s) :
    ResultKept cq (execHalt cl t s) := by
  unfold execHalt
  repeat' first
    | with_reducible assumption
    | with_reducible apply State.haltTile_kept
    | with_reducible apply kept_ite
    | with_reducible apply resultKept_next

theorem execStep_kept {cq : List Instr} (cl : Fin 32) (t : Fin 12) (s : Machine.State) (h_s : Kept cq s) :
    ResultKept cq (execStep cl t s) := by
  unfold execStep
  repeat' first
    | with_reducible assumption
    | with_reducible apply State.setCore_kept
    | with_reducible apply kept_ite
    | with_reducible apply resultKept_next

theorem State.resumeTile_kept {cq : List Instr} (s : Machine.State) (n : ℕ) (t : ℕ) (h_s : Kept cq s) :
    Kept cq (State.resumeTile s n t) := by
  unfold State.resumeTile
  repeat' first
    | with_reducible assumption
    | with_reducible apply State.put_kept

theorem execResume_kept {cq : List Instr} (cl : Fin 32) (t : Fin 12) (s : Machine.State) (h_s : Kept cq s) :
    ResultKept cq (execResume cl t s) := by
  unfold execResume
  repeat' first
    | with_reducible assumption
    | with_reducible apply State.resumeTile_kept
    | with_reducible apply kept_ite
    | with_reducible apply resultKept_next

theorem execBreakpoint_kept {cq : List Instr} (cl : Fin 32) (t : Fin 12) (s : Machine.State) (h_s : Kept cq s) :
    ResultKept cq (execBreakpoint cl t s) := by
  unfold execBreakpoint
  repeat' first
    | with_reducible assumption
    | with_reducible apply State.haltTile_kept
    | with_reducible apply kept_ite
    | with_reducible apply resultKept_next

end Sys2Proof.Machine
end

