-- ==== Sys2Proof/Laws/KeptSecurity.lean ====
section
/-!
SUPPORT. What the operations of Machine/Security.lean keep (Laws/Kept.lean).
-/

namespace Sys2Proof.Machine

theorem State.putBytes_kept {cq : List Instr} (s : Machine.State) (a : ℕ) (bs : List Byte) (h_s : Kept cq s) :
    Kept cq (State.putBytes s a bs) := by
  unfold State.putBytes
  repeat' first
    | with_reducible assumption
    | with_reducible apply State.wv_kept
    | with_reducible refine each_kept _ _ (fun _ _ _ => ?_) ?_

theorem State.extend_kept {cq : List Instr} (s : Machine.State) (r : ℕ) (v : List Byte) (h_s : Kept cq s) :
    Kept cq (State.extend s r v) := by
  unfold State.extend
  repeat' first
    | with_reducible assumption
    | with_reducible apply State.putBytes_kept

theorem State.mrExtend_kept {cq : List Instr} (s : Machine.State) (r : ℕ) (h_s : Kept cq s) :
    Kept cq (State.mrExtend s r) := by
  unfold State.mrExtend
  repeat' first
    | with_reducible assumption
    | with_reducible apply State.begin__kept
    | with_reducible apply State.post_kept
    | with_reducible apply State.extend_kept
    | with_reducible apply kept_ite

theorem execMrext_kept {cq : List Instr} (r : BitVec 3) (s : Machine.State) (h_s : Kept cq s) :
    ResultKept cq (execMrext r s) := by
  unfold execMrext
  repeat' first
    | with_reducible assumption
    | with_reducible apply hostCmd_kept
    | with_reducible apply State.mrExtend_kept
    | intro _

theorem State.quoteStart_kept {cq : List Instr} (s : Machine.State) (h_s : Kept cq s) :
    Kept cq (State.quoteStart s) := by
  unfold State.quoteStart
  repeat' first
    | with_reducible assumption
    | with_reducible apply State.begin__kept
    | with_reducible apply State.raise_kept
    | with_reducible apply State.post_kept
    | with_reducible apply kept_ite
    | simp only [kept_mk_iff]
    | with_reducible apply kept_fold

theorem execQcmd_kept {cq : List Instr} (s : Machine.State) (h_s : Kept cq s) :
    ResultKept cq (execQcmd s) := by
  unfold execQcmd
  repeat' first
    | with_reducible assumption
    | with_reducible apply hostCmd_kept
    | with_reducible apply State.quoteStart_kept

theorem State.quoteEnd_kept {cq : List Instr} (s : Machine.State) (h_s : Kept cq s) :
    Kept cq (State.quoteEnd s) := by
  unfold State.quoteEnd
  repeat' first
    | with_reducible assumption
    | with_reducible apply State.draw_kept
    | with_reducible apply State.raise_kept
    | with_reducible apply State.post_kept
    | with_reducible apply State.write_kept
    | simp only [kept_mk_iff]
    | with_reducible apply kept_fold
    | split

theorem execQuoteComplete_kept {cq : List Instr} (s : Machine.State) (h_s : Kept cq s) :
    ResultKept cq (execQuoteComplete s) := by
  unfold execQuoteComplete
  repeat' first
    | with_reducible assumption
    | with_reducible apply State.quoteEnd_kept
    | with_reducible apply resultKept_next

theorem State.rng_kept {cq : List Instr} (s : Machine.State) (h_s : Kept cq s) : Kept cq (State.rng s) := by
  unfold State.rng
  repeat' first
    | with_reducible assumption
    | with_reducible apply State.begin__kept
    | with_reducible apply State.post_kept
    | with_reducible apply State.putBytes_kept
    | with_reducible apply State.draw_kept
    | with_reducible apply kept_ite

theorem execRngcmd_kept {cq : List Instr} (s : Machine.State) (h_s : Kept cq s) :
    ResultKept cq (execRngcmd s) := by
  unfold execRngcmd
  repeat' first
    | with_reducible assumption
    | with_reducible apply hostCmd_kept
    | with_reducible apply State.rng_kept

theorem execTrngHealthFail_kept {cq : List Instr} (s : Machine.State) (h_s : Kept cq s) :
    ResultKept cq (execTrngHealthFail s) := by
  unfold execTrngHealthFail
  repeat' first
    | with_reducible assumption
    | with_reducible apply State.raise_kept
    | with_reducible apply State.putBytes_kept
    | with_reducible apply resultKept_next
    | simp only [kept_mk_iff]
    | with_reducible apply kept_fold

theorem execTrngRetest_kept {cq : List Instr} (pass : Bool) (s : Machine.State) (h_s : Kept cq s) :
    ResultKept cq (execTrngRetest pass s) := by
  unfold execTrngRetest
  repeat' first
    | with_reducible assumption
    | with_reducible apply kept_ite
    | with_reducible apply resultKept_next
    | simp only [kept_mk_iff]
    | with_reducible apply kept_fold

theorem State.challenge_kept {cq : List Instr} (s : Machine.State) (h_s : Kept cq s) :
    Kept cq (State.challenge s) := by
  unfold State.challenge
  repeat' first
    | with_reducible assumption
    | with_reducible apply State.begin__kept
    | with_reducible apply State.post_kept
    | with_reducible apply State.putBytes_kept
    | with_reducible apply State.draw_kept
    | with_reducible apply kept_ite
    | simp only [kept_mk_iff]
    | with_reducible apply kept_fold

theorem execChallenge_kept {cq : List Instr} (s : Machine.State) (h_s : Kept cq s) :
    ResultKept cq (execChallenge s) := by
  unfold execChallenge
  repeat' first
    | with_reducible assumption
    | with_reducible apply hostCmd_kept
    | with_reducible apply State.challenge_kept

theorem State.unlock_kept {cq : List Instr} (s : Machine.State) (h_s : Kept cq s) :
    Kept cq (State.unlock s) := by
  unfold State.unlock
  repeat' first
    | with_reducible assumption
    | with_reducible apply State.begin__kept
    | with_reducible apply State.post_kept
    | with_reducible apply State.put_kept
    | with_reducible apply State.raise_kept
    | with_reducible apply State.extend_kept
    | with_reducible apply kept_ite
    | simp only [kept_mk_iff]
    | with_reducible apply kept_fold

theorem execUnlock_kept {cq : List Instr} (s : Machine.State) (h_s : Kept cq s) :
    ResultKept cq (execUnlock s) := by
  unfold execUnlock
  repeat' first
    | with_reducible assumption
    | with_reducible apply hostCmd_kept
    | with_reducible apply State.unlock_kept

theorem State.resumeAll_kept {cq : List Instr} (s : Machine.State) (h_s : Kept cq s) :
    Kept cq (State.resumeAll s) := by
  unfold State.resumeAll
  repeat' first
    | with_reducible assumption
    | with_reducible apply State.resumeTile_kept
    | with_reducible apply kept_ite
    | with_reducible refine each_kept _ _ (fun _ _ _ => ?_) ?_

theorem State.lock_kept {cq : List Instr} (s : Machine.State) (h_s : Kept cq s) : Kept cq (State.lock s) := by
  unfold State.lock
  repeat' first
    | with_reducible assumption
    | with_reducible apply State.put_kept
    | with_reducible apply State.begin__kept
    | with_reducible apply State.raise_kept
    | with_reducible apply State.post_kept
    | with_reducible apply State.resumeAll_kept
    | with_reducible apply kept_ite

theorem execLock_kept {cq : List Instr} (s : Machine.State) (h_s : Kept cq s) :
    ResultKept cq (execLock s) := by
  unfold execLock
  repeat' first
    | with_reducible assumption
    | with_reducible apply hostCmd_kept
    | with_reducible apply State.lock_kept

theorem State.otpStart_kept {cq : List Instr} (s : Machine.State) (op : ℕ) (h_s : Kept cq s) :
    Kept cq (State.otpStart s op) := by
  unfold State.otpStart
  repeat' first
    | with_reducible assumption
    | with_reducible apply State.begin__kept
    | with_reducible apply State.raise_kept
    | with_reducible apply State.post_kept
    | with_reducible apply kept_ite
    | simp only [kept_mk_iff]
    | with_reducible apply kept_fold

theorem execProgkey_kept {cq : List Instr} (s : Machine.State) (h_s : Kept cq s) :
    ResultKept cq (execProgkey s) := by
  unfold execProgkey
  repeat' first
    | with_reducible assumption
    | with_reducible apply hostCmd_kept
    | with_reducible apply State.otpStart_kept
    | intro _

theorem execRevoke_kept {cq : List Instr} (s : Machine.State) (h_s : Kept cq s) :
    ResultKept cq (execRevoke s) := by
  unfold execRevoke
  repeat' first
    | with_reducible assumption
    | with_reducible apply hostCmd_kept
    | with_reducible apply State.otpStart_kept
    | intro _

theorem execAdvance_kept {cq : List Instr} (s : Machine.State) (h_s : Kept cq s) :
    ResultKept cq (execAdvance s) := by
  unfold execAdvance
  repeat' first
    | with_reducible assumption
    | with_reducible apply hostCmd_kept
    | with_reducible apply State.otpStart_kept
    | intro _

theorem execSubsys_kept {cq : List Instr} (s : Machine.State) (h_s : Kept cq s) :
    ResultKept cq (execSubsys s) := by
  unfold execSubsys
  repeat' first
    | with_reducible assumption
    | with_reducible apply hostCmd_kept
    | with_reducible apply State.otpStart_kept
    | intro _

theorem execGenid_kept {cq : List Instr} (s : Machine.State) (h_s : Kept cq s) :
    ResultKept cq (execGenid s) := by
  unfold execGenid
  repeat' first
    | with_reducible assumption
    | with_reducible apply hostCmd_kept
    | with_reducible apply State.otpStart_kept
    | intro _

theorem execWrcert_kept {cq : List Instr} (s : Machine.State) (h_s : Kept cq s) :
    ResultKept cq (execWrcert s) := by
  unfold execWrcert
  repeat' first
    | with_reducible assumption
    | with_reducible apply hostCmd_kept
    | with_reducible apply State.otpStart_kept
    | intro _

theorem execDbgoff_kept {cq : List Instr} (s : Machine.State) (h_s : Kept cq s) :
    ResultKept cq (execDbgoff s) := by
  unfold execDbgoff
  repeat' first
    | with_reducible assumption
    | with_reducible apply hostCmd_kept
    | with_reducible apply State.otpStart_kept
    | intro _

theorem State.orBytes_kept {cq : List Instr} (s : Machine.State) (a : ℕ) (bs : List Byte) (h_s : Kept cq s) :
    Kept cq (State.orBytes s a bs) := by
  unfold State.orBytes
  repeat' first
    | with_reducible assumption
    | with_reducible apply State.putBytes_kept

theorem State.orInfo_kept {cq : List Instr} (s : Machine.State) (f : Fld) (v : ℕ) (h_s : Kept cq s) :
    Kept cq (State.orInfo s f v) := by
  unfold State.orInfo
  repeat' first
    | with_reducible assumption
    | with_reducible apply State.put_kept

theorem State.otpApply_kept {cq : List Instr} (s : Machine.State) (q : OtpRun) (mask : List Byte) (h_s : Kept cq
    s) : Kept cq (State.otpApply s q mask) := by
  unfold State.otpApply
  repeat' first
    | with_reducible assumption
    | with_reducible apply State.orInfo_kept
    | with_reducible apply State.orBytes_kept
    | with_reducible apply State.put_kept
    | with_reducible apply State.draw_kept
    | with_reducible apply State.putBytes_kept
    | with_reducible apply kept_ite
    | simp only [kept_mk_iff]
    | with_reducible apply kept_fold
    | split

theorem State.otpWrite_kept {cq : List Instr} (s : Machine.State) (q : OtpRun) (verified : Bool) (h_s : Kept cq
    s) : Kept cq (State.otpWrite s q verified) := by
  unfold State.otpWrite
  repeat' first
    | with_reducible assumption
    | with_reducible apply State.otpApply_kept
    | with_reducible apply State.draw_kept
    | with_reducible apply kept_ite
    | simp only [kept_mk_iff]
    | with_reducible apply kept_fold

theorem State.otpEnd_kept {cq : List Instr} (s : Machine.State) (verified : Bool) (h_s : Kept cq s) :
    Kept cq (State.otpEnd s verified) := by
  unfold State.otpEnd
  repeat' first
    | with_reducible assumption
    | with_reducible apply State.otpWrite_kept
    | with_reducible apply State.raise_kept
    | with_reducible apply State.post_kept
    | simp only [kept_mk_iff]
    | with_reducible apply kept_fold
    | split

theorem execOtpCommandComplete_kept {cq : List Instr} (verified : Bool) (s : Machine.State) (h_s : Kept cq s) :
    ResultKept cq (execOtpCommandComplete verified s) := by
  unfold execOtpCommandComplete
  repeat' first
    | with_reducible assumption
    | with_reducible apply State.otpEnd_kept
    | with_reducible apply resultKept_next

theorem State.bootResult_kept {cq : List Instr} (s : Machine.State) (code : ℕ) (copy : ℕ) (h_s : Kept cq s) :
    Kept cq (State.bootResult s code copy) := by
  unfold State.bootResult
  repeat' first
    | with_reducible assumption
    | with_reducible apply State.raise_kept
    | with_reducible apply State.post_kept
    | with_reducible apply State.put_kept

theorem State.bootStart_kept {cq : List Instr} (s : Machine.State) (h : List Byte) (h_s : Kept cq s) :
    Kept cq (State.bootStart s h) := by
  unfold State.bootStart
  repeat' first
    | with_reducible assumption
    | with_reducible apply State.put_kept
    | with_reducible apply State.extend_kept
    | simp only [kept_mk_iff]
    | with_reducible apply kept_fold

theorem State.bootCopy_kept {cq : List Instr} (s : Machine.State) (c : Option (List Byte)) (h_s : Kept cq s) :
    Kept cq (State.bootCopy s c).1 := by
  unfold State.bootCopy
  repeat' first
    | with_reducible assumption
    | with_reducible apply State.write_kept
    | with_reducible apply kept_ite_fst
    | simp only [kept_mk_iff]
    | split

theorem State.bootRom_kept {cq : List Instr} (s : Machine.State) (primary : Option (List Byte)) (secondary :
    Option (List Byte)) (otpBad : Bool) (h_s : Kept cq s) :
    Kept cq (State.bootRom s primary secondary otpBad) := by
  unfold State.bootRom
  repeat' first
    | with_reducible assumption
    | with_reducible apply State.bootResult_kept
    | with_reducible apply State.bootCopy_kept
    | with_reducible apply State.bootStart_kept
    | with_reducible apply kept_ite
    | simp only [kept_mk_iff]
    | with_reducible apply kept_fold

theorem execBootRom_kept {cq : List Instr} (primary : Option (List (BitVec 8))) (secondary : Option (List
    (BitVec 8))) (otpBad : Bool) (s : Machine.State) (h_s : Kept cq s) :
    ResultKept cq (execBootRom primary secondary otpBad s) := by
  unfold execBootRom
  repeat' first
    | with_reducible assumption
    | with_reducible apply State.bootRom_kept
    | with_reducible apply resultKept_next

theorem State.bootLoad_kept {cq : List Instr} (s : Machine.State) (h_s : Kept cq s) :
    Kept cq (State.bootLoad s) := by
  unfold State.bootLoad
  repeat' first
    | with_reducible assumption
    | with_reducible apply State.begin__kept
    | with_reducible apply State.bootResult_kept
    | with_reducible apply State.bootStart_kept
    | with_reducible apply kept_ite

theorem execLoad_kept {cq : List Instr} (s : Machine.State) (h_s : Kept cq s) :
    ResultKept cq (execLoad s) := by
  unfold execLoad
  repeat' first
    | with_reducible assumption
    | with_reducible apply hostCmd_kept
    | with_reducible apply State.bootLoad_kept

theorem State.checkKernel_kept {cq : List Instr} (s : Machine.State) (n : ℕ) (a : ℕ) (h_s : Kept cq s) :
    Kept cq (State.checkKernel s n a).1 := by
  unfold State.checkKernel
  repeat' first
    | with_reducible assumption
    | with_reducible apply State.wv_kept
    | with_reducible apply State.setCluster_kept
    | with_reducible apply State.extend_kept
    | with_reducible apply kept_ite
    | with_reducible apply kept_ite_fst
    | simp only [kept_mk_iff]
    | with_reducible apply kept_fold

theorem State.loadImage_kept {cq : List Instr} (s : Machine.State) (n : ℕ) (t : ℕ) (p : List Byte) (c : List
    Byte) (entry : ℕ) (h_s : Kept cq s) : Kept cq (State.loadImage s n t p c entry) := by
  unfold State.loadImage
  repeat' first
    | with_reducible assumption
    | with_reducible apply State.write_kept
    | with_reducible apply State.setCore_kept

end Sys2Proof.Machine
end

