-- ==== Sys2Proof/Laws/KeptSchedCmds.lean ====
section
/-!
SUPPORT. What the operations of Machine/SchedCmds.lean keep (Laws/Kept.lean).
-/

namespace Sys2Proof.Machine

theorem execDispatch_kept {cq : List Instr} (cl : Fin 32) (s : Machine.State) (h_s : Kept cq s) :
    ResultKept cq (execDispatch cl s) := by
  unfold execDispatch
  repeat' first
    | with_reducible assumption
    | with_reducible apply State.dispatchOne_kept
    | with_reducible apply resultKept_next

theorem State.unverified_kept {cq : List Instr} (s : Machine.State) (n : ℕ) (t : ℕ) (it : Item) (h_s : Kept cq
    s) : Kept cq (State.unverified s n t it) := by
  unfold State.unverified
  repeat' first
    | with_reducible assumption
    | with_reducible apply State.startItem_kept
    | with_reducible apply State.exception_kept
    | with_reducible apply State.setCore_kept

theorem State.loadDone_kept {cq : List Instr} (s : Machine.State) (n : ℕ) (t : ℕ) (h_s : Kept cq s) :
    Kept cq (State.loadDone s n t) := by
  unfold State.loadDone
  repeat' first
    | with_reducible assumption
    | with_reducible apply State.startItem_kept
    | with_reducible apply State.bump_kept
    | with_reducible apply State.loadImage_kept
    | with_reducible apply State.checkKernel_kept
    | with_reducible apply State.unverified_kept
    | with_reducible apply kept_ite
    | simp only [kept_mk_iff]
    | split

theorem execKernelLoadComplete_kept {cq : List Instr} (cl : Fin 32) (t : Fin 12) (s : Machine.State) (h_s : Kept
    cq s) : ResultKept cq (execKernelLoadComplete cl t s) := by
  unfold execKernelLoadComplete
  repeat' first
    | with_reducible assumption
    | with_reducible apply State.loadDone_kept
    | with_reducible apply resultKept_next

theorem State.hpPost_kept {cq : List Instr} (s : Machine.State) (n : ℕ) (h_s : Kept cq s) :
    Kept cq (State.hpPost s n) := by
  unfold State.hpPost
  repeat' first
    | with_reducible assumption
    | with_reducible apply State.post_kept
    | with_reducible apply State.postWork_kept
    | with_reducible apply State.begin__kept
    | with_reducible apply kept_ite

theorem execPost_kept {cq : List Instr} (cl : Fin 32) (s : Machine.State) (h_s : Kept cq s) :
    ResultKept cq (execPost cl s) := by
  unfold execPost
  repeat' first
    | with_reducible assumption
    | with_reducible apply hostCmd_kept
    | with_reducible apply State.hpPost_kept
    | intro _

theorem State.hpDelay_kept {cq : List Instr} (s : Machine.State) (n : ℕ) (us : ℕ) (h_s : Kept cq s) :
    Kept cq (State.hpDelay s n us) := by
  unfold State.hpDelay
  repeat' first
    | with_reducible assumption
    | with_reducible apply State.delayWork_kept
    | with_reducible apply State.begin__kept
    | with_reducible apply State.wv_kept
    | with_reducible apply State.post_kept
    | with_reducible apply kept_ite
    | extract_lets
    | split

theorem execDelay_kept {cq : List Instr} (cl : Fin 32) (us : BitVec 32) (s : Machine.State) (h_s : Kept cq s) :
    ResultKept cq (execDelay cl us s) := by
  unfold execDelay
  repeat' first
    | with_reducible assumption
    | with_reducible apply hostCmd_kept
    | with_reducible apply State.hpDelay_kept
    | intro _

theorem execDeferredAccept_kept {cq : List Instr} (cl : Fin 32) (s : Machine.State) (h_s : Kept cq s) :
    ResultKept cq (execDeferredAccept cl s) := by
  unfold execDeferredAccept
  repeat' first
    | with_reducible assumption
    | with_reducible apply State.deferred_kept
    | with_reducible apply resultKept_next

theorem State.oneShotExpires_kept {cq : List Instr} (s : Machine.State) (n : ℕ) (k : ℕ) (h_s : Kept cq s) :
    Kept cq (State.oneShotExpires s n k) := by
  unfold State.oneShotExpires
  repeat' first
    | with_reducible assumption
    | with_reducible apply State.release_kept
    | with_reducible apply kept_ite
    | split

theorem State.hpCancel_kept {cq : List Instr} (s : Machine.State) (n : ℕ) (k : ℕ) (h_s : Kept cq s) :
    Kept cq (State.hpCancel s n k) := by
  unfold State.hpCancel
  repeat' first
    | with_reducible assumption
    | with_reducible apply State.begin__kept
    | with_reducible apply State.post_kept
    | with_reducible apply State.dropTimer_kept
    | with_reducible apply State.oneShotExpires_kept
    | with_reducible apply kept_ite
    | simp only [kept_mk_iff]
    | split

theorem execCancel_kept {cq : List Instr} (cl : Fin 32) (timer : BitVec 13) (s : Machine.State) (h_s : Kept cq
    s) : ResultKept cq (execCancel cl timer s) := by
  unfold execCancel
  repeat' first
    | with_reducible assumption
    | with_reducible apply hostCmd_kept
    | with_reducible apply State.hpCancel_kept
    | intro _

theorem execOneShotTimerExpiry_kept {cq : List Instr} (cl : Fin 32) (timer : BitVec 13) (s : Machine.State) (h_s
    : Kept cq s) : ResultKept cq (execOneShotTimerExpiry cl timer s) := by
  unfold execOneShotTimerExpiry
  repeat' first
    | with_reducible assumption
    | with_reducible apply State.oneShotExpires_kept
    | with_reducible apply resultKept_next

theorem State.periodicExpires_kept {cq : List Instr} (s : Machine.State) (n : ℕ) (k : ℕ) (h_s : Kept cq s) :
    Kept cq (State.periodicExpires s n k) := by
  unfold State.periodicExpires
  repeat' first
    | with_reducible assumption
    | with_reducible apply State.setCluster_kept
    | with_reducible apply State.release_kept
    | with_reducible apply kept_ite
    | with_reducible refine each_kept _ _ (fun _ _ _ => ?_) ?_
    | simp only [kept_mk_iff]
    | split

theorem execPeriodicTimerExpiry_kept {cq : List Instr} (cl : Fin 32) (slot : BitVec 13) (s : Machine.State) (h_s
    : Kept cq s) : ResultKept cq (execPeriodicTimerExpiry cl slot s) := by
  unfold execPeriodicTimerExpiry
  repeat' first
    | with_reducible assumption
    | with_reducible apply State.periodicExpires_kept
    | with_reducible apply resultKept_next

theorem execCreate_kept {cq : List Instr} (d : Fin 2) (cask : BitVec 13) (s : Machine.State) (h_s : Kept cq s) :
    ResultKept cq (execCreate d cask s) := by
  unfold execCreate
  repeat' first
    | with_reducible assumption
    | with_reducible apply hostCmd_kept
    | with_reducible apply State.cskCreate_kept
    | intro _

theorem execFlush_kept {cq : List Instr} (d : Fin 2) (cask : BitVec 13) (s : Machine.State) (h_s : Kept cq s) :
    ResultKept cq (execFlush d cask s) := by
  unfold execFlush
  repeat' first
    | with_reducible assumption
    | with_reducible apply hostCmd_kept
    | with_reducible apply State.cskFlush_kept
    | intro _

theorem execDestroy_kept {cq : List Instr} (d : Fin 2) (cask : BitVec 13) (s : Machine.State) (h_s : Kept cq s)
    : ResultKept cq (execDestroy d cask s) := by
  unfold execDestroy
  repeat' first
    | with_reducible assumption
    | with_reducible apply hostCmd_kept
    | with_reducible apply State.cskDestroy_kept
    | intro _

theorem execPush_kept {cq : List Instr} (d : Fin 2) (cask : BitVec 13) (s : Machine.State) (h_s : Kept cq s) :
    ResultKept cq (execPush d cask s) := by
  unfold execPush
  repeat' first
    | with_reducible assumption
    | with_reducible apply hostCmd_kept
    | with_reducible apply State.hwPush_kept
    | intro _

theorem execHwctlCommit_kept {cq : List Instr} (d : Fin 2) (cask : BitVec 13) (s : Machine.State) (h_s : Kept cq
    s) : ResultKept cq (execHwctlCommit d cask s) := by
  unfold execHwctlCommit
  repeat' first
    | with_reducible assumption
    | with_reducible apply hostCmd_kept
    | with_reducible apply State.hwCommit_kept
    | intro _

theorem execHwctlCommitRel_kept {cq : List Instr} (d : Fin 2) (cask : BitVec 13) (s : Machine.State) (h_s : Kept
    cq s) : ResultKept cq (execHwctlCommitRel d cask s) := by
  unfold execHwctlCommitRel
  repeat' first
    | with_reducible assumption
    | with_reducible apply hostCmd_kept
    | with_reducible apply State.hwCommit_kept
    | intro _

theorem execHwctlAbort_kept {cq : List Instr} (d : Fin 2) (cask : BitVec 13) (s : Machine.State) (h_s : Kept cq
    s) : ResultKept cq (execHwctlAbort d cask s) := by
  unfold execHwctlAbort
  repeat' first
    | with_reducible assumption
    | with_reducible apply hostCmd_kept
    | with_reducible apply State.hwAbort_kept
    | intro _

theorem execAdv_kept {cq : List Instr} (d : Fin 2) (cask : BitVec 13) (s : Machine.State) (h_s : Kept cq s) :
    ResultKept cq (execAdv d cask s) := by
  unfold execAdv
  repeat' first
    | with_reducible assumption
    | with_reducible apply hostCmd_kept
    | with_reducible apply State.hwAdv_kept
    | intro _

theorem State.gack_kept {cq : List Instr} (s : Machine.State) (d : ℕ) (g : ℕ) (n : ℕ) (h_s : Kept cq s) :
    Kept cq (State.gack s d g n) := by
  unfold State.gack
  repeat' first
    | with_reducible assumption
    | with_reducible apply State.changed_kept
    | with_reducible apply State.put_kept

theorem execGack_kept {cq : List Instr} (d : Fin 2) (grp : Fin 32) (n : BitVec 16) (s : Machine.State) (h_s :
    Kept cq s) : ResultKept cq (execGack d grp n s) := by
  unfold execGack
  repeat' first
    | with_reducible assumption
    | with_reducible apply hostCmd_kept
    | with_reducible apply State.gack_kept
    | intro _

theorem State.hiddenEcc_kept {cq : List Instr} (s : Machine.State) (b : Bank) (e : Ecc) (h_s : Kept cq s) :
    Kept cq (State.hiddenEcc s b e) := by
  unfold State.hiddenEcc
  repeat' first
    | with_reducible assumption
    | with_reducible apply State.tileEcc_kept
    | with_reducible apply State.setCore_kept
    | split

theorem State.scrub_kept {cq : List Instr} (s : Machine.State) (b : Bank) (e : Ecc) (h_s : Kept cq s) :
    Kept cq (State.scrub s b e) := by
  unfold State.scrub
  repeat' first
    | with_reducible assumption
    | with_reducible apply State.eccAt_kept
    | with_reducible apply State.hiddenEcc_kept
    | with_reducible apply kept_ite
    | simp only [kept_mk_iff]
    | with_reducible apply kept_scrubs
    | with_reducible exact swf_sset _ _ _ _
    | split

theorem execScrubRead_kept {cq : List Instr} (b : Bank) (ecc : Ecc) (s : Machine.State) (h_s : Kept cq s) :
    ResultKept cq (execScrubRead b ecc s) := by
  unfold execScrubRead
  repeat' first
    | with_reducible assumption
    | with_reducible apply State.scrub_kept
    | with_reducible apply resultKept_next

theorem State.patrol_kept {cq : List Instr} (s : Machine.State) (c : ℕ) (e : Ecc) (h_s : Kept cq s) :
    Kept cq (State.patrol s c e) := by
  unfold State.patrol
  repeat' first
    | with_reducible assumption
    | with_reducible apply State.eccAt_kept
    | with_reducible apply State.bump_kept
    | with_reducible apply State.draw_kept
    | with_reducible apply kept_ite
    | simp only [kept_mk_iff]
    | with_reducible apply kept_scrubs
    | with_reducible exact swf_sset _ _ _ _

theorem execPatrolScrub_kept {cq : List Instr} (c : Fin 4) (ecc : Ecc) (s : Machine.State) (h_s : Kept cq s) :
    ResultKept cq (execPatrolScrub c ecc s) := by
  unfold execPatrolScrub
  repeat' first
    | with_reducible assumption
    | with_reducible apply State.patrol_kept
    | with_reducible apply resultKept_next

end Sys2Proof.Machine
end

