-- ==== Sys2Proof/Laws/KeptSlots.lean ====
section
/-!
SUPPORT. What the operations of Machine/Slots.lean keep (Laws/Kept.lean).
-/

namespace Sys2Proof.Machine

theorem State.showSlot_kept {cq : List Instr} (s : Machine.State) (n : ℕ) (k : ℕ) (h_s : Kept cq s) :
    Kept cq (State.showSlot s n k) := by
  unfold State.showSlot
  repeat' first
    | with_reducible assumption
    | with_reducible apply State.wv_kept

theorem State.rejected_kept {cq : List Instr} (s : Machine.State) (n : ℕ) (h_s : Kept cq s) :
    Kept cq (State.rejected s n) := by
  unfold State.rejected
  repeat' first
    | with_reducible assumption
    | with_reducible apply State.raise_kept
    | with_reducible apply State.bump_kept

theorem State.acmd_kept {cq : List Instr} (s : Machine.State) (n : ℕ) (code : ℕ) (f : Machine.State →
    Machine.State) (h_s : Kept cq s) (h_f : ∀ (y0 : Machine.State), Kept cq y0 → Kept cq (f y0)) :
    Kept cq (State.acmd s n code f) := by
  unfold State.acmd
  repeat' first
    | with_reducible assumption
    | with_reducible apply State.post_kept
    | with_reducible apply State.begin__kept
    | with_reducible apply State.rejected_kept
    | with_reducible apply h_f
    | with_reducible apply kept_ite

theorem State.alloc_kept {cq : List Instr} (s : Machine.State) (n : ℕ) (tid : BitVec 18) (h_s : Kept cq s) :
    Kept cq (State.alloc s n tid) := by
  unfold State.alloc
  repeat' first
    | with_reducible assumption
    | with_reducible apply State.acmd_kept
    | with_reducible apply State.writeHome_kept
    | with_reducible apply State.setSlot_kept
    | with_reducible apply State.showSlot_kept
    | with_reducible apply State.unitWrite_kept
    | simp only [kept_mk_iff]
    | intro _
    | split

theorem execAlloc_kept {cq : List Instr} (cl : Fin 32) (tid : BitVec 18) (s : Machine.State) (h_s : Kept cq s) :
    ResultKept cq (execAlloc cl tid s) := by
  unfold execAlloc
  repeat' first
    | with_reducible assumption
    | with_reducible apply hostCmd_kept
    | with_reducible apply State.alloc_kept
    | intro _

theorem State.freeSlot_kept {cq : List Instr} (s : Machine.State) (n : ℕ) (k : ℕ) (h_s : Kept cq s) :
    Kept cq (State.freeSlot s n k) := by
  unfold State.freeSlot
  repeat' first
    | with_reducible assumption
    | with_reducible apply State.acmd_kept
    | with_reducible apply State.clsSupersede_kept
    | with_reducible apply State.showSlot_kept
    | with_reducible apply State.clearSlot_kept
    | with_reducible apply State.dropPeriodic_kept
    | with_reducible apply State.writeHome_kept
    | simp only [kept_mk_iff]
    | intro _
    | extract_lets
    | split

theorem execFree_kept {cq : List Instr} (cl : Fin 32) (slot : BitVec 13) (s : Machine.State) (h_s : Kept cq s) :
    ResultKept cq (execFree cl slot s) := by
  unfold execFree
  repeat' first
    | with_reducible assumption
    | with_reducible apply hostCmd_kept
    | with_reducible apply State.freeSlot_kept
    | intro _

theorem State.query_kept {cq : List Instr} (s : Machine.State) (n : ℕ) (tid : BitVec 18) (h_s : Kept cq s) :
    Kept cq (State.query s n tid) := by
  unfold State.query
  repeat' first
    | with_reducible assumption
    | with_reducible apply State.acmd_kept
    | with_reducible apply State.showSlot_kept
    | with_reducible exact id
    | intro _
    | split

theorem execQuery_kept {cq : List Instr} (cl : Fin 32) (tid : BitVec 18) (s : Machine.State) (h_s : Kept cq s) :
    ResultKept cq (execQuery cl tid s) := by
  unfold execQuery
  repeat' first
    | with_reducible assumption
    | with_reducible apply hostCmd_kept
    | with_reducible apply State.query_kept
    | intro _

theorem State.dropAdjusts_kept {cq : List Instr} (s : Machine.State) (n : ℕ) (k : ℕ) (h_s : Kept cq s) :
    Kept cq (State.dropAdjusts s n k) := by
  unfold State.dropAdjusts
  repeat' first
    | with_reducible assumption
    | with_reducible apply State.raise_kept
    | with_reducible apply State.bumpBy_kept
    | with_reducible apply State.setSlot_kept
    | with_reducible apply kept_ite

theorem State.supersede_kept {cq : List Instr} (s : Machine.State) (n : ℕ) (k : ℕ) (h_s : Kept cq s) :
    Kept cq (State.supersede s n k) := by
  unfold State.supersede
  repeat' first
    | with_reducible assumption
    | with_reducible apply State.clsSupersede_kept
    | with_reducible apply State.bump_kept
    | with_reducible apply kept_ite
    | split

theorem State.armPeriodic_kept {cq : List Instr} (s : Machine.State) (n : ℕ) (k : ℕ) (due : ℕ) (h_s : Kept cq s)
    : Kept cq (State.armPeriodic s n k due) := by
  unfold State.armPeriodic
  repeat' first
    | with_reducible assumption
    | with_reducible apply State.setCluster_kept
    | simp only [kept_mk_iff]
    | split

theorem State.acceptCommit_kept {cq : List Instr} (s : Machine.State) (n : ℕ) (k : ℕ) (keep : Bool) (staged :
    Bool) (buf : ℕ) (version : BitVec 16) (h_s : Kept cq s) :
    Kept cq (State.acceptCommit s n k keep staged buf version) := by
  unfold State.acceptCommit
  repeat' first
    | with_reducible assumption
    | with_reducible apply State.bump_kept
    | with_reducible apply State.dropAdjusts_kept
    | with_reducible apply State.supersede_kept
    | with_reducible apply State.setSlot_kept
    | with_reducible apply State.settleSlots_kept
    | with_reducible apply State.armPeriodic_kept
    | with_reducible apply kept_ite

theorem State.doorbell_kept {cq : List Instr} (s : Machine.State) (n : ℕ) (k : ℕ) (version : BitVec 16) (code :
    ℕ) (f : Machine.State → Machine.State) (h_s : Kept cq s) (h_f : ∀ (y0 : Machine.State), Kept cq y0 → Kept cq
    (f y0)) : Kept cq (State.doorbell s n k version code f) := by
  unfold State.doorbell
  repeat' first
    | with_reducible assumption
    | with_reducible apply State.wv_kept
    | with_reducible apply State.begin__kept
    | with_reducible apply State.post_kept
    | with_reducible apply State.rejected_kept
    | with_reducible apply h_f
    | with_reducible apply kept_ite

theorem State.commit_kept {cq : List Instr} (s : Machine.State) (n : ℕ) (k : ℕ) (keep : Bool) (staged : Bool)
    (buf : ℕ) (version : BitVec 16) (h_s : Kept cq s) :
    Kept cq (State.commit s n k keep staged buf version) := by
  unfold State.commit
  repeat' first
    | with_reducible assumption
    | with_reducible apply State.doorbell_kept
    | with_reducible apply State.acceptCommit_kept
    | intro _

theorem execCommit_kept {cq : List Instr} (cl : Fin 32) (slot : BitVec 13) (keep : Bool) (staged : Bool) (buf :
    BitVec 6) (version : BitVec 16) (s : Machine.State) (h_s : Kept cq s) :
    ResultKept cq (execCommit cl slot keep staged buf version s) := by
  unfold execCommit
  repeat' first
    | with_reducible assumption
    | with_reducible apply hostCmd_kept
    | with_reducible apply State.commit_kept
    | intro _

theorem State.acceptDelete_kept {cq : List Instr} (s : Machine.State) (n : ℕ) (k : ℕ) (h_s : Kept cq s) :
    Kept cq (State.acceptDelete s n k) := by
  unfold State.acceptDelete
  repeat' first
    | with_reducible assumption
    | with_reducible apply State.dropAdjusts_kept
    | with_reducible apply State.supersede_kept
    | with_reducible apply State.settleSlots_kept
    | with_reducible apply State.setSlot_kept

theorem State.delete_kept {cq : List Instr} (s : Machine.State) (n : ℕ) (k : ℕ) (version : BitVec 16) (h_s :
    Kept cq s) : Kept cq (State.delete s n k version) := by
  unfold State.delete
  repeat' first
    | with_reducible assumption
    | with_reducible apply State.doorbell_kept
    | with_reducible apply State.acceptDelete_kept
    | intro _

theorem execDelete_kept {cq : List Instr} (cl : Fin 32) (slot : BitVec 13) (version : BitVec 16) (s :
    Machine.State) (h_s : Kept cq s) : ResultKept cq (execDelete cl slot version s) := by
  unfold execDelete
  repeat' first
    | with_reducible assumption
    | with_reducible apply hostCmd_kept
    | with_reducible apply State.delete_kept
    | intro _

theorem State.badDoorbell_kept {cq : List Instr} (s : Machine.State) (n : ℕ) (k : ℕ) (version : BitVec 16) (h_s
    : Kept cq s) : Kept cq (State.badDoorbell s n k version) := by
  unfold State.badDoorbell
  repeat' first
    | with_reducible assumption
    | with_reducible apply State.doorbell_kept
    | with_reducible exact id
    | intro _

theorem State.switchPlay_kept {cq : List Instr} (s : Machine.State) (n : ℕ) (tid : BitVec 18) (c : List Byte)
    (load : Bool) (at_ : ℕ) (h_s : Kept cq s) : Kept cq (State.switchPlay s n tid c load at_) := by
  unfold State.switchPlay
  repeat' first
    | with_reducible assumption
    | with_reducible apply State.dropPlay_kept
    | with_reducible apply State.draw_kept
    | with_reducible apply State.setPlay_kept
    | with_reducible apply State.owe_kept
    | with_reducible apply kept_ite

theorem State.clearAreas_kept {cq : List Instr} (s : Machine.State) (c : List Byte) (h_s : Kept cq s) :
    Kept cq (State.clearAreas s c) := by
  unfold State.clearAreas
  repeat' first
    | with_reducible assumption
    | simp only [kept_mk_iff]
    | with_reducible apply kept_areas
    | with_reducible exact swf_filter _ _ _

theorem State.freshAreas_kept {cq : List Instr} (s : Machine.State) (old : List Byte) (new : List Byte) (h_s :
    Kept cq s) : Kept cq (State.freshAreas s old new) := by
  unfold State.freshAreas
  repeat' first
    | with_reducible assumption
    | with_reducible apply State.setArea_kept
    | with_reducible refine each_kept _ _ (fun _ _ _ => ?_) ?_

theorem State.primeGens_kept {cq : List Instr} (s : Machine.State) (c : List Byte) (h_s : Kept cq s) :
    Kept cq (State.primeGens s c) := by
  unfold State.primeGens
  repeat' first
    | with_reducible assumption
    | with_reducible apply State.setArea_kept
    | with_reducible apply kept_ite
    | with_reducible refine each_kept _ _ (fun _ _ _ => ?_) ?_

theorem State.setVde_kept {cq : List Instr} (s : Machine.State) (a : ℕ) (v : VdeSt) (h_s : Kept cq s) :
    Kept cq (State.setVde s a v) := by
  unfold State.setVde
  repeat' first
    | with_reducible assumption
    | with_reducible apply State.setArea_kept

theorem State.primeVde_kept {cq : List Instr} (s : Machine.State) (n : ℕ) (was : List (ℕ × ℕ)) (c : List Byte)
    (h_s : Kept cq s) : Kept cq (State.primeVde s n was c) := by
  unfold State.primeVde
  repeat' first
    | with_reducible assumption
    | with_reducible apply State.writeLe_kept
    | with_reducible apply State.setArea_kept
    | with_reducible apply kept_ite
    | with_reducible refine each_kept _ _ (fun _ _ _ => ?_) ?_

theorem State.switchVat_kept {cq : List Instr} (s : Machine.State) (n : ℕ) (c : List Byte) (anew : Bool) (h_s :
    Kept cq s) : Kept cq (State.switchVat s n c anew) := by
  unfold State.switchVat
  repeat' first
    | with_reducible assumption
    | with_reducible apply State.setVat_kept
    | with_reducible apply kept_ite
    | simp only [kept_mk_iff]
    | split

theorem State.writeSlot_kept {cq : List Instr} (s : Machine.State) (n : ℕ) (k : ℕ) (c : List Byte) (inPlace :
    Bool) (load : Bool) (h_s : Kept cq s) : Kept cq (State.writeSlot s n k c inPlace load) := by
  unfold State.writeSlot
  repeat' first
    | with_reducible assumption
    | with_reducible apply State.write_kept
    | with_reducible apply State.poisonWord_kept
    | with_reducible refine each_kept _ _ (fun _ _ _ => ?_) ?_

theorem State.switchVersion_kept {cq : List Instr} (s : Machine.State) (n : ℕ) (k : ℕ) (q : Commit) (h_s : Kept
    cq s) : Kept cq (State.switchVersion s n k q) := by
  unfold State.switchVersion
  repeat' first
    | with_reducible assumption
    | with_reducible apply State.writeSlot_kept
    | with_reducible apply State.setSlot_kept
    | with_reducible apply State.switchVat_kept
    | with_reducible apply State.primeVde_kept
    | with_reducible apply State.primeGens_kept
    | with_reducible apply State.clearAreas_kept
    | with_reducible apply State.freshAreas_kept
    | with_reducible apply State.dropPeriodic_kept
    | with_reducible apply State.armPeriodic_kept
    | with_reducible apply State.srtpRekey_kept
    | with_reducible apply State.bump_kept
    | with_reducible apply State.switchPlay_kept
    | with_reducible apply State.settleSlots_kept
    | with_reducible apply State.writeHome_kept
    | with_reducible apply State.clsSwitch_kept
    | with_reducible apply kept_ite

theorem State.switchDelete_kept {cq : List Instr} (s : Machine.State) (n : ℕ) (k : ℕ) (h_s : Kept cq s) :
    Kept cq (State.switchDelete s n k) := by
  unfold State.switchDelete
  repeat' first
    | with_reducible assumption
    | with_reducible apply State.dropPeriodic_kept
    | with_reducible apply State.setSlot_kept
    | with_reducible apply State.reap_kept
    | with_reducible apply State.setPlay_kept

theorem State.goIdle_kept {cq : List Instr} (s : Machine.State) (n : ℕ) (k : ℕ) (h_s : Kept cq s) :
    Kept cq (State.goIdle s n k) := by
  unfold State.goIdle
  repeat' first
    | with_reducible assumption
    | with_reducible apply State.setSlot_kept
    | with_reducible apply State.wv_kept
    | with_reducible apply State.raise_kept
    | with_reducible apply kept_ite

theorem State.applyAdjust_kept {cq : List Instr} (s : Machine.State) (n : ℕ) (k : ℕ) (a : Adjust) (h_s : Kept cq
    s) : Kept cq (State.applyAdjust s n k a) := by
  unfold State.applyAdjust
  repeat' first
    | with_reducible assumption
    | with_reducible apply State.goIdle_kept
    | with_reducible apply State.bump_kept
    | with_reducible apply State.write_kept
    | with_reducible apply State.setPlay_kept
    | with_reducible apply State.owe_kept
    | with_reducible apply kept_ite

theorem State.versionSwitch_kept {cq : List Instr} (s : Machine.State) (n : ℕ) (k : ℕ) (h_s : Kept cq s) :
    Kept cq (State.versionSwitch s n k) := by
  unfold State.versionSwitch
  repeat' first
    | with_reducible assumption
    | with_reducible apply State.switchDelete_kept
    | with_reducible apply State.switchVersion_kept
    | with_reducible apply State.setSlot_kept
    | with_reducible apply State.applyAdjust_kept
    | with_reducible apply kept_ite
    | with_reducible refine each_kept _ _ (fun _ _ _ => ?_) ?_
    | extract_lets
    | split

theorem execVersionSwitch_kept {cq : List Instr} (cl : Fin 32) (slot : BitVec 13) (s : Machine.State) (h_s :
    Kept cq s) : ResultKept cq (execVersionSwitch cl slot s) := by
  unfold execVersionSwitch
  repeat' first
    | with_reducible assumption
    | with_reducible apply State.versionSwitch_kept
    | with_reducible apply resultKept_next

theorem State.adjust_kept {cq : List Instr} (s : Machine.State) (n : ℕ) (k : ℕ) (base : BitVec 16) (area : List
    Word) (h_s : Kept cq s) : Kept cq (State.adjust s n k base area) := by
  unfold State.adjust
  repeat' first
    | with_reducible assumption
    | with_reducible apply State.raise_kept
    | with_reducible apply State.bump_kept
    | with_reducible apply State.setSlot_kept
    | with_reducible apply kept_ite

theorem State.metricsEnd_kept {cq : List Instr} (s : Machine.State) (n : ℕ) (k : ℕ) (h_s : Kept cq s) :
    Kept cq (State.metricsEnd s n k) := by
  unfold State.metricsEnd
  repeat' first
    | with_reducible assumption
    | with_reducible apply State.draw_kept
    | with_reducible apply State.write_kept
    | with_reducible apply State.writeLe_kept
    | with_reducible apply State.setSlot_kept
    | with_reducible apply State.setPlay_kept
    | with_reducible apply kept_ite

theorem execMetricsIntervalEnd_kept {cq : List Instr} (cl : Fin 32) (slot : BitVec 13) (s : Machine.State) (h_s
    : Kept cq s) : ResultKept cq (execMetricsIntervalEnd cl slot s) := by
  unfold execMetricsIntervalEnd
  repeat' first
    | with_reducible assumption
    | with_reducible apply State.metricsEnd_kept
    | with_reducible apply resultKept_next

end Sys2Proof.Machine
end

