-- ==== Sys2Proof/Laws/KeptTdm.lean ====
section
/-!
SUPPORT. What the operations of Machine/Tdm.lean keep (Laws/Kept.lean).
-/

namespace Sys2Proof.Machine

theorem State.setTdm_kept {cq : List Instr} (s : Machine.State) (p : ℕ) (x : Tdm) (h_s : Kept cq s) :
    Kept cq (State.setTdm s p x) := by
  unfold State.setTdm
  repeat' first
    | with_reducible assumption
    | simp only [kept_mk_iff]
    | with_reducible apply kept_tdms
    | with_reducible exact swf_sset _ _ _ _

theorem State.tdmBumpBy_kept {cq : List Instr} (s : Machine.State) (p : ℕ) (ctr : ℕ) (n : ℕ) (h_s : Kept cq s) :
    Kept cq (State.tdmBumpBy s p ctr n) := by
  unfold State.tdmBumpBy
  repeat' first
    | with_reducible assumption
    | with_reducible apply State.bumpBy_kept

theorem State.tdmBump_kept {cq : List Instr} (s : Machine.State) (p : ℕ) (ctr : ℕ) (h_s : Kept cq s) :
    Kept cq (State.tdmBump s p ctr) := by
  unfold State.tdmBump
  repeat' first
    | with_reducible assumption
    | with_reducible apply State.tdmBumpBy_kept

theorem State.hdlcShow_kept {cq : List Instr} (s : Machine.State) (p : ℕ) (on : Bool) (h_s : Kept cq s) :
    Kept cq (State.hdlcShow s p on) := by
  unfold State.hdlcShow
  repeat' first
    | with_reducible assumption
    | with_reducible apply State.wv_kept
    | with_reducible refine each_kept _ _ (fun _ _ _ => ?_) ?_

theorem State.tdmStart_kept {cq : List Instr} (s : Machine.State) (p : ℕ) (h_s : Kept cq s) :
    Kept cq (State.tdmStart s p) := by
  unfold State.tdmStart
  repeat' first
    | with_reducible assumption
    | with_reducible apply State.hdlcShow_kept
    | with_reducible apply State.wv_kept
    | with_reducible apply State.setTdm_kept
    | simp only [kept_mk_iff]
    | with_reducible apply kept_egMarks
    | with_reducible exact nrising_filter _ _

theorem State.tdmStop_kept {cq : List Instr} (s : Machine.State) (p : ℕ) (h_s : Kept cq s) :
    Kept cq (State.tdmStop s p) := by
  unfold State.tdmStop
  repeat' first
    | with_reducible assumption
    | with_reducible apply State.hdlcShow_kept
    | with_reducible apply State.wv_kept
    | with_reducible apply State.setTdm_kept

theorem State.tdmCal_kept {cq : List Instr} (s : Machine.State) (p : ℕ) (on : Bool) (h_s : Kept cq s) :
    Kept cq (State.tdmCal s p on) := by
  unfold State.tdmCal
  repeat' first
    | with_reducible assumption
    | with_reducible apply State.post_kept
    | with_reducible apply State.begin__kept
    | with_reducible apply kept_ite

theorem State.tdmCtrl_kept {cq : List Instr} (s : Machine.State) (p : ℕ) (v : ℕ) (h_s : Kept cq s) :
    Kept cq (State.tdmCtrl s p v) := by
  unfold State.tdmCtrl
  repeat' first
    | with_reducible assumption
    | with_reducible apply State.tdmCal_kept
    | with_reducible apply State.wv_kept
    | with_reducible apply State.tdmStart_kept
    | with_reducible apply State.tdmStop_kept
    | with_reducible apply kept_ite

theorem execTdmEnable_kept {cq : List Instr} (p : Fin 48) (val : BitVec 32) (s : Machine.State) (h_s : Kept cq
    s) : ResultKept cq (execTdmEnable p val s) := by
  unfold execTdmEnable
  repeat' first
    | with_reducible assumption
    | with_reducible apply hostCmd_kept
    | with_reducible apply State.tdmCtrl_kept
    | intro _

theorem execTdmCalibrate_kept {cq : List Instr} (p : Fin 48) (s : Machine.State) (h_s : Kept cq s) :
    ResultKept cq (execTdmCalibrate p s) := by
  unfold execTdmCalibrate
  repeat' first
    | with_reducible assumption
    | with_reducible apply hostCmd_kept
    | with_reducible apply State.tdmCtrl_kept
    | intro _

theorem State.tdmCalDone_kept {cq : List Instr} (s : Machine.State) (p : ℕ) (m : Option (BitVec 8)) (h_s : Kept
    cq s) : Kept cq (State.tdmCalDone s p m) := by
  unfold State.tdmCalDone
  repeat' first
    | with_reducible assumption
    | with_reducible apply State.post_kept
    | with_reducible apply State.wv_kept
    | with_reducible apply State.put_kept
    | with_reducible apply State.draw_kept
    | with_reducible apply kept_ite

theorem execCalibrationComplete_kept {cq : List Instr} (p : Fin 48) (measured : Option (BitVec 8)) (s :
    Machine.State) (h_s : Kept cq s) : ResultKept cq (execCalibrationComplete p measured s) := by
  unfold execCalibrationComplete
  repeat' first
    | with_reducible assumption
    | with_reducible apply State.tdmCalDone_kept
    | with_reducible apply resultKept_next

theorem State.traceFrameIn_kept {cq : List Instr} (s : Machine.State) (p : ℕ) (tag : ℕ) (os : List Byte) (h_s :
    Kept cq s) : Kept cq (State.traceFrameIn s p tag os) := by
  unfold State.traceFrameIn
  repeat' first
    | with_reducible assumption
    | with_reducible apply State.capture_kept
    | with_reducible apply State.raise_kept
    | with_reducible apply State.setProbe_kept
    | with_reducible refine each_kept _ _ (fun _ _ _ => ?_) ?_

theorem State.traceCas_kept {cq : List Instr} (s : Machine.State) (p : ℕ) (e : ℕ) (tag : ℕ) (ch : ℕ) (abcd : ℕ)
    (lost : Bool) (h_s : Kept cq s) : Kept cq (State.traceCas s p e tag ch abcd lost) := by
  unfold State.traceCas
  repeat' first
    | with_reducible assumption
    | with_reducible apply State.capture_kept
    | with_reducible apply State.raise_kept
    | with_reducible refine each_kept _ _ (fun _ _ _ => ?_) ?_

theorem State.traceHdlc_kept {cq : List Instr} (s : Machine.State) (p : ℕ) (h : ℕ) (tag : ℕ) (data : List Byte)
    (stat : ℕ) (h_s : Kept cq s) : Kept cq (State.traceHdlc s p h tag data stat) := by
  unfold State.traceHdlc
  repeat' first
    | with_reducible assumption
    | with_reducible apply State.capture_kept
    | with_reducible apply State.raise_kept
    | with_reducible refine each_kept _ _ (fun _ _ _ => ?_) ?_

theorem State.setCas_kept {cq : List Instr} (s : Machine.State) (p : ℕ) (e : ℕ) (c : CasSt) (h_s : Kept cq s) :
    Kept cq (State.setCas s p e c) := by
  unfold State.setCas
  repeat' first
    | with_reducible assumption
    | with_reducible apply State.setTdm_kept

theorem State.casValue_kept {cq : List Instr} (s : Machine.State) (p : ℕ) (e : ℕ) (tag : ℕ) (ch : ℕ) (v : ℕ)
    (h_s : Kept cq s) : Kept cq (State.casValue s p e tag ch v) := by
  unfold State.casValue
  repeat' first
    | with_reducible assumption
    | with_reducible apply State.setCas_kept
    | with_reducible apply State.traceCas_kept
    | with_reducible apply State.raise_kept
    | with_reducible apply State.tdmBump_kept
    | with_reducible apply State.put_kept
    | with_reducible apply kept_ite

theorem State.casRx_kept {cq : List Instr} (s : Machine.State) (p : ℕ) (e : ℕ) (tag : ℕ) (o : Byte) (h_s : Kept
    cq s) : Kept cq (State.casRx s p e tag o) := by
  unfold State.casRx
  repeat' first
    | with_reducible assumption
    | with_reducible apply State.put_kept
    | with_reducible apply State.setCas_kept
    | with_reducible apply State.traceCas_kept
    | with_reducible apply State.casValue_kept
    | with_reducible apply kept_ite

theorem State.casLatch_kept {cq : List Instr} (s : Machine.State) (p : ℕ) (h_s : Kept cq s) :
    Kept cq (State.casLatch s p) := by
  unfold State.casLatch
  repeat' first
    | with_reducible assumption
    | with_reducible apply State.setTdm_kept

theorem State.hdlcCfg_kept {cq : List Instr} (s : Machine.State) (p : ℕ) (h : ℕ) (v : ℕ) (h_s : Kept cq s) :
    Kept cq (State.hdlcCfg s p h v) := by
  unfold State.hdlcCfg
  repeat' first
    | with_reducible assumption
    | with_reducible apply State.setTdm_kept
    | with_reducible apply State.raise_kept
    | with_reducible apply State.wv_kept
    | with_reducible apply kept_ite

theorem execHdlcEnable_kept {cq : List Instr} (p : Fin 48) (hslot : Fin 64) (val : BitVec 32) (s :
    Machine.State) (h_s : Kept cq s) : ResultKept cq (execHdlcEnable p hslot val s) := by
  unfold execHdlcEnable
  repeat' first
    | with_reducible assumption
    | with_reducible apply hostCmd_kept
    | with_reducible apply State.hdlcCfg_kept
    | intro _

theorem State.hdlcReceive_kept {cq : List Instr} (s : Machine.State) (p : ℕ) (h : ℕ) (data : List Byte) (stat :
    ℕ) (h_s : Kept cq s) : Kept cq (State.hdlcReceive s p h data stat) := by
  unfold State.hdlcReceive
  repeat' first
    | with_reducible assumption
    | with_reducible apply State.tdmBump_kept
    | with_reducible apply State.traceHdlc_kept
    | with_reducible apply State.postPacket_kept
    | with_reducible apply State.raise_kept
    | with_reducible apply kept_ite

theorem execHdlcFrameReceive_kept {cq : List Instr} (p : Fin 48) (hslot : Fin 64) (data : List (BitVec 8)) (stat
    : BitVec 3) (s : Machine.State) (h_s : Kept cq s) :
    ResultKept cq (execHdlcFrameReceive p hslot data stat s) := by
  unfold execHdlcFrameReceive
  repeat' first
    | with_reducible assumption
    | with_reducible apply State.hdlcReceive_kept
    | with_reducible apply resultKept_next

theorem State.takePacket_kept {cq : List Instr} (x0_0 : ℕ) (x0_5 : Machine.State) (x1_10 : ℕ) (x1_16 : List
    CWord) (h_x0_5 : Kept cq x0_5) : Kept cq (State.takePacket x0_0 x0_5 x1_10 x1_16).1 := by
  induction x0_0 generalizing x0_5 x1_16 with
  | zero =>
    unfold State.takePacket
    repeat' first
      | with_reducible assumption
      | with_reducible apply ih
      | with_reducible apply State.consume_kept
      | with_reducible apply kept_ite_fst
  | succ m ih =>
    unfold State.takePacket
    repeat' first
      | with_reducible assumption
      | with_reducible apply ih
      | with_reducible apply State.consume_kept
      | with_reducible apply kept_ite_fst

theorem State.hdlcTransmit_kept {cq : List Instr} (s : Machine.State) (p : ℕ) (h : ℕ) (h_s : Kept cq s) :
    Kept cq (State.hdlcTransmit s p h) := by
  unfold State.hdlcTransmit
  repeat' first
    | with_reducible assumption
    | with_reducible apply State.takePacket_kept
    | with_reducible apply State.setTdm_kept
    | with_reducible apply State.raise_kept
    | with_reducible apply State.tdmBump_kept
    | with_reducible apply kept_ite
    | simp only [kept_mk_iff]
    | split

theorem execHdlcFrameTransmit_kept {cq : List Instr} (p : Fin 48) (hslot : Fin 64) (s : Machine.State) (h_s :
    Kept cq s) : ResultKept cq (execHdlcFrameTransmit p hslot s) := by
  unfold execHdlcFrameTransmit
  repeat' first
    | with_reducible assumption
    | with_reducible apply State.hdlcTransmit_kept
    | with_reducible apply resultKept_next

theorem State.hdlcLine_kept {cq : List Instr} (s : Machine.State) (p : ℕ) (os : List Byte) (h_s : Kept cq s) :
    Kept cq (State.hdlcLine s p os).1 := by
  unfold State.hdlcLine
  repeat' first
    | with_reducible assumption
    | with_reducible apply State.setTdm_kept
    | with_reducible refine kept_foldl_fst _ _ (fun _ _ _ => ?_) ?_

theorem State.writeIngress_kept {cq : List Instr} (s : Machine.State) (p : ℕ) (f : ℕ) (tag : ℕ) (os : List Byte)
    (h_s : Kept cq s) : Kept cq (State.writeIngress s p f tag os) := by
  unfold State.writeIngress
  repeat' first
    | with_reducible assumption
    | with_reducible apply State.write_kept
    | with_reducible refine each_kept _ _ (fun _ _ _ => ?_) ?_

theorem State.casFrame_kept {cq : List Instr} (s : Machine.State) (p : ℕ) (tag : ℕ) (os : List Byte) (h_s : Kept
    cq s) : Kept cq (State.casFrame s p tag os) := by
  unfold State.casFrame
  repeat' first
    | with_reducible assumption
    | with_reducible apply State.casRx_kept
    | with_reducible apply kept_ite
    | with_reducible refine each_kept _ _ (fun _ _ _ => ?_) ?_

theorem State.countSlips_kept {cq : List Instr} (s : Machine.State) (p : ℕ) (tag : ℕ) (h_s : Kept cq s) :
    Kept cq (State.countSlips s p tag) := by
  unfold State.countSlips
  repeat' first
    | with_reducible assumption
    | with_reducible apply State.setTdm_kept
    | with_reducible apply State.raise_kept
    | with_reducible apply State.tdmBumpBy_kept
    | with_reducible apply kept_ite

theorem State.skewFrame_kept {cq : List Instr} (s : Machine.State) (p : ℕ) (tag : ℕ) (h_s : Kept cq s) :
    Kept cq (State.skewFrame s p tag) := by
  unfold State.skewFrame
  repeat' first
    | with_reducible assumption
    | with_reducible apply kept_ite
    | simp only [kept_mk_iff]
    | with_reducible apply kept_fold
    | split

theorem State.tdmIngress_kept {cq : List Instr} (s : Machine.State) (p : ℕ) (octets : List Byte) (h_s : Kept cq
    s) : Kept cq (State.tdmIngress s p octets) := by
  unfold State.tdmIngress
  repeat' first
    | with_reducible assumption
    | with_reducible apply State.setTdm_kept
    | with_reducible apply State.tdmBump_kept
    | with_reducible apply State.wv_kept
    | with_reducible apply State.writeIngress_kept
    | with_reducible apply State.skewFrame_kept
    | with_reducible apply State.traceFrameIn_kept
    | with_reducible apply State.casFrame_kept
    | with_reducible apply State.countSlips_kept
    | with_reducible apply kept_ite

theorem execTdmIngressFrame_kept {cq : List Instr} (p : Fin 48) (octets : List (BitVec 8)) (s : Machine.State)
    (h_s : Kept cq s) : ResultKept cq (execTdmIngressFrame p octets s) := by
  unfold execTdmIngressFrame
  repeat' first
    | with_reducible assumption
    | with_reducible apply State.tdmIngress_kept
    | with_reducible apply resultKept_next

theorem State.refill_kept {cq : List Instr} (s : Machine.State) (p : ℕ) (f : ℕ) (tag : ℕ) (h_s : Kept cq s) :
    Kept cq (State.refill s p f tag) := by
  unfold State.refill
  repeat' first
    | with_reducible assumption
    | with_reducible apply State.write_kept
    | with_reducible refine each_kept _ _ (fun _ _ _ => ?_) ?_
    | simp only [kept_mk_iff]
    | with_reducible apply kept_egMarks
    | with_reducible exact nrising_filter _ _

theorem State.tdmFetch_kept {cq : List Instr} (s : Machine.State) (p : ℕ) (h_s : Kept cq s) :
    Kept cq (State.tdmFetch s p) := by
  unfold State.tdmFetch
  repeat' first
    | with_reducible assumption
    | with_reducible apply State.casLatch_kept
    | with_reducible apply State.hdlcLine_kept
    | with_reducible apply State.tdmBump_kept
    | with_reducible apply State.setTdm_kept
    | with_reducible apply State.raise_kept
    | with_reducible apply State.tdmBumpBy_kept
    | with_reducible apply State.refill_kept
    | with_reducible apply State.emit_kept
    | with_reducible apply kept_ite

theorem execTdmEgressFetch_kept {cq : List Instr} (p : Fin 48) (s : Machine.State) (h_s : Kept cq s) :
    ResultKept cq (execTdmEgressFetch p s) := by
  unfold execTdmEgressFetch
  repeat' first
    | with_reducible assumption
    | with_reducible apply State.tdmFetch_kept
    | with_reducible apply resultKept_next

theorem State.tdmResume_kept {cq : List Instr} (s : Machine.State) (h_s : Kept cq s) :
    Kept cq (State.tdmResume s) := by
  unfold State.tdmResume
  repeat' first
    | with_reducible assumption
    | with_reducible apply State.setTdm_kept
    | with_reducible refine each_kept _ _ (fun _ _ _ => ?_) ?_

theorem State.tdmRealign_kept {cq : List Instr} (s : Machine.State) (was : ℕ) (h_s : Kept cq s) :
    Kept cq (State.tdmRealign s was) := by
  unfold State.tdmRealign
  repeat' first
    | with_reducible assumption
    | with_reducible apply State.setTdm_kept
    | with_reducible refine each_kept _ _ (fun _ _ _ => ?_) ?_

theorem State.lofBegin_kept {cq : List Instr} (s : Machine.State) (p : ℕ) (h_s : Kept cq s) :
    Kept cq (State.lofBegin s p) := by
  unfold State.lofBegin
  repeat' first
    | with_reducible assumption
    | with_reducible apply State.raise_kept
    | with_reducible apply State.tdmBump_kept
    | with_reducible apply State.put_kept
    | with_reducible apply State.setTdm_kept

theorem State.fsError_kept {cq : List Instr} (s : Machine.State) (p : ℕ) (h_s : Kept cq s) :
    Kept cq (State.fsError s p) := by
  unfold State.fsError
  repeat' first
    | with_reducible assumption
    | with_reducible apply State.raise_kept
    | with_reducible apply State.tdmBump_kept
    | with_reducible apply State.setTdm_kept
    | with_reducible apply State.lofBegin_kept
    | with_reducible apply kept_ite

theorem State.fsEdge_kept {cq : List Instr} (s : Machine.State) (p : ℕ) (h_s : Kept cq s) :
    Kept cq (State.fsEdge s p) := by
  unfold State.fsEdge
  repeat' first
    | with_reducible assumption
    | with_reducible apply State.setTdm_kept
    | with_reducible apply State.put_kept
    | with_reducible apply State.fsError_kept
    | with_reducible apply kept_ite
    | simp only [kept_mk_iff]
    | split

theorem execFsReceived_kept {cq : List Instr} (p : Fin 48) (s : Machine.State) (h_s : Kept cq s) :
    ResultKept cq (execFsReceived p s) := by
  unfold execFsReceived
  repeat' first
    | with_reducible assumption
    | with_reducible apply State.fsEdge_kept
    | with_reducible apply resultKept_next

theorem State.fsGone_kept {cq : List Instr} (s : Machine.State) (p : ℕ) (h_s : Kept cq s) :
    Kept cq (State.fsGone s p) := by
  unfold State.fsGone
  repeat' first
    | with_reducible assumption
    | with_reducible apply State.fsError_kept
    | with_reducible apply State.setTdm_kept
    | with_reducible apply kept_ite

theorem execFsMissing_kept {cq : List Instr} (p : Fin 48) (s : Machine.State) (h_s : Kept cq s) :
    ResultKept cq (execFsMissing p s) := by
  unfold execFsMissing
  repeat' first
    | with_reducible assumption
    | with_reducible apply State.fsGone_kept
    | with_reducible apply resultKept_next

theorem State.lineWrite_kept {cq : List Instr} (s : Machine.State) (p : ℕ) (ts : ℕ) (at_ : ℕ) (os : List Byte)
    (h_s : Kept cq s) : Kept cq (State.lineWrite s p ts at_ os) := by
  unfold State.lineWrite
  repeat' first
    | with_reducible assumption
    | with_reducible apply State.write_kept
    | with_reducible apply kept_ite
    | with_reducible refine each_kept _ _ (fun _ _ _ => ?_) ?_

end Sys2Proof.Machine
end

