-- ==== Sys2Proof/Laws/KeptChains.lean ====
section
/-!
SUPPORT. What the operations of Machine/Chains.lean keep (Laws/Kept.lean).
-/

namespace Sys2Proof.Machine

theorem State.takeItem_kept {cq : List Instr} (s : Machine.State) (n : ℕ) (i : ℕ) (h_s : Kept cq s) :
    Kept cq (State.takeItem s n i) := by
  unfold State.takeItem
  repeat' first
    | with_reducible assumption
    | with_reducible apply State.bump_kept
    | with_reducible apply State.setCluster_kept

theorem State.takeHsmod_kept {cq : List Instr} (s : Machine.State) (c : List Byte) (chain : Fin 2) (h_s : Kept
    cq s) : Kept cq (State.takeHsmod s c chain) := by
  unfold State.takeHsmod
  repeat' first
    | with_reducible assumption
    | with_reducible apply State.setVde_kept
    | with_reducible refine each_kept _ _ (fun _ _ _ => ?_) ?_

theorem State.beginRun_kept {cq : List Instr} (s : Machine.State) (n : ℕ) (k : ℕ) (chain : Fin 2) (boundary : ℕ)
    (h_s : Kept cq s) : Kept cq (State.beginRun s n k chain boundary) := by
  unfold State.beginRun
  repeat' first
    | with_reducible assumption
    | with_reducible apply State.setRun_kept
    | with_reducible apply State.takeHsmod_kept
    | with_reducible apply State.countShed_kept
    | with_reducible apply State.countPlc_kept
    | with_reducible refine each_kept _ _ (fun _ _ _ => ?_) ?_

theorem State.chainStart_kept {cq : List Instr} (s : Machine.State) (n : ℕ) (k : ℕ) (chain : Fin 2) (ecc : Ecc)
    (h_s : Kept cq s) : Kept cq (State.chainStart s n k chain ecc) := by
  unfold State.chainStart
  repeat' first
    | with_reducible assumption
    | with_reducible apply State.eccAt_kept
    | with_reducible apply State.takeItem_kept
    | with_reducible apply State.missSlot_kept
    | with_reducible apply State.goIdle_kept
    | with_reducible apply State.reap_kept
    | with_reducible apply State.beginRun_kept
    | with_reducible apply kept_ite
    | simp only [kept_mk_iff]
    | split

theorem execChainRunStart_kept {cq : List Instr} (cl : Fin 32) (slot : BitVec 13) (chain : Fin 2) (ecc : Ecc) (s
    : Machine.State) (h_s : Kept cq s) : ResultKept cq (execChainRunStart cl slot chain ecc s) := by
  unfold execChainRunStart
  repeat' first
    | with_reducible assumption
    | with_reducible apply State.chainStart_kept
    | with_reducible apply resultKept_next

theorem State.closeRun_kept {cq : List Instr} (s : Machine.State) (n : ℕ) (k : ℕ) (chain : Fin 2) (r : Run) (h_s
    : Kept cq s) : Kept cq (State.closeRun s n k chain r) := by
  unfold State.closeRun
  repeat' first
    | with_reducible assumption
    | with_reducible apply State.endRun_kept
    | with_reducible apply State.freeCells_kept
    | with_reducible apply State.setRun_kept
    | with_reducible apply kept_ite

theorem State.lateStart_kept {cq : List Instr} (s : Machine.State) (n : ℕ) (k : ℕ) (chain : Fin 2) (h_s : Kept
    cq s) : Kept cq (State.lateStart s n k chain) := by
  unfold State.lateStart
  repeat' first
    | with_reducible assumption
    | with_reducible apply State.reap_kept
    | with_reducible apply State.missSlot_kept
    | with_reducible apply State.setCluster_kept
    | with_reducible apply kept_ite
    | simp only [kept_mk_iff]
    | split

theorem State.deadline_kept {cq : List Instr} (s : Machine.State) (n : ℕ) (k : ℕ) (chain : Fin 2) (h_s : Kept cq
    s) : Kept cq (State.deadline s n k chain) := by
  unfold State.deadline
  repeat' first
    | with_reducible assumption
    | with_reducible apply State.lateStart_kept
    | with_reducible apply State.closeRun_kept
    | with_reducible apply State.missRun_kept
    | with_reducible apply kept_ite
    | split

theorem execDeadline_kept {cq : List Instr} (cl : Fin 32) (slot : BitVec 13) (chain : Fin 2) (s : Machine.State)
    (h_s : Kept cq s) : ResultKept cq (execDeadline cl slot chain s) := by
  unfold execDeadline
  repeat' first
    | with_reducible assumption
    | with_reducible apply State.deadline_kept
    | with_reducible apply resultKept_next

theorem State.chainOp_kept {cq : List Instr} (s : Machine.State) (n : ℕ) (k : ℕ) (chain : Fin 2) (is : ℕ → Bool)
    (f : Machine.State → Run → ℕ → Machine.State) (h_s : Kept cq s) (h_f : ∀ (y0 : Machine.State) (y1 : Run) (y2
    : ℕ), Kept cq y0 → Kept cq (f y0 y1 y2)) : Kept cq (State.chainOp s n k chain is f) := by
  unfold State.chainOp
  repeat' first
    | with_reducible assumption
    | with_reducible apply State.instrDone_kept
    | with_reducible apply h_f
    | with_reducible apply kept_ite
    | simp only [kept_mk_iff]
    | split

theorem State.chainDone_kept {cq : List Instr} (s : Machine.State) (n : ℕ) (k : ℕ) (chain : Fin 2) (is : ℕ →
    Bool) (f : Machine.State → Run → ℕ → Machine.State × Option Block × ℕ) (h_s : Kept cq s) (h_f : ∀ (y0 :
    Machine.State) (y1 : Run) (y2 : ℕ), Kept cq y0 → Kept cq (f y0 y1 y2).1) :
    Kept cq (State.chainDone s n k chain is f) := by
  unfold State.chainDone
  repeat' first
    | with_reducible assumption
    | with_reducible apply State.chainOp_kept
    | with_reducible apply State.instrDone_kept
    | with_reducible apply State.kernelError_kept
    | with_reducible apply h_f
    | with_reducible apply kept_ite
    | simp only [kept_mk_iff]
    | intro _

theorem State.postKernel_kept {cq : List Instr} (s : Machine.State) (n : ℕ) (k : ℕ) (chain : Fin 2) (r : Run)
    (it : Item) (h_s : Kept cq s) : Kept cq (State.postKernel s n k chain r it) := by
  unfold State.postKernel
  repeat' first
    | with_reducible assumption
    | with_reducible apply State.release_kept
    | with_reducible apply State.setRun_kept

theorem State.startAtOnce_kept {cq : List Instr} (s : Machine.State) (n : ℕ) (k : ℕ) (chain : Fin 2) (h_s : Kept
    cq s) : Kept cq (State.startAtOnce s n k chain) := by
  unfold State.startAtOnce
  repeat' first
    | with_reducible assumption
    | with_reducible apply State.dispatchOne_kept
    | with_reducible apply kept_ite
    | extract_lets
    | split

theorem State.ranKernel_kept {cq : List Instr} (s : Machine.State) (n : ℕ) (t : ℕ) (it : Item) (code : ℕ) (h_s :
    Kept cq s) : Kept cq (State.ranKernel s n t it code) := by
  unfold State.ranKernel
  repeat' first
    | with_reducible assumption
    | with_reducible apply State.draw_kept
    | with_reducible apply State.setCore_kept
    | with_reducible apply State.bumpBy_kept
    | with_reducible refine each_kept _ _ (fun _ _ _ => ?_) ?_

theorem State.kernelEnds_kept {cq : List Instr} (s : Machine.State) (n : ℕ) (k : ℕ) (t : ℕ) (chain : Fin 2) (it
    : Item) (reads : Machine.State → Run → ℕ → Bool) (f : Machine.State → Run → ℕ → Machine.State × Option Block
    × ℕ) (h_s : Kept cq s) (h_f : ∀ (y0 : Machine.State) (y1 : Run) (y2 : ℕ), Kept cq y0 → Kept cq (f y0 y1
    y2).1) : Kept cq (State.kernelEnds s n k t chain it reads f) := by
  unfold State.kernelEnds
  repeat' first
    | with_reducible assumption
    | with_reducible apply State.exception_kept
    | with_reducible apply State.ranKernel_kept
    | with_reducible apply State.endItem_kept
    | with_reducible apply State.bump_kept
    | with_reducible apply State.instrDone_kept
    | with_reducible apply State.kernelError_kept
    | with_reducible apply h_f
    | with_reducible apply kept_ite
    | simp only [kept_mk_iff]
    | split

theorem State.romOp_kept {cq : List Instr} (s : Machine.State) (n : ℕ) (k : ℕ) (chain : Fin 2) (op : ℕ) (reads :
    Machine.State → Run → ℕ → Bool) (f : Machine.State → Run → ℕ → Machine.State × Option Block × ℕ) (h_s : Kept
    cq s) (h_f : ∀ (y0 : Machine.State) (y1 : Run) (y2 : ℕ), Kept cq y0 → Kept cq (f y0 y1 y2).1) :
    Kept cq (State.romOp s n k chain op reads f) := by
  unfold State.romOp
  repeat' first
    | with_reducible assumption
    | with_reducible apply State.chainOp_kept
    | with_reducible apply State.startAtOnce_kept
    | with_reducible apply State.postKernel_kept
    | with_reducible apply State.kernelEnds_kept
    | with_reducible apply kept_ite
    | simp only [kept_mk_iff]
    | intro _
    | split

theorem peerGone_kept {cq : List Instr} (s : Machine.State) (r : Run) (w : ℕ) (h_s : Kept cq s) :
    Kept cq (peerGone s r w).1 := by
  unfold peerGone
  repeat' first
    | with_reducible assumption

theorem lineIn_kept {cq : List Instr} (n : ℕ) (k : ℕ) (s : Machine.State) (r : Run) (w : ℕ) (h_s : Kept cq s) :
    Kept cq (lineIn n k s r w).1 := by
  unfold lineIn
  repeat' first
    | with_reducible assumption
    | with_reducible apply peerGone_kept
    | split

theorem execLineIn_kept {cq : List Instr} (cl : Fin 32) (slot : BitVec 13) (chain : Fin 2) (s : Machine.State)
    (h_s : Kept cq s) : ResultKept cq (execLineIn cl slot chain s) := by
  unfold execLineIn
  repeat' first
    | with_reducible assumption
    | with_reducible apply State.romOp_kept
    | with_reducible apply lineIn_kept
    | with_reducible apply resultKept_next

theorem lineOut_kept {cq : List Instr} (n : ℕ) (k : ℕ) (s : Machine.State) (r : Run) (w : ℕ) (h_s : Kept cq s) :
    Kept cq (lineOut n k s r w).1 := by
  unfold lineOut
  repeat' first
    | with_reducible assumption
    | with_reducible apply peerGone_kept
    | with_reducible apply State.lineWrite_kept
    | with_reducible apply kept_ite_fst
    | simp only [kept_mk_iff]
    | split

theorem execLineOut_kept {cq : List Instr} (cl : Fin 32) (slot : BitVec 13) (chain : Fin 2) (s : Machine.State)
    (h_s : Kept cq s) : ResultKept cq (execLineOut cl slot chain s) := by
  unfold execLineOut
  repeat' first
    | with_reducible assumption
    | with_reducible apply State.romOp_kept
    | with_reducible apply lineOut_kept
    | with_reducible apply resultKept_next

theorem gain_kept {cq : List Instr} (s : Machine.State) (r : Run) (w : ℕ) (h_s : Kept cq s) :
    Kept cq (gain s r w).1 := by
  unfold gain
  repeat' first
    | with_reducible assumption
    | with_reducible apply State.scaleAll_kept

theorem execGain_kept {cq : List Instr} (cl : Fin 32) (slot : BitVec 13) (chain : Fin 2) (s : Machine.State)
    (h_s : Kept cq s) : ResultKept cq (execGain cl slot chain s) := by
  unfold execGain
  repeat' first
    | with_reducible assumption
    | with_reducible apply State.romOp_kept
    | with_reducible apply gain_kept
    | with_reducible apply resultKept_next

theorem vad_kept {cq : List Instr} (s : Machine.State) (r : Run) (w : ℕ) (h_s : Kept cq s) :
    Kept cq (vad s r w).1 := by
  unfold vad
  repeat' first
    | with_reducible assumption
    | with_reducible apply State.setArea_kept
    | with_reducible apply kept_ite_fst

theorem execVad_kept {cq : List Instr} (cl : Fin 32) (slot : BitVec 13) (chain : Fin 2) (s : Machine.State) (h_s
    : Kept cq s) : ResultKept cq (execVad cl slot chain s) := by
  unfold execVad
  repeat' first
    | with_reducible assumption
    | with_reducible apply State.romOp_kept
    | with_reducible apply vad_kept
    | with_reducible apply resultKept_next

theorem cng_kept {cq : List Instr} (s : Machine.State) (r : Run) (w : ℕ) (h_s : Kept cq s) :
    Kept cq (cng s r w).1 := by
  unfold cng
  repeat' first
    | with_reducible assumption
    | with_reducible apply State.setArea_kept

theorem execCng_kept {cq : List Instr} (cl : Fin 32) (slot : BitVec 13) (chain : Fin 2) (s : Machine.State) (h_s
    : Kept cq s) : ResultKept cq (execCng cl slot chain s) := by
  unfold execCng
  repeat' first
    | with_reducible assumption
    | with_reducible apply State.romOp_kept
    | with_reducible apply cng_kept
    | with_reducible apply resultKept_next

theorem meter_kept {cq : List Instr} (n : ℕ) (k : ℕ) (s : Machine.State) (r : Run) (w : ℕ) (h_s : Kept cq s) :
    Kept cq (meter n k s r w).1 := by
  unfold meter
  repeat' first
    | with_reducible assumption
    | with_reducible apply State.draw_kept
    | with_reducible apply State.setSlot_kept

theorem execMeter_kept {cq : List Instr} (cl : Fin 32) (slot : BitVec 13) (chain : Fin 2) (s : Machine.State)
    (h_s : Kept cq s) : ResultKept cq (execMeter cl slot chain s) := by
  unfold execMeter
  repeat' first
    | with_reducible assumption
    | with_reducible apply State.romOp_kept
    | with_reducible apply meter_kept
    | with_reducible apply resultKept_next

theorem State.putBlock_kept {cq : List Instr} (s : Machine.State) (a : ℕ) (i : ℕ) (tag : ℕ) (b : Block) (h_s :
    Kept cq s) : Kept cq (State.putBlock s a i tag b) := by
  unfold State.putBlock
  repeat' first
    | with_reducible assumption
    | with_reducible apply State.setArea_kept

theorem State.takeBlock_kept {cq : List Instr} (s : Machine.State) (a : ℕ) (i : ℕ) (reader : ℕ) (boundary : ℕ)
    (h_s : Kept cq s) : Kept cq (State.takeBlock s a i reader boundary).1 := by
  unfold State.takeBlock
  repeat' first
    | with_reducible assumption
    | with_reducible apply State.setArea_kept
    | simp only [kept_mk_iff]
    | split

theorem mix_kept {cq : List Instr} (n : ℕ) (k : ℕ) (chain : Fin 2) (s : Machine.State) (r : Run) (w : ℕ) (h_s :
    Kept cq s) : Kept cq (mix n k chain s r w).1 := by
  unfold mix
  repeat' first
    | with_reducible assumption
    | with_reducible apply peerGone_kept
    | with_reducible apply State.takeBlock_kept
    | with_reducible apply State.scaleAll_kept
    | with_reducible apply kept_ite_fst
    | with_reducible refine kept_foldl_fst _ _ (fun _ _ _ => ?_) ?_
    | simp only [kept_mk_iff]
    | extract_lets
    | split

theorem execMix_kept {cq : List Instr} (cl : Fin 32) (slot : BitVec 13) (chain : Fin 2) (s : Machine.State) (h_s
    : Kept cq s) : ResultKept cq (execMix cl slot chain s) := by
  unfold execMix
  repeat' first
    | with_reducible assumption
    | with_reducible apply State.romOp_kept
    | with_reducible apply mix_kept
    | with_reducible apply resultKept_next

theorem fork_kept {cq : List Instr} (n : ℕ) (s : Machine.State) (r : Run) (w : ℕ) (h_s : Kept cq s) :
    Kept cq (fork n s r w).1 := by
  unfold fork
  repeat' first
    | with_reducible assumption
    | with_reducible apply peerGone_kept
    | with_reducible apply State.putBlock_kept
    | with_reducible apply State.postPacket_kept
    | with_reducible apply kept_ite_fst
    | with_reducible refine each_kept _ _ (fun _ _ _ => ?_) ?_
    | extract_lets
    | split

theorem execFork_kept {cq : List Instr} (cl : Fin 32) (slot : BitVec 13) (chain : Fin 2) (s : Machine.State)
    (h_s : Kept cq s) : ResultKept cq (execFork cl slot chain s) := by
  unfold execFork
  repeat' first
    | with_reducible assumption
    | with_reducible apply State.chainDone_kept
    | with_reducible apply fork_kept
    | with_reducible apply resultKept_next

theorem handoffSend_kept {cq : List Instr} (n : ℕ) (s : Machine.State) (r : Run) (w : ℕ) (h_s : Kept cq s) :
    Kept cq (handoffSend n s r w).1 := by
  unfold handoffSend
  repeat' first
    | with_reducible assumption
    | with_reducible apply State.putBlock_kept
    | with_reducible apply kept_ite_fst
    | split

theorem execHandoffSend_kept {cq : List Instr} (cl : Fin 32) (slot : BitVec 13) (chain : Fin 2) (s :
    Machine.State) (h_s : Kept cq s) : ResultKept cq (execHandoffSend cl slot chain s) := by
  unfold execHandoffSend
  repeat' first
    | with_reducible assumption
    | with_reducible apply State.chainDone_kept
    | with_reducible apply handoffSend_kept
    | with_reducible apply resultKept_next

theorem handoffReceive_kept {cq : List Instr} (n : ℕ) (k : ℕ) (s : Machine.State) (r : Run) (w : ℕ) (h_s : Kept
    cq s) : Kept cq (handoffReceive n k s r w).1 := by
  unfold handoffReceive
  repeat' first
    | with_reducible assumption
    | with_reducible apply State.takeBlock_kept

theorem execHandoffReceive_kept {cq : List Instr} (cl : Fin 32) (slot : BitVec 13) (chain : Fin 2) (s :
    Machine.State) (h_s : Kept cq s) : ResultKept cq (execHandoffReceive cl slot chain s) := by
  unfold execHandoffReceive
  repeat' first
    | with_reducible assumption
    | with_reducible apply State.chainDone_kept
    | with_reducible apply handoffReceive_kept
    | with_reducible apply resultKept_next

theorem State.callKernel_kept {cq : List Instr} (s : Machine.State) (n : ℕ) (k : ℕ) (chain : Fin 2) (h_s : Kept
    cq s) : Kept cq (State.callKernel s n k chain) := by
  unfold State.callKernel
  repeat' first
    | with_reducible assumption
    | with_reducible apply State.chainOp_kept
    | with_reducible apply State.postKernel_kept
    | intro _

theorem execCall_kept {cq : List Instr} (cl : Fin 32) (slot : BitVec 13) (chain : Fin 2) (s : Machine.State)
    (h_s : Kept cq s) : ResultKept cq (execCall cl slot chain s) := by
  unfold execCall
  repeat' first
    | with_reducible assumption
    | with_reducible apply State.callKernel_kept
    | with_reducible apply resultKept_next

theorem State.runEnd_kept {cq : List Instr} (s : Machine.State) (n : ℕ) (k : ℕ) (chain : Fin 2) (h_s : Kept cq
    s) : Kept cq (State.runEnd s n k chain) := by
  unfold State.runEnd
  repeat' first
    | with_reducible assumption
    | with_reducible apply State.endRun_kept
    | with_reducible apply kept_ite
    | split

theorem execEndRun_kept {cq : List Instr} (cl : Fin 32) (slot : BitVec 13) (chain : Fin 2) (s : Machine.State)
    (h_s : Kept cq s) : ResultKept cq (execEndRun cl slot chain s) := by
  unfold execEndRun
  repeat' first
    | with_reducible assumption
    | with_reducible apply State.runEnd_kept
    | with_reducible apply resultKept_next

end Sys2Proof.Machine
end

