-- ==== Sys2Proof/Laws/KeptCodecs.lean ====
section
/-!
SUPPORT. What the operations of Machine/Codecs.lean keep (Laws/Kept.lean).
-/

namespace Sys2Proof.Machine

theorem State.setCodec_kept {cq : List Instr} (s : Machine.State) (a : ℕ) (codec : ℕ) (c : CodecSt) (h_s : Kept
    cq s) : Kept cq (State.setCodec s a codec c) := by
  unfold State.setCodec
  repeat' first
    | with_reducible assumption
    | with_reducible apply State.writeLe_kept
    | with_reducible apply State.setArea_kept

theorem State.countConcealed_kept {cq : List Instr} (s : Machine.State) (n : ℕ) (k : ℕ) (f : ℕ) (h_s : Kept cq
    s) : Kept cq (State.countConcealed s n k f) := by
  unfold State.countConcealed
  repeat' first
    | with_reducible assumption
    | with_reducible apply State.setSlot_kept

theorem State.realised_kept {cq : List Instr} (s : Machine.State) (b : Block) (r : ℤ) (h_s : Kept cq s) :
    Kept cq (State.realised s b r) := by
  unfold State.realised
  repeat' first
    | with_reducible assumption
    | with_reducible apply State.setPlay_kept
    | with_reducible apply kept_ite
    | simp only [kept_mk_iff]
    | split

theorem dec_kept {cq : List Instr} (n : ℕ) (k : ℕ) (s : Machine.State) (r : Run) (w : ℕ) (h_s : Kept cq s) :
    Kept cq (dec n k s r w).1 := by
  unfold dec
  repeat' first
    | with_reducible assumption
    | with_reducible apply State.draw_kept
    | with_reducible apply State.realised_kept
    | with_reducible apply State.countConcealed_kept
    | with_reducible apply State.setCodec_kept
    | with_reducible apply kept_ite_fst

theorem decLost_kept {cq : List Instr} (n : ℕ) (k : ℕ) (s : Machine.State) (r : Run) (w : ℕ) (h_s : Kept cq s) :
    Kept cq (decLost n k s r w).1 := by
  unfold decLost
  repeat' first
    | with_reducible assumption
    | with_reducible apply State.countConcealed_kept
    | with_reducible apply State.setCodec_kept
    | with_reducible apply State.draw_kept

theorem execDec_kept {cq : List Instr} (cl : Fin 32) (slot : BitVec 13) (chain : Fin 2) (s : Machine.State) (h_s
    : Kept cq s) : ResultKept cq (execDec cl slot chain s) := by
  unfold execDec
  repeat' first
    | with_reducible assumption
    | with_reducible apply State.romOp_kept
    | with_reducible apply decLost_kept
    | with_reducible apply dec_kept
    | with_reducible apply kept_ite_fst
    | with_reducible apply resultKept_next
    | intro _

theorem plc_kept {cq : List Instr} (s : Machine.State) (r : Run) (w : ℕ) (h_s : Kept cq s) :
    Kept cq (plc s r w).1 := by
  unfold plc
  repeat' first
    | with_reducible assumption
    | with_reducible apply State.setCodec_kept
    | with_reducible apply State.draw_kept
    | with_reducible apply kept_ite_fst

theorem execPlc_kept {cq : List Instr} (cl : Fin 32) (slot : BitVec 13) (chain : Fin 2) (s : Machine.State) (h_s
    : Kept cq s) : ResultKept cq (execPlc cl slot chain s) := by
  unfold execPlc
  repeat' first
    | with_reducible assumption
    | with_reducible apply State.romOp_kept
    | with_reducible apply plc_kept
    | with_reducible apply resultKept_next

theorem enc_kept {cq : List Instr} (n : ℕ) (s : Machine.State) (r : Run) (w : ℕ) (h_s : Kept cq s) :
    Kept cq (enc n s r w).1 := by
  unfold enc
  repeat' first
    | with_reducible assumption
    | with_reducible apply State.draw_kept
    | with_reducible apply State.setCodec_kept

theorem execEnc_kept {cq : List Instr} (cl : Fin 32) (slot : BitVec 13) (chain : Fin 2) (s : Machine.State) (h_s
    : Kept cq s) : ResultKept cq (execEnc cl slot chain s) := by
  unfold execEnc
  repeat' first
    | with_reducible assumption
    | with_reducible apply State.romOp_kept
    | with_reducible apply enc_kept
    | with_reducible apply resultKept_next

end Sys2Proof.Machine
end

