-- ==== Sys2Proof/Laws/KeptPktIo.lean ====
section
/-!
SUPPORT. What the operations of Machine/PktIo.lean keep (Laws/Kept.lean).
-/

namespace Sys2Proof.Machine

theorem State.orphanRelease_kept {cq : List Instr} (s : Machine.State) (tid : BitVec 18) (h_s : Kept cq s) :
    Kept cq (State.orphanRelease s tid) := by
  unfold State.orphanRelease
  repeat' first
    | with_reducible assumption
    | with_reducible apply State.countDiscard_kept
    | with_reducible apply State.freeCells_kept
    | with_reducible apply State.setPlay_kept
    | with_reducible apply kept_ite
    | simp only [kept_mk_iff]
    | split

theorem State.playoutRelease_kept {cq : List Instr} (s : Machine.State) (n : ℕ) (k : ℕ) (h_s : Kept cq s) :
    Kept cq (State.playoutRelease s n k) := by
  unfold State.playoutRelease
  repeat' first
    | with_reducible assumption
    | with_reducible apply State.orphanRelease_kept
    | with_reducible apply State.present_kept
    | with_reducible apply State.setPlay_kept
    | with_reducible apply State.release_kept
    | with_reducible apply kept_ite
    | with_reducible refine each_kept _ _ (fun _ _ _ => ?_) ?_
    | simp only [kept_mk_iff]
    | split

theorem execPlayoutRelease_kept {cq : List Instr} (cl : Fin 32) (slot : BitVec 13) (s : Machine.State) (h_s :
    Kept cq s) : ResultKept cq (execPlayoutRelease cl slot s) := by
  unfold execPlayoutRelease
  repeat' first
    | with_reducible assumption
    | with_reducible apply State.playoutRelease_kept
    | with_reducible apply resultKept_next

theorem State.takePresented_kept {cq : List Instr} (s : Machine.State) (n : ℕ) (k : ℕ) (chain : Fin 2) (tid :
    BitVec 18) (h_s : Kept cq s) : Kept cq (State.takePresented s n k chain tid).1 := by
  unfold State.takePresented
  repeat' first
    | with_reducible assumption
    | with_reducible apply State.setPlay_kept
    | with_reducible apply State.setRun_kept
    | with_reducible apply kept_ite_fst
    | simp only [kept_mk_iff]
    | split

theorem pktIn_kept {cq : List Instr} (n : ℕ) (k : ℕ) (chain : Fin 2) (s : Machine.State) (r : Run) (w : ℕ) (h_s
    : Kept cq s) : Kept cq (pktIn n k chain s r w).1 := by
  unfold pktIn
  repeat' first
    | with_reducible assumption
    | with_reducible apply peerGone_kept
    | with_reducible apply State.takePresented_kept
    | with_reducible apply kept_ite_fst
    | simp only [kept_mk_iff]
    | split

theorem execPktIn_kept {cq : List Instr} (cl : Fin 32) (slot : BitVec 13) (chain : Fin 2) (s : Machine.State)
    (h_s : Kept cq s) : ResultKept cq (execPktIn cl slot chain s) := by
  unfold execPktIn
  repeat' first
    | with_reducible assumption
    | with_reducible apply State.romOp_kept
    | with_reducible apply pktIn_kept
    | with_reducible apply resultKept_next

theorem State.commitFrame_kept {cq : List Instr} (s : Machine.State) (n : ℕ) (h : ℕ) (f : List Byte) (h_s : Kept
    cq s) : Kept cq (State.commitFrame s n h f).1 := by
  unfold State.commitFrame
  repeat' first
    | with_reducible assumption
    | with_reducible apply State.postPacket_kept
    | with_reducible apply State.draw_kept
    | with_reducible apply kept_ite_fst
    | simp only [kept_mk_iff]
    | with_reducible apply kept_txBufs
    | with_reducible exact fun h => srising_sdel _ _ h
    | exact fun h => srising_sput _ _ _ h

theorem State.exhausted_kept {cq : List Instr} (s : Machine.State) (n : ℕ) (tid : BitVec 18) (h_s : Kept cq s) :
    Kept cq (State.exhausted s n tid) := by
  unfold State.exhausted
  repeat' first
    | with_reducible assumption
    | with_reducible apply State.plyRecord_kept
    | with_reducible apply State.plyLog_kept
    | with_reducible apply State.raise_kept

theorem State.sendHeld_kept {cq : List Instr} (s : Machine.State) (n : ℕ) (tid : BitVec 18) (c : List Byte) (t :
    List Byte) (a : PktAcc) (h_s : Kept cq s) : Kept cq (State.sendHeld s n tid c t a).1 := by
  unfold State.sendHeld
  repeat' first
    | with_reducible assumption
    | with_reducible apply State.protect_kept
    | with_reducible apply State.exhausted_kept
    | with_reducible apply State.commitFrame_kept
    | with_reducible apply State.writeLe_kept
    | with_reducible apply State.setPlay_kept
    | with_reducible apply kept_ite
    | with_reducible apply kept_ite_fst
    | simp only [kept_mk_iff]
    | split

theorem State.sendNow_kept {cq : List Instr} (s : Machine.State) (n : ℕ) (tid : BitVec 18) (c : List Byte) (a :
    PktAcc) (h_s : Kept cq s) : Kept cq (State.sendNow s n tid c a).1 := by
  unfold State.sendNow
  repeat' first
    | with_reducible assumption
    | with_reducible apply State.sendHeld_kept

theorem State.pushFrame_kept {cq : List Instr} (s : Machine.State) (n : ℕ) (tid : BitVec 18) (c : List Byte) (a
    : PktAcc) (f : List Byte) (h_s : Kept cq s) : Kept cq (State.pushFrame s n tid c a f).1 := by
  unfold State.pushFrame
  repeat' first
    | with_reducible assumption
    | with_reducible apply State.sendNow_kept
    | with_reducible apply kept_ite_fst

theorem pktOut_kept {cq : List Instr} (n : ℕ) (k : ℕ) (s : Machine.State) (r : Run) (w : ℕ) (h_s : Kept cq s) :
    Kept cq (pktOut n k s r w).1 := by
  unfold pktOut
  repeat' first
    | with_reducible assumption
    | with_reducible apply peerGone_kept
    | with_reducible apply State.pushFrame_kept
    | with_reducible apply State.setSlot_kept
    | with_reducible apply State.writeLe_kept
    | with_reducible refine kept_foldl_fst _ _ (fun _ _ _ => ?_) ?_
    | simp only [kept_mk_iff]
    | split

theorem execPktOut_kept {cq : List Instr} (cl : Fin 32) (slot : BitVec 13) (chain : Fin 2) (s : Machine.State)
    (h_s : Kept cq s) : ResultKept cq (execPktOut cl slot chain s) := by
  unfold execPktOut
  repeat' first
    | with_reducible assumption
    | with_reducible apply State.romOp_kept
    | with_reducible apply pktOut_kept
    | with_reducible apply resultKept_next

theorem State.rtcpNext_kept {cq : List Instr} (s : Machine.State) (tid : BitVec 18) (c : List Byte) (h_s : Kept
    cq s) : Kept cq (State.rtcpNext s tid c) := by
  unfold State.rtcpNext
  repeat' first
    | with_reducible assumption
    | with_reducible apply State.draw_kept
    | with_reducible apply State.setPlay_kept

theorem State.rtcpGuard_kept {cq : List Instr} (s : Machine.State) (c : List Byte) (plain : List Byte) (h_s :
    Kept cq s) : Kept cq (State.rtcpGuard s c plain).1 := by
  unfold State.rtcpGuard
  repeat' first
    | with_reducible assumption
    | with_reducible apply State.protectRtcp_kept
    | with_reducible apply kept_ite_fst

theorem State.rtcpOut_kept {cq : List Instr} (s : Machine.State) (n : ℕ) (tid : BitVec 18) (c : List Byte) (t :
    List Byte) (x1_12 : Except SendFail (List Byte)) (h_s : Kept cq s) :
    Kept cq (State.rtcpOut s n tid c t x1_12) := by
  unfold State.rtcpOut
  repeat' first
    | with_reducible assumption
    | with_reducible apply State.rtcpNext_kept
    | with_reducible apply State.exhausted_kept
    | with_reducible apply State.commitFrame_kept
    | with_reducible apply State.plyBump_kept
    | with_reducible apply kept_ite
    | simp only [kept_mk_iff]
    | split

theorem State.rtcpSend_kept {cq : List Instr} (s : Machine.State) (tid : BitVec 18) (h_s : Kept cq s) :
    Kept cq (State.rtcpSend s tid) := by
  unfold State.rtcpSend
  repeat' first
    | with_reducible assumption
    | with_reducible apply State.rtcpNext_kept
    | with_reducible apply State.setPlay_kept
    | with_reducible apply State.rtcpGuard_kept
    | with_reducible apply State.rtcpOut_kept
    | with_reducible apply kept_ite
    | simp only [kept_mk_iff]
    | split

theorem execRtcpSend_kept {cq : List Instr} (tid : BitVec 18) (s : Machine.State) (h_s : Kept cq s) :
    ResultKept cq (execRtcpSend tid s) := by
  unfold execRtcpSend
  repeat' first
    | with_reducible assumption
    | with_reducible apply State.rtcpSend_kept
    | with_reducible apply resultKept_next

theorem State.rtcpOne_kept {cq : List Instr} (s : Machine.State) (tid : BitVec 18) (own : ℕ) (tag : ℕ) (p : List
    Byte) (h_s : Kept cq s) : Kept cq (State.rtcpOne s tid own tag p) := by
  unfold State.rtcpOne
  repeat' first
    | with_reducible assumption
    | with_reducible apply State.setPlay_kept
    | with_reducible apply kept_ite
    | with_reducible refine each_kept _ _ (fun _ _ _ => ?_) ?_

theorem State.rtcpReceive_kept {cq : List Instr} (s : Machine.State) (tid : BitVec 18) (tag : ℕ) (payload : List
    Byte) (h_s : Kept cq s) : Kept cq (State.rtcpReceive s tid tag payload).1 := by
  unfold State.rtcpReceive
  repeat' first
    | with_reducible assumption
    | with_reducible apply State.plyBump_kept
    | with_reducible apply State.unprotectRtcp_kept
    | with_reducible apply State.srtpFailed_kept
    | with_reducible apply State.rtcpOne_kept
    | with_reducible apply kept_ite_fst
    | with_reducible refine each_kept _ _ (fun _ _ _ => ?_) ?_
    | simp only [kept_mk_iff]
    | extract_lets
    | split

end Sys2Proof.Machine
end

