-- ==== Sys2Proof/Laws/KeptEcho.lean ====
section
/-!
SUPPORT. What the operations of Machine/Echo.lean keep (Laws/Kept.lean).
-/

namespace Sys2Proof.Machine

theorem State.vatLog_kept {cq : List Instr} (s : Machine.State) (n : ℕ) (cause : ℕ) (tid : BitVec 18) (h_s :
    Kept cq s) : Kept cq (State.vatLog s n cause tid) := by
  unfold State.vatLog
  repeat' first
    | with_reducible assumption
    | with_reducible apply State.wv_kept
    | with_reducible apply kept_ite

theorem State.vatCount_kept {cq : List Instr} (s : Machine.State) (n : ℕ) (ctr : ℕ) (k : ℕ) (h_s : Kept cq s) :
    Kept cq (State.vatCount s n ctr k) := by
  unfold State.vatCount
  repeat' first
    | with_reducible assumption
    | with_reducible apply State.bumpBy_kept
    | with_reducible apply kept_ite

theorem State.setVatQueue_kept {cq : List Instr} (s : Machine.State) (n : ℕ) (q : List VatReq) (h_s : Kept cq s)
    : Kept cq (State.setVatQueue s n q) := by
  unfold State.setVatQueue
  repeat' first
    | with_reducible assumption
    | with_reducible apply State.put_kept
    | with_reducible apply State.setCluster_kept

theorem State.takeHints_kept {cq : List Instr} (s : Machine.State) (n : ℕ) (a : ℕ) (tid : BitVec 18) (hints :
    Word) (h_s : Kept cq s) : Kept cq (State.takeHints s n a tid hints) := by
  unfold State.takeHints
  repeat' first
    | with_reducible assumption
    | with_reducible apply State.vatCount_kept
    | with_reducible apply State.setVat_kept
    | with_reducible apply State.raise_kept
    | with_reducible apply State.vatLog_kept
    | with_reducible apply State.setCluster_kept
    | with_reducible apply kept_ite

theorem State.vatInit_kept {cq : List Instr} (s : Machine.State) (n : ℕ) (k : ℕ) (a : ℕ) (prof : ℕ) (wide :
    Bool) (h_s : Kept cq s) : Kept cq (State.vatInit s n k a prof wide) := by
  unfold State.vatInit
  repeat' first
    | with_reducible assumption
    | with_reducible apply State.vatCount_kept
    | with_reducible apply State.setVat_kept
    | with_reducible apply State.writeLe_kept
    | with_reducible apply State.zeroRange_kept

theorem State.vatReady_kept {cq : List Instr} (s : Machine.State) (n : ℕ) (k : ℕ) (a : ℕ) (prof : ℕ) (wide :
    Bool) (h_s : Kept cq s) : Kept cq (State.vatReady s n k a prof wide).1 := by
  unfold State.vatReady
  repeat' first
    | with_reducible assumption
    | with_reducible apply State.raise_kept
    | with_reducible apply State.vatLog_kept
    | with_reducible apply State.vatInit_kept
    | with_reducible apply kept_ite_fst

theorem State.takeRef_kept {cq : List Instr} (s : Machine.State) (n : ℕ) (k : ℕ) (a : ℕ) (prof : ℕ) (wide :
    Bool) (b : RefBlock) (h_s : Kept cq s) : Kept cq (State.takeRef s n k a prof wide b) := by
  unfold State.takeRef
  repeat' first
    | with_reducible assumption
    | with_reducible apply State.vatReady_kept
    | with_reducible apply State.setVat_kept
    | with_reducible apply State.vatCount_kept
    | with_reducible apply State.raise_kept
    | with_reducible apply kept_ite

theorem State.dropRef_kept {cq : List Instr} (s : Machine.State) (n : ℕ) (tid : BitVec 18) (h_s : Kept cq s) :
    Kept cq (State.dropRef s n tid) := by
  unfold State.dropRef
  repeat' first
    | with_reducible assumption
    | with_reducible apply State.raise_kept
    | with_reducible apply State.vatLog_kept
    | with_reducible apply State.vatCount_kept

theorem State.drainRefs_kept {cq : List Instr} (x0_0 : ℕ) (x0_5 : Machine.State) (x1_10 : ℕ) (h_x0_5 : Kept cq
    x0_5) : Kept cq (State.drainRefs x0_0 x0_5 x1_10) := by
  induction x0_0 generalizing x0_5 with
  | zero =>
    unfold State.drainRefs
    repeat' first
      | with_reducible assumption
      | with_reducible apply ih
      | with_reducible apply State.takeRef_kept
      | with_reducible apply State.setVatQueue_kept
      | split
  | succ m ih =>
    unfold State.drainRefs
    repeat' first
      | with_reducible assumption
      | with_reducible apply ih
      | with_reducible apply State.takeRef_kept
      | with_reducible apply State.setVatQueue_kept
      | split

theorem ecRef_kept {cq : List Instr} (n : ℕ) (k : ℕ) (s : Machine.State) (r : Run) (w : ℕ) (h_s : Kept cq s) :
    Kept cq (ecRef n k s r w).1 := by
  unfold ecRef
  repeat' first
    | with_reducible assumption
    | with_reducible apply State.dropRef_kept
    | with_reducible apply State.drainRefs_kept
    | with_reducible apply State.setVatQueue_kept
    | with_reducible apply kept_ite_fst
    | simp only [kept_mk_iff]
    | split

theorem execEcRef_kept {cq : List Instr} (cl : Fin 32) (slot : BitVec 13) (chain : Fin 2) (s : Machine.State)
    (h_s : Kept cq s) : ResultKept cq (execEcRef cl slot chain s) := by
  unfold execEcRef
  repeat' first
    | with_reducible assumption
    | with_reducible apply State.chainDone_kept
    | with_reducible apply ecRef_kept
    | with_reducible apply resultKept_next

theorem execEc_kept {cq : List Instr} (cl : Fin 32) (slot : BitVec 13) (chain : Fin 2) (s : Machine.State) (h_s
    : Kept cq s) : ResultKept cq (execEc cl slot chain s) := by
  unfold execEc
  repeat' first
    | with_reducible assumption
    | with_reducible apply State.chainOp_kept
    | with_reducible apply State.setVatQueue_kept
    | with_reducible apply State.setRun_kept
    | with_reducible apply resultKept_next
    | intro _

theorem State.vatHeader_kept {cq : List Instr} (s : Machine.State) (n : ℕ) (a : ℕ) (tid : BitVec 18) (state : ℕ)
    (frozen : Bool) (h_s : Kept cq s) : Kept cq (State.vatHeader s n a tid state frozen) := by
  unfold State.vatHeader
  repeat' first
    | with_reducible assumption
    | with_reducible apply State.draw_kept
    | with_reducible apply State.writeLe_kept

theorem State.vatRequest_kept {cq : List Instr} (s : Machine.State) (n : ℕ) (k : ℕ) (chain : Fin 2) (ecc : Ecc)
    (h_s : Kept cq s) : Kept cq (State.vatRequest s n k chain ecc) := by
  unfold State.vatRequest
  repeat' first
    | with_reducible assumption
    | with_reducible apply State.vatReady_kept
    | with_reducible apply State.eccAt_kept
    | with_reducible apply State.takeHints_kept
    | with_reducible apply State.vatCount_kept
    | with_reducible apply State.draw_kept
    | with_reducible apply State.setVat_kept
    | with_reducible apply State.raise_kept
    | with_reducible apply State.vatLog_kept
    | with_reducible apply State.vatHeader_kept
    | with_reducible apply State.vatOut_kept
    | with_reducible apply State.instrDone_kept
    | with_reducible apply kept_ite
    | simp only [kept_mk_iff]
    | split

theorem State.vatComplete_kept {cq : List Instr} (s : Machine.State) (n : ℕ) (ecc : Ecc) (h_s : Kept cq s) :
    Kept cq (State.vatComplete s n ecc) := by
  unfold State.vatComplete
  repeat' first
    | with_reducible assumption
    | with_reducible apply State.drainRefs_kept
    | with_reducible apply State.vatRequest_kept
    | with_reducible apply State.setVatQueue_kept
    | with_reducible apply kept_ite
    | split

theorem execEcRequestComplete_kept {cq : List Instr} (cl : Fin 32) (ecc : Ecc) (s : Machine.State) (h_s : Kept
    cq s) : ResultKept cq (execEcRequestComplete cl ecc s) := by
  unfold execEcRequestComplete
  repeat' first
    | with_reducible assumption
    | with_reducible apply State.vatComplete_kept
    | with_reducible apply resultKept_next

theorem State.vatStep_kept {cq : List Instr} (s : Machine.State) (n : Nat) (k : Nat) (f : Machine.State → Nat →
    VatSlot → Machine.State) (h_s : Kept cq s) (h_f : ∀ (y0 : Machine.State) (y1 : Nat) (y2 : VatSlot), Kept cq y0 →
    Kept cq (f y0 y1 y2)) : Kept cq (State.vatStep s n k f) := by
  unfold State.vatStep
  generalize s.vatOf n k = o
  cases o with
  | none => exact h_s
  | some p => exact h_f _ _ _ h_s

theorem State.vatSearch_kept {cq : List Instr} (s : Machine.State) (n : ℕ) (k : ℕ) (h_s : Kept cq s) :
    Kept cq (State.vatSearch s n k) := by
  unfold State.vatSearch
  repeat' first
    | with_reducible assumption
    | with_reducible apply State.vatStep_kept
    | with_reducible apply State.draw_kept
    | with_reducible apply State.vatCount_kept
    | with_reducible apply State.setVat_kept
    | with_reducible apply kept_ite
    | simp only [kept_mk_iff]
    | intro _

theorem execVatSearch_kept {cq : List Instr} (cl : Fin 32) (slot : BitVec 13) (s : Machine.State) (h_s : Kept cq
    s) : ResultKept cq (execVatSearch cl slot s) := by
  unfold execVatSearch
  repeat' first
    | with_reducible assumption
    | with_reducible apply State.vatSearch_kept
    | with_reducible apply resultKept_next

theorem State.windowRelease_kept {cq : List Instr} (s : Machine.State) (n : ℕ) (k : ℕ) (i : ℕ) (h_s : Kept cq s)
    : Kept cq (State.windowRelease s n k i) := by
  unfold State.windowRelease
  repeat' first
    | with_reducible assumption
    | with_reducible apply State.vatStep_kept
    | with_reducible apply State.setVat_kept
    | with_reducible apply kept_ite
    | simp only [kept_mk_iff]
    | intro _
    | split

theorem execWindowRelease_kept {cq : List Instr} (cl : Fin 32) (slot : BitVec 13) (w : Fin 8) (s :
    Machine.State) (h_s : Kept cq s) : ResultKept cq (execWindowRelease cl slot w s) := by
  unfold execWindowRelease
  repeat' first
    | with_reducible assumption
    | with_reducible apply State.windowRelease_kept
    | with_reducible apply resultKept_next

theorem execDoubleTalkHoldEnd_kept {cq : List Instr} (cl : Fin 32) (slot : BitVec 13) (s : Machine.State) (h_s :
    Kept cq s) : ResultKept cq (execDoubleTalkHoldEnd cl slot s) := by
  unfold execDoubleTalkHoldEnd
  repeat' first
    | with_reducible assumption
    | with_reducible apply State.vatStep_kept
    | with_reducible apply State.setVat_kept
    | with_reducible apply kept_ite
    | with_reducible apply resultKept_next
    | intro _

theorem execNlpRelease_kept {cq : List Instr} (cl : Fin 32) (slot : BitVec 13) (s : Machine.State) (h_s : Kept
    cq s) : ResultKept cq (execNlpRelease cl slot s) := by
  unfold execNlpRelease
  repeat' first
    | with_reducible assumption
    | with_reducible apply State.vatStep_kept
    | with_reducible apply State.setVat_kept
    | with_reducible apply kept_ite
    | with_reducible apply resultKept_next
    | intro _

theorem execDisablerRelease_kept {cq : List Instr} (cl : Fin 32) (slot : BitVec 13) (s : Machine.State) (h_s :
    Kept cq s) : ResultKept cq (execDisablerRelease cl slot s) := by
  unfold execDisablerRelease
  repeat' first
    | with_reducible assumption
    | with_reducible apply State.vatStep_kept
    | with_reducible apply State.setVat_kept
    | with_reducible apply kept_ite
    | with_reducible apply resultKept_next
    | intro _

end Sys2Proof.Machine
end

