-- ==== Sys2Proof/Laws/KeptTones.lean ====
section
/-!
SUPPORT. What the operations of Machine/Tones.lean keep (Laws/Kept.lean).
-/

namespace Sys2Proof.Machine

theorem State.toneBump_kept {cq : List Instr} (s : Machine.State) (n : ℕ) (ctr : ℕ) (k : ℕ) (h_s : Kept cq s) :
    Kept cq (State.toneBump s n ctr k) := by
  unfold State.toneBump
  repeat' first
    | with_reducible assumption
    | with_reducible apply State.bumpBy_kept
    | with_reducible apply kept_ite

theorem State.toneLog_kept {cq : List Instr} (s : Machine.State) (n : ℕ) (cause : ℕ) (tid : BitVec 18) (h_s :
    Kept cq s) : Kept cq (State.toneLog s n cause tid) := by
  unfold State.toneLog
  repeat' first
    | with_reducible assumption
    | with_reducible apply State.wv_kept
    | with_reducible apply kept_ite

theorem State.toneRecord_kept {cq : List Instr} (s : Machine.State) (n : ℕ) (k : ℕ) (c : List Byte) (r :
    ToneRec) (h_s : Kept cq s) : Kept cq (State.toneRecord s n k c r) := by
  unfold State.toneRecord
  repeat' first
    | with_reducible assumption
    | with_reducible apply State.toneBump_kept
    | with_reducible apply State.setSlot_kept
    | with_reducible apply State.draw_kept
    | with_reducible apply State.postRecord_kept
    | with_reducible apply State.raise_kept
    | with_reducible apply State.toneLog_kept
    | with_reducible apply kept_ite

theorem State.toneRecords_kept {cq : List Instr} (s : Machine.State) (n : ℕ) (k : ℕ) (c : List Byte) (l : List
    ToneRec) (h_s : Kept cq s) : Kept cq (State.toneRecords s n k c l) := by
  unfold State.toneRecords
  repeat' first
    | with_reducible assumption
    | with_reducible apply State.toneRecord_kept
    | with_reducible refine each_kept _ _ (fun _ _ _ => ?_) ?_

theorem State.detect_kept {cq : List Instr} (s : Machine.State) (n : ℕ) (k : ℕ) (r : Run) (w : ℕ) (b : Block)
    (shed : Bool) (h_s : Kept cq s) : Kept cq (State.detect s n k r w b shed).1 := by
  unfold State.detect
  repeat' first
    | with_reducible assumption
    | with_reducible apply State.toneBump_kept
    | with_reducible apply State.toneRecords_kept
    | with_reducible apply State.draw_kept
    | with_reducible apply State.setArea_kept

theorem State.genTake_kept {cq : List Instr} (s : Machine.State) (n : ℕ) (k : ℕ) (r : Run) (w : ℕ) (h_s : Kept
    cq s) : Kept cq (State.genTake s n k r w) := by
  unfold State.genTake
  repeat' first
    | with_reducible assumption
    | with_reducible apply State.setArea_kept
    | with_reducible apply State.raise_kept
    | with_reducible apply State.toneLog_kept
    | with_reducible apply State.toneBump_kept
    | with_reducible apply kept_ite

theorem State.generate_kept {cq : List Instr} (s : Machine.State) (n : ℕ) (k : ℕ) (r : Run) (w : ℕ) (b : Block)
    (h_s : Kept cq s) : Kept cq (State.generate s n k r w b).1 := by
  unfold State.generate
  repeat' first
    | with_reducible assumption
    | with_reducible apply State.draw_kept
    | with_reducible apply State.setArea_kept
    | with_reducible apply State.toneRecords_kept
    | simp only [kept_mk_iff]
    | split

theorem State.setToneQueue_kept {cq : List Instr} (s : Machine.State) (n : ℕ) (q : List (BitVec 13 × Fin 2))
    (h_s : Kept cq s) : Kept cq (State.setToneQueue s n q) := by
  unfold State.setToneQueue
  repeat' first
    | with_reducible assumption
    | with_reducible apply State.setCluster_kept

theorem State.toneRequest_kept {cq : List Instr} (s : Machine.State) (n : ℕ) (slot : BitVec 13) (chain : Fin 2)
    (r : Run) (h_s : Kept cq s) : Kept cq (State.toneRequest s n slot chain r) := by
  unfold State.toneRequest
  repeat' first
    | with_reducible assumption
    | with_reducible apply State.setToneQueue_kept
    | with_reducible apply State.setRun_kept

theorem State.toneDet_kept {cq : List Instr} (s : Machine.State) (n : ℕ) (slot : BitVec 13) (chain : Fin 2) (h_s
    : Kept cq s) : Kept cq (State.toneDet s n slot chain) := by
  unfold State.toneDet
  repeat' first
    | with_reducible assumption
    | with_reducible apply State.instrDone_kept
    | with_reducible apply State.detect_kept
    | with_reducible apply State.chainOp_kept
    | with_reducible apply State.toneRequest_kept
    | with_reducible apply kept_ite
    | simp only [kept_mk_iff]
    | intro _
    | split

theorem execToneDet_kept {cq : List Instr} (cl : Fin 32) (slot : BitVec 13) (chain : Fin 2) (s : Machine.State)
    (h_s : Kept cq s) : ResultKept cq (execToneDet cl slot chain s) := by
  unfold execToneDet
  repeat' first
    | with_reducible assumption
    | with_reducible apply State.toneDet_kept
    | with_reducible apply resultKept_next

theorem execToneGen_kept {cq : List Instr} (cl : Fin 32) (slot : BitVec 13) (chain : Fin 2) (s : Machine.State)
    (h_s : Kept cq s) : ResultKept cq (execToneGen cl slot chain s) := by
  unfold execToneGen
  repeat' first
    | with_reducible assumption
    | with_reducible apply State.chainOp_kept
    | with_reducible apply State.toneRequest_kept
    | with_reducible apply State.genTake_kept
    | with_reducible apply resultKept_next
    | intro _

theorem State.toneEnd_kept {cq : List Instr} (s : Machine.State) (n : ℕ) (k : ℕ) (chain : Fin 2) (h_s : Kept cq
    s) : Kept cq (State.toneEnd s n k chain) := by
  unfold State.toneEnd
  repeat' first
    | with_reducible assumption
    | with_reducible apply State.detect_kept
    | with_reducible apply State.generate_kept
    | with_reducible apply State.instrDone_kept
    | with_reducible apply kept_ite_fst
    | simp only [kept_mk_iff]
    | split

theorem State.toneComplete_kept {cq : List Instr} (s : Machine.State) (n : ℕ) (h_s : Kept cq s) :
    Kept cq (State.toneComplete s n) := by
  unfold State.toneComplete
  repeat' first
    | with_reducible assumption
    | with_reducible apply State.toneEnd_kept
    | with_reducible apply State.setToneQueue_kept
    | with_reducible apply kept_ite
    | split

theorem execToneBankComplete_kept {cq : List Instr} (cl : Fin 32) (s : Machine.State) (h_s : Kept cq s) :
    ResultKept cq (execToneBankComplete cl s) := by
  unfold execToneBankComplete
  repeat' first
    | with_reducible assumption
    | with_reducible apply State.toneComplete_kept
    | with_reducible apply resultKept_next

end Sys2Proof.Machine
end

