-- ==== Sys2Proof/Laws/KeptVde.lean ====
section
/-!
SUPPORT. What the operations of Machine/Vde.lean keep (Laws/Kept.lean).
-/

namespace Sys2Proof.Machine

theorem State.vdeBump_kept {cq : List Instr} (s : Machine.State) (n : ℕ) (ctr : ℕ) (k : ℕ) (h_s : Kept cq s) :
    Kept cq (State.vdeBump s n ctr k) := by
  unfold State.vdeBump
  repeat' first
    | with_reducible assumption
    | with_reducible apply State.bumpBy_kept
    | with_reducible apply kept_ite

theorem State.vdeLog_kept {cq : List Instr} (s : Machine.State) (n : ℕ) (cause : ℕ) (tid : BitVec 18) (h_s :
    Kept cq s) : Kept cq (State.vdeLog s n cause tid) := by
  unfold State.vdeLog
  repeat' first
    | with_reducible assumption
    | with_reducible apply State.wv_kept
    | with_reducible apply kept_ite

theorem State.onRx_kept {cq : List Instr} (s : Machine.State) (a : ℕ) (f : VdeRx → VdeRx) (h_s : Kept cq s) :
    Kept cq (State.onRx s a f) := by
  unfold State.onRx
  repeat' first
    | with_reducible assumption
    | with_reducible apply State.setVde_kept

theorem State.onTx_kept {cq : List Instr} (s : Machine.State) (a : ℕ) (f : VdeTx → VdeTx) (h_s : Kept cq s) :
    Kept cq (State.onTx s a f) := by
  unfold State.onTx
  repeat' first
    | with_reducible assumption
    | with_reducible apply State.setVde_kept

theorem State.onFax_kept {cq : List Instr} (s : Machine.State) (a : ℕ) (f : FaxSt → FaxSt) (h_s : Kept cq s) :
    Kept cq (State.onFax s a f) := by
  unfold State.onFax
  repeat' first
    | with_reducible assumption
    | with_reducible apply State.setVde_kept

theorem State.vdeHeader_kept {cq : List Instr} (s : Machine.State) (a : ℕ) (st : ℕ) (h_s : Kept cq s) :
    Kept cq (State.vdeHeader s a st) := by
  unfold State.vdeHeader
  repeat' first
    | with_reducible assumption
    | with_reducible apply State.writeLe_kept

theorem State.ringPut_kept {cq : List Instr} (s : Machine.State) (a : ℕ) (rcd : List Byte) (h_s : Kept cq s) :
    Kept cq (State.ringPut s a rcd) := by
  unfold State.ringPut
  repeat' first
    | with_reducible assumption
    | with_reducible apply State.writeLe_kept
    | with_reducible apply State.write_kept

theorem State.vdeRecord_kept {cq : List Instr} (s : Machine.State) (n : ℕ) (k : ℕ) (c : List Byte) (r : ToneRec)
    (h_s : Kept cq s) : Kept cq (State.vdeRecord s n k c r) := by
  unfold State.vdeRecord
  repeat' first
    | with_reducible assumption
    | with_reducible apply State.draw_kept
    | with_reducible apply State.postRecord_kept
    | with_reducible apply State.raise_kept
    | with_reducible apply State.vdeLog_kept
    | with_reducible apply State.toneBump_kept
    | with_reducible apply kept_ite

theorem State.vdeRecords_kept {cq : List Instr} (s : Machine.State) (n : ℕ) (k : ℕ) (c : List Byte) (l : List
    ToneRec) (h_s : Kept cq s) : Kept cq (State.vdeRecords s n k c l) := by
  unfold State.vdeRecords
  repeat' first
    | with_reducible assumption
    | with_reducible apply State.vdeRecord_kept
    | with_reducible refine each_kept _ _ (fun _ _ _ => ?_) ?_

theorem State.rxRecord_kept {cq : List Instr} (s : Machine.State) (x : VdeWhere) (typ : ℕ) (flags : ℕ) (count :
    ℕ) (data : List Byte) (h_s : Kept cq s) : Kept cq (State.rxRecord s x typ flags count data) := by
  unfold State.rxRecord
  repeat' first
    | with_reducible assumption
    | with_reducible apply State.raise_kept
    | with_reducible apply State.vdeLog_kept
    | with_reducible apply State.vdeBump_kept
    | with_reducible apply State.onRx_kept
    | with_reducible apply State.ringPut_kept
    | with_reducible apply kept_ite

theorem State.rxFlush_kept {cq : List Instr} (s : Machine.State) (x : VdeWhere) (h_s : Kept cq s) :
    Kept cq (State.rxFlush s x) := by
  unfold State.rxFlush
  repeat' first
    | with_reducible assumption
    | with_reducible apply State.rxRecord_kept
    | with_reducible apply State.onRx_kept
    | with_reducible apply kept_ite

theorem State.rxByte_kept {cq : List Instr} (s : Machine.State) (x : VdeWhere) (b : Byte) (h_s : Kept cq s) :
    Kept cq (State.rxByte s x b) := by
  unfold State.rxByte
  repeat' first
    | with_reducible assumption
    | with_reducible apply State.onRx_kept
    | with_reducible apply State.rxFlush_kept
    | with_reducible apply kept_ite

theorem State.rxFrameEnd_kept {cq : List Instr} (s : Machine.State) (x : VdeWhere) (bad : Bool) (h_s : Kept cq
    s) : Kept cq (State.rxFrameEnd s x bad) := by
  unfold State.rxFrameEnd
  repeat' first
    | with_reducible assumption
    | with_reducible apply State.rxFlush_kept
    | with_reducible apply State.vdeBump_kept
    | with_reducible apply State.rxRecord_kept
    | with_reducible apply State.setVde_kept

theorem State.rxClose_kept {cq : List Instr} (s : Machine.State) (x : VdeWhere) (h_s : Kept cq s) :
    Kept cq (State.rxClose s x) := by
  unfold State.rxClose
  repeat' first
    | with_reducible assumption
    | with_reducible apply State.onRx_kept
    | with_reducible apply State.rxFlush_kept
    | with_reducible apply State.rxFrameEnd_kept
    | with_reducible apply kept_ite

theorem State.freeze_kept {cq : List Instr} (s : Machine.State) (x : VdeWhere) (offset : ℤ) (h_s : Kept cq s) :
    Kept cq (State.freeze s x offset) := by
  unfold State.freeze
  repeat' first
    | with_reducible assumption
    | with_reducible apply State.setVde_kept
    | with_reducible apply State.onRx_kept

theorem State.rxEvent_kept {cq : List Instr} (s : Machine.State) (x : VdeWhere) (offset : ℤ) (x1_11 : HdlcEvent)
    (h_s : Kept cq s) : Kept cq (State.rxEvent s x offset x1_11) := by
  unfold State.rxEvent
  repeat' first
    | with_reducible assumption
    | with_reducible apply State.rxByte_kept
    | with_reducible apply State.freeze_kept
    | with_reducible apply State.rxFrameEnd_kept
    | with_reducible apply kept_ite
    | split

theorem State.rxBit_kept {cq : List Instr} (s : Machine.State) (x : VdeWhere) (offset : ℤ) (b : Bool) (h_s :
    Kept cq s) : Kept cq (State.rxBit s x offset b) := by
  unfold State.rxBit
  repeat' first
    | with_reducible assumption
    | with_reducible apply State.onRx_kept
    | with_reducible apply State.rxEvent_kept
    | with_reducible refine each_kept _ _ (fun _ _ _ => ?_) ?_

theorem State.rxData_kept {cq : List Instr} (s : Machine.State) (x : VdeWhere) (xs : List (BitVec 16)) (from_ :
    ℕ) (to_ : ℕ) (h_s : Kept cq s) : Kept cq (State.rxData s x xs from_ to_) := by
  unfold State.rxData
  repeat' first
    | with_reducible assumption
    | with_reducible apply State.onRx_kept
    | with_reducible apply State.freeze_kept
    | with_reducible apply State.rxBit_kept
    | with_reducible apply kept_ite
    | with_reducible refine each_kept _ _ (fun _ _ _ => ?_) ?_

theorem State.rxStart_kept {cq : List Instr} (s : Machine.State) (x : VdeWhere) (h : Hit) (t : ℕ) (h_s : Kept cq
    s) : Kept cq (State.rxStart s x h t).1 := by
  unfold State.rxStart
  repeat' first
    | with_reducible assumption
    | with_reducible apply State.onRx_kept
    | with_reducible apply State.rxRecord_kept
    | with_reducible apply State.vdeBump_kept

theorem State.rxEnd_kept {cq : List Instr} (s : Machine.State) (x : VdeWhere) (typ : ℕ) (h_s : Kept cq s) :
    Kept cq (State.rxEnd s x typ) := by
  unfold State.rxEnd
  repeat' first
    | with_reducible assumption
    | with_reducible apply State.rxClose_kept
    | with_reducible apply State.onRx_kept
    | with_reducible apply State.rxRecord_kept

theorem State.rxFail_kept {cq : List Instr} (s : Machine.State) (x : VdeWhere) (level : ℤ) (fails : ℕ × ℕ →
    Bool) (at_ : ℕ × ℕ → ℕ) (h_s : Kept cq s) : Kept cq (State.rxFail s x level fails at_).1 := by
  unfold State.rxFail
  repeat' first
    | with_reducible assumption
    | with_reducible apply State.vdeBump_kept
    | with_reducible apply State.onRx_kept

theorem State.rxHit_kept {cq : List Instr} (s : Machine.State) (x : VdeWhere) (h : Hit) (t : ℕ) (h_s : Kept cq
    s) : Kept cq (State.rxHit s x h t).1 := by
  unfold State.rxHit
  repeat' first
    | with_reducible assumption
    | with_reducible apply State.rxStart_kept
    | with_reducible apply State.vdeBump_kept
    | with_reducible apply State.rxEnd_kept
    | with_reducible apply State.onRx_kept
    | with_reducible apply kept_ite_fst

theorem rxHits_kept {cq : List Instr} (x : VdeWhere) (xs : List (BitVec 16)) (tag : Nat) (level : Int) (y : RxRun)
    (b : Nat) (l : List Hit) (h_y : Kept cq y.1) : Kept cq (rxHits x xs tag level y b l).1 := by
  induction l generalizing y b with
  | nil => exact State.rxData_kept _ _ _ _ _ h_y
  | cons h l ih =>
    refine ih _ _ ?_
    exact State.rxHit_kept _ _ _ _ (State.rxFail_kept _ _ _ _ _ (State.rxData_kept _ _ _ _ _ h_y))

theorem State.rxV8_kept {cq : List Instr} (s : Machine.State) (x : VdeWhere) (dur : ℕ) (at_ : ℕ) (h_s : Kept cq
    s) : Kept cq (State.rxV8 s x dur at_).1 := by
  unfold State.rxV8
  repeat' first
    | with_reducible assumption
    | with_reducible apply State.raise_kept
    | with_reducible apply State.rxRecord_kept
    | with_reducible apply State.vdeLog_kept
    | with_reducible apply State.setVde_kept
    | with_reducible apply kept_ite_fst

theorem State.rxMenu_kept {cq : List Instr} (s : Machine.State) (x : VdeWhere) (xs : List (BitVec 16)) (tag : ℕ)
    (h_s : Kept cq s) : Kept cq (State.rxMenu s x xs tag).1 := by
  unfold State.rxMenu
  repeat' first
    | with_reducible assumption
    | with_reducible apply State.rxV8_kept
    | with_reducible apply kept_ite_fst
    | extract_lets
    | split

theorem State.rxGone_kept {cq : List Instr} (s : Machine.State) (x : VdeWhere) (xs : List (BitVec 16)) (tag : ℕ)
    (level : ℤ) (h_s : Kept cq s) : Kept cq (State.rxGone s x xs tag level).1 := by
  unfold State.rxGone
  repeat' first
    | with_reducible assumption
    | with_reducible apply State.rxData_kept
    | with_reducible apply State.onRx_kept
    | with_reducible apply State.rxEnd_kept
    | with_reducible apply State.rxFail_kept
    | with_reducible apply kept_ite

theorem State.rxFrame_kept {cq : List Instr} (s : Machine.State) (x : VdeWhere) (xs : List (BitVec 16)) (tag :
    ℕ) (h_s : Kept cq s) : Kept cq (State.rxFrame s x xs tag).1 := by
  unfold State.rxFrame
  repeat' first
    | with_reducible assumption
    | with_reducible apply State.draw_kept
    | with_reducible apply State.onRx_kept
    | with_reducible apply State.rxGone_kept
    | with_reducible apply rxHits_kept
    | with_reducible apply State.rxFail_kept
    | with_reducible apply State.rxMenu_kept
    | with_reducible apply kept_ite_fst

theorem State.vdeReceive_kept {cq : List Instr} (s : Machine.State) (n : ℕ) (k : ℕ) (r : Run) (w : ℕ) (b :
    Block) (shed : Bool) (h_s : Kept cq s) : Kept cq (State.vdeReceive s n k r w b shed) := by
  unfold State.vdeReceive
  repeat' first
    | with_reducible assumption
    | with_reducible apply State.onRx_kept
    | with_reducible apply State.rxFrame_kept
    | with_reducible apply State.rxFlush_kept
    | with_reducible apply State.vdeRecords_kept
    | with_reducible apply State.vdeHeader_kept
    | with_reducible refine kept_foldl_fst _ _ (fun _ _ _ => ?_) ?_

theorem State.txTake_kept {cq : List Instr} (s : Machine.State) (n : ℕ) (a : ℕ) (h_s : Kept cq s) :
    Kept cq (State.txTake s n a) := by
  unfold State.txTake
  repeat' first
    | with_reducible assumption
    | with_reducible apply State.writeLe_kept
    | with_reducible apply State.onTx_kept
    | with_reducible apply State.vdeBump_kept
    | simp only [kept_mk_iff]
    | split

theorem State.txIdle_kept {cq : List Instr} (s : Machine.State) (n : ℕ) (a : ℕ) (x1_6 : ℕ) (h_s : Kept cq s) :
    Kept cq (State.txIdle s n a x1_6) := by
  induction x1_6 generalizing s with
  | zero =>
    unfold State.txIdle
    repeat' first
      | with_reducible assumption
      | with_reducible apply ih
      | with_reducible apply State.txTake_kept
      | with_reducible apply kept_ite
  | succ m ih =>
    unfold State.txIdle
    repeat' first
      | with_reducible assumption
      | with_reducible apply ih
      | with_reducible apply State.txTake_kept
      | with_reducible apply kept_ite

theorem State.txFill_kept {cq : List Instr} (s : Machine.State) (n : ℕ) (k : ℕ) (p : ℕ) (a : ℕ) (h_s : Kept cq
    s) : Kept cq (State.txFill s n k p a) := by
  unfold State.txFill
  repeat' first
    | with_reducible assumption
    | with_reducible apply State.vdeBump_kept
    | with_reducible apply State.raise_kept
    | with_reducible apply State.vdeLog_kept
    | with_reducible apply State.onTx_kept
    | with_reducible apply kept_ite

theorem State.txFeed_kept {cq : List Instr} (s : Machine.State) (n : ℕ) (k : ℕ) (p : ℕ) (a : ℕ) (q : ℕ) (x1_12 :
    ℕ) (h_s : Kept cq s) : Kept cq (State.txFeed s n k p a q x1_12) := by
  induction x1_12 generalizing s with
  | zero =>
    unfold State.txFeed
    repeat' first
      | with_reducible assumption
      | with_reducible apply ih
      | with_reducible apply State.txFill_kept
      | with_reducible apply State.onTx_kept
      | with_reducible apply State.txTake_kept
      | with_reducible apply kept_ite
      | extract_lets
      | split
  | succ m ih =>
    unfold State.txFeed
    repeat' first
      | with_reducible assumption
      | with_reducible apply ih
      | with_reducible apply State.txFill_kept
      | with_reducible apply State.onTx_kept
      | with_reducible apply State.txTake_kept
      | with_reducible apply kept_ite
      | extract_lets
      | split

theorem State.vdeSend_kept {cq : List Instr} (s : Machine.State) (n : ℕ) (k : ℕ) (r : Run) (w : ℕ) (h_s : Kept
    cq s) : Kept cq (State.vdeSend s n k r w).1 := by
  unfold State.vdeSend
  repeat' first
    | with_reducible assumption
    | with_reducible apply State.onTx_kept
    | with_reducible apply State.txIdle_kept
    | with_reducible apply State.txFeed_kept
    | with_reducible apply State.vdeHeader_kept
    | with_reducible apply kept_ite

theorem State.vdeShed_kept {cq : List Instr} (s : Machine.State) (n : ℕ) (r : Run) (w : ℕ) (h_s : Kept cq s) :
    Kept cq (State.vdeShed s n r w).1 := by
  unfold State.vdeShed
  repeat' first
    | with_reducible assumption
    | with_reducible apply State.vdeBump_kept
    | with_reducible apply State.onTx_kept
    | with_reducible apply State.vdeHeader_kept

theorem State.setVdeQueue_kept {cq : List Instr} (s : Machine.State) (n : ℕ) (q : List (BitVec 13 × Fin 2)) (h_s
    : Kept cq s) : Kept cq (State.setVdeQueue s n q) := by
  unfold State.setVdeQueue
  repeat' first
    | with_reducible assumption
    | with_reducible apply State.setCluster_kept

theorem State.vdeRequest_kept {cq : List Instr} (s : Machine.State) (n : ℕ) (slot : BitVec 13) (chain : Fin 2)
    (r : Run) (h_s : Kept cq s) : Kept cq (State.vdeRequest s n slot chain r) := by
  unfold State.vdeRequest
  repeat' first
    | with_reducible assumption
    | with_reducible apply State.setVdeQueue_kept
    | with_reducible apply State.setRun_kept

theorem execVdeRx_kept {cq : List Instr} (cl : Fin 32) (slot : BitVec 13) (chain : Fin 2) (s : Machine.State)
    (h_s : Kept cq s) : ResultKept cq (execVdeRx cl slot chain s) := by
  unfold execVdeRx
  repeat' first
    | with_reducible assumption
    | with_reducible apply State.instrDone_kept
    | with_reducible apply State.vdeReceive_kept
    | with_reducible apply State.chainOp_kept
    | with_reducible apply State.vdeRequest_kept
    | with_reducible apply resultKept_next
    | intro _
    | extract_lets
    | split

theorem execVdeTx_kept {cq : List Instr} (cl : Fin 32) (slot : BitVec 13) (chain : Fin 2) (s : Machine.State)
    (h_s : Kept cq s) : ResultKept cq (execVdeTx cl slot chain s) := by
  unfold execVdeTx
  repeat' first
    | with_reducible assumption
    | with_reducible apply State.instrDone_kept
    | with_reducible apply State.vdeShed_kept
    | with_reducible apply State.chainOp_kept
    | with_reducible apply State.vdeRequest_kept
    | with_reducible apply resultKept_next
    | intro _
    | extract_lets
    | split

theorem State.vdeEnd_kept {cq : List Instr} (s : Machine.State) (n : ℕ) (k : ℕ) (chain : Fin 2) (h_s : Kept cq
    s) : Kept cq (State.vdeEnd s n k chain) := by
  unfold State.vdeEnd
  repeat' first
    | with_reducible assumption
    | with_reducible apply State.instrDone_kept
    | with_reducible apply State.vdeReceive_kept
    | with_reducible apply State.vdeSend_kept
    | with_reducible apply kept_ite
    | simp only [kept_mk_iff]
    | split

theorem State.vdeComplete_kept {cq : List Instr} (s : Machine.State) (n : ℕ) (h_s : Kept cq s) :
    Kept cq (State.vdeComplete s n) := by
  unfold State.vdeComplete
  repeat' first
    | with_reducible assumption
    | with_reducible apply State.vdeEnd_kept
    | with_reducible apply State.setVdeQueue_kept
    | with_reducible apply kept_ite
    | split

theorem execVdeComplete_kept {cq : List Instr} (cl : Fin 32) (s : Machine.State) (h_s : Kept cq s) :
    ResultKept cq (execVdeComplete cl s) := by
  unfold execVdeComplete
  repeat' first
    | with_reducible assumption
    | with_reducible apply State.vdeComplete_kept
    | with_reducible apply resultKept_next

theorem State.faxDcs_kept {cq : List Instr} (s : Machine.State) (r : Run) (f : List Byte) (h_s : Kept cq s) :
    Kept cq (State.faxDcs s r f) := by
  unfold State.faxDcs
  repeat' first
    | with_reducible assumption
    | with_reducible apply State.writeLe_kept
    | with_reducible refine each_kept _ _ (fun _ _ _ => ?_) ?_
    | split

theorem State.faxWatch_kept {cq : List Instr} (s : Machine.State) (r : Run) (a : ℕ) (rcd : List Byte) (h_s :
    Kept cq s) : Kept cq (State.faxWatch s r a rcd) := by
  unfold State.faxWatch
  repeat' first
    | with_reducible assumption
    | with_reducible apply State.onFax_kept
    | with_reducible apply State.faxDcs_kept
    | with_reducible apply kept_ite

theorem State.sendIfp_kept {cq : List Instr} (s : Machine.State) (n : ℕ) (red : ℕ) (a : ℕ) (c : List Byte) (ifp
    : List Byte) (h_s : Kept cq s) : Kept cq (State.sendIfp s n red a c ifp) := by
  unfold State.sendIfp
  repeat' first
    | with_reducible assumption
    | with_reducible apply State.onFax_kept
    | with_reducible apply State.vdeBump_kept
    | with_reducible apply State.commitFrame_kept

theorem State.faxOut_kept {cq : List Instr} (s : Machine.State) (n : ℕ) (r : Run) (w : ℕ) (c : List Byte) (h_s :
    Kept cq s) : Kept cq (State.faxOut s n r w c) := by
  unfold State.faxOut
  repeat' first
    | with_reducible assumption
    | with_reducible apply State.writeLe_kept
    | with_reducible apply State.faxWatch_kept
    | with_reducible apply State.onFax_kept
    | with_reducible apply State.sendIfp_kept
    | with_reducible apply kept_ite
    | with_reducible refine each_kept _ _ (fun _ _ _ => ?_) ?_

theorem State.txPut_kept {cq : List Instr} (s : Machine.State) (r : Run) (a : ℕ) (rcd : List Byte) (h_s : Kept
    cq s) : Kept cq (State.txPut s r a rcd) := by
  unfold State.txPut
  repeat' first
    | with_reducible assumption
    | with_reducible apply State.faxWatch_kept
    | with_reducible apply State.ringPut_kept
    | with_reducible apply State.onFax_kept
    | with_reducible apply kept_ite

theorem State.playIfp_kept {cq : List Instr} (s : Machine.State) (r : Run) (a : ℕ) (ver : ℕ) (tcf : Bool) (ifp :
    List Byte) (h_s : Kept cq s) : Kept cq (State.playIfp s r a ver tcf ifp) := by
  unfold State.playIfp
  repeat' first
    | with_reducible assumption
    | with_reducible apply State.onFax_kept
    | with_reducible apply State.txPut_kept
    | with_reducible refine each_kept _ _ (fun _ _ _ => ?_) ?_

theorem State.missIfp_kept {cq : List Instr} (s : Machine.State) (n : ℕ) (r : Run) (a : ℕ) (ver : ℕ) (tcf :
    Bool) (ifp : Option (List Byte)) (h_s : Kept cq s) : Kept cq (State.missIfp s n r a ver tcf ifp) := by
  unfold State.missIfp
  repeat' first
    | with_reducible assumption
    | with_reducible apply State.playIfp_kept
    | with_reducible apply State.vdeBump_kept
    | with_reducible apply State.onFax_kept
    | split

theorem State.takeIfp_kept {cq : List Instr} (s : Machine.State) (n : ℕ) (r : Run) (w : ℕ) (p : Stored) (h_s :
    Kept cq s) : Kept cq (State.takeIfp s n r w p) := by
  unfold State.takeIfp
  repeat' first
    | with_reducible assumption
    | with_reducible apply State.vdeBump_kept
    | with_reducible apply State.onFax_kept
    | with_reducible apply State.missIfp_kept
    | with_reducible apply kept_ite
    | with_reducible refine each_kept _ _ (fun _ _ _ => ?_) ?_

theorem faxrelay_kept {cq : List Instr} (n : ℕ) (k : ℕ) (chain : Fin 2) (s : Machine.State) (r : Run) (w : ℕ)
    (h_s : Kept cq s) : Kept cq (faxrelay n k chain s r w).1 := by
  unfold faxrelay
  repeat' first
    | with_reducible assumption
    | with_reducible apply State.faxOut_kept
    | with_reducible apply State.takePresented_kept
    | with_reducible apply State.takeIfp_kept
    | with_reducible apply State.faxDcs_kept
    | with_reducible apply kept_ite
    | with_reducible apply kept_ite_fst
    | with_reducible refine each_kept _ _ (fun _ _ _ => ?_) ?_
    | simp only [kept_mk_iff]
    | split

theorem execFaxrelay_kept {cq : List Instr} (cl : Fin 32) (slot : BitVec 13) (chain : Fin 2) (s : Machine.State)
    (h_s : Kept cq s) : ResultKept cq (execFaxrelay cl slot chain s) := by
  unfold execFaxrelay
  repeat' first
    | with_reducible assumption
    | with_reducible apply State.romOp_kept
    | with_reducible apply faxrelay_kept
    | with_reducible apply resultKept_next

end Sys2Proof.Machine
end

