-- ==== Sys2Proof/Laws/KeptResampler.lean ====
section
/-!
SUPPORT. What the operations of Machine/Resampler.lean keep (Laws/Kept.lean).
-/

namespace Sys2Proof.Machine

theorem State.srcBump_kept {cq : List Instr} (s : Machine.State) (n : ℕ) (ctr : ℕ) (k : ℕ) (h_s : Kept cq s) :
    Kept cq (State.srcBump s n ctr k) := by
  unfold State.srcBump
  repeat' first
    | with_reducible assumption
    | with_reducible apply State.bumpBy_kept
    | with_reducible apply kept_ite

theorem State.srcLog_kept {cq : List Instr} (s : Machine.State) (n : ℕ) (cause : ℕ) (tid : BitVec 18) (h_s :
    Kept cq s) : Kept cq (State.srcLog s n cause tid) := by
  unfold State.srcLog
  repeat' first
    | with_reducible assumption
    | with_reducible apply State.wv_kept
    | with_reducible apply kept_ite

theorem State.srcBegin_kept {cq : List Instr} (s : Machine.State) (n : ℕ) (k : ℕ) (a : ℕ) (q : SrcFilter) (i :
    Option ℕ) (o : ℕ) (h_s : Kept cq s) : Kept cq (State.srcBegin s n k a q i o).1 := by
  unfold State.srcBegin
  repeat' first
    | with_reducible assumption
    | with_reducible apply State.srcBump_kept
    | with_reducible apply State.raise_kept
    | with_reducible apply State.srcLog_kept
    | with_reducible apply kept_ite_fst
    | simp only [kept_mk_iff]
    | split

theorem State.srcHeader_kept {cq : List Instr} (s : Machine.State) (a : ℕ) (r : SrcSt) (h_s : Kept cq s) :
    Kept cq (State.srcHeader s a r) := by
  unfold State.srcHeader
  repeat' first
    | with_reducible assumption
    | with_reducible apply State.writeLe_kept

theorem State.resample_kept {cq : List Instr} (s : Machine.State) (n : ℕ) (k : ℕ) (chain : Fin 2) (r : Run) (w :
    ℕ) (b : Block) (h_s : Kept cq s) : Kept cq (State.resample s n k chain r w b).1 := by
  unfold State.resample
  repeat' first
    | with_reducible assumption
    | with_reducible apply State.srcBegin_kept
    | with_reducible apply State.srcHeader_kept
    | with_reducible apply State.setArea_kept
    | with_reducible apply State.draw_kept
    | with_reducible apply State.raise_kept
    | with_reducible apply State.srcLog_kept
    | with_reducible apply State.srcBump_kept
    | with_reducible apply kept_ite

theorem State.srcShed_kept {cq : List Instr} (s : Machine.State) (n : ℕ) (k : ℕ) (chain : Fin 2) (r : Run) (w :
    ℕ) (b : Block) (h_s : Kept cq s) : Kept cq (State.srcShed s n k chain r w b) := by
  unfold State.srcShed
  repeat' first
    | with_reducible assumption
    | with_reducible apply State.srcBegin_kept
    | with_reducible apply State.srcHeader_kept
    | with_reducible apply State.setArea_kept

theorem State.setSrcQueue_kept {cq : List Instr} (s : Machine.State) (n : ℕ) (q : List (BitVec 13 × Fin 2)) (h_s
    : Kept cq s) : Kept cq (State.setSrcQueue s n q) := by
  unfold State.setSrcQueue
  repeat' first
    | with_reducible assumption
    | with_reducible apply State.setCluster_kept

theorem execSrc_kept {cq : List Instr} (cl : Fin 32) (slot : BitVec 13) (chain : Fin 2) (s : Machine.State) (h_s
    : Kept cq s) : ResultKept cq (execSrc cl slot chain s) := by
  unfold execSrc
  repeat' first
    | with_reducible assumption
    | with_reducible apply State.instrDone_kept
    | with_reducible apply State.srcShed_kept
    | with_reducible apply State.chainOp_kept
    | with_reducible apply State.setSrcQueue_kept
    | with_reducible apply State.setRun_kept
    | with_reducible apply resultKept_next
    | intro _
    | extract_lets
    | split

theorem State.srcEnd_kept {cq : List Instr} (s : Machine.State) (n : ℕ) (k : ℕ) (chain : Fin 2) (h_s : Kept cq
    s) : Kept cq (State.srcEnd s n k chain) := by
  unfold State.srcEnd
  repeat' first
    | with_reducible assumption
    | with_reducible apply State.resample_kept
    | with_reducible apply State.instrDone_kept
    | simp only [kept_mk_iff]
    | split

theorem State.srcComplete_kept {cq : List Instr} (s : Machine.State) (n : ℕ) (h_s : Kept cq s) :
    Kept cq (State.srcComplete s n) := by
  unfold State.srcComplete
  repeat' first
    | with_reducible assumption
    | with_reducible apply State.srcEnd_kept
    | with_reducible apply State.setSrcQueue_kept
    | with_reducible apply kept_ite
    | split

theorem execResamplerComplete_kept {cq : List Instr} (cl : Fin 32) (s : Machine.State) (h_s : Kept cq s) :
    ResultKept cq (execResamplerComplete cl s) := by
  unfold execResamplerComplete
  repeat' first
    | with_reducible assumption
    | with_reducible apply State.srcComplete_kept
    | with_reducible apply resultKept_next

theorem State.srcUcmd_kept {cq : List Instr} (s : Machine.State) (n : ℕ) (op : ℕ) (set : ℕ) (h_s : Kept cq s) :
    Kept cq (State.srcUcmd s n op set) := by
  unfold State.srcUcmd
  repeat' first
    | with_reducible assumption
    | with_reducible apply State.post_kept
    | with_reducible apply State.put_kept
    | with_reducible apply State.begin__kept
    | with_reducible apply State.setCluster_kept
    | with_reducible apply State.wv_kept
    | with_reducible apply kept_ite

theorem execUserSetLoad_kept {cq : List Instr} (cl : Fin 32) (set : Fin 8) (s : Machine.State) (h_s : Kept cq s)
    : ResultKept cq (execUserSetLoad cl set s) := by
  unfold execUserSetLoad
  repeat' first
    | with_reducible assumption
    | with_reducible apply hostCmd_kept
    | with_reducible apply State.srcUcmd_kept
    | intro _

end Sys2Proof.Machine
end

