-- ==== Sys2Proof/Laws/KeptCluster.lean ====
section
/-!
SUPPORT. What the operations of Machine/Cluster.lean keep (Laws/Kept.lean).
-/

namespace Sys2Proof.Machine

theorem State.applyPoint_kept {cq : List Instr} (s : Machine.State) (i : ℕ) (h_s : Kept cq s) :
    Kept cq (State.applyPoint s i) := by
  unfold State.applyPoint
  repeat' first
    | with_reducible assumption
    | with_reducible apply State.put_kept
    | with_reducible apply State.reassess_kept
    | with_reducible apply kept_ite

theorem State.startPoint_kept {cq : List Instr} (s : Machine.State) (n : ℕ) (h_s : Kept cq s) :
    Kept cq (State.startPoint s n) := by
  unfold State.startPoint
  repeat' first
    | with_reducible assumption
    | with_reducible apply State.applyPoint_kept
    | with_reducible apply State.put_kept
    | with_reducible apply kept_ite

theorem State.setClState_kept {cq : List Instr} (s : Machine.State) (n : ℕ) (st : ℕ) (h_s : Kept cq s) :
    Kept cq (State.setClState s n st) := by
  unfold State.setClState
  repeat' first
    | with_reducible assumption
    | with_reducible apply State.raise_kept
    | with_reducible apply State.put_kept

theorem State.abandonCluster_kept {cq : List Instr} (s : Machine.State) (n : ℕ) (h_s : Kept cq s) :
    Kept cq (State.abandonCluster s n) := by
  unfold State.abandonCluster
  repeat' first
    | with_reducible assumption
    | with_reducible apply State.abandonAll_kept
    | with_reducible refine each_kept _ _ (fun _ _ _ => ?_) ?_

theorem State.discardCluster_kept {cq : List Instr} (s : State) (n : Nat) (h : Kept cq s) :
    Kept cq (State.discardCluster s n) := by
  unfold State.discardCluster
  extract_lets s1 s2
  have h2 : Kept cq s2 := State.abandonCluster_kept _ _ (State.freeCells_kept _ _ h)
  clear_value s2
  rw [kept_mk_iff]
  exact { kept_fold h2 with
    c_cores := swf_filter _ _ _ h2.1.cores
    c_clusters := swf_sdel _ _ _ h2.1.clusters
    c_slots := swf_filter _ _ _ h2.1.slots }

theorem State.countDiscarded_kept {cq : List Instr} (s : Machine.State) (n : ℕ) (k : ℕ) (h_s : Kept cq s) :
    Kept cq (State.countDiscarded s n k) := by
  unfold State.countDiscarded
  repeat' first
    | with_reducible assumption
    | with_reducible apply State.bumpBy_kept

theorem State.zeroCluster_kept {cq : List Instr} (s : Machine.State) (n : ℕ) (h_s : Kept cq s) :
    Kept cq (State.zeroCluster s n) := by
  unfold State.zeroCluster
  repeat' first
    | with_reducible assumption
    | with_reducible apply State.zeroRange_kept

theorem State.clusterOff_kept {cq : List Instr} (s : Machine.State) (n : ℕ) (h_s : Kept cq s) :
    Kept cq (State.clusterOff s n) := by
  unfold State.clusterOff
  repeat' first
    | with_reducible assumption
    | with_reducible apply State.setClState_kept
    | with_reducible apply State.zeroCluster_kept
    | with_reducible apply State.countDiscarded_kept
    | with_reducible apply State.discardCluster_kept
    | with_reducible apply State.wv_kept
    | with_reducible apply State.put_kept

theorem State.resetClusterRegs_kept {cq : List Instr} (s : Machine.State) (n : ℕ) (h_s : Kept cq s) :
    Kept cq (State.resetClusterRegs s n) := by
  unfold State.resetClusterRegs
  repeat' first
    | with_reducible assumption
    | simp only [kept_mk_iff]
    | with_reducible apply kept_filter_regs

theorem State.clusterWipe_kept {cq : List Instr} (s : Machine.State) (n : ℕ) (h_s : Kept cq s) :
    Kept cq (State.clusterWipe s n) := by
  unfold State.clusterWipe
  repeat' first
    | with_reducible assumption
    | with_reducible apply State.zeroCluster_kept
    | with_reducible apply State.resetClusterRegs_kept
    | with_reducible apply State.discardCluster_kept
    | with_reducible apply State.countDiscarded_kept
    | with_reducible apply State.put_kept
    | with_reducible apply State.changed_kept
    | with_reducible apply State.setClState_kept
    | with_reducible apply State.startPoint_kept
    | with_reducible apply State.reassess_kept
    | with_reducible apply kept_ite

theorem execBringupComplete_kept {cq : List Instr} (cl : Fin 32) (s : Machine.State) (h_s : Kept cq s) :
    ResultKept cq (execBringupComplete cl s) := by
  unfold execBringupComplete
  repeat' first
    | with_reducible assumption
    | with_reducible apply State.setClState_kept
    | with_reducible apply kept_ite
    | with_reducible apply resultKept_next

end Sys2Proof.Machine
end

