-- ==== Sys2Proof/Laws/KeptPower.lean ====
section
/-!
SUPPORT. What the operations of Machine/Power.lean keep (Laws/Kept.lean).
-/

namespace Sys2Proof.Machine

theorem State.dvfsAccept_kept {cq : List Instr} (s : Machine.State) (r : DvfsReq) (h_s : Kept cq s) :
    Kept cq (State.dvfsAccept s r) := by
  unfold State.dvfsAccept
  repeat' first
    | with_reducible assumption
    | with_reducible apply State.applyPoint_kept
    | with_reducible apply State.put_kept

theorem State.dvfsJudge_kept {cq : List Instr} (s : Machine.State) (x1_2 : List DvfsReq) (h_s : Kept cq s) :
    Kept cq (State.dvfsJudge s x1_2) := by
  induction x1_2 generalizing s with
  | nil =>
    unfold State.dvfsJudge
    repeat' first
      | with_reducible assumption
      | simp only [kept_mk_iff]
      | with_reducible apply kept_fold
      | with_reducible apply ih
      | with_reducible apply State.dvfsAccept_kept
      | with_reducible apply State.raise_kept
      | with_reducible apply State.post_kept
      | with_reducible apply kept_ite
      | split
  | cons x l ih =>
    unfold State.dvfsJudge
    repeat' first
      | with_reducible assumption
      | simp only [kept_mk_iff]
      | with_reducible apply kept_fold
      | with_reducible apply ih
      | with_reducible apply State.dvfsAccept_kept
      | with_reducible apply State.raise_kept
      | with_reducible apply State.post_kept
      | with_reducible apply kept_ite
      | split

theorem State.dvfsAsk_kept {cq : List Instr} (s : Machine.State) (origin : ℕ) (island : ℕ) (point : ℕ) (trim :
    ℕ) (h_s : Kept cq s) : Kept cq (State.dvfsAsk s origin island point trim) := by
  unfold State.dvfsAsk
  repeat' first
    | with_reducible assumption
    | with_reducible apply State.dvfsJudge_kept
    | with_reducible apply State.begin__kept
    | with_reducible apply kept_ite

theorem execDvfsReq_kept {cq : List Instr} (island : BitVec 6) (point : BitVec 2) (trim : BitVec 3) (s :
    Machine.State) (h_s : Kept cq s) : ResultKept cq (execDvfsReq island point trim s) := by
  unfold execDvfsReq
  repeat' first
    | with_reducible assumption
    | with_reducible apply hostCmd_kept
    | with_reducible apply State.dvfsAsk_kept
    | intro _

theorem State.dvfsEnd_kept {cq : List Instr} (s : Machine.State) (h_s : Kept cq s) :
    Kept cq (State.dvfsEnd s) := by
  unfold State.dvfsEnd
  repeat' first
    | with_reducible assumption
    | with_reducible apply State.dvfsJudge_kept
    | with_reducible apply State.post_kept
    | split

theorem execDvfsTransitionEnd_kept {cq : List Instr} (s : Machine.State) (h_s : Kept cq s) :
    ResultKept cq (execDvfsTransitionEnd s) := by
  unfold execDvfsTransitionEnd
  repeat' first
    | with_reducible assumption
    | with_reducible apply State.dvfsEnd_kept
    | with_reducible apply resultKept_next

theorem State.sleepIslands_kept {cq : List Instr} (s : Machine.State) (h_s : Kept cq s) :
    Kept cq (State.sleepIslands s) := by
  unfold State.sleepIslands
  repeat' first
    | with_reducible assumption
    | with_reducible apply State.wv_kept
    | with_reducible apply State.applyPoint_kept
    | with_reducible refine each_kept _ _ (fun _ _ _ => ?_) ?_

theorem State.selfRefresh_kept {cq : List Instr} (s : Machine.State) (on : Bool) (h_s : Kept cq s) :
    Kept cq (State.selfRefresh s on) := by
  unfold State.selfRefresh
  repeat' first
    | with_reducible assumption
    | with_reducible apply State.put_kept
    | with_reducible apply kept_ite
    | with_reducible refine each_kept _ _ (fun _ _ _ => ?_) ?_

theorem State.pwrRefuse_kept {cq : List Instr} (s : Machine.State) (code : ℕ) (h_s : Kept cq s) :
    Kept cq (State.pwrRefuse s code) := by
  unfold State.pwrRefuse
  repeat' first
    | with_reducible assumption
    | with_reducible apply State.raise_kept
    | with_reducible apply State.post_kept
    | with_reducible apply State.begin__kept

theorem State.pwrEnter_kept {cq : List Instr} (s : Machine.State) (h_s : Kept cq s) :
    Kept cq (State.pwrEnter s) := by
  unfold State.pwrEnter
  repeat' first
    | with_reducible assumption
    | with_reducible apply State.pwrRefuse_kept
    | with_reducible apply State.begin__kept
    | with_reducible apply kept_ite
    | simp only [kept_mk_iff]
    | with_reducible apply kept_fold

theorem execPwrEnter_kept {cq : List Instr} (s : Machine.State) (h_s : Kept cq s) :
    ResultKept cq (execPwrEnter s) := by
  unfold execPwrEnter
  repeat' first
    | with_reducible assumption
    | with_reducible apply hostCmd_kept
    | with_reducible apply State.pwrEnter_kept

theorem State.wake_kept {cq : List Instr} (s : Machine.State) (cause : ℕ) (h_s : Kept cq s) :
    Kept cq (State.wake s cause) := by
  unfold State.wake
  repeat' first
    | with_reducible assumption
    | with_reducible apply kept_ite
    | simp only [kept_mk_iff]
    | with_reducible apply kept_fold

theorem State.dormantEntered_kept {cq : List Instr} (s : Machine.State) (h_s : Kept cq s) :
    Kept cq (State.dormantEntered s) := by
  unfold State.dormantEntered
  repeat' first
    | with_reducible assumption
    | with_reducible apply State.selfRefresh_kept
    | with_reducible apply State.sleepIslands_kept
    | with_reducible apply State.put_kept
    | with_reducible apply State.post_kept
    | with_reducible apply kept_ite
    | simp only [kept_mk_iff]
    | with_reducible apply kept_fold

theorem execDormantEntryComplete_kept {cq : List Instr} (s : Machine.State) (h_s : Kept cq s) :
    ResultKept cq (execDormantEntryComplete s) := by
  unfold execDormantEntryComplete
  repeat' first
    | with_reducible assumption
    | with_reducible apply State.dormantEntered_kept
    | with_reducible apply resultKept_next

theorem State.pwrExit_kept {cq : List Instr} (s : Machine.State) (h_s : Kept cq s) :
    Kept cq (State.pwrExit s) := by
  unfold State.pwrExit
  repeat' first
    | with_reducible assumption
    | with_reducible apply State.wake_kept
    | with_reducible apply State.pwrRefuse_kept
    | with_reducible apply State.begin__kept
    | with_reducible apply kept_ite

theorem execPwrExit_kept {cq : List Instr} (s : Machine.State) (h_s : Kept cq s) :
    ResultKept cq (execPwrExit s) := by
  unfold execPwrExit
  repeat' first
    | with_reducible assumption
    | with_reducible apply hostCmd_kept
    | with_reducible apply State.pwrExit_kept

theorem execWakeN_kept {cq : List Instr} (lowNs : ℕ) (s : Machine.State) (h_s : Kept cq s) :
    ResultKept cq (execWakeN lowNs s) := by
  unfold execWakeN
  repeat' first
    | with_reducible assumption
    | with_reducible apply State.wake_kept
    | with_reducible apply kept_ite
    | with_reducible apply resultKept_next

theorem State.dormantLeft_kept {cq : List Instr} (s : Machine.State) (h_s : Kept cq s) :
    Kept cq (State.dormantLeft s) := by
  unfold State.dormantLeft
  repeat' first
    | with_reducible assumption
    | with_reducible apply State.sleepIslands_kept
    | with_reducible apply State.put_kept
    | with_reducible apply State.wv_kept
    | with_reducible apply State.selfRefresh_kept
    | with_reducible apply State.post_kept
    | with_reducible apply State.raise_kept
    | with_reducible apply State.tdmResume_kept
    | with_reducible apply kept_ite
    | simp only [kept_mk_iff]
    | with_reducible apply kept_fold
    | split

theorem execDormantExitComplete_kept {cq : List Instr} (s : Machine.State) (h_s : Kept cq s) :
    ResultKept cq (execDormantExitComplete s) := by
  unfold execDormantExitComplete
  repeat' first
    | with_reducible assumption
    | with_reducible apply State.dormantLeft_kept
    | with_reducible apply resultKept_next

end Sys2Proof.Machine
end

