-- ==== Sys2Proof/Laws/KeptTime.lean ====
section
/-!
SUPPORT. What the operations of Machine/Time.lean keep (Laws/Kept.lean).
-/

namespace Sys2Proof.Machine

theorem State.setTb_kept {cq : List Instr} (s : Machine.State) (b : Fin 4) (x : TimeBase) (h_s : Kept cq s) :
    Kept cq (State.setTb s b x) := by
  unfold State.setTb
  repeat' first
    | with_reducible assumption
    | simp only [kept_mk_iff]
    | with_reducible apply kept_fold

theorem State.setDisc_kept {cq : List Instr} (s : Machine.State) (b : Fin 2) (x : Discipline) (h_s : Kept cq s)
    : Kept cq (State.setDisc s b x) := by
  unfold State.setDisc
  repeat' first
    | with_reducible assumption
    | with_reducible apply kept_ite
    | simp only [kept_mk_iff]
    | with_reducible apply kept_fold

theorem State.setDom_kept {cq : List Instr} (s : Machine.State) (b : Fin 2) (st : ℕ) (h_s : Kept cq s) :
    Kept cq (State.setDom s b st) := by
  unfold State.setDom
  repeat' first
    | with_reducible assumption
    | with_reducible apply State.raise_kept
    | with_reducible apply State.put_kept
    | with_reducible apply kept_ite

theorem State.closeSpell_kept {cq : List Instr} (s : Machine.State) (b : Fin 2) (h_s : Kept cq s) :
    Kept cq (State.closeSpell s b) := by
  unfold State.closeSpell
  repeat' first
    | with_reducible assumption
    | with_reducible apply State.setDisc_kept
    | with_reducible apply kept_ite

theorem State.adjusted_kept {cq : List Instr} (s : Machine.State) (b : Fin 2) (h_s : Kept cq s) :
    Kept cq (State.adjusted s b) := by
  unfold State.adjusted
  repeat' first
    | with_reducible assumption
    | with_reducible apply State.setDom_kept
    | with_reducible apply State.setDisc_kept
    | with_reducible apply kept_ite

theorem State.showRem_kept {cq : List Instr} (s : Machine.State) (b : Fin 2) (h_s : Kept cq s) :
    Kept cq (State.showRem s b) := by
  unfold State.showRem
  repeat' first
    | with_reducible assumption
    | with_reducible apply State.wv_kept

theorem State.setRem_kept {cq : List Instr} (s : Machine.State) (b : Fin 2) (rem : ℤ) (slewing : Bool) (h_s :
    Kept cq s) : Kept cq (State.setRem s b rem slewing) := by
  unfold State.setRem
  repeat' first
    | with_reducible assumption
    | with_reducible apply State.showRem_kept
    | with_reducible apply State.setDisc_kept

theorem State.incWrite_kept {cq : List Instr} (s : Machine.State) (b : Fin 2) (hi : Bool) (val : Word) (h_s :
    Kept cq s) : Kept cq (State.incWrite s b hi val) := by
  unfold State.incWrite
  repeat' first
    | with_reducible assumption
    | with_reducible apply State.closeSpell_kept
    | with_reducible apply State.put_kept
    | with_reducible apply State.setReg_kept
    | with_reducible apply State.raise_kept
    | with_reducible apply State.bump_kept
    | with_reducible apply State.adjusted_kept
    | with_reducible apply State.setRem_kept
    | with_reducible apply kept_ite

theorem execIncWrite_kept {cq : List Instr} (b : Fin 2) (hi : Bool) (val : BitVec 32) (s : Machine.State) (h_s :
    Kept cq s) : ResultKept cq (execIncWrite b hi val s) := by
  unfold execIncWrite
  repeat' first
    | with_reducible assumption
    | with_reducible apply hostCmd_kept
    | with_reducible apply State.incWrite_kept
    | intro _

theorem State.adj_kept {cq : List Instr} (s : Machine.State) (b : Fin 2) (val : Word) (h_s : Kept cq s) :
    Kept cq (State.adj s b val) := by
  unfold State.adj
  repeat' first
    | with_reducible assumption
    | with_reducible apply State.adjusted_kept
    | with_reducible apply State.setRem_kept

theorem execAdj_kept {cq : List Instr} (b : Fin 2) (val : BitVec 32) (s : Machine.State) (h_s : Kept cq s) :
    ResultKept cq (execAdj b val s) := by
  unfold execAdj
  repeat' first
    | with_reducible assumption
    | with_reducible apply hostCmd_kept
    | with_reducible apply State.adj_kept
    | intro _

theorem State.domToFree_kept {cq : List Instr} (s : Machine.State) (b : Fin 2) (h_s : Kept cq s) :
    Kept cq (State.domToFree s b) := by
  unfold State.domToFree
  repeat' first
    | with_reducible assumption
    | with_reducible apply State.closeSpell_kept
    | with_reducible apply State.setDom_kept
    | with_reducible apply State.setRem_kept
    | with_reducible apply kept_ite

theorem State.showDiff_kept {cq : List Instr} (s : Machine.State) (h_s : Kept cq s) :
    Kept cq (State.showDiff s) := by
  unfold State.showDiff
  repeat' first
    | with_reducible assumption
    | with_reducible apply State.wv_kept

theorem State.switchDone_kept {cq : List Instr} (s : Machine.State) (h_s : Kept cq s) :
    Kept cq (State.switchDone s) := by
  unfold State.switchDone
  repeat' first
    | with_reducible assumption
    | with_reducible apply State.raise_kept
    | with_reducible apply State.put_kept
    | with_reducible apply kept_ite
    | simp only [kept_mk_iff]
    | with_reducible apply kept_fold

theorem State.setSource_kept {cq : List Instr} (s : Machine.State) (src : ℕ) (h_s : Kept cq s) :
    Kept cq (State.setSource s src) := by
  unfold State.setSource
  repeat' first
    | with_reducible assumption
    | with_reducible apply State.bump_kept
    | with_reducible apply State.put_kept
    | with_reducible apply State.showDiff_kept
    | with_reducible apply State.switchDone_kept
    | with_reducible apply State.raise_kept
    | with_reducible apply kept_ite

theorem State.tb2ctl_kept {cq : List Instr} (s : Machine.State) (val : Word) (h_s : Kept cq s) :
    Kept cq (State.tb2ctl s val) := by
  unfold State.tb2ctl
  repeat' first
    | with_reducible assumption
    | with_reducible apply State.put_kept
    | with_reducible apply State.setSource_kept
    | with_reducible apply kept_ite

theorem execTb2ctlWrite_kept {cq : List Instr} (val : BitVec 32) (s : Machine.State) (h_s : Kept cq s) :
    ResultKept cq (execTb2ctlWrite val s) := by
  unfold execTb2ctlWrite
  repeat' first
    | with_reducible assumption
    | with_reducible apply hostCmd_kept
    | with_reducible apply State.tb2ctl_kept
    | intro _

theorem State.holdover_kept {cq : List Instr} (s : Machine.State) (b : Fin 2) (h_s : Kept cq s) :
    Kept cq (State.holdover s b) := by
  unfold State.holdover
  repeat' first
    | with_reducible assumption
    | with_reducible apply State.closeSpell_kept
    | with_reducible apply State.setDisc_kept
    | with_reducible apply State.bump_kept
    | with_reducible apply State.setDom_kept
    | with_reducible apply State.raise_kept
    | with_reducible apply State.setSource_kept
    | with_reducible apply kept_ite

theorem execHoldoverEntry_kept {cq : List Instr} (b : Fin 2) (s : Machine.State) (h_s : Kept cq s) :
    ResultKept cq (execHoldoverEntry b s) := by
  unfold execHoldoverEntry
  repeat' first
    | with_reducible assumption
    | with_reducible apply State.holdover_kept
    | with_reducible apply resultKept_next

theorem State.ppsOut_kept {cq : List Instr} (s : Machine.State) (b : Fin 4) (was : BitVec 48) (h_s : Kept cq s)
    : Kept cq (State.ppsOut s b was) := by
  unfold State.ppsOut
  repeat' first
    | with_reducible assumption
    | with_reducible apply State.emit_kept
    | with_reducible apply kept_ite

theorem State.baseCmd_kept {cq : List Instr} (s : Machine.State) (b : Fin 4) (code : ℕ) (f : Machine.State →
    Machine.State) (h_s : Kept cq s) (h_f : ∀ (y0 : Machine.State), Kept cq y0 → Kept cq (f y0)) :
    Kept cq (State.baseCmd s b code f) := by
  unfold State.baseCmd
  repeat' first
    | with_reducible assumption
    | with_reducible apply State.post_kept
    | with_reducible apply State.showDiff_kept
    | with_reducible apply State.ppsOut_kept
    | with_reducible apply State.begin__kept
    | with_reducible apply h_f
    | with_reducible apply kept_ite

theorem State.afterSet_kept {cq : List Instr} (s : Machine.State) (b : Fin 4) (h_s : Kept cq s) :
    Kept cq (State.afterSet s b) := by
  unfold State.afterSet
  repeat' first
    | with_reducible assumption
    | with_reducible apply State.adjusted_kept
    | with_reducible apply State.setRem_kept
    | with_reducible apply kept_ite

theorem State.tbSet_kept {cq : List Instr} (s : Machine.State) (b : Fin 4) (h_s : Kept cq s) :
    Kept cq (State.tbSet s b) := by
  unfold State.tbSet
  repeat' first
    | with_reducible assumption
    | with_reducible apply State.baseCmd_kept
    | with_reducible apply State.afterSet_kept
    | with_reducible apply State.setTb_kept
    | intro _

theorem execTbSet_kept {cq : List Instr} (b : Fin 4) (s : Machine.State) (h_s : Kept cq s) :
    ResultKept cq (execTbSet b s) := by
  unfold execTbSet
  repeat' first
    | with_reducible assumption
    | with_reducible apply hostCmd_kept
    | with_reducible apply State.tbSet_kept
    | intro _

theorem State.tbStep_kept {cq : List Instr} (s : Machine.State) (b : Fin 4) (neg : Bool) (h_s : Kept cq s) :
    Kept cq (State.tbStep s b neg) := by
  unfold State.tbStep
  repeat' first
    | with_reducible assumption
    | with_reducible apply State.baseCmd_kept
    | with_reducible apply State.afterSet_kept
    | with_reducible apply State.setTb_kept
    | intro _

theorem execTbStep_kept {cq : List Instr} (b : Fin 4) (neg : Bool) (s : Machine.State) (h_s : Kept cq s) :
    ResultKept cq (execTbStep b neg s) := by
  unfold execTbStep
  repeat' first
    | with_reducible assumption
    | with_reducible apply hostCmd_kept
    | with_reducible apply State.tbStep_kept
    | intro _

theorem State.align_kept {cq : List Instr} (s : Machine.State) (b : Fin 4) (h_s : Kept cq s) :
    Kept cq (State.align s b) := by
  unfold State.align
  repeat' first
    | with_reducible assumption
    | with_reducible apply State.baseCmd_kept
    | with_reducible apply State.switchDone_kept
    | with_reducible apply State.setTb_kept
    | with_reducible apply State.tdmRealign_kept
    | with_reducible apply State.raise_kept
    | with_reducible apply State.bump_kept
    | simp only [kept_mk_iff]
    | with_reducible apply kept_fold
    | intro _

theorem execAlign_kept {cq : List Instr} (b : Fin 4) (s : Machine.State) (h_s : Kept cq s) :
    ResultKept cq (execAlign b s) := by
  unfold execAlign
  repeat' first
    | with_reducible assumption
    | with_reducible apply hostCmd_kept
    | with_reducible apply State.align_kept
    | intro _

theorem State.capture__kept {cq : List Instr} (s : Machine.State) (h_s : Kept cq s) :
    Kept cq (State.capture_ s) := by
  unfold State.capture_
  repeat' first
    | with_reducible assumption
    | with_reducible apply State.begin__kept
    | with_reducible apply State.setReg_kept
    | with_reducible apply State.wv_kept
    | with_reducible apply State.post_kept
    | with_reducible apply kept_ite
    | with_reducible refine each_kept _ _ (fun _ _ _ => ?_) ?_

theorem execCapture_kept {cq : List Instr} (s : Machine.State) (h_s : Kept cq s) :
    ResultKept cq (execCapture s) := by
  unfold execCapture
  repeat' first
    | with_reducible assumption
    | with_reducible apply hostCmd_kept
    | with_reducible apply State.capture__kept

theorem State.ppsIn_kept {cq : List Instr} (s : Machine.State) (rising : Bool) (h_s : Kept cq s) :
    Kept cq (State.ppsIn s rising) := by
  unfold State.ppsIn
  repeat' first
    | with_reducible assumption
    | with_reducible apply State.bump_kept
    | with_reducible apply State.setReg_kept
    | with_reducible apply State.wv_kept
    | with_reducible apply State.raise_kept
    | with_reducible apply State.post_kept
    | with_reducible apply kept_ite
    | with_reducible refine each_kept _ _ (fun _ _ _ => ?_) ?_
    | simp only [kept_mk_iff]
    | with_reducible apply kept_fold

theorem execPpsIn_kept {cq : List Instr} (rising : Bool) (s : Machine.State) (h_s : Kept cq s) :
    ResultKept cq (execPpsIn rising s) := by
  unfold execPpsIn
  repeat' first
    | with_reducible assumption
    | with_reducible apply State.ppsIn_kept
    | with_reducible apply resultKept_next

theorem State.refLost_kept {cq : List Instr} (s : Machine.State) (h_s : Kept cq s) :
    Kept cq (State.refLost s) := by
  unfold State.refLost
  repeat' first
    | with_reducible assumption
    | with_reducible apply State.raise_kept
    | with_reducible apply State.bump_kept
    | with_reducible apply State.put_kept

theorem execRefLoss_kept {cq : List Instr} (s : Machine.State) (h_s : Kept cq s) :
    ResultKept cq (execRefLoss s) := by
  unfold execRefLoss
  repeat' first
    | with_reducible assumption
    | with_reducible apply State.refLost_kept
    | with_reducible apply kept_ite
    | with_reducible apply resultKept_next

theorem State.refsel_kept {cq : List Instr} (s : Machine.State) (on : Bool) (h_s : Kept cq s) :
    Kept cq (State.refsel s on) := by
  unfold State.refsel
  repeat' first
    | with_reducible assumption
    | with_reducible apply State.put_kept
    | with_reducible apply State.draw_kept
    | with_reducible apply State.refLost_kept
    | with_reducible apply kept_ite

theorem State.setCal_kept {cq : List Instr} (s : Machine.State) (sec : ℕ) (h_s : Kept cq s) :
    Kept cq (State.setCal s sec) := by
  unfold State.setCal
  repeat' first
    | with_reducible assumption
    | with_reducible apply State.put_kept
    | simp only [kept_mk_iff]
    | with_reducible apply kept_fold

theorem State.calSet_kept {cq : List Instr} (s : Machine.State) (h_s : Kept cq s) :
    Kept cq (State.calSet s) := by
  unfold State.calSet
  repeat' first
    | with_reducible assumption
    | with_reducible apply State.post_kept
    | with_reducible apply State.setCal_kept
    | with_reducible apply State.begin__kept
    | with_reducible apply kept_ite

theorem execCalSet_kept {cq : List Instr} (s : Machine.State) (h_s : Kept cq s) :
    ResultKept cq (execCalSet s) := by
  unfold execCalSet
  repeat' first
    | with_reducible assumption
    | with_reducible apply hostCmd_kept
    | with_reducible apply State.calSet_kept

theorem State.calSync_kept {cq : List Instr} (s : Machine.State) (src : Fin 4) (h_s : Kept cq s) :
    Kept cq (State.calSync s src) := by
  unfold State.calSync
  repeat' first
    | with_reducible assumption
    | with_reducible apply State.begin__kept
    | with_reducible apply kept_ite
    | simp only [kept_mk_iff]
    | with_reducible apply kept_fold

theorem execSync_kept {cq : List Instr} (src : BitVec 2) (s : Machine.State) (h_s : Kept cq s) :
    ResultKept cq (execSync src s) := by
  unfold execSync
  repeat' first
    | with_reducible assumption
    | with_reducible apply hostCmd_kept
    | with_reducible apply State.calSync_kept
    | intro _

theorem State.syncApply_kept {cq : List Instr} (s : Machine.State) (h_s : Kept cq s) :
    Kept cq (State.syncApply s) := by
  unfold State.syncApply
  repeat' first
    | with_reducible assumption
    | with_reducible apply State.post_kept
    | with_reducible apply State.setCal_kept
    | with_reducible apply kept_ite
    | simp only [kept_mk_iff]
    | with_reducible apply kept_fold
    | split

theorem execSyncApply_kept {cq : List Instr} (s : Machine.State) (h_s : Kept cq s) :
    ResultKept cq (execSyncApply s) := by
  unfold execSyncApply
  repeat' first
    | with_reducible assumption
    | with_reducible apply State.syncApply_kept
    | with_reducible apply resultKept_next

theorem State.calAlarm_kept {cq : List Instr} (s : Machine.State) (h_s : Kept cq s) :
    Kept cq (State.calAlarm s) := by
  unfold State.calAlarm
  repeat' first
    | with_reducible assumption
    | with_reducible apply State.raise_kept
    | with_reducible apply State.wake_kept
    | with_reducible apply kept_ite
    | simp only [kept_mk_iff]
    | with_reducible apply kept_fold

theorem execCalendarAlarm_kept {cq : List Instr} (s : Machine.State) (h_s : Kept cq s) :
    ResultKept cq (execCalendarAlarm s) := by
  unfold execCalendarAlarm
  repeat' first
    | with_reducible assumption
    | with_reducible apply State.calAlarm_kept
    | with_reducible apply resultKept_next

theorem execVbatLow_kept {cq : List Instr} (s : Machine.State) (h_s : Kept cq s) :
    ResultKept cq (execVbatLow s) := by
  unfold execVbatLow
  repeat' first
    | with_reducible assumption
    | with_reducible apply State.wv_kept
    | with_reducible apply resultKept_next
    | simp only [kept_mk_iff]
    | with_reducible apply kept_fold

theorem State.calTick_kept {cq : List Instr} (s : Machine.State) (h_s : Kept cq s) :
    Kept cq (State.calTick s) := by
  unfold State.calTick
  repeat' first
    | with_reducible assumption
    | with_reducible apply kept_ite
    | simp only [kept_mk_iff]
    | with_reducible apply kept_fold

theorem State.loadBases_kept {cq : List Instr} (s : Machine.State) (h_s : Kept cq s) :
    Kept cq (State.loadBases s) := by
  unfold State.loadBases
  repeat' first
    | with_reducible assumption
    | simp only [kept_mk_iff]
    | with_reducible apply kept_fold

theorem State.slewTick_kept {cq : List Instr} (s : Machine.State) (b : Fin 2) (h_s : Kept cq s) :
    Kept cq (State.slewTick s b) := by
  unfold State.slewTick
  repeat' first
    | with_reducible assumption
    | with_reducible apply State.setRem_kept
    | with_reducible apply kept_ite

theorem State.basesTick_kept {cq : List Instr} (s : Machine.State) (h_s : Kept cq s) :
    Kept cq (State.basesTick s) := by
  unfold State.basesTick
  repeat' first
    | with_reducible assumption
    | with_reducible apply State.switchDone_kept
    | with_reducible apply State.slewTick_kept
    | with_reducible apply State.showDiff_kept
    | with_reducible apply State.wv_kept
    | simp only [kept_mk_iff]
    | with_reducible apply kept_fold

theorem State.mirrorTick_kept {cq : List Instr} (s : Machine.State) (i : Vector ℕ 4) (h_s : Kept cq s) :
    Kept cq (State.mirrorTick s i) := by
  unfold State.mirrorTick
  repeat' first
    | with_reducible assumption
    | with_reducible apply State.put_kept
    | with_reducible apply kept_ite
    | simp only [kept_mk_iff]
    | with_reducible apply kept_fold

theorem execMirrorCorrection_kept {cq : List Instr} (s : Machine.State) (h_s : Kept cq s) :
    ResultKept cq (execMirrorCorrection s) := by
  unfold execMirrorCorrection
  repeat' first
    | with_reducible assumption
    | with_reducible apply State.put_kept
    | with_reducible apply kept_ite
    | with_reducible apply resultKept_next
    | simp only [kept_mk_iff]
    | with_reducible apply kept_fold

theorem State.wdtTick_kept {cq : List Instr} (s : Machine.State) (h_s : Kept cq s) :
    Kept cq (State.wdtTick s) := by
  unfold State.wdtTick
  repeat' first
    | with_reducible assumption
    | with_reducible apply State.wv_kept
    | with_reducible apply kept_ite
    | simp only [kept_mk_iff]
    | with_reducible apply kept_fold

theorem State.tick_kept {cq : List Instr} (s : Machine.State) (h_s : Kept cq s) : Kept cq (State.tick s) := by
  unfold State.tick
  repeat' first
    | with_reducible assumption
    | with_reducible apply State.mirrorTick_kept
    | with_reducible apply State.basesTick_kept
    | with_reducible apply State.ppsOut_kept
    | with_reducible apply State.wdtTick_kept
    | with_reducible apply State.calTick_kept
    | with_reducible refine each_kept _ _ (fun _ _ _ => ?_) ?_

theorem execTimeTick_kept {cq : List Instr} (s : Machine.State) (h_s : Kept cq s) :
    ResultKept cq (execTimeTick s) := by
  unfold execTimeTick
  repeat' first
    | with_reducible assumption
    | with_reducible apply State.calTick_kept
    | with_reducible apply State.tick_kept
    | with_reducible apply kept_ite
    | with_reducible apply resultKept_next

end Sys2Proof.Machine
end

