-- ==== Sys2Proof/Laws/KeptEthernet.lean ====
section
/-!
SUPPORT. What the operations of Machine/Ethernet.lean keep (Laws/Kept.lean).
-/

namespace Sys2Proof.Machine

theorem State.setMac_kept {cq : List Instr} (s : Machine.State) (m : ℕ) (x : Mac) (h_s : Kept cq s) :
    Kept cq (State.setMac s m x) := by
  unfold State.setMac
  repeat' first
    | with_reducible assumption
    | simp only [kept_mk_iff]
    | with_reducible apply kept_macs
    | with_reducible exact swf_sset _ _ _ _

theorem State.macBumpBy_kept {cq : List Instr} (s : Machine.State) (m : ℕ) (ctr : ℕ) (n : ℕ) (h_s : Kept cq s) :
    Kept cq (State.macBumpBy s m ctr n) := by
  unfold State.macBumpBy
  repeat' first
    | with_reducible assumption
    | with_reducible apply State.bumpBy_kept

theorem State.macBump_kept {cq : List Instr} (s : Machine.State) (m : ℕ) (ctr : ℕ) (h_s : Kept cq s) :
    Kept cq (State.macBump s m ctr) := by
  unfold State.macBump
  repeat' first
    | with_reducible assumption
    | with_reducible apply State.macBumpBy_kept

theorem State.setLink_kept {cq : List Instr} (s : Machine.State) (m : ℕ) (on : Bool) (h_s : Kept cq s) :
    Kept cq (State.setLink s m on) := by
  unfold State.setLink
  repeat' first
    | with_reducible assumption
    | with_reducible apply State.raise_kept
    | with_reducible apply State.put_kept
    | with_reducible apply kept_ite

theorem State.linkChange_kept {cq : List Instr} (s : Machine.State) (m : ℕ) (lock : BitVec 8) (h_s : Kept cq s)
    : Kept cq (State.linkChange s m lock) := by
  unfold State.linkChange
  repeat' first
    | with_reducible assumption
    | with_reducible apply State.setLink_kept
    | with_reducible apply State.setMac_kept
    | with_reducible apply State.put_kept
    | with_reducible apply State.macBump_kept
    | with_reducible apply State.raise_kept
    | with_reducible apply kept_ite

theorem execLinkChange_kept {cq : List Instr} (m : Fin 5) (lock : BitVec 8) (s : Machine.State) (h_s : Kept cq
    s) : ResultKept cq (execLinkChange m lock s) := by
  unfold execLinkChange
  repeat' first
    | with_reducible assumption
    | with_reducible apply State.linkChange_kept
    | with_reducible apply resultKept_next

theorem State.macCtrl_kept {cq : List Instr} (s : Machine.State) (m : ℕ) (v : ℕ) (h_s : Kept cq s) :
    Kept cq (State.macCtrl s m v) := by
  unfold State.macCtrl
  repeat' first
    | with_reducible assumption
    | with_reducible apply State.wv_kept
    | with_reducible apply State.setLink_kept
    | with_reducible apply kept_ite

theorem State.ringWrite_kept {cq : List Instr} (s : Machine.State) (dpa : Bool) (a : ℕ) (bs : List Byte) (h_s :
    Kept cq s) : Kept cq (State.ringWrite s dpa a bs) := by
  unfold State.ringWrite
  repeat' first
    | with_reducible assumption
    | with_reducible apply State.write_kept
    | with_reducible apply State.hostStore_kept
    | with_reducible apply kept_ite

theorem State.ringData_kept {cq : List Instr} (s : Machine.State) (dpa : Bool) (a : ℕ) (bs : List Byte) (h_s :
    Kept cq s) : Kept cq (State.ringData s dpa a bs) := by
  unfold State.ringData
  repeat' first
    | with_reducible assumption
    | with_reducible apply State.write_kept
    | with_reducible apply State.hostStore_kept
    | with_reducible apply kept_ite

theorem State.queueBump_kept {cq : List Instr} (s : Machine.State) (ctr : ℕ) (h_s : Kept cq s) :
    Kept cq (State.queueBump s ctr) := by
  unfold State.queueBump
  repeat' first
    | with_reducible assumption
    | with_reducible apply State.bump_kept

theorem State.rqData_kept {cq : List Instr} (s : Machine.State) (q : ℕ) (f : List Byte) (i : ℕ) (h_s : Kept cq
    s) : Kept cq (State.rqData s q f i) := by
  unfold State.rqData
  repeat' first
    | with_reducible assumption
    | with_reducible apply State.ringData_kept
    | with_reducible apply kept_ite

theorem State.rqRing_kept {cq : List Instr} (s : Machine.State) (q : ℕ) (m : ℕ) (rule : ℕ) (stamp : ℕ) (f : List
    Byte) (h_s : Kept cq s) : Kept cq (State.rqRing s q m rule stamp f) := by
  unfold State.rqRing
  repeat' first
    | with_reducible assumption
    | with_reducible apply State.rqData_kept
    | with_reducible apply State.queueBump_kept
    | with_reducible apply State.ringWrite_kept
    | with_reducible apply State.put_kept
    | with_reducible apply kept_ite
    | with_reducible refine each_kept _ _ (fun _ _ _ => ?_) ?_

theorem State.rqCask_kept {cq : List Instr} (s : Machine.State) (q : ℕ) (m : Fin 5) (rule : ℕ) (stamp : ℕ) (f :
    List Byte) (h_s : Kept cq s) : Kept cq (State.rqCask s q m rule stamp f) := by
  unfold State.rqCask
  repeat' first
    | with_reducible assumption
    | with_reducible apply State.queueBump_kept
    | with_reducible apply State.postPacket_kept
    | with_reducible apply kept_ite

theorem State.toQueue_kept {cq : List Instr} (s : Machine.State) (q : ℕ) (m : Fin 5) (rule : ℕ) (f : List Byte)
    (h_s : Kept cq s) : Kept cq (State.toQueue s q m rule f) := by
  unfold State.toQueue
  repeat' first
    | with_reducible assumption
    | with_reducible apply State.queueBump_kept
    | with_reducible apply State.rqCask_kept
    | with_reducible apply State.draw_kept
    | with_reducible apply State.rqRing_kept
    | with_reducible apply kept_ite

theorem execRqTail_kept {cq : List Instr} (q : Fin 64) (tail : BitVec 16) (cells : List (ℕ × BitVec 8)) (s :
    Machine.State) (h_s : Kept cq s) : ResultKept cq (execRqTail q tail cells s) := by
  unfold execRqTail
  repeat' first
    | with_reducible assumption
    | with_reducible apply hostCmd_kept
    | with_reducible apply State.hostCells_kept
    | with_reducible apply State.put_kept
    | intro _

theorem State.rtcpIn_kept {cq : List Instr} (s : Machine.State) (m : Fin 5) (f : List Byte) (p : Parsed) (img :
    List Byte) (tag : ℕ) (h_s : Kept cq s) : Kept cq (State.rtcpIn s m f p img tag) := by
  unfold State.rtcpIn
  repeat' first
    | with_reducible assumption
    | with_reducible apply State.rtcpReceive_kept
    | with_reducible apply State.clsBump_kept
    | with_reducible apply State.toQueue_kept
    | simp only [kept_mk_iff]
    | split

theorem State.toPlayout_kept {cq : List Instr} (s : Machine.State) (m : Fin 5) (f : List Byte) (p : Parsed) (img
    : List Byte) (tag : ℕ) (udptl : Bool) (h_s : Kept cq s) :
    Kept cq (State.toPlayout s m f p img tag udptl) := by
  unfold State.toPlayout
  repeat' first
    | with_reducible assumption
    | simp only [kept_mk_iff]
    | with_reducible apply kept_fold

theorem State.rtpIn_kept {cq : List Instr} (s : Machine.State) (m : Fin 5) (f : List Byte) (p : Parsed) (img :
    List Byte) (tag : ℕ) (h_s : Kept cq s) : Kept cq (State.rtpIn s m f p img tag) := by
  unfold State.rtpIn
  repeat' first
    | with_reducible assumption
    | with_reducible apply State.clsBump_kept
    | with_reducible apply State.rtcpIn_kept
    | with_reducible apply State.toQueue_kept
    | with_reducible apply State.toPlayout_kept
    | with_reducible apply kept_ite
    | extract_lets
    | split

theorem State.deliverFrame_kept {cq : List Instr} (s : Machine.State) (m : Fin 5) (f : List Byte) (p : Parsed)
    (tag : ℕ) (v : Verdict) (h_s : Kept cq s) : Kept cq (State.deliverFrame s m f p tag v) := by
  unfold State.deliverFrame
  repeat' first
    | with_reducible assumption
    | with_reducible apply State.clsBump_kept
    | with_reducible apply State.rtpIn_kept
    | with_reducible apply State.rtcpIn_kept
    | with_reducible apply State.toPlayout_kept
    | with_reducible apply State.toQueue_kept
    | with_reducible apply kept_ite
    | simp only [kept_mk_iff]
    | split

theorem State.traceMacOne_kept {cq : List Instr} (s : Machine.State) (d : ℕ) (q : ℕ) (tag : ℕ) (f : List Byte)
    (w : FrameView) (tx : Bool) (h_s : Kept cq s) : Kept cq (State.traceMacOne s d q tag f w tx) := by
  unfold State.traceMacOne
  repeat' first
    | with_reducible assumption
    | with_reducible apply State.capture_kept
    | with_reducible apply State.raise_kept
    | with_reducible apply State.draw_kept
    | with_reducible apply State.setProbe_kept
    | with_reducible apply kept_ite

theorem State.traceMac_kept {cq : List Instr} (s : Machine.State) (m : ℕ) (tag : ℕ) (f : List Byte) (w :
    FrameView) (tx : Bool) (h_s : Kept cq s) : Kept cq (State.traceMac s m tag f w tx) := by
  unfold State.traceMac
  repeat' first
    | with_reducible assumption
    | with_reducible apply State.traceMacOne_kept
    | with_reducible refine each_kept _ _ (fun _ _ _ => ?_) ?_

theorem State.resume_kept {cq : List Instr} (s : Machine.State) (m : ℕ) (h_s : Kept cq s) :
    Kept cq (State.resume s m) := by
  unfold State.resume
  repeat' first
    | with_reducible assumption
    | with_reducible apply State.put_kept
    | with_reducible apply State.setMac_kept

theorem State.pauseIn_kept {cq : List Instr} (s : Machine.State) (m : ℕ) (f : List Byte) (h_s : Kept cq s) :
    Kept cq (State.pauseIn s m f) := by
  unfold State.pauseIn
  repeat' first
    | with_reducible assumption
    | with_reducible apply State.macBump_kept
    | with_reducible apply State.resume_kept
    | with_reducible apply State.put_kept
    | with_reducible apply State.setMac_kept
    | with_reducible apply kept_ite

theorem State.pauseExpires_kept {cq : List Instr} (s : Machine.State) (m : ℕ) (h_s : Kept cq s) :
    Kept cq (State.pauseExpires s m) := by
  unfold State.pauseExpires
  repeat' first
    | with_reducible assumption
    | with_reducible apply State.resume_kept
    | with_reducible apply kept_ite
    | split

theorem execPauseExpiry_kept {cq : List Instr} (m : Fin 5) (s : Machine.State) (h_s : Kept cq s) :
    ResultKept cq (execPauseExpiry m s) := by
  unfold execPauseExpiry
  repeat' first
    | with_reducible assumption
    | with_reducible apply State.pauseExpires_kept
    | with_reducible apply resultKept_next

theorem State.pauseWatch_kept {cq : List Instr} (s : Machine.State) (m : ℕ) (h_s : Kept cq s) :
    Kept cq (State.pauseWatch s m) := by
  unfold State.pauseWatch
  repeat' first
    | with_reducible assumption
    | with_reducible apply State.pauseExpires_kept
    | with_reducible apply State.resume_kept
    | with_reducible apply State.setMac_kept
    | with_reducible apply State.raise_kept
    | with_reducible apply State.macBump_kept
    | with_reducible apply kept_ite
    | simp only [kept_mk_iff]
    | split

theorem execPauseWatchdog_kept {cq : List Instr} (m : Fin 5) (s : Machine.State) (h_s : Kept cq s) :
    ResultKept cq (execPauseWatchdog m s) := by
  unfold execPauseWatchdog
  repeat' first
    | with_reducible assumption
    | with_reducible apply State.pauseWatch_kept
    | with_reducible apply resultKept_next

theorem State.wakeFrame_kept {cq : List Instr} (s : Machine.State) (m : ℕ) (f : List Byte) (h_s : Kept cq s) :
    Kept cq (State.wakeFrame s m f) := by
  unfold State.wakeFrame
  repeat' first
    | with_reducible assumption
    | with_reducible apply State.wake_kept
    | with_reducible apply kept_ite

theorem State.countRx_kept {cq : List Instr} (s : Machine.State) (m : ℕ) (frame : List Byte) (h_s : Kept cq s) :
    Kept cq (State.countRx s m frame) := by
  unfold State.countRx
  repeat' first
    | with_reducible assumption
    | with_reducible apply State.macBumpBy_kept
    | with_reducible apply State.macBump_kept
    | with_reducible apply kept_ite

theorem State.classify_kept {cq : List Instr} (s : Machine.State) (m : Fin 5) (f : List Byte) (h_s : Kept cq s)
    : Kept cq (State.classify s m f) := by
  unfold State.classify
  repeat' first
    | with_reducible assumption
    | with_reducible apply State.traceMac_kept
    | with_reducible apply State.deliverFrame_kept
    | with_reducible apply State.clsBump_kept

theorem State.macReceive_kept {cq : List Instr} (s : Machine.State) (m : Fin 5) (frame : List Byte) (fcsOk :
    Bool) (looped : Bool) (h_s : Kept cq s) : Kept cq (State.macReceive s m frame fcsOk looped) := by
  unfold State.macReceive
  repeat' first
    | with_reducible assumption
    | with_reducible apply State.macBump_kept
    | with_reducible apply State.raise_kept
    | with_reducible apply State.pauseIn_kept
    | with_reducible apply State.countRx_kept
    | with_reducible apply State.wakeFrame_kept
    | with_reducible apply State.classify_kept
    | with_reducible apply kept_ite
    | simp only [kept_mk_iff]
    | split

theorem execFrameReceive_kept {cq : List Instr} (m : Fin 5) (frame : List (BitVec 8)) (fcsOk : Bool) (s :
    Machine.State) (h_s : Kept cq s) : ResultKept cq (execFrameReceive m frame fcsOk s) := by
  unfold execFrameReceive
  repeat' first
    | with_reducible assumption
    | with_reducible apply State.macReceive_kept
    | with_reducible apply resultKept_next

theorem State.mdio_kept {cq : List Instr} (s : Machine.State) (op : BitVec 3) (phy : BitVec 5) (reg : BitVec 5)
    (data : BitVec 16) (read : Bool) (h_s : Kept cq s) : Kept cq (State.mdio s op phy reg data read) := by
  unfold State.mdio
  repeat' first
    | with_reducible assumption
    | with_reducible apply State.emit_kept
    | with_reducible apply State.begin__kept
    | with_reducible apply State.post_kept
    | with_reducible apply State.put_kept
    | with_reducible apply kept_ite

theorem execMdioC22Read_kept {cq : List Instr} (phy : BitVec 5) (reg : BitVec 5) (data : BitVec 16) (s :
    Machine.State) (h_s : Kept cq s) : ResultKept cq (execMdioC22Read phy reg data s) := by
  unfold execMdioC22Read
  repeat' first
    | with_reducible assumption
    | with_reducible apply hostCmd_kept
    | with_reducible apply State.mdio_kept
    | intro _

theorem execMdioC22Write_kept {cq : List Instr} (phy : BitVec 5) (reg : BitVec 5) (data : BitVec 16) (s :
    Machine.State) (h_s : Kept cq s) : ResultKept cq (execMdioC22Write phy reg data s) := by
  unfold execMdioC22Write
  repeat' first
    | with_reducible assumption
    | with_reducible apply hostCmd_kept
    | with_reducible apply State.mdio_kept
    | intro _

theorem execMdioC45Address_kept {cq : List Instr} (phy : BitVec 5) (dev : BitVec 5) (addr : BitVec 16) (s :
    Machine.State) (h_s : Kept cq s) : ResultKept cq (execMdioC45Address phy dev addr s) := by
  unfold execMdioC45Address
  repeat' first
    | with_reducible assumption
    | with_reducible apply hostCmd_kept
    | with_reducible apply State.mdio_kept
    | intro _

theorem execMdioC45Write_kept {cq : List Instr} (phy : BitVec 5) (dev : BitVec 5) (data : BitVec 16) (s :
    Machine.State) (h_s : Kept cq s) : ResultKept cq (execMdioC45Write phy dev data s) := by
  unfold execMdioC45Write
  repeat' first
    | with_reducible assumption
    | with_reducible apply hostCmd_kept
    | with_reducible apply State.mdio_kept
    | intro _

theorem execMdioC45Read_kept {cq : List Instr} (phy : BitVec 5) (dev : BitVec 5) (data : BitVec 16) (s :
    Machine.State) (h_s : Kept cq s) : ResultKept cq (execMdioC45Read phy dev data s) := by
  unfold execMdioC45Read
  repeat' first
    | with_reducible assumption
    | with_reducible apply hostCmd_kept
    | with_reducible apply State.mdio_kept
    | intro _

end Sys2Proof.Machine
end

