-- ==== Sys2Proof/Laws/KeptEthTx.lean ====
section
/-!
SUPPORT. What the operations of Machine/EthTx.lean keep (Laws/Kept.lean).
-/

namespace Sys2Proof.Machine

theorem State.countDrop_kept {cq : List Instr} (s : Machine.State) (m : ℕ) (status : ℕ) (h_s : Kept cq s) :
    Kept cq (State.countDrop s m status) := by
  unfold State.countDrop
  repeat' first
    | with_reducible assumption
    | with_reducible apply State.raise_kept
    | with_reducible apply State.macBump_kept
    | with_reducible apply kept_ite

theorem State.startFrame_kept {cq : List Instr} (s : Machine.State) (m : ℕ) (f : List Byte) (status : ℕ) (tag :
    ℕ) (ret : Option ℕ) (tq : Option (ℕ × ℕ × Bool)) (tsreq : Bool) (onestep : Bool) (tsb : ℕ) (tsoff : ℕ) (h_s
    : Kept cq s) : Kept cq (State.startFrame s m f status tag ret tq tsreq onestep tsb tsoff) := by
  unfold State.startFrame
  repeat' first
    | with_reducible assumption
    | with_reducible apply State.countDrop_kept
    | with_reducible apply State.setMac_kept
    | with_reducible apply State.draw_kept

theorem State.nextSegment_kept {cq : List Instr} (s : Machine.State) (m : ℕ) (q : ℕ) (t : TxSend) (h_s : Kept cq
    s) : Kept cq (State.nextSegment s m q t) := by
  unfold State.nextSegment
  repeat' first
    | with_reducible assumption
    | with_reducible apply State.startFrame_kept
    | simp only [kept_mk_iff]
    | with_reducible apply kept_txSends
    | intro _
    | extract_lets
    | exact srising_sput _ _ _ (by assumption)
    | exact srising_sdel _ _ (by assumption)
    | split

theorem State.takeQueue_kept {cq : List Instr} (s : Machine.State) (m : ℕ) (q : ℕ) (h_s : Kept cq s) :
    Kept cq (State.takeQueue s m q) := by
  unfold State.takeQueue
  repeat' first
    | with_reducible assumption
    | with_reducible apply State.nextSegment_kept
    | with_reducible apply State.startFrame_kept
    | with_reducible apply State.setMac_kept
    | simp only [kept_mk_iff]
    | split

theorem execTqTail_kept {cq : List Instr} (q : Fin 16) (tail : BitVec 16) (cells : List (ℕ × BitVec 8)) (s :
    Machine.State) (h_s : Kept cq s) : ResultKept cq (execTqTail q tail cells s) := by
  unfold execTqTail
  repeat' first
    | with_reducible assumption
    | with_reducible apply hostCmd_kept
    | with_reducible apply State.hostCells_kept
    | with_reducible apply State.put_kept
    | intro _

theorem State.egressFrameOf_kept {cq : List Instr} (s : Machine.State) (m : ℕ) (ws : List CWord) (h_s : Kept cq
    s) : Kept cq (State.egressFrameOf s m ws).1 := by
  unfold State.egressFrameOf
  repeat' first
    | with_reducible assumption
    | with_reducible apply kept_ite_fst
    | simp only [kept_mk_iff]
    | with_reducible apply kept_txBufs
    | with_reducible exact fun h => srising_sdel _ _ h
    | extract_lets
    | split

theorem State.takeEgress_kept {cq : List Instr} (s : Machine.State) (m : ℕ) (h_s : Kept cq s) :
    Kept cq (State.takeEgress s m) := by
  unfold State.takeEgress
  repeat' first
    | with_reducible assumption
    | with_reducible apply State.takePacket_kept
    | with_reducible apply State.egressFrameOf_kept
    | with_reducible apply State.startFrame_kept
    | with_reducible apply kept_ite_fst
    | simp only [kept_mk_iff]
    | split

theorem State.macTransmits_kept {cq : List Instr} (s : Machine.State) (m : ℕ) (h_s : Kept cq s) :
    Kept cq (State.macTransmits s m) := by
  unfold State.macTransmits
  repeat' first
    | with_reducible assumption
    | with_reducible apply State.takeEgress_kept
    | with_reducible apply State.takeQueue_kept
    | with_reducible apply kept_ite
    | simp only [kept_mk_iff]
    | split

theorem execMacTransmit_kept {cq : List Instr} (m : Fin 5) (s : Machine.State) (h_s : Kept cq s) :
    ResultKept cq (execMacTransmit m s) := by
  unfold execMacTransmit
  repeat' first
    | with_reducible assumption
    | with_reducible apply State.macTransmits_kept
    | with_reducible apply resultKept_next

theorem State.postReturn_kept {cq : List Instr} (s : Machine.State) (m : Fin 5) (h : ℕ) (w : BitVec 128) (h_s :
    Kept cq s) : Kept cq (State.postReturn s m h w) := by
  unfold State.postReturn
  repeat' first
    | with_reducible assumption
    | with_reducible apply State.macBump_kept
    | with_reducible apply State.postRecord_kept
    | with_reducible apply kept_ite

theorem State.tqComplete_kept {cq : List Instr} (s : Machine.State) (q : ℕ) (eop : ℕ) (status : ℕ) (stamp :
    Option ℕ) (h_s : Kept cq s) : Kept cq (State.tqComplete s q eop status stamp) := by
  unfold State.tqComplete
  repeat' first
    | with_reducible assumption
    | with_reducible apply State.ringWrite_kept
    | with_reducible apply State.put_kept
    | with_reducible apply State.queueBump_kept
    | with_reducible apply kept_ite

theorem State.frameOut_kept {cq : List Instr} (s : Machine.State) (m : Fin 5) (x : Sending) (h_s : Kept cq s) :
    Kept cq (State.frameOut s m x) := by
  unfold State.frameOut
  repeat' first
    | with_reducible assumption
    | with_reducible apply State.macBumpBy_kept
    | with_reducible apply State.macBump_kept
    | with_reducible apply State.traceMac_kept
    | with_reducible apply State.queueBump_kept
    | with_reducible apply State.macReceive_kept
    | with_reducible apply State.emit_kept
    | with_reducible apply kept_ite
    | extract_lets
    | split

theorem State.macTransmitEnds_kept {cq : List Instr} (s : Machine.State) (m : Fin 5) (h_s : Kept cq s) :
    Kept cq (State.macTransmitEnds s m) := by
  unfold State.macTransmitEnds
  repeat' first
    | with_reducible assumption
    | with_reducible apply State.setMac_kept
    | with_reducible apply State.draw_kept
    | with_reducible apply State.frameOut_kept
    | with_reducible apply State.postReturn_kept
    | with_reducible apply State.tqComplete_kept
    | with_reducible apply kept_ite
    | simp only [kept_mk_iff]
    | extract_lets
    | split

theorem execMacTransmitEnd_kept {cq : List Instr} (m : Fin 5) (s : Machine.State) (h_s : Kept cq s) :
    ResultKept cq (execMacTransmitEnd m s) := by
  unfold execMacTransmitEnd
  repeat' first
    | with_reducible assumption
    | with_reducible apply State.macTransmitEnds_kept
    | with_reducible apply resultKept_next

theorem State.sendPause_kept {cq : List Instr} (s : Machine.State) (m : Fin 5) (q : ℕ) (h_s : Kept cq s) :
    Kept cq (State.sendPause s m q) := by
  unfold State.sendPause
  repeat' first
    | with_reducible assumption
    | with_reducible apply State.macBump_kept
    | with_reducible apply State.macReceive_kept
    | with_reducible apply State.emit_kept
    | with_reducible apply kept_ite

theorem State.pauseSends_kept {cq : List Instr} (s : Machine.State) (m : Fin 5) (h_s : Kept cq s) :
    Kept cq (State.pauseSends s m) := by
  unfold State.pauseSends
  repeat' first
    | with_reducible assumption
    | with_reducible apply State.sendPause_kept
    | with_reducible apply State.setMac_kept
    | with_reducible apply kept_ite

theorem execPauseFrameSend_kept {cq : List Instr} (m : Fin 5) (s : Machine.State) (h_s : Kept cq s) :
    ResultKept cq (execPauseFrameSend m s) := by
  unfold execPauseFrameSend
  repeat' first
    | with_reducible assumption
    | with_reducible apply State.pauseSends_kept
    | with_reducible apply resultKept_next

theorem State.collides_kept {cq : List Instr} (s : Machine.State) (late : Bool) (h_s : Kept cq s) :
    Kept cq (State.collides s late) := by
  unfold State.collides
  repeat' first
    | with_reducible assumption
    | with_reducible apply State.macBump_kept
    | with_reducible apply State.setMac_kept
    | with_reducible apply kept_ite
    | simp only [kept_mk_iff]
    | split

theorem execCollision_kept {cq : List Instr} (late : Bool) (s : Machine.State) (h_s : Kept cq s) :
    ResultKept cq (execCollision late s) := by
  unfold execCollision
  repeat' first
    | with_reducible assumption
    | with_reducible apply State.collides_kept
    | with_reducible apply resultKept_next

theorem State.tqCfg_kept {cq : List Instr} (s : Machine.State) (q : ℕ) (v : ℕ) (h_s : Kept cq s) :
    Kept cq (State.tqCfg s q v) := by
  unfold State.tqCfg
  repeat' first
    | with_reducible assumption
    | with_reducible apply State.put_kept
    | with_reducible apply State.raise_kept
    | with_reducible apply kept_ite
    | simp only [kept_mk_iff]
    | with_reducible apply kept_txSends
    | exact fun h => srising_sdel _ _ h

theorem State.rqCfg_kept {cq : List Instr} (s : Machine.State) (q : ℕ) (v : ℕ) (h_s : Kept cq s) :
    Kept cq (State.rqCfg s q v) := by
  unfold State.rqCfg
  repeat' first
    | with_reducible assumption
    | with_reducible apply State.put_kept
    | with_reducible apply State.wv_kept
    | with_reducible apply kept_ite

end Sys2Proof.Machine
end

