-- ==== Sys2Proof/Laws/KeptDmaHost.lean ====
section
/-!
SUPPORT. What the operations of Machine/DmaHost.lean keep (Laws/Kept.lean).
-/

namespace Sys2Proof.Machine

theorem State.setDma_kept {cq : List Instr} (s : Machine.State) (c : ℕ) (x : Dma) (h_s : Kept cq s) :
    Kept cq (State.setDma s c x) := by
  unfold State.setDma
  repeat' first
    | with_reducible assumption
    | simp only [kept_mk_iff]
    | with_reducible apply kept_dmas
    | with_reducible exact swf_sset _ _ _ _

theorem State.dmaBlock_kept {cq : List Instr} (s : Machine.State) (c : ℕ) (code : ℕ) (tag : Option ℕ) (h_s :
    Kept cq s) : Kept cq (State.dmaBlock s c code tag) := by
  unfold State.dmaBlock
  repeat' first
    | with_reducible assumption
    | with_reducible apply State.ringWrite_kept
    | with_reducible apply kept_ite

theorem State.dmaStop_kept {cq : List Instr} (s : Machine.State) (c : ℕ) (code : ℕ) (tag : Option ℕ) (h_s : Kept
    cq s) : Kept cq (State.dmaStop s c code tag) := by
  unfold State.dmaStop
  repeat' first
    | with_reducible assumption
    | with_reducible apply State.put_kept
    | with_reducible apply State.raise_kept
    | with_reducible apply State.dmaBlock_kept
    | with_reducible apply State.setDma_kept

theorem State.dmaCfg_kept {cq : List Instr} (s : Machine.State) (c : ℕ) (v : ℕ) (h_s : Kept cq s) :
    Kept cq (State.dmaCfg s c v) := by
  unfold State.dmaCfg
  repeat' first
    | with_reducible assumption
    | with_reducible apply State.setDma_kept
    | with_reducible apply State.put_kept
    | with_reducible apply State.wv_kept
    | with_reducible apply kept_ite

theorem execDmaEnable_kept {cq : List Instr} (c : Fin 4) (val : BitVec 32) (s : Machine.State) (h_s : Kept cq s)
    : ResultKept cq (execDmaEnable c val s) := by
  unfold execDmaEnable
  repeat' first
    | with_reducible assumption
    | with_reducible apply hostCmd_kept
    | with_reducible apply State.dmaCfg_kept
    | intro _

theorem execDmaHostcnt_kept {cq : List Instr} (c : Fin 4) (cnt : BitVec 16) (cells : List (ℕ × BitVec 8)) (s :
    Machine.State) (h_s : Kept cq s) : ResultKept cq (execDmaHostcnt c cnt cells s) := by
  unfold execDmaHostcnt
  repeat' first
    | with_reducible assumption
    | with_reducible apply hostCmd_kept
    | with_reducible apply State.hostCells_kept
    | with_reducible apply State.put_kept
    | intro _

theorem State.copyOut_kept {cq : List Instr} (s : Machine.State) (h : ℕ) (a : ℕ) (n : ℕ) (h_s : Kept cq s) :
    Kept cq (State.copyOut s h a n) := by
  unfold State.copyOut
  repeat' first
    | with_reducible assumption
    | with_reducible apply State.hostStore_kept
    | with_reducible refine kept_foldl _ _ (fun _ _ _ => ?_) ?_

theorem State.copyIn_kept {cq : List Instr} (s : Machine.State) (h : ℕ) (a : ℕ) (n : ℕ) (h_s : Kept cq s) :
    Kept cq (State.copyIn s h a n) := by
  unfold State.copyIn
  repeat' first
    | with_reducible assumption
    | with_reducible apply State.write_kept
    | with_reducible apply State.poisonWord_kept
    | with_reducible refine kept_foldl _ _ (fun _ _ _ => ?_) ?_

theorem State.copyNext_kept {cq : List Instr} (s : Machine.State) (c : ℕ) (hostErr : Bool) (ecc : Ecc) (h_s :
    Kept cq s) : Kept cq (State.copyNext s c hostErr ecc) := by
  unfold State.copyNext
  repeat' first
    | with_reducible assumption
    | with_reducible apply State.dmaStop_kept
    | with_reducible apply State.eccAt_kept
    | with_reducible apply State.copyOut_kept
    | with_reducible apply State.copyIn_kept
    | with_reducible apply State.ringWrite_kept
    | with_reducible apply State.put_kept
    | with_reducible apply State.dmaBlock_kept
    | with_reducible apply State.errClass_kept
    | with_reducible apply State.raise_kept
    | with_reducible apply kept_ite

theorem execDmaDescriptor_kept {cq : List Instr} (c : Fin 4) (hostErr : Bool) (ecc : Ecc) (s : Machine.State)
    (h_s : Kept cq s) : ResultKept cq (execDmaDescriptor c hostErr ecc s) := by
  unfold execDmaDescriptor
  repeat' first
    | with_reducible assumption
    | with_reducible apply State.copyNext_kept
    | with_reducible apply resultKept_next

theorem State.drainReport_kept {cq : List Instr} (s : Machine.State) (c : ℕ) (h_s : Kept cq s) :
    Kept cq (State.drainReport s c) := by
  unfold State.drainReport
  repeat' first
    | with_reducible assumption
    | with_reducible apply State.raise_kept
    | with_reducible apply State.dmaBlock_kept
    | with_reducible apply State.setDma_kept

theorem State.drainWrite_kept {cq : List Instr} (s : Machine.State) (c : ℕ) (a : ℕ) (w : CWord) (st : Word) (h_s
    : Kept cq s) : Kept cq (State.drainWrite s c a w st) := by
  unfold State.drainWrite
  repeat' first
    | with_reducible assumption
    | with_reducible apply State.poisonRange_kept
    | with_reducible apply State.write_kept
    | with_reducible apply State.hostStore_kept
    | with_reducible apply State.errClass_kept
    | with_reducible apply kept_ite

theorem State.drainNext_kept {cq : List Instr} (s : Machine.State) (c : ℕ) (h_s : Kept cq s) :
    Kept cq (State.drainNext s c) := by
  unfold State.drainNext
  repeat' first
    | with_reducible assumption
    | with_reducible apply State.dmaStop_kept
    | with_reducible apply State.put_kept
    | with_reducible apply State.drainWrite_kept
    | with_reducible apply State.consume_kept
    | with_reducible apply State.drainReport_kept
    | with_reducible apply State.setDma_kept
    | with_reducible apply kept_ite
    | extract_lets
    | split

theorem execDmaDrainEntry_kept {cq : List Instr} (c : Fin 4) (s : Machine.State) (h_s : Kept cq s) :
    ResultKept cq (execDmaDrainEntry c s) := by
  unfold execDmaDrainEntry
  repeat' first
    | with_reducible assumption
    | with_reducible apply State.drainNext_kept
    | with_reducible apply resultKept_next

theorem State.drainDue_kept {cq : List Instr} (s : Machine.State) (c : ℕ) (h_s : Kept cq s) :
    Kept cq (State.drainDue s c) := by
  unfold State.drainDue
  repeat' first
    | with_reducible assumption
    | with_reducible apply State.drainReport_kept
    | with_reducible apply kept_ite
    | split

theorem execDmaDrainReport_kept {cq : List Instr} (c : Fin 4) (s : Machine.State) (h_s : Kept cq s) :
    ResultKept cq (execDmaDrainReport c s) := by
  unfold execDmaDrainReport
  repeat' first
    | with_reducible assumption
    | with_reducible apply State.drainDue_kept
    | with_reducible apply resultKept_next

theorem State.vackWrite_kept {cq : List Instr} (s : Machine.State) (i : ℕ) (v : ℕ) (h_s : Kept cq s) :
    Kept cq (State.vackWrite s i v) := by
  unfold State.vackWrite
  repeat' first
    | with_reducible assumption
    | with_reducible apply State.changed_kept
    | with_reducible apply State.setService_kept
    | with_reducible refine each_kept _ _ (fun _ _ _ => ?_) ?_

theorem execVack_kept {cq : List Instr} (i : Fin 2) (bits : BitVec 32) (s : Machine.State) (h_s : Kept cq s) :
    ResultKept cq (execVack i bits s) := by
  unfold execVack
  repeat' first
    | with_reducible assumption
    | with_reducible apply hostCmd_kept
    | with_reducible apply State.vackWrite_kept
    | intro _

theorem State.bar4Put_kept {cq : List Instr} (s : Machine.State) (o : ℕ) (v : Word) (h_s : Kept cq s) :
    Kept cq (State.bar4Put s o v) := by
  unfold State.bar4Put
  repeat' first
    | with_reducible assumption
    | with_reducible apply kept_ite
    | simp only [kept_mk_iff]
    | with_reducible apply kept_msix
    | exact swf_sset _ _ _ _
    | split

theorem State.msixUnmask_kept {cq : List Instr} (s : Machine.State) (v : ℕ) (addr : BitVec 64) (data : Word)
    (h_s : Kept cq s) : Kept cq (State.msixUnmask s v addr data) := by
  unfold State.msixUnmask
  repeat' first
    | with_reducible assumption
    | with_reducible apply State.settle_kept
    | with_reducible apply State.bar4Put_kept
    | with_reducible apply kept_ite
    | simp only [kept_mk_iff]
    | with_reducible apply kept_msix
    | with_reducible exact id

theorem execMsixUnmask_kept {cq : List Instr} (v : Fin 64) (addr : BitVec 64) (data : BitVec 32) (s :
    Machine.State) (h_s : Kept cq s) : ResultKept cq (execMsixUnmask v addr data s) := by
  unfold execMsixUnmask
  repeat' first
    | with_reducible assumption
    | with_reducible apply State.msixUnmask_kept
    | with_reducible apply resultKept_next

theorem State.pcieUp_kept {cq : List Instr} (s : Machine.State) (speed : ℕ) (width : ℕ) (h_s : Kept cq s) :
    Kept cq (State.pcieUp s speed width) := by
  unfold State.pcieUp
  repeat' first
    | with_reducible assumption
    | with_reducible apply State.put_kept
    | with_reducible apply kept_ite
    | simp only [kept_mk_iff]
    | with_reducible apply kept_fold

theorem execPcieLinkUp_kept {cq : List Instr} (speed : BitVec 4) (width : BitVec 4) (s : Machine.State) (h_s :
    Kept cq s) : ResultKept cq (execPcieLinkUp speed width s) := by
  unfold execPcieLinkUp
  repeat' first
    | with_reducible assumption
    | with_reducible apply State.pcieUp_kept
    | with_reducible apply resultKept_next

theorem State.pcieDown_kept {cq : List Instr} (s : Machine.State) (e : LinkEvt) (h_s : Kept cq s) :
    Kept cq (State.pcieDown s e) := by
  unfold State.pcieDown
  repeat' first
    | with_reducible assumption
    | with_reducible apply State.put_kept
    | with_reducible apply State.dmaStop_kept
    | with_reducible apply State.wv_kept
    | with_reducible apply State.raise_kept
    | exact fun _ => (rfl : swf (fun _ => MsixEntry.init) Msix.init.entries = true)
    | with_reducible apply kept_ite
    | with_reducible refine each_kept _ _ (fun _ _ _ => ?_) ?_
    | simp only [kept_mk_iff]
    | with_reducible apply kept_msix

theorem execPcieLinkDown_kept {cq : List Instr} (cause : LinkEvt) (s : Machine.State) (h_s : Kept cq s) :
    ResultKept cq (execPcieLinkDown cause s) := by
  unfold execPcieLinkDown
  repeat' first
    | with_reducible assumption
    | with_reducible apply State.pcieDown_kept
    | with_reducible apply resultKept_next

end Sys2Proof.Machine
end

