-- ==== Sys2Proof/Laws/KeptWardens.lean ====
section
/-!
SUPPORT. What the operations of Machine/Wardens.lean keep (Laws/Kept.lean).
-/

namespace Sys2Proof.Machine

theorem State.setWdn_kept {cq : List Instr} (s : Machine.State) (d : ℕ) (x : Wdn) (h_s : Kept cq s) :
    Kept cq (State.setWdn s d x) := by
  unfold State.setWdn
  repeat' first
    | with_reducible assumption
    | simp only [kept_mk_iff]
    | with_reducible apply kept_wdns
    | with_reducible exact swf_sset _ _ _ _

theorem State.wdnFail_kept {cq : List Instr} (s : Machine.State) (d : ℕ) (code : ℕ) (h_s : Kept cq s) :
    Kept cq (State.wdnFail s d code) := by
  unfold State.wdnFail
  repeat' first
    | with_reducible assumption
    | with_reducible apply State.wv_kept
    | with_reducible apply kept_ite

theorem State.policyCommit_kept {cq : List Instr} (s : Machine.State) (d : ℕ) (version : BitVec 16) (h_s : Kept
    cq s) : Kept cq (State.policyCommit s d version) := by
  unfold State.policyCommit
  repeat' first
    | with_reducible assumption
    | with_reducible apply State.setWdn_kept
    | with_reducible apply State.begin__kept
    | with_reducible apply kept_ite

theorem execPcmt_kept {cq : List Instr} (d : Fin 2) (version : BitVec 16) (s : Machine.State) (h_s : Kept cq s)
    : ResultKept cq (execPcmt d version s) := by
  unfold execPcmt
  repeat' first
    | with_reducible assumption
    | with_reducible apply hostCmd_kept
    | with_reducible apply State.policyCommit_kept
    | intro _

theorem State.policyTaken_kept {cq : List Instr} (s : Machine.State) (d : ℕ) (h_s : Kept cq s) :
    Kept cq (State.policyTaken s d) := by
  unfold State.policyTaken
  repeat' first
    | with_reducible assumption
    | with_reducible apply State.setWdn_kept
    | with_reducible apply State.put_kept
    | with_reducible apply State.wdnFail_kept
    | with_reducible apply State.post_kept
    | with_reducible apply kept_ite
    | simp only [kept_mk_iff]
    | split

theorem execPolicyInForce_kept {cq : List Instr} (d : Fin 2) (s : Machine.State) (h_s : Kept cq s) :
    ResultKept cq (execPolicyInForce d s) := by
  unfold execPolicyInForce
  repeat' first
    | with_reducible assumption
    | with_reducible apply State.policyTaken_kept
    | with_reducible apply resultKept_next

theorem State.wdnBump_kept {cq : List Instr} (s : Machine.State) (d : ℕ) (ctr : ℕ) (h_s : Kept cq s) :
    Kept cq (State.wdnBump s d ctr) := by
  unfold State.wdnBump
  repeat' first
    | with_reducible assumption
    | with_reducible apply State.bump_kept

theorem State.wdnPost_kept {cq : List Instr} (s : Machine.State) (d : ℕ) (h : ℕ) (w : BitVec 128) (h_s : Kept cq
    s) : Kept cq (State.wdnPost s d h w) := by
  unfold State.wdnPost
  repeat' first
    | with_reducible assumption
    | with_reducible apply State.raise_kept
    | with_reducible apply State.wdnBump_kept
    | with_reducible apply State.postRecord_kept
    | with_reducible apply kept_ite

theorem State.wdnRecord_kept {cq : List Instr} (s : Machine.State) (d : ℕ) (n : ℕ) (k : ℕ) (typ : ℕ) (code : ℕ)
    (value : ℕ) (h_s : Kept cq s) : Kept cq (State.wdnRecord s d n k typ code value) := by
  unfold State.wdnRecord
  repeat' first
    | with_reducible assumption
    | with_reducible apply State.wdnPost_kept
    | with_reducible apply kept_ite

theorem State.wdnNote_kept {cq : List Instr} (s : Machine.State) (d : ℕ) (typ : ℕ) (code : ℕ) (value : ℕ) (h_s :
    Kept cq s) : Kept cq (State.wdnNote s d typ code value) := by
  unfold State.wdnNote
  repeat' first
    | with_reducible assumption
    | with_reducible apply State.wdnPost_kept

theorem State.adviseSlot_kept {cq : List Instr} (s : Machine.State) (d : ℕ) (n : ℕ) (k : ℕ) (code : ℕ) (value :
    ℕ) (h_s : Kept cq s) : Kept cq (State.adviseSlot s d n k code value) := by
  unfold State.adviseSlot
  repeat' first
    | with_reducible assumption
    | with_reducible apply State.wdnRecord_kept
    | with_reducible apply State.wdnBump_kept

theorem State.advise_kept {cq : List Instr} (s : Machine.State) (d : ℕ) (code : ℕ) (value : ℕ) (h_s : Kept cq s)
    : Kept cq (State.advise s d code value) := by
  unfold State.advise
  repeat' first
    | with_reducible assumption
    | with_reducible apply State.wdnNote_kept
    | with_reducible apply State.wdnBump_kept

theorem State.writeNewHome_kept {cq : List Instr} (s : Machine.State) (n : ℕ) (tid : BitVec 18) (dst : ℕ) (slot
    : ℕ) (epoch : ℕ) (moves : ℕ) (h_s : Kept cq s) :
    Kept cq (State.writeNewHome s n tid dst slot epoch moves) := by
  unfold State.writeNewHome
  repeat' first
    | with_reducible assumption
    | with_reducible apply State.unitWrite_kept

theorem State.reserveFor_kept {cq : List Instr} (s : Machine.State) (n : ℕ) (dst : ℕ) (k : ℕ) (h_s : Kept cq s)
    : Kept cq (State.reserveFor s n dst k).1 := by
  unfold State.reserveFor
  repeat' first
    | with_reducible assumption
    | with_reducible apply State.setSlot_kept
    | with_reducible apply State.armPeriodic_kept
    | with_reducible apply kept_ite
    | simp only [kept_mk_iff]
    | split

theorem State.markMoving_kept {cq : List Instr} (s : Machine.State) (n : ℕ) (dst : ℕ) (m : Member) (h_s : Kept
    cq s) : Kept cq (State.markMoving s n dst m) := by
  unfold State.markMoving
  repeat' first
    | with_reducible assumption
    | with_reducible apply State.writeHome_kept
    | with_reducible apply State.writeNewHome_kept

theorem State.prepare_kept {cq : List Instr} (s : Machine.State) (n : ℕ) (dst : ℕ) (cause : ℕ) (ks : List ℕ)
    (host : Option (BitVec 18)) (h_s : Kept cq s) : Kept cq (State.prepare s n dst cause ks host) := by
  unfold State.prepare
  repeat' first
    | with_reducible assumption
    | with_reducible apply State.reserveFor_kept
    | with_reducible apply State.settleSlots_kept
    | with_reducible apply State.markMoving_kept
    | with_reducible apply State.wdnRecord_kept
    | with_reducible refine each_kept _ _ (fun _ _ _ => ?_) ?_
    | with_reducible refine kept_foldl_fst _ _ (fun _ _ _ => ?_) ?_
    | simp only [kept_mk_iff]
    | with_reducible apply kept_fold
    | with_reducible refine kept_of_fst (by with_reducible assumption) ?_
    | extract_lets
    | split

theorem State.countAbort_kept {cq : List Instr} (s : Machine.State) (d : ℕ) (h_s : Kept cq s) :
    Kept cq (State.countAbort s d) := by
  unfold State.countAbort
  repeat' first
    | with_reducible assumption
    | with_reducible apply State.wdnBump_kept

theorem State.postRh_kept {cq : List Instr} (s : Machine.State) (d : ℕ) (code : ℕ) (tid : BitVec 18) (dst : ℕ)
    (h_s : Kept cq s) : Kept cq (State.postRh s d code tid dst) := by
  unfold State.postRh
  repeat' first
    | with_reducible assumption
    | with_reducible apply State.post_kept
    | with_reducible apply State.wdnFail_kept
    | with_reducible apply State.wv_kept

theorem State.releaseTargets_kept {cq : List Instr} (s : Machine.State) (r : Rehome) (h_s : Kept cq s) :
    Kept cq (State.releaseTargets s r) := by
  unfold State.releaseTargets
  repeat' first
    | with_reducible assumption
    | with_reducible apply State.clearSlot_kept
    | with_reducible apply State.dropPeriodic_kept
    | with_reducible refine each_kept _ _ (fun _ _ _ => ?_) ?_

theorem State.abortRehome_kept {cq : List Instr} (s : Machine.State) (r : Rehome) (cause : ℕ) (code : ℕ) (lost :
    Bool) (h_s : Kept cq s) : Kept cq (State.abortRehome s r cause code lost) := by
  unfold State.abortRehome
  repeat' first
    | with_reducible assumption
    | with_reducible apply State.releaseTargets_kept
    | with_reducible apply State.writeNewHome_kept
    | with_reducible apply State.writeHome_kept
    | with_reducible apply State.wdnRecord_kept
    | with_reducible apply State.raise_kept
    | with_reducible apply State.countAbort_kept
    | with_reducible apply State.postRh_kept
    | with_reducible apply kept_ite
    | with_reducible refine each_kept _ _ (fun _ _ _ => ?_) ?_
    | simp only [kept_mk_iff]
    | with_reducible apply kept_fold
    | split

theorem State.missMoved_kept {cq : List Instr} (s : Machine.State) (n : ℕ) (k : ℕ) (skipped : ℕ) (chains : List
    (Fin 2)) (h_s : Kept cq s) : Kept cq (State.missMoved s n k skipped chains) := by
  unfold State.missMoved
  repeat' first
    | with_reducible assumption
    | with_reducible apply State.missSlot_kept
    | with_reducible refine each_kept _ _ (fun _ _ _ => ?_) ?_

theorem State.countLateRun_kept {cq : List Instr} (s : Machine.State) (d : ℕ) (dst : ℕ) (due : ℕ) (chains : List
    (Fin 2)) (h_s : Kept cq s) : Kept cq (State.countLateRun s d dst due chains) := by
  unfold State.countLateRun
  repeat' first
    | with_reducible assumption
    | with_reducible apply State.wdnBump_kept
    | with_reducible apply kept_ite
    | with_reducible refine each_kept _ _ (fun _ _ _ => ?_) ?_

theorem State.moveTimer_kept {cq : List Instr} (s : Machine.State) (r : Rehome) (m : Member) (h_s : Kept cq s) :
    Kept cq (State.moveTimer s r m) := by
  unfold State.moveTimer
  repeat' first
    | with_reducible assumption
    | with_reducible apply State.dropPeriodic_kept
    | with_reducible apply State.setCluster_kept
    | with_reducible apply State.countLateRun_kept
    | with_reducible apply State.missMoved_kept
    | simp only [kept_mk_iff]
    | split

theorem State.movePlay_kept {cq : List Instr} (s : Machine.State) (r : Rehome) (m : Member) (h_s : Kept cq s) :
    Kept cq (State.movePlay s r m) := by
  unfold State.movePlay
  repeat' first
    | with_reducible assumption
    | with_reducible apply State.setPlay_kept
    | with_reducible apply State.countLateRun_kept
    | with_reducible apply State.missMoved_kept
    | with_reducible apply kept_ite
    | simp only [kept_mk_iff]
    | split

theorem State.commitMember_kept {cq : List Instr} (s : Machine.State) (r : Rehome) (m : Member) (h_s : Kept cq
    s) : Kept cq (State.commitMember s r m) := by
  unfold State.commitMember
  repeat' first
    | with_reducible assumption
    | with_reducible apply State.unitWrite_kept
    | with_reducible apply State.writeNewHome_kept
    | with_reducible apply State.setSlot_kept
    | with_reducible apply State.movePlay_kept
    | with_reducible apply State.dropPeriodic_kept
    | with_reducible apply State.moveTimer_kept

theorem State.commitRehome_kept {cq : List Instr} (s : Machine.State) (r : Rehome) (h_s : Kept cq s) :
    Kept cq (State.commitRehome s r) := by
  unfold State.commitRehome
  repeat' first
    | with_reducible assumption
    | with_reducible apply State.settleSlots_kept
    | with_reducible apply State.commitMember_kept
    | with_reducible apply State.wdnBump_kept
    | with_reducible apply State.wdnRecord_kept
    | with_reducible apply State.postRh_kept
    | with_reducible refine each_kept _ _ (fun _ _ _ => ?_) ?_
    | simp only [kept_mk_iff]
    | with_reducible apply kept_fold
    | split

theorem State.clusterLost_kept {cq : List Instr} (s : Machine.State) (n : ℕ) (h_s : Kept cq s) :
    Kept cq (State.clusterLost s n) := by
  unfold State.clusterLost
  repeat' first
    | with_reducible assumption
    | with_reducible apply State.abortRehome_kept
    | with_reducible apply State.commitRehome_kept
    | with_reducible apply kept_ite
    | with_reducible refine each_kept _ _ (fun _ _ _ => ?_) ?_

theorem State.checkpoint_kept {cq : List Instr} (s : Machine.State) (d : ℕ) (tid : BitVec 18) (h_s : Kept cq s)
    : Kept cq (State.checkpoint s d tid) := by
  unfold State.checkpoint
  repeat' first
    | with_reducible assumption
    | with_reducible apply State.abortRehome_kept
    | with_reducible apply State.copyBytes_kept
    | with_reducible apply kept_ite
    | with_reducible refine each_kept _ _ (fun _ _ _ => ?_) ?_
    | simp only [kept_mk_iff]
    | with_reducible apply kept_fold
    | split

theorem execCheckpoint_kept {cq : List Instr} (d : Fin 2) (tid : BitVec 18) (s : Machine.State) (h_s : Kept cq
    s) : ResultKept cq (execCheckpoint d tid s) := by
  unfold execCheckpoint
  repeat' first
    | with_reducible assumption
    | with_reducible apply State.checkpoint_kept
    | with_reducible apply resultKept_next

theorem State.placeGroup_kept {cq : List Instr} (s : Machine.State) (n : ℕ) (cause : ℕ) (ks : List ℕ) (targets :
    List ℕ) (h_s : Kept cq s) : Kept cq (State.placeGroup s n cause ks targets).1 := by
  unfold State.placeGroup
  repeat' first
    | with_reducible assumption
    | with_reducible apply State.countAbort_kept
    | with_reducible apply State.prepare_kept
    | with_reducible apply kept_ite_fst
    | extract_lets
    | split

theorem State.evacGroup_kept {cq : List Instr} (s : Machine.State) (e : Evac) (ks : List ℕ) (h_s : Kept cq s) :
    Kept cq (State.evacGroup s e ks) := by
  unfold State.evacGroup
  repeat' first
    | with_reducible assumption
    | with_reducible apply State.placeGroup_kept
    | with_reducible apply State.wdnRecord_kept
    | with_reducible apply State.raise_kept
    | with_reducible apply State.wdnBump_kept
    | with_reducible apply kept_ite
    | with_reducible refine each_kept _ _ (fun _ _ _ => ?_) ?_

theorem State.evacPlace_kept {cq : List Instr} (s : Machine.State) (e : Evac) (h_s : Kept cq s) :
    Kept cq (State.evacPlace s e) := by
  unfold State.evacPlace
  repeat' first
    | with_reducible assumption
    | with_reducible apply State.evacGroup_kept
    | with_reducible refine each_kept _ _ (fun _ _ _ => ?_) ?_

theorem State.evacStart_kept {cq : List Instr} (s : Machine.State) (e : Evac) (h_s : Kept cq s) :
    Kept cq (State.evacStart s e) := by
  unfold State.evacStart
  repeat' first
    | with_reducible assumption
    | with_reducible apply State.wdnBump_kept
    | with_reducible apply State.setClState_kept
    | with_reducible apply State.evacPlace_kept
    | simp only [kept_mk_iff]
    | with_reducible apply kept_fold
    | extract_lets
    | split

theorem State.evacServe_kept {cq : List Instr} (s : Machine.State) (d : ℕ) (x1_4 : ℕ) (h_s : Kept cq s) :
    Kept cq (State.evacServe s d x1_4) := by
  induction x1_4 generalizing s with
  | zero =>
    unfold State.evacServe
    repeat' first
      | with_reducible assumption
      | with_reducible apply ih
      | with_reducible apply State.raise_kept
      | with_reducible apply State.wdnBump_kept
      | with_reducible apply State.draw_kept
      | with_reducible apply State.wdnNote_kept
      | with_reducible apply State.setClState_kept
      | with_reducible apply State.evacStart_kept
      | with_reducible apply kept_ite
      | simp only [kept_mk_iff]
      | with_reducible apply kept_fold
      | split
  | succ m ih =>
    unfold State.evacServe
    repeat' first
      | with_reducible assumption
      | with_reducible apply ih
      | with_reducible apply State.raise_kept
      | with_reducible apply State.wdnBump_kept
      | with_reducible apply State.draw_kept
      | with_reducible apply State.wdnNote_kept
      | with_reducible apply State.setClState_kept
      | with_reducible apply State.evacStart_kept
      | with_reducible apply kept_ite
      | simp only [kept_mk_iff]
      | with_reducible apply kept_fold
      | split

theorem State.evacuate_kept {cq : List Instr} (s : Machine.State) (n : ℕ) (cause : ℕ) (h_s : Kept cq s) :
    Kept cq (State.evacuate s n cause) := by
  unfold State.evacuate
  repeat' first
    | with_reducible assumption
    | with_reducible apply State.setClState_kept
    | with_reducible apply State.abortRehome_kept
    | with_reducible apply State.raise_kept
    | with_reducible apply State.draw_kept
    | with_reducible apply State.wdnNote_kept
    | with_reducible apply State.evacServe_kept
    | with_reducible refine each_kept _ _ (fun _ _ _ => ?_) ?_
    | simp only [kept_mk_iff]
    | with_reducible apply kept_fold

theorem State.noroomRetry_kept {cq : List Instr} (s : Machine.State) (d : ℕ) (h_s : Kept cq s) :
    Kept cq (State.noroomRetry s d) := by
  unfold State.noroomRetry
  repeat' first
    | with_reducible assumption
    | with_reducible apply State.evacServe_kept
    | with_reducible apply State.evacPlace_kept
    | split

theorem execNoroomRetry_kept {cq : List Instr} (d : Fin 2) (s : Machine.State) (h_s : Kept cq s) :
    ResultKept cq (execNoroomRetry d s) := by
  unfold execNoroomRetry
  repeat' first
    | with_reducible assumption
    | with_reducible apply State.noroomRetry_kept
    | with_reducible apply resultKept_next

theorem State.rehomeCommit_kept {cq : List Instr} (s : Machine.State) (d : ℕ) (tid : BitVec 18) (h_s : Kept cq
    s) : Kept cq (State.rehomeCommit s d tid) := by
  unfold State.rehomeCommit
  repeat' first
    | with_reducible assumption
    | with_reducible apply State.evacServe_kept
    | with_reducible apply State.commitRehome_kept
    | with_reducible apply kept_ite
    | split

theorem execRehomeCommit_kept {cq : List Instr} (d : Fin 2) (tid : BitVec 18) (s : Machine.State) (h_s : Kept cq
    s) : ResultKept cq (execRehomeCommit d tid s) := by
  unfold execRehomeCommit
  repeat' first
    | with_reducible assumption
    | with_reducible apply State.rehomeCommit_kept
    | with_reducible apply resultKept_next

theorem State.rhMove_kept {cq : List Instr} (s : Machine.State) (d : ℕ) (dst : ℕ) (tid : BitVec 18) (h_s : Kept
    cq s) : Kept cq (State.rhMove s d dst tid) := by
  unfold State.rhMove
  repeat' first
    | with_reducible assumption
    | with_reducible apply State.begin__kept
    | with_reducible apply State.postRh_kept
    | with_reducible apply State.prepare_kept
    | with_reducible apply State.countAbort_kept
    | with_reducible apply kept_ite
    | simp only [kept_mk_iff]
    | split

theorem execMove_kept {cq : List Instr} (d : Fin 2) (cl : Fin 32) (tid : BitVec 18) (s : Machine.State) (h_s :
    Kept cq s) : ResultKept cq (execMove d cl tid s) := by
  unfold execMove
  repeat' first
    | with_reducible assumption
    | with_reducible apply hostCmd_kept
    | with_reducible apply State.rhMove_kept
    | intro _

theorem State.rhAbort_kept {cq : List Instr} (s : Machine.State) (d : ℕ) (tid : BitVec 18) (h_s : Kept cq s) :
    Kept cq (State.rhAbort s d tid) := by
  unfold State.rhAbort
  repeat' first
    | with_reducible assumption
    | with_reducible apply State.begin__kept
    | with_reducible apply State.postRh_kept
    | with_reducible apply State.abortRehome_kept
    | with_reducible apply kept_ite
    | simp only [kept_mk_iff]
    | split

theorem execRehomeAbort_kept {cq : List Instr} (d : Fin 2) (tid : BitVec 18) (s : Machine.State) (h_s : Kept cq
    s) : ResultKept cq (execRehomeAbort d tid s) := by
  unfold execRehomeAbort
  repeat' first
    | with_reducible assumption
    | with_reducible apply hostCmd_kept
    | with_reducible apply State.rhAbort_kept
    | intro _

theorem State.rhInvalid_kept {cq : List Instr} (s : Machine.State) (d : ℕ) (dst : ℕ) (tid : BitVec 18) (h_s :
    Kept cq s) : Kept cq (State.rhInvalid s d dst tid) := by
  unfold State.rhInvalid
  repeat' first
    | with_reducible assumption
    | with_reducible apply State.postRh_kept
    | with_reducible apply State.begin__kept
    | with_reducible apply kept_ite

theorem State.clcmd_kept {cq : List Instr} (s : Machine.State) (d : ℕ) (n : ℕ) (ok : Bool) (f : Machine.State →
    Machine.State) (h_s : Kept cq s) (h_f : ∀ (y0 : Machine.State), Kept cq y0 → Kept cq (f y0)) :
    Kept cq (State.clcmd s d n ok f) := by
  unfold State.clcmd
  repeat' first
    | with_reducible assumption
    | with_reducible apply State.begin__kept
    | with_reducible apply State.wdnFail_kept
    | with_reducible apply State.post_kept
    | with_reducible apply State.put_kept
    | with_reducible apply h_f
    | with_reducible apply kept_ite

theorem State.clInvalid_kept {cq : List Instr} (s : Machine.State) (d : ℕ) (n : ℕ) (h_s : Kept cq s) :
    Kept cq (State.clInvalid s d n) := by
  unfold State.clInvalid
  repeat' first
    | with_reducible assumption
    | with_reducible apply State.wdnFail_kept
    | with_reducible apply State.begin__kept
    | with_reducible apply State.post_kept
    | with_reducible apply State.put_kept
    | with_reducible apply kept_ite

theorem State.clusterReset_kept {cq : List Instr} (s : Machine.State) (n : ℕ) (h_s : Kept cq s) :
    Kept cq (State.clusterReset s n) := by
  unfold State.clusterReset
  repeat' first
    | with_reducible assumption
    | with_reducible apply State.evacServe_kept
    | with_reducible apply State.clusterWipe_kept
    | with_reducible apply State.clusterLost_kept

theorem State.clOp_kept {cq : List Instr} (s : Machine.State) (d : ℕ) (n : ℕ) (op : ℕ) (h_s : Kept cq s) :
    Kept cq (State.clOp s d n op) := by
  unfold State.clOp
  repeat' first
    | with_reducible assumption
    | with_reducible apply State.clcmd_kept
    | with_reducible apply State.clusterReset_kept
    | with_reducible apply State.setClState_kept
    | with_reducible apply State.evacuate_kept
    | with_reducible apply State.clusterOff_kept
    | with_reducible apply State.clInvalid_kept
    | simp only [kept_mk_iff]
    | intro _
    | split

theorem execUp_kept {cq : List Instr} (d : Fin 2) (cl : Fin 32) (s : Machine.State) (h_s : Kept cq s) :
    ResultKept cq (execUp d cl s) := by
  unfold execUp
  repeat' first
    | with_reducible assumption
    | with_reducible apply hostCmd_kept
    | with_reducible apply State.clOp_kept
    | intro _

theorem execRun_kept {cq : List Instr} (d : Fin 2) (cl : Fin 32) (s : Machine.State) (h_s : Kept cq s) :
    ResultKept cq (execRun d cl s) := by
  unfold execRun
  repeat' first
    | with_reducible assumption
    | with_reducible apply hostCmd_kept
    | with_reducible apply State.clOp_kept
    | intro _

theorem execSpare_kept {cq : List Instr} (d : Fin 2) (cl : Fin 32) (s : Machine.State) (h_s : Kept cq s) :
    ResultKept cq (execSpare d cl s) := by
  unfold execSpare
  repeat' first
    | with_reducible assumption
    | with_reducible apply hostCmd_kept
    | with_reducible apply State.clOp_kept
    | intro _

theorem execEvac_kept {cq : List Instr} (d : Fin 2) (cl : Fin 32) (s : Machine.State) (h_s : Kept cq s) :
    ResultKept cq (execEvac d cl s) := by
  unfold execEvac
  repeat' first
    | with_reducible assumption
    | with_reducible apply hostCmd_kept
    | with_reducible apply State.clOp_kept
    | intro _

theorem execOff_kept {cq : List Instr} (d : Fin 2) (cl : Fin 32) (s : Machine.State) (h_s : Kept cq s) :
    ResultKept cq (execOff d cl s) := by
  unfold execOff
  repeat' first
    | with_reducible assumption
    | with_reducible apply hostCmd_kept
    | with_reducible apply State.clOp_kept
    | intro _

theorem State.logSelfTest_kept {cq : List Instr} (s : Machine.State) (n : ℕ) (h_s : Kept cq s) :
    Kept cq (State.logSelfTest s n) := by
  unfold State.logSelfTest
  repeat' first
    | with_reducible assumption
    | with_reducible apply State.setReg_kept
    | with_reducible apply State.wv_kept
    | with_reducible apply State.draw_kept
    | with_reducible apply kept_ite

theorem State.selfTested_kept {cq : List Instr} (s : Machine.State) (n : ℕ) (pass : Bool) (h_s : Kept cq s) :
    Kept cq (State.selfTested s n pass) := by
  unfold State.selfTested
  repeat' first
    | with_reducible assumption
    | with_reducible apply State.setClState_kept
    | with_reducible apply State.logSelfTest_kept
    | with_reducible apply kept_ite

theorem execSelfTestComplete_kept {cq : List Instr} (cl : Fin 32) (pass : Bool) (s : Machine.State) (h_s : Kept
    cq s) : ResultKept cq (execSelfTestComplete cl pass s) := by
  unfold execSelfTestComplete
  repeat' first
    | with_reducible assumption
    | with_reducible apply State.selfTested_kept
    | with_reducible apply resultKept_next

end Sys2Proof.Machine
end

