-- ==== Sys2Proof/Laws/KeptWardenPoll.lean ====
section
/-!
SUPPORT. What the operations of Machine/WardenPoll.lean keep (Laws/Kept.lean).
-/

namespace Sys2Proof.Machine

theorem State.protectOne_kept {cq : List Instr} (s : Machine.State) (d : ℕ) (n : ℕ) (h_s : Kept cq s) :
    Kept cq (State.protectOne s d n) := by
  unfold State.protectOne
  repeat' first
    | with_reducible assumption
    | with_reducible apply State.evacuate_kept
    | with_reducible apply State.draw_kept
    | with_reducible apply State.advise_kept
    | with_reducible apply kept_ite
    | split

theorem State.protective_kept {cq : List Instr} (s : Machine.State) (d : ℕ) (h_s : Kept cq s) :
    Kept cq (State.protective s d) := by
  unfold State.protective
  repeat' first
    | with_reducible assumption
    | with_reducible apply State.protectOne_kept
    | with_reducible apply kept_ite
    | with_reducible refine each_kept _ _ (fun _ _ _ => ?_) ?_

theorem State.powerOne_kept {cq : List Instr} (s : Machine.State) (d : ℕ) (n : ℕ) (h_s : Kept cq s) :
    Kept cq (State.powerOne s d n) := by
  unfold State.powerOne
  repeat' first
    | with_reducible assumption
    | with_reducible apply State.dvfsAsk_kept
    | with_reducible apply State.advise_kept
    | with_reducible apply kept_ite
    | split

theorem State.power_kept {cq : List Instr} (s : Machine.State) (d : ℕ) (h_s : Kept cq s) :
    Kept cq (State.power s d) := by
  unfold State.power
  repeat' first
    | with_reducible assumption
    | with_reducible apply State.powerOne_kept
    | with_reducible apply kept_ite
    | with_reducible refine each_kept _ _ (fun _ _ _ => ?_) ?_

theorem State.timesel_kept {cq : List Instr} (s : Machine.State) (d : ℕ) (h_s : Kept cq s) :
    Kept cq (State.timesel s d) := by
  unfold State.timesel
  repeat' first
    | with_reducible assumption
    | with_reducible apply State.setSource_kept
    | with_reducible apply State.draw_kept
    | with_reducible apply State.advise_kept
    | with_reducible apply kept_ite
    | extract_lets
    | split

theorem State.pollDone_kept {cq : List Instr} (s : Machine.State) (d : ℕ) (h_s : Kept cq s) :
    Kept cq (State.pollDone s d) := by
  unfold State.pollDone
  repeat' first
    | with_reducible assumption
    | with_reducible apply State.setCluster_kept
    | with_reducible apply State.setWdn_kept
    | with_reducible apply kept_ite
    | with_reducible refine each_kept _ _ (fun _ _ _ => ?_) ?_
    | simp only [kept_mk_iff]
    | with_reducible apply kept_fold

theorem State.wardenPoll_kept {cq : List Instr} (s : Machine.State) (d : ℕ) (h_s : Kept cq s) :
    Kept cq (State.wardenPoll s d) := by
  unfold State.wardenPoll
  repeat' first
    | with_reducible assumption
    | with_reducible apply State.evacServe_kept
    | with_reducible apply State.timesel_kept
    | with_reducible apply State.power_kept
    | with_reducible apply State.protective_kept
    | with_reducible apply State.pollDone_kept
    | with_reducible apply kept_ite

theorem execWardenPoll_kept {cq : List Instr} (d : Fin 2) (s : Machine.State) (h_s : Kept cq s) :
    ResultKept cq (execWardenPoll d s) := by
  unfold execWardenPoll
  repeat' first
    | with_reducible assumption
    | with_reducible apply State.wardenPoll_kept
    | with_reducible apply resultKept_next

theorem State.setWdnTerm_kept {cq : List Instr} (s : Machine.State) (d : ℕ) (tid : BitVec 18) (t : WdnTerm) (h_s
    : Kept cq s) : Kept cq (State.setWdnTerm s d tid t) := by
  unfold State.setWdnTerm
  repeat' first
    | with_reducible assumption
    | with_reducible apply State.setWdn_kept

theorem execWardenAdjustment_kept {cq : List Instr} (cl : Fin 32) (slot : BitVec 13) (base : BitVec 16) (area :
    List (BitVec 32)) (s : Machine.State) (h_s : Kept cq s) :
    ResultKept cq (execWardenAdjustment cl slot base area s) := by
  unfold execWardenAdjustment
  repeat' first
    | with_reducible assumption
    | with_reducible apply State.adjust_kept
    | with_reducible apply kept_ite
    | with_reducible apply resultKept_next

theorem State.adviseIf_kept {cq : List Instr} (s : Machine.State) (mode : ℕ) (d : ℕ) (n : ℕ) (k : ℕ) (code : ℕ)
    (v : Option ℕ) (h_s : Kept cq s) : Kept cq (State.adviseIf s mode d n k code v) := by
  unfold State.adviseIf
  repeat' first
    | with_reducible assumption
    | with_reducible apply State.adviseSlot_kept
    | with_reducible apply kept_ite
    | split

theorem State.decide__kept {cq : List Instr} (s : Machine.State) (d : ℕ) (n : ℕ) (k : ℕ) (r : Reading) (t :
    WdnTerm) (h_s : Kept cq s) : Kept cq (State.decide_ s d n k r t) := by
  unfold State.decide_
  repeat' first
    | with_reducible assumption
    | with_reducible apply State.adviseIf_kept
    | with_reducible apply State.adjust_kept
    | with_reducible apply State.wdnBump_kept
    | with_reducible apply State.setWdnTerm_kept
    | with_reducible apply kept_ite

theorem State.metricsRead_kept {cq : List Instr} (s : Machine.State) (d : ℕ) (tid : BitVec 18) (h_s : Kept cq s)
    : Kept cq (State.metricsRead s d tid) := by
  unfold State.metricsRead
  repeat' first
    | with_reducible assumption
    | with_reducible apply State.draw_kept
    | with_reducible apply State.setWdnTerm_kept
    | with_reducible apply State.wdnRecord_kept
    | with_reducible apply State.decide__kept
    | with_reducible apply kept_ite
    | with_reducible refine each_kept _ _ (fun _ _ _ => ?_) ?_
    | simp only [kept_mk_iff]
    | split

theorem execWardenMetricsRead_kept {cq : List Instr} (d : Fin 2) (tid : BitVec 18) (s : Machine.State) (h_s :
    Kept cq s) : ResultKept cq (execWardenMetricsRead d tid s) := by
  unfold execWardenMetricsRead
  repeat' first
    | with_reducible assumption
    | with_reducible apply State.metricsRead_kept
    | with_reducible apply resultKept_next

theorem State.adviseMove_kept {cq : List Instr} (s : Machine.State) (d : ℕ) (n : ℕ) (dst : ℕ) (action : ℕ) (k :
    ℕ) (h_s : Kept cq s) : Kept cq (State.adviseMove s d n dst action k) := by
  unfold State.adviseMove
  repeat' first
    | with_reducible assumption
    | with_reducible apply State.adviseSlot_kept
    | with_reducible apply State.setWdnTerm_kept
    | with_reducible apply kept_ite

theorem State.adviseGroup_kept {cq : List Instr} (s : Machine.State) (d : ℕ) (n : ℕ) (dst : ℕ) (action : ℕ) (ks
    : List ℕ) (h_s : Kept cq s) : Kept cq (State.adviseGroup s d n dst action ks) := by
  unfold State.adviseGroup
  repeat' first
    | with_reducible assumption
    | with_reducible apply State.adviseMove_kept
    | with_reducible refine each_kept _ _ (fun _ _ _ => ?_) ?_

theorem State.shift_kept {cq : List Instr} (s : Machine.State) (act : Bool) (d : ℕ) (n : ℕ) (cause : ℕ) (ks :
    List ℕ) (targets : List ℕ) (h_s : Kept cq s) : Kept cq (State.shift s act d n cause ks targets).1 := by
  unfold State.shift
  repeat' first
    | with_reducible assumption
    | with_reducible apply State.placeGroup_kept
    | with_reducible apply State.adviseGroup_kept
    | with_reducible apply kept_ite_fst
    | extract_lets
    | split

theorem State.relieve_kept {cq : List Instr} (s : Machine.State) (act : Bool) (d : ℕ) (n : ℕ) (moved : ℕ) (x1_16
    : List (List ℕ)) (h_s : Kept cq s) : Kept cq (State.relieve s act d n moved x1_16) := by
  induction x1_16 generalizing s moved with
  | nil =>
    unfold State.relieve
    repeat' first
      | with_reducible assumption
      | with_reducible apply ih
      | with_reducible apply State.shift_kept
      | with_reducible apply kept_ite
  | cons x l ih =>
    unfold State.relieve
    repeat' first
      | with_reducible assumption
      | with_reducible apply ih
      | with_reducible apply State.shift_kept
      | with_reducible apply kept_ite

theorem State.overloadCheck_kept {cq : List Instr} (s : Machine.State) (n : ℕ) (h_s : Kept cq s) :
    Kept cq (State.overloadCheck s n) := by
  unfold State.overloadCheck
  repeat' first
    | with_reducible assumption
    | with_reducible apply State.relieve_kept
    | with_reducible apply kept_ite

theorem execWithdrawalOverloadCheck_kept {cq : List Instr} (cl : Fin 32) (s : Machine.State) (h_s : Kept cq s) :
    ResultKept cq (execWithdrawalOverloadCheck cl s) := by
  unfold execWithdrawalOverloadCheck
  repeat' first
    | with_reducible assumption
    | with_reducible apply State.overloadCheck_kept
    | with_reducible apply resultKept_next

theorem State.balanceFrom_kept {cq : List Instr} (s : Machine.State) (act : Bool) (d : ℕ) (n : ℕ) (dst : ℕ)
    (gone : ℕ) (moved : ℕ) (took : ℕ) (x1_30 : List (List ℕ)) (h_s : Kept cq s) :
    Kept cq (State.balanceFrom s act d n dst gone moved took x1_30) := by
  induction x1_30 generalizing s gone moved took with
  | nil =>
    unfold State.balanceFrom
    repeat' first
      | with_reducible assumption
      | with_reducible apply ih
      | with_reducible apply State.shift_kept
      | with_reducible apply kept_ite
  | cons x l ih =>
    unfold State.balanceFrom
    repeat' first
      | with_reducible assumption
      | with_reducible apply ih
      | with_reducible apply State.shift_kept
      | with_reducible apply kept_ite

theorem State.balance_kept {cq : List Instr} (s : Machine.State) (d : ℕ) (h_s : Kept cq s) :
    Kept cq (State.balance s d) := by
  unfold State.balance
  repeat' first
    | with_reducible assumption
    | with_reducible apply State.balanceFrom_kept
    | with_reducible apply kept_ite
    | extract_lets
    | split

theorem execBalance_kept {cq : List Instr} (d : Fin 2) (s : Machine.State) (h_s : Kept cq s) :
    ResultKept cq (execBalance d s) := by
  unfold execBalance
  repeat' first
    | with_reducible assumption
    | with_reducible apply State.balance_kept
    | with_reducible apply resultKept_next

end Sys2Proof.Machine
end

