-- ==== Sys2Proof/Laws/KeptPress.lean ====
section
/-!
SUPPORT. What the operations of Machine/Press.lean keep (Laws/Kept.lean).
-/

namespace Sys2Proof.Machine

theorem State.setPrs_kept {cq : List Instr} (s : Machine.State) (d : ℕ) (x : Press) (h_s : Kept cq s) :
    Kept cq (State.setPrs s d x) := by
  unfold State.setPrs
  repeat' first
    | with_reducible assumption
    | simp only [kept_mk_iff]
    | with_reducible apply kept_press
    | with_reducible exact swf_sset _ _ _ _

theorem State.nextJob_kept {cq : List Instr} (s : Machine.State) (d : ℕ) (h_s : Kept cq s) :
    Kept cq (State.nextJob s d).1 := by
  unfold State.nextJob
  repeat' first
    | with_reducible assumption
    | with_reducible apply State.takePacket_kept

theorem State.prsBump_kept {cq : List Instr} (s : Machine.State) (d : ℕ) (ctr : ℕ) (h_s : Kept cq s) :
    Kept cq (State.prsBump s d ctr) := by
  unfold State.prsBump
  repeat' first
    | with_reducible assumption
    | with_reducible apply State.bump_kept

theorem State.prsBumpBy_kept {cq : List Instr} (s : Machine.State) (d : ℕ) (ctr : ℕ) (n : ℕ) (h_s : Kept cq s) :
    Kept cq (State.prsBumpBy s d ctr n) := by
  unfold State.prsBumpBy
  repeat' first
    | with_reducible assumption
    | with_reducible apply State.bumpBy_kept

theorem State.countBadJob_kept {cq : List Instr} (s : Machine.State) (d : ℕ) (h_s : Kept cq s) :
    Kept cq (State.countBadJob s d) := by
  unfold State.countBadJob
  repeat' first
    | with_reducible assumption
    | with_reducible apply State.raise_kept
    | with_reducible apply State.prsBump_kept

theorem State.badJob_kept {cq : List Instr} (s : Machine.State) (d : ℕ) (h_s : Kept cq s) :
    Kept cq (State.badJob s d) := by
  unfold State.badJob
  repeat' first
    | with_reducible assumption
    | with_reducible apply State.nextJob_kept
    | with_reducible apply State.countBadJob_kept
    | with_reducible apply kept_ite

theorem execBadjob_kept {cq : List Instr} (d : Fin 2) (s : Machine.State) (h_s : Kept cq s) :
    ResultKept cq (execBadjob d s) := by
  unfold execBadjob
  repeat' first
    | with_reducible assumption
    | with_reducible apply State.badJob_kept
    | with_reducible apply resultKept_next

theorem State.fill_kept {cq : List Instr} (s : Machine.State) (x1_2 : List (ℕ × ℕ)) (x1_7 : List Byte) (h_s :
    Kept cq s) : Kept cq (State.fill s x1_2 x1_7) := by
  induction x1_2 generalizing s x1_7 with
  | nil =>
    unfold State.fill
    repeat' first
      | with_reducible assumption
      | with_reducible apply ih
      | with_reducible apply State.write_kept
      | with_reducible apply kept_ite
  | cons x l ih =>
    unfold State.fill
    repeat' first
      | with_reducible assumption
      | with_reducible apply ih
      | with_reducible apply State.write_kept
      | with_reducible apply kept_ite

theorem State.saveArea_kept {cq : List Instr} (s : Machine.State) (j : Job) (b : Option (List Byte)) (h_s : Kept
    cq s) : Kept cq (State.saveArea s j b) := by
  unfold State.saveArea
  repeat' first
    | with_reducible assumption
    | with_reducible apply State.zeroRange_kept
    | with_reducible apply State.write_kept
    | simp only [kept_mk_iff]
    | split

theorem State.jobRun_kept {cq : List Instr} (s : Machine.State) (d : ℕ) (j : Job) (h_s : Kept cq s) :
    Kept cq (State.jobRun s d j) := by
  unfold State.jobRun
  repeat' first
    | with_reducible assumption
    | with_reducible apply State.fill_kept
    | with_reducible apply State.saveArea_kept
    | with_reducible apply State.prsBumpBy_kept
    | with_reducible apply State.prsBump_kept
    | with_reducible apply State.put_kept
    | with_reducible apply State.setPrs_kept
    | with_reducible apply kept_ite

theorem State.pressJob_kept {cq : List Instr} (s : Machine.State) (d : ℕ) (packs : Bool) (h_s : Kept cq s) :
    Kept cq (State.pressJob s d packs) := by
  unfold State.pressJob
  repeat' first
    | with_reducible assumption
    | with_reducible apply State.nextJob_kept
    | with_reducible apply State.jobRun_kept
    | with_reducible apply kept_ite

theorem execPressCompress_kept {cq : List Instr} (d : Fin 2) (s : Machine.State) (h_s : Kept cq s) :
    ResultKept cq (execPressCompress d s) := by
  unfold execPressCompress
  repeat' first
    | with_reducible assumption
    | with_reducible apply State.pressJob_kept
    | with_reducible apply resultKept_next

theorem execPressDecompress_kept {cq : List Instr} (d : Fin 2) (s : Machine.State) (h_s : Kept cq s) :
    ResultKept cq (execPressDecompress d s) := by
  unfold execPressDecompress
  repeat' first
    | with_reducible assumption
    | with_reducible apply State.pressJob_kept
    | with_reducible apply resultKept_next

theorem State.pressFail_kept {cq : List Instr} (s : Machine.State) (d : ℕ) (code : ℕ) (h_s : Kept cq s) :
    Kept cq (State.pressFail s d code) := by
  unfold State.pressFail
  repeat' first
    | with_reducible assumption
    | with_reducible apply State.raise_kept
    | with_reducible apply State.prsBump_kept
    | with_reducible apply State.wv_kept
    | with_reducible apply kept_ite

theorem State.pressResult_kept {cq : List Instr} (s : Machine.State) (d : ℕ) (h_s : Kept cq s) :
    Kept cq (State.pressResult s d) := by
  unfold State.pressResult
  repeat' first
    | with_reducible assumption
    | with_reducible apply State.write_kept
    | with_reducible apply State.countBadJob_kept
    | with_reducible apply State.put_kept
    | with_reducible apply State.setPrs_kept
    | with_reducible apply State.raise_kept
    | with_reducible apply State.pressFail_kept
    | with_reducible apply kept_ite
    | simp only [kept_mk_iff]
    | split

theorem execPressResult_kept {cq : List Instr} (d : Fin 2) (s : Machine.State) (h_s : Kept cq s) :
    ResultKept cq (execPressResult d s) := by
  unfold execPressResult
  repeat' first
    | with_reducible assumption
    | with_reducible apply State.pressResult_kept
    | with_reducible apply resultKept_next

theorem State.pressCfg_kept {cq : List Instr} (s : Machine.State) (d : ℕ) (v : ℕ) (h_s : Kept cq s) :
    Kept cq (State.pressCfg s d v) := by
  unfold State.pressCfg
  repeat' first
    | with_reducible assumption
    | with_reducible apply State.put_kept
    | with_reducible apply State.setPrs_kept
    | with_reducible apply kept_ite

end Sys2Proof.Machine
end

