-- ==== Sys2Proof/Laws/KeptTraceCmds.lean ====
section
/-!
SUPPORT. What the operations of Machine/TraceCmds.lean keep (Laws/Kept.lean).
-/

namespace Sys2Proof.Machine

theorem State.showCharge_kept {cq : List Instr} (s : Machine.State) (d : ℕ) (h_s : Kept cq s) :
    Kept cq (State.showCharge s d) := by
  unfold State.showCharge
  repeat' first
    | with_reducible assumption
    | with_reducible apply State.wv_kept

theorem State.armRefuse_kept {cq : List Instr} (s : Machine.State) (d : ℕ) (p : ℕ) (code : ℕ) (h_s : Kept cq s)
    : Kept cq (State.armRefuse s d p code) := by
  unfold State.armRefuse
  repeat' first
    | with_reducible assumption
    | with_reducible apply State.raise_kept
    | with_reducible apply State.wv_kept
    | with_reducible apply kept_ite

theorem State.arm_kept {cq : List Instr} (s : Machine.State) (d : ℕ) (p : ℕ) (h_s : Kept cq s) :
    Kept cq (State.arm s d p) := by
  unfold State.arm
  repeat' first
    | with_reducible assumption
    | with_reducible apply State.armRefuse_kept
    | with_reducible apply State.wv_kept
    | with_reducible apply State.put_kept
    | with_reducible apply State.showCharge_kept
    | with_reducible apply State.openSegment_kept
    | with_reducible apply State.setProbe_kept
    | with_reducible apply kept_ite

theorem execProbeArm_kept {cq : List Instr} (d : Fin 2) (p : Fin 16) (s : Machine.State) (h_s : Kept cq s) :
    ResultKept cq (execProbeArm d p s) := by
  unfold execProbeArm
  repeat' first
    | with_reducible assumption
    | with_reducible apply hostCmd_kept
    | with_reducible apply State.arm_kept
    | intro _

theorem State.disarm_kept {cq : List Instr} (s : Machine.State) (d : ℕ) (p : ℕ) (h_s : Kept cq s) :
    Kept cq (State.disarm s d p) := by
  unfold State.disarm
  repeat' first
    | with_reducible assumption
    | with_reducible apply State.closeSegment_kept
    | with_reducible apply State.raise_kept
    | with_reducible apply State.showCharge_kept
    | with_reducible apply State.setProbe_kept
    | with_reducible apply State.put_kept
    | with_reducible apply kept_ite

theorem execProbeDisarm_kept {cq : List Instr} (d : Fin 2) (p : Fin 16) (s : Machine.State) (h_s : Kept cq s) :
    ResultKept cq (execProbeDisarm d p s) := by
  unfold execProbeDisarm
  repeat' first
    | with_reducible assumption
    | with_reducible apply hostCmd_kept
    | with_reducible apply State.disarm_kept
    | intro _

theorem State.traceCfg_kept {cq : List Instr} (s : Machine.State) (d : ℕ) (v : ℕ) (h_s : Kept cq s) :
    Kept cq (State.traceCfg s d v) := by
  unfold State.traceCfg
  repeat' first
    | with_reducible assumption
    | with_reducible apply State.put_kept
    | with_reducible apply State.disarm_kept
    | with_reducible apply kept_ite
    | with_reducible refine each_kept _ _ (fun _ _ _ => ?_) ?_

theorem State.pcfgWrite_kept {cq : List Instr} (s : Machine.State) (d : ℕ) (p : ℕ) (v : ℕ) (h_s : Kept cq s) :
    Kept cq (State.pcfgWrite s d p v) := by
  unfold State.pcfgWrite
  repeat' first
    | with_reducible assumption
    | with_reducible apply State.disarm_kept
    | with_reducible apply State.wv_kept
    | with_reducible apply State.arm_kept
    | with_reducible apply kept_ite

theorem State.openNext_kept {cq : List Instr} (s : Machine.State) (d : ℕ) (p : ℕ) (h_s : Kept cq s) :
    Kept cq (State.openNext s d p) := by
  unfold State.openNext
  repeat' first
    | with_reducible assumption
    | with_reducible apply State.openSegment_kept
    | with_reducible apply State.setProbe_kept
    | with_reducible apply kept_ite

theorem execSegmentOpen_kept {cq : List Instr} (d : Fin 2) (p : Fin 16) (s : Machine.State) (h_s : Kept cq s) :
    ResultKept cq (execSegmentOpen d p s) := by
  unfold execSegmentOpen
  repeat' first
    | with_reducible assumption
    | with_reducible apply State.openNext_kept
    | with_reducible apply resultKept_next

theorem State.traceTick_kept {cq : List Instr} (s : Machine.State) (d : ℕ) (p : ℕ) (h_s : Kept cq s) :
    Kept cq (State.traceTick s d p) := by
  unfold State.traceTick
  repeat' first
    | with_reducible assumption
    | with_reducible apply State.storeGroup_kept
    | with_reducible apply State.raise_kept
    | with_reducible apply State.setProbe_kept
    | with_reducible apply kept_ite

theorem execTraceTick_kept {cq : List Instr} (d : Fin 2) (p : Fin 16) (s : Machine.State) (h_s : Kept cq s) :
    ResultKept cq (execTraceTick d p s) := by
  unfold execTraceTick
  repeat' first
    | with_reducible assumption
    | with_reducible apply State.traceTick_kept
    | with_reducible apply resultKept_next

theorem State.rdidxWrite_kept {cq : List Instr} (s : Machine.State) (d : ℕ) (p : ℕ) (v : ℕ) (h_s : Kept cq s) :
    Kept cq (State.rdidxWrite s d p v) := by
  unfold State.rdidxWrite
  repeat' first
    | with_reducible assumption
    | with_reducible apply State.put_kept

theorem execRdidxWrite_kept {cq : List Instr} (d : Fin 2) (p : Fin 16) (val : BitVec 32) (s : Machine.State)
    (h_s : Kept cq s) : ResultKept cq (execRdidxWrite d p val s) := by
  unfold execRdidxWrite
  repeat' first
    | with_reducible assumption
    | with_reducible apply hostCmd_kept
    | with_reducible apply State.rdidxWrite_kept
    | intro _

theorem State.skewPost_kept {cq : List Instr} (s : Machine.State) (code : ℕ) (h_s : Kept cq s) :
    Kept cq (State.skewPost s code) := by
  unfold State.skewPost
  repeat' first
    | with_reducible assumption
    | with_reducible apply State.raise_kept
    | with_reducible apply State.post_kept
    | simp only [kept_mk_iff]
    | with_reducible apply kept_fold

theorem State.skewStart_kept {cq : List Instr} (s : Machine.State) (v : ℕ) (h_s : Kept cq s) :
    Kept cq (State.skewStart s v) := by
  unfold State.skewStart
  repeat' first
    | with_reducible assumption
    | with_reducible apply State.begin__kept
    | with_reducible apply State.skewPost_kept
    | with_reducible apply kept_ite
    | simp only [kept_mk_iff]
    | with_reducible apply kept_fold

theorem execSkewcmd_kept {cq : List Instr} (val : BitVec 32) (s : Machine.State) (h_s : Kept cq s) :
    ResultKept cq (execSkewcmd val s) := by
  unfold execSkewcmd
  repeat' first
    | with_reducible assumption
    | with_reducible apply hostCmd_kept
    | with_reducible apply State.skewStart_kept
    | intro _

theorem State.skewResult_kept {cq : List Instr} (s : Machine.State) (k : Skew) (p : ℕ) (h_s : Kept cq s) :
    Kept cq (State.skewResult s k p) := by
  unfold State.skewResult
  repeat' first
    | with_reducible assumption
    | with_reducible apply State.wv_kept
    | with_reducible apply kept_ite
    | split

theorem State.skewDone_kept {cq : List Instr} (s : Machine.State) (h_s : Kept cq s) :
    Kept cq (State.skewDone s) := by
  unfold State.skewDone
  repeat' first
    | with_reducible assumption
    | with_reducible apply State.skewPost_kept
    | with_reducible apply State.skewResult_kept
    | with_reducible apply kept_ite
    | with_reducible refine each_kept _ _ (fun _ _ _ => ?_) ?_
    | split

theorem execSkewComplete_kept {cq : List Instr} (s : Machine.State) (h_s : Kept cq s) :
    ResultKept cq (execSkewComplete s) := by
  unfold execSkewComplete
  repeat' first
    | with_reducible assumption
    | with_reducible apply State.skewDone_kept
    | with_reducible apply resultKept_next

end Sys2Proof.Machine
end

