-- ==== Sys2Proof/Laws/KeptReset.lean ====
section
/-!
SUPPORT. What the operations of Machine/Reset.lean keep (Laws/Kept.lean).
-/

namespace Sys2Proof.Machine

theorem State.warmInc_kept {cq : List Instr} (s : Machine.State) (t : Machine.State) (b : Fin 2) (h_s : Kept cq
    s) (h_t : Kept cq t) : Kept cq (State.warmInc s t b) := by
  unfold State.warmInc
  repeat' first
    | with_reducible assumption
    | with_reducible apply State.wv_kept
    | with_reducible apply State.put_kept
    | with_reducible apply kept_ite

theorem State.warmTime_kept {cq : List Instr} (s : Machine.State) (t : Machine.State) (h_s : Kept cq s) (h_t :
    Kept cq t) : Kept cq (State.warmTime s t) := by
  unfold State.warmTime
  repeat' first
    | with_reducible assumption
    | with_reducible apply State.put_kept
    | with_reducible apply State.warmInc_kept
    | with_reducible apply State.showRem_kept
    | simp only [kept_mk_iff]
    | with_reducible apply kept_fold

theorem State.interrupted_kept {cq : List Instr} (s : Machine.State) (h_s : Kept cq s) :
    Kept cq (State.interrupted s) := by
  unfold State.interrupted
  repeat' first
    | with_reducible assumption
    | with_reducible apply State.otpWrite_kept
    | with_reducible apply State.syncApply_kept
    | with_reducible apply State.draw_kept
    | with_reducible apply kept_ite
    | extract_lets
    | split

theorem State.cleared_kept {cq : List Instr} (s : State) (k : ResetKind) (h : Kept cq s) :
    Kept cq (State.cleared s k) := by
  unfold State.cleared
  rw [kept_mk_iff]
  exact { kept_drop (fun e => s.keepsByte k e.1) (fun w => s.keepsByte k (8 * w)) h with
    c_regs := swf_filter _ _ _ h.1.regs, c_cores := rfl, c_clusters := rfl, c_slots := rfl, c_vats := rfl
    c_areas := rfl, c_casks := rfl, c_probes := rfl, c_scrubs := rfl, c_plays := rfl, c_tdms := rfl, c_wdns := rfl
    c_macs := rfl, c_dmas := rfl, c_press := rfl, c_srtp := rfl, c_txBufs := rfl, c_txSends := rfl
    c_cellUse := rfl, c_egMarks := rfl
    c_msix := by
      split
      · exact h.1.msix
      · rfl }

theorem State.shown_kept {cq : List Instr} (s : Machine.State) (t : Machine.State) (k : ResetKind) (h_s : Kept
    cq s) (h_t : Kept cq t) : Kept cq (State.shown s t k) := by
  unfold State.shown
  repeat' first
    | with_reducible assumption
    | with_reducible apply State.put_kept
    | with_reducible apply State.wv_kept
    | with_reducible apply State.selfRefresh_kept
    | with_reducible apply State.warmTime_kept
    | with_reducible refine each_kept _ _ (fun _ _ _ => ?_) ?_
    | simp only [kept_mk_iff]
    | split

theorem State.packageReset_kept {cq : List Instr} (s : Machine.State) (k : ResetKind) (h_s : Kept cq s) :
    Kept cq (State.packageReset s k) := by
  unfold State.packageReset
  repeat' first
    | with_reducible assumption
    | with_reducible apply State.interrupted_kept
    | with_reducible apply State.shown_kept
    | with_reducible apply State.cleared_kept
    | with_reducible apply State.drivePins_kept
    | with_reducible apply kept_ite
    | simp only [kept_mk_iff]
    | with_reducible apply kept_msix
    | with_reducible exact id

theorem State.warmWith_kept {cq : List Instr} (s : Machine.State) (cause : ℕ) (h_s : Kept cq s) :
    Kept cq (State.warmWith s cause) := by
  unfold State.warmWith
  repeat' first
    | with_reducible assumption
    | with_reducible apply State.wv_kept
    | with_reducible apply State.packageReset_kept

theorem State.holdReset_kept {cq : List Instr} (s : Machine.State) (k : ResetKind) (cause : ℕ) (needFall : Bool)
    (h_s : Kept cq s) : Kept cq (State.holdReset s k cause needFall) := by
  unfold State.holdReset
  repeat' first
    | with_reducible assumption
    | with_reducible apply State.packageReset_kept
    | with_reducible apply kept_ite
    | simp only [kept_mk_iff]
    | with_reducible apply kept_fold

theorem State.porstLow_kept {cq : List Instr} (s : Machine.State) (h_s : Kept cq s) :
    Kept cq (State.porstLow s) := by
  unfold State.porstLow
  repeat' first
    | with_reducible assumption
    | simp only [kept_mk_iff]
    | with_reducible apply kept_fold

theorem State.tryRelease_kept {cq : List Instr} (s : Machine.State) (h_s : Kept cq s) :
    Kept cq (State.tryRelease s) := by
  unfold State.tryRelease
  repeat' first
    | with_reducible assumption
    | with_reducible apply State.wv_kept
    | with_reducible apply State.loadBases_kept
    | with_reducible apply kept_ite
    | simp only [kept_mk_iff]
    | with_reducible apply kept_fold

theorem execPowerOnReset_kept {cq : List Instr} (s : Machine.State) (h_s : Kept cq s) :
    ResultKept cq (execPowerOnReset s) := by
  unfold execPowerOnReset
  repeat' first
    | with_reducible assumption
    | with_reducible apply State.porstLow_kept
    | with_reducible apply State.holdReset_kept
    | with_reducible apply resultKept_next
    | simp only [kept_mk_iff]
    | with_reducible apply kept_fold

theorem execColdReset_kept {cq : List Instr} (s : Machine.State) (h_s : Kept cq s) :
    ResultKept cq (execColdReset s) := by
  unfold execColdReset
  repeat' first
    | with_reducible assumption
    | with_reducible apply State.porstLow_kept
    | with_reducible apply State.holdReset_kept
    | with_reducible apply kept_ite
    | with_reducible apply resultKept_next

theorem State.porstRise_kept {cq : List Instr} (s : Machine.State) (hostsel : ℕ) (h_s : Kept cq s) :
    Kept cq (State.porstRise s hostsel) := by
  unfold State.porstRise
  repeat' first
    | with_reducible assumption
    | with_reducible apply State.tryRelease_kept
    | with_reducible apply State.put_kept
    | with_reducible apply kept_ite
    | simp only [kept_mk_iff]
    | with_reducible apply kept_fold

theorem execPorstNRise_kept {cq : List Instr} (hostsel : BitVec 2) (s : Machine.State) (h_s : Kept cq s) :
    ResultKept cq (execPorstNRise hostsel s) := by
  unfold execPorstNRise
  repeat' first
    | with_reducible assumption
    | with_reducible apply State.porstRise_kept
    | with_reducible apply resultKept_next

theorem execWarmReset_kept {cq : List Instr} (s : Machine.State) (h_s : Kept cq s) :
    ResultKept cq (execWarmReset s) := by
  unfold execWarmReset
  repeat' first
    | with_reducible assumption
    | with_reducible apply hostCmd_kept
    | with_reducible apply State.warmWith_kept
    | intro _

theorem execClusterReset_kept {cq : List Instr} (cl : Fin 32) (s : Machine.State) (h_s : Kept cq s) :
    ResultKept cq (execClusterReset cl s) := by
  unfold execClusterReset
  repeat' first
    | with_reducible assumption
    | with_reducible apply hostCmd_kept
    | with_reducible apply State.clusterReset_kept
    | intro _

theorem State.resetWrite_kept {cq : List Instr} (s : Machine.State) (v : ℕ) (h_s : Kept cq s) :
    Kept cq (State.resetWrite s v) := by
  unfold State.resetWrite
  repeat' first
    | with_reducible assumption
    | with_reducible apply State.warmWith_kept
    | with_reducible apply State.clusterReset_kept
    | with_reducible apply kept_ite

theorem State.kick_kept {cq : List Instr} (s : Machine.State) (h_s : Kept cq s) : Kept cq (State.kick s) := by
  unfold State.kick
  repeat' first
    | with_reducible assumption
    | with_reducible apply State.wv_kept
    | simp only [kept_mk_iff]
    | with_reducible apply kept_fold

theorem State.wdtWarn_kept {cq : List Instr} (s : Machine.State) (h_s : Kept cq s) :
    Kept cq (State.wdtWarn s) := by
  unfold State.wdtWarn
  repeat' first
    | with_reducible assumption
    | with_reducible apply State.raise_kept
    | simp only [kept_mk_iff]
    | with_reducible apply kept_fold

theorem State.wdtKick_kept {cq : List Instr} (s : Machine.State) (v : ℕ) (h_s : Kept cq s) :
    Kept cq (State.wdtKick s v) := by
  unfold State.wdtKick
  repeat' first
    | with_reducible assumption
    | with_reducible apply State.kick_kept
    | with_reducible apply kept_ite

theorem execWdtKick_kept {cq : List Instr} (val : BitVec 8) (s : Machine.State) (h_s : Kept cq s) :
    ResultKept cq (execWdtKick val s) := by
  unfold execWdtKick
  repeat' first
    | with_reducible assumption
    | with_reducible apply hostCmd_kept
    | with_reducible apply State.wdtKick_kept
    | intro _

theorem State.wdtConfig_kept {cq : List Instr} (s : Machine.State) (v : ℕ) (h_s : Kept cq s) :
    Kept cq (State.wdtConfig s v) := by
  unfold State.wdtConfig
  repeat' first
    | with_reducible assumption
    | with_reducible apply State.wv_kept
    | with_reducible apply State.kick_kept
    | with_reducible apply State.warmWith_kept
    | with_reducible apply State.wdtWarn_kept
    | with_reducible apply kept_ite

theorem execWdtCfgWrite_kept {cq : List Instr} (val : BitVec 32) (s : Machine.State) (h_s : Kept cq s) :
    ResultKept cq (execWdtCfgWrite val s) := by
  unfold execWdtCfgWrite
  repeat' first
    | with_reducible assumption
    | with_reducible apply hostCmd_kept
    | with_reducible apply State.wdtConfig_kept
    | intro _

theorem execWatchdogWarning_kept {cq : List Instr} (s : Machine.State) (h_s : Kept cq s) :
    ResultKept cq (execWatchdogWarning s) := by
  unfold execWatchdogWarning
  repeat' first
    | with_reducible assumption
    | with_reducible apply State.wdtWarn_kept
    | with_reducible apply kept_ite
    | with_reducible apply resultKept_next

theorem execWatchdogReset_kept {cq : List Instr} (s : Machine.State) (h_s : Kept cq s) :
    ResultKept cq (execWatchdogReset s) := by
  unfold execWatchdogReset
  repeat' first
    | with_reducible assumption
    | with_reducible apply State.warmWith_kept
    | with_reducible apply kept_ite
    | with_reducible apply resultKept_next

theorem State.dropDram_kept {cq : List Instr} (s : Machine.State) (c : ℕ) (h_s : Kept cq s) :
    Kept cq (State.dropDram s c) := by
  unfold State.dropDram
  repeat' first
    | with_reducible assumption
    | with_reducible apply State.zeroRange_kept

theorem State.loseDdr_kept {cq : List Instr} (s : Machine.State) (h_s : Kept cq s) :
    Kept cq (State.loseDdr s) := by
  unfold State.loseDdr
  repeat' first
    | with_reducible assumption
    | with_reducible apply State.put_kept
    | with_reducible apply State.dropDram_kept
    | with_reducible refine each_kept _ _ (fun _ _ _ => ?_) ?_

theorem State.pgoodFall_kept {cq : List Instr} (s : Machine.State) (i : ℕ) (us : ℕ) (h_s : Kept cq s) :
    Kept cq (State.pgoodFall s i us) := by
  unfold State.pgoodFall
  repeat' first
    | with_reducible assumption
    | with_reducible apply State.errClass_kept
    | with_reducible apply State.loseDdr_kept
    | with_reducible apply State.holdReset_kept
    | with_reducible apply kept_ite
    | simp only [kept_mk_iff]
    | with_reducible apply kept_fold

theorem execPgoodLow_kept {cq : List Instr} (i : Fin 3) (us : ℕ) (s : Machine.State) (h_s : Kept cq s) :
    ResultKept cq (execPgoodLow i us s) := by
  unfold execPgoodLow
  repeat' first
    | with_reducible assumption
    | with_reducible apply State.pgoodFall_kept
    | with_reducible apply resultKept_next

theorem State.pgoodRise_kept {cq : List Instr} (s : Machine.State) (i : ℕ) (h_s : Kept cq s) :
    Kept cq (State.pgoodRise s i) := by
  unfold State.pgoodRise
  repeat' first
    | with_reducible assumption
    | with_reducible apply State.tryRelease_kept
    | simp only [kept_mk_iff]
    | with_reducible apply kept_fold

theorem execPgoodRise_kept {cq : List Instr} (i : Fin 3) (s : Machine.State) (h_s : Kept cq s) :
    ResultKept cq (execPgoodRise i s) := by
  unfold execPgoodRise
  repeat' first
    | with_reducible assumption
    | with_reducible apply State.pgoodRise_kept
    | with_reducible apply resultKept_next

theorem execRegulatorOutOfRange_kept {cq : List Instr} (island : BitVec 6) (s : Machine.State) (h_s : Kept cq s)
    : ResultKept cq (execRegulatorOutOfRange island s) := by
  unfold execRegulatorOutOfRange
  repeat' first
    | with_reducible assumption
    | with_reducible apply State.errClass_kept
    | with_reducible apply kept_ite
    | with_reducible apply resultKept_next

theorem State.ddrWrite_kept {cq : List Instr} (s : Machine.State) (c : ℕ) (v : ℕ) (h_s : Kept cq s) :
    Kept cq (State.ddrWrite s c v) := by
  unfold State.ddrWrite
  repeat' first
    | with_reducible assumption
    | with_reducible apply State.put_kept
    | with_reducible apply State.wv_kept
    | with_reducible apply State.post_kept
    | with_reducible apply State.begin__kept
    | with_reducible apply State.dropDram_kept
    | with_reducible apply kept_ite

theorem execDdrEnable_kept {cq : List Instr} (c : Fin 4) (val : BitVec 32) (s : Machine.State) (h_s : Kept cq s)
    : ResultKept cq (execDdrEnable c val s) := by
  unfold execDdrEnable
  repeat' first
    | with_reducible assumption
    | with_reducible apply hostCmd_kept
    | with_reducible apply State.ddrWrite_kept
    | intro _

theorem State.trained_kept {cq : List Instr} (s : Machine.State) (c : ℕ) (ok : Bool) (h_s : Kept cq s) :
    Kept cq (State.trained s c ok) := by
  unfold State.trained
  repeat' first
    | with_reducible assumption
    | with_reducible apply State.raise_kept
    | with_reducible apply State.post_kept
    | with_reducible apply State.put_kept
    | with_reducible apply State.dropDram_kept
    | with_reducible apply kept_ite

theorem execDdrTrainingComplete_kept {cq : List Instr} (c : Fin 4) (ok : Bool) (s : Machine.State) (h_s : Kept
    cq s) : ResultKept cq (execDdrTrainingComplete c ok s) := by
  unfold execDdrTrainingComplete
  repeat' first
    | with_reducible assumption
    | with_reducible apply State.trained_kept
    | with_reducible apply resultKept_next

theorem State.logFlit_kept {cq : List Instr} (s : Machine.State) (h_s : Kept cq s) :
    Kept cq (State.logFlit s) := by
  unfold State.logFlit
  repeat' first
    | with_reducible assumption
    | with_reducible apply State.logError_kept
    | with_reducible apply State.draw_kept

theorem State.divide_kept {cq : List Instr} (s : Machine.State) (h_s : Kept cq s) :
    Kept cq (State.divide s) := by
  unfold State.divide
  repeat' first
    | with_reducible assumption
    | with_reducible apply State.errClass_kept
    | with_reducible apply State.abortRehome_kept
    | with_reducible refine each_kept _ _ (fun _ _ _ => ?_) ?_

theorem State.hingeRetry_kept {cq : List Instr} (s : Machine.State) (lane : ℕ) (attempt : ℕ) (h_s : Kept cq s) :
    Kept cq (State.hingeRetry s lane attempt) := by
  unfold State.hingeRetry
  repeat' first
    | with_reducible assumption
    | with_reducible apply State.raise_kept
    | with_reducible apply State.bump_kept
    | with_reducible apply State.put_kept
    | with_reducible apply State.logFlit_kept
    | with_reducible apply State.divide_kept
    | with_reducible apply kept_ite

theorem execHingeFlitRetry_kept {cq : List Instr} (lane : Fin 4) (attempt : Fin 8) (s : Machine.State) (h_s :
    Kept cq s) : ResultKept cq (execHingeFlitRetry lane attempt s) := by
  unfold execHingeFlitRetry
  repeat' first
    | with_reducible assumption
    | with_reducible apply State.hingeRetry_kept
    | with_reducible apply resultKept_next

theorem execCrossbarFlitRetry_kept {cq : List Instr} (d : Fin 2) (port : Fin 32) (attempt : Fin 8) (s :
    Machine.State) (h_s : Kept cq s) : ResultKept cq (execCrossbarFlitRetry d port attempt s) := by
  unfold execCrossbarFlitRetry
  repeat' first
    | with_reducible assumption
    | with_reducible apply State.bumpDie_kept
    | with_reducible apply State.holdReset_kept
    | with_reducible apply State.errClass_kept
    | with_reducible apply kept_ite
    | with_reducible apply resultKept_next

end Sys2Proof.Machine
end

