-- ==== Sys2Proof/Laws/KeptThermal.lean ====
section
/-!
SUPPORT. What the operations of Machine/Thermal.lean keep (Laws/Kept.lean).
-/

namespace Sys2Proof.Machine

theorem State.showLimiting_kept {cq : List Instr} (s : Machine.State) (h_s : Kept cq s) :
    Kept cq (State.showLimiting s) := by
  unfold State.showLimiting
  repeat' first
    | with_reducible assumption
    | with_reducible apply State.put_kept

theorem State.setCeil_kept {cq : List Instr} (s : Machine.State) (i : ℕ) (c : ℕ) (h_s : Kept cq s) :
    Kept cq (State.setCeil s i c) := by
  unfold State.setCeil
  repeat' first
    | with_reducible assumption
    | with_reducible apply State.applyPoint_kept
    | with_reducible apply State.put_kept

theorem State.showTemps_kept {cq : List Instr} (s : Machine.State) (l : List (ℕ × ℤ)) (h_s : Kept cq s) :
    Kept cq (State.showTemps s l) := by
  unfold State.showTemps
  repeat' first
    | with_reducible assumption
    | with_reducible apply State.wv_kept
    | with_reducible refine each_kept _ _ (fun _ _ _ => ?_) ?_

theorem State.thermalSample_kept {cq : List Instr} (s : Machine.State) (r : List ℤ) (h_s : Kept cq s) :
    Kept cq (State.thermalSample s r) := by
  unfold State.thermalSample
  repeat' first
    | with_reducible assumption
    | with_reducible apply State.put_kept
    | with_reducible apply State.showTemps_kept
    | with_reducible apply State.tryRelease_kept
    | with_reducible apply State.holdReset_kept
    | with_reducible apply State.errClass_kept
    | with_reducible apply kept_ite
    | simp only [kept_mk_iff]
    | with_reducible apply kept_fold

theorem execThermalSample_kept {cq : List Instr} (readings : List ℤ) (s : Machine.State) (h_s : Kept cq s) :
    ResultKept cq (execThermalSample readings s) := by
  unfold execThermalSample
  repeat' first
    | with_reducible assumption
    | with_reducible apply State.thermalSample_kept
    | with_reducible apply resultKept_next

theorem State.forceFabric_kept {cq : List Instr} (s : Machine.State) (f : ℕ) (h_s : Kept cq s) :
    Kept cq (State.forceFabric s f) := by
  unfold State.forceFabric
  repeat' first
    | with_reducible assumption
    | with_reducible apply State.setCeil_kept
    | simp only [kept_mk_iff]
    | with_reducible apply kept_fold

theorem State.atLowest_kept {cq : List Instr} (s : Machine.State) (i : ℕ) (h_s : Kept cq s) :
    Kept cq (State.atLowest s i) := by
  unfold State.atLowest
  repeat' first
    | with_reducible assumption
    | with_reducible apply kept_ite
    | simp only [kept_mk_iff]
    | with_reducible apply kept_fold

theorem State.fallOne_kept {cq : List Instr} (s : Machine.State) (i : ℕ) (h_s : Kept cq s) :
    Kept cq (State.fallOne s i) := by
  unfold State.fallOne
  repeat' first
    | with_reducible assumption
    | with_reducible apply State.atLowest_kept
    | with_reducible apply State.setCeil_kept
    | with_reducible apply State.forceFabric_kept
    | with_reducible apply kept_ite

theorem State.unforce_kept {cq : List Instr} (s : Machine.State) (f : ℕ) (h_s : Kept cq s) :
    Kept cq (State.unforce s f) := by
  unfold State.unforce
  repeat' first
    | with_reducible assumption
    | with_reducible apply State.setCeil_kept
    | with_reducible apply kept_ite
    | simp only [kept_mk_iff]
    | with_reducible apply kept_fold

theorem State.ceilStep_kept {cq : List Instr} (s : Machine.State) (h_s : Kept cq s) :
    Kept cq (State.ceilStep s) := by
  unfold State.ceilStep
  repeat' first
    | with_reducible assumption
    | with_reducible apply State.fallOne_kept
    | with_reducible apply State.showLimiting_kept
    | with_reducible apply State.unforce_kept
    | with_reducible apply kept_ite
    | with_reducible refine each_kept _ _ (fun _ _ _ => ?_) ?_

theorem execCeilStep_kept {cq : List Instr} (s : Machine.State) (h_s : Kept cq s) :
    ResultKept cq (execCeilStep s) := by
  unfold execCeilStep
  repeat' first
    | with_reducible assumption
    | with_reducible apply State.ceilStep_kept
    | with_reducible apply resultKept_next

theorem State.ceilRise_kept {cq : List Instr} (s : Machine.State) (i : ℕ) (h_s : Kept cq s) :
    Kept cq (State.ceilRise s i) := by
  unfold State.ceilRise
  repeat' first
    | with_reducible assumption
    | with_reducible apply State.showLimiting_kept
    | with_reducible apply State.forceFabric_kept
    | with_reducible apply State.setCeil_kept
    | with_reducible apply kept_ite
    | simp only [kept_mk_iff]
    | with_reducible apply kept_fold

theorem execCeilRise_kept {cq : List Instr} (island : BitVec 6) (s : Machine.State) (h_s : Kept cq s) :
    ResultKept cq (execCeilRise island s) := by
  unfold execCeilRise
  repeat' first
    | with_reducible assumption
    | with_reducible apply State.ceilRise_kept
    | with_reducible apply resultKept_next

end Sys2Proof.Machine
end

