-- ==== Sys2Proof/Laws/KeptHostRegs.lean ====
section
/-!
SUPPORT. What the operations of Machine/HostRegs.lean keep (Laws/Kept.lean).
-/

namespace Sys2Proof.Machine

theorem State.plainWrite_kept {cq : List Instr} (s : Machine.State) (a : ℕ) (v : ℕ) (h_s : Kept cq s) :
    Kept cq (State.plainWrite s a v) := by
  unfold State.plainWrite
  repeat' first
    | with_reducible assumption
    | with_reducible apply State.setReg_kept
    | with_reducible apply State.changed_kept
    | with_reducible apply kept_ite
    | simp only [kept_mk_iff]
    | split

theorem State.unlessWrite_kept {cq : List Instr} (s : Machine.State) (held : Bool) (a : ℕ) (v : ℕ) (h_s : Kept
    cq s) : Kept cq (State.unlessWrite s held a v) := by
  unfold State.unlessWrite
  repeat' first
    | with_reducible assumption
    | with_reducible apply State.plainWrite_kept
    | with_reducible apply kept_ite

theorem State.writeGlb_kept {cq : List Instr} (s : Machine.State) (o : ℕ) (v : ℕ) (h_s : Kept cq s) :
    Kept cq (State.writeGlb s o v) := by
  unfold State.writeGlb
  repeat' first
    | with_reducible assumption
    | with_reducible apply State.dvfsAsk_kept
    | with_reducible apply State.plainWrite_kept
    | with_reducible apply State.pwrExit_kept
    | with_reducible apply State.pwrEnter_kept
    | with_reducible apply State.draw_kept
    | with_reducible apply State.resetWrite_kept
    | with_reducible apply State.wdtConfig_kept
    | with_reducible apply State.wdtKick_kept
    | with_reducible apply kept_ite

theorem State.showHalf_kept {cq : List Instr} (s : Machine.State) (h_s : Kept cq s) :
    Kept cq (State.showHalf s) := by
  unfold State.showHalf
  repeat' first
    | with_reducible assumption
    | with_reducible apply State.putBytes_kept
    | with_reducible apply kept_ite

theorem State.windowWrite_kept {cq : List Instr} (s : Machine.State) (a : ℕ) (v : ℕ) (h_s : Kept cq s) :
    Kept cq (State.windowWrite s a v) := by
  unfold State.windowWrite
  repeat' first
    | with_reducible assumption
    | with_reducible apply State.dropOther_kept
    | with_reducible apply State.writeLe_kept
    | with_reducible apply kept_ite

theorem State.writeSec_kept {cq : List Instr} (s : Machine.State) (o : ℕ) (v : ℕ) (h_s : Kept cq s) :
    Kept cq (State.writeSec s o v) := by
  unfold State.writeSec
  repeat' first
    | with_reducible assumption
    | with_reducible apply State.windowWrite_kept
    | with_reducible apply State.bootLoad_kept
    | with_reducible apply State.otpStart_kept
    | with_reducible apply State.showHalf_kept
    | with_reducible apply State.plainWrite_kept
    | with_reducible apply State.mrExtend_kept
    | with_reducible apply State.quoteStart_kept
    | with_reducible apply State.rng_kept
    | with_reducible apply State.challenge_kept
    | with_reducible apply State.unlock_kept
    | with_reducible apply State.lock_kept
    | with_reducible apply kept_ite
    | extract_lets
    | split

theorem State.dcfgWrite_kept {cq : List Instr} (s : Machine.State) (b : ℕ) (v : ℕ) (h_s : Kept cq s) :
    Kept cq (State.dcfgWrite s b v) := by
  unfold State.dcfgWrite
  repeat' first
    | with_reducible assumption
    | with_reducible apply State.plainWrite_kept
    | with_reducible apply State.domToFree_kept
    | with_reducible apply kept_ite

theorem State.tbCommand_kept {cq : List Instr} (s : Machine.State) (b : Fin 4) (v : ℕ) (h_s : Kept cq s) :
    Kept cq (State.tbCommand s b v) := by
  unfold State.tbCommand
  repeat' first
    | with_reducible assumption
    | with_reducible apply State.tbSet_kept
    | with_reducible apply State.tbStep_kept
    | with_reducible apply State.align_kept
    | with_reducible apply State.baseCmd_kept
    | with_reducible exact id
    | intro _
    | split

theorem State.calInvalid_kept {cq : List Instr} (s : Machine.State) (h_s : Kept cq s) :
    Kept cq (State.calInvalid s) := by
  unfold State.calInvalid
  repeat' first
    | with_reducible assumption
    | with_reducible apply State.post_kept
    | with_reducible apply State.begin__kept
    | with_reducible apply kept_ite

theorem State.writeBase_kept {cq : List Instr} (s : Machine.State) (b : ℕ) (o : ℕ) (v : ℕ) (h_s : Kept cq s) :
    Kept cq (State.writeBase s b o v) := by
  unfold State.writeBase
  repeat' first
    | with_reducible assumption
    | with_reducible apply State.tbCommand_kept
    | with_reducible apply State.plainWrite_kept
    | with_reducible apply State.incWrite_kept
    | with_reducible apply State.adj_kept
    | with_reducible apply State.dcfgWrite_kept
    | with_reducible apply kept_ite

theorem State.writeTime_kept {cq : List Instr} (s : Machine.State) (o : ℕ) (v : ℕ) (h_s : Kept cq s) :
    Kept cq (State.writeTime s o v) := by
  unfold State.writeTime
  repeat' first
    | with_reducible assumption
    | with_reducible apply State.refsel_kept
    | with_reducible apply State.put_kept
    | with_reducible apply State.tb2ctl_kept
    | with_reducible apply State.capture__kept
    | with_reducible apply State.writeBase_kept
    | with_reducible apply State.calSet_kept
    | with_reducible apply State.calSync_kept
    | with_reducible apply State.calInvalid_kept
    | with_reducible apply State.plainWrite_kept
    | with_reducible apply kept_ite
    | extract_lets
    | split

theorem State.writeEvt_kept {cq : List Instr} (s : Machine.State) (o : ℕ) (v : ℕ) (h_s : Kept cq s) :
    Kept cq (State.writeEvt s o v) := by
  unfold State.writeEvt
  repeat' first
    | with_reducible assumption
    | with_reducible apply State.vackWrite_kept
    | with_reducible apply State.settle_kept
    | with_reducible apply State.plainWrite_kept
    | with_reducible apply kept_ite

theorem State.writeHif_kept {cq : List Instr} (s : Machine.State) (o : ℕ) (v : ℕ) (h_s : Kept cq s) :
    Kept cq (State.writeHif s o v) := by
  unfold State.writeHif
  repeat' first
    | with_reducible assumption
    | with_reducible apply State.dmaCfg_kept
    | with_reducible apply State.unlessWrite_kept
    | with_reducible apply State.plainWrite_kept
    | with_reducible apply kept_ite

theorem State.writeWdn_kept {cq : List Instr} (s : Machine.State) (d : ℕ) (o : ℕ) (v : ℕ) (h_s : Kept cq s) :
    Kept cq (State.writeWdn s d o v) := by
  unfold State.writeWdn
  repeat' first
    | with_reducible assumption
    | with_reducible apply State.policyCommit_kept
    | with_reducible apply State.clOp_kept
    | with_reducible apply State.rhMove_kept
    | with_reducible apply State.rhAbort_kept
    | with_reducible apply State.rhInvalid_kept
    | with_reducible apply State.plainWrite_kept
    | with_reducible apply kept_ite
    | extract_lets
    | split

theorem State.cskCommand_kept {cq : List Instr} (s : Machine.State) (h : ℕ) (op : ℕ) (h_s : Kept cq s) :
    Kept cq (State.cskCommand s h op) := by
  unfold State.cskCommand
  repeat' first
    | with_reducible assumption
    | with_reducible apply State.cskCreate_kept
    | with_reducible apply State.cskFlush_kept
    | with_reducible apply State.cskDestroy_kept
    | with_reducible apply State.cskInvalid_kept
    | split

theorem State.hwCommand_kept {cq : List Instr} (s : Machine.State) (h : ℕ) (op : ℕ) (h_s : Kept cq s) :
    Kept cq (State.hwCommand s h op) := by
  unfold State.hwCommand
  repeat' first
    | with_reducible assumption
    | with_reducible apply State.hwPush_kept
    | with_reducible apply State.hwCommit_kept
    | with_reducible apply State.hwAbort_kept
    | with_reducible apply State.hwAdv_kept
    | split

theorem State.writeCsk_kept {cq : List Instr} (s : Machine.State) (d : ℕ) (o : ℕ) (v : ℕ) (h_s : Kept cq s) :
    Kept cq (State.writeCsk s d o v) := by
  unfold State.writeCsk
  repeat' first
    | with_reducible assumption
    | with_reducible apply State.cskCommand_kept
    | with_reducible apply State.hwCommand_kept
    | with_reducible apply State.gack_kept
    | with_reducible apply State.unlessWrite_kept
    | with_reducible apply State.plainWrite_kept
    | with_reducible apply kept_ite

theorem State.clearBoth_kept {cq : List Instr} (s : Machine.State) (x : ℕ) (y : ℕ) (v : ℕ) (h_s : Kept cq s) :
    Kept cq (State.clearBoth s x y v) := by
  unfold State.clearBoth
  repeat' first
    | with_reducible assumption
    | with_reducible apply State.changed_kept
    | with_reducible apply State.setReg_kept

theorem State.writeCls_kept {cq : List Instr} (s : Machine.State) (o : ℕ) (v : ℕ) (h_s : Kept cq s) :
    Kept cq (State.writeCls s o v) := by
  unfold State.writeCls
  repeat' first
    | with_reducible assumption
    | with_reducible apply State.clsCommand_kept
    | with_reducible apply State.clearBoth_kept
    | with_reducible apply State.plainWrite_kept
    | with_reducible apply kept_ite

theorem State.writePly_kept {cq : List Instr} (s : Machine.State) (o : ℕ) (v : ℕ) (h_s : Kept cq s) :
    Kept cq (State.writePly s o v) := by
  unfold State.writePly
  repeat' first
    | with_reducible assumption
    | with_reducible apply State.put_kept
    | with_reducible apply State.plyEnable_kept
    | with_reducible apply State.clearBoth_kept
    | with_reducible apply State.unlessWrite_kept
    | with_reducible apply kept_ite

theorem State.writePrs_kept {cq : List Instr} (s : Machine.State) (o : ℕ) (v : ℕ) (h_s : Kept cq s) :
    Kept cq (State.writePrs s o v) := by
  unfold State.writePrs
  repeat' first
    | with_reducible assumption
    | with_reducible apply State.pressCfg_kept
    | with_reducible apply State.plainWrite_kept
    | with_reducible apply kept_ite

theorem State.writeTrc_kept {cq : List Instr} (s : Machine.State) (o : ℕ) (v : ℕ) (h_s : Kept cq s) :
    Kept cq (State.writeTrc s o v) := by
  unfold State.writeTrc
  repeat' first
    | with_reducible assumption
    | with_reducible apply State.traceCfg_kept
    | with_reducible apply State.skewStart_kept
    | with_reducible apply State.pcfgWrite_kept
    | with_reducible apply State.rdidxWrite_kept
    | with_reducible apply State.unlessWrite_kept
    | with_reducible apply State.plainWrite_kept
    | with_reducible apply kept_ite

theorem State.macCfgWrite_kept {cq : List Instr} (s : Machine.State) (m : ℕ) (v : ℕ) (h_s : Kept cq s) :
    Kept cq (State.macCfgWrite s m v) := by
  unfold State.macCfgWrite
  repeat' first
    | with_reducible assumption
    | with_reducible apply State.plainWrite_kept
    | with_reducible apply State.put_kept
    | with_reducible apply kept_ite

theorem State.mdioWrite_kept {cq : List Instr} (s : Machine.State) (v : ℕ) (h_s : Kept cq s) :
    Kept cq (State.mdioWrite s v) := by
  unfold State.mdioWrite
  repeat' first
    | with_reducible assumption
    | with_reducible apply State.mdio_kept
    | with_reducible apply State.draw_kept
    | with_reducible apply kept_ite

theorem State.writeQueue_kept {cq : List Instr} (s : Machine.State) (o : ℕ) (v : ℕ) (h_s : Kept cq s) :
    Kept cq (State.writeQueue s o v) := by
  unfold State.writeQueue
  repeat' first
    | with_reducible assumption
    | with_reducible apply State.rqCfg_kept
    | with_reducible apply State.unlessWrite_kept
    | with_reducible apply State.tqCfg_kept
    | with_reducible apply kept_ite

theorem State.writeMac_kept {cq : List Instr} (s : Machine.State) (m : ℕ) (o : ℕ) (v : ℕ) (h_s : Kept cq s) :
    Kept cq (State.writeMac s m o v) := by
  unfold State.writeMac
  repeat' first
    | with_reducible assumption
    | with_reducible apply State.macCfgWrite_kept
    | with_reducible apply State.macCtrl_kept
    | with_reducible apply State.unlessWrite_kept
    | with_reducible apply State.mdioWrite_kept
    | with_reducible apply State.writeQueue_kept
    | with_reducible apply State.plainWrite_kept
    | with_reducible apply kept_ite

theorem State.tdmCfgWrite_kept {cq : List Instr} (s : Machine.State) (p : ℕ) (v : ℕ) (h_s : Kept cq s) :
    Kept cq (State.tdmCfgWrite s p v) := by
  unfold State.tdmCfgWrite
  repeat' first
    | with_reducible assumption
    | with_reducible apply State.plainWrite_kept
    | with_reducible apply State.put_kept
    | with_reducible apply kept_ite

theorem State.writeTdm_kept {cq : List Instr} (s : Machine.State) (p : ℕ) (o : ℕ) (v : ℕ) (h_s : Kept cq s) :
    Kept cq (State.writeTdm s p o v) := by
  unfold State.writeTdm
  repeat' first
    | with_reducible assumption
    | with_reducible apply State.tdmCfgWrite_kept
    | with_reducible apply State.tdmCtrl_kept
    | with_reducible apply State.unlessWrite_kept
    | with_reducible apply State.hdlcCfg_kept
    | with_reducible apply State.plainWrite_kept
    | with_reducible apply kept_ite

theorem State.hpCommand_kept {cq : List Instr} (s : Machine.State) (n : ℕ) (v : ℕ) (h_s : Kept cq s) :
    Kept cq (State.hpCommand s n v) := by
  unfold State.hpCommand
  repeat' first
    | with_reducible assumption
    | with_reducible apply State.hpPost_kept
    | with_reducible apply State.hpDelay_kept
    | with_reducible apply State.hpCancel_kept
    | split

theorem State.ringDoorbell_kept {cq : List Instr} (s : Machine.State) (n : ℕ) (k : ℕ) (v : ℕ) (h_s : Kept cq s)
    : Kept cq (State.ringDoorbell s n k v) := by
  unfold State.ringDoorbell
  repeat' first
    | with_reducible assumption
    | with_reducible apply State.commit_kept
    | with_reducible apply State.delete_kept
    | with_reducible apply State.badDoorbell_kept
    | simp only [kept_mk_iff]
    | split

theorem State.acmdWrite_kept {cq : List Instr} (s : Machine.State) (n : ℕ) (v : ℕ) (h_s : Kept cq s) :
    Kept cq (State.acmdWrite s n v) := by
  unfold State.acmdWrite
  repeat' first
    | with_reducible assumption
    | with_reducible apply State.alloc_kept
    | with_reducible apply State.freeSlot_kept
    | with_reducible apply State.query_kept
    | with_reducible apply State.acmd_kept
    | with_reducible exact id
    | intro _
    | split

theorem State.writeCtx_kept {cq : List Instr} (s : Machine.State) (n : ℕ) (o : ℕ) (v : ℕ) (h_s : Kept cq s) :
    Kept cq (State.writeCtx s n o v) := by
  unfold State.writeCtx
  repeat' first
    | with_reducible assumption
    | with_reducible apply State.acmdWrite_kept
    | with_reducible apply State.ringDoorbell_kept
    | with_reducible apply State.reassess_kept
    | with_reducible apply State.plainWrite_kept
    | with_reducible apply kept_ite

theorem State.enWrite_kept {cq : List Instr} (s : Machine.State) (n : ℕ) (a : ℕ) (use : ℕ) (v : ℕ) (h_s : Kept
    cq s) : Kept cq (State.enWrite s n a use v) := by
  unfold State.enWrite
  repeat' first
    | with_reducible assumption
    | with_reducible apply State.reassess_kept
    | with_reducible apply State.plainWrite_kept

theorem State.writeVat_kept {cq : List Instr} (s : Machine.State) (n : ℕ) (o : ℕ) (v : ℕ) (h_s : Kept cq s) :
    Kept cq (State.writeVat s n o v) := by
  unfold State.writeVat
  repeat' first
    | with_reducible assumption
    | with_reducible apply State.enWrite_kept
    | with_reducible apply State.unlessWrite_kept
    | with_reducible apply kept_ite

theorem State.writeTone_kept {cq : List Instr} (s : Machine.State) (n : ℕ) (o : ℕ) (v : ℕ) (h_s : Kept cq s) :
    Kept cq (State.writeTone s n o v) := by
  unfold State.writeTone
  repeat' first
    | with_reducible assumption
    | with_reducible apply State.enWrite_kept
    | with_reducible apply State.unlessWrite_kept
    | with_reducible apply State.plainWrite_kept
    | with_reducible apply kept_ite

theorem State.writeVde_kept {cq : List Instr} (s : Machine.State) (n : ℕ) (o : ℕ) (v : ℕ) (h_s : Kept cq s) :
    Kept cq (State.writeVde s n o v) := by
  unfold State.writeVde
  repeat' first
    | with_reducible assumption
    | with_reducible apply State.enWrite_kept
    | with_reducible apply State.unlessWrite_kept
    | with_reducible apply kept_ite

theorem State.writeSrc_kept {cq : List Instr} (s : Machine.State) (n : ℕ) (o : ℕ) (v : ℕ) (h_s : Kept cq s) :
    Kept cq (State.writeSrc s n o v) := by
  unfold State.writeSrc
  repeat' first
    | with_reducible assumption
    | with_reducible apply State.enWrite_kept
    | with_reducible apply State.srcUcmd_kept
    | with_reducible apply State.plainWrite_kept
    | with_reducible apply kept_ite

theorem State.debugAct_kept {cq : List Instr} (s : Machine.State) (n : ℕ) (t : ℕ) (k : ℕ) (h_s : Kept cq s) :
    Kept cq (State.debugAct s n t k) := by
  unfold State.debugAct
  repeat' first
    | with_reducible assumption
    | with_reducible apply State.haltTile_kept
    | with_reducible apply State.resumeTile_kept
    | with_reducible apply State.setCore_kept
    | with_reducible apply kept_ite
    | simp only [kept_mk_iff]
    | split

theorem State.dbgCtrl_kept {cq : List Instr} (s : Machine.State) (n : ℕ) (t : ℕ) (v : ℕ) (h_s : Kept cq s) :
    Kept cq (State.dbgCtrl s n t v) := by
  unfold State.dbgCtrl
  repeat' first
    | with_reducible assumption
    | with_reducible apply State.plainWrite_kept
    | with_reducible apply State.debugAct_kept
    | with_reducible apply State.draw_kept
    | simp only [kept_mk_iff]
    | split

theorem State.writeTile_kept {cq : List Instr} (s : Machine.State) (n : ℕ) (t : ℕ) (o : ℕ) (v : ℕ) (h_s : Kept
    cq s) : Kept cq (State.writeTile s n t o v) := by
  unfold State.writeTile
  repeat' first
    | with_reducible assumption
    | with_reducible apply State.dbgCtrl_kept
    | with_reducible apply State.plainWrite_kept
    | with_reducible apply State.setCore_kept
    | with_reducible apply State.put_kept
    | with_reducible apply kept_ite
    | extract_lets
    | split

theorem State.writeCluster_kept {cq : List Instr} (s : Machine.State) (n : ℕ) (o : ℕ) (v : ℕ) (h_s : Kept cq s)
    : Kept cq (State.writeCluster s n o v) := by
  unfold State.writeCluster
  repeat' first
    | with_reducible assumption
    | with_reducible apply State.hpCommand_kept
    | with_reducible apply State.plainWrite_kept
    | with_reducible apply State.writeCtx_kept
    | with_reducible apply State.writeVat_kept
    | with_reducible apply State.writeTone_kept
    | with_reducible apply State.writeSrc_kept
    | with_reducible apply State.writeVde_kept
    | with_reducible apply State.writeTile_kept
    | with_reducible apply kept_ite

theorem State.writeReg_kept {cq : List Instr} (s : Machine.State) (a : ℕ) (v : ℕ) (h_s : Kept cq s) :
    Kept cq (State.writeReg s a v) := by
  unfold State.writeReg
  repeat' first
    | with_reducible assumption
    | with_reducible apply State.writeGlb_kept
    | with_reducible apply State.writeSec_kept
    | with_reducible apply State.writeTime_kept
    | with_reducible apply State.writeEvt_kept
    | with_reducible apply State.writeHif_kept
    | with_reducible apply State.writeWdn_kept
    | with_reducible apply State.ddrWrite_kept
    | with_reducible apply State.plainWrite_kept
    | with_reducible apply State.writeCsk_kept
    | with_reducible apply State.writeCls_kept
    | with_reducible apply State.writePly_kept
    | with_reducible apply State.writePrs_kept
    | with_reducible apply State.writeTrc_kept
    | with_reducible apply State.writeMac_kept
    | with_reducible apply State.writeTdm_kept
    | with_reducible apply State.writeCluster_kept
    | with_reducible apply kept_ite

theorem State.regWrite_kept {cq : List Instr} (s : Machine.State) (port : ℕ) (a : ℕ) (be : ℕ) (v : ℕ) (h_s :
    Kept cq s) : Kept cq (State.regWrite s port a be v) := by
  unfold State.regWrite
  repeat' first
    | with_reducible assumption
    | with_reducible apply State.dropDecode_kept
    | with_reducible apply State.dropOther_kept
    | with_reducible apply State.writeReg_kept
    | with_reducible apply State.dropPartial_kept
    | with_reducible apply kept_ite
    | split

theorem execRegisterWrite_kept {cq : List Instr} (off : BitVec 26) (be : BitVec 4) (val : BitVec 32) (s :
    Machine.State) (h_s : Kept cq s) : ResultKept cq (execRegisterWrite off be val s) := by
  unfold execRegisterWrite
  repeat' first
    | with_reducible assumption
    | with_reducible apply State.regWrite_kept
    | with_reducible apply resultKept_next

theorem State.wordWrite_kept {cq : List Instr} (s : Machine.State) (a : ℕ) (bs : List (Option Byte)) (ecc : Ecc)
    (h_s : Kept cq s) : Kept cq (State.wordWrite s a bs ecc) := by
  unfold State.wordWrite
  repeat' first
    | with_reducible assumption
    | with_reducible apply State.dropDecode_kept
    | with_reducible apply State.dropOther_kept
    | with_reducible apply State.writeOpt_kept
    | with_reducible apply State.eccAt_kept
    | with_reducible apply kept_ite
    | simp only [kept_mk_iff]
    | split

theorem State.bar2Word_kept {cq : List Instr} (s : Machine.State) (port : ℕ) (o : ℕ) (bs : List (Option Byte))
    (ecc : Ecc) (h_s : Kept cq s) : Kept cq (State.bar2Word s port o bs ecc) := by
  unfold State.bar2Word
  repeat' first
    | with_reducible assumption
    | with_reducible apply State.regWrite_kept
    | with_reducible apply State.wordWrite_kept
    | with_reducible apply kept_ite
    | with_reducible refine each_kept _ _ (fun _ _ _ => ?_) ?_

theorem State.bar2Write_kept {cq : List Instr} (s : Machine.State) (port : ℕ) (o : ℕ) (bs : List (Option Byte))
    (eccs : List Ecc) (h_s : Kept cq s) : Kept cq (State.bar2Write s port o bs eccs) := by
  unfold State.bar2Write
  repeat' first
    | with_reducible assumption
    | with_reducible apply State.bar2Word_kept
    | with_reducible refine each_kept _ _ (fun _ _ _ => ?_) ?_

theorem execHostMemoryWrite_kept {cq : List Instr} (o : MemAt 30) (bytes : List (Option (BitVec 8))) (s :
    Machine.State) (h_s : Kept cq s) : ResultKept cq (execHostMemoryWrite o bytes s) := by
  unfold execHostMemoryWrite
  repeat' first
    | with_reducible assumption
    | with_reducible apply State.bar2Write_kept
    | with_reducible apply resultKept_next

theorem State.bar2Ecc_kept {cq : List Instr} (s : Machine.State) (o : ℕ) (ecc : Ecc) (h_s : Kept cq s) :
    Kept cq (State.bar2Ecc s o ecc) := by
  unfold State.bar2Ecc
  repeat' first
    | with_reducible assumption
    | with_reducible apply State.eccAt_kept
    | with_reducible apply kept_ite

theorem State.readCounted_kept {cq : List Instr} (s : Machine.State) (r : ReadWord) (h_s : Kept cq s) :
    Kept cq (State.readCounted s r) := by
  unfold State.readCounted
  repeat' first
    | with_reducible assumption
    | with_reducible apply State.raise_kept
    | with_reducible apply State.bump_kept
    | with_reducible apply State.errClass_kept
    | with_reducible apply kept_ite

theorem execHifFenceRead_kept {cq : List Instr} (s : Machine.State) (h_s : Kept cq s) :
    ResultKept cq (execHifFenceRead s) := by
  unfold execHifFenceRead
  repeat' first
    | with_reducible assumption
    | with_reducible apply State.readCounted_kept
    | with_reducible apply resultKept_next

theorem State.keywayRead_kept {cq : List Instr} (s : Machine.State) (rs : List ReadWord) (h_s : Kept cq s) :
    Kept cq (State.keywayRead s rs) := by
  unfold State.keywayRead
  repeat' first
    | with_reducible assumption
    | with_reducible apply State.emit_kept
    | with_reducible apply State.readCounted_kept
    | with_reducible apply kept_ite
    | with_reducible refine each_kept _ _ (fun _ _ _ => ?_) ?_

theorem State.keywayWrite_kept {cq : List Instr} (s : Machine.State) (bar2 : Bool) (addr : ℕ) (words : List
    (BitVec 32)) (eccs : List Ecc) (h_s : Kept cq s) : Kept cq (State.keywayWrite s bar2 addr words eccs) := by
  unfold State.keywayWrite
  repeat' first
    | with_reducible assumption
    | with_reducible apply State.bar2Write_kept
    | with_reducible apply State.regWrite_kept
    | with_reducible apply kept_ite
    | with_reducible refine each_kept _ _ (fun _ _ _ => ?_) ?_

theorem execKeywayReadBar0_kept {cq : List Instr} (addr : BitVec 32) (count : BitVec 6) (s : Machine.State) (h_s
    : Kept cq s) : ResultKept cq (execKeywayReadBar0 addr count s) := by
  unfold execKeywayReadBar0
  repeat' first
    | with_reducible assumption
    | with_reducible apply State.keywayRead_kept
    | with_reducible apply resultKept_next

theorem execKeywayWriteBar0_kept {cq : List Instr} (addr : BitVec 32) (words : List (BitVec 32)) (s :
    Machine.State) (h_s : Kept cq s) : ResultKept cq (execKeywayWriteBar0 addr words s) := by
  unfold execKeywayWriteBar0
  repeat' first
    | with_reducible assumption
    | with_reducible apply State.keywayWrite_kept
    | with_reducible apply resultKept_next

theorem execKeywayReadBar2_kept {cq : List Instr} (addr : MemAt 32) (count : BitVec 6) (s : Machine.State) (h_s
    : Kept cq s) : ResultKept cq (execKeywayReadBar2 addr count s) := by
  unfold execKeywayReadBar2
  repeat' first
    | with_reducible assumption
    | with_reducible apply State.bar2Ecc_kept
    | with_reducible apply State.keywayRead_kept
    | with_reducible apply kept_ite
    | with_reducible apply resultKept_next
    | with_reducible refine each_kept _ _ (fun _ _ _ => ?_) ?_

theorem execKeywayWriteBar2_kept {cq : List Instr} (addr : MemAt 32) (words : List (BitVec 32)) (s :
    Machine.State) (h_s : Kept cq s) : ResultKept cq (execKeywayWriteBar2 addr words s) := by
  unfold execKeywayWriteBar2
  repeat' first
    | with_reducible assumption
    | with_reducible apply State.keywayWrite_kept
    | with_reducible apply resultKept_next

theorem execKeywayCsRiseEarly_kept {cq : List Instr} (write : Bool) (bar2 : Bool) (addr : BitVec 32) (words :
    List (BitVec 32)) (s : Machine.State) (h_s : Kept cq s) :
    ResultKept cq (execKeywayCsRiseEarly write bar2 addr words s) := by
  unfold execKeywayCsRiseEarly
  repeat' first
    | with_reducible assumption
    | with_reducible apply State.raise_kept
    | with_reducible apply State.bump_kept
    | with_reducible apply State.keywayWrite_kept
    | with_reducible apply kept_ite
    | with_reducible apply resultKept_next

end Sys2Proof.Machine
end

