-- ==== Sys2Proof/WellFormed.lean ====
section
/-!
DEFINITION. Which commands the outside can send: operand ranges that the types do not show.
-/

namespace Sys2Proof

/-- A register offset names a 32-bit word (R17). -/
def wordOffset (off : BitVec 26) : Bool := off.toNat % 4 == 0

/-- A Keyway frame carries 1 to 64 words (R325); a frame cut short may carry fewer. -/
def keywayWords (n : Nat) : Bool := decide (1 ≤ n) && decide (n ≤ 64)

/-- One reading for each of the 47 islands (R74). -/
def islandReadings (r : List Int) : Bool := r.length == 47

/-- Core islands have numbers 0 to 45 (R66). -/
def islandOk (i : BitVec 6) : Bool := decide (i.toNat < 46)

/-- A command that the outside can send. -/
def wellFormed : Instr → Bool
  | .registerWrite off _ _ => wordOffset off
  | .keywayWriteBar0 _ ws => keywayWords ws.length
  | .keywayWriteBar2 _ ws => keywayWords ws.length
  | .keywayCsRiseEarly _ _ _ ws => decide (ws.length < 64)
  | .hostMemoryWrite _ bs => decide (1 ≤ bs.length)
  | .thermalSample r => islandReadings r
  | .ceilRise i => islandOk i
  | .regulatorOutOfRange i => islandOk i
  | .wardenAdjustment _ _ _ area => area.length == 4
  | .tdmIngressFrame _ os => decide (os.length ≤ 1024)
  | .frameReceive _ f _ => decide (1 ≤ f.length)
  | _ => true

end Sys2Proof
end

