-- ==== Sys2Proof/Tests/Slice0.lean ====
section
/-!
SUPPORT. Tests of the model: terms that the well-formedness check refuses, single steps, and a witness for the hypotheses of each
clause of each statement (a witness theorem says that the clause's hypotheses do not exclude one another).
-/

open Sys2Proof Sys2Proof.Machine

namespace Sys2Proof.Tests

set_option Elab.async false
set_option linter.unreachableTactic false
set_option linter.unusedTactic false
set_option linter.unusedVariables false

/-! ## Terms that the well-formedness check refuses, and neighbours that it accepts -/

theorem test_word_offset : wellFormed (.registerWrite 2 15 0) = false ∧ wellFormed (.registerWrite 4 15 0) = true := by decide
theorem test_keyway_words : wellFormed (.keywayWriteBar0 0 []) = false ∧ wellFormed (.keywayWriteBar0 0 [1]) = true := by decide
theorem test_keyway_words_bar2 : wellFormed (.keywayWriteBar2 ⟨0, []⟩ (List.replicate 65 0)) = false ∧
    wellFormed (.keywayWriteBar2 ⟨0, []⟩ (List.replicate 64 0)) = true := by decide
theorem test_keyway_early : wellFormed (.keywayCsRiseEarly true false 0 (List.replicate 64 0)) = false ∧
    wellFormed (.keywayCsRiseEarly true false 0 []) = true := by decide
theorem test_host_bytes : wellFormed (.hostMemoryWrite ⟨0, []⟩ []) = false ∧ wellFormed (.hostMemoryWrite ⟨0, []⟩ [none]) = true := by
  decide
theorem test_readings : wellFormed (.thermalSample [40]) = false ∧ wellFormed (.thermalSample (List.replicate 47 40)) = true := by
  decide
theorem test_ceil_island : wellFormed (.ceilRise 46) = false ∧ wellFormed (.ceilRise 45) = true := by decide
theorem test_regulator_island : wellFormed (.regulatorOutOfRange 63) = false ∧ wellFormed (.regulatorOutOfRange 0) = true := by
  decide
theorem test_adjustment_area : wellFormed (.wardenAdjustment 0 0 0 []) = false ∧
    wellFormed (.wardenAdjustment 0 0 0 [0, 0, 0, 0]) = true := by decide
theorem test_tdm_octets : wellFormed (.tdmIngressFrame 47 (List.replicate 1025 0)) = false ∧
    wellFormed (.tdmIngressFrame 47 (List.replicate 1024 0)) = true := by decide +kernel
theorem test_empty_frame (p : Fin 5) : wellFormed (.frameReceive p [] true) = false ∧ wellFormed (.frameReceive p [0] true) = true := by
  simp [wellFormed]

/-! ## Words of core instructions, written out field by field from R106, R110 and the tables of spec/05 -/

/-- The word as tile 3 of cluster 2 reads it; `q` and `n` are its predicate. -/
def headAt (e : Bool) (q : Fin 8) (n : Bool) : Head := ⟨2, 3, e, q, n, false, .ok, .ok, .ok⟩
def reads (w : Word) : Option Instr := decodeCore 2 3 .ok .ok .ok .ok w

/-- RRR: E 1, Q 0, N 0, OP 0x01, FUNC 0x01 (SUB), RD 31, RS 1, RT 2. -/
theorem test_decode_sub : reads 0b1_000_0_000001_000001_11111_00001_00010#32 = some (.sub (headAt true 0 false) 31 1 2) := by decide
/-- RRI: E 0, Q 5, N 1, OP 0x02, RD 3, RS 4, IMM11 -1. -/
theorem test_decode_addi : reads 0b0_101_1_000010_00011_00100_11111111111#32 = some (.addi (headAt false 5 true) 3 4 2047) := by decide
/-- SHI: OP 0x05, FUNC SRA, bits [18:15] 0, RD 6, RS 7, AMT 9. -/
theorem test_decode_shi : reads 0b1_000_0_000101_10_0000_00110_00111_01001#32 = some (.shi (headAt true 0 false) 2 6 7 9) := by decide
/-- CMPI: OP 0x09, COND 0x2, QD 3, RS 4, IMM9 -2. -/
theorem test_decode_cmpi : reads 0b1_000_0_001001_0010_011_00100_111111110#32 = some (.cmpi (headAt true 0 false) 2 3 4 510) := by
  decide
/-- QOP: OP 0x0A, FUNC 0b01, QD 1, QA 2, NA 1, QB 3, NB 0. -/
theorem test_decode_qop : reads 0b1_000_0_001010_01_001_010_1_011_0_00000000#32 =
    some (.qop (headAt true 0 false) 1 1 2 true 3 false) := by decide
/-- MAC: OP 0x12 (MACP), ACCD 6, OPK 0b01, F 1, MODE 0b10, bits [12:11] 0, RA 8, BSEL 33. -/
theorem test_decode_macp : reads 0b1_000_0_010010_110_01_1_10_00_01000_100001#32 =
    some (.macp (headAt true 0 false) 6 true true false 8 33) := by decide
/-- EXT: OP 0x15, RD 9, ACCS 5, TGT 0b10, SHIFT -8, RNDF 0b01. -/
theorem test_decode_ext : reads 0b1_000_0_010101_01001_101_10_11000_01_0000#32 =
    some (.ext (headAt true 0 false) 9 5 2 24 1) := by decide
/-- ACCOP: OP 0x16, FUNC 0b111 (SRA), ACCD 1, ACCS 0, AMT 63. -/
theorem test_decode_asra : reads 0b1_000_0_010110_111_001_000_111111_000000#32 = some (.asra (headAt true 0 false) 1 63) := by decide
/-- MEM: OP 0x25 (LD.W), RD 10, PN 15, MODE 0b01, OFF -4. -/
theorem test_decode_ldw : reads 0b1_000_0_100101_01010_1111_01_1111111100#32 =
    some (.ldW (headAt true 0 false) 10 15 1 1020 .ok) := by decide
/-- MOVX: OP 0x2B, bits [20:16] 0, DST 0x21, SRC 0x05. -/
theorem test_decode_movx : reads 0b1_000_0_101011_00000_00100001_00000101#32 = some (.movx (headAt true 0 false) 0x21 5) := by decide
/-- BR: OP 0x30, OFF21 -3. -/
theorem test_decode_br : reads 0b1_000_0_110000_111111111111111111101#32 = some (.br (headAt true 0 false) 0x1FFFFD) := by decide
/-- LOOPI: bits [26:22] 0b11101, E6 0b100001 whose highest bit is OP[0], COUNT 5: OP 0x3B. -/
theorem test_decode_loopi : reads 0b1_000_0_11101_100001_0000000000000101#32 = some (.loopi (headAt true 0 false) 33 5) := by decide
/-- FENCE: OP 0x35, SCOPE 0b010, KIND 0b10. -/
theorem test_decode_fence : reads 0b1_000_0_110101_0000000000000000_010_10#32 = some (.fence (headAt true 0 false) 2 2) := by decide
/-- CKC with REL: OP 0x37, RC 12, REL 1. -/
theorem test_decode_ckc_rel : reads 0b1_000_0_110111_00000_01100_1_0000000000#32 = some (.ckcRel (headAt true 0 false) 12) := by decide
/-- CKR: OP 0x39, RD 16, RC 12, RS 7. -/
theorem test_decode_ckr : reads 0b1_000_0_111001_10000_01100_00111_000000#32 = some (.ckr (headAt true 0 false) 16 12 7 .ok) := by
  decide
/-- WDELAY: OP 0x3D, RS 8, RT 3, QD 2. -/
theorem test_decode_wdelay : reads 0b1_000_0_111101_01000_00011_010_00000000#32 = some (.wdelay (headAt true 0 false) 8 3 2) := by
  decide
/-- The all-zero word, a reserved opcode, and a NOP with a bit set that its format shows as 0 are illegal (R107). -/
theorem test_decode_illegal : reads 0#32 = none ∧ reads 0b1_000_0_101111_000000000000000000000#32 = none ∧
    reads 0b1_000_0_100000_000000000000000000001#32 = none := by decide

/-! ## The ball field, by the count table and the examples of R433 -/

def ballsOf (b : Ball) : Nat := (ballField.filter (· == b)).length
theorem test_ball_examples : ballAt 17 3 = .tdm 5 .clk ∧ ballAt 17 51 = .tdm 29 .clk ∧ ballAt 5 46 = .ddr 2 (.dqs true 3) ∧
    ballAt 53 1 = .ddr 1 (.dq 0) ∧ ballAt 12 20 = .vss ∧ ballAt 12 21 = .rail .vddCore := by decide
theorem test_ball_counts : ballsOf .vss = 1117 ∧ ballsOf (.rail .vddCore) = 536 ∧ ballsOf (.rail .vddqDdr) = 158 ∧
    ballsOf (.rail .vddIo18) = 107 := by decide +kernel

/-! ## Hypotheses that can be met: checks by evaluation -/

/-- Canon by evaluation. -/
def canonOk (s : State) : Bool :=
  swf resetOf s.regs && swf (fun _ => (0 : Byte)) s.mem && s.mem.all (fun e => storable e.1) && nrising s.poison &&
    swf (fun _ => (0 : Byte)) s.hostMem && nrising s.hostPoison && swf (fun _ => Core.init) s.cores &&
    swf (fun _ => Cluster.init) s.clusters && swf (fun _ => Slot.init) s.slots && swf (fun _ => VatSlot.init) s.vats &&
    swf (fun _ => Area.none) s.areas && swf (fun _ => Cask.init) s.casks && swf (fun _ => Probe.init) s.probes &&
    swf (fun _ => 0) s.scrubs && swf (fun _ => Play.init) s.plays && nrising s.cellUse && srising s.srtp && srising s.txBufs &&
    swf (fun _ => Tdm.init) s.tdms && nrising s.egMarks && swf (fun _ => Wdn.init) s.wdns && swf (fun _ => Mac.init) s.macs &&
    srising s.txSends && swf (fun _ => (⟨none⟩ : Dma)) s.dmas && swf (fun _ => (⟨none, false⟩ : Press)) s.press &&
    swf (fun _ => MsixEntry.init) s.msix.entries

theorem canon_of {s : State} (h : canonOk s = true) : Canon s := by
  simp only [canonOk, Bool.and_eq_true] at h
  obtain ⟨⟨⟨⟨⟨⟨⟨⟨⟨⟨⟨⟨⟨⟨⟨⟨⟨⟨⟨⟨⟨⟨⟨⟨⟨h1, h2⟩, h3⟩, h4⟩, h5⟩, h6⟩, h7⟩, h8⟩, h9⟩, h10⟩, h11⟩, h12⟩, h13⟩, h14⟩, h15⟩, h16⟩, h17⟩,
    h18⟩, h19⟩, h20⟩, h21⟩, h22⟩, h23⟩, h24⟩, h25⟩, h26⟩ := h
  exact ⟨h1, h2, h3, h4, h5, h6, h7, h8, h9, h10, h11, h12, h13, h14, h15, h16, h17, h18, h19, h20, h21, h22, h23, h24, h25, h26⟩

theorem quiet_of {s : State} (h : s.probes.any (fun e => e.2.armed && e.2.src == 5) = false) : Quiet s := h

theorem opens_of {s : State} {a : Nat} (h : s.reach 0 a false = .ok) : Opens s a := h

theorem idleMaker_of {s : State} {p : Producer} (h : s.casks.all (fun e => (e.2.openOf p).isNone) = true) : idleMaker s p :=
  fun e he => by simpa using List.all_eq_true.mp h e he

theorem writable_of {s : State} {die lo n : Nat}
    (h : (List.range n).all (fun i => s.writable (lo + i) && s.unitReaches die (lo + i)) = true) : Writable s die lo n :=
  fun i hi => by simpa using List.all_eq_true.mp h i (List.mem_range.mpr hi)

/-- The part after boot, and cluster 3 in RUN. -/
def booted : State := State.reset.put HIF.STATUS F.HIF_STATUS_BOOTED 1
def run3 : State := booted.put (WS.STATUS 3) F.WS_STATUS_STATE 3
def after (s : State) (i : Instr) : State := match exec i s with | .next t => t | _ => s


/-! ## Core instructions, casks, work items and slots -/

def hd : Head := ⟨3, 2, true, 0, false, false, .ok, .ok, .ok⟩

/-- A plain item, and tile 2 of cluster 3 running it at the start of P memory + 0x100. -/
def itemA : Item := ⟨1, false, 1, 0, 5, 9, 0, 0, 0, 0, .host, none, 0, [], [], none⟩
def coreA : Core :=
  { Core.init with running := some itemA, pc := 0x50100, ilim := 1000000, cyc := 17, stat := 0x04000000, q := 9,
                   g := Vector.ofFn (fun i => BitVec.ofNat 32 (0x10000 * i.val)), p := Vector.ofFn (fun i => BitVec.ofNat 32 (8 * i.val)) }
/-- A state with the word of an instruction where tile 2 of cluster 3 fetches next. -/
def put3 (s : State) (i : Instr) : State :=
  match coreWord i with
  | some w => s.write (tileDpa 3 2 0x50100) (leBytes 4 w.toNat)
  | none => s
def sA (i : Instr) : State := put3 (run3.setCore 3 2 coreA) i
/-- The same with some registers of the core set. -/
def sG (l : List (Fin 32 × Word)) : State :=
  run3.setCore 3 2 { coreA with g := l.foldl (fun (g : Vector Word 32) e => g.set e.1.val e.2 e.1.isLt) coreA.g }
def sC (f : Core → Core) : State := run3.setCore 3 2 (f coreA)

theorem witness_step_runs_the_front_command_1 : ¬ (∀ c q (s : State), s.pending = c :: q → False) := by
  intro h
  refine h .hifFenceRead [] ({ booted with pending := [.hifFenceRead] }) ?_
  all_goals first
    | decide +kernel

theorem witness_step_runs_the_front_command_2 : ¬ (∀ s : State, s.pending = [] → False) := by
  intro h
  refine h booted ?_
  all_goals first
    | decide +kernel

theorem witness_canonical_form_kept_1 : ¬ (∀ (s : State) t, Canon s → step s = .next t → False) := by
  intro h
  refine h booted booted ?_ rfl
  all_goals first
    | decide +kernel | exact canon_of (by decide +kernel)

theorem witness_counters_1 : ¬ (∀ (a n evt : Nat) (f : Fld) (s : State), Canon s → Quiet s → evt ∉ twin a → evt ≠ EVT.VINSVC 0 →
    evt ≠ EVT.VINSVC 1 → a ≠ EVT.VINSVC 0 → a ≠ EVT.VINSVC 1 → a + 4 ≠ EVT.VINSVC 0 → a + 4 ≠ EVT.VINSVC 1 → f.lo ≤ f.hi → f.hi
    < 32 → False) := by
  intro h
  refine h HIF.WRDROP_LO 1 HIF.EVT F.HIF_EVT_DECODE booted ?_ ?_ ?_ ?_ ?_ ?_ ?_ ?_ ?_ ?_ ?_
  all_goals first
    | decide +kernel | exact canon_of (by decide +kernel) | exact quiet_of (by decide +kernel)

theorem witness_result_groups_1 : ¬ (∀ (a : Nat) (code : Nat) (s : State), Canon s → code < 65536 → False) := by
  intro h
  refine h GLB.PWR_STATUS 0xFFFF booted ?_ ?_
  all_goals first
    | decide +kernel | exact canon_of (by decide +kernel)

theorem witness_integer_instructions_1 : ¬ (∀ i h rd v (s : State), aluRow i = some (h, rd, v) → Canon s → Quiet s → Alone i h s
    → False) := by
  intro h
  refine h (.adds hd 1 2 3) hd 1 _ (sA (.adds hd 1 2 3)) rfl ?_ ?_ ?_
  all_goals first
    | decide +kernel | exact opens_of (by decide +kernel) | exact canon_of (by decide +kernel)
    | exact quiet_of (by decide +kernel) | exact idleMaker_of (by decide +kernel)
    | constructor <;> first
        | decide +kernel | exact opens_of (by decide +kernel) | exact canon_of (by decide +kernel)
        | exact quiet_of (by decide +kernel) | exact idleMaker_of (by decide +kernel)

theorem witness_round_and_divide_1 : ¬ (∀ (h : Head) (rd rs : Fin 32) (amt : BitVec 5) (rndf : BitVec 2) (s : State), Canon s →
    Quiet s → Alone (.rnd h rd rs amt rndf) h s → False) := by
  intro h
  refine h hd 31 0 31 3 (sA (.rnd hd 31 0 31 3)) ?_ ?_ ?_
  all_goals first
    | decide +kernel | exact opens_of (by decide +kernel) | exact canon_of (by decide +kernel)
    | exact quiet_of (by decide +kernel) | exact idleMaker_of (by decide +kernel)
    | constructor <;> first
        | decide +kernel | exact opens_of (by decide +kernel) | exact canon_of (by decide +kernel)
        | exact quiet_of (by decide +kernel) | exact idleMaker_of (by decide +kernel)

theorem witness_round_and_divide_2 : ¬ (∀ (h : Head) (rd rs : Fin 32) (s : State), Canon s → Quiet s → Alone (.divs h rd rs) h s
    → False) := by
  intro h
  refine h hd 1 2 (sA (.divs hd 1 2)) ?_ ?_ ?_
  all_goals first
    | decide +kernel | exact opens_of (by decide +kernel) | exact canon_of (by decide +kernel)
    | exact quiet_of (by decide +kernel) | exact idleMaker_of (by decide +kernel)
    | constructor <;> first
        | decide +kernel | exact opens_of (by decide +kernel) | exact canon_of (by decide +kernel)
        | exact quiet_of (by decide +kernel) | exact idleMaker_of (by decide +kernel)

theorem witness_round_and_divide_3 : ¬ (∀ num den : Nat, num < den → den ≤ 0x7FFF → False) := by
  intro h
  refine h 0x7FFE 0x7FFF ?_ ?_
  all_goals first
    | decide +kernel

theorem witness_predicate_instructions_1 : ¬ (∀ i (h : Head) qd v b (s : State), predRow i = some (h, qd, v) → Canon s → Quiet s
    → Alone i h s → v (coreAt h s) = some b → False) := by
  intro h
  refine h (.cmp hd 2 0 1 2) hd 0 _ true (sA (.cmp hd 2 0 1 2)) rfl ?_ ?_ ?_ ?_
  all_goals first
    | decide +kernel | exact opens_of (by decide +kernel) | exact canon_of (by decide +kernel)
    | exact quiet_of (by decide +kernel) | exact idleMaker_of (by decide +kernel)
    | constructor <;> first
        | decide +kernel | exact opens_of (by decide +kernel) | exact canon_of (by decide +kernel)
        | exact quiet_of (by decide +kernel) | exact idleMaker_of (by decide +kernel)

theorem witness_multiplies_1 : ¬ (∀ i h k o n f m14 m13 ra b (s : State), mulRow i = some (h, k, o, n, f, m14, m13, ra, b) → (hb
    : b.toNat < 32) → macOk k n m14 m13 = true → Canon s → Quiet s → Alone i h s → False) := by
  intro h
  refine h (.mac2 hd 3 true true false 1 31) hd .mul2 .mac 3 true true false 1 31 (sA (.mac2 hd 3 true true false 1 31)) rfl ?_ ?_
    ?_ ?_ ?_
  all_goals first
    | decide +kernel | exact opens_of (by decide +kernel) | exact canon_of (by decide +kernel)
    | exact quiet_of (by decide +kernel) | exact idleMaker_of (by decide +kernel)
    | constructor <;> first
        | decide +kernel | exact opens_of (by decide +kernel) | exact canon_of (by decide +kernel)
        | exact quiet_of (by decide +kernel) | exact idleMaker_of (by decide +kernel)

theorem witness_stream_multiplies_1 : ¬ (∀ i (h : Head) k o n f m14 m13 ra b (s : State) w, mulRow i = some (h, k, o, n, f, m14,
    m13, ra, b) → (b = 32 ∨ b = 33) → macOk k n m14 m13 = true → Canon s → Quiet s → Alone i h s → s.streamRead h.cl.val h.t.val
    (coreAt h s).window (coreAt h s).p[15].toNat .ok = (s, w, none) → False) := by
  intro h
  refine h (.mac2 hd 3 true true false 1 33) hd .mul2 .mac 3 true true false 1 33 (sA (.mac2 hd 3 true true false 1 33)) 0 rfl ?_
    ?_ ?_ ?_ ?_ ?_
  all_goals first
    | decide +kernel | exact opens_of (by decide +kernel) | exact canon_of (by decide +kernel)
    | exact quiet_of (by decide +kernel) | exact idleMaker_of (by decide +kernel)
    | constructor <;> first
        | decide +kernel | exact opens_of (by decide +kernel) | exact canon_of (by decide +kernel)
        | exact quiet_of (by decide +kernel) | exact idleMaker_of (by decide +kernel)

theorem witness_accumulator_instructions_1 : ¬ (∀ i h d v (s : State), accRow i = some (h, d, v) → Canon s → Quiet s → Alone i h
    s → False) := by
  intro h
  refine h (.ashl hd 7 63) hd 7 _ (sA (.ashl hd 7 63)) rfl ?_ ?_ ?_
  all_goals first
    | decide +kernel | exact opens_of (by decide +kernel) | exact canon_of (by decide +kernel)
    | exact quiet_of (by decide +kernel) | exact idleMaker_of (by decide +kernel)
    | constructor <;> first
        | decide +kernel | exact opens_of (by decide +kernel) | exact canon_of (by decide +kernel)
        | exact quiet_of (by decide +kernel) | exact idleMaker_of (by decide +kernel)

theorem witness_accumulator_instructions_2 : ¬ (∀ (h : Head) (rd : Fin 32) (a : Fin 8) (tgt : BitVec 2) (shift : BitVec 5) (rndf
    : BitVec 2) (s : State), tgt ≠ 3 → -8 ≤ shift.toInt → shift.toInt ≤ 8 → Canon s → Quiet s → Alone (.ext h rd a tgt shift
    rndf) h s → False) := by
  intro h
  refine h hd 31 7 2 (-8) 3 (sA (.ext hd 31 7 2 (-8) 3)) ?_ ?_ ?_ ?_ ?_ ?_
  all_goals first
    | decide +kernel | exact opens_of (by decide +kernel) | exact canon_of (by decide +kernel)
    | exact quiet_of (by decide +kernel) | exact idleMaker_of (by decide +kernel)
    | constructor <;> first
        | decide +kernel | exact opens_of (by decide +kernel) | exact canon_of (by decide +kernel)
        | exact quiet_of (by decide +kernel) | exact idleMaker_of (by decide +kernel)

theorem witness_loads_1 : ¬ (∀ i (h : Head) size sg rd pn mode off ecc (s : State) dpa, loadRow i = some (h, size, sg, rd, pn,
    mode, off, ecc) → memForm size rd mode off → Canon s → Quiet s → Alone i h s → (∀ y, ecc ≠ .ue y) → coreToDpa h.cl.val
    h.t.val (coreAt h s).window ((coreAt h s).accessAt pn mode off size) = some dpa → s.coreReaches h.cl.val dpa = true →
    (coreAt h s).accessAt pn mode off size % size = 0 → s.poisoned dpa = false → False) := by
  intro h
  refine h (.ldD hd 2 3 1 (-512) .ok) hd 8 false 2 3 1 (-512) .ok (sA (.ldD hd 2 3 1 (-512) .ok)) (0x30000000 + 38 * 0x80000 + 24)
    rfl ⟨by decide,by decide⟩ ?_ ?_ ?_ (fun _ e => nomatch e) ?_ ?_ ?_ ?_
  all_goals first
    | decide +kernel | exact opens_of (by decide +kernel) | exact canon_of (by decide +kernel)
    | exact quiet_of (by decide +kernel) | exact idleMaker_of (by decide +kernel)
    | constructor <;> first
        | decide +kernel | exact opens_of (by decide +kernel) | exact canon_of (by decide +kernel)
        | exact quiet_of (by decide +kernel) | exact idleMaker_of (by decide +kernel)

theorem witness_stores_1 : ¬ (∀ i (h : Head) size rs pn mode off (s : State) dpa, storeRow i = some (h, size, rs, pn, mode, off)
    → memForm size rs mode off → Canon s → Quiet s → Alone i h s → coreToDpa h.cl.val h.t.val (coreAt h s).window ((coreAt h
    s).accessAt pn mode off size) = some dpa → s.coreReaches h.cl.val dpa = true → storeBarred h.cl.val h.t.val dpa = false →
    (coreAt h s).accessAt pn mode off size % size = 0 → (size = 8 ∨ s.poisoned dpa = false) → False) := by
  intro h
  refine h (.stD hd 2 3 1 511) hd 8 2 3 1 511 (sA (.stD hd 2 3 1 511)) (0x30000000 + 38 * 0x80000 + 24) rfl ⟨by decide,by decide⟩
    ?_ ?_ ?_ ?_ ?_ ?_ ?_ ?_
  all_goals first
    | decide +kernel | exact opens_of (by decide +kernel) | exact canon_of (by decide +kernel)
    | exact quiet_of (by decide +kernel) | exact idleMaker_of (by decide +kernel)
    | constructor <;> first
        | decide +kernel | exact opens_of (by decide +kernel) | exact canon_of (by decide +kernel)
        | exact quiet_of (by decide +kernel) | exact idleMaker_of (by decide +kernel)

theorem witness_moves_and_pointers_1 : ¬ (∀ (h : Head) (s : State), Canon s → Quiet s → Alone (.nop h) h s → False) := by
  intro h
  refine h hd (sA (.nop hd)) ?_ ?_ ?_
  all_goals first
    | decide +kernel | exact opens_of (by decide +kernel) | exact canon_of (by decide +kernel)
    | exact quiet_of (by decide +kernel) | exact idleMaker_of (by decide +kernel)
    | constructor <;> first
        | decide +kernel | exact opens_of (by decide +kernel) | exact canon_of (by decide +kernel)
        | exact quiet_of (by decide +kernel) | exact idleMaker_of (by decide +kernel)

theorem witness_moves_and_pointers_2 : ¬ (∀ (h : Head) dst src d r (s : State), extReg dst = some d → extReg src = some r →
    Canon s → Quiet s → Alone (.movx h dst src) h s → (∀ k, d = .ctl k → (coreAt h s).roChange h.cl.val h.t.val k.val ((coreAt h
    s).read h.cl.val h.t.val r) = false) → False) := by
  intro h
  refine h hd 1 2 (.g 1) (.g 2) (sA (.movx hd 1 2)) rfl rfl ?_ ?_ ?_ (fun _ e => nomatch e)
  all_goals first
    | decide +kernel | exact opens_of (by decide +kernel) | exact canon_of (by decide +kernel)
    | exact quiet_of (by decide +kernel) | exact idleMaker_of (by decide +kernel)
    | constructor <;> first
        | decide +kernel | exact opens_of (by decide +kernel) | exact canon_of (by decide +kernel)
        | exact quiet_of (by decide +kernel) | exact idleMaker_of (by decide +kernel)

theorem witness_moves_and_pointers_3 : ¬ (∀ (h : Head) (pn : Fin 16) (imm : BitVec 17) (s : State), Canon s → Quiet s → Alone
    (.pmovi h pn imm) h s → False) := by
  intro h
  refine h hd 15 0x1FFFF (sA (.pmovi hd 15 0x1FFFF)) ?_ ?_ ?_
  all_goals first
    | decide +kernel | exact opens_of (by decide +kernel) | exact canon_of (by decide +kernel)
    | exact quiet_of (by decide +kernel) | exact idleMaker_of (by decide +kernel)
    | constructor <;> first
        | decide +kernel | exact opens_of (by decide +kernel) | exact canon_of (by decide +kernel)
        | exact quiet_of (by decide +kernel) | exact idleMaker_of (by decide +kernel)

theorem witness_moves_and_pointers_4 : ¬ (∀ (h : Head) (pn : Fin 16) (imm : BitVec 16) (s : State), Canon s → Quiet s → Alone
    (.padd h pn false imm) h s → False) := by
  intro h
  refine h hd 15 0x8000 (sA (.padd hd 15 false 0x8000)) ?_ ?_ ?_
  all_goals first
    | decide +kernel | exact opens_of (by decide +kernel) | exact canon_of (by decide +kernel)
    | exact quiet_of (by decide +kernel) | exact idleMaker_of (by decide +kernel)
    | constructor <;> first
        | decide +kernel | exact opens_of (by decide +kernel) | exact canon_of (by decide +kernel)
        | exact quiet_of (by decide +kernel) | exact idleMaker_of (by decide +kernel)

theorem witness_moves_and_pointers_5 : ¬ (∀ (h : Head) (pn : Fin 16) (imm : BitVec 16) (s : State), imm.toNat < 8 → Canon s →
    Quiet s → Alone (.padd h pn true imm) h s → False) := by
  intro h
  refine h hd 15 7 (sA (.padd hd 15 true 7)) ?_ ?_ ?_ ?_
  all_goals first
    | decide +kernel | exact opens_of (by decide +kernel) | exact canon_of (by decide +kernel)
    | exact quiet_of (by decide +kernel) | exact idleMaker_of (by decide +kernel)
    | constructor <;> first
        | decide +kernel | exact opens_of (by decide +kernel) | exact canon_of (by decide +kernel)
        | exact quiet_of (by decide +kernel) | exact idleMaker_of (by decide +kernel)

theorem witness_moves_and_pointers_6 : ¬ (∀ (h : Head) (rd : Fin 32) (s : State), rd.val % 2 = 0 → Canon s → Quiet s → Alone
    (.tbrd h rd) h s → False) := by
  intro h
  refine h hd 30 (sA (.tbrd hd 30)) ?_ ?_ ?_ ?_
  all_goals first
    | decide +kernel | exact opens_of (by decide +kernel) | exact canon_of (by decide +kernel)
    | exact quiet_of (by decide +kernel) | exact idleMaker_of (by decide +kernel)
    | constructor <;> first
        | decide +kernel | exact opens_of (by decide +kernel) | exact canon_of (by decide +kernel)
        | exact quiet_of (by decide +kernel) | exact idleMaker_of (by decide +kernel)

theorem witness_control_flow_1 : ¬ (∀ (h : Head) (off : BitVec 21) (s : State), Canon s → Quiet s → Alone (.br h off) h s →
    False) := by
  intro h
  refine h hd 0x1FFFFF (sA (.br hd 0x1FFFFF)) ?_ ?_ ?_
  all_goals first
    | decide +kernel | exact opens_of (by decide +kernel) | exact canon_of (by decide +kernel)
    | exact quiet_of (by decide +kernel) | exact idleMaker_of (by decide +kernel)
    | constructor <;> first
        | decide +kernel | exact opens_of (by decide +kernel) | exact canon_of (by decide +kernel)
        | exact quiet_of (by decide +kernel) | exact idleMaker_of (by decide +kernel)

theorem witness_control_flow_2 : ¬ (∀ (h : Head) (off : BitVec 21) (s : State), Canon s → Quiet s → Alone (.bl h off) h s →
    False) := by
  intro h
  refine h hd 1 (sA (.bl hd 1)) ?_ ?_ ?_
  all_goals first
    | decide +kernel | exact opens_of (by decide +kernel) | exact canon_of (by decide +kernel)
    | exact quiet_of (by decide +kernel) | exact idleMaker_of (by decide +kernel)
    | constructor <;> first
        | decide +kernel | exact opens_of (by decide +kernel) | exact canon_of (by decide +kernel)
        | exact quiet_of (by decide +kernel) | exact idleMaker_of (by decide +kernel)

theorem witness_control_flow_3 : ¬ (∀ (h : Head) (rs : Fin 32) (s : State), Canon s → Quiet s → Alone (.jr h rs) h s → False) :=
    by
  intro h
  refine h hd 1 (sA (.jr hd 1)) ?_ ?_ ?_
  all_goals first
    | decide +kernel | exact opens_of (by decide +kernel) | exact canon_of (by decide +kernel)
    | exact quiet_of (by decide +kernel) | exact idleMaker_of (by decide +kernel)
    | constructor <;> first
        | decide +kernel | exact opens_of (by decide +kernel) | exact canon_of (by decide +kernel)
        | exact quiet_of (by decide +kernel) | exact idleMaker_of (by decide +kernel)

theorem witness_control_flow_4 : ¬ (∀ (i : Instr) (h : Head) (body count : Nat) (s : State), ((∃ rs b, i = .loop h rs b ∧ count
    = (coreAt h s).g[rs].toNat ∧ body = b.toNat) ∨ (∃ b k, i = .loopi h b k ∧ count = k.toNat ∧ body = b.toNat)) → count ≠ 0 →
    (coreAt h s).pc.toNat + 4 + 4 * body < 0x60000 → Canon s → Quiet s → Alone i h s → False) := by
  intro h
  refine h (.loopi hd 3 5) hd 3 5 (sA (.loopi hd 3 5)) (.inr ⟨3,5,rfl,rfl,rfl⟩) ?_ ?_ ?_ ?_ ?_
  all_goals first
    | decide +kernel | exact opens_of (by decide +kernel) | exact canon_of (by decide +kernel)
    | exact quiet_of (by decide +kernel) | exact idleMaker_of (by decide +kernel)
    | constructor <;> first
        | decide +kernel | exact opens_of (by decide +kernel) | exact canon_of (by decide +kernel)
        | exact quiet_of (by decide +kernel) | exact idleMaker_of (by decide +kernel)

theorem witness_control_flow_5 : ¬ (∀ (i : Instr) (h : Head) (body : Nat) (s : State), ((∃ rs b, i = .loop h rs b ∧ 0 = (coreAt
    h s).g[rs].toNat ∧ body = b.toNat) ∨ (∃ b, i = .loopi h b 0 ∧ body = b.toNat)) → (coreAt h s).pc.toNat + 4 + 4 * body <
    0x60000 → Canon s → Quiet s → Alone i h s → False) := by
  intro h
  refine h (.loop hd 0 3) hd 3 (sA (.loop hd 0 3)) (.inl ⟨0,3,rfl,by decide,rfl⟩) ?_ ?_ ?_ ?_
  all_goals first
    | decide +kernel | exact opens_of (by decide +kernel) | exact canon_of (by decide +kernel)
    | exact quiet_of (by decide +kernel) | exact idleMaker_of (by decide +kernel)
    | constructor <;> first
        | decide +kernel | exact opens_of (by decide +kernel) | exact canon_of (by decide +kernel)
        | exact quiet_of (by decide +kernel) | exact idleMaker_of (by decide +kernel)

theorem witness_control_flow_6 : ¬ (∀ (h : Head) (sc : BitVec 3) (kd : BitVec 2) (s : State), kd ≠ 0 → sc.toNat ≤ 4 → Canon s →
    Quiet s → Alone (.fence h sc kd) h s → False) := by
  intro h
  refine h hd 4 3 (sA (.fence hd 4 3)) ?_ ?_ ?_ ?_ ?_
  all_goals first
    | decide +kernel | exact opens_of (by decide +kernel) | exact canon_of (by decide +kernel)
    | exact quiet_of (by decide +kernel) | exact idleMaker_of (by decide +kernel)
    | constructor <;> first
        | decide +kernel | exact opens_of (by decide +kernel) | exact canon_of (by decide +kernel)
        | exact quiet_of (by decide +kernel) | exact idleMaker_of (by decide +kernel)

theorem witness_core_words_decode_1 : ¬ (∀ i x w, coreFields i = some x → x.1.ill = false → coreWord i = some w → False) := by
  intro h
  refine h (.cmpi hd 15 7 31 (-1)) _ _ rfl ?_ rfl
  all_goals first
    | decide +kernel

theorem witness_core_words_decode_2 : ¬ (∀ cl t f c m e w i, decodeCore cl t f c m e w = some i → False) := by
  intro h
  refine h 31 11 .ok .ok .ok .ok 0x44000000 (.nop ⟨31, 11, false, 4, false, false, .ok, .ok, .ok⟩) ?_
  all_goals first
    | decide +kernel

/-- Cask 5 of die 0 enabled, with packets and an open packet of the tile and of the host. -/
def openA : OpenPkt := ⟨[3], false⟩
def withCask (s : State) : State :=
  let s := ((s.put (CSK.CFG 0 5) F.CSK_CFG_EN 1).put (CSK.CFG 0 5) F.CSK_CFG_DEPTH 2)
  (s.setCask 5 { Cask.init with pkts := [[0, 1], [2]], opens := [(maker hd, openA), (.host, ⟨[4], false⟩)] }).storeWord 5 0 ⟨5, false⟩
def sK (i : Instr) : State := put3 (withCask (sG [(7, 5)])) i

theorem witness_cask_instructions_1 : ¬ (∀ (h : Head) (rs rc : Fin 32) (qd : Fin 8) s x, rs.val % 4 = 0 → qd ≠ 0 → Canon s →
    Quiet s → Alone (.ckw h rs rc qd) h s → x = handleOf (coreAt h s).g[rc] → (s.divided = false ∨ caskDie x = dieOf h.cl.val) →
    s.accepts x (maker h) = true → False) := by
  intro h
  refine h hd 4 7 3 (sK (.ckw hd 4 7 3)) 5 ?_ ?_ ?_ ?_ ?_ ?_ ?_ ?_
  all_goals first
    | decide +kernel | exact opens_of (by decide +kernel) | exact canon_of (by decide +kernel)
    | exact quiet_of (by decide +kernel) | exact idleMaker_of (by decide +kernel)
    | constructor <;> first
        | decide +kernel | exact opens_of (by decide +kernel) | exact canon_of (by decide +kernel)
        | exact quiet_of (by decide +kernel) | exact idleMaker_of (by decide +kernel)

theorem witness_cask_instructions_2 : ¬ (∀ (i : Instr) (h : Head) (rc : Fin 32) (s : State) x o, (i = .ckc h rc ∨ i = .ckcRel h
    rc) → Canon s → Quiet s → Alone i h s → x = handleOf (coreAt h s).g[rc] → (s.divided = false ∨ caskDie x = dieOf h.cl.val) →
    (s.cask x).openOf (maker h) = some o → o.flushed = false → False) := by
  intro h
  refine h (.ckcRel hd 7) hd 7 (sK (.ckcRel hd 7)) 5 openA (.inr rfl) ?_ ?_ ?_ ?_ ?_ ?_ ?_
  all_goals first
    | decide +kernel | exact opens_of (by decide +kernel) | exact canon_of (by decide +kernel)
    | exact quiet_of (by decide +kernel) | exact idleMaker_of (by decide +kernel)
    | constructor <;> first
        | decide +kernel | exact opens_of (by decide +kernel) | exact canon_of (by decide +kernel)
        | exact quiet_of (by decide +kernel) | exact idleMaker_of (by decide +kernel)

theorem witness_cask_instructions_3 : ¬ (∀ (h : Head) (rc : Fin 32) s x o, Canon s → Quiet s → Alone (.cka h rc) h s → x =
    handleOf (coreAt h s).g[rc] → (s.divided = false ∨ caskDie x = dieOf h.cl.val) → (s.cask x).openOf (maker h) = some o →
    False) := by
  intro h
  refine h hd 7 (sK (.cka hd 7)) 5 openA ?_ ?_ ?_ ?_ ?_ ?_
  all_goals first
    | decide +kernel | exact opens_of (by decide +kernel) | exact canon_of (by decide +kernel)
    | exact quiet_of (by decide +kernel) | exact idleMaker_of (by decide +kernel)
    | constructor <;> first
        | decide +kernel | exact opens_of (by decide +kernel) | exact canon_of (by decide +kernel)
        | exact quiet_of (by decide +kernel) | exact idleMaker_of (by decide +kernel)

theorem witness_cask_instructions_4 : ¬ (∀ (h : Head) (rd rc rs : Fin 32) ecc s x, rd.val % 4 = 0 → rs.val / 4 ≠ rd.val / 4 →
    Canon s → Quiet s → Alone (.ckr h rd rc rs ecc) h s → x = handleOf (coreAt h s).g[rc] → (s.divided = false ∨ caskDie x =
    dieOf h.cl.val) → False) := by
  intro h
  refine h hd 8 7 4 .ok (sK (.ckr hd 8 7 4 .ok)) 5 ?_ ?_ ?_ ?_ ?_ ?_ ?_
  all_goals first
    | decide +kernel | exact opens_of (by decide +kernel) | exact canon_of (by decide +kernel)
    | exact quiet_of (by decide +kernel) | exact idleMaker_of (by decide +kernel)
    | constructor <;> first
        | decide +kernel | exact opens_of (by decide +kernel) | exact canon_of (by decide +kernel)
        | exact quiet_of (by decide +kernel) | exact idleMaker_of (by decide +kernel)

/-- G8 to G15 hold an item of type 1, G16 the cluster or the delay. -/
def sP (g16 : Word) (i : Instr) : State :=
  put3 ((sG [(8, 0x04000123), (9, 77), (10, 4), (11, 0), (12, 0), (16, g16)]).put (WS.CFG 3) F.WS_CFG_POSTLIM 100) i

theorem witness_post_instructions_1 : ¬ (∀ (h : Head) (rs rt : Fin 32) (qd : Fin 8) (s : State) (n : Nat) o, rs.val % 8 = 0 → qd
    ≠ 0 → Canon s → Quiet s → Alone (.wpost h rs rt qd) h s → n = (coreAt h s).g[rt].toNat % 32 → o = (if n = h.cl.val then
    Origin.tile else .otherTile) → (s.divided = false ∨ dieOf n = dieOf h.cl.val) → stateAccepts (s.clState n) (((octOf (coreAt
    h s) rs).getD 0 0).toNat / 2 ^ 26 % 4) o = true → itemValid (octOf (coreAt h s) rs) o = true → (s.cluster n).pend.length <
    s.postLim n → False) := by
  intro h
  refine h hd 8 16 2 (sP 0x23 (.wpost hd 8 16 2)) 3 .tile ?_ ?_ ?_ ?_ ?_ ?_ ?_ ?_ ?_ ?_ ?_
  all_goals first
    | decide +kernel | exact opens_of (by decide +kernel) | exact canon_of (by decide +kernel)
    | exact quiet_of (by decide +kernel) | exact idleMaker_of (by decide +kernel)
    | constructor <;> first
        | decide +kernel | exact opens_of (by decide +kernel) | exact canon_of (by decide +kernel)
        | exact quiet_of (by decide +kernel) | exact idleMaker_of (by decide +kernel)

theorem witness_post_instructions_2 : ¬ (∀ (h : Head) (rs rt : Fin 32) (qd : Fin 8) (s : State) k, rs.val % 8 = 0 → qd ≠ 0 →
    Canon s → Quiet s → Alone (.wdelay h rs rt qd) h s → stateAccepts (s.clState h.cl.val) (((octOf (coreAt h s) rs).getD 0
    0).toNat / 2 ^ 26 % 4) .tile = true → itemValid (octOf (coreAt h s) rs) .tile = true → (coreAt h s).g[rt].toNat ≤ 4194303 →
    freeTimer (s.cluster h.cl.val) = some k → False) := by
  intro h
  refine h hd 8 16 2 (sP 4194303 (.wdelay hd 8 16 2)) 0 ?_ ?_ ?_ ?_ ?_ ?_ ?_ ?_ ?_
  all_goals first
    | decide +kernel | exact opens_of (by decide +kernel) | exact canon_of (by decide +kernel)
    | exact quiet_of (by decide +kernel) | exact idleMaker_of (by decide +kernel)
    | constructor <;> first
        | decide +kernel | exact opens_of (by decide +kernel) | exact canon_of (by decide +kernel)
        | exact quiet_of (by decide +kernel) | exact idleMaker_of (by decide +kernel)

theorem witness_item_ends_1 : ¬ (∀ (h : Head) (s : State) (it : Item), Canon s → Quiet s → Alone (.ret h) h s → (coreAt h
    s).running = some it → it.run = none → idleMaker s (maker h) → False) := by
  intro h
  refine h hd (sA (.ret hd)) itemA ?_ ?_ ?_ ?_ ?_ ?_
  all_goals first
    | decide +kernel | exact opens_of (by decide +kernel) | exact canon_of (by decide +kernel)
    | exact quiet_of (by decide +kernel) | exact idleMaker_of (by decide +kernel)
    | constructor <;> first
        | decide +kernel | exact opens_of (by decide +kernel) | exact canon_of (by decide +kernel)
        | exact quiet_of (by decide +kernel) | exact idleMaker_of (by decide +kernel)

theorem witness_exceptions_end_items_1 : ¬ (∀ (cl : Fin 32) (k : Fin 12) (s : State), Canon s → Quiet s → s.executes cl.val
    k.val = true → (s.core cl.val k.val).bundle = [] → (s.core cl.val k.val).ilim.toNat ≤ (s.core cl.val k.val).cyc.toNat →
    Ending s cl k → False) := by
  intro h
  refine h 3 2 (sC (fun c => { c with cyc := 1000000 })) ?_ ?_ ?_ ?_ ?_ ⟨⟨itemA, rfl, rfl⟩, idleMaker_of (by decide +kernel), by
    decide +kernel⟩
  all_goals first
    | decide +kernel | exact opens_of (by decide +kernel) | exact canon_of (by decide +kernel)
    | exact quiet_of (by decide +kernel) | exact idleMaker_of (by decide +kernel)
    | constructor <;> first
        | decide +kernel | exact opens_of (by decide +kernel) | exact canon_of (by decide +kernel)
        | exact quiet_of (by decide +kernel) | exact idleMaker_of (by decide +kernel)

def hdIll : Head := { hd with ill := true }
/-- The tile fetches a word of the reserved OP 0x0D. -/
def sIll : State := (sC id).write (tileDpa 3 2 0x50100) (leBytes 4 (2 ^ 31 + 0x0D * 2 ^ 21))
theorem witness_exceptions_end_items_2 : ¬ (∀ (h : Head) (s : State) (code : Nat), Canon s → Quiet s → s.executes h.cl.val
    h.t.val = true → (coreAt h s).bundle = [] → h.e = true → (coreAt h s).cyc.toNat < (coreAt h s).ilim.toNat → s.dbgOpen =
    false → (coreAt h s).depth = 0 → Ending s h.cl h.t → ((code = 1 ∧ h.ill = true ∧ wordMatches (.nop h) (fetched h s) = true ∧
    h.fetch = .ok ∧ s.poisoned (tileDpa h.cl.val h.t.val (coreAt h s).pc.toNat) = false ∧ 0x50000 ≤ (coreAt h s).pc.toNat ∧
    (coreAt h s).pc.toNat ≤ 0x5FFFC) ∨ (code = 2 ∧ (0x5FFFC < (coreAt h s).pc.toNat ∨ (coreAt h s).pc.toNat < 0x50000)) ∨ (code
    = 5 ∧ s.poisoned (tileDpa h.cl.val h.t.val (coreAt h s).pc.toNat) = true ∧ 0x50000 ≤ (coreAt h s).pc.toNat ∧ (coreAt h
    s).pc.toNat ≤ 0x5FFFC)) → False) := by
  intro h
  refine h hdIll sIll 1 ?_ ?_ ?_ ?_ ?_ ?_ ?_ ?_ ⟨⟨itemA, rfl, rfl⟩, idleMaker_of (by decide +kernel), by decide +kernel⟩
    (by decide +kernel)
  all_goals first
    | decide +kernel | exact opens_of (by decide +kernel) | exact canon_of (by decide +kernel)
    | exact quiet_of (by decide +kernel) | exact idleMaker_of (by decide +kernel)
    | constructor <;> first
        | decide +kernel | exact opens_of (by decide +kernel) | exact canon_of (by decide +kernel)
        | exact quiet_of (by decide +kernel) | exact idleMaker_of (by decide +kernel)

theorem witness_exceptions_end_items_2b : ¬ (∀ (h : Head) (s : State) (code : Nat), Canon s → Quiet s → s.executes h.cl.val
    h.t.val = true → (coreAt h s).bundle = [] → h.e = true → (coreAt h s).cyc.toNat < (coreAt h s).ilim.toNat → s.dbgOpen =
    false → (coreAt h s).depth = 0 → Ending s h.cl h.t → ((code = 1 ∧ h.ill = true ∧ wordMatches (.nop h) (fetched h s) = true ∧
    h.fetch = .ok ∧ s.poisoned (tileDpa h.cl.val h.t.val (coreAt h s).pc.toNat) = false ∧ 0x50000 ≤ (coreAt h s).pc.toNat ∧
    (coreAt h s).pc.toNat ≤ 0x5FFFC) ∨ (code = 2 ∧ (0x5FFFC < (coreAt h s).pc.toNat ∨ (coreAt h s).pc.toNat < 0x50000)) ∨ (code
    = 5 ∧ s.poisoned (tileDpa h.cl.val h.t.val (coreAt h s).pc.toNat) = true ∧ 0x50000 ≤ (coreAt h s).pc.toNat ∧ (coreAt h
    s).pc.toNat ≤ 0x5FFFC)) → False) := by
  intro h
  refine h hd (sC (fun c => { c with pc := 0x5FFFD })) 2 ?_ ?_ ?_ ?_ ?_ ?_ ?_ ?_ ⟨⟨itemA, rfl, rfl⟩, idleMaker_of
    (by decide +kernel), by decide +kernel⟩ (by decide +kernel)
  all_goals first
    | decide +kernel | exact opens_of (by decide +kernel) | exact canon_of (by decide +kernel)
    | exact quiet_of (by decide +kernel) | exact idleMaker_of (by decide +kernel)
    | constructor <;> first
        | decide +kernel | exact opens_of (by decide +kernel) | exact canon_of (by decide +kernel)
        | exact quiet_of (by decide +kernel) | exact idleMaker_of (by decide +kernel)

theorem witness_exceptions_end_items_2c : ¬ (∀ (h : Head) (s : State) (code : Nat), Canon s → Quiet s → s.executes h.cl.val
    h.t.val = true → (coreAt h s).bundle = [] → h.e = true → (coreAt h s).cyc.toNat < (coreAt h s).ilim.toNat → s.dbgOpen =
    false → (coreAt h s).depth = 0 → Ending s h.cl h.t → ((code = 1 ∧ h.ill = true ∧ wordMatches (.nop h) (fetched h s) = true ∧
    h.fetch = .ok ∧ s.poisoned (tileDpa h.cl.val h.t.val (coreAt h s).pc.toNat) = false ∧ 0x50000 ≤ (coreAt h s).pc.toNat ∧
    (coreAt h s).pc.toNat ≤ 0x5FFFC) ∨ (code = 2 ∧ (0x5FFFC < (coreAt h s).pc.toNat ∨ (coreAt h s).pc.toNat < 0x50000)) ∨ (code
    = 5 ∧ s.poisoned (tileDpa h.cl.val h.t.val (coreAt h s).pc.toNat) = true ∧ 0x50000 ≤ (coreAt h s).pc.toNat ∧ (coreAt h
    s).pc.toNat ≤ 0x5FFFC)) → False) := by
  intro h
  refine h hd ((sC id).poisonWord (tileDpa 3 2 0x50100)) 5 ?_ ?_ ?_ ?_ ?_ ?_ ?_ ?_ ⟨⟨itemA, rfl, rfl⟩, idleMaker_of
    (by decide +kernel), by decide +kernel⟩ (by decide +kernel)
  all_goals first
    | decide +kernel | exact opens_of (by decide +kernel) | exact canon_of (by decide +kernel)
    | exact quiet_of (by decide +kernel) | exact idleMaker_of (by decide +kernel)
    | constructor <;> first
        | decide +kernel | exact opens_of (by decide +kernel) | exact canon_of (by decide +kernel)
        | exact quiet_of (by decide +kernel) | exact idleMaker_of (by decide +kernel)

theorem witness_exceptions_end_items_3 : ¬ (∀ (h : Head) (b : BitVec 6) (n : BitVec 16) s, Canon s → Quiet s → s.executes
    h.cl.val h.t.val = true → (coreAt h s).bundle = [] → h.e = true → h.ill = false → h.fetch = .ok → headOn h (coreAt h s) =
    true → 4 ≤ (coreAt h s).depth → 0x50000 ≤ (coreAt h s).pc.toNat → (coreAt h s).pc.toNat + 4 + 4 * b.toNat < 0x60000 →
    (coreAt h s).cyc.toNat < (coreAt h s).ilim.toNat → s.dbgOpen = false → Ending s h.cl h.t → s.poisoned (tileDpa h.cl.val
    h.t.val (coreAt h s).pc.toNat) = false → wordMatches (.loopi h b n) (fetched h s) = true → False) := by
  intro h
  refine h hd 3 5 (put3 (sC (fun c => c.withDepth 4)) (.loopi hd 3 5)) ?_ ?_ ?_ ?_ ?_ ?_ ?_ ?_ ?_ ?_ ?_ ?_ ?_ ⟨⟨itemA, rfl, rfl⟩,
    idleMaker_of (by decide +kernel), by decide +kernel⟩ ?_ ?_
  all_goals first
    | decide +kernel | exact opens_of (by decide +kernel) | exact canon_of (by decide +kernel)
    | exact quiet_of (by decide +kernel) | exact idleMaker_of (by decide +kernel)
    | constructor <;> first
        | decide +kernel | exact opens_of (by decide +kernel) | exact canon_of (by decide +kernel)
        | exact quiet_of (by decide +kernel) | exact idleMaker_of (by decide +kernel)

/-- P4 holds an address. -/
def sLd (a : Word) : State := (put3 (sC (fun c => { c with p := c.p.set 4 a })) (.ldW hd 1 4 0 0 .ok)).poisonWord (tileDpa 3 2 0x10018)
theorem witness_exceptions_end_items_4 : ¬ (∀ (i : Instr) (h : Head) (size : Nat) sg rd pn mode off ecc s a (code : Nat),
    loadRow i = some (h, size, sg, rd, pn, mode, off, ecc) → memForm size rd mode off → Canon s → Quiet s → Alone i h s → Ending
    s h.cl h.t → a = (coreAt h s).accessAt pn mode off size → ((code = 3 ∧ ∀ d, coreToDpa h.cl.val h.t.val (coreAt h s).window a
    = some d → s.coreReaches h.cl.val d = false) ∨ ∃ d, coreToDpa h.cl.val h.t.val (coreAt h s).window a = some d ∧
    s.coreReaches h.cl.val d = true ∧ ((code = 4 ∧ a % size ≠ 0) ∨ (code = 5 ∧ a % size = 0 ∧ s.poisoned d = true))) → False) :=
    by
  intro h
  refine h (.ldW hd 1 4 0 0 .ok) hd 4 false 1 4 0 0 .ok (sLd 0x60000) 0x60000 3 rfl ⟨by decide, by decide⟩ ?_ ?_ ?_ ⟨⟨itemA, rfl,
    rfl⟩, idleMaker_of (by decide +kernel), by decide +kernel⟩ ?_ (.inl ⟨rfl, by decide +kernel⟩)
  all_goals first
    | decide +kernel | exact opens_of (by decide +kernel) | exact canon_of (by decide +kernel)
    | exact quiet_of (by decide +kernel) | exact idleMaker_of (by decide +kernel)
    | constructor <;> first
        | decide +kernel | exact opens_of (by decide +kernel) | exact canon_of (by decide +kernel)
        | exact quiet_of (by decide +kernel) | exact idleMaker_of (by decide +kernel)

theorem witness_exceptions_end_items_4b : ¬ (∀ (i : Instr) (h : Head) (size : Nat) sg rd pn mode off ecc s a (code : Nat),
    loadRow i = some (h, size, sg, rd, pn, mode, off, ecc) → memForm size rd mode off → Canon s → Quiet s → Alone i h s → Ending
    s h.cl h.t → a = (coreAt h s).accessAt pn mode off size → ((code = 3 ∧ ∀ d, coreToDpa h.cl.val h.t.val (coreAt h s).window a
    = some d → s.coreReaches h.cl.val d = false) ∨ ∃ d, coreToDpa h.cl.val h.t.val (coreAt h s).window a = some d ∧
    s.coreReaches h.cl.val d = true ∧ ((code = 4 ∧ a % size ≠ 0) ∨ (code = 5 ∧ a % size = 0 ∧ s.poisoned d = true))) → False) :=
    by
  intro h
  refine h (.ldW hd 1 4 0 0 .ok) hd 4 false 1 4 0 0 .ok (sLd 0x10011) 0x10011 4 rfl ⟨by decide, by decide⟩ ?_ ?_ ?_ ⟨⟨itemA, rfl,
    rfl⟩, idleMaker_of (by decide +kernel), by decide +kernel⟩ ?_ (.inr ⟨tileDpa 3 2 0x10011, by decide +kernel⟩)
  all_goals first
    | decide +kernel | exact opens_of (by decide +kernel) | exact canon_of (by decide +kernel)
    | exact quiet_of (by decide +kernel) | exact idleMaker_of (by decide +kernel)
    | constructor <;> first
        | decide +kernel | exact opens_of (by decide +kernel) | exact canon_of (by decide +kernel)
        | exact quiet_of (by decide +kernel) | exact idleMaker_of (by decide +kernel)

theorem witness_exceptions_end_items_4c : ¬ (∀ (i : Instr) (h : Head) (size : Nat) sg rd pn mode off ecc s a (code : Nat),
    loadRow i = some (h, size, sg, rd, pn, mode, off, ecc) → memForm size rd mode off → Canon s → Quiet s → Alone i h s → Ending
    s h.cl h.t → a = (coreAt h s).accessAt pn mode off size → ((code = 3 ∧ ∀ d, coreToDpa h.cl.val h.t.val (coreAt h s).window a
    = some d → s.coreReaches h.cl.val d = false) ∨ ∃ d, coreToDpa h.cl.val h.t.val (coreAt h s).window a = some d ∧
    s.coreReaches h.cl.val d = true ∧ ((code = 4 ∧ a % size ≠ 0) ∨ (code = 5 ∧ a % size = 0 ∧ s.poisoned d = true))) → False) :=
    by
  intro h
  refine h (.ldW hd 1 4 0 0 .ok) hd 4 false 1 4 0 0 .ok (sLd 0x10018) 0x10018 5 rfl ⟨by decide, by decide⟩ ?_ ?_ ?_ ⟨⟨itemA, rfl,
    rfl⟩, idleMaker_of (by decide +kernel), by decide +kernel⟩ ?_ (.inr ⟨tileDpa 3 2 0x10018, by decide +kernel⟩)
  all_goals first
    | decide +kernel | exact opens_of (by decide +kernel) | exact canon_of (by decide +kernel)
    | exact quiet_of (by decide +kernel) | exact idleMaker_of (by decide +kernel)
    | constructor <;> first
        | decide +kernel | exact opens_of (by decide +kernel) | exact canon_of (by decide +kernel)
        | exact quiet_of (by decide +kernel) | exact idleMaker_of (by decide +kernel)

def hdOff : Head := { hd with q := 3, n := true }
theorem witness_predicate_off_1 : ¬ (∀ i (h : Head) (s : State), Canon s → Quiet s → wordMatches i (fetched h s) = true →
    s.executes h.cl.val h.t.val = true → (coreAt h s).bundle = [] → h.e = true → h.ill = false → h.fetch = .ok → headOn h
    (coreAt h s) = false → (coreAt h s).cyc.toNat < (coreAt h s).ilim.toNat → 0x50000 ≤ (coreAt h s).pc.toNat → (coreAt h
    s).pc.toNat ≤ 0x5FFFC → (coreAt h s).depth = 0 → s.poisoned (tileDpa h.cl.val h.t.val (coreAt h s).pc.toNat) = false →
    s.dbgOpen = false → ((∃ rd v, aluRow i = some (h, rd, v)) ∨ (∃ size sg rd pn mode off ecc, loadRow i = some (h, size, sg,
    rd, pn, mode, off, ecc) ∧ memForm size rd mode off) ∨ (∃ size rs pn mode off, storeRow i = some (h, size, rs, pn, mode, off)
    ∧ memForm size rs mode off)) → False) := by
  intro h
  refine h (.add hdOff 1 2 3) hdOff (sA (.add hdOff 1 2 3)) ?_ ?_ ?_ ?_ ?_ ?_ ?_ ?_ ?_ ?_ ?_ ?_ ?_ ?_ ?_ (.inl ⟨1, _, rfl⟩)
  all_goals first
    | decide +kernel | exact canon_of (by decide +kernel) | exact quiet_of (by decide +kernel)

/-- Tile debug open. -/
def sD : State := (sC id).put SEC.DBGSCOPE F.SEC_DBGSCOPE_OPEN 1
def sB : State :=
  ((sD.put (TILE.DBG_CTRL 3 2) F.TILE_DBG_CTRL_BPEN 1).put (TILE.BP 3 2 0) F.TILE_BP_EN 1).put (TILE.BP 3 2 0) F.TILE_BP_ADDR 0x14040

theorem witness_tile_debug_1 : ¬ (∀ (i : Instr) (cl : Fin 32) (k : Fin 12) (s : State), Canon s → s.dbgOpen = true → s.clState
    cl.val ≠ stOff → (i = .halt cl k ∨ (i = .breakpoint cl k ∧ s.executes cl.val k.val = true ∧ s.rb (TILE.DBG_CTRL cl.val
    k.val) F.TILE_DBG_CTRL_BPEN = true ∧ s.rb (TILE.BP cl.val k.val 0) F.TILE_BP_EN = true ∧ 4 * s.rf (TILE.BP cl.val k.val 0)
    F.TILE_BP_ADDR = (s.core cl.val k.val).pc.toNat)) → False) := by
  intro h
  refine h (.breakpoint 3 2) 3 2 sB ?_ ?_ ?_ (.inr ⟨rfl,by decide +kernel,by decide +kernel,by decide +kernel,by decide +kernel⟩)
  all_goals first
    | decide +kernel | exact canon_of (by decide +kernel)

theorem witness_tile_debug_1b : ¬ (∀ (i : Instr) (cl : Fin 32) (k : Fin 12) (s : State), Canon s → s.dbgOpen = true → s.clState
    cl.val ≠ stOff → (i = .halt cl k ∨ (i = .breakpoint cl k ∧ s.executes cl.val k.val = true ∧ s.rb (TILE.DBG_CTRL cl.val
    k.val) F.TILE_DBG_CTRL_BPEN = true ∧ s.rb (TILE.BP cl.val k.val 0) F.TILE_BP_EN = true ∧ 4 * s.rf (TILE.BP cl.val k.val 0)
    F.TILE_BP_ADDR = (s.core cl.val k.val).pc.toNat)) → False) := by
  intro h
  refine h (.halt 3 2) 3 2 sB ?_ ?_ ?_ (.inl rfl)
  all_goals first
    | decide +kernel | exact canon_of (by decide +kernel)

theorem witness_tile_debug_2 : ¬ (∀ (cl : Fin 32) (k : Fin 12) (s : State), Canon s → s.dbgOpen = true → s.clState cl.val ≠
    stOff → s.rb (TILE.STATE cl.val k.val) F.TILE_STATE_HALTED = true → False) := by
  intro h
  refine h 3 2 (sD.put (TILE.STATE 3 2) F.TILE_STATE_HALTED 1) ?_ ?_ ?_ ?_
  all_goals first
    | decide +kernel | exact canon_of (by decide +kernel)

theorem witness_tile_debug_3 : ¬ (∀ (cl : Fin 32) (k : Fin 12) (s : State), Canon s → s.dbgOpen = true → s.clState cl.val ≠
    stOff → False) := by
  intro h
  refine h 3 2 sD ?_ ?_ ?_
  all_goals first
    | decide +kernel | exact canon_of (by decide +kernel)

def sH : State := ((run3.put (WS.CFG 3) F.WS_CFG_POSTLIM 100).wv (WS.HPOST 3 0) 0x04000123).wv (WS.HPOST 3 1) 5

theorem witness_host_items_1 : ¬ (∀ (cl : Fin 32) (s : State) ws, Canon s → Quiet s → Opens s (WS.HPCTL cl.val) → s.ready
    (WS.HP_STATUS cl.val) = true → ws = s.hpost cl.val → stateAccepts (s.clState cl.val) ((ws.getD 0 0).toNat / 2 ^ 26 % 4)
    .host = true → itemValid ws .host = true → (s.cluster cl.val).pend.length < s.postLim cl.val → False) := by
  intro h
  refine h 3 sH (sH.hpost 3) ?_ ?_ ?_ ?_ ?_ ?_ ?_ ?_
  all_goals first
    | decide +kernel | exact opens_of (by decide +kernel) | exact canon_of (by decide +kernel)
    | exact quiet_of (by decide +kernel)

theorem witness_host_items_2 : ¬ (∀ (cl : Fin 32) (us : BitVec 32) (s : State) ws k, Canon s → Quiet s → Opens s (WS.HPCTL
    cl.val) → s.ready (WS.HP_STATUS cl.val) = true → ws = s.hpost cl.val → stateAccepts (s.clState cl.val) ((ws.getD 0 0).toNat
    / 2 ^ 26 % 4) .host = true → itemValid ws .host = true → us.toNat ≤ 4194303 → freeTimer (s.cluster cl.val) = some k → False)
    := by
  intro h
  refine h 3 4194303 sH (sH.hpost 3) 0 ?_ ?_ ?_ ?_ ?_ ?_ ?_ ?_ ?_
  all_goals first
    | decide +kernel | exact opens_of (by decide +kernel) | exact canon_of (by decide +kernel)
    | exact quiet_of (by decide +kernel)

theorem witness_host_items_3 : ¬ (∀ (cl : Fin 32) (k : BitVec 13) (s : State) due it x, Canon s → Quiet s → Opens s (WS.HPCTL
    cl.val) → s.ready (WS.HP_STATUS cl.val) = true → (s.cluster cl.val).armed k.toNat = some ⟨due, .oneShot it true x⟩ → False)
    := by
  intro h
  refine h 3 0 (run3.setCluster 3 { Cluster.init with timers := [(0, ⟨100, .oneShot itemA true 0⟩)] }) 100 itemA 0 ?_ ?_ ?_ ?_ ?_
  all_goals first
    | decide +kernel | exact opens_of (by decide +kernel) | exact canon_of (by decide +kernel)
    | exact quiet_of (by decide +kernel)

theorem witness_timed_releases_1 : ¬ (∀ (cl : Fin 32) (s : State) it rest, Canon s → Quiet s → (s.cluster cl.val).waiting = (it,
    none) :: rest → (s.cluster cl.val).pend.length < 4096 → stateAccepts (s.clState cl.val) it.typ.toNat it.origin = true →
    False) := by
  intro h
  refine h 3 (run3.setCluster 3 { Cluster.init with waiting := [(itemA, none), (itemA, none)] }) itemA [(itemA, none)] ?_ ?_ ?_ ?_
    ?_
  all_goals first
    | decide +kernel | exact canon_of (by decide +kernel) | exact quiet_of (by decide +kernel)

def sT (x : Timer) : State :=
  { (run3.setCluster 3 { Cluster.init with timers := [(0, x)] }) with tbs := State.reset.tbs.set 2 ⟨0, 200000000, 0⟩ }
theorem witness_timed_releases_2 : ¬ (∀ (cl : Fin 32) (k : BitVec 13) (s : State) due it y x, Canon s → Quiet s → (s.cluster
    cl.val).armed k.toNat = some ⟨due, .oneShot it y x⟩ → s.timerFirst cl.val ⟨due, .oneShot it y x⟩ = true → s.mustWait cl.val
    it = false → stateAccepts (s.clState cl.val) it.typ.toNat it.origin = true → False) := by
  intro h
  refine h 3 0 (sT ⟨100, .oneShot itemA true 0⟩) 100 itemA true 0 ?_ ?_ ?_ ?_ ?_ ?_
  all_goals first
    | decide +kernel | exact canon_of (by decide +kernel) | exact quiet_of (by decide +kernel)

/-- Slot 11 with a period of 1 ms and its first chain started by the timer. -/
def sT11 : State :=
  (((sT ⟨20000, .periodic 11⟩).setSlot 3 11 { Slot.init with st := .live, tid := 5 }).writeLe (slotDpa 3 11 + 12) 4 0x01000003).writeLe
    (slotDpa 3 11) 4 0x10000005
theorem witness_timed_releases_3 : ¬ (∀ (cl : Fin 32) (k : BitVec 13) (s : State) i due ch, Canon s → Quiet s → (s.cluster
    cl.val).periodic k.toNat = some (i, ⟨due, .periodic k⟩) → s.timerFirst cl.val ⟨due, .periodic k⟩ = true → (s.slot cl.val
    k.toNat).pending = none → s.frozen (s.slot cl.val k.toNat).tid = false → startedBy (s.ctx cl.val k.toNat) 1 = [ch] →
    s.mustWait cl.val (s.chainItem cl.val k.toNat ch due .delayList) = false → stateAccepts (s.clState cl.val) 2 .delayList =
    true → False) := by
  intro h
  refine h 3 11 sT11 0 20000 0 ?_ ?_ ?_ ?_ ?_ ?_ ?_ ?_ ?_
  all_goals first
    | decide +kernel | exact canon_of (by decide +kernel) | exact quiet_of (by decide +kernel)

def sI (c : Core) : State := ((run3.setCluster 3 { Cluster.init with pend := [itemA, itemA] }).setCore 3 4 c)
theorem witness_dispatches_1 : ¬ (∀ (cl : Fin 32) (s : State) i it k, Canon s → Quiet s → pickItem (s.readyItems cl.val) = some
    (i, it) → s.pickTile cl.val it = some (k, true) → k < 12 → False) := by
  intro h
  refine h 3 (sI Core.init) 0 itemA 0 ?_ ?_ ?_ ?_ ?_
  all_goals first
    | decide +kernel | exact canon_of (by decide +kernel) | exact quiet_of (by decide +kernel)

theorem witness_dispatches_2 : ¬ (∀ (cl : Fin 32) (s : State) i it k, Canon s → Quiet s → pickItem (s.readyItems cl.val) = some
    (i, it) → s.pickTile cl.val it = some (k, false) → it.stage = [] → it.area = none → False) := by
  intro h
  refine h 3 (sI { Core.init with image := some (1, 9), entryPc := 0x50010 }) 0 itemA 4 ?_ ?_ ?_ ?_ ?_ ?_
  all_goals first
    | decide +kernel | exact canon_of (by decide +kernel) | exact quiet_of (by decide +kernel)

theorem witness_dispatches_3 : ¬ (∀ (cl : Fin 32) (k : Fin 12) (s : State) it, Canon s → Quiet s → (s.core cl.val k.val).loading
    = some it → it.typ = 0 → it.stage = [] → it.area = none → False) := by
  intro h
  refine h 3 4 (run3.setCore 3 4 { Core.init with loading := some { itemA with typ := 0 } }) { itemA with typ := 0 } ?_ ?_ ?_ ?_
    ?_ ?_
  all_goals first
    | decide +kernel | exact canon_of (by decide +kernel) | exact quiet_of (by decide +kernel)

/-- Cask 9 of die 1 with a depth, enabled or not. -/
def s9 (depth en : Nat) (c : Cask) : State :=
  ((booted.put (CSK.CFG 1 9) F.CSK_CFG_DEPTH depth).put (CSK.CFG 1 9) F.CSK_CFG_EN en).setCask 8201 c
def openH : OpenPkt := ⟨[4], false⟩

theorem witness_cask_control_1 : ¬ (∀ (d : Fin 2) (k : BitVec 13) (s : State) x, CskFree s d → x = Machine.handle d k → s.caskOn
    x = false → s.caskCfg x F.CSK_CFG_DEPTH ≤ 12 → s.rf (CSK.BASE d k.toNat) F.CSK_BASE_OFFS * 256 + 2 ^ (s.caskCfg x
    F.CSK_CFG_DEPTH + 4) * 16 ≤ 0x4000000 → s.caskCfg x F.CSK_CFG_LANE = 0 → s.caskCfg x F.CSK_CFG_NMODE ≠ 3 → False) := by
  intro h
  refine h 1 9 (s9 12 0 Cask.init) 8201 ?_ ?_ ?_ ?_ ?_ ?_ ?_
  all_goals first
    | decide +kernel | exact opens_of (by decide +kernel) | exact canon_of (by decide +kernel)
    | exact quiet_of (by decide +kernel) | exact idleMaker_of (by decide +kernel)
    | constructor <;> first
        | decide +kernel | exact opens_of (by decide +kernel) | exact canon_of (by decide +kernel)
        | exact quiet_of (by decide +kernel) | exact idleMaker_of (by decide +kernel)

theorem witness_cask_control_2 : ¬ (∀ (d : Fin 2) (k : BitVec 13) (s : State) x keep, CskFree s d → x = Machine.handle d k →
    s.caskOn x = true → (s.cask x).opens = [] → keep = (if (s.cask x).ridx = 0 then [] else (s.cask x).pkts.take 1) → False) :=
    by
  intro h
  refine h 1 9 (s9 12 1 { Cask.init with pkts := [[1, 2], [3]], ridx := 1 }) 8201 _ ?_ ?_ ?_ ?_ rfl
  all_goals first
    | decide +kernel | exact opens_of (by decide +kernel) | exact canon_of (by decide +kernel)
    | exact quiet_of (by decide +kernel) | exact idleMaker_of (by decide +kernel)
    | constructor <;> first
        | decide +kernel | exact opens_of (by decide +kernel) | exact canon_of (by decide +kernel)
        | exact quiet_of (by decide +kernel) | exact idleMaker_of (by decide +kernel)

theorem witness_cask_control_3 : ¬ (∀ (d : Fin 2) (k : BitVec 13) (s : State) x p o, CskFree s d → x = Machine.handle d k →
    s.caskOn x = true → (s.cask x).openOf p = some o → False) := by
  intro h
  refine h 1 9 (s9 12 1 { Cask.init with opens := [(.host, openH)] }) 8201 .host openH ?_ ?_ ?_ ?_
  all_goals first
    | decide +kernel | exact opens_of (by decide +kernel) | exact canon_of (by decide +kernel)
    | exact quiet_of (by decide +kernel) | exact idleMaker_of (by decide +kernel)
    | constructor <;> first
        | decide +kernel | exact opens_of (by decide +kernel) | exact canon_of (by decide +kernel)
        | exact quiet_of (by decide +kernel) | exact idleMaker_of (by decide +kernel)

theorem witness_cask_control_4 : ¬ (∀ (d : Fin 2) (k : BitVec 13) (s : State) x, CskFree s d → x = Machine.handle d k → s.caskOn
    x = true → (s.cask x).used = 0 → (s.cask x).openWords = 0 → s.hasLanes x = false → False) := by
  intro h
  refine h 1 9 (s9 0 1 Cask.init) 8201 ?_ ?_ ?_ ?_ ?_ ?_
  all_goals first
    | decide +kernel | exact opens_of (by decide +kernel) | exact canon_of (by decide +kernel)
    | exact quiet_of (by decide +kernel) | exact idleMaker_of (by decide +kernel)
    | constructor <;> first
        | decide +kernel | exact opens_of (by decide +kernel) | exact canon_of (by decide +kernel)
        | exact quiet_of (by decide +kernel) | exact idleMaker_of (by decide +kernel)

theorem witness_host_packets_1 : ¬ (∀ (d : Fin 2) (k : BitVec 13) (s : State) x, Canon s → Quiet s → Opens s (CSK.HWCTL d) → x =
    Machine.handle d k → s.accepts x .host = true → False) := by
  intro h
  refine h 1 9 (s9 12 1 Cask.init) 8201 ?_ ?_ ?_ ?_ ?_
  all_goals first
    | decide +kernel | exact opens_of (by decide +kernel) | exact canon_of (by decide +kernel)
    | exact quiet_of (by decide +kernel)

theorem witness_host_packets_2 : ¬ (∀ (i : Instr) (d : Fin 2) (k : BitVec 13) (s : State) x o, (i = .hwctlCommit d k ∨ i =
    .hwctlCommitRel d k) → Canon s → Quiet s → Opens s (CSK.HWCTL d) → x = Machine.handle d k → s.caskOn x = true → s.caskCfg x
    F.CSK_CFG_NMODE = 0 → (s.cask x).openOf .host = some o → o.flushed = false → False) := by
  intro h
  refine h (.hwctlCommit 1 9) 1 9 (s9 12 1 { Cask.init with opens := [(.host, openH)] }) 8201 openH (.inl rfl) ?_ ?_ ?_ ?_ ?_ ?_
    ?_ ?_
  all_goals first
    | decide +kernel | exact opens_of (by decide +kernel) | exact canon_of (by decide +kernel)
    | exact quiet_of (by decide +kernel)

theorem witness_host_packets_2b : ¬ (∀ (i : Instr) (d : Fin 2) (k : BitVec 13) (s : State) x o, (i = .hwctlCommit d k ∨ i =
    .hwctlCommitRel d k) → Canon s → Quiet s → Opens s (CSK.HWCTL d) → x = Machine.handle d k → s.caskOn x = true → s.caskCfg x
    F.CSK_CFG_NMODE = 0 → (s.cask x).openOf .host = some o → o.flushed = false → False) := by
  intro h
  refine h (.hwctlCommitRel 1 9) 1 9 (s9 12 1 { Cask.init with opens := [(.host, openH)] }) 8201 openH (.inr rfl) ?_ ?_ ?_ ?_ ?_
    ?_ ?_ ?_
  all_goals first
    | decide +kernel | exact opens_of (by decide +kernel) | exact canon_of (by decide +kernel)
    | exact quiet_of (by decide +kernel)

theorem witness_host_packets_3 : ¬ (∀ (d : Fin 2) (k : BitVec 13) (s : State) x o, Canon s → Quiet s → Opens s (CSK.HWCTL d) → x
    = Machine.handle d k → s.caskOn x = true → (s.cask x).openOf .host = some o → sget s.flushing 16384 d ≠ x → False) := by
  intro h
  refine h 1 9 (s9 12 1 { Cask.init with opens := [(.host, openH)] }) 8201 openH ?_ ?_ ?_ ?_ ?_ ?_ ?_
  all_goals first
    | decide +kernel | exact opens_of (by decide +kernel) | exact canon_of (by decide +kernel)
    | exact quiet_of (by decide +kernel)

theorem witness_host_packets_4 : ¬ (∀ (d : Fin 2) (k : BitVec 13) (s : State) x, Canon s → Quiet s → Opens s (CSK.HWCTL d) → x =
    Machine.handle d k → s.caskOn x = true → False) := by
  intro h
  refine h 1 9 (s9 12 1 Cask.init) 8201 ?_ ?_ ?_ ?_ ?_
  all_goals first
    | decide +kernel | exact opens_of (by decide +kernel) | exact canon_of (by decide +kernel)
    | exact quiet_of (by decide +kernel)

theorem witness_host_packets_5 : ¬ (∀ (d : Fin 2) (g : Fin 32) (n : BitVec 16) (s : State), Canon s → Quiet s → Opens s
    (CSK.NG_GACK d g) → False) := by
  intro h
  refine h 1 31 0xFFFF booted ?_ ?_ ?_
  all_goals first
    | decide +kernel | exact opens_of (by decide +kernel) | exact canon_of (by decide +kernel)
    | exact quiet_of (by decide +kernel)

theorem witness_cask_reads_1 : ¬ (∀ (s : State) (x p : Nat) (ps : List Nat) (rest : List (List Nat)), Canon s → s.caskOn x =
    true → s.caskCfg x F.CSK_CFG_LANE = 0 → (s.cask x).member = none → s.members x = [x] → (s.cask x).ridx = 0 → (s.cask x).pkts
    = (p :: ps) :: rest → False) := by
  intro h
  refine h (s9 12 1 { Cask.init with pkts := [[1, 2], [3]] }) 8201 1 [2] [[3]] ?_ ?_ ?_ ?_ ?_ ?_ ?_
  all_goals first
    | decide +kernel | exact canon_of (by decide +kernel)

theorem witness_cask_reads_2 : ¬ (∀ (s : State) (x : Nat), s.caskOn x = true → s.caskCfg x F.CSK_CFG_LANE = 0 → (s.cask
    x).member = none → s.members x = [] → False) := by
  intro h
  refine h (s9 12 1 Cask.init) 8201 ?_ ?_ ?_ ?_
  all_goals first
    | decide +kernel

theorem witness_cask_reads_3 : ¬ (∀ (s : State) (x : Nat), s.caskOn x = false → False) := by
  intro h
  refine h booted 16383 ?_
  all_goals first
    | decide +kernel

theorem witness_scrubs_1 : ¬ (∀ (b : Bank) (s : State), Canon s → (∀ n, bankCluster b = some n → s.clState n ≠ stOff) → False)
    := by
  intro h
  refine h (.tile 3 4 13) run3 ?_ (fun _ e => Option.some.inj e ▸ (by decide +kernel))
  all_goals first
    | decide +kernel | exact canon_of (by decide +kernel)

theorem witness_scrubs_2 : ¬ (∀ (d : Fin 2) (b : Fin 512) (y : BitVec 8) (s : State) (a : Nat), Canon s → Quiet s → sget
    s.scrubs 0 (bankKey (.cellar d b)) < 16384 → a = 0x10000000 + d.val * 0x4000000 + 8 * (512 * sget s.scrubs 0 (bankKey
    (.cellar d b)) + b.val) → False) := by
  intro h
  refine h 1 511 0xA5 ({ booted with scrubs := [(bankKey (.cellar 1 511), 16383)] }) (0x10000000 + 0x4000000 + 8 * (512 * 16383 +
    511)) ?_ ?_ ?_ ?_
  all_goals first
    | decide +kernel | exact canon_of (by decide +kernel) | exact quiet_of (by decide +kernel)

theorem witness_scrubs_3 : ¬ (∀ (c : Fin 4) (s : State), Canon s → Quiet s → s.dramBytes c ≠ 0 → False) := by
  intro h
  refine h 2 ((booted.put (DDR.STATUS1 2) F.DDR_STATUS1_TRAINED 1).put (DDR.CFG 2) F.DDR_CFG_CAP 4) ?_ ?_ ?_
  all_goals first
    | decide +kernel | exact canon_of (by decide +kernel) | exact quiet_of (by decide +kernel)

/-- Cluster 5 in RUN with a home table in Cellar. -/
def s5 : State :=
  (((booted.put (WS.STATUS 5) F.WS_STATUS_STATE 3).put (CTX.HOMEBASE 5) F.CTX_HOMEBASE_HOMEBASE 0x10000).put (CTX.EPOCH 5)
    F.CTX_EPOCH_EPOCH 7).setSlot 5 0 { Slot.init with st := .live, tid := 4, grid := (20000, 0) }

theorem witness_alloc_reserves_1 : ¬ (∀ (cl : Fin 32) (tid : BitVec 18) (s : State) k, Idle s (CTX.ACMD cl) (CTX.ARES cl) → s.rf
    (CTX.HOMEBASE cl) F.CTX_HOMEBASE_HOMEBASE ≠ 0 → s.clState cl.val = stRun → s.homeValid cl tid = false → s.lowestFree cl =
    some k → Writable s (dieOf cl) (s.homeDpa cl tid) 16 → False) := by
  intro h
  refine h 5 77 s5 1 ?_ ?_ ?_ ?_ ?_ ?_
  all_goals first
    | decide +kernel | exact opens_of (by decide +kernel) | exact canon_of (by decide +kernel)
    | exact quiet_of (by decide +kernel) | exact idleMaker_of (by decide +kernel) | exact writable_of (by decide +kernel)
    | constructor <;> first
        | decide +kernel | exact opens_of (by decide +kernel) | exact canon_of (by decide +kernel)
        | exact quiet_of (by decide +kernel) | exact idleMaker_of (by decide +kernel) | exact writable_of (by decide +kernel)

theorem witness_free_and_query_1 : ¬ (∀ (cl : Fin 32) (k : BitVec 13) (s : State), Idle s (CTX.ACMD cl) (CTX.ARES cl) → (s.slot
    cl k.toNat).st = .reserved → (s.slot cl k.toNat).pending = none → s.isTarget cl k.toNat = false → False) := by
  intro h
  refine h 5 1 (s5.setSlot 5 1 { Slot.init with st := .reserved, tid := 9 }) ?_ ?_ ?_ ?_
  all_goals first
    | decide +kernel | exact opens_of (by decide +kernel) | exact canon_of (by decide +kernel)
    | exact quiet_of (by decide +kernel) | exact idleMaker_of (by decide +kernel)
    | constructor <;> first
        | decide +kernel | exact opens_of (by decide +kernel) | exact canon_of (by decide +kernel)
        | exact quiet_of (by decide +kernel) | exact idleMaker_of (by decide +kernel)

theorem witness_free_and_query_2 : ¬ (∀ (cl : Fin 32) (tid : BitVec 18) (s : State) k, Idle s (CTX.ACMD cl) (CTX.ARES cl) →
    s.slotOf cl tid = some k → False) := by
  intro h
  refine h 5 4 s5 0 ?_ ?_
  all_goals first
    | decide +kernel | exact opens_of (by decide +kernel) | exact canon_of (by decide +kernel)
    | exact quiet_of (by decide +kernel) | exact idleMaker_of (by decide +kernel)
    | constructor <;> first
        | decide +kernel | exact opens_of (by decide +kernel) | exact canon_of (by decide +kernel)
        | exact quiet_of (by decide +kernel) | exact idleMaker_of (by decide +kernel)

/-- A staged context of version 1 for slot 1, reserved for TID 77. -/
def sStaged : State :=
  (((s5.put (CTX.STAGEBASE 5) ⟨31, 0⟩ 0x100010).setSlot 5 1 { Slot.init with st := .reserved, tid := 77 }).writeLe 0x10001000 4
    (2 * 2 ^ 30 + 2 ^ 27 + 77)).writeLe 0x10001004 4 65536 |>.writeLe 0x10001010 4 0x100100
theorem witness_commit_pends_1 : ¬ (∀ (cl : Fin 32) (k : BitVec 13) (keep staged : Bool) (buf : BitVec 6) (version : BitVec 16)
    s, Idle s (CTX.DB cl k.toNat) (CTX.CSTATUS cl) → s.commitCode cl k.toNat staged buf.toNat version = 0 → ((s.slot cl
    k.toNat).st = .reserved ∨ 0 < (s.slot cl k.toNat).grid.1) → False) := by
  intro h
  refine h 5 1 true true 0 1 sStaged ?_ ?_ ?_
  all_goals first
    | decide +kernel | exact opens_of (by decide +kernel) | exact canon_of (by decide +kernel)
    | exact quiet_of (by decide +kernel) | exact idleMaker_of (by decide +kernel)
    | constructor <;> first
        | decide +kernel | exact opens_of (by decide +kernel) | exact canon_of (by decide +kernel)
        | exact quiet_of (by decide +kernel) | exact idleMaker_of (by decide +kernel)

theorem witness_delete_pends_1 : ¬ (∀ (cl : Fin 32) (k : BitVec 13) (version : BitVec 16) (s : State), Idle s (CTX.DB cl
    k.toNat) (CTX.CSTATUS cl) → (s.clState cl.val = stRun ∨ s.clState cl.val = stRecover) → ((s.slot cl k.toNat).st = .live ∨
    (s.slot cl k.toNat).st = .idle) → s.homeMoving cl (s.slot cl k.toNat).tid = false → False) := by
  intro h
  refine h 5 0 9 s5 ?_ (.inl (by decide +kernel)) (.inl (by decide +kernel)) ?_
  all_goals first
    | decide +kernel | exact opens_of (by decide +kernel) | exact canon_of (by decide +kernel)
    | exact quiet_of (by decide +kernel) | exact idleMaker_of (by decide +kernel)
    | constructor <;> first
        | decide +kernel | exact opens_of (by decide +kernel) | exact canon_of (by decide +kernel)
        | exact quiet_of (by decide +kernel) | exact idleMaker_of (by decide +kernel)

def sPend (del : Bool) : State :=
  s5.setSlot 5 0 { s5.slot 5 0 with pending := some ⟨[], 3, false, false, 9, 0, ⟨0, 0, 0, 0⟩, [], del, 0⟩ }
theorem witness_version_switches_1 : ¬ (∀ (cl : Fin 32) (k : BitVec 13) (s : State) q, Canon s → Quiet s → (s.slot cl
    k.toNat).pending = some q → q.delete = false → q.switchAt ≤ s.tb2usOn (dieOf cl) → s.frozen (s.slot cl k.toNat).tid = false
    → (s.slot cl k.toNat).adjusts = [] → False) := by
  intro h
  refine h 5 0 (sPend false) _ ?_ ?_ rfl ?_ ?_ ?_ ?_
  all_goals first
    | decide +kernel | exact canon_of (by decide +kernel) | exact quiet_of (by decide +kernel)

theorem witness_version_switches_2 : ¬ (∀ (cl : Fin 32) (k : BitVec 13) (s : State) q, Canon s → Quiet s → (s.slot cl
    k.toNat).pending = some q → q.delete = true → q.switchAt ≤ s.tb2usOn (dieOf cl) → s.frozen (s.slot cl k.toNat).tid = false →
    (s.slot cl k.toNat).adjusts = [] → s.slotQuiet cl k.toNat = true → False) := by
  intro h
  refine h 5 0 (sPend true) _ ?_ ?_ rfl ?_ ?_ ?_ ?_ ?_
  all_goals first
    | decide +kernel | exact canon_of (by decide +kernel) | exact quiet_of (by decide +kernel)

def sWd : State := s5.put (WDN.CFG 0) F.WDN_CFG_EN 1
theorem witness_adjustments_and_metrics_1 : ¬ (∀ (cl : Fin 32) (k : BitVec 13) (base : BitVec 16) (area : List (BitVec 32)) (s :
    State), s.wdnOn (dieOf cl) = true → (s.slot cl k.toNat).st = .live → base = (s.slot cl k.toNat).newest → 0 < (s.slot cl
    k.toNat).grid.1 → False) := by
  intro h
  refine h 5 0 0 [1,2,3,4] sWd ?_ ?_ ?_ ?_
  all_goals first
    | decide +kernel

theorem witness_adjustments_and_metrics_2 : ¬ (∀ (cl : Fin 32) (k : BitVec 13) (base : BitVec 16) (area : List (BitVec 32)) (s :
    State), Canon s → Quiet s → s.wdnOn (dieOf cl) = true → ((s.slot cl k.toNat).st ≠ .live ∨ base ≠ (s.slot cl k.toNat).newest)
    → False) := by
  intro h
  refine h 5 0 9 [1,2,3,4] sWd ?_ ?_ ?_ (.inr (by decide +kernel))
  all_goals first
    | decide +kernel | exact canon_of (by decide +kernel) | exact quiet_of (by decide +kernel)

theorem witness_adjustments_and_metrics_3 : ¬ (∀ (cl : Fin 32) (k : BitVec 13) (s : State), Canon s → Quiet s → (s.slot cl
    k.toNat).st = .live → s.clState cl.val ≠ stOff → s.frozen (s.slot cl k.toNat).tid = false → False) := by
  intro h
  refine h 5 0 s5 ?_ ?_ ?_ ?_ ?_
  all_goals first
    | decide +kernel | exact canon_of (by decide +kernel) | exact quiet_of (by decide +kernel)


/-! ## Chain runs, TDM highways and codecs -/

/-- OnTile by evaluation. -/
def onTileOk (s : State) (n k : Nat) (chain : Fin 2) (r : Run) (w t : Nat) : Bool :=
  canonOk s && !s.probes.any (fun e => e.2.armed && e.2.src == 5) && decide (s.run n k chain = some r) && !r.closed &&
    decide (r.wait = .tile) && decide (s.runInstr r chain = w) && !ciTrace w && decide (s.kernelTile n k chain = some t) &&
    (match (s.core n t).running with
      | some it => (match it.area with
        | some (_, len) => !s.poisonedIn (tileDpa n t stageStateAt) len
        | none => true)
      | none => true) &&
    s.casks.all (fun e => (e.2.openOf (tileProducer n t)).isNone)

theorem onTile_of {s : State} {n k : Nat} {chain : Fin 2} {r : Run} {w t : Nat} (h : onTileOk s n k chain r w t = true) :
    OnTile s n k chain r w t := by
  simp only [onTileOk, Bool.and_eq_true, Bool.not_eq_true', decide_eq_true_eq] at h
  obtain ⟨⟨⟨⟨⟨⟨⟨⟨⟨h1, h2⟩, h3⟩, h4⟩, h5⟩, h6⟩, h7⟩, h8⟩, h9⟩, h10⟩ := h
  refine ⟨canon_of h1, h2, h3, h4, h5, h6, h7, h8, fun it a len e f => ?_, fun e he => ?_⟩
  · simpa [e, f] using h9
  · simpa using List.all_eq_true.mp h10 e he

/-- Slot 1 of cluster 5, of TID 77 and kind kindw, in a run of chain 0 whose next instruction is w and whose block 3 is b. -/
def chained (kindw w : Nat) (b : Block) : State :=
  let s := booted.put (WS.STATUS 5) F.WS_STATUS_STATE 3
  let s := (s.writeLe (slotDpa 5 1) 4 (kindw * 2 ^ 30 + 2 ^ 27 + 77)).writeLe (slotDpa 5 1 + 16) 4 0x100000
  let s := s.writeLe (0x10000000 + 16) 8 w
  let s := ((s.writeLe (slotDpa 5 1 + 8) 4 78).writeLe (slotDpa 5 1 + 20) 4 0x100080).writeLe (slotDpa 5 1 + 24) 4 100
  let s := s.setSlot 5 1 { Slot.init with st := .live, tid := 77, grid := (10, 0) }
  s.setRun 5 1 0 (some ⟨20000, s.ctx 5 1, 2, 0, [], [], false, false, .none, [], (Vector.replicate 8 Block.empty).set 3 b⟩)
def runOf (s : State) : Run := (s.run 5 1 0).getD ⟨0, [], 0, 0, [], [], false, false, .none, [], Vector.replicate 8 Block.empty⟩
/-- The run with the context as memory holds it now. -/
def reread (s : State) : State := s.setRun 5 1 0 (some { runOf s with ctx := s.ctx 5 1 })
/-- The run waits for the ROM kernel of its instruction, which tile 3 runs. -/
def tiled (s : State) (w : Nat) : State :=
  let it := romItem s 5 1 0 (runOf s) w
  (s.setCore 5 3 { Core.init with running := some { it with stage := [] } }).setRun 5 1 0 (some { runOf s with wait := .tile })
def wordOf (op lo : Nat) : Nat := op * 2 ^ 56 + 3 * 2 ^ 49 + 4 * 2 ^ 46 + lo
def blockA : Block := { Block.empty with missing := false, samples := [5, 100, 0x8000, 0x7fff, 0xffff] }
/-- A peer of TID 78 in slot 2. -/
def peered (s : State) : State :=
  ((s.writeLe (slotDpa 5 2) 4 (2 * 2 ^ 30 + 2 ^ 27 + 78)).writeLe (slotDpa 5 2 + 20) 4 0x100180).setSlot 5 2
    { Slot.init with st := .live, tid := 78, grid := (10, 0) }

def itemC : Item := { itemA with origin := .delayList, typ := 2, run := some (1, 0), boundary := 20000, ord := true, flow := 1 }
def sRun0 : State :=
  (chained 2 (wordOf opEnd 0) blockA).setRun 5 1 0 none |>.setCluster 5 { Cluster.init with pend := [itemC] }
theorem witness_runs_start_and_end_1 : ¬ (∀ (cl : Fin 32) (k : BitVec 13) (ch : Fin 2) (s : State) i it, Canon s → Quiet s →
    s.runIndex cl k.toNat ch = some i → (s.cluster cl).pend[i]? = some it → s.sequences cl = true → s.flowFree cl k.toNat i =
    true → ((s.slot cl k.toNat).st = .live ∨ (s.slot cl k.toNat).st = .deleting) → s.poison = [] → s.rf (WS.STATUS cl)
    F.WS_STATUS_SHED = 0 → False) := by
  intro h
  refine h 5 1 0 sRun0 0 itemC ?_ ?_ ?_ ?_ ?_ ?_ ?_ ?_ ?_
  all_goals first
    | decide +kernel | exact canon_of (by decide +kernel) | exact quiet_of (by decide +kernel)

def sLate : State := { chained 2 (wordOf opEnd 0) blockA with tbs := State.reset.tbs.set 2 ⟨0, 30000000, 0⟩ }
theorem witness_runs_start_and_end_2 : ¬ (∀ (cl : Fin 32) (k : BitVec 13) (ch : Fin 2) (s : State) r, Canon s → Quiet s → s.run
    cl k.toNat ch = some r → r.closed = false → r.wait = .none → r.missed = false → r.cells = [] → r.boundary + 1000 * ctxPeriod
    r.ctx ≤ s.tb2usOn (dieOf cl) → s.runHalted cl k.toNat ch = false → (s.slot cl k.toNat).st ≠ .deleting → False) := by
  intro h
  refine h 5 1 0 sLate (runOf sLate) ?_ ?_ ?_ ?_ ?_ ?_ ?_ ?_ ?_ ?_
  all_goals first
    | decide +kernel | exact canon_of (by decide +kernel) | exact quiet_of (by decide +kernel)

theorem witness_runs_start_and_end_3 : ¬ (∀ (cl : Fin 32) (k : BitVec 13) (ch : Fin 2) (s : State) r w, NextIs s cl k.toNat ch r
    w → ciOp w = opEnd → r.cells = [] → (s.slot cl k.toNat).st ≠ .deleting → False) := by
  intro h
  refine h 5 1 0 (chained 2 (wordOf opEnd 0) blockA) (runOf (chained 2 (wordOf opEnd 0) blockA)) (wordOf opEnd 0) ?_ ?_ ?_ ?_
  all_goals first
    | decide +kernel | exact canon_of (by decide +kernel) | exact quiet_of (by decide +kernel)
    | constructor <;> first
        | decide +kernel | exact canon_of (by decide +kernel) | exact quiet_of (by decide +kernel)

def wGain : Nat := wordOf opGain 0x0801
def sGain : State := chained 2 wGain blockA
/-- Before it stands an item of a higher class. -/
def itemF : Item := { itemA with cls := 0 }
def sK1 : State := sGain.setCluster 5 { sGain.cluster 5 with pend := [itemF] }
def uK1 : State := sK1.postKernel 5 1 0 (runOf sK1) (romItem sK1 5 1 0 (runOf sK1) wGain)
theorem picked_first : pickItem (uK1.readyItems 5) = some (0, itemF) := by decide +kernel
theorem witness_kernels_posted_1 : ¬ (∀ (i : Instr) (cl : Fin 32) (k : BitVec 13) (ch : Fin 2) op s r w u, kernelRow i = some
    (cl, k, ch, op) → NextIs s cl k.toNat ch r w → ciOp w = op → s.mustWait cl (romItem s cl k.toNat ch r w) = false →
    s.kernelTile cl k.toNat ch = none → u = s.postKernel cl k.toNat ch r (romItem s cl k.toNat ch r w) → (∀ j x t, pickItem
    (u.readyItems cl) = some (j, x) → x.run = some (k, ch) → u.pickTile cl x ≠ some (t, false)) → False) := by
  intro h
  refine h (.gain 5 1 0) 5 1 0 opGain sK1 (runOf sK1) wGain uK1 rfl ?_ ?_ ?_ ?_ rfl (fun j x t h1 h2 _ => absurd
    (picked_first.symm.trans h1) (fun e => by cases e; revert h2; decide))
  all_goals first
    | decide +kernel | exact canon_of (by decide +kernel) | exact quiet_of (by decide +kernel)
    | constructor <;> first
        | decide +kernel | exact canon_of (by decide +kernel) | exact quiet_of (by decide +kernel)

theorem pickTile_held {s : State} {n t : Nat} {it : Item} (h : (List.range 12).filter (fun t => s.tileTakes n t) = [t])
    (e : (s.core n t).image = some it.imageOf) : s.pickTile n it = some (t, false) := by
  have f : [t].filter (fun t => s.holdsImage n t it) = [t] := by simp [State.holdsImage, e]
  simp only [State.pickTile, h, f]
  by_cases g : (it.ord && (s.core n t).lastFlow == some it.flow) = true <;> simp [List.find?, g]

/-- Tile 3 alone is in dispatch, and holds the kernel's image. -/
def sK2 : State :=
  let s := sGain.setCore 5 3 { Core.init with image := some (romItem sGain 5 1 0 (runOf sGain) wGain).imageOf }
  [0, 1, 2, 4, 5, 6, 7, 8, 9, 10, 11].foldl (fun s j => s.put (TILE.STATE 5 j) F.TILE_STATE_WITHDRAWN 1) s
def itemK2 : Item := romItem sK2 5 1 0 (runOf sK2) wGain
def uK2 : State := sK2.postKernel 5 1 0 (runOf sK2) itemK2
set_option maxRecDepth 100000 in
theorem picked_only : pickItem (uK2.readyItems 5) = some (0, itemK2) := by rfl
set_option maxRecDepth 100000 in
theorem picked_tile : uK2.pickTile 5 itemK2 = some (3, false) := pickTile_held (by decide +kernel) rfl
theorem witness_kernels_posted_2 : ¬ (∀ (i : Instr) (cl : Fin 32) (k : BitVec 13) (ch : Fin 2) op s r w u j t, kernelRow i =
    some (cl, k, ch, op) → NextIs s cl k.toNat ch r w → ciOp w = op → u = s.postKernel cl k.toNat ch r (romItem s cl k.toNat ch
    r w) → pickItem (u.readyItems cl) = some (j, romItem s cl k.toNat ch r w) → u.pickTile cl (romItem s cl k.toNat ch r w) =
    some (t, false) → False) := by
  intro h
  refine h (.gain 5 1 0) 5 1 0 opGain sK2 (runOf sK2) wGain uK2 0 3 rfl ?_ ?_ rfl picked_only picked_tile
  all_goals first
    | decide +kernel | exact canon_of (by decide +kernel) | exact quiet_of (by decide +kernel)
    | constructor <;> first
        | decide +kernel | exact canon_of (by decide +kernel) | exact quiet_of (by decide +kernel)

theorem witness_block_instructions_1 : ¬ (∀ (cl : Fin 32) (k : BitVec 13) (ch : Fin 2) (s : State) r w t b, OnTile s cl k.toNat
    ch r w t → ciOp w = opGain → b = r.block (ciBi w) → False) := by
  intro h
  refine h 5 1 0 (tiled sGain wGain) (runOf (tiled sGain wGain)) wGain 3 _ ?_ ?_ rfl
  all_goals first
    | decide +kernel | exact onTile_of (by decide +kernel)

def sVad : State := tiled (chained 2 (wordOf opVad 0) blockA) (wordOf opVad 0)
theorem witness_block_instructions_2 : ¬ (∀ (cl : Fin 32) (k : BitVec 13) (ch : Fin 2) (s : State) r w t b, OnTile s cl k.toNat
    ch r w t → ciOp w = opVad → b = r.block (ciBi w) → b.missing = false → False) := by
  intro h
  refine h 5 1 0 sVad (runOf sVad) (wordOf opVad 0) 3 _ ?_ ?_ rfl ?_
  all_goals first
    | decide +kernel | exact onTile_of (by decide +kernel)

def sCng : State := tiled (chained 2 (wordOf opCng 0) blockA) (wordOf opCng 0)
theorem witness_block_instructions_3 : ¬ (∀ (cl : Fin 32) (k : BitVec 13) (ch : Fin 2) (s : State) r w t b, OnTile s cl k.toNat
    ch r w t → ciOp w = opCng → b = r.block (ciBi w) → False) := by
  intro h
  refine h 5 1 0 sCng (runOf sCng) (wordOf opCng 0) 3 _ ?_ ?_ rfl
  all_goals first
    | decide +kernel | exact onTile_of (by decide +kernel)

def sMet : State := tiled (chained 2 (wordOf opMeter 0) blockA) (wordOf opMeter 0)
theorem witness_block_instructions_4 : ¬ (∀ (cl : Fin 32) (k : BitVec 13) (ch : Fin 2) (s : State) r w t b, OnTile s cl k.toNat
    ch r w t → ciOp w = opMeter → b = r.block (ciBi w) → False) := by
  intro h
  refine h 5 1 0 sMet (runOf sMet) (wordOf opMeter 0) 3 _ ?_ ?_ rfl
  all_goals first
    | decide +kernel | exact onTile_of (by decide +kernel)

/-- A port with 10 ms of frames, as a master or a slave. -/
def ported (p mode : Nat) : State :=
  let s := ((((booted.put (TDM.CFG p) F.TDM_CFG_DEPTH 10).put (TDM.CFG p) F.TDM_CFG_IDLEV 0xD5).put (TDM.CFG p) F.TDM_CFG_MODE mode).put
    (TDM.CFG p) F.TDM_CFG_E1 0)
  let s := ((s.put (TDM.IBASE p) F.TDM_IBASE_OFFS 0x100).put (TDM.EBASE p) F.TDM_EBASE_OFFS 0x200).put (TDM.TBASE p) F.TDM_TBASE_OFFS 0x300
  s.setTb 2 ⟨0, 250000, 0⟩
/-- Port 30 a master that runs since 250 µs: what TDM_ENABLE leaves of it. -/
def running30 : State :=
  { State.reset.setTb 2 ⟨0, 250000, 0⟩ with
    regs := [(262144, 8#32), (18743296, 709920#32), (18743300, 3#32), (18743312, 65536#32), (18743316, 131072#32),
      (18743320, 196608#32), (18743328, 1#32)]
    tdms := [(30, { Tdm.init with lo := 335675392, hi := 335677952, enAt := 250000, ready := true, due := 500000,
                                  outAt := 375000, ref := 500000 })] }

theorem test_running30 : after (ported 30 1) (.tdmEnable 30 3) = running30 := by decide +kernel

/-- Slot 1 bound to timeslot 3 of port 30, whose one received frame stands in its buffer. -/
def lined (w : Nat) (b : Block) : State :=
  let p : Fin 48 := 30
  let c := chained 0 w b
  let s := { running30 with
    tdms := [(30, { running30.tdm p with next := 1, outNext := 99, outAt := 20000000 })], slots := c.slots, mem := c.mem }
  let s := (s.put (WS.STATUS 5) F.WS_STATUS_STATE 3).writeLe (slotDpa 5 1 + 64) 4 (30 + 3 * 2 ^ 16)
  let s := (s.write (s.ingressDpa p 0 3) [0xD5]).write (s.ingressTagDpa p 0) (tagEntry 10000000)
  tiled (reread s) w
def sIn : State := lined (wordOf opLineIn 0) blockA
def lineOf (s : State) : List (Option Byte) × List Nat :=
  (s.lineFrames 30 3 ((runOf s).boundary * 1000 - 2000) (8 * ctxPeriod (runOf s).ctx)).getD ([], [])
theorem witness_line_instructions_1 : ¬ (∀ (cl : Fin 32) (k : BitVec 13) (ch : Fin 2) (s : State) r w t j c os tags, OnTile s cl
    k.toNat ch r w t → ciOp w = opLineIn → lineReads cl k.toNat s r w = false → s.binder cl k.toNat r w 0 = some (j, c) →
    s.lineFrames (ctxPort c) (ctxTslot c) (r.boundary * 1000 - 2000) (8 * ctxPeriod r.ctx) = some (os, tags) → False) := by
  intro h
  refine h 5 1 0 sIn (runOf sIn) (wordOf opLineIn 0) 3 1 (sIn.ctx 5 1) (lineOf sIn).1 (lineOf sIn).2 ?_ ?_ ?_ ?_ ?_
  all_goals first
    | decide +kernel | exact onTile_of (by decide +kernel)

def sOut (b : Block) : State := lined (wordOf opLineOut 0) b
theorem witness_line_instructions_2 : ¬ (∀ (cl : Fin 32) (k : BitVec 13) (ch : Fin 2) (s : State) r w t j c, OnTile s cl k.toNat
    ch r w t → ciOp w = opLineOut → bindingPoisoned cl k.toNat 0 s r w = false → s.binder cl k.toNat r w 0 = some (j, c) →
    (r.block (ciBi w)).missing = false → False) := by
  intro h
  refine h 5 1 0 (sOut blockA) (runOf (sOut blockA)) (wordOf opLineOut 0) 3 1 ((sOut blockA).ctx 5 1) ?_ ?_ ?_ ?_ ?_
  all_goals first
    | decide +kernel | exact onTile_of (by decide +kernel)

theorem witness_line_instructions_3 : ¬ (∀ (cl : Fin 32) (k : BitVec 13) (ch : Fin 2) (s : State) r w t j c, OnTile s cl k.toNat
    ch r w t → ciOp w = opLineOut → bindingPoisoned cl k.toNat 0 s r w = false → s.binder cl k.toNat r w 0 = some (j, c) →
    (r.block (ciBi w)).missing = true → False) := by
  intro h
  refine h 5 1 0 (sOut Block.empty) (runOf (sOut Block.empty)) (wordOf opLineOut 0) 3 1 ((sOut Block.empty).ctx 5 1) ?_ ?_ ?_ ?_
    ?_
  all_goals first
    | decide +kernel | exact onTile_of (by decide +kernel)

def wMix : Nat := wordOf opMix (0x0c00 + 2 * 2 ^ 43)
def sMix0 : State := peered (chained 0 wMix blockA)
def mixArea : Nat := ctxArea (sMix0.ctx 5 2) 0
def sMix : State := tiled (sMix0.setArea mixArea (.buffers [[], [], [⟨3, blockA, []⟩], [], [], [⟨7, blockA, []⟩], [], []])) wMix
theorem witness_mix_and_handoff_1 : ¬ (∀ (cl : Fin 32) (k : BitVec 13) (ch : Fin 2) (s : State) r w t a (j : Nat) tag b, OnTile
    s cl k.toNat ch r w t → ciOp w = opMix → s.mixerOf cl r = some a → j < 8 → j ≠ bits w 45 43 → (s.inputsAt a).length = 8 →
    (s.inputsAt a).getD j [] = [⟨tag, b, []⟩] → tag < r.boundary → (∀ i, i < 8 → i ≠ j → i ≠ bits w 45 43 → (s.inputsAt a).getD
    i [] = []) → False) := by
  intro h
  refine h 5 1 0 sMix (runOf sMix) wMix 3 mixArea 5 7 blockA ?_ ?_ ?_ ?_ ?_ ?_ ?_ ?_ ?_
  all_goals first
    | decide +kernel | exact onTile_of (by decide +kernel)

def wFork : Nat := wordOf opFork (2 * 2 ^ 41)
def sFork : State := peered (chained 0 wFork blockA)
theorem witness_mix_and_handoff_2 : ¬ (∀ (cl : Fin 32) (k : BitVec 13) (ch : Fin 2) (s : State) r w a, NextIs s cl k.toNat ch r
    w → ciOp w = opFork → bits w 45 44 = 0 → s.mixerOf cl r = some a → False) := by
  intro h
  refine h 5 1 0 sFork (runOf sFork) wFork ((sFork.mixerOf 5 (runOf sFork)).getD 0) ?_ ?_ ?_ ?_
  all_goals first
    | decide +kernel | exact canon_of (by decide +kernel) | exact quiet_of (by decide +kernel)
    | constructor <;> first
        | decide +kernel | exact canon_of (by decide +kernel) | exact quiet_of (by decide +kernel)

def wSend : Nat := wordOf opHandoff (2 * 2 ^ 16)
def sSend : State := peered (chained 0 wSend blockA)
def peerOf (s : State) : Nat × Nat × List Byte := (s.homeCtx (ctxPeer (runOf s).ctx)).getD (0, 0, [])
theorem witness_mix_and_handoff_3 : ¬ (∀ (cl : Fin 32) (k : BitVec 13) (ch : Fin 2) (s : State) r w m j c, NextIs s cl k.toNat
    ch r w → ciOp w = opHandoff → bit w 45 = false → s.homeCtx (ctxPeer r.ctx) = some (m, j, c) → (s.divided = false ∨ dieOf m =
    dieOf cl) → False) := by
  intro h
  refine h 5 1 0 sSend (runOf sSend) wSend (peerOf sSend).1 (peerOf sSend).2.1 (peerOf sSend).2.2 ?_ ?_ ?_ ?_ ?_
  all_goals first
    | decide +kernel | exact canon_of (by decide +kernel) | exact quiet_of (by decide +kernel)
    | constructor <;> first
        | decide +kernel | exact canon_of (by decide +kernel) | exact quiet_of (by decide +kernel)

def wRecv : Nat := wordOf opHandoff (2 ^ 45 + 2 * 2 ^ 16)
def sRecv : State := chained 0 wRecv blockA
def sRecv1 : State := sRecv.setArea (ctxArea (runOf sRecv).ctx 2) (.buffers [[⟨7, blockA, []⟩], [], [], [], [], [], [], []])
theorem witness_mix_and_handoff_4 : ¬ (∀ (cl : Fin 32) (k : BitVec 13) (ch : Fin 2) (s : State) r w a tag b, NextIs s cl k.toNat
    ch r w → ciOp w = opHandoff → bit w 45 = true → a = ctxArea r.ctx (ciSoff w) → (s.inputsAt a).length = 8 → (s.inputsAt
    a).getD 0 [] = [⟨tag, b, []⟩] → tag < r.boundary → b.missing = false → False) := by
  intro h
  refine h 5 1 0 sRecv1 (runOf sRecv1) wRecv _ 7 blockA ?_ ?_ ?_ rfl ?_ ?_ ?_ ?_
  all_goals first
    | decide +kernel | exact canon_of (by decide +kernel) | exact quiet_of (by decide +kernel)
    | constructor <;> first
        | decide +kernel | exact canon_of (by decide +kernel) | exact quiet_of (by decide +kernel)

theorem witness_mix_and_handoff_5 : ¬ (∀ (cl : Fin 32) (k : BitVec 13) (ch : Fin 2) (s : State) r w, NextIs s cl k.toNat ch r w
    → ciOp w = opHandoff → bit w 45 = true → (s.inputsAt (ctxArea r.ctx (ciSoff w))).getD 0 [] = [] → False) := by
  intro h
  refine h 5 1 0 sRecv (runOf sRecv) wRecv ?_ ?_ ?_ ?_
  all_goals first
    | decide +kernel | exact canon_of (by decide +kernel) | exact quiet_of (by decide +kernel)
    | constructor <;> first
        | decide +kernel | exact canon_of (by decide +kernel) | exact quiet_of (by decide +kernel)

theorem witness_calls_and_passing_1 : ¬ (∀ (cl : Fin 32) (k : BitVec 13) (ch : Fin 2) (s : State) r w, NextIs s cl k.toNat ch r
    w → ciOp w = opCall → s.mustWait cl (s.callItem cl k.toNat ch r w) = false → False) := by
  intro h
  refine h 5 1 0 (chained 2 (wordOf opCall 0) blockA) (runOf (chained 2 (wordOf opCall 0) blockA)) (wordOf opCall 0) ?_ ?_ ?_
  all_goals first
    | decide +kernel | exact canon_of (by decide +kernel) | exact quiet_of (by decide +kernel)
    | constructor <;> first
        | decide +kernel | exact canon_of (by decide +kernel) | exact quiet_of (by decide +kernel)

def sShed : State := sGain.setRun 5 1 0 (some { runOf sGain with shed := [2] })
theorem witness_calls_and_passing_2 : ¬ (∀ (cl : Fin 32) (k : BitVec 13) (ch : Fin 2) (s : State) r w, Canon s → s.run cl
    k.toNat ch = some r → r.closed = false → r.wait = .none → s.sequences cl = true → r.shed.contains r.idx = true → s.runInstr
    r ch = w → ciOp w = opGain → ciTrace w = false → False) := by
  intro h
  refine h 5 1 0 sShed (runOf sShed) wGain ?_ ?_ ?_ ?_ ?_ ?_ ?_ ?_ ?_
  all_goals first
    | decide +kernel | exact canon_of (by decide +kernel)

def sGone : State := tiled (chained 2 (wordOf opLineIn 0) blockA) (wordOf opLineIn 0)
theorem witness_calls_and_passing_3 : ¬ (∀ (cl : Fin 32) (k : BitVec 13) (ch : Fin 2) (s : State) r w t, OnTile s cl k.toNat ch
    r w t → ciOp w = opLineIn → s.binder cl k.toNat r w 0 = none → False) := by
  intro h
  refine h 5 1 0 sGone (runOf sGone) (wordOf opLineIn 0) 3 ?_ ?_ ?_
  all_goals first
    | decide +kernel | exact onTile_of (by decide +kernel)


/-! ## TDM highways and codecs -/

/-- MasterRuns by evaluation. -/
def masterOk (s : State) (p : Fin 48) : Bool :=
  canonOk s && !s.probes.any (fun e => e.2.armed && e.2.src == 5) && s.tdmOn p && (s.tdm p).ready && s.tdmMaster p && !s.tdmE1 p &&
    !s.tdmLof p && decide (s.poison = []) &&
    decide (s.rf (TDM.IBASE p) F.TDM_IBASE_OFFS * 256 + s.tdmN p * s.tdmFR p ≤ 0x4000000 ∧
      s.rf (TDM.EBASE p) F.TDM_EBASE_OFFS * 256 + s.tdmN p * s.tdmFR p ≤ 0x4000000 ∧
      s.rf (TDM.TBASE p) F.TDM_TBASE_OFFS * 256 + 16 * s.tdmFR p ≤ 0x4000000) &&
    [s.rf (TDM.IBASE p) F.TDM_IBASE_OFFS, s.rf (TDM.EBASE p) F.TDM_EBASE_OFFS].all (fun b =>
      decide (b * 256 + s.tdmN p * s.tdmFR p ≤ s.rf (TDM.TBASE p) F.TDM_TBASE_OFFS * 256 ∨
        s.rf (TDM.TBASE p) F.TDM_TBASE_OFFS * 256 + 16 * s.tdmFR p ≤ b * 256))

theorem master_of {s : State} {p : Fin 48} (h : masterOk s p = true) : MasterRuns s p := by
  simp only [masterOk, Bool.and_eq_true, Bool.not_eq_true', decide_eq_true_eq] at h
  obtain ⟨⟨⟨⟨⟨⟨⟨⟨⟨h1, h2⟩, h3⟩, h4⟩, h5⟩, h6⟩, h7⟩, h8⟩, h9⟩, h10⟩ := h
  refine ⟨canon_of h1, h2, h3, h4, h5, h6, h7, h8, h9, fun b hb => ?_⟩
  have := List.all_eq_true.mp h10 b (by simpa using hb)
  simpa using this

def at30 : State := running30.setTb 2 ⟨0, BitVec.ofNat 32 (running30.tdm 30).due, 0⟩
theorem witness_tdm_ports_start_1 : ¬ (∀ (p : Fin 48) (val : BitVec 32) (s : State), Canon s → Opens s (TDM.CTRL p) → bit
    val.toNat 0 = true → bit val.toNat 4 = false → s.rb (TDM.CTRL p) F.TDM_CTRL_EN = false → False) := by
  intro h
  refine h 30 5 (ported 30 1) ?_ ?_ ?_ ?_ ?_
  all_goals first
    | decide +kernel | exact opens_of (by decide +kernel) | exact canon_of (by decide +kernel)

theorem witness_tdm_ports_start_2 : ¬ (∀ (p : Fin 48) (val : BitVec 32) (s : State), Canon s → Opens s (TDM.CTRL p) → bit
    val.toNat 0 = false → bit val.toNat 4 = false → s.rb (TDM.CTRL p) F.TDM_CTRL_EN = true → False) := by
  intro h
  refine h 30 2 running30 ?_ ?_ ?_ ?_ ?_
  all_goals first
    | decide +kernel | exact opens_of (by decide +kernel) | exact canon_of (by decide +kernel)

theorem witness_tdm_ports_start_3 : ¬ (∀ (p : Fin 48) (s : State), Canon s → Opens s (TDM.CTRL p) → s.ready (TDM.CALSTATUS p) =
    true → s.rb (TDM.CTRL p) F.TDM_CTRL_EN = false → False) := by
  intro h
  refine h 30 (ported 30 1) ?_ ?_ ?_ ?_
  all_goals first
    | decide +kernel | exact opens_of (by decide +kernel) | exact canon_of (by decide +kernel)

def calibrating30 : State := after (ported 30 1) (.tdmCalibrate 30)
theorem witness_tdm_ports_start_4 : ¬ (∀ (p : Fin 48) (b : BitVec 8) (s : State), Canon s → s.ready (TDM.CALSTATUS p) = false →
    False) := by
  intro h
  refine h 30 7 calibrating30 ?_ ?_
  all_goals first
    | decide +kernel | exact canon_of (by decide +kernel)

theorem witness_tdm_ports_start_5 : ¬ (∀ (p : Fin 48) (s : State), Canon s → s.ready (TDM.CALSTATUS p) = false → False) := by
  intro h
  refine h 30 calibrating30 ?_ ?_
  all_goals first
    | decide +kernel | exact canon_of (by decide +kernel)

theorem witness_ingress_frames_1 : ¬ (∀ (p : Fin 48) (os : List Byte) (s : State) (f : Nat), MasterRuns s p → f = (s.tdm p).next
    → (s.tdm p).due ≤ s.tb2nsOn (p / 24) → (s.tdm p).eg.all (fun e => e.2.1 != 1) = true → os.length = s.tdmN p → s.probes = []
    → s.skew = none → False) := by
  intro h
  refine h 30 ((List.range (at30.tdmN 30)).map (fun i => BitVec.ofNat 8 (i + 1))) at30 _ ?_ rfl ?_ ?_ ?_ ?_ ?_
  all_goals first
    | decide +kernel | exact master_of (by decide +kernel)

theorem witness_egress_frames_1 : ¬ (∀ (p : Fin 48) (s : State) f, MasterRuns s p → f = (s.tdm p).outNext → (s.tdm p).outAt ≤
    s.tb2nsOn (p / 24) + 2000 → s.rf (TDM.CTRL p) F.TDM_CTRL_LOOP = 0 → (∀ h, h < 64 → s.rb (TDM.HCFG p h) F.TDM_HCFG_EN =
    false) → s.probes = [] → False) := by
  intro h
  refine h 30 (at30.write (at30.egressDpa 30 0 3) [0x77]) _ ?_ rfl ?_ ?_ ?_ ?_
  all_goals first
    | decide +kernel | exact master_of (by decide +kernel)

def slave30 : State := after (ported 30 0) (.tdmEnable 30 1)
def slaveAt (n : Nat) : State := (after slave30 (.fsReceived 30)).setTb 2 ⟨0, BitVec.ofNat 32 n, 0⟩
theorem witness_frame_sync_1 : ¬ (∀ (p : Fin 48) (s : State), Canon s → s.slaveRuns p = true → (s.tdm p).lastFs = none → False)
    := by
  intro h
  refine h 30 slave30 ?_ ?_ ?_
  all_goals first
    | decide +kernel | exact canon_of (by decide +kernel)

theorem witness_frame_sync_2 : ¬ (∀ (p : Fin 48) (s : State) l, Canon s → s.slaveRuns p = true → (s.tdm p).lastFs = some l →
    s.tdmLof p = false → 16 * s.tdmN p * ((s.tb2nsOn (p / 24) : Int) - (s.tdm p).pred).natAbs ≤ 125000 → False) := by
  intro h
  refine h 30 (slaveAt 375100) 250000 ?_ ?_ ?_ ?_ ?_
  all_goals first
    | decide +kernel | exact canon_of (by decide +kernel)

theorem witness_frame_sync_3 : ¬ (∀ (i : Instr) (p : Fin 48) (s : State) l, Canon s → Quiet s → s.slaveRuns p = true → (s.tdm
    p).lastFs = some l → s.tdmLof p = false → ((i = .fsReceived p ∧ 125000 < 16 * s.tdmN p * ((s.tb2nsOn (p / 24) : Int) -
    (s.tdm p).pred).natAbs) ∨ (i = .fsMissing p ∧ 125000 < 16 * s.tdmN p * (s.tb2nsOn (p / 24) - (s.tdm p).pred))) → False) :=
    by
  intro h
  refine h (.fsReceived 30) 30 (slaveAt 376000) 250000 ?_ ?_ ?_ ?_ ?_ (.inl ⟨rfl, by decide +kernel⟩)
  all_goals first
    | decide +kernel | exact canon_of (by decide +kernel) | exact quiet_of (by decide +kernel)

theorem witness_frame_sync_3b : ¬ (∀ (i : Instr) (p : Fin 48) (s : State) l, Canon s → Quiet s → s.slaveRuns p = true → (s.tdm
    p).lastFs = some l → s.tdmLof p = false → ((i = .fsReceived p ∧ 125000 < 16 * s.tdmN p * ((s.tb2nsOn (p / 24) : Int) -
    (s.tdm p).pred).natAbs) ∨ (i = .fsMissing p ∧ 125000 < 16 * s.tdmN p * (s.tb2nsOn (p / 24) - (s.tdm p).pred))) → False) :=
    by
  intro h
  refine h (.fsMissing 30) 30 (slaveAt 376000) 250000 ?_ ?_ ?_ ?_ ?_ (.inr ⟨rfl, by decide +kernel⟩)
  all_goals first
    | decide +kernel | exact canon_of (by decide +kernel) | exact quiet_of (by decide +kernel)

def vHdlc : BitVec 32 := BitVec.ofNat 32 (2 ^ 31 + 2 * 2 ^ 10 + 5 * 2 ^ 16)
/-- Its HDLC channel 9 enabled on timeslots 5 and 6, both of its casks cask 5 of die 0. -/
def sHdlc : State :=
  { running30 with
    regs := [(262144, 8#32), (1573184, 2415919104#32), (18743296, 709920#32), (18743300, 3#32), (18743312, 65536#32),
      (18743316, 131072#32), (18743320, 196608#32), (18743328, 1#32), (18747536, 2147813376#32), (18747540, 5#32),
      (18747544, 5#32), (18747548, 1#32)] }
def data17 : List Byte := (List.range 17).map (fun i => BitVec.ofNat 8 (i + 3))

theorem heads_of {s : State} {x : Nat} {ps : List Nat} {p : List CWord} {rest : List (List Nat)} (h : (s.caskOn x &&
    decide (s.caskCfg x F.CSK_CFG_LANE = 0) && decide ((s.cask x).member = none) && decide (s.members x = [x]) &&
    decide ((s.cask x).ridx = 0) && decide ((s.cask x).pkts = ps :: rest) && decide (p = ps.map (s.storedWord x)) &&
    decide (1 ≤ p.length ∧ p.length ≤ 64)) = true) : Heads s x p rest := by
  simp only [Bool.and_eq_true, decide_eq_true_eq] at h
  obtain ⟨⟨⟨⟨⟨⟨⟨h1, h2⟩, h3⟩, h4⟩, h5⟩, h6⟩, h7⟩, h8⟩ := h
  exact ⟨h1, h2, h3, h4, h5, ⟨ps, h6, h7⟩, h8⟩

/-- A packet of 17 bytes to send waits in cask 5. -/
def sHdlcTx : State :=
  (((sHdlc.setCask 5 { Cask.init with pkts := [[0, 1, 2]] }).storeWord 5 0 ⟨17, false⟩).storeWord 5 1
    ⟨0x1211100f0e0d0c0b0a09080706050403, false⟩).storeWord 5 2 ⟨0x13, false⟩
def pktTx : List CWord := [⟨17, false⟩, ⟨0x1211100f0e0d0c0b0a09080706050403, false⟩, ⟨0x13, false⟩]
def bodyTx : List Byte := (wordBytes pktTx.tail).take 17 ++ hdlcFcs (sHdlcTx.rb (TDM.HCFG 30 9) F.TDM_HCFG_FCS32) ((wordBytes pktTx.tail).take 17)
theorem witness_hdlc_channels_1 : ¬ (∀ (p : Fin 48) (h : Fin 64) (val : BitVec 32) (s : State), Canon s → Opens s (TDM.HCFG p h)
    → bit val.toNat 31 = true → s.rb (TDM.HCFG p h) F.TDM_HCFG_EN = false → 1 ≤ bits val.toNat 15 10 → bits val.toNat 15 10 ≤ 32
    → (bits val.toNat 15 10 = 1 → val.toNat % 256 ≠ 0) → bits val.toNat 25 16 + bits val.toNat 15 10 ≤ s.tdmN p → s.tdmE1 p =
    false → s.hdlcCount (p / 24) < 1024 → False) := by
  intro h
  refine h 30 9 vHdlc running30 ?_ ?_ ?_ ?_ ?_ ?_ ?_ ?_ ?_ ?_
  all_goals first
    | decide +kernel | exact opens_of (by decide +kernel) | exact canon_of (by decide +kernel)

theorem witness_hdlc_channels_2 : ¬ (∀ (p : Fin 48) (h : Fin 64) (data : List Byte) (s : State) (x : Nat), Canon s → Quiet s →
    s.probes = [] → s.tdmOn p = true → s.rb (TDM.HCFG p h) F.TDM_HCFG_EN = true → s.tdmLof p = false → 2 ≤ data.length →
    data.length ≤ 1008 → x = s.rf (TDM.HRXC p h) F.TDM_HRXC_CASK → Takes s x (.tdm p) (1 + (data.length + 15) / 16) → False) :=
    by
  intro h
  refine h 30 9 data17 sHdlc 5 ?_ ?_ ?_ ?_ ?_ ?_ ?_ ?_ ?_ ?_
  all_goals first
    | decide +kernel | exact canon_of (by decide +kernel) | exact quiet_of (by decide +kernel)
    | constructor <;> first
        | decide +kernel | exact canon_of (by decide +kernel) | exact quiet_of (by decide +kernel)

theorem witness_hdlc_channels_3 : ¬ (∀ (p : Fin 48) (h : Fin 64) (s : State) x w ws rest len body, Canon s → Quiet s → s.tdmOn p
    = true → s.rb (TDM.HCFG p h) F.TDM_HCFG_EN = true → x = s.rf (TDM.HTXC p h) F.TDM_HTXC_CASK → Heads s x (w :: ws) rest → (w
    :: ws).any (fun v => v.poison) = false → len = w.val.toNat % 65536 → 1 ≤ len → len ≤ 1008 → len ≤ 16 * ws.length → body =
    (wordBytes ws).take len ++ (if bit w.val.toNat 20 then [] else hdlcFcs (s.rb (TDM.HCFG p h) F.TDM_HCFG_FCS32) ((wordBytes
    ws).take len)) → False) := by
  intro h
  refine h 30 9 sHdlcTx 5 ⟨17, false⟩ pktTx.tail [] 17 bodyTx ?_ ?_ ?_ ?_ ?_ (heads_of (ps := [0, 1, 2]) (by decide +kernel)) ?_
    ?_ ?_ ?_ ?_ ?_
  all_goals first
    | decide +kernel | exact canon_of (by decide +kernel) | exact quiet_of (by decide +kernel)

theorem noCode_of {r : Run} {e : Nat × Nat} (h : (decide (e.1 + e.2 ≤ ctxProg r.ctx ∨ ctxProg r.ctx + 512 ≤ e.1) &&
    !(match placeOf e.1 with | .tile _ _ => true | _ => false)) = true) : NoCode r e := by
  simp only [Bool.and_eq_true, decide_eq_true_eq, Bool.not_eq_true'] at h
  exact ⟨h.1, fun n t g => by rw [g] at h; exact absurd h.2 (by simp)⟩

def wDec (op lo : Nat) : Nat := wordOf op (2 ^ 40 + 2 * 2 ^ 16 + lo)
def frame711 : List Byte := (List.range 80).map (fun i => BitVec.ofNat 8 (i * 3))
def block711 : Block := { Block.empty with missing := false, codec := 1, frames := [mkRec 0 false false false 640 frame711] }
def coded (op lo : Nat) (b : Block) : State := tiled (chained 2 (wDec op lo) b) (wDec op lo)
def decSt (op lo khz : Nat) (b : Block) : CodecSt :=
  (coded op lo b).codecAt (ctxArea (runOf (coded op lo b)).ctx (ciSoff (wDec op lo))) (codecKey op (ciCodec (wDec op lo)) khz)
theorem witness_decoding_1 : ¬ (∀ (cl : Fin 32) (k : BitVec 13) (ch : Fin 2) (s : State) r w t st, OnTile s cl k.toNat ch r w t
    → ciOp w = opDec → AreaApart r w → (bit w 0 = true ∨ r.plc.contains r.idx = true) → st = s.codecAt (ctxArea r.ctx (ciSoff
    w)) (codecKey opDec (ciCodec w) (decKhz (ciCodec w) (ciB w))) → (∀ e ∈ st.held, e.2 ≠ .missing) → False) := by
  intro h
  refine h 5 1 0 (coded opDec 1 blockA) (runOf (coded opDec 1 blockA)) (wDec opDec 1) 3 (decSt opDec 1 (decKhz (ciCodec (wDec
    opDec 1)) (ciB (wDec opDec 1))) blockA) ?_ ?_ ?_ ?_ ?_ ?_
  all_goals first
    | decide +kernel | exact onTile_of (by decide +kernel) | exact noCode_of (by decide +kernel)

theorem witness_decoding_2 : ¬ (∀ (cl : Fin 32) (k : BitVec 13) (ch : Fin 2) (s : State) r w t b (law : Nat) data st, OnTile s
    cl k.toNat ch r w t → ciOp w = opDec → AreaApart r w → r.plc.contains r.idx = false → b = r.block (ciBi w) → b.missing =
    false → b.owed = none → ((ciCodec w = 1 ∧ law = 1) ∨ (ciCodec w = 2 ∧ law = 0)) → b.codec.toNat = ciCodec w → b.frames =
    [mkRec 0 false false false (8 * data.length) data] → data.length = 8 * ctxPeriod r.ctx → st = s.codecAt (ctxArea r.ctx
    (ciSoff w)) (codecKey opDec (ciCodec w) 8) → st.held = [] → st.lost = 0 → False) := by
  intro h
  refine h 5 1 0 (coded opDec 0 block711) (runOf (coded opDec 0 block711)) (wDec opDec 0) 3 block711 1 frame711 (decSt opDec 0 8
    block711) ?_ ?_ ?_ ?_ ?_ ?_ ?_ ?_ ?_ ?_ ?_ ?_ ?_ ?_
  all_goals first
    | decide +kernel | exact onTile_of (by decide +kernel) | exact noCode_of (by decide +kernel)

theorem witness_decoding_3 : ¬ (∀ (cl : Fin 32) (k : BitVec 13) (ch : Fin 2) (s : State) r w t b, OnTile s cl k.toNat ch r w t →
    ciOp w = opPlc → AreaApart r w → b = r.block (ciBi w) → False) := by
  intro h
  refine h 5 1 0 (coded opPlc 0 blockA) (runOf (coded opPlc 0 blockA)) (wDec opPlc 0) 3 blockA ?_ ?_ ?_ ?_
  all_goals first
    | decide +kernel | exact onTile_of (by decide +kernel) | exact noCode_of (by decide +kernel)

theorem witness_encoding_1 : ¬ (∀ (cl : Fin 32) (k : BitVec 13) (ch : Fin 2) (s : State) r w t, OnTile s cl k.toNat ch r w t →
    ciOp w = opEnc → AreaApart r w → False) := by
  intro h
  refine h 5 1 0 (coded opEnc 0 blockA) (runOf (coded opEnc 0 blockA)) (wDec opEnc 0) 3 ?_ ?_ ?_
  all_goals first
    | decide +kernel | exact onTile_of (by decide +kernel) | exact noCode_of (by decide +kernel)

theorem witness_encoding_2 : ¬ (∀ (cl : Fin 32) (k : BitVec 13) (ch : Fin 2) (s : State) r w t b data, OnTile s cl k.toNat ch r
    w t → ciOp w = opEnc → AreaApart r w → b = r.block (ciBi w) → b.missing = false → b.samples.length ≤ 1000 → (ciCodec w = 1 ∨
    ciCodec w = 2 ∨ ciCodec w = 10) → data = plainCoded (ciCodec w) b.samples → False) := by
  intro h
  refine h 5 1 0 (coded opEnc 0 blockA) (runOf (coded opEnc 0 blockA)) (wDec opEnc 0) 3 blockA (plainCoded 1 blockA.samples) ?_ ?_
    ?_ ?_ ?_ ?_ ?_ ?_
  all_goals first
    | decide +kernel | exact onTile_of (by decide +kernel) | exact noCode_of (by decide +kernel)


/-! ## Playout, packets, the classifier and the accelerators -/

theorem clsFree_of {s : State} (h : (canonOk s && !s.probes.any (fun e => e.2.armed && e.2.src == 5) &&
    decide (s.reach 0 CLS.CMD false = .ok) && s.ready CLS.CMD_STATUS && imageOk s.entImage) = true) : ClsFree s := by
  simp only [Bool.and_eq_true, Bool.not_eq_true', decide_eq_true_eq] at h
  obtain ⟨⟨⟨⟨h1, h2⟩, h3⟩, h4⟩, h5⟩ := h
  exact ⟨canon_of h1, h2, h3, h4, h5⟩

def apartOk (e f : Nat × Nat) : Bool := decide (e.1 + e.2 ≤ f.1 ∨ f.1 + f.2 ≤ e.1)

theorem apart_of {e f : Nat × Nat} (h : apartOk e f = true) : Apart e f := by simpa [apartOk, Apart] using h

theorem sendsApart_of {s : State} {n j : Nat} {r : Run} {c : List Byte} {tid : BitVec 18} {x : Nat}
    (h : ([recordAt s tid, (ctxArea c (ctxTmplOff c), 256), (slotDpa n j, 256)].all
      (fun e => apartOk e (ctxProg r.ctx, 512) && apartOk e (storageOf s x)) &&
      apartOk (ctxProg r.ctx, 512) (storageOf s x) && !s.offAt (slotDpa n j)) = true) : SendsApart s n j r c tid x := by
  simp only [List.all_cons, List.all_nil, Bool.and_eq_true, Bool.not_eq_true', Bool.and_true] at h
  obtain ⟨⟨⟨⟨a1, a2⟩, ⟨a3, a4⟩, a5, a6⟩, a7⟩, a8⟩ := h
  exact ⟨⟨apart_of a1, apart_of a2⟩, ⟨apart_of a3, apart_of a4⟩, ⟨apart_of a5, apart_of a6⟩, apart_of a7, a8⟩

theorem endsApart_of {s : State} {cl k : Nat} {r : Run} {a n : Nat} (h : [(a, n), (slotDpa cl k, 256),
    storageOf s (ctxEvCask r.ctx)].all (fun e => apartOk (ctxProg r.ctx, 512) e) = true) : EndsApart s cl k r a n := by
  simp only [List.all_cons, List.all_nil, Bool.and_eq_true, Bool.and_true] at h
  exact ⟨apart_of h.1, apart_of h.2.1, apart_of h.2.2⟩

theorem faxApart_of {s : State} {r : Run} {w : Nat} {c : List Byte} {tid : BitVec 18} (h : ([(ctxArea r.ctx (ciSoff w), 2048),
    recordAt s tid, storageOf s (ctxTxCask c)].all (fun e => apartOk (ctxProg r.ctx, 512) e) && (s.programWords r.ctx).all
      (fun v => !(ciOp v == opVdeRx || ciOp v == opVdeTx) || apartOk (ctxProg r.ctx, 512) (ctxArea r.ctx (ciSoff v), 2048))) = true) :
    FaxApart s r w c tid := by
  simp only [List.all_cons, List.all_nil, Bool.and_eq_true, Bool.and_true] at h
  obtain ⟨⟨h1, h2, h3⟩, h4⟩ := h
  exact ⟨apart_of h1, fun v hv o => apart_of (by have := List.all_eq_true.mp h4 v hv; rcases o with o | o <;> simpa [o] using this),
    apart_of h2, apart_of h3⟩

theorem windowsApart_of {v : VatSlot} (h : decide (∀ i j : Fin 4, i ≠ j → v.at_ i ≠ 0xFF →
    v.q.meets (v.at_ i).toNat (v.at_ j) = false) = true) : WindowsApart v := by
  have := of_decide_eq_true h
  exact this

def image0 : List Byte := List.replicate 64 0
def entry0 : ClsEntry := ⟨image0, true, 0, [], 77⟩
def sCls : State := { booted with cls := [{ entry0 with image := image0.set 4 3 }, entry0] }

theorem witness_classifier_commands_1 : ¬ (∀ (s : State), ClsFree s → s.divided = false → (∀ e ∈ s.cls, imgKey e.image ≠ imgKey
    s.entImage) → s.cls.length < 262144 → (∃ w, w < 4 ∧ ∀ e ∈ s.cls, e.index ≠ wayPlace w (imgKey s.entImage)) → False) := by
  intro h
  refine h booted ?_ ?_ ?_ ?_ ⟨3, by decide, fun _ h => nomatch h⟩
  all_goals first
    | decide +kernel | exact clsFree_of (by decide +kernel)

theorem witness_classifier_commands_2 : ¬ (∀ (s : State) l e, ClsFree s → s.divided = false → s.cls = l ++ [e] → e.is s.entImage
    = true → e.active = true → (∀ f ∈ l, f.is s.entImage = false) → False) := by
  intro h
  refine h sCls [{ entry0 with image := image0.set 4 3 }] entry0 ?_ ?_ ?_ ?_ ?_ ?_
  all_goals first
    | decide +kernel | exact clsFree_of (by decide +kernel)

theorem witness_classifier_commands_3 : ¬ (∀ (s : State) l e, ClsFree s → s.cls = l ++ [e] → e.is s.entImage = true → (∀ f ∈ l,
    f.is s.entImage = false) → e.index ≤ 0x7FFFF → False) := by
  intro h
  refine h sCls [{ entry0 with image := image0.set 4 3 }] entry0 ?_ ?_ ?_ ?_ ?_
  all_goals first
    | decide +kernel | exact clsFree_of (by decide +kernel)

/-- An RTP packet of a source 7, and the state in which it has arrived for TID 5. -/
def arrival5 : Arrival :=
  ⟨5, image0, 1000000, [0x80, 0] ++ beBytes 2 65535 ++ beBytes 4 100 ++ beBytes 4 7 ++ [1, 2, 3], false, 0, 0, 60⟩
def sPly0 : State := (booted.put (PLY.POOL_CFG 0) F.PLY_POOL_CFG_CELLS 500).put (PLY.POOL_CFG 1) F.PLY_POOL_CFG_CELLS 0xfffff
def sPly : State :=
  { (((((sPly0.put PLY.CFG F.PLY_CFG_EN 1).put (PLY.FREE 0) F.PLY_FREE_FREE 500).put PLY.TIDMAX F.PLY_TIDMAX_TIDMAX 1000).put PLY.RECBASE
      F.PLY_RECBASE_RECBASE 0x10100).setReg (PLY.POOL_BASE 0) 0x101000) with plyIn := [arrival5, arrival5] }
def cell5 : Machine.Stored := ⟨2 ^ 32 + 65535, 100, 1000000, 3, 0, 0, 0, false⟩
def stream5 : Play := { Play.init with st := 1, ssrc := 7, hseq := 2 ^ 32 + 65535, ring := [cell5] }
theorem witness_packet_arrivals_1 : ¬ (∀ (s : State), Canon s → Opens s PLY.CFG → s.rb PLY.CFG F.PLY_CFG_EN = false → s.cellUse
    = [] → False) := by
  intro h
  refine h sPly0 ?_ ?_ ?_ ?_
  all_goals first
    | decide +kernel | exact opens_of (by decide +kernel) | exact canon_of (by decide +kernel)

theorem witness_packet_arrivals_2 : ¬ (∀ (d : Fin 2) s a rest body (c : Machine.Stored), Arrives s d a rest body → body.length ≤
    s.cellSize d → s.rf (PLY.FREE d) F.PLY_FREE_FREE ≠ 0 → (s.play a.tid).st = 0 → (∀ b, (s.play a.tid).relEnd = some b → b *
    1000 ≤ a.tag + (s.play a.tid).tgt * 1000000) → c = ⟨2 ^ 32 + rtpSeq a.payload, rtpTs a.payload, a.tag, body.length,
    BitVec.ofNat 32 (imgW a.image 12), d, s.nextCell d, false⟩ → False) := by
  intro h
  refine h 0 sPly arrival5 [arrival5] [1, 2, 3] cell5 ?_ ?_ ?_ ?_ (fun _ h => nomatch h) ?_
  all_goals first
    | decide +kernel | exact canon_of (by decide +kernel) | exact quiet_of (by decide +kernel)
    | constructor <;> first
        | decide +kernel | exact canon_of (by decide +kernel) | exact quiet_of (by decide +kernel)

theorem witness_packet_arrivals_3 : ¬ (∀ (d : Fin 2) (s : State) a rest body x, Arrives s d a rest body → x = s.play a.tid →
    x.st = 1 → x.cand = none → x.ssrc = rtpSsrc a.payload → x.hseq % 65536 = rtpSeq a.payload → x.ring.any (fun q => q.seq ==
    x.hseq) = true → False) := by
  intro h
  refine h 0 ({ sPly with plays := [(5, stream5)] }) arrival5 [arrival5] [1, 2, 3] stream5 ?_ ?_ ?_ ?_ ?_ ?_ ?_
  all_goals first
    | decide +kernel | exact canon_of (by decide +kernel) | exact quiet_of (by decide +kernel)
    | constructor <;> first
        | decide +kernel | exact canon_of (by decide +kernel) | exact quiet_of (by decide +kernel)

/-- Slot 1 of cluster 5 with TID 5, whose playout has a boundary at 20 ms. -/
def play5 : Play := { stream5 with live := true, home := 5, due := some 20000, tgt := 40, lmin := some 10, adj := true }
def sRel : State :=
  let s := { (sPly.put (WS.STATUS 5) F.WS_STATUS_STATE 3).setTb 2 ⟨0, 20000000, 0⟩ with plays := [(5, play5)] }
  ((s.writeLe (slotDpa 5 1) 4 (2 ^ 30 + 2 ^ 27 + 5)).writeLe (slotDpa 5 1 + 12) 4 0x02000000).setSlot 5 1
    { Slot.init with st := .live, tid := 5, grid := (10, 0) }
theorem witness_playout_releases_1 : ¬ (∀ (cl : Fin 32) (k : BitVec 13) (s : State) x y b ch it, Canon s → Quiet s → x = s.slot
    cl k.toNat → y = s.play x.tid → x.st = .live → y.due = some b → y.live = true → y.home = cl.val → b ≤ s.tb2usOn (dieOf cl) →
    x.pending = none → s.frozen x.tid = false → y.pres = [] → Apart (recordAt s x.tid) (slotDpa cl k.toNat, 256) → startedBy
    (s.ctx cl k.toNat) 2 = [ch] → it = s.chainItem cl k.toNat ch b .playout → s.mustWait cl it = false → False) := by
  intro h
  refine h 5 1 sRel (sRel.slot 5 1) play5 20000 0 (sRel.chainItem 5 1 0 20000 .playout) ?_ ?_ ?_ ?_ ?_ ?_ ?_ ?_ ?_ ?_ ?_ ?_ ?_ ?_
    ?_ ?_
  all_goals first
    | decide +kernel | exact canon_of (by decide +kernel) | exact quiet_of (by decide +kernel)
    | exact apart_of (by decide +kernel)

theorem witness_playout_releases_2 : ¬ (∀ (tid : BitVec 18) (s : State) y l, Canon s → Quiet s → y = s.play tid → y.live = true
    → y.lmin = some l → y.adj = true → False) := by
  intro h
  refine h 5 sRel play5 10 ?_ ?_ ?_ ?_ ?_ ?_
  all_goals first
    | decide +kernel | exact canon_of (by decide +kernel) | exact quiet_of (by decide +kernel)

/-- Slot 1 of cluster 5 bound to packets by a template and cask 9, in a run whose next instruction is w. -/
def packeted (w : Nat) (b : Block) (ps : List Machine.Stored) : State :=
  let s := chained 1 w b
  let s := (s.writeLe (slotDpa 5 1 + 64) 8 (0xCAFEBABE * 2 ^ 32 + 9 + 3 * 2 ^ 16 + 2 ^ 24)).writeLe (slotDpa 5 1 + 72) 4 (2 + 40 * 2 ^ 16)
  let s := s.writeLe (slotDpa 5 1 + 128) 8 (0xfffffff0 * 2 ^ 32 + 65535)
  let tb := 0x100080 * 256 + 512
  let s := (s.write tb [0x45]).write (tb + 28) [0x80, 0, 0, 0]
  let s := (s.writeLe (tb + 128) 4 (0x200 + 14 + 0x1000 + 5 * 2 ^ 16)).writeLe (tb + 192) 4 0x44434204
  let s := (((s.put PLY.TIDMAX F.PLY_TIDMAX_TIDMAX 1000).put PLY.RECBASE F.PLY_RECBASE_RECBASE 0x10100).put (CSK.CFG 0 9) F.CSK_CFG_EN 1).put
    (CSK.CFG 0 9) F.CSK_CFG_DEPTH 4
  let s := ((s.put (CSK.BASE 0 9) F.CSK_BASE_OFFS 0x8000).setReg (PLY.POOL_BASE 0) 0x101000).write 0x10100000 [9, 9, 9, 9]
  reread { s with plays := [(77, { Play.init with live := true, home := 5, pres := ps, presAt := 20000 })] }
def wIn : Nat := wordOf opPktIn 0
def cellA : Machine.Stored := ⟨5, 6, 7, 4, 0x0100, 0, 0, false⟩
def sPin : State := tiled (packeted wIn blockA [cellA]) wIn
theorem cells_apart : ∀ p ∈ (sPin.play 77).pres, Apart (sPin.cellDpa p.die p.slot, p.len) (recordAt sPin 77) := by
  have h : (sPin.play 77).pres.all (fun p => apartOk (sPin.cellDpa p.die p.slot, p.len) (recordAt sPin 77)) = true := by decide +kernel
  exact fun p hp => apart_of (List.all_eq_true.mp h p hp)
theorem witness_packets_in_1 : ¬ (∀ (cl : Fin 32) (k : BitVec 13) (ch : Fin 2) s r w t (j : Nat) c (tid : BitVec 18) ps (bodies
    : List (List Byte)), OnTile s cl k.toNat ch r w t → ciOp w = opPktIn → bindingPoisoned cl k.toNat 1 s r w = false → s.binder
    cl k.toNat r w 1 = some (j, c) → s.yieldsPkt r ch = false → tid = (s.slot cl j).tid → NoCode r (recordAt s tid) → (∀ p ∈
    (s.play tid).pres, Apart (s.cellDpa p.die p.slot, p.len) (recordAt s tid)) → (s.play tid).presAt ≤ r.boundary → ps = (s.play
    tid).pres → ps.map s.cellPayload = bodies.map some → False) := by
  intro h
  refine h 5 1 0 sPin (runOf sPin) wIn 3 1 (sPin.ctx 5 1) 77 [cellA] [[9, 9, 9, 9]] ?_ ?_ ?_ ?_ ?_ ?_ ?_ cells_apart ?_ ?_ ?_
  all_goals first
    | decide +kernel | exact onTile_of (by decide +kernel) | exact noCode_of (by decide +kernel)

def sPin1 : State := { sPin with plays := [(77, { Play.init with live := true, home := 5, presAt := 20001 })] }
theorem witness_packets_in_2 : ¬ (∀ (cl : Fin 32) (k : BitVec 13) (ch : Fin 2) (s : State) r w t j c, OnTile s cl k.toNat ch r w
    t → ciOp w = opPktIn → bindingPoisoned cl k.toNat 1 s r w = false → s.binder cl k.toNat r w 1 = some (j, c) → s.yieldsPkt r
    ch = false → r.boundary < (s.play (s.slot cl j).tid).presAt → False) := by
  intro h
  refine h 5 1 0 sPin1 (runOf sPin1) wIn 3 1 (sPin1.ctx 5 1) ?_ ?_ ?_ ?_ ?_ ?_
  all_goals first
    | decide +kernel | exact onTile_of (by decide +kernel)

def wPo : Nat := wordOf opPktOut 0
def sPout0 : State := tiled (packeted wPo Block.empty []) wPo
def frame80 : List Byte := mkRec 0 false false false 32 [5, 5, 5, 5]
def blockOut : Block := { Block.empty with missing := false, codec := 1, frames := [frame80] }
def sPout : State := tiled (packeted wPo blockOut []) wPo
def outFrame : List Byte :=
  let c := sPout.ctx 5 1
  let tm := sPout.template c
  buildFrame c tm (rtpFields (slice tm (ctxTmplLen c - 12) 12) (ctxPt c) (ctxSeq c) (ctxTs c) (ctxSsrc c) ++
    payloadOf 1 false (ctxCmr c) [frame80]) 0
theorem witness_packets_out_1 : ¬ (∀ (cl : Fin 32) (k : BitVec 13) (ch : Fin 2) (s : State) r w t j c, OnTile s cl k.toNat ch r
    w t → ciOp w = opPktOut → pktOutReads cl k.toNat s r w = false → s.binder cl k.toNat r w 1 = some (j, c) → (r.block (ciBi
    w)).missing = true → Apart (slotDpa cl j, 256) (ctxProg r.ctx, 512) → False) := by
  intro h
  refine h 5 1 0 sPout0 (runOf sPout0) wPo 3 1 (sPout0.ctx 5 1) ?_ ?_ ?_ ?_ ?_ ?_
  all_goals first
    | decide +kernel | exact onTile_of (by decide +kernel) | exact apart_of (by decide +kernel)

theorem witness_packets_out_2 : ¬ (∀ (cl : Fin 32) (k : BitVec 13) (ch : Fin 2) (s : State) r w t j c tid b f tm frame x, OnTile
    s cl k.toNat ch r w t → ciOp w = opPktOut → pktOutReads cl k.toNat s r w = false → s.binder cl k.toNat r w 1 = some (j, c) →
    tid = (s.slot cl j).tid → b = r.block (ciBi w) → b.missing = false → b.frames = [f] → (s.slot cl j).held.frames = [] →
    (s.slot cl j).held.quiet = false → (s.slot cl j).held.mark = false → recNodata f = false → recSid f = false → ctxFpp c = 1 →
    ctxSrtpx c = 0 → tm = s.template c → tmRtp tm = true → 28 ≤ ctxTmplLen c → ctxTmplLen c + (payloadOf b.codec.toNat b.variant
    (ctxCmr c) [f]).length ≤ tmMtu tm → frame = buildFrame c tm (rtpFields (slice tm (ctxTmplLen c - 12) 12) (ctxPt c) (ctxSeq
    (s.ctx cl j)) (ctxTs (s.ctx cl j)) (ctxSsrc c) ++ payloadOf b.codec.toNat b.variant (ctxCmr c) [f]) 0 → frame.length ≤ 1008
    → x = ctxTxCask c → Takes s x (plyProducer cl) (frameWords frame).length → SendsApart s cl j r c tid x → False) := by
  intro h
  refine h 5 1 0 sPout (runOf sPout) wPo 3 1 (sPout.ctx 5 1) 77 blockOut frame80 (sPout.template (sPout.ctx 5 1)) outFrame 9 ?_ ?_
    ?_ ?_ ?_ ?_ ?_ ?_ ?_ ?_ ?_ ?_ ?_ ?_ ?_ ?_ ?_ ?_ ?_ ?_ ?_ ?_ ?_ ?_
  all_goals first
    | decide +kernel | exact canon_of (by decide +kernel) | exact quiet_of (by decide +kernel)
    | exact onTile_of (by decide +kernel) | exact sendsApart_of (by decide +kernel)
    | constructor <;> first
        | decide +kernel | exact canon_of (by decide +kernel) | exact quiet_of (by decide +kernel)
        | exact onTile_of (by decide +kernel) | exact sendsApart_of (by decide +kernel)

def sRtcp : State :=
  { ((packeted wPo Block.empty []).put PLY.CFG F.PLY_CFG_EN 1).setTb 2 ⟨0, 40000000, 0⟩ with
    plays := [(77, { Play.init with live := true, home := 5, rtcp := { Play.init.rtcp with due := some 5000, sent := true } })] }
def rtcpFrame : List Byte :=
  let c := sRtcp.ctx 5 1
  buildFrame c (sRtcp.template c) (sRtcp.rtcpCompound 5 1 (sRtcp.play 77)) (if bit (leAt (sRtcp.template c) 128 4) 11 then 0 else 1)
theorem witness_rtcp_reports_1 : ¬ (∀ (tid : BitVec 18) (s : State) n k c tm due frame x, Canon s → Quiet s → s.homeOf tid =
    some (n, k) → (s.slot n k).st = .live → n < 32 → c = s.ctx n k → ctxKind c = 1 → (s.play tid).rtcp.due = some due →
    firstTick due (ctxPeriod c) (ctxPhase c) ≤ s.tb2usOn (dieOf n) → s.rb PLY.CFG F.PLY_CFG_EN = true → s.poisonedIn (ctxArea c
    (ctxTmplOff c)) 256 = false → s.rtcpInt c ≠ 0 → ctxSrtpx c = 0 → tm = s.template c → frame = buildFrame c tm (s.rtcpCompound
    n k (s.play tid)) (if bit (leAt tm 128 4) 11 then 0 else 1) → frame.length ≤ 1008 → x = ctxTxCask c → Takes s x (plyProducer
    n) (frameWords frame).length → Apart (recordAt s tid) (storageOf s x) → False) := by
  intro h
  refine h 77 sRtcp 5 1 (sRtcp.ctx 5 1) (sRtcp.template (sRtcp.ctx 5 1)) 5000 rtcpFrame 9 ?_ ?_ ?_ ?_ ?_ ?_ ?_ ?_ ?_ ?_ ?_ ?_ ?_
    ?_ ?_ ?_ ?_ ?_ ?_
  all_goals first
    | decide +kernel | exact canon_of (by decide +kernel) | exact quiet_of (by decide +kernel)
    | exact apart_of (by decide +kernel)
    | constructor <;> first
        | decide +kernel | exact canon_of (by decide +kernel) | exact quiet_of (by decide +kernel)
        | exact apart_of (by decide +kernel)

/-- A run of slot 1 with a Vat slot, whose profile has 3 windows. -/
def vatted (w : Nat) (b : Block) : State :=
  let s := (chained 2 w b).writeLe (slotDpa 5 1 + 32) 4 0x10020
  let s := s.put (CSK.BASE 0 0) F.CSK_BASE_OFFS 0x8000
  let s := ((s.put (VAT.PW0 5 0) F.VAT_PW0_NWIN 3).put (VAT.PW0 5 0) F.VAT_PW0_WLEN 1).put (VAT.PW0 5 0) F.VAT_PW0_TAIL 16
  reread s
def wEc : Nat := wordOf opEc 0
def wRef : Nat := wordOf opEcRef 0
def sEc : State := vatted wEc blockA
/-- Its program: GAIN twice, EC.REF, EC and END. -/
def sRef0 : State :=
  let s := ((vatted wRef blockA).writeLe (0x10000000 + 24) 8 wEc).writeLe (0x10000000 + 32) 8 (opEnd * 2 ^ 56)
  reread (((s.writeLe 0x10000000 8 (wordOf opGain 0)).writeLe 0x10000008 8 (wordOf opGain 0)).writeLe (slotDpa 5 1 + 12) 4 0x01000000)
def sRef : State := sRef0.setVatQueue 5 [.ec 7 1]
def ref5 : RefBlock := ⟨20000000, 125000, blockA.samples⟩
theorem witness_echo_requests_1 : ¬ (∀ (cl : Fin 32) (k : BitVec 13) (ch : Fin 2) (s : State) r w, NextIs s cl k.toNat ch r w →
    ciOp w = opEc → (s.cluster cl).vatQueue.length < 512 → False) := by
  intro h
  refine h 5 1 0 sEc (runOf sEc) wEc ?_ ?_ ?_
  all_goals first
    | decide +kernel | exact canon_of (by decide +kernel) | exact quiet_of (by decide +kernel)
    | constructor <;> first
        | decide +kernel | exact canon_of (by decide +kernel) | exact quiet_of (by decide +kernel)

theorem witness_echo_requests_2 : ¬ (∀ (cl : Fin 32) (k : BitVec 13) (ch : Fin 2) (s : State) r w b (j : Nat) c a prof (x :
    RefBlock), NextIs s cl k.toNat ch r w → ciOp w = opEcRef → b = r.block (ciBi w) → s.refTarget cl k.toNat r w = some (j, c) →
    b.missing = false → rateKhz b.rate.val = s.ecKhz cl c → a = ctxVatSlot c → s.ecProfile c = some prof → x = ⟨s.refTag c
    r.boundary, 1000000 / rateKhz b.rate.val, b.samples⟩ → (s.cluster cl).vatQueue = .ec 7 1 :: [] → False) := by
  intro h
  refine h 5 1 0 sRef (runOf sRef) wRef blockA 1 (sRef.ctx 5 1) 268566528 0 ref5 ?_ ?_ ?_ ?_ ?_ ?_ ?_ ?_ ?_ ?_
  all_goals first
    | decide +kernel | exact canon_of (by decide +kernel) | exact quiet_of (by decide +kernel)
    | constructor <;> first
        | decide +kernel | exact canon_of (by decide +kernel) | exact quiet_of (by decide +kernel)

def sRef1 : State :=
  sRef0.setVat 268566528 { VatSlot.init with inited := true }
theorem witness_echo_requests_2b : ¬ (∀ (cl : Fin 32) (k : BitVec 13) (ch : Fin 2) (s : State) r w b (j : Nat) c a prof (x :
    RefBlock), NextIs s cl k.toNat ch r w → ciOp w = opEcRef → b = r.block (ciBi w) → s.refTarget cl k.toNat r w = some (j, c) →
    b.missing = false → rateKhz b.rate.val = s.ecKhz cl c → a = ctxVatSlot c → s.ecProfile c = some prof → x = ⟨s.refTag c
    r.boundary, 1000000 / rateKhz b.rate.val, b.samples⟩ → (s.cluster cl).vatQueue = [] → (s.vat a).inited = true → (s.vat
    a).profile = prof → (s.vat a).wide = (s.ecKhz cl c == 16) → s.poisonedIn a (vatBytes (s.vat a).wide) = false → (s.vat
    a).done ≤ x.tag → b.samples ≠ [] → False) := by
  intro h
  refine h 5 1 0 sRef1 (runOf sRef1) wRef blockA 1 (sRef1.ctx 5 1) 268566528 0 ref5 ?_ ?_ ?_ ?_ ?_ ?_ ?_ ?_ ?_ ?_ ?_ ?_ ?_ ?_ ?_
    ?_
  all_goals first
    | decide +kernel | exact canon_of (by decide +kernel) | exact quiet_of (by decide +kernel)
    | constructor <;> first
        | decide +kernel | exact canon_of (by decide +kernel) | exact quiet_of (by decide +kernel)

def sEcQ : State := sEc.setVatQueue 5 [.ec 1 0]
theorem witness_echo_requests_3 : ¬ (∀ (cl : Fin 32) (k : BitVec 13) (ch : Fin 2) (s : State) r w a, Requested s cl k.toNat ch r
    w → (s.cluster cl).vatQueue = [.ec k ch] → a = ctxVatSlot r.ctx → EndsApart s cl k.toNat r a 24576 → False) := by
  intro h
  refine h 5 1 0 sEcQ (runOf sEc) wEc 268566528 ?_ ?_ ?_ ?_
  all_goals first
    | decide +kernel | exact canon_of (by decide +kernel) | exact quiet_of (by decide +kernel)
    | exact endsApart_of (by decide +kernel)
    | constructor <;> first
        | decide +kernel | exact canon_of (by decide +kernel) | exact quiet_of (by decide +kernel)
        | exact endsApart_of (by decide +kernel)

def vatA : VatSlot :=
  { VatSlot.init with inited := true, q := ⟨3, 16, 128, false, false, 0, 0, 3, 40000000, 6, 250, -36, -40⟩, refs := [⟨0, 125000, List.replicate 80 9⟩], speech := true,
                      win := #v[0, 255, 30, 255], low := #v[0, 0, 272, 0] }
def sEv : State := sRef0.setVat 268566528 vatA
theorem witness_echo_events_1 : ¬ (∀ (cl : Fin 32) (k : BitVec 13) (s : State) a v, Canon s → Quiet s → s.vatOf cl k.toNat =
    some a → v = s.vat a → v.q.noSearch = false → s.vatMoves cl v = true → v.search ≤ s.tb2nsOn (dieOf cl) → v.q.wlen ≤ v.q.tail
    → v.q.tail < 255 → WindowsApart v → (∀ p i co, v.shadow = some (p, i, co) → v.q.posOk p.toNat = true) → False) := by
  intro h
  refine h 5 1 sEv 268566528 vatA ?_ ?_ ?_ ?_ ?_ ?_ ?_ ?_ ?_ ?_ (fun _ _ _ e => nomatch e)
  all_goals first
    | decide +kernel | exact canon_of (by decide +kernel) | exact quiet_of (by decide +kernel)
    | exact windowsApart_of (by decide +kernel)

theorem witness_echo_events_2 : ¬ (∀ (cl : Fin 32) (k : BitVec 13) (w : Fin 8) (s : State) a v (i : Nat), s.vatOf cl k.toNat =
    some a → v = s.vat a → w.val = i → (h : i < 4) → s.vatMoves cl v = true → v.win[i] ≠ 0xFF → 272 ≤ v.low[i] → False) := by
  intro h
  refine h 5 1 2 sEv 268566528 vatA 2 ?_ ?_ rfl (by decide) ?_ ?_ ?_
  all_goals first
    | decide +kernel

theorem witness_echo_events_3 : ¬ (∀ (cl : Fin 32) (k : BitVec 13) (s : State) a v now, s.vatOf cl k.toNat = some a → v = s.vat
    a → now = s.tb2nsOn (dieOf cl) → False) := by
  intro h
  refine h 5 1 sEv 268566528 vatA 0 ?_ ?_ ?_
  all_goals first
    | decide +kernel

def wTd : Nat := wordOf opToneDet 0
def wTg : Nat := wordOf opToneGen 0
def wSrc : Nat := wordOf opSrc (3 * 2 ^ 16 + 2 ^ 43)
def wVr : Nat := wordOf opVdeRx (3 * 2 ^ 16)
def wVt : Nat := wordOf opVdeTx (3 * 2 ^ 16)
def queued (w : Nat) (f : Cluster → Cluster) : State := let s := vatted w blockA; s.setCluster 5 (f (s.cluster 5))
def sTd : State := queued wTd (fun c => { c with toneQueue := [(1, 0)] })
def sTg : State := queued wTg (fun c => { c with toneQueue := [(1, 0)] })
def sVr : State := queued wVr (fun c => { c with vdeQueue := [(1, 0)] })
def sVt : State := queued wVt (fun c => { c with vdeQueue := [(1, 0)] })
def sSr : State :=
  let s := vatted wSrc { blockA with samples := List.replicate 80 5 }
  s.setCluster 5 { s.cluster 5 with srcQueue := [(1, 0)] }
theorem witness_accelerator_requests_1 : ¬ (∀ (cl : Fin 32) (k : BitVec 13) (ch : Fin 2) (s : State) r w, NextIs s cl k.toNat ch
    r w → ciOp w = opToneDet → False) := by
  intro h
  refine h 5 1 0 (vatted wTd blockA) (runOf (vatted wTd blockA)) wTd ?_ ?_
  all_goals first
    | decide +kernel | exact canon_of (by decide +kernel) | exact quiet_of (by decide +kernel)
    | constructor <;> first
        | decide +kernel | exact canon_of (by decide +kernel) | exact quiet_of (by decide +kernel)

theorem witness_accelerator_requests_2 : ¬ (∀ (cl : Fin 32) (k : BitVec 13) (ch : Fin 2) (s : State) r w, NextIs s cl k.toNat ch
    r w → ciOp w = opToneGen → False) := by
  intro h
  refine h 5 1 0 (vatted wTg blockA) (runOf (vatted wTg blockA)) wTg ?_ ?_
  all_goals first
    | decide +kernel | exact canon_of (by decide +kernel) | exact quiet_of (by decide +kernel)
    | constructor <;> first
        | decide +kernel | exact canon_of (by decide +kernel) | exact quiet_of (by decide +kernel)

theorem witness_accelerator_requests_3 : ¬ (∀ (i : Instr) (cl : Fin 32) (k : BitVec 13) (ch : Fin 2) s r w, NextIs s cl k.toNat
    ch r w → ((i = .vdeRx cl k ch ∧ ciOp w = opVdeRx) ∨ (i = .vdeTx cl k ch ∧ ciOp w = opVdeTx)) → False) := by
  intro h
  refine h (.vdeRx 5 1 0) 5 1 0 (vatted wVr blockA) (runOf (vatted wVr blockA)) wVr ?_ (.inl ⟨rfl, by decide +kernel⟩)
  all_goals first
    | decide +kernel | exact canon_of (by decide +kernel) | exact quiet_of (by decide +kernel)
    | constructor <;> first
        | decide +kernel | exact canon_of (by decide +kernel) | exact quiet_of (by decide +kernel)

theorem witness_accelerator_requests_3b : ¬ (∀ (i : Instr) (cl : Fin 32) (k : BitVec 13) (ch : Fin 2) s r w, NextIs s cl k.toNat
    ch r w → ((i = .vdeRx cl k ch ∧ ciOp w = opVdeRx) ∨ (i = .vdeTx cl k ch ∧ ciOp w = opVdeTx)) → False) := by
  intro h
  refine h (.vdeTx 5 1 0) 5 1 0 (vatted wVt blockA) (runOf (vatted wVt blockA)) wVt ?_ (.inr ⟨rfl, by decide +kernel⟩)
  all_goals first
    | decide +kernel | exact canon_of (by decide +kernel) | exact quiet_of (by decide +kernel)
    | constructor <;> first
        | decide +kernel | exact canon_of (by decide +kernel) | exact quiet_of (by decide +kernel)

theorem witness_accelerator_requests_4 : ¬ (∀ (cl : Fin 32) (k : BitVec 13) (ch : Fin 2) (s : State) r w, NextIs s cl k.toNat ch
    r w → ciOp w = opSrc → False) := by
  intro h
  refine h 5 1 0 (vatted wSrc blockA) (runOf (vatted wSrc blockA)) wSrc ?_ ?_
  all_goals first
    | decide +kernel | exact canon_of (by decide +kernel) | exact quiet_of (by decide +kernel)
    | constructor <;> first
        | decide +kernel | exact canon_of (by decide +kernel) | exact quiet_of (by decide +kernel)

theorem witness_accelerator_ends_1 : ¬ (∀ (cl : Fin 32) (k : BitVec 13) (ch : Fin 2) (s : State) r w q, Requested s cl k.toNat
    ch r w → ciOp w = opToneDet → bit w 45 = false → (s.cluster cl).toneQueue = (k, ch) :: q → EndsApart s cl k.toNat r (ctxArea
    r.ctx (ciSoff w)) 256 → False) := by
  intro h
  refine h 5 1 0 sTd (runOf sTd) wTd [] ?_ ?_ ?_ ?_ ?_
  all_goals first
    | decide +kernel | exact canon_of (by decide +kernel) | exact quiet_of (by decide +kernel)
    | exact endsApart_of (by decide +kernel)
    | constructor <;> first
        | decide +kernel | exact canon_of (by decide +kernel) | exact quiet_of (by decide +kernel)
        | exact endsApart_of (by decide +kernel)

theorem witness_accelerator_ends_2 : ¬ (∀ (cl : Fin 32) (k : BitVec 13) (ch : Fin 2) (s : State) r w q b, Requested s cl k.toNat
    ch r w → ciOp w = opToneGen → b = r.block (ciBi w) → (s.cluster cl).toneQueue = (k, ch) :: q → EndsApart s cl k.toNat r
    (ctxArea r.ctx (ciSoff w)) 256 → False) := by
  intro h
  refine h 5 1 0 sTg (runOf sTg) wTg [] blockA ?_ ?_ ?_ ?_ ?_
  all_goals first
    | decide +kernel | exact canon_of (by decide +kernel) | exact quiet_of (by decide +kernel)
    | exact endsApart_of (by decide +kernel)
    | constructor <;> first
        | decide +kernel | exact canon_of (by decide +kernel) | exact quiet_of (by decide +kernel)
        | exact endsApart_of (by decide +kernel)

theorem witness_accelerator_ends_3 : ¬ (∀ (cl : Fin 32) (k : BitVec 13) (ch : Fin 2) (s : State) r w q, Requested s cl k.toNat
    ch r w → ciOp w = opVdeRx → EndsApart s cl k.toNat r (ctxArea r.ctx (ciSoff w)) 2048 → (s.cluster cl).vdeQueue = (k, ch) ::
    q → False) := by
  intro h
  refine h 5 1 0 sVr (runOf sVr) wVr [] ?_ ?_ ?_ ?_
  all_goals first
    | decide +kernel | exact canon_of (by decide +kernel) | exact quiet_of (by decide +kernel)
    | exact endsApart_of (by decide +kernel)
    | constructor <;> first
        | decide +kernel | exact canon_of (by decide +kernel) | exact quiet_of (by decide +kernel)
        | exact endsApart_of (by decide +kernel)

theorem witness_accelerator_ends_4 : ¬ (∀ (cl : Fin 32) (k : BitVec 13) (ch : Fin 2) (s : State) r w q, Requested s cl k.toNat
    ch r w → ciOp w = opVdeTx → EndsApart s cl k.toNat r (ctxArea r.ctx (ciSoff w)) 2048 → (s.cluster cl).vdeQueue = (k, ch) ::
    q → False) := by
  intro h
  refine h 5 1 0 sVt (runOf sVt) wVt [] ?_ ?_ ?_ ?_
  all_goals first
    | decide +kernel | exact canon_of (by decide +kernel) | exact quiet_of (by decide +kernel)
    | exact endsApart_of (by decide +kernel)
    | constructor <;> first
        | decide +kernel | exact canon_of (by decide +kernel) | exact quiet_of (by decide +kernel)
        | exact endsApart_of (by decide +kernel)

theorem sr_khz : sSr.inputKhz 5 0 (runOf sSr) wSrc = some 8 := by decide +kernel
theorem sr_none : sSr.srcAt (ctxArea (runOf sSr).ctx (ciSoff wSrc)) = none := by decide +kernel
theorem sr_length : ∀ i, sSr.inputKhz 5 0 (runOf sSr) wSrc = some i →
    ((runOf sSr).block (ciBi wSrc)).samples.length = i * ctxPeriod (runOf sSr).ctx := by
  intro i h
  cases sr_khz.symm.trans h
  decide +kernel
theorem witness_accelerator_ends_5 : ¬ (∀ (cl : Fin 32) (k : BitVec 13) (ch : Fin 2) (s : State) r w q, Requested s cl k.toNat
    ch r w → ciOp w = opSrc → EndsApart s cl k.toNat r (ctxArea r.ctx (ciSoff w)) 20 → SrcSound s (ctxArea r.ctx (ciSoff w)) →
    (s.cluster cl).srcQueue = (k, ch) :: q → ((r.block (ciBi w)).missing = false → ∀ i, s.inputKhz cl ch r w = some i → (r.block
    (ciBi w)).samples.length = i * ctxPeriod r.ctx) → False) := by
  intro h
  refine h 5 1 0 sSr (runOf sSr) wSrc [] ?_ ?_ ?_ (fun _ h => nomatch sr_none.symm.trans h) ?_ (fun _ => sr_length)
  all_goals first
    | decide +kernel | exact canon_of (by decide +kernel) | exact quiet_of (by decide +kernel)
    | exact endsApart_of (by decide +kernel)
    | constructor <;> first
        | decide +kernel | exact canon_of (by decide +kernel) | exact quiet_of (by decide +kernel)
        | exact endsApart_of (by decide +kernel)

def wFax (d : Nat) : Nat := wordOf opFaxrelay (3 * 2 ^ 16 + d * 2 ^ 44)
def sFax (d : Nat) : State := tiled ((chained 1 (wFax d) blockA).put (CSK.BASE 0 0) F.CSK_BASE_OFFS 0x8000) (wFax d)
theorem witness_faxrelay_and_user_sets_1 : ¬ (∀ (cl : Fin 32) (k : BitVec 13) (ch : Fin 2) (s : State) r w t j c, OnTile s cl
    k.toNat ch r w t → ciOp w = opFaxrelay → bindingPoisoned cl k.toNat 1 s r w = false → s.faxBinder cl k.toNat r = some (j, c)
    → FaxApart s r w c (s.slot cl j).tid → False) := by
  intro h
  refine h 5 1 0 (sFax 1) (runOf (sFax 1)) (wFax 1) 3 1 ((sFax 1).ctx 5 1) ?_ ?_ ?_ ?_ ?_
  all_goals first
    | decide +kernel | exact onTile_of (by decide +kernel) | exact faxApart_of (by decide +kernel)

theorem witness_faxrelay_and_user_sets_2 : ¬ (∀ (cl : Fin 32) (k : BitVec 13) (ch : Fin 2) (s : State) r w t j c a, OnTile s cl
    k.toNat ch r w t → ciOp w = opFaxrelay → bindingPoisoned cl k.toNat 1 s r w = false → s.faxBinder cl k.toNat r = some (j, c)
    → bits w 45 44 = 0 → a = ctxArea r.ctx (ciSoff w) → s.vdePut a = s.vdeTake a → False) := by
  intro h
  refine h 5 1 0 (sFax 0) (runOf (sFax 0)) (wFax 0) 3 1 ((sFax 0).ctx 5 1) (ctxArea (runOf (sFax 0)).ctx (ciSoff (wFax 0))) ?_ ?_
    ?_ ?_ ?_ ?_ ?_
  all_goals first
    | decide +kernel | exact onTile_of (by decide +kernel)

def sFax2 : State := tiled (vatted (wFax 0) blockA) (wFax 0)
theorem witness_faxrelay_and_user_sets_3 : ¬ (∀ (cl : Fin 32) (k : BitVec 13) (ch : Fin 2) (s : State) r w t, OnTile s cl
    k.toNat ch r w t → ciOp w = opFaxrelay → bindingPoisoned cl k.toNat 1 s r w = false → s.faxBinder cl k.toNat r = none →
    False) := by
  intro h
  refine h 5 1 0 sFax2 (runOf sFax2) (wFax 0) 3 ?_ ?_ ?_ ?_
  all_goals first
    | decide +kernel | exact onTile_of (by decide +kernel)

def sUser : State :=
  ((booted.put (WS.STATUS 5) F.WS_STATUS_STATE 3).put (SRC.UBASE 5 1) F.SRC_UBASE_BASE 0x100001).write 0x10000100
    [0x14, 9, 0, 0, 5, 0x10, 0, 0, 0, 0, 0, 0, 0, 0, 0, 0, 1, 2, 3, 4, 5, 6, 7, 8, 9, 10]
theorem witness_faxrelay_and_user_sets_4 : ¬ (∀ (cl : Fin 32) (set : Fin 8) (s : State) (a : Nat) (h : List Byte) (len bank u :
    Nat), Canon s → Quiet s → Opens s (SRC.UCMD cl) → s.ready (SRC.USTATUS cl) = true → set.val < 3 → a = s.rf (SRC.UBASE cl
    set) F.SRC_UBASE_BASE * 256 → h = s.bytes a 16 → imgHeadOk h = true → len = 16 + 2 * (imgTaps h 0 + imgTaps h 1) → s.imgAt
    cl a 16 = true → s.imgAt cl a len = true → s.rf (SRC.USERS cl set) F.SRC_USERS_USERS = 0 → u = SRC.UINFO cl set → bank = (if
    s.rb u F.SRC_UINFO_LOADED then 1 - s.rf u F.SRC_UINFO_BANK else 0) → False) := by
  intro h
  refine h 5 1 sUser 0x10000100 (sUser.bytes 0x10000100 16) 26 0 (SRC.UINFO 5 1) ?_ ?_ ?_ ?_ ?_ ?_ ?_ ?_ ?_ ?_ ?_ ?_ ?_ ?_
  all_goals first
    | decide +kernel | exact opens_of (by decide +kernel) | exact canon_of (by decide +kernel)
    | exact quiet_of (by decide +kernel)


/-! ## The host's accesses, power and resets -/

theorem hostOpen_of {s : State} {o n : Nat} (h : (canonOk s && decide (o % 0x10000000 + n ≤ 0x10000000) &&
    decide (0x4000000 ≤ s.bar2 o) && (List.range n).all (fun i => decide (s.memReach (s.bar2 o + i) = .ok)) &&
    (List.range n).all (fun i => s.writable (s.bar2 o + i)) && (List.range n).all (fun i => !s.poisoned (s.bar2 o + i))) = true) :
    HostOpen s o n := by
  simp only [Bool.and_eq_true, decide_eq_true_eq, List.all_eq_true, List.mem_range, Bool.not_eq_true'] at h
  obtain ⟨⟨⟨⟨⟨h1, h2⟩, h3⟩, h4⟩, h5⟩, h6⟩ := h
  exact ⟨canon_of h1, h2, h3, h4, h5, h6⟩

theorem pinsFollow_of {s : State} (h : decide (∀ k : Fin 2, s.msix.pins.getLsbD k.val = s.evtLow k.val) = true) : PinsFollow s := by
  have := of_decide_eq_true h
  exact this

def rowOf (a : Nat) : RegRow := (regRow a).getD ⟨0, 0, 0, 0, 0, 0, 0, 0, .fixed⟩
theorem witness_register_writes_1 : ¬ (∀ (i : Instr) (val : BitVec 32) (s : State) a row, ((∃ off : BitVec 26, i =
    .registerWrite off 15 val ∧ a = off.toNat / 4 * 4) ∨ (∃ addr : BitVec 32, i = .keywayWriteBar0 addr [val] ∧ a = addr.toNat /
    4 * 4 % 0x4000000)) → PlainRegister s a val row → False) := by
  intro h
  refine h (.registerWrite (BitVec.ofNat 26 HIF.AP1) 15 0x12345678) 0x12345678 booted HIF.AP1 (rowOf HIF.AP1) (.inl ⟨BitVec.ofNat
    26 HIF.AP1, rfl, by decide +kernel⟩) ?_
  all_goals first
    | decide +kernel | exact opens_of (by decide +kernel) | exact canon_of (by decide +kernel)
    | exact quiet_of (by decide +kernel) | exact idleMaker_of (by decide +kernel)
    | constructor <;> first
        | decide +kernel | exact opens_of (by decide +kernel) | exact canon_of (by decide +kernel)
        | exact quiet_of (by decide +kernel) | exact idleMaker_of (by decide +kernel)

theorem witness_register_writes_1b : ¬ (∀ (i : Instr) (val : BitVec 32) (s : State) a row, ((∃ off : BitVec 26, i =
    .registerWrite off 15 val ∧ a = off.toNat / 4 * 4) ∨ (∃ addr : BitVec 32, i = .keywayWriteBar0 addr [val] ∧ a = addr.toNat /
    4 * 4 % 0x4000000)) → PlainRegister s a val row → False) := by
  intro h
  refine h (.keywayWriteBar0 0xF4040087 [0x12345678]) 0x12345678 booted HIF.AP1 (rowOf HIF.AP1) (.inr ⟨0xF4040087, rfl, by
    decide +kernel⟩) ?_
  all_goals first
    | decide +kernel | exact opens_of (by decide +kernel) | exact canon_of (by decide +kernel)
    | exact quiet_of (by decide +kernel) | exact idleMaker_of (by decide +kernel)
    | constructor <;> first
        | decide +kernel | exact opens_of (by decide +kernel) | exact canon_of (by decide +kernel)
        | exact quiet_of (by decide +kernel) | exact idleMaker_of (by decide +kernel)

theorem witness_register_writes_2 : ¬ (∀ (off : BitVec 26) (val : BitVec 32) (s : State) a row, Canon s → Quiet s → a =
    off.toNat / 4 * 4 → Opens s a → regRow a = some row → row.w1c ≠ 0 → s.writeReg a val.toNat = s.plainWrite a val.toNat →
    False) := by
  intro h
  refine h (BitVec.ofNat 26 (WS.EVT 3)) 0xFF (booted.wv (WS.EVT 3) 0xF) (WS.EVT 3) (rowOf (WS.EVT 3)) ?_ ?_ ?_ ?_ ?_ ?_ ?_
  all_goals first
    | decide +kernel | exact opens_of (by decide +kernel) | exact canon_of (by decide +kernel)
    | exact quiet_of (by decide +kernel)

theorem witness_register_writes_3 : ¬ (∀ (off : BitVec 26) (be : BitVec 4) (val : BitVec 32) (s : State), Canon s → Quiet s →
    Opens s (off.toNat / 4 * 4) → be ≠ 15 → False) := by
  intro h
  refine h 0x40080 14 5 booted ?_ ?_ ?_ ?_
  all_goals first
    | decide +kernel | exact opens_of (by decide +kernel) | exact canon_of (by decide +kernel)
    | exact quiet_of (by decide +kernel)

theorem witness_register_writes_4 : ¬ (∀ (off : BitVec 26) (be : BitVec 4) (val : BitVec 32) (s : State), Canon s → Quiet s →
    s.package.held = false → s.booted = false → s.bootPort ≠ some 0 → False) := by
  intro h
  refine h 0x40080 15 5 (State.reset.put HIF.STATUS F.HIF_STATUS_HOSTSEL 1) ?_ ?_ ?_ ?_ ?_
  all_goals first
    | decide +kernel | exact canon_of (by decide +kernel) | exact quiet_of (by decide +kernel)

def sAp : State := booted.put HIF.AP1 ⟨11, 0⟩ 1
theorem witness_host_memory_1 : ¬ (∀ (i : Instr) (s : State) (o : Nat) (bs : List (Option Byte)), ((∃ m : MemAt 30, i =
    .hostMemoryWrite m bs ∧ o = m.offset.toNat ∧ ∀ e ∈ m.eccs, e = .ok) ∨ (∃ (m : MemAt 32) (v : Word), i = .keywayWriteBar2 m
    [v] ∧ o = m.offset.toNat / 4 * 4 % 0x40000000 ∧ bs = (leBytes 4 v.toNat).map some ∧ ∀ e ∈ m.eccs, e = .ok)) → HostOpen s o
    bs.length → False) := by
  intro h
  refine h (.hostMemoryWrite ⟨0x10000005, [.ok]⟩ [some 1, none, some 3]) sAp 0x10000005 [some 1, none, some 3] (.inl ⟨⟨0x10000005,
    [.ok]⟩, rfl, by decide, by decide⟩) ?_
  all_goals first
    | decide +kernel | exact hostOpen_of (by decide +kernel)

theorem witness_host_memory_1b : ¬ (∀ (i : Instr) (s : State) (o : Nat) (bs : List (Option Byte)), ((∃ m : MemAt 30, i =
    .hostMemoryWrite m bs ∧ o = m.offset.toNat ∧ ∀ e ∈ m.eccs, e = .ok) ∨ (∃ (m : MemAt 32) (v : Word), i = .keywayWriteBar2 m
    [v] ∧ o = m.offset.toNat / 4 * 4 % 0x40000000 ∧ bs = (leBytes 4 v.toNat).map some ∧ ∀ e ∈ m.eccs, e = .ok)) → HostOpen s o
    bs.length → False) := by
  intro h
  refine h (.keywayWriteBar2 ⟨0x50000007, []⟩ [5]) sAp 0x10000004 ((leBytes 4 5).map some) (.inr ⟨⟨0x50000007, []⟩, 5, rfl, by
    decide, rfl, by decide⟩) ?_
  all_goals first
    | decide +kernel | exact hostOpen_of (by decide +kernel)

theorem witness_host_memory_2 : ¬ (∀ (s : State), s.package.held = false → s.booted = true → False) := by
  intro h
  refine h booted ?_ ?_
  all_goals first
    | decide +kernel

theorem witness_keyway_1 : ¬ (∀ (i : Instr) (s : State) (count : BitVec 6) (rs : List ReadWord), s.package.held = false → ((∃
    addr : BitVec 32, i = .keywayReadBar0 addr count ∧ rs = (List.range (count.toNat + 1)).map (fun x => s.regRead 1
    ((addr.toNat / 4 * 4 + 4 * x) % 0x4000000))) ∨ (∃ m : MemAt 32, i = .keywayReadBar2 m count ∧ (∀ e ∈ m.eccs, e = .ok) ∧ rs =
    (List.range (count.toNat + 1)).map (fun x => s.bar2Read 1 ((m.offset.toNat / 4 * 4 + 4 * x) % 0x40000000)))) → False) := by
  intro h
  refine h (.keywayReadBar0 0x40087 3) booted 3 _ ?_ (.inl ⟨0x40087, rfl, rfl⟩)
  all_goals first
    | decide +kernel

theorem witness_keyway_1b : ¬ (∀ (i : Instr) (s : State) (count : BitVec 6) (rs : List ReadWord), s.package.held = false → ((∃
    addr : BitVec 32, i = .keywayReadBar0 addr count ∧ rs = (List.range (count.toNat + 1)).map (fun x => s.regRead 1
    ((addr.toNat / 4 * 4 + 4 * x) % 0x4000000))) ∨ (∃ m : MemAt 32, i = .keywayReadBar2 m count ∧ (∀ e ∈ m.eccs, e = .ok) ∧ rs =
    (List.range (count.toNat + 1)).map (fun x => s.bar2Read 1 ((m.offset.toNat / 4 * 4 + 4 * x) % 0x40000000)))) → False) := by
  intro h
  refine h (.keywayReadBar2 ⟨0x10000004, [.ok]⟩ 63) sAp 63 _ ?_ (.inr ⟨⟨0x10000004, [.ok]⟩, rfl, by decide, rfl⟩)
  all_goals first
    | decide +kernel

theorem witness_keyway_2 : ¬ (∀ (bar2 : Bool) (addr : BitVec 32) (v : Word) (vs : List Word) (s : State), s.package.held = false
    → vs.length ≤ 63 → False) := by
  intro h
  refine h true 0x10000004 7 (List.replicate 63 9) booted ?_ ?_
  all_goals first
    | decide +kernel

theorem witness_keyway_3 : ¬ (∀ (bar2 : Bool) (addr : BitVec 32) (ws : List Word) (s u : State), s.package.held = false → False)
    := by
  intro h
  refine h true 5 [1, 2] booted booted ?_
  all_goals first
    | decide +kernel

def sDma0 : State := (((booted.put (HIF.DMA_HOSTCNT 2) F.HIF_DMA_HOSTCNT_HOSTCNT 65535).put HIF.STATUS F.HIF_STATUS_SPEED 4).wv
  (HIF.DMA_BASELO 2) 0x5000).wv (HIF.DMA_CBLO 2) 0x7000
/-- Channel 2 enabled, with a descriptor of 20 bytes at 0x10000000 in its ring. -/
def sDma (dir : Byte) : State :=
  { sDma0 with regs := [(262144, 1032#32), (263296, 2147483653#32), (263300, 20480#32), (263308, 28672#32), (263316, 3#32),
                         (263320, 65535#32), (263324, 2147483648#32)]
               hostMem := [(0x51E1, 0x90), (0x51EB, 0x10), (0x51F0, 20), (0x51F3, 0x80 + dir), (0x51F4, 7)]
               mem := [(0x10000008, 1), (0x10000009, 2)] }
def descOf (s : State) : List Byte := s.hostBytes (s.dmaAt 2 (s.dmaHead 2)) 32
theorem witness_dma_control_1 : ¬ (∀ (c : Fin 4) (val : BitVec 32) (s : State), Canon s → Opens s (HIF.DMA_CFG c) → s.rb
    (HIF.DMA_CFG c) F.HIF_DMA_CFG_EN = false → bit val.toNat 31 = true → False) := by
  intro h
  refine h 2 0x80000005 sDma0 ?_ ?_ ?_ ?_
  all_goals first
    | decide +kernel | exact opens_of (by decide +kernel) | exact canon_of (by decide +kernel)

theorem witness_dma_control_2 : ¬ (∀ (c : Fin 4) (val : BitVec 32) (s : State), Canon s → Opens s (HIF.DMA_CFG c) → s.rb
    (HIF.DMA_CFG c) F.HIF_DMA_CFG_EN = true → bit val.toNat 31 = false → False) := by
  intro h
  refine h 2 5 (sDma 0) ?_ ?_ ?_ ?_
  all_goals first
    | decide +kernel | exact opens_of (by decide +kernel) | exact canon_of (by decide +kernel)

theorem witness_dma_control_3 : ¬ (∀ (c : Fin 4) (cnt : BitVec 16) (cells : List (Nat × Byte)) (s : State), Canon s → Opens s
    (HIF.DMA_HOSTCNT c) → False) := by
  intro h
  refine h 2 3 [(0x5000, 1)] sDma0 ?_ ?_
  all_goals first
    | decide +kernel | exact opens_of (by decide +kernel) | exact canon_of (by decide +kernel)

theorem witness_dma_copies_1 : ¬ (∀ (c : Fin 4) (s : State) d w n h a, CopyReady s c d → w = leAt d 16 4 → n = w % 2 ^ 24 → h =
    leAt d 0 8 → a = leAt d 8 5 → bit w 30 = false → s.hostPoison = [] → s.poison = [] → (∀ i, i < n → s.writable (a + i) =
    true) → False) := by
  intro h
  refine h 2 (sDma 0) (descOf (sDma 0)) 0x80000014 20 0x9000 0x10000000 ?_ ?_ ?_ ?_ ?_ ?_ ?_ ?_ ?_
  all_goals first
    | decide +kernel | exact canon_of (by decide +kernel) | exact quiet_of (by decide +kernel)
    | constructor <;> first
        | decide +kernel | exact canon_of (by decide +kernel) | exact quiet_of (by decide +kernel)

theorem witness_dma_copies_2 : ¬ (∀ (c : Fin 4) (s : State) d w n h a e, CopyReady s c d → w = leAt d 16 4 → n = w % 2 ^ 24 → h
    = leAt d 0 8 → a = leAt d 8 5 → bit w 30 = true → s.poison = [] → e = s.dmaAt c (s.dmaHead c) → (h + n ≤ e + 24 ∨ e + 28 ≤
    h) → (h + n ≤ s.dmaCb c ∨ s.dmaCb c + 12 ≤ h) → False) := by
  intro h
  refine h 2 (sDma 0x40) (descOf (sDma 0x40)) 0xC0000014 20 0x9000 0x10000000 (0x5000 + 32 * 15) ?_ ?_ ?_ ?_ ?_ ?_ ?_ ?_ ?_ ?_
  all_goals first
    | decide +kernel | exact canon_of (by decide +kernel) | exact quiet_of (by decide +kernel)
    | constructor <;> first
        | decide +kernel | exact canon_of (by decide +kernel) | exact quiet_of (by decide +kernel)

def sDrain : State :=
  (((((((sDma 0).put (HIF.DMA_CFG 2) F.HIF_DMA_CFG_MODE 1).put (HIF.DMA_CFG 2) F.HIF_DMA_CFG_CASK 9).put (CSK.CFG 0 9) F.CSK_CFG_EN 1).put
    (CSK.CFG 0 9) F.CSK_CFG_DEPTH 4).setCask 9 { Cask.init with pkts := [[0, 1], [2]] }).storeWord 9 0 ⟨5, false⟩)
theorem witness_dma_drains_1 : ¬ (∀ (c : Fin 4) (s : State) h w st, DrainReady s c h w st → bit st.toNat 29 = false → False) :=
    by
  intro h
  refine h 2 sDrain 9 ⟨5, false⟩ (sDrain.peek 9).2 ?_ ?_
  all_goals first
    | decide +kernel | exact canon_of (by decide +kernel) | exact quiet_of (by decide +kernel)
    | constructor <;> first
        | decide +kernel | exact canon_of (by decide +kernel) | exact quiet_of (by decide +kernel)

theorem witness_dma_drains_2 : ¬ (∀ (c : Fin 4) (s : State) t0, Canon s → Quiet s → s.dmaLive c = true → s.dmaDpa c = false →
    (s.dma c).since = some t0 → t0 + 2000 ≤ s.tb2ns → False) := by
  intro h
  refine h 2 ((sDrain.setDma 2 ⟨some 0⟩).setTb 2 ⟨0, 250000, 0⟩) 0 ?_ ?_ ?_ ?_ ?_ ?_
  all_goals first
    | decide +kernel | exact canon_of (by decide +kernel) | exact quiet_of (by decide +kernel)

def sVec : State := (booted.wv (EVT.ROUTE 6) 0xA5).wv HIF.EVT 0x100
theorem witness_vectors_1 : ¬ (∀ (i : Fin 2) (v : BitVec 32) (s : State), Canon s → Quiet s → Opens s (EVT.VACK i) → PinsFollow
    s → (∀ u, u < 64 → s.vectorActive u = false) → False) := by
  intro h
  refine h 1 0xF3 (booted.wv (EVT.VINSVC 1) 0xFF) ?_ ?_ ?_ ?_ ?_
  all_goals first
    | decide +kernel | exact opens_of (by decide +kernel) | exact canon_of (by decide +kernel)
    | exact quiet_of (by decide +kernel) | exact pinsFollow_of (by decide +kernel)

theorem others_of {s : State} {v : Fin 64} (h : (List.range 64).all (fun u => u == v.val || !s.vectorActive u) = true) :
    ∀ u, u < 64 → u ≠ v.val → s.vectorActive u = false := by
  intro u hu hn
  have := List.all_eq_true.mp h u (List.mem_range.mpr hu)
  simpa [hn] using this

def sUnmasked : State := after sVec (.msixUnmask 37 0xFEE0 77)
theorem opens_unmasked : Opens sUnmasked (EVT.VACK ((37 : Fin 64).val / 32)) := opens_of (by decide +kernel)
theorem pins_unmasked : PinsFollow sUnmasked := pinsFollow_of (by decide +kernel)
theorem others_unmasked : ∀ u, u < 64 → u ≠ (37 : Fin 64).val → sUnmasked.vectorActive u = false := others_of (by decide +kernel)
theorem witness_vectors_2 : ¬ (∀ (v : Fin 64) (s : State), Canon s → Quiet s → Opens s (EVT.VACK (v.val / 32)) → PinsFollow s →
    s.pcie.d3hot = false → s.vectorActive v = true → s.inService v = true → (∀ u, u < 64 → u ≠ v.val → s.vectorActive u = false)
    → s.msix.enable = true → s.msix.funcMask = false → (s.msix.entry v).masked = false → False) := by
  intro h
  refine h 37 sUnmasked (canon_of (by decide +kernel)) (quiet_of (by decide +kernel)) opens_unmasked pins_unmasked ?_ ?_ ?_
    others_unmasked ?_ ?_ ?_
  all_goals first
    | decide +kernel | exact opens_of (by decide +kernel) | exact canon_of (by decide +kernel)
    | exact quiet_of (by decide +kernel) | exact pinsFollow_of (by decide +kernel)

theorem witness_vectors_3 : ¬ (∀ (v : Fin 64) (addr : BitVec 64) (data : BitVec 32) (s : State), Canon s → s.package.held =
    false → s.pcie.d3hot = false → False) := by
  intro h
  refine h 37 0 0 sVec ?_ ?_ ?_
  all_goals first
    | decide +kernel | exact canon_of (by decide +kernel)

theorem witness_vectors_4 : ¬ (∀ (off : BitVec 26) (val : BitVec 32) (s : State) a, Canon s → Quiet s → a = off.toNat / 4 * 4 →
    Opens s a → ((∃ j, j < 4 ∧ a = EVT.VPIN j) ∨ a = EVT.PINCFG) → False) := by
  intro h
  refine h (BitVec.ofNat 26 (EVT.VPIN 3)) 0x30 (booted.put EVT.PINCFG F.EVT_PINCFG_OE 3) (EVT.VPIN 3) ?_ ?_ ?_ ?_ (.inl ⟨3, by
    decide, rfl⟩)
  all_goals first
    | decide +kernel | exact opens_of (by decide +kernel) | exact canon_of (by decide +kernel)
    | exact quiet_of (by decide +kernel)

theorem witness_vectors_4b : ¬ (∀ (off : BitVec 26) (val : BitVec 32) (s : State) a, Canon s → Quiet s → a = off.toNat / 4 * 4 →
    Opens s a → ((∃ j, j < 4 ∧ a = EVT.VPIN j) ∨ a = EVT.PINCFG) → False) := by
  intro h
  refine h (BitVec.ofNat 26 EVT.PINCFG) 0x3 booted EVT.PINCFG ?_ ?_ ?_ ?_ (.inr rfl)
  all_goals first
    | decide +kernel | exact opens_of (by decide +kernel) | exact canon_of (by decide +kernel)
    | exact quiet_of (by decide +kernel)

theorem witness_pcie_link_1 : ¬ (∀ (speed width : BitVec 4) (s : State), Canon s → s.package.held = false → s.rf HIF.STATUS
    F.HIF_STATUS_HOSTSEL ≠ 3 → 1 ≤ speed.toNat → speed.toNat ≤ 4 → (width = 4 ∨ width = 8) → False) := by
  intro h
  refine h 3 8 booted ?_ ?_ ?_ ?_ ?_ (.inr rfl)
  all_goals first
    | decide +kernel | exact canon_of (by decide +kernel)

theorem witness_pcie_link_2 : ¬ (∀ (e : LinkEvt) (s : State), Canon s → Quiet s → s.package.held = false → False) := by
  intro h
  refine h .d3hot (sDma 0) ?_ ?_ ?_
  all_goals first
    | decide +kernel | exact canon_of (by decide +kernel) | exact quiet_of (by decide +kernel)

theorem witness_flit_retries_1 : ¬ (∀ (lane : Fin 4) (att : Fin 8) (s : State), Canon s → Quiet s → s.package.held = false → bit
    (s.rf HNG.STATUS F.HNG_STATUS_LANES) lane = true → att.val < 7 → False) := by
  intro h
  refine h 2 6 booted ?_ ?_ ?_ ?_ ?_
  all_goals first
    | decide +kernel | exact canon_of (by decide +kernel) | exact quiet_of (by decide +kernel)

theorem witness_flit_retries_2 : ¬ (∀ (lane other : Fin 4) (s : State), Canon s → Quiet s → s.package.held = false → lane ≠
    other → bit (s.rf HNG.STATUS F.HNG_STATUS_LANES) lane = true → bit (s.rf HNG.STATUS F.HNG_STATUS_LANES) other = true →
    False) := by
  intro h
  refine h 2 0 booted ?_ ?_ ?_ ?_ ?_ ?_
  all_goals first
    | decide +kernel | exact canon_of (by decide +kernel) | exact quiet_of (by decide +kernel)

theorem witness_flit_retries_3 : ¬ (∀ (d : Fin 2) (port : Fin 32) (att : Fin 8) (s : State), s.package.held = false → att.val <
    7 → False) := by
  intro h
  refine h 1 5 6 booted ?_ ?_
  all_goals first
    | decide +kernel

theorem witness_flit_retries_4 : ¬ (∀ (d : Fin 2) (port : Fin 32) (s : State), s.package.held = false → False) := by
  intro h
  refine h 1 5 booted ?_
  all_goals first
    | decide +kernel

/-- A part with work on it: two clusters' slots and cores, a cask, and bytes of each memory. -/
def rich : State :=
  let s := ((booted.put (WS.STATUS 3) F.WS_STATUS_STATE 3).put (CSK.CFG 0 9) F.CSK_CFG_EN 1).put (DDR.STATUS1 1) F.DDR_STATUS1_TRAINED 1
  let s := (((s.put (DDR.CFG 1) F.DDR_CFG_CAP 4).put (DDR.CFG 1) F.DDR_CFG_EN 1).write 0x10000000 [1, 2]).write 0x31200000 [5]
  let s := (s.setSlot 3 7 { Slot.init with st := .live }).setSlot 4 7 { Slot.init with st := .live }
  (s.setCask 9 { Cask.init with pkts := [[0]] }).setCore 3 2 { Core.init with pc := 5 }
def request3 (p : Nat) : DvfsReq := ⟨0, 3, p, 0, none⟩
theorem witness_dvfs_1 : ¬ (∀ (island : BitVec 6) (pt : BitVec 2) (trim : BitVec 3) (s : State) r i, Canon s → Quiet s → Opens s
    GLB.DVFS_REQ → s.dvfs = [] → s.ready GLB.DVFS_STATUS = true → r = ⟨0, island.toNat, pt.toNat, trim.toNat, none⟩ → s.dvfsCode
    r = 0 → i = island.toNat → False) := by
  intro h
  refine h 3 1 0 rich (request3 1) 3 ?_ ?_ ?_ ?_ ?_ ?_ ?_ ?_
  all_goals first
    | decide +kernel | exact opens_of (by decide +kernel) | exact canon_of (by decide +kernel)
    | exact quiet_of (by decide +kernel)

theorem witness_dvfs_2 : ¬ (∀ (island : BitVec 6) (pt : BitVec 2) (trim : BitVec 3) (s : State) r, Canon s → Quiet s → Opens s
    GLB.DVFS_REQ → s.dvfs = [] → s.ready GLB.DVFS_STATUS = true → r = ⟨0, island.toNat, pt.toNat, trim.toNat, none⟩ → s.dvfsCode
    r ≠ 0 → False) := by
  intro h
  refine h 63 1 0 rich ⟨0, 63, 1, 0, none⟩ ?_ ?_ ?_ ?_ ?_ ?_ ?_
  all_goals first
    | decide +kernel | exact opens_of (by decide +kernel) | exact canon_of (by decide +kernel)
    | exact quiet_of (by decide +kernel)

theorem witness_dvfs_3 : ¬ (∀ (s : State) (r : DvfsReq) c, Canon s → s.dvfs = [{ r with code := some c }] → r.origin ≤ 2 → c ≤ 5
    → False) := by
  intro h
  refine h ({ rich with dvfs := [{ request3 1 with code := some 0 }] }) (request3 1) 0 ?_ ?_ ?_ ?_
  all_goals first
    | decide +kernel | exact canon_of (by decide +kernel)

theorem witness_temperatures_1 : ¬ (∀ l (s : State), Canon s → Quiet s → s.package.held = false → (s.validReadings l).any (fun e
    => decide (460 < e.2)) = false → False) := by
  intro h
  refine h ((List.range 47).map (fun i => if i = 3 then 440 else 200 - (i : Int))) rich ?_ ?_ ?_ ?_
  all_goals first
    | decide +kernel | exact canon_of (by decide +kernel) | exact quiet_of (by decide +kernel)

theorem witness_temperatures_2 : ¬ (∀ l (s : State), Canon s → Quiet s → s.package.held = false → (s.validReadings l).any (fun e
    => decide (460 < e.2)) = true → False) := by
  intro h
  refine h ((List.range 47).map (fun i => if i = 3 then 461 else 200 - (i : Int))) rich ?_ ?_ ?_ ?_
  all_goals first
    | decide +kernel | exact canon_of (by decide +kernel) | exact quiet_of (by decide +kernel)

theorem witness_temperatures_3 : ¬ (∀ (s : State), Canon s → Quiet s → s.package.held = false → False) := by
  intro h
  refine h ({ rich with thermal := { rich.thermal with hot := [3] } }) ?_ ?_ ?_
  all_goals first
    | decide +kernel | exact canon_of (by decide +kernel) | exact quiet_of (by decide +kernel)

theorem witness_temperatures_4 : ¬ (∀ (i : BitVec 6) (s : State), Canon s → Quiet s → s.package.held = false → i.toNat < 32 →
    101 ≤ sget s.thermal.cool 0 i.toNat → s.thermal.hot.contains i.toNat = false → s.thermal.forced.contains i.toNat = false →
    s.opCeil i.toNat < 3 → False) := by
  intro h
  refine h 3 ({ rich.put (opReg 3) F.GLB_OP_CLUSTER_CEIL 2 with thermal := { rich.thermal with cool := [(3, 101)] } }) ?_ ?_ ?_ ?_
    ?_ ?_ ?_ ?_
  all_goals first
    | decide +kernel | exact canon_of (by decide +kernel) | exact quiet_of (by decide +kernel)

def sOff : State := rich.put (WS.STATUS 3) F.WS_STATUS_STATE 0
def sEnter : State := { sOff.put GLB.PWR_STATUS fldReady 0 with sleep := ⟨true, none, none⟩ }
def sDorm : State := (sOff.put GLB.PWR F.GLB_PWR_STATE 1).put GLB.PWR F.GLB_PWR_WAKE_PIN 1
theorem witness_dormant_1 : ¬ (∀ (s : State), Opens s GLB.PWR → s.ready GLB.PWR_STATUS = true → s.sleep.exiting = none →
    s.dormant = false → (∀ n, n < 32 → s.clState n = stOff) → False) := by
  intro h
  refine h sOff ?_ ?_ ?_ ?_ ?_
  all_goals first
    | decide +kernel | exact opens_of (by decide +kernel)

theorem witness_dormant_2 : ¬ (∀ (s : State) c, Canon s → Quiet s → Opens s GLB.PWR → s.ready GLB.PWR_STATUS = true →
    s.sleep.exiting = none → ((s.dormant = true ∧ c = 0x0011) ∨ (s.dormant = false ∧ (∃ n, n < 32 ∧ s.clState n ≠ stOff) ∧ c =
    0x0010)) → False) := by
  intro h
  refine h rich 0x0010 ?_ ?_ ?_ ?_ ?_ (.inr ⟨by decide +kernel, ⟨3, by decide, by decide +kernel⟩, rfl⟩)
  all_goals first
    | decide +kernel | exact opens_of (by decide +kernel) | exact canon_of (by decide +kernel)
    | exact quiet_of (by decide +kernel)

theorem witness_dormant_2b : ¬ (∀ (s : State) c, Canon s → Quiet s → Opens s GLB.PWR → s.ready GLB.PWR_STATUS = true →
    s.sleep.exiting = none → ((s.dormant = true ∧ c = 0x0011) ∨ (s.dormant = false ∧ (∃ n, n < 32 ∧ s.clState n ≠ stOff) ∧ c =
    0x0010)) → False) := by
  intro h
  refine h sDorm 0x0011 ?_ ?_ ?_ ?_ ?_ (.inl ⟨by decide +kernel, rfl⟩)
  all_goals first
    | decide +kernel | exact opens_of (by decide +kernel) | exact canon_of (by decide +kernel)
    | exact quiet_of (by decide +kernel)

theorem witness_dormant_3 : ¬ (∀ (s : State), Canon s → s.sleep.entering = true → False) := by
  intro h
  refine h sEnter ?_ ?_
  all_goals first
    | decide +kernel | exact canon_of (by decide +kernel)

theorem witness_dormant_4 : ¬ (∀ (s : State), Opens s GLB.PWR → s.sleep = Sleep.init → s.dormant = true → s.ready GLB.PWR_STATUS
    = true → False) := by
  intro h
  refine h sDorm ?_ ?_ ?_ ?_
  all_goals first
    | decide +kernel | exact opens_of (by decide +kernel)

theorem witness_dormant_5 : ¬ (∀ ns (s : State), s.sleep = Sleep.init → s.dormant = true → s.rb GLB.PWR F.GLB_PWR_WAKE_PIN =
    true → 1000 ≤ ns → False) := by
  intro h
  refine h 1000 sDorm ?_ ?_ ?_ ?_
  all_goals first
    | decide +kernel

theorem witness_dormant_6 : ¬ (∀ ns (s : State), (s.rb GLB.PWR F.GLB_PWR_WAKE_PIN = false ∨ ns < 1000) → False) := by
  intro h
  refine h 999 sDorm ?_
  all_goals first
    | decide +kernel

theorem witness_dormant_7 : ¬ (∀ (s : State) c, Canon s → Quiet s → s.sleep.exiting = some c → c ≤ 3 → False) := by
  intro h
  refine h ({ sDorm with sleep := ⟨false, some 2, none⟩ }) 2 ?_ ?_ ?_ ?_
  all_goals first
    | decide +kernel | exact canon_of (by decide +kernel) | exact quiet_of (by decide +kernel)

theorem witness_package_resets_1 : ¬ (∀ (s : State), Canon s → False) := by
  intro h
  refine h rich ?_
  all_goals first
    | decide +kernel | exact canon_of (by decide +kernel)

theorem witness_package_resets_2 : ¬ (∀ (s : State), Canon s → s.package.held = false → False) := by
  intro h
  refine h rich ?_ ?_
  all_goals first
    | decide +kernel | exact canon_of (by decide +kernel)

def held (c : Nat) : State := { booted with package := ⟨true, false, [], false, true, c⟩ }
theorem witness_package_resets_3 : ¬ (∀ (s : State), s.package.held = true → False) := by
  intro h
  refine h (held 2) ?_
  all_goals first
    | decide +kernel

theorem witness_package_resets_4 : ¬ (∀ (h : BitVec 2) (s : State), Canon s → s.package.held = true → s.package.porst = false →
    s.package.pgoodLow = [] → (s.package.needFall = true → s.package.fell = true) → s.package.cause ≠ 16 → s.package.cause < 256
    → False) := by
  intro h
  refine h 2 (held 2) ?_ ?_ ?_ ?_ ?_ ?_ ?_
  all_goals first
    | decide +kernel | exact canon_of (by decide +kernel)

def sWdt : State := (((rich.put GLB.WDT_CFG F.GLB_WDT_CFG_EN 1).put GLB.WDT_CFG F.GLB_WDT_CFG_TIMEOUT 100).wv GLB.WDT_COUNT 100000)
theorem witness_warm_resets_1 : ¬ (∀ (i : Instr) (c : Nat) (s : State), ((i = .warmReset ∧ c = 4 ∧ Opens s GLB.RESET) ∨ (i =
    .watchdogReset ∧ c = 8 ∧ s.wdtOn = true ∧ s.wdtFull = true)) → Canon s → s.package.held = false → False) := by
  intro h
  refine h .warmReset 4 rich (.inl ⟨rfl, rfl, opens_of (by decide +kernel)⟩) ?_ ?_
  all_goals first
    | decide +kernel | exact canon_of (by decide +kernel)

theorem witness_warm_resets_1b : ¬ (∀ (i : Instr) (c : Nat) (s : State), ((i = .warmReset ∧ c = 4 ∧ Opens s GLB.RESET) ∨ (i =
    .watchdogReset ∧ c = 8 ∧ s.wdtOn = true ∧ s.wdtFull = true)) → Canon s → s.package.held = false → False) := by
  intro h
  refine h .watchdogReset 8 sWdt (.inr ⟨rfl, rfl, by decide +kernel, by decide +kernel⟩) ?_ ?_
  all_goals first
    | decide +kernel | exact canon_of (by decide +kernel)

theorem witness_warm_resets_2 : ¬ (∀ (cl : Fin 32) (s : State), Canon s → Quiet s → Opens s GLB.RESET → s.rehomes = [] → s.evacs
    = [] → False) := by
  intro h
  refine h 3 rich ?_ ?_ ?_ ?_ ?_
  all_goals first
    | decide +kernel | exact opens_of (by decide +kernel) | exact canon_of (by decide +kernel)
    | exact quiet_of (by decide +kernel)

theorem witness_watchdog_1 : ¬ (∀ (v : BitVec 32) (s : State), Canon s → Opens s GLB.WDT_CFG → s.rb GLB.WDT_CFG F.GLB_WDT_CFG_EN
    = false → bit v.toNat 31 = true → False) := by
  intro h
  refine h 0x80001234 rich ?_ ?_ ?_ ?_
  all_goals first
    | decide +kernel | exact opens_of (by decide +kernel) | exact canon_of (by decide +kernel)

theorem witness_watchdog_2 : ¬ (∀ (s : State), Canon s → Opens s GLB.WDT_KICK → (s.wdtOn && s.wdtFull) = false → False) := by
  intro h
  refine h (sWdt.wv GLB.WDT_COUNT 50000) ?_ ?_ ?_
  all_goals first
    | decide +kernel | exact opens_of (by decide +kernel) | exact canon_of (by decide +kernel)

theorem witness_watchdog_3 : ¬ (∀ (s : State), Canon s → Quiet s → s.wdtOn = true → s.wdtHalf = true → s.wdWarned = false →
    False) := by
  intro h
  refine h (sWdt.wv GLB.WDT_COUNT 50000) ?_ ?_ ?_ ?_ ?_
  all_goals first
    | decide +kernel | exact canon_of (by decide +kernel) | exact quiet_of (by decide +kernel)

theorem witness_supplies_1 : ¬ (∀ (i : Fin 3) (us : Nat) (s : State), Canon s → s.package.held = false → 50 ≤ us → False) := by
  intro h
  refine h 2 50 rich ?_ ?_ ?_
  all_goals first
    | decide +kernel | exact canon_of (by decide +kernel)

theorem witness_supplies_2 : ¬ (∀ (i : Fin 3) (us : Nat) (s : State), s.package.held = true → 50 ≤ us → i ≠ 1 → False) := by
  intro h
  refine h 2 50 (held 2) ?_ ?_ ?_
  all_goals first
    | decide +kernel

theorem witness_supplies_3 : ¬ (∀ (us : Nat) (s : State), s.package.held = true → 50 ≤ us → False) := by
  intro h
  refine h 50 (held 2) ?_ ?_
  all_goals first
    | decide +kernel

theorem witness_supplies_4 : ¬ (∀ (i : Fin 3) (s : State), Canon s → s.package.held = true → s.package.porst = true →
    s.package.pgoodLow = [i.val] → s.package.needFall = false → s.package.cause ≠ 16 → s.package.cause < 256 → False) := by
  intro h
  refine h 2 ({ booted with package := ⟨true, true, [2], false, false, 129⟩ }) ?_ ?_ ?_ ?_ ?_ ?_ ?_
  all_goals first
    | decide +kernel | exact canon_of (by decide +kernel)

theorem witness_supplies_5 : ¬ (∀ (i : Instr) (s : State), Canon s → Quiet s → s.package.held = false → ((∃ (p : Fin 3) (us :
    Nat), i = .pgoodLow p us ∧ us < 50 ∧ s.package.porst = true) ∨ (∃ n : BitVec 6, i = .regulatorOutOfRange n ∧ n.toNat < 47 ∧
    s.powered n.toNat = true)) → False) := by
  intro h
  refine h (.pgoodLow 2 49) rich ?_ ?_ ?_ (.inl ⟨2, 49, rfl, by decide +kernel, by decide +kernel⟩)
  all_goals first
    | decide +kernel | exact canon_of (by decide +kernel) | exact quiet_of (by decide +kernel)

theorem witness_supplies_5b : ¬ (∀ (i : Instr) (s : State), Canon s → Quiet s → s.package.held = false → ((∃ (p : Fin 3) (us :
    Nat), i = .pgoodLow p us ∧ us < 50 ∧ s.package.porst = true) ∨ (∃ n : BitVec 6, i = .regulatorOutOfRange n ∧ n.toNat < 47 ∧
    s.powered n.toNat = true)) → False) := by
  intro h
  refine h (.regulatorOutOfRange 46) rich ?_ ?_ ?_ (.inr ⟨46, rfl, by decide +kernel, by decide +kernel⟩)
  all_goals first
    | decide +kernel | exact canon_of (by decide +kernel) | exact quiet_of (by decide +kernel)

def sTrain : State := (rich.put (DDR.CFG 2) F.DDR_CFG_EN 1).put (DDR.STATUS 2) fldReady 0
theorem witness_ddr_training_1 : ¬ (∀ (c : Fin 4) (v : BitVec 32) (s : State), Canon s → Opens s (DDR.CFG c) → s.rb (DDR.CFG c)
    F.DDR_CFG_EN = false → bit v.toNat 31 = true → 1 ≤ bits v.toNat 29 24 → bits v.toNat 29 24 ≤ 32 → False) := by
  intro h
  refine h 2 0xA0001231 rich ?_ ?_ ?_ ?_ ?_ ?_
  all_goals first
    | decide +kernel | exact opens_of (by decide +kernel) | exact canon_of (by decide +kernel)

theorem witness_ddr_training_2 : ¬ (∀ (c : Fin 4) (v : BitVec 32) (s : State), Canon s → Opens s (DDR.CFG c) → s.rb (DDR.CFG c)
    F.DDR_CFG_EN = false → bit v.toNat 31 = true → (bits v.toNat 29 24 = 0 ∨ 32 < bits v.toNat 29 24) → False) := by
  intro h
  refine h 2 0xA1001231 rich ?_ ?_ ?_ ?_ ?_
  all_goals first
    | decide +kernel | exact opens_of (by decide +kernel) | exact canon_of (by decide +kernel)

theorem witness_ddr_training_3 : ¬ (∀ (c : Fin 4) (v : BitVec 32) (s : State), Canon s → Opens s (DDR.CFG c) → s.rb (DDR.CFG c)
    F.DDR_CFG_EN = true → bit v.toNat 31 = false → False) := by
  intro h
  refine h 1 0x20001231 rich ?_ ?_ ?_ ?_
  all_goals first
    | decide +kernel | exact opens_of (by decide +kernel) | exact canon_of (by decide +kernel)

theorem witness_ddr_training_4 : ¬ (∀ (c : Fin 4) (s : State), Canon s → Quiet s → s.package.held = false → s.ready (DDR.STATUS
    c) = false → s.rb (DDR.CFG c) F.DDR_CFG_EN = true → False) := by
  intro h
  refine h 2 sTrain ?_ ?_ ?_ ?_ ?_
  all_goals first
    | decide +kernel | exact canon_of (by decide +kernel) | exact quiet_of (by decide +kernel)

theorem witness_ddr_training_5 : ¬ (∀ (c : Fin 4) (s : State), Canon s → Quiet s → s.package.held = false → s.ready (DDR.STATUS
    c) = false → False) := by
  intro h
  refine h 2 sTrain ?_ ?_ ?_ ?_
  all_goals first
    | decide +kernel | exact canon_of (by decide +kernel) | exact quiet_of (by decide +kernel)


/-! ## Ethernet ports, host queues and time -/

theorem frameIn_of {s : State} {m : Fin 5} {frame f : List Byte} {ok : Bool} (h : (canonOk s &&
    !s.probes.any (fun e => e.2.armed && e.2.src == 5) && decide (s.probes = []) && !s.package.held && s.rb (MAC.CTRL m) F.MAC_CTRL_EN &&
    s.macLink m && !s.macLoop m && decide (s.rxFails m frame ok = none) && decide (f = frame.take (frame.length - 4))) = true) :
    FrameIn s m frame f ok := by
  simp only [Bool.and_eq_true, Bool.not_eq_true', decide_eq_true_eq] at h
  obtain ⟨⟨⟨⟨⟨⟨⟨⟨h1, h2⟩, h3⟩, h4⟩, h5⟩, h6⟩, h7⟩, h8⟩, h9⟩ := h
  exact ⟨canon_of h1, h2, h3, h4, h5, h6, h7, h8, h9⟩

/-- A frame of IPv4 and UDP from port 5000 to a port. -/
def udpFrame (port : Nat) (pay : List Byte) : List Byte :=
  let ip : List Byte := [0x45, 0] ++ beBytes 2 (28 + pay.length) ++ [0, 0, 0, 0, 64, 17, 0, 0, 10, 0, 0, 1, 10, 0, 0, 2]
  let ip := ip.take 10 ++ beBytes 2 (65535 - onesSum ip) ++ ip.drop 12
  [2, 1, 2, 3, 4, 5, 6, 7, 8, 9, 10, 11, 0x08, 0x00] ++ ip ++ beBytes 2 5000 ++ beBytes 2 port ++ beBytes 2 (8 + pay.length) ++ [0, 0] ++ pay
def rtpPay : List Byte := [0x80, 0, 0, 5, 0, 0, 0, 9, 0, 0, 0, 7] ++ List.replicate 60 3
def frameU : List Byte := udpFrame 6000 rtpPay
def frameF : List Byte := frameU ++ [0, 0, 0, 0]
/-- MAC2 without RS-FEC, and with its link up. -/
def sMac0 : State :=
  (((booted.put (MAC.CTRL 2) F.MAC_CTRL_EN 1).put (MAC.CTRL 2) F.MAC_CTRL_TXEN 1).put (MAC.CFG 2) F.MAC_CFG_PROMISC 1).put (MAC.CFG 2)
    F.MAC_CFG_RSFEC 0
def sMac : State := after sMac0 (.linkChange 2 1)
def parsedU : Parsed := parseFrame (sMac.tpidOf 2) frameU

theorem judged_of {s : State} {m : Fin 5} {frame f : List Byte} {ok : Bool} {p : Parsed} {v : Verdict} (a : FrameIn s m frame f ok)
    (h : (!(decide (beAt f 12 2 = 0x8808) && decide (beAt f 14 2 = 1)) && !s.dormant && decide (p = parseFrame (s.tpidOf m) f) &&
      decide (s.verdict p = v)) = true) : Judged s m frame f ok p v := by
  simp only [Bool.and_eq_true, Bool.not_eq_true', Bool.and_eq_false_iff, decide_eq_true_eq, decide_eq_false_iff_not] at h
  obtain ⟨⟨⟨h1, h2⟩, h3⟩, h4⟩ := h
  exact ⟨a, fun e => h1.elim (fun n => n e.1) (fun n => n e.2), h2, h3, h4⟩
theorem witness_link_changes_1 : ¬ (∀ (m : Fin 5) (lock : BitVec 8) (s : State) fec up, Canon s → Quiet s → m ≠ 4 → fec =
    (s.macCfg m F.MAC_CFG_RSFEC == 1 && s.macCfg m F.MAC_CFG_MODE == 0) → up = (lock[0] && (!fec || lock[1]) && !lock[2]) →
    False) := by
  intro h
  refine h 2 1 sMac0 false true ?_ ?_ ?_ ?_ ?_
  all_goals first
    | decide +kernel | exact canon_of (by decide +kernel) | exact quiet_of (by decide +kernel)

theorem witness_link_changes_2 : ¬ (∀ (lock : BitVec 8) (s : State), Canon s → Quiet s → False) := by
  intro h
  refine h 8 sMac0 ?_ ?_
  all_goals first
    | decide +kernel | exact canon_of (by decide +kernel) | exact quiet_of (by decide +kernel)

theorem witness_frames_in_1 : ¬ (∀ (m : Fin 5) frame ok (s : State) c, Canon s → Quiet s → s.package.held = false → s.rb
    (MAC.CTRL m) F.MAC_CTRL_EN = true → s.macLink m = true → s.macLoop m = false → s.rxFails m frame ok = some c → False) := by
  intro h
  refine h 2 frameF false sMac (MAC.FCSERR_LO 2) ?_ ?_ ?_ ?_ ?_ ?_ ?_
  all_goals first
    | decide +kernel | exact canon_of (by decide +kernel) | exact quiet_of (by decide +kernel)

theorem witness_frames_in_1b : ¬ (∀ (m : Fin 5) frame ok (s : State) c, Canon s → Quiet s → s.package.held = false → s.rb
    (MAC.CTRL m) F.MAC_CTRL_EN = true → s.macLink m = true → s.macLoop m = false → s.rxFails m frame ok = some c → False) := by
  intro h
  refine h 2 (frameF.take 63) true sMac (MAC.RUNT_LO 2) ?_ ?_ ?_ ?_ ?_ ?_ ?_
  all_goals first
    | decide +kernel | exact canon_of (by decide +kernel) | exact quiet_of (by decide +kernel)

theorem witness_frames_in_2 : ¬ (∀ (m : Fin 5) frame f ok (s : State) p, Judged s m frame f ok p .miss → s.rf CLS.CFG
    F.CLS_CFG_MISSACT ≠ 1 → False) := by
  intro h
  refine h 2 frameF frameU true (sMac.put CLS.CFG F.CLS_CFG_EN 1) parsedU (judged_of (frameIn_of (by decide +kernel))
    (by decide +kernel)) ?_
  all_goals first
    | decide +kernel | exact canon_of (by decide +kernel) | exact quiet_of (by decide +kernel)
    | constructor <;> first
        | decide +kernel | exact canon_of (by decide +kernel) | exact quiet_of (by decide +kernel)

def imageU : List Byte := lookKey parsedU false 6000 ++ [5, 0, 0, 0] ++ List.replicate 20 0
def sHit : State := { sMac.put CLS.CFG F.CLS_CFG_EN 1 with cls := [⟨imageU, true, 0, [], 77⟩] }
theorem witness_frames_in_3 : ¬ (∀ (m : Fin 5) (frame f : List Byte) (ok : Bool) (s : State) (p : Parsed) (img u : List Byte),
    Judged s m frame f ok p (.hit img 0) → u = slice f p.off p.len → rtpVersion u = 2 → (rtpHeader u).isSome = true → (s.srtpx
    (imgTid img) = 0 → (rtpBody u).isSome = true) → isMuxed img u = false → (u.getD 1 0).toNat % 128 = imgPt img → False) := by
  intro h
  refine h 2 frameF frameU true sHit parsedU imageU rtpPay (judged_of (frameIn_of (by decide +kernel)) (by decide +kernel)) ?_ ?_
    ?_ ?_ ?_ ?_
  all_goals first
    | decide +kernel | exact canon_of (by decide +kernel) | exact quiet_of (by decide +kernel)
    | constructor <;> first
        | decide +kernel | exact canon_of (by decide +kernel) | exact quiet_of (by decide +kernel)

def sRing0 : State :=
  ((((((sMac.put CLS.CFG F.CLS_CFG_EN 1).put CLS.CFG F.CLS_CFG_MISSACT 1).put CLS.CFG F.CLS_CFG_MISSQ 7).put (MACM.RQ_CFG 7) F.MACM_RQ_CFG_EN
    1).setReg (MACM.RQ_BASELO 7) 0x5000).put (MACM.RQ_TAIL 7) F.MACM_RQ_TAIL_TAIL 0).put (MACM.RQ_HEAD 7) F.MACM_RQ_HEAD_HEAD 65535
def sRing : State := { sRing0 with hostMem := [(sRing0.rqAt 7 65535 + 1, 0x90)] }
theorem witness_frames_in_4 : ¬ (∀ (m : Fin 5) frame f ok (s : State) p q a b, Judged s m frame f ok p .miss → s.rf CLS.CFG
    F.CLS_CFG_MISSACT = 1 → q = s.rf CLS.CFG F.CLS_CFG_MISSQ → s.rqOn q = true → s.rqDpa q = false → s.divided = false → s.rf
    (MACM.RQ_CFG q) F.MACM_RQ_CFG_MODE = 0 → s.rf (MACM.RQ_CFG q) F.MACM_RQ_CFG_TSB < 4 → 1 ≤ f.length → f.length ≤ s.rqBuf q →
    s.rf (MACM.RQ_TAIL q) F.MACM_RQ_TAIL_TAIL ≠ s.rqHead q → a = s.rqAt q (s.rqHead q) → s.ringPoison false a 8 = false → b =
    leNat (s.hostBytes a 8) → (b + f.length ≤ a + 16 ∨ a + 32 ≤ b) → False) := by
  intro h
  refine h 2 frameF frameU true sRing parsedU 7 (sRing.rqAt 7 65535) 0x9000 (judged_of (frameIn_of (by decide +kernel))
    (by decide +kernel)) ?_ ?_ ?_ ?_ ?_ ?_ ?_ ?_ ?_ ?_ ?_ ?_ ?_ ?_
  all_goals first
    | decide +kernel | exact canon_of (by decide +kernel) | exact quiet_of (by decide +kernel)
    | constructor <;> first
        | decide +kernel | exact canon_of (by decide +kernel) | exact quiet_of (by decide +kernel)

def pauseU : List Byte := [1, 0x80, 0xC2, 0, 0, 1, 6, 7, 8, 9, 10, 11, 0x88, 8, 0, 1, 0x12, 0x34] ++ List.replicate 42 0
def sPause : State := sMac.put (MAC.CFG 2) F.MAC_CFG_PAUSERX 1
theorem witness_frames_in_5 : ¬ (∀ (m : Fin 5) frame f ok (s : State), FrameIn s m frame f ok → beAt f 12 2 = 0x8808 → beAt f 14
    2 = 1 → s.macCfg m F.MAC_CFG_PAUSERX = 1 → s.halfDuplex m = false → (s.mac m).ignore ≤ s.tb2nsOn (macDie m) → beAt f 16 2 ≠
    0 → False) := by
  intro h
  refine h 2 (pauseU ++ [0, 0, 0, 0]) pauseU true sPause (frameIn_of (by decide +kernel)) ?_ ?_ ?_ ?_ ?_ ?_
  all_goals first
    | decide +kernel | exact canon_of (by decide +kernel) | exact quiet_of (by decide +kernel)
    | constructor <;> first
        | decide +kernel | exact canon_of (by decide +kernel) | exact quiet_of (by decide +kernel)

def sWake : State :=
  ((sMac.put GLB.PWR F.GLB_PWR_STATE 1).put GLB.PWR F.GLB_PWR_WAKE_MAC 0xF).put (MAC.WCFG 2 3) F.MAC_WCFG_EN 1
theorem witness_frames_in_6 : ¬ (∀ (m : Fin 5) frame f ok (s : State) i, FrameIn s m frame f ok → (beAt f 12 2 ≠ 0x8808 ∨ beAt f
    14 2 ≠ 1) → s.dormant = true → s.sleep = Sleep.init → (if m = 4 then s.rb GLB.PWR F.GLB_PWR_WAKE_MACM else bit (s.rf GLB.PWR
    F.GLB_PWR_WAKE_MAC) m) = true → i < 4 → s.wakeMatch m f i = true → False) := by
  intro h
  refine h 2 frameF frameU true sWake 3 (frameIn_of (by decide +kernel)) ?_ ?_ ?_ ?_ ?_ ?_
  all_goals first
    | decide +kernel | exact canon_of (by decide +kernel) | exact quiet_of (by decide +kernel)
    | constructor <;> first
        | decide +kernel | exact canon_of (by decide +kernel) | exact quiet_of (by decide +kernel)

/-- The egress cask of MAC0, cask 0 of die 0, with the packet of words d and b at its head and another behind it. -/
def sTx (d b : CWord) : State :=
  let s := (((booted.put (MAC.CTRL 0) F.MAC_CTRL_TXEN 1).put (MAC.CFG 0) F.MAC_CFG_RSFEC 0).put (CSK.CFG 0 0) F.CSK_CFG_EN 1).put (CSK.CFG 0 0)
    F.CSK_CFG_DEPTH 4
  (((after s (.linkChange 0 1)).setCask 0 { Cask.init with pkts := [[0, 3], [1]] }).storeWord 0 0 d).storeWord 0 3 b
/-- LEN 16, TAG 0x1234 and a return record to cask 5. -/
def descT : CWord := ⟨BitVec.ofNat 128 (16 + 0x1234 * 2 ^ 48 + 2 ^ 79 + 5 * 2 ^ 64), false⟩
def bodyT : CWord := ⟨0x1211100f0e0d0c0b0a09080706050403, false⟩
def sTx1 : State := sTx descT bodyT
theorem witness_frames_taken_1 : ¬ (∀ (m : Fin 5) (s : State) x d body rest v f, TxFree s m → s.txQueues m = [] → (s.egressPrio
    m).isSome = true → x = s.egressCask m → Heads s x (d :: body) rest → badEgress (d :: body) = false → v = d.val.toNat → bit v
    16 = false → bit v 18 = false → f = (wordBytes body).take (v % 2 ^ 14) → max 60 f.length + 4 ≤ s.macLimit m (s.tagsOf m f) →
    False) := by
  intro h
  refine h 0 sTx1 0 descT [bodyT] [[1]] descT.val.toNat (wordBytes [bodyT]) ?_ ?_ ?_ ?_ (heads_of (ps := [0, 3])
    (by decide +kernel)) ?_ ?_ ?_ ?_ ?_ ?_
  all_goals first
    | decide +kernel | exact canon_of (by decide +kernel) | exact quiet_of (by decide +kernel)
    | constructor <;> first
        | decide +kernel | exact canon_of (by decide +kernel) | exact quiet_of (by decide +kernel)

def descB : CWord := ⟨BitVec.ofNat 128 (20 + 2 ^ 16 + 77 * 2 ^ 96), false⟩
def sTx2 : State := { (sTx descB bodyT).setCask 0 { Cask.init with pkts := [[0], [1]] } with txBufs := [(77, List.replicate 30 6)] }
theorem witness_frames_taken_2 : ¬ (∀ (m : Fin 5) (s : State) x d rest v a g f, TxFree s m → s.txQueues m = [] → (s.egressPrio
    m).isSome = true → x = s.egressCask m → Heads s x [d] rest → badEgress [d] = false → v = d.val.toNat → bit v 16 = true → bit
    v 18 = false → a = v / 2 ^ 96 % 2 ^ 32 → s.txBufs.find? (fun e => e.1 == a) = some (a, g) → f = g.take (v % 2 ^ 14) → max 60
    f.length + 4 ≤ s.macLimit m (s.tagsOf m f) → False) := by
  intro h
  refine h 0 sTx2 0 descB [[1]] descB.val.toNat 77 (List.replicate 30 6) (List.replicate 20 6) ?_ ?_ ?_ ?_ (heads_of (ps := [0])
    (by decide +kernel)) ?_ ?_ ?_ ?_ ?_ ?_ ?_ ?_
  all_goals first
    | decide +kernel | exact canon_of (by decide +kernel) | exact quiet_of (by decide +kernel)
    | constructor <;> first
        | decide +kernel | exact canon_of (by decide +kernel) | exact quiet_of (by decide +kernel)

def sTx3 : State := sTx descT ⟨1, true⟩
theorem witness_frames_taken_3 : ¬ (∀ (m : Fin 5) (s : State) x p rest, TxFree s m → s.txQueues m = [] → (s.egressPrio m).isSome
    = true → x = s.egressCask m → Heads s x p rest → badEgress p = true → False) := by
  intro h
  refine h 0 sTx3 0 [descT, ⟨1, true⟩] [[1]] ?_ ?_ ?_ ?_ (heads_of (ps := [0, 3]) (by decide +kernel)) ?_
  all_goals first
    | decide +kernel | exact canon_of (by decide +kernel) | exact quiet_of (by decide +kernel)
    | constructor <;> first
        | decide +kernel | exact canon_of (by decide +kernel) | exact quiet_of (by decide +kernel)

/-- A descriptor of 70 bytes in the ring of transmit queue 3, which MAC0 serves. -/
def sTq0 : State :=
  (((((booted.put (MAC.CTRL 0) F.MAC_CTRL_TXEN 1).put (MAC.CFG 0) F.MAC_CFG_RSFEC 0).put (MACM.TQ_CFG 3) F.MACM_TQ_CFG_EN 1).put
    (MACM.TQ_CFG 3) F.MACM_TQ_CFG_MAC 0).setReg (MACM.TQ_BASELO 3) 0x6000).put (MACM.TQ_TAIL 3) F.MACM_TQ_TAIL_TAIL 1
def sTq : State :=
  { after sTq0 (.linkChange 0 1) with
    hostMem := [(0x6001, 0x80), (0x6008, 70), (0x600B, 3)] ++ (List.range 70).map (fun i => (0x8000 + i, BitVec.ofNat 8 (i + 1))) }
def frameQ : List Byte := (List.range 70).map (fun i => BitVec.ofNat 8 (i + 1))
theorem witness_frames_taken_4 : ¬ (∀ (m : Fin 5) (s : State) q f w, TxFree s m → s.txQueues m = [q] → s.egressPrio m = none →
    s.txSends = [] → s.tqPlan m q = .inr [f] → w = leAt (s.tqDesc q (s.tqHead q)) 8 4 → bit w 28 = false → False) := by
  intro h
  refine h 0 sTq 3 frameQ (leAt (sTq.tqDesc 3 (sTq.tqHead 3)) 8 4) ?_ ?_ ?_ ?_ ?_ ?_ ?_
  all_goals first
    | decide +kernel | exact canon_of (by decide +kernel) | exact quiet_of (by decide +kernel)
    | constructor <;> first
        | decide +kernel | exact canon_of (by decide +kernel) | exact quiet_of (by decide +kernel)

def sendingT : Sending := ⟨padFrame frameQ, some 0, true, 0x1234, none, none, none, 0⟩
def sCur (x : Sending) : State := sTx1.setMac 0 { sTx1.mac 0 with cur := some x }
theorem witness_frames_end_1 : ¬ (∀ (m : Fin 5) (s : State), s.dormant = true → False) := by
  intro h
  refine h 2 sWake ?_
  all_goals first
    | decide +kernel

theorem witness_frames_end_2 : ¬ (∀ (m : Fin 5) (s : State) x, Canon s → Quiet s → s.probes = [] → s.dormant = false → (s.mac
    m).cur = some x → x.sent = true → x.ret = none → x.tq = none → s.macLoop m = false → False) := by
  intro h
  refine h 0 (sCur sendingT) sendingT ?_ ?_ ?_ ?_ ?_ ?_ ?_ ?_ ?_
  all_goals first
    | decide +kernel | exact canon_of (by decide +kernel) | exact quiet_of (by decide +kernel)

def sendingR : Sending := { sendingT with sent := false, status := some 3, ret := some 5 }
def sRet : State := ((sCur sendingR).put (CSK.CFG 0 5) F.CSK_CFG_EN 1).put (CSK.CFG 0 5) F.CSK_CFG_DEPTH 4
theorem witness_frames_end_3 : ¬ (∀ (m : Fin 5) (s : State) x h c, Canon s → Quiet s → s.probes = [] → s.dormant = false →
    (s.mac m).cur = some x → x.sent = false → x.ret = some h → x.status = some c → x.tq = none → s.divided = false → Takes s h
    (.mac m) 1 → False) := by
  intro h
  refine h 0 sRet sendingR 5 3 ?_ ?_ ?_ ?_ ?_ ?_ ?_ ?_ ?_ ?_ ?_
  all_goals first
    | decide +kernel | exact canon_of (by decide +kernel) | exact quiet_of (by decide +kernel)
    | constructor <;> first
        | decide +kernel | exact canon_of (by decide +kernel) | exact quiet_of (by decide +kernel)

def sendingQ : Sending := { sendingT with sent := false, status := some 3, tq := some (3, 65535, true) }
theorem witness_frames_end_4 : ¬ (∀ (m : Fin 5) (s : State) x q eop c, Canon s → Quiet s → s.probes = [] → s.dormant = false →
    (s.mac m).cur = some x → x.sent = false → x.ret = none → x.status = some c → x.tq = some (q, eop, true) → s.tqDpa q = false
    → False) := by
  intro h
  refine h 0 (sTq.setMac 0 { sTq.mac 0 with cur := some sendingQ }) sendingQ 3 65535 3 ?_ ?_ ?_ ?_ ?_ ?_ ?_ ?_ ?_ ?_
  all_goals first
    | decide +kernel | exact canon_of (by decide +kernel) | exact quiet_of (by decide +kernel)

def sPaused : State := after sPause (.frameReceive 2 (pauseU ++ [0, 0, 0, 0]) true)
def sPauseLate : State := { sPaused.setTb 2 ⟨2, 250000000, 0⟩ with clockwork := { sPaused.clockwork with mirror := #v[⟨0, 0, 0⟩, ⟨0, 0, 0⟩, ⟨2, 250000000, 0⟩, ⟨0, 0, 0⟩] } }
theorem witness_pause_and_collisions_1 : ¬ (∀ (m : Fin 5) (s : State) (u : Nat), Canon s → (s.mac m).untilNs = some u → u ≤
    s.tb2nsOn (macDie m) → False) := by
  intro h
  refine h 2 sPauseLate (sPaused.quantaNs 2 0x1234) ?_ ?_ ?_
  all_goals first
    | decide +kernel | exact canon_of (by decide +kernel)

def sLong : State := sPauseLate.setMac 2 { sPauseLate.mac 2 with since := some 0, untilNs := some 3000000000 }
theorem witness_pause_and_collisions_2 : ¬ (∀ (m : Fin 5) (s : State) (b u : Nat), Canon s → Quiet s → (s.mac m).since = some b
    → (s.mac m).untilNs = some u → b + s.wdNs m < u + 1000 → b + s.wdNs m ≤ s.tb2nsOn (macDie m) → False) := by
  intro h
  refine h 2 sLong 0 3000000000 ?_ ?_ ?_ ?_ ?_ ?_
  all_goals first
    | decide +kernel | exact canon_of (by decide +kernel) | exact quiet_of (by decide +kernel)

def bigArrival : Arrival := ⟨5, [], 0, [], false, 0, 2, 100000⟩
def sFull : State := { sMac.put (MAC.CFG 2) F.MAC_CFG_PAUSETX 1 with plyIn := [bigArrival] }
theorem witness_pause_and_collisions_3 : ¬ (∀ (m : Fin 5) (s : State) f, Canon s → Quiet s → s.package.held = false → s.dormant
    = false → s.macCfg m F.MAC_CFG_PAUSETX ≠ 0 → s.rb (MAC.CTRL m) F.MAC_CTRL_TXEN = true → s.macLink m = true → s.halfDuplex m
    = false → s.macLoop m = false → 4 * (rxSize m - s.rxUsed m) < rxSize m → (s.mac m).pausing = false → f = s.pauseFrame m
    0xFFFF → False) := by
  intro h
  refine h 2 sFull (sFull.pauseFrame 2 0xFFFF) ?_ ?_ ?_ ?_ ?_ ?_ ?_ ?_ ?_ ?_ ?_ ?_
  all_goals first
    | decide +kernel | exact canon_of (by decide +kernel) | exact quiet_of (by decide +kernel)

def sColl : State :=
  let s := (booted.put (MAC.CFG 4) F.MAC_CFG_MODE 1).put (MAC.CFG 4) fldDuplex 0
  s.setMac 4 { Mac.init with cur := some sendingT, collisions := 15 }
theorem witness_pause_and_collisions_4 : ¬ (∀ (late : Bool) (s : State) (f : Sending), Canon s → Quiet s → (s.mac 4).cur = some
    f → s.halfDuplex 4 = true → f.sent = true → False) := by
  intro h
  refine h false sColl sendingT ?_ ?_ ?_ ?_ ?_
  all_goals first
    | decide +kernel | exact canon_of (by decide +kernel) | exact quiet_of (by decide +kernel)

theorem witness_queue_tails_and_mdio_1 : ¬ (∀ (q : Fin 64) (tail : BitVec 16) (cells : List (Nat × Byte)) (s : State), Canon s →
    Opens s (MACM.RQ_TAIL q) → False) := by
  intro h
  refine h 63 0xFFFF [(0x6000, 5)] booted ?_ ?_
  all_goals first
    | decide +kernel | exact opens_of (by decide +kernel) | exact canon_of (by decide +kernel)

theorem witness_queue_tails_and_mdio_2 : ¬ (∀ (q : Fin 16) (tail : BitVec 16) (cells : List (Nat × Byte)) (s : State), Canon s →
    Opens s (MACM.TQ_TAIL q) → False) := by
  intro h
  refine h 15 0xFFFF [(0x6000, 5)] booted ?_ ?_
  all_goals first
    | decide +kernel | exact opens_of (by decide +kernel) | exact canon_of (by decide +kernel)

theorem witness_queue_tails_and_mdio_3 : ¬ (∀ (phy reg : BitVec 5) (data : BitVec 16) (i : Instr) (op : Nat) (s : State), Canon
    s → Opens s MACM.MDIOCMD → s.ready MACM.MDIO_STATUS = true → ((i = .mdioC22Write phy reg data ∧ op = 1) ∨ (i =
    .mdioC45Address phy reg data ∧ op = 4) ∨ (i = .mdioC45Write phy reg data ∧ op = 5)) → False) := by
  intro h
  refine h 31 4 0x1234 (.mdioC45Address 31 4 0x1234) 4 booted ?_ ?_ ?_ (.inr (.inl ⟨rfl, rfl⟩))
  all_goals first
    | decide +kernel | exact opens_of (by decide +kernel) | exact canon_of (by decide +kernel)

theorem witness_queue_tails_and_mdio_4 : ¬ (∀ (phy reg : BitVec 5) (data : BitVec 16) (i : Instr) (op : Nat) (s : State), Canon
    s → Opens s MACM.MDIOCMD → s.ready MACM.MDIO_STATUS = true → ((i = .mdioC22Read phy reg data ∧ op = 0) ∨ (i = .mdioC45Read
    phy reg data ∧ op = 6)) → False) := by
  intro h
  refine h 31 4 0x1234 (.mdioC22Read 31 4 0x1234) 0 booted ?_ ?_ ?_ (.inl ⟨rfl, rfl⟩)
  all_goals first
    | decide +kernel | exact opens_of (by decide +kernel) | exact canon_of (by decide +kernel)


def tbAt (a b : Nat) : TimeBase := ⟨BitVec.ofNat 48 a, BitVec.ofNat 32 b, 77⟩
def sTime : State :=
  { booted.put (TIME.DCFG 0) F.TIME_DCFG_EN 1 with tbs := #v[tbAt (2 ^ 48 - 1) 999999999, tbAt 5 6, tbAt 7 8, tbAt 9 999999998] }
theorem witness_ticks_1 : ¬ (∀ (s : State), Canon s → Quiet s → s.package.held = false → False) := by
  intro h
  refine h sTime ?_ ?_ ?_
  all_goals first
    | decide +kernel | exact canon_of (by decide +kernel) | exact quiet_of (by decide +kernel)

theorem witness_ticks_2 : ¬ (∀ (s : State), s.package.held = true → False) := by
  intro h
  refine h (held 2) ?_
  all_goals first
    | decide +kernel

theorem witness_adjustments_1 : ¬ (∀ (b : Fin 2) (hi : Bool) (v : BitVec 32) (s : State), Canon s → Quiet s → Opens s (if hi
    then TIME.INCHI b else TIME.INCLO b) → False) := by
  intro h
  refine h 1 false 0xFFFFFFFF sTime ?_ ?_ ?_
  all_goals first
    | decide +kernel | exact opens_of (by decide +kernel) | exact canon_of (by decide +kernel)
    | exact quiet_of (by decide +kernel)

theorem witness_adjustments_2 : ¬ (∀ (b : Fin 2) (v : BitVec 32) (s : State), Canon s → Quiet s → Opens s (TIME.ADJ b) → False)
    := by
  intro h
  refine h 0 0xFFFFFFFF sTime ?_ ?_ ?_
  all_goals first
    | decide +kernel | exact opens_of (by decide +kernel) | exact canon_of (by decide +kernel)
    | exact quiet_of (by decide +kernel)

def sVal (b : Nat) : State := ((sTime.put (TIME.VSECHI b) F.TIME_VSECHI_VSECHI 0xFFFF).wv (TIME.VSECLO b) 0xFFFFFFFF).put (TIME.VNS b) F.TIME_VNS_VNS 999999999
theorem witness_base_commands_1 : ¬ (∀ (b : Fin 4) (s : State), Canon s → Quiet s → Opens s (TIME.CMD b) → s.ready
    (TIME.CMD_STATUS b) = true → b ≠ 2 → s.cmdNs b < 1000000000 → False) := by
  intro h
  refine h 3 (sVal 3) ?_ ?_ ?_ ?_ ?_ ?_
  all_goals first
    | decide +kernel | exact opens_of (by decide +kernel) | exact canon_of (by decide +kernel)
    | exact quiet_of (by decide +kernel)

theorem witness_base_commands_2 : ¬ (∀ (b : Fin 4) neg (s : State) d, Canon s → Quiet s → Opens s (TIME.CMD b) → s.ready
    (TIME.CMD_STATUS b) = true → b ≠ 2 → s.cmdNs b < 1000000000 → d = (s.cmdSec b * 1000000000 + s.cmdNs b) * 2 ^ 32 → (neg =
    true → d ≤ (s.tb b).total) → False) := by
  intro h
  refine h 0 true (sVal 0) (((sVal 0).cmdSec 0 * 1000000000 + (sVal 0).cmdNs 0) * 2 ^ 32) ?_ ?_ ?_ ?_ ?_ ?_ ?_ ?_
  all_goals first
    | decide +kernel | exact opens_of (by decide +kernel) | exact canon_of (by decide +kernel)
    | exact quiet_of (by decide +kernel)

theorem witness_base_commands_3 : ¬ (∀ (i : Instr) (s : State), Canon s → Opens s (TIME.CMD 2) → s.ready (TIME.CMD_STATUS 2) =
    true → (i = .tbSet 2 ∨ ∃ neg, i = .tbStep 2 neg) → False) := by
  intro h
  refine h (.tbStep 2 true) sTime ?_ ?_ ?_ (.inr ⟨true, rfl⟩)
  all_goals first
    | decide +kernel | exact opens_of (by decide +kernel) | exact canon_of (by decide +kernel)

theorem witness_base_commands_4 : ¬ (∀ (s : State), Canon s → Quiet s → Opens s (TIME.CMD 2) → s.ready (TIME.CMD_STATUS 2) =
    true → False) := by
  intro h
  refine h sTime ?_ ?_ ?_ ?_
  all_goals first
    | decide +kernel | exact opens_of (by decide +kernel) | exact canon_of (by decide +kernel)
    | exact quiet_of (by decide +kernel)

theorem witness_base_commands_5 : ¬ (∀ (s : State), Canon s → Opens s TIME.CAPTURE → s.ready TIME.CAP_STATUS = true → False) :=
    by
  intro h
  refine h sTime ?_ ?_ ?_
  all_goals first
    | decide +kernel | exact opens_of (by decide +kernel) | exact canon_of (by decide +kernel)

def sTrack : State :=
  let s := sTime.put TIME.STATUS (domField 0) 1
  { s with clockwork := { s.clockwork with ticks := 10 ^ 14 } }
theorem witness_sources_1 : ¬ (∀ (b : Fin 2) (s : State), Canon s → Quiet s → s.holdDue b = true → False) := by
  intro h
  refine h 0 sTrack ?_ ?_ ?_
  all_goals first
    | decide +kernel | exact canon_of (by decide +kernel) | exact quiet_of (by decide +kernel)

theorem witness_sources_2 : ¬ (∀ (v : BitVec 32) (s : State) src, Canon s → Quiet s → Opens s TIME.TB2CTL → fget
    F.TIME_TB2CTL_WSEL v = 0 → src = fget F.TIME_TB2CTL_SRC v → src ≠ 3 → s.rf TIME.STATUS F.TIME_STATUS_SRC ≠ src → False) :=
    by
  intro h
  refine h 1 (sTime.put TIME.STATUS F.TIME_STATUS_SRC 0) 1 ?_ ?_ ?_ ?_ ?_ ?_ ?_
  all_goals first
    | decide +kernel | exact opens_of (by decide +kernel) | exact canon_of (by decide +kernel)
    | exact quiet_of (by decide +kernel)

theorem witness_sources_3 : ¬ (∀ (v : BitVec 32) (s : State), Canon s → Opens s TIME.TB2CTL → fget F.TIME_TB2CTL_WSEL v = 1 →
    False) := by
  intro h
  refine h 0x50A sTime ?_ ?_ ?_
  all_goals first
    | decide +kernel | exact opens_of (by decide +kernel) | exact canon_of (by decide +kernel)

theorem witness_sources_4 : ¬ (∀ (s : State), Canon s → s.divided = false → False) := by
  intro h
  refine h sTime ?_ ?_
  all_goals first
    | decide +kernel | exact canon_of (by decide +kernel)

theorem witness_sources_5 : ¬ (∀ (s : State), Canon s → Quiet s → s.rb TIME.STATUS F.TIME_STATUS_REFACT = true → False) := by
  intro h
  refine h (sTime.put TIME.STATUS F.TIME_STATUS_REFACT 1) ?_ ?_ ?_
  all_goals first
    | decide +kernel | exact canon_of (by decide +kernel) | exact quiet_of (by decide +kernel)

def sPps (p : Nat) : State := { sTime with clockwork := { sTime.clockwork with ticks := 60000, ppsAt := some p } }
theorem witness_pulses_and_calendar_1 : ¬ (∀ rising (s : State), Canon s → Quiet s → rising ≠ s.rb TIME.PPSIN_CFG
    F.TIME_PPSIN_CFG_POL → (∀ p, s.clockwork.ppsAt = some p → p + 50000 ≤ s.clockwork.ticks) → False) := by
  intro h
  refine h true (sPps 10000) ?_ ?_ ?_ (fun p h => by cases h; decide)
  all_goals first
    | decide +kernel | exact canon_of (by decide +kernel) | exact quiet_of (by decide +kernel)

theorem witness_pulses_and_calendar_2 : ¬ (∀ rising (s : State) p, Canon s → Quiet s → rising ≠ s.rb TIME.PPSIN_CFG
    F.TIME_PPSIN_CFG_POL → s.clockwork.ppsAt = some p → s.clockwork.ticks < p + 50000 → False) := by
  intro h
  refine h true (sPps 10001) 10001 ?_ ?_ ?_ ?_ ?_
  all_goals first
    | decide +kernel | exact canon_of (by decide +kernel) | exact quiet_of (by decide +kernel)

def sCal : State := (sTime.put TIME.CALSETHI F.TIME_CALSETHI_CALSETHI 0xFFFF).wv TIME.CALSETLO 0xFFFFFFFF
theorem witness_pulses_and_calendar_3 : ¬ (∀ (s : State) v, Canon s → Opens s TIME.CALCMD → s.ready TIME.CAL_STATUS = true → v =
    s.rf TIME.CALSETHI F.TIME_CALSETHI_CALSETHI * 2 ^ 32 + s.rv TIME.CALSETLO → False) := by
  intro h
  refine h sCal (2 ^ 48 - 1) ?_ ?_ ?_ ?_
  all_goals first
    | decide +kernel | exact opens_of (by decide +kernel) | exact canon_of (by decide +kernel)

theorem witness_pulses_and_calendar_4 : ¬ (∀ (src : BitVec 2) (s : State), Canon s → Opens s TIME.CALCMD → s.ready
    TIME.CAL_STATUS = true → False) := by
  intro h
  refine h 3 sCal ?_ ?_ ?_
  all_goals first
    | decide +kernel | exact opens_of (by decide +kernel) | exact canon_of (by decide +kernel)

def sSync : State := { sCal with clockwork := { sCal.clockwork with sync := some (1, 3) } }
theorem witness_pulses_and_calendar_5 : ¬ (∀ (s : State) b was, Canon s → s.clockwork.sync = some (b, was) → (s.tb b).sec ≠ was
    → False) := by
  intro h
  refine h sSync 1 3 ?_ ?_ ?_
  all_goals first
    | decide +kernel | exact canon_of (by decide +kernel)

theorem witness_pulses_and_calendar_6 : ¬ (∀ (s : State), Canon s → Quiet s → s.clockwork.alarm = true → False) := by
  intro h
  refine h ({ sCal with clockwork := { sCal.clockwork with alarm := true } }) ?_ ?_ ?_
  all_goals first
    | decide +kernel | exact canon_of (by decide +kernel) | exact quiet_of (by decide +kernel)

theorem witness_pulses_and_calendar_7 : ¬ (∀ (s : State), Canon s → False) := by
  intro h
  refine h sCal ?_
  all_goals first
    | decide +kernel | exact canon_of (by decide +kernel)


/-! ## Wardens, re-homes and evacuations -/

def st (s : State) (n v : Nat) : State := s.put (WS.STATUS n) F.WS_STATUS_STATE v
/-- Clusters 5, 6 and 21 in RUN, with TID 9 LIVE in slot 3 of cluster 5, and staging and policy places of die 0. -/
def sW : State :=
  let s := ((((st (st (st booted 5 3) 6 3) 21 3).put (DDR.CFG 0) F.DDR_CFG_CAP 4).put (DDR.CFG 1) F.DDR_CFG_CAP 4).put (DDR.CFG 0)
    F.DDR_CFG_EN 1).put (DDR.STATUS1 0) F.DDR_STATUS1_TRAINED 1
  let s := [5, 6, 21].foldl (fun (s : State) n => (s.put (CTX.HOMEBASE n) F.CTX_HOMEBASE_HOMEBASE (0x1000000 + 0x400 * n)).put (CTX.EPOCH n)
    F.CTX_EPOCH_EPOCH 7) s
  let s := (s.wv (WDN.STAGEBASE 0) 0x10010000).wv (WDN.POLBASE 0) 0x10020000
  let s := s.setSlot 5 3 { Slot.init with st := .live, tid := 9, charge := 100000000 }
  { (s.writeLe (slotDpa 5 3) 4 (2 * 2 ^ 30 + 2 ^ 27 + 9)).writeLe (slotDpa 5 3 + 4) 4 65536 with
    tbs := #v[⟨0, 500, 0⟩, ⟨0, 500, 0⟩, ⟨0, 500, 0⟩, ⟨0, 500, 0⟩] }
theorem witness_policy_1 : ¬ (∀ (d : Fin 2) (v : BitVec 16) (s : State), Canon s → Opens s (WDN.PCMT d) → s.ready (WDN.PSTATUS
    d) = true → False) := by
  intro h
  refine h 0 7 sW ?_ ?_ ?_
  all_goals first
    | decide +kernel | exact opens_of (by decide +kernel) | exact canon_of (by decide +kernel)

def sPol : State := sW.setWdn 0 { sW.wdn 0 with pcmt := some 3 }
/-- A little-endian word of bytes that a function gives, which is 0 beyond them. -/
theorem leAt_map (f : Nat → Byte) (m : Nat) (z : ∀ k, 4 * m ≤ k → f k = 0) (i : Nat) :
    leAt ((List.range (4 * m)).map f) (4 * i) 4 = leNat [f (4 * i), f (4 * i + 1), f (4 * i + 2), f (4 * i + 3)] := by
  unfold leAt slice
  by_cases h : i < m
  · congr 1
    apply List.ext_getElem
    · simp; omega
    · intro j h1 h2
      simp only [List.length_cons, List.length_nil] at h2
      have : j = 0 ∨ j = 1 ∨ j = 2 ∨ j = 3 := by omega
      rcases this with rfl | rfl | rfl | rfl <;> simp
  · rw [List.drop_eq_nil_of_le (by simp; omega), z _ (by omega), z _ (by omega), z _ (by omega), z _ (by omega)]
    rfl

/-- Byte i of a policy of version 3 whose values are the least that the checks allow. -/
def polByte (i : Nat) : Byte :=
  if 8256 ≤ i then 0
  else if i = 0 then 3
  else if i = 9 ∨ i = 10 ∨ i = 12 then 1
  else if 64 ≤ i ∧ (i % 32 = 4 ∨ i % 32 = 6) then 10 else 0
def polWordOf (i : Nat) : Nat := leNat [polByte (4 * i), polByte (4 * i + 1), polByte (4 * i + 2), polByte (4 * i + 3)]
def polImage : List Byte := (List.range (4 * 2064)).map polByte

theorem polImage_word (i : Nat) : leAt polImage (4 * i) 4 = polWordOf i :=
  leAt_map polByte 2064 (fun k hk => by simp only [polByte, if_pos (show 8256 ≤ k by omega)]) i

/-- What policyCode finds, of an image's words. -/
def codeOf (w : Nat → Nat) (version : BitVec 16) : Nat :=
  if w 0 % 65536 ≠ version.toNat ∨ false = true ∨ globalBad w = true ∨ (List.range 256).any (fun c => classBad (fun i => w (16 + 8 * c + i))) = true then
    0x0A01
  else if (List.range 16).any (fun i => w i &&& globalZero.getD i 0xFFFFFFFF != 0) = true ∨
      (List.range 256).any (fun c => (List.range 8).any (fun i => w (16 + 8 * c + i) &&& classZero.getD i 0xFFFFFFFF != 0)) = true then 0x0A02
  else 0

theorem policy_ok (s : State) (h : (s.wdn 0).policy = none) : s.policyCode 0 polImage 3 = 0 := by
  have e : s.policyCode 0 polImage 3 = codeOf polWordOf 3 := by
    unfold State.policyCode codeOf
    simp only [polImage_word, h, Option.isSome_none, Bool.false_and]
  exact e.trans (by decide +kernel)

theorem cellar_writable (s : State) (a : Nat) (h : 0x10000000 ≤ a) (g : a < 0x10000000 + 8256) :
    s.writable a = true ∧ s.mapped a = true ∧ s.offAt a = false ∧ placeOf a = .cellar 0 := by
  have p : placeOf a = .cellar 0 := by
    unfold placeOf
    rw [if_neg (by omega), if_neg (by omega), if_pos (by omega)]
    congr 1
    omega
  have m : s.mapped a = true := by simp [State.mapped, p]
  have o : s.offAt a = false := by simp [State.offAt, clusterAt, p]
  exact ⟨by simp [State.writable, m, o, p], m, o, p⟩

theorem write_cellar (s : State) (bs : List Byte) : ∃ m g p, (p ≠ [] → s.poison ≠ []) ∧
    s.write 0x10000000 bs = ({ s with mem := m, egMarks := g, poison := p } : State) ∧
    m = storeBytes (s.applies 0x10000000 (bs.map some)) 0x10000000 (bs.map some) s.mem := by
  have p0 : placeOf 0x10000000 = .cellar 0 := by decide +kernel
  refine ⟨_, if s.tdms.isEmpty then s.egMarks else
    s.markEgress (s.applies 0x10000000 (bs.map some)) 0x10000000 (bs.map some) s.egMarks,
    s.poison.filter (fun w => !(coversWord 0x10000000 (bs.map some) w && s.writable (8 * w))), ?_, ?_, rfl⟩
  · intro h e
    rw [e] at h
    exact h rfl
  · unfold State.write State.writeOpt State.touchP
    rw [p0]

/-- Bytes written to the start of the Cellar of die 0 are read there. -/
theorem bytes_written (s : State) (f : Nat → Byte) (n : Nat) (small : n ≤ 8256) (hr : srising s.mem = true) (hp : s.poison = []) :
    (s.write 0x10000000 ((List.range n).map f)).bytes 0x10000000 n = (List.range n).map f := by
  obtain ⟨m, g, p, _, e, hm⟩ := write_cellar s ((List.range n).map f)
  rw [e]
  unfold State.bytes
  apply List.map_congr_left
  intro i hi
  have hi := List.mem_range.mp hi
  obtain ⟨_, a, o, q⟩ := cellar_writable ({ s with mem := m, egMarks := g, poison := p } : State) (0x10000000 + i) (by omega) (by omega)
  have hb : ({ s with mem := m, egMarks := g, poison := p } : State).byte (0x10000000 + i) = sget m 0 (0x10000000 + i) := by
    simp [State.byte, a, o, q]
  have ok : s.applies 0x10000000 (((List.range n).map f).map some) (0x10000000 + i) = true := by
    obtain ⟨w, _, _, _⟩ := cellar_writable s (0x10000000 + i) (by omega) (by omega)
    simp [State.applies, w, State.poisoned, hp, mem1]
  rw [hb, hm, sget_storeBytes _ _ _ _ _ hr, if_pos ⟨by omega, ok⟩, Nat.add_sub_cancel_left]
  simp [hi]

def sPol0 : State := (booted.wv (WDN.POLBASE 0) 0x100000).setWdn 0 { booted.wdn 0 with pcmt := some 3 }
def sPolOk : State := sPol0.write 0x10000000 polImage

theorem pol_base : sPolOk.rv (WDN.POLBASE (0 : Fin 2).val) * 256 = 0x10000000 := by
  have h : sPol0.rv (WDN.POLBASE (0 : Fin 2).val) * 256 = 0x10000000 := by decide +kernel
  obtain ⟨m, g, p, _, e, _⟩ := write_cellar sPol0 polImage
  unfold sPolOk
  rw [e]
  exact h

theorem divided_written (s : State) (bs : List Byte) (h : s.divided = false) : (s.write 0x10000000 bs).divided = false := by
  obtain ⟨m, g, p, _, e, _⟩ := write_cellar s bs
  rw [e]
  exact h

theorem cellar_range (s : State) (d : s.divided = false) : s.rangeOk 0 0x10000000 (4 * 2064) = true := by
  obtain ⟨_, a, o, q⟩ := cellar_writable s 0x10000000 (by omega) (by omega)
  have t : isTrace 268435456 = false := by decide
  have r : s.unitReaches 0 0x10000000 = true := by
    simp only [State.unitReaches, a, d, t, Bool.not_false, Bool.false_and, Bool.true_and]
  have e : s.placeEnd 0x10000000 = 335544320 := by simp only [State.placeEnd, q]
  unfold State.rangeOk
  rw [show (34 : Nat) = 33 + 1 from rfl, State.reachesAll, r, e]
  simp

theorem pol_range : sPolOk.rangeOk 0 0x10000000 (4 * 2064) = true := cellar_range _ (divided_written sPol0 polImage (by decide +kernel))

theorem pol_bytes : sPolOk.unitBytes 0 0x10000000 (4 * 2064) = polImage := by
  unfold State.unitBytes
  rw [if_pos pol_range]
  exact bytes_written sPol0 polByte (4 * 2064) (by omega) (by decide +kernel) (by decide +kernel)

theorem pol_read : polImage = sPolOk.unitBytes (0 : Fin 2).val (sPolOk.rv (WDN.POLBASE (0 : Fin 2).val) * 256) 8256 := by
  rw [pol_base]
  exact pol_bytes.symm

theorem pol_canon : Canon sPolOk := (State.write_kept (cq := sPol0.pending) sPol0 _ _ (kept_of_inv (canon_of (by decide +kernel)))).inv
theorem pol_pcmt : (sPolOk.wdn (0 : Fin 2).val).pcmt = some 3 := by
  obtain ⟨m, g, p, _, e, _⟩ := write_cellar sPol0 polImage
  unfold sPolOk
  rw [e]
  show (sPol0.wdn 0).pcmt = some 3
  decide +kernel

theorem pol_clean (a n : Nat) : sPolOk.poisonedIn a n = false := by
  obtain ⟨m, g, p, h, e, _⟩ := write_cellar sPol0 polImage
  unfold sPolOk
  rw [e]
  have : p = [] := by
    by_contra c
    exact h c (by decide +kernel)
  subst this
  rfl

theorem pol_code : sPolOk.policyCode (0 : Fin 2).val polImage 3 = 0 := by
  refine policy_ok sPolOk ?_
  obtain ⟨m, g, p, _, e, _⟩ := write_cellar sPol0 polImage
  unfold sPolOk
  rw [e]
  show (sPol0.wdn 0).policy = none
  decide +kernel
theorem witness_policy_2 : ¬ (∀ (d : Fin 2) (v : BitVec 16) (bs : List Byte) (s : State), Canon s → (s.wdn d).pcmt = some v → bs
    = s.unitBytes d (s.rv (WDN.POLBASE d) * 256) 8256 → s.poisonedIn (s.rv (WDN.POLBASE d) * 256) 8256 = false → s.policyCode d
    bs v = 0 → False) := by
  intro h
  refine h 0 3 polImage sPolOk pol_canon pol_pcmt pol_read (pol_clean _ _) pol_code

theorem witness_policy_3 : ¬ (∀ (d : Fin 2) v bs c (s : State), Canon s → (s.wdn d).pcmt = some v → bs = s.unitBytes d (s.rv
    (WDN.POLBASE d) * 256) 8256 → c = (if s.poisonedIn (s.rv (WDN.POLBASE d) * 256) 8256 then 0x0A01 else s.policyCode d bs v) →
    c ≠ 0 → False) := by
  intro h
  refine h 0 3 (sPol.unitBytes (0 : Fin 2).val (sPol.rv (WDN.POLBASE (0 : Fin 2).val) * 256) 8256) (sPol.policyCode 0
    (sPol.unitBytes (0 : Fin 2).val (sPol.rv (WDN.POLBASE (0 : Fin 2).val) * 256) 8256) 3) sPol ?_ ?_ rfl ?_ ?_
  all_goals first
    | decide +kernel | exact canon_of (by decide +kernel)


theorem takes_cluster {s : State} {d : Fin 2} {cl : Fin 32} (h : (canonOk s && !s.probes.any (fun e => e.2.armed && e.2.src == 5) &&
    decide (s.reach 0 (WDN.CLCMD d) false = .ok) && s.ready (WDN.CLSTATUS d) && decide (dieOf cl = d)) = true) : TakesCluster s d cl := by
  simp only [Bool.and_eq_true, Bool.not_eq_true', decide_eq_true_eq] at h
  obtain ⟨⟨⟨⟨h1, h2⟩, h3⟩, h4⟩, h5⟩ := h
  exact ⟨canon_of h1, h2, h3, h4, h5⟩
theorem witness_cluster_commands_1 : ¬ (∀ (d : Fin 2) (cl : Fin 32) (s : State), TakesCluster s d cl → (s.clState cl = stOff ∨
    s.clState cl = stHalt) → s.rehomes = [] → s.evacs = [] → False) := by
  intro h
  refine h 0 7 sW (takes_cluster (by decide +kernel)) (.inl (by decide +kernel)) ?_ ?_
  all_goals first
    | decide +kernel | exact opens_of (by decide +kernel) | exact canon_of (by decide +kernel)
    | exact quiet_of (by decide +kernel) | exact idleMaker_of (by decide +kernel)
    | constructor <;> first
        | decide +kernel | exact opens_of (by decide +kernel) | exact canon_of (by decide +kernel)
        | exact quiet_of (by decide +kernel) | exact idleMaker_of (by decide +kernel)

theorem witness_cluster_commands_1b : ¬ (∀ (d : Fin 2) (cl : Fin 32) (s : State), TakesCluster s d cl → (s.clState cl = stOff ∨
    s.clState cl = stHalt) → s.rehomes = [] → s.evacs = [] → False) := by
  intro h
  refine h 0 7 (st sW 7 stHalt) (takes_cluster (by decide +kernel)) (.inr (by decide +kernel)) ?_ ?_
  all_goals first
    | decide +kernel | exact opens_of (by decide +kernel) | exact canon_of (by decide +kernel)
    | exact quiet_of (by decide +kernel) | exact idleMaker_of (by decide +kernel)
    | constructor <;> first
        | decide +kernel | exact opens_of (by decide +kernel) | exact canon_of (by decide +kernel)
        | exact quiet_of (by decide +kernel) | exact idleMaker_of (by decide +kernel)

theorem witness_cluster_commands_2 : ¬ (∀ (i : Instr) (d : Fin 2) (cl : Fin 32) (v : Nat) (s : State), TakesCluster s d cl → ((i
    = .run d cl ∧ s.clState cl = stSpare ∧ v = stRun) ∨ (i = .spare d cl ∧ s.clState cl = stRun ∧ s.slotCount cl = 0 ∧ v =
    stSpare)) → False) := by
  intro h
  refine h (.run 0 7) 0 7 stRun (st sW 7 stSpare) (takes_cluster (by decide +kernel)) (.inl ⟨rfl, by decide +kernel, rfl⟩)

theorem witness_cluster_commands_2b : ¬ (∀ (i : Instr) (d : Fin 2) (cl : Fin 32) (v : Nat) (s : State), TakesCluster s d cl →
    ((i = .run d cl ∧ s.clState cl = stSpare ∧ v = stRun) ∨ (i = .spare d cl ∧ s.clState cl = stRun ∧ s.slotCount cl = 0 ∧ v =
    stSpare)) → False) := by
  intro h
  refine h (.spare 0 6) 0 6 stSpare sW (takes_cluster (by decide +kernel)) (.inr ⟨rfl, by decide +kernel, by decide +kernel, rfl⟩)

def evac5 : Evac := ⟨5, 2, none, true⟩
def sEvac : State := { st sW 5 stRecover with evacs := [evac5] }
theorem witness_cluster_commands_3 : ¬ (∀ (d : Fin 2) (cl : Fin 32) e (s : State), TakesCluster s d cl → s.clState cl = stRun →
    s.rehomes = [] → s.evacs = [e] → e.started = true → dieOf e.cl = d → e.cl < 32 → e.cl ≠ cl.val → s.clState e.cl = stRecover
    → s.slotCount e.cl ≠ 0 → False) := by
  intro h
  refine h 0 6 evac5 sEvac (takes_cluster (by decide +kernel)) ?_ ?_ ?_ ?_ ?_ ?_ ?_ ?_ ?_
  all_goals first
    | decide +kernel | exact opens_of (by decide +kernel) | exact canon_of (by decide +kernel)
    | exact quiet_of (by decide +kernel) | exact idleMaker_of (by decide +kernel)
    | constructor <;> first
        | decide +kernel | exact opens_of (by decide +kernel) | exact canon_of (by decide +kernel)
        | exact quiet_of (by decide +kernel) | exact idleMaker_of (by decide +kernel)

theorem witness_cluster_commands_4 : ¬ (∀ (d : Fin 2) (cl : Fin 32) (s : State), TakesCluster s d cl → s.clState cl = stRun →
    s.rehomes = [] → s.evacs = [] → s.slots = [] → (∀ n, n < 32 → s.clState n ≠ stSpare) → False) := by
  intro h
  refine h 0 6 ({ sW with slots := [] }) (takes_cluster (by decide +kernel)) ?_ ?_ ?_ ?_ ?_
  all_goals first
    | decide +kernel | exact opens_of (by decide +kernel) | exact canon_of (by decide +kernel)
    | exact quiet_of (by decide +kernel) | exact idleMaker_of (by decide +kernel)
    | constructor <;> first
        | decide +kernel | exact opens_of (by decide +kernel) | exact canon_of (by decide +kernel)
        | exact quiet_of (by decide +kernel) | exact idleMaker_of (by decide +kernel)

theorem witness_cluster_commands_5 : ¬ (∀ (d : Fin 2) (cl : Fin 32) (s : State), TakesCluster s d cl → (s.clState cl = stSpare ∨
    s.clState cl = stHalt ∨ (s.clState cl = stRun ∧ s.slotCount cl = 0)) → False) := by
  intro h
  refine h 0 6 sW (takes_cluster (by decide +kernel)) (.inr (.inr ⟨by decide +kernel, by decide +kernel⟩))

theorem witness_cluster_commands_5b : ¬ (∀ (d : Fin 2) (cl : Fin 32) (s : State), TakesCluster s d cl → (s.clState cl = stSpare
    ∨ s.clState cl = stHalt ∨ (s.clState cl = stRun ∧ s.slotCount cl = 0)) → False) := by
  intro h
  refine h 0 7 (st sW 7 stSpare) (takes_cluster (by decide +kernel)) (.inl (by decide +kernel))

theorem witness_cluster_commands_6 : ¬ (∀ (i : Instr) (d : Fin 2) (cl : Fin 32) (c : Nat) (s : State), Canon s → Quiet s → Opens
    s (WDN.CLCMD d) → s.ready (WDN.CLSTATUS d) = true → (i = .up d cl ∨ i = .run d cl ∨ i = .spare d cl ∨ i = .evac d cl ∨ i =
    .off d cl) → ((dieOf cl ≠ d ∧ c = 0x0A12) ∨ (dieOf cl = d ∧ c = 0x0A11 ∧ (s.clState cl = stBringup ∨ s.clState cl =
    stTest))) → False) := by
  intro h
  refine h (.up 0 21) 0 21 0x0A12 sW ?_ ?_ ?_ ?_ (.inl rfl) (.inl ⟨by decide, rfl⟩)
  all_goals first
    | decide +kernel | exact opens_of (by decide +kernel) | exact canon_of (by decide +kernel)
    | exact quiet_of (by decide +kernel)

theorem witness_cluster_commands_6b : ¬ (∀ (i : Instr) (d : Fin 2) (cl : Fin 32) (c : Nat) (s : State), Canon s → Quiet s →
    Opens s (WDN.CLCMD d) → s.ready (WDN.CLSTATUS d) = true → (i = .up d cl ∨ i = .run d cl ∨ i = .spare d cl ∨ i = .evac d cl ∨
    i = .off d cl) → ((dieOf cl ≠ d ∧ c = 0x0A12) ∨ (dieOf cl = d ∧ c = 0x0A11 ∧ (s.clState cl = stBringup ∨ s.clState cl =
    stTest))) → False) := by
  intro h
  refine h (.off 0 7) 0 7 0x0A11 (st sW 7 stTest) ?_ ?_ ?_ ?_ (.inr (.inr (.inr (.inr rfl)))) (.inr ⟨by decide, rfl, .inr
    (by decide +kernel)⟩)
  all_goals first
    | decide +kernel | exact opens_of (by decide +kernel) | exact canon_of (by decide +kernel)
    | exact quiet_of (by decide +kernel)

theorem witness_self_test_1 : ¬ (∀ (cl : Fin 32) (s : State), Canon s → Quiet s → s.clState cl = stBringup → False) := by
  intro h
  refine h 7 (st sW 7 stBringup) ?_ ?_ ?_
  all_goals first
    | decide +kernel | exact canon_of (by decide +kernel) | exact quiet_of (by decide +kernel)

theorem witness_self_test_2 : ¬ (∀ (cl : Fin 32) (s : State) k, Canon s → Quiet s → s.clState cl = stTest → k = ((List.range
    16).filter (fun i => s.clState (16 * dieOf cl + i) == stSpare)).length → False) := by
  intro h
  refine h 7 (st sW 7 stTest) 0 ?_ ?_ ?_ ?_
  all_goals first
    | decide +kernel | exact canon_of (by decide +kernel) | exact quiet_of (by decide +kernel)

theorem witness_self_test_3 : ¬ (∀ (cl : Fin 32) (s : State), Canon s → Quiet s → s.clState cl = stTest → False) := by
  intro h
  refine h 7 (st sW 7 stTest) ?_ ?_ ?_
  all_goals first
    | decide +kernel | exact canon_of (by decide +kernel) | exact quiet_of (by decide +kernel)

theorem witness_moves_1 : ¬ (∀ (d : Fin 2) (cl : Fin 32) tid (s : State) n k, Canon s → Quiet s → Opens s (WDN.RHCMD d) →
    s.ready (WDN.RHSTATUS d) = true → s.homeOf tid = some (n, k) → dieOf n = d → s.prepareCode n cl (s.group n k) = 0 → False)
    := by
  intro h
  refine h 0 6 9 sW 5 3 ?_ ?_ ?_ ?_ ?_ ?_ ?_
  all_goals first
    | decide +kernel | exact opens_of (by decide +kernel) | exact canon_of (by decide +kernel)
    | exact quiet_of (by decide +kernel)

theorem witness_moves_2 : ¬ (∀ (d : Fin 2) (cl : Fin 32) tid (s : State) n k c, Canon s → Quiet s → Opens s (WDN.RHCMD d) →
    s.ready (WDN.RHSTATUS d) = true → s.homeOf tid = some (n, k) → dieOf n = d → c = s.prepareCode n cl (s.group n k) → c ≠ 0 →
    False) := by
  intro h
  refine h 0 7 9 sW 5 3 (sW.prepareCode 5 7 (sW.group 5 3)) ?_ ?_ ?_ ?_ ?_ ?_ ?_ ?_
  all_goals first
    | decide +kernel | exact opens_of (by decide +kernel) | exact canon_of (by decide +kernel)
    | exact quiet_of (by decide +kernel)

theorem witness_moves_3 : ¬ (∀ (d : Fin 2) (cl : Fin 32) tid (s : State), Canon s → Quiet s → Opens s (WDN.RHCMD d) → s.ready
    (WDN.RHSTATUS d) = true → s.homeOf tid = none → False) := by
  intro h
  refine h 0 6 10 sW ?_ ?_ ?_ ?_ ?_
  all_goals first
    | decide +kernel | exact opens_of (by decide +kernel) | exact canon_of (by decide +kernel)
    | exact quiet_of (by decide +kernel)

def member9 : Member := ⟨9, 3, 0⟩
def move9 : Rehome := ⟨5, 6, 2, none, [member9], false⟩
def sMove : State := { sW.setSlot 6 0 { Slot.init with st := .reserved, tid := 9, charge := 100000000 } with rehomes := [move9] }
theorem witness_moves_4 : ¬ (∀ (d : Fin 2) tid (s : State) r, Canon s → Quiet s → Opens s (WDN.RHCMD d) → s.ready (WDN.RHSTATUS
    d) = true → s.rehomes = [r] → dieOf r.src = d → r.src < 32 → r.dst < 32 → r.src ≠ r.dst → r.host = none → r.copied = false →
    tid ∈ r.members.map (·.tid) → (∀ m, m ∈ r.members → m.slot < 8192 ∧ m.target < 8192) → False) := by
  intro h
  refine h 0 9 sMove move9 ?_ ?_ ?_ ?_ ?_ ?_ ?_ ?_ ?_ ?_ ?_ ?_ ?_
  all_goals first
    | decide +kernel | exact opens_of (by decide +kernel) | exact canon_of (by decide +kernel)
    | exact quiet_of (by decide +kernel)

theorem staging_dram {s : State} {b : Nat} (h : (List.range 256).all (fun i => (match placeOf (b + i) with | .dram _ => true | _ => false) &&
    s.writable (b + i)) = true) : ∀ i, i < 256 → (∃ x, placeOf (b + i) = .dram x) ∧ s.writable (b + i) = true := by
  intro i hi
  have := List.all_eq_true.mp h i (List.mem_range.mpr hi)
  simp only [Bool.and_eq_true] at this
  refine ⟨?_, this.2⟩
  cases e : placeOf (b + i) <;> simp_all
theorem witness_rehomes_1 : ¬ (∀ (d : Fin 2) (s : State) r m a b c, Canon s → Quiet s → s.rehomes = [r] → r.members = [m] →
    dieOf r.src = d → r.src < 32 → m.slot < 8192 → r.dst < 32 → m.target < 8192 → r.copied = false → s.slotQuiet r.src m.slot =
    true → s.divided = false → s.poison = [] → a = slotDpa r.src m.slot → b = s.stagingDpa r m → c = slotDpa r.dst m.target →
    s.offAt c = false → (∀ i, i < 256 → (∃ x, placeOf (b + i) = .dram x) ∧ s.writable (b + i) = true) → False) := by
  intro h
  refine h 0 sMove move9 member9 (slotDpa 5 3) (sMove.stagingDpa move9 member9) (slotDpa 6 0) ?_ ?_ ?_ ?_ ?_ ?_ ?_ ?_ ?_ ?_ ?_ ?_
    ?_ ?_ ?_ ?_ ?_ (staging_dram (by decide +kernel))
  all_goals first
    | decide +kernel | exact canon_of (by decide +kernel) | exact quiet_of (by decide +kernel)

def moved9 : Rehome := { move9 with copied := true }
theorem witness_rehomes_2 : ¬ (∀ (d : Fin 2) (s : State) r m, Canon s → Quiet s → s.rehomes = [r] → r.members = [m] → dieOf
    r.src = d → r.src < 32 → r.dst < 32 → r.src ≠ r.dst → m.slot < 8192 → m.target < 8192 → r.copied = true → s.evacs = [] →
    (s.cluster r.src).periodic m.slot = none → (s.play m.tid).live = false → False) := by
  intro h
  refine h 0 ({ sMove with rehomes := [moved9] }) moved9 member9 ?_ ?_ ?_ ?_ ?_ ?_ ?_ ?_ ?_ ?_ ?_ ?_ ?_ ?_
  all_goals first
    | decide +kernel | exact canon_of (by decide +kernel) | exact quiet_of (by decide +kernel)

theorem witness_relief_1 : ¬ (∀ (d : Fin 2) (s : State) e ks dst, Canon s → Quiet s → s.evacs = [e] → e.started = true → dieOf
    e.cl = d → e.cl < 32 → s.clState e.cl = stRecover → s.groups e.cl = [ks] → ks.any (s.memberBad e.cl) = false → (s.targetsOf
    e.cl e.promoted).find? (fun x => s.admits e.cl x ks) = some dst → False) := by
  intro h
  refine h 0 sEvac evac5 [3] 6 ?_ ?_ ?_ ?_ ?_ ?_ ?_ ?_ ?_ ?_
  all_goals first
    | decide +kernel | exact canon_of (by decide +kernel) | exact quiet_of (by decide +kernel)

def sFullDie : State := st (st sEvac 6 0) 21 0
theorem witness_relief_2 : ¬ (∀ (d : Fin 2) (s : State) e ks, Canon s → Quiet s → s.evacs = [e] → e.started = true → dieOf e.cl
    = d → e.cl < 32 → s.clState e.cl = stRecover → s.groups e.cl = [ks] → ks.any (s.memberBad e.cl) = false → (s.targetsOf e.cl
    e.promoted).find? (fun x => s.admits e.cl x ks) = none → False) := by
  intro h
  refine h 0 sFullDie evac5 [3] ?_ ?_ ?_ ?_ ?_ ?_ ?_ ?_ ?_ ?_
  all_goals first
    | decide +kernel | exact canon_of (by decide +kernel) | exact quiet_of (by decide +kernel)

def sOver : State :=
  (((sW.setSlot 5 3 { sW.slot 5 3 with charge := 1600000000 }).put (TILE.STATE 5 1) F.TILE_STATE_WITHDRAWN 1).put (TILE.STATE 5 2)
    F.TILE_STATE_WITHDRAWN 1).put (WDN.CFG 0) F.WDN_CFG_EN 1
theorem witness_relief_3 : ¬ (∀ (cl : Fin 32) (s : State) ks dst, Canon s → Quiet s → s.wdnOn (dieOf cl) = true → s.polG (dieOf
    cl) 1 1 0 = 2 → s.clState cl = stRun → s.withdrawn cl ≠ 0 → s.budget cl < s.load cl → s.rehomes = [] → s.groups cl = [ks] →
    ks.any (s.memberBad cl) = false → (s.targetsOf cl none).find? (fun x => s.admits cl x ks) = some dst → False) := by
  intro h
  refine h 5 sOver [3] 6 ?_ ?_ ?_ ?_ ?_ ?_ ?_ ?_ ?_ ?_ ?_
  all_goals first
    | decide +kernel | exact canon_of (by decide +kernel) | exact quiet_of (by decide +kernel)

/-- A policy with words of its own in force on die 0, whose Warden is enabled. -/
def withPol (s : State) (g c : List (Nat × Nat)) : State :=
  let w (l : List (Nat × Nat)) (i dft : Nat) : Nat := match l.find? (fun e => e.1 == i) with | some e => e.2 | none => dft
  let img := ((List.range 16).flatMap (fun i => leBytes 4 (w g i (defaultGlobal.getD i 0)))) ++
    (List.range 256).flatMap (fun _ => (List.range 8).flatMap (fun i => leBytes 4 (w c i (defaultClass.getD i 0))))
  let s := s.put (WDN.CFG 0) F.WDN_CFG_EN 1
  s.setWdn 0 { s.wdn 0 with policy := some img }
theorem witness_polls_1 : ¬ (∀ (d : Fin 2) (s : State), Canon s → s.evacs = [] → (s.wdnOn d = true → s.polG d 1 1 0 = 0 ∧ s.polG
    d 1 5 4 = 0 ∧ s.polG 0 1 7 6 = 0) → False) := by
  intro h
  refine h 0 sW ?_ ?_ ?_
  all_goals first
    | decide +kernel | exact canon_of (by decide +kernel)

def sAdvise : State := let s := withPol (st sW 6 0) [(1, 0x01)] []; s.setCluster 5 { s.cluster 5 with storeUe := [400, 450, 499] }
theorem witness_polls_2 : ¬ (∀ (d : Fin 2) (s : State) n c, Canon s → Quiet s → s.evacs = [] → s.wdnOn d = true → s.polG d 1 1 0
    = 1 → s.polG d 1 5 4 = 0 → s.polG 0 1 7 6 = 0 → s.runOf d = [n] → s.protectCause d n = some c → False) := by
  intro h
  refine h 0 sAdvise 5 2 ?_ ?_ ?_ ?_ ?_ ?_ ?_ ?_ ?_
  all_goals first
    | decide +kernel | exact canon_of (by decide +kernel) | exact quiet_of (by decide +kernel)

def sBalance : State := withPol sW [(1, 4), (3, 0x0A5A05)] []
theorem witness_polls_3 : ¬ (∀ (d : Fin 2) (s : State) n dst ks, Canon s → Quiet s → s.wdnOn d = true → (s.byRatio (s.runOf
    d)).getLast? = some n → (s.byRatio (s.runOf d)).head? = some dst → n ≠ dst → s.polG d 3 7 0 * s.budget n < s.load n * 100 →
    (s.load dst + s.groupCharge n ks) * 100 ≤ s.polG d 3 15 8 * s.budget dst → s.load dst * 100 < s.polG d 3 15 8 * s.budget dst
    → s.groups n = [ks] → ks.any (s.memberBad n) = false → s.admits n dst ks = true → False) := by
  intro h
  refine h 0 sBalance 5 6 [3] ?_ ?_ ?_ ?_ ?_ ?_ ?_ ?_ ?_ ?_ ?_ ?_
  all_goals first
    | decide +kernel | exact canon_of (by decide +kernel) | exact quiet_of (by decide +kernel)

theorem witness_polls_4 : ¬ (∀ (d : Fin 2) (s : State) n, s.wdnOn d = true → (s.byRatio (s.runOf d)).getLast? = some n → s.load
    n * 100 ≤ s.polG d 3 7 0 * s.budget n → False) := by
  intro h
  refine h 0 (sW.put (WDN.CFG 0) F.WDN_CFG_EN 1) 5 ?_ ?_ ?_
  all_goals first
    | decide +kernel

def sRead : State :=
  let s := withPol sW [] [(0, 0)]
  let s := ((s.writeLe (slotDpa 5 3) 4 (2 ^ 30 + 2 ^ 27 + 9)).writeLe (slotDpa 5 3 + 144) 4 77).writeLe (slotDpa 5 3 + 48) 4 (0xF * 65536 + 40)
  (s.writeLe (slotDpa 5 3 + 16) 4 0x100400).writeLe (slotDpa 5 3 + 12) 4 0xFFFF0000
theorem witness_metrics_reads_1 : ¬ (∀ (d : Fin 2) tid (s : State) n k r c, Canon s → Quiet s → s.homeOf tid = some (n, k) →
    dieOf n = d → n < 32 → s.wdnOn d = true → (s.slot n k).st = .live → s.homeMoving n tid = false → BitVec.ofNat 32 (ctxW
    (s.ctx n k) 36) ≠ (s.wdnTerm d tid).seen → r = s.reading n k → c = ctxPolClass r.ctx → s.mode d c 3 = 0 → s.mode d c 5 = 0 →
    s.mode d c 7 = 0 → s.polC d c 0 8 8 = 0 → ctxW r.ctx 12 = ctxJbTgt r.ctx + ctxCmr r.ctx * 65536 + ctxNlp r.ctx * 2 ^ 20 →
    False) := by
  intro h
  refine h 0 9 sRead 5 3 (sRead.reading 5 3) (ctxPolClass (sRead.reading 5 3).ctx) ?_ ?_ ?_ ?_ ?_ ?_ ?_ ?_ ?_ rfl rfl ?_ ?_ ?_ ?_
    ?_
  all_goals first
    | decide +kernel | exact canon_of (by decide +kernel) | exact quiet_of (by decide +kernel)


/-! ## The Press, trace and security -/

theorem pair_split {α β : Type} (p : α × β) : p = (p.1, p.2) := rfl
theorem pair_code {α : Type} {p : α × Nat} {c : Nat} (h : p.2 = c) : p = (p.1, c) := by rw [← h]

def wordsOf (b : List Byte) : List CWord := (List.range (b.length / 16)).map (fun i => ⟨BitVec.ofNat 128 (leAt b (16 * i) 16), false⟩)
/-- A job of one entry of its output list, FIRST, LAST and IRQ set, with TAG 77. -/
def jobOf (op len src outmax : Nat) : List Byte :=
  leBytes 4 (op * 2 ^ 30 + 2 ^ 23 + 2 ^ 22 + 2 ^ 20 + 77) ++ leBytes 4 len ++ leBytes 8 src ++ leBytes 8 0x10001000 ++ leBytes 4 1 ++
    leBytes 4 0x100100 ++ leBytes 8 0x10004000 ++ leBytes 8 outmax ++ List.replicate 16 0
/-- Cask 9 of die 0 holds the job, and another packet behind it; 5 bytes and a stored block of them stand in Cellar. -/
def sJob (j : List Byte) : State :=
  let s := ((booted.put (CSK.CFG 0 9) F.CSK_CFG_EN 1).put (PRS.CFG 0) F.PRS_CFG_JOBCASK 9).put (PRS.CFG 0) F.PRS_CFG_EN 1
  let s := ((s.put (CSK.BASE 0 9) F.CSK_BASE_OFFS 0x5000).put (CSK.CFG 0 9) F.CSK_CFG_DEPTH 4).setCask 9
    { Cask.init with pkts := [List.range (j.length / 16), [60]] }
  let s := (wordsOf j).zipIdx.foldl (fun (u : State) e => u.storeWord 9 e.2 e.1) s
  (((s.write 0x10000000 [1, 2, 3, 4, 5]).writeLe 0x10001000 8 0x10002000).writeLe 0x10001008 4 100).write 0x10003000
    [1, 5, 0, 250, 255, 9, 8, 7, 6, 5]
def sPack : State := sJob (jobOf 1 5 0x10000000 0)
def sUnpack : State := sJob (jobOf 2 10 0x10003000 1000)
def sNoJob : State := sJob (jobOf 3 5 0x10000000 0)
theorem witness_press_jobs_1 : ¬ (∀ (d : Fin 2) (s : State) (u : State) ws, Canon s → Quiet s → s.pressOn d = true → s.nextJob d
    = (u, ws) → ws ≠ [] → notJob ws = true → False) := by
  intro h
  refine h 0 sNoJob (sNoJob.nextJob (0 : Fin 2).val).1 (sNoJob.nextJob (0 : Fin 2).val).2 ?_ ?_ ?_ (pair_split _) ?_ ?_
  all_goals first
    | decide +kernel | exact canon_of (by decide +kernel) | exact quiet_of (by decide +kernel)

theorem witness_press_jobs_2 : ¬ (∀ (i : Instr) (d : Fin 2) (b : Bool) (s u : State) (ws : List CWord) (j : Job) (e : JobEnd),
    Canon s → Quiet s → s.pressOn d = true → s.nextJob d = (u, ws) → ws ≠ [] → notJob ws = false → ((i = .pressCompress d ∧ b =
    true) ∨ (i = .pressDecompress d ∧ b = false)) → j = wordBytes ws → Job.packs j = b → e = u.jobEnd d j → False) := by
  intro h
  refine h (.pressCompress 0) 0 true sPack (sPack.nextJob (0 : Fin 2).val).1 (sPack.nextJob (0 : Fin 2).val).2 (wordBytes
    (sPack.nextJob (0 : Fin 2).val).2) _ ?_ ?_ ?_ (pair_split _) ?_ ?_ (.inl ⟨rfl, rfl⟩) rfl ?_ rfl
  all_goals first
    | decide +kernel | exact canon_of (by decide +kernel) | exact quiet_of (by decide +kernel)

theorem witness_press_jobs_2b : ¬ (∀ (i : Instr) (d : Fin 2) (b : Bool) (s u : State) (ws : List CWord) (j : Job) (e : JobEnd),
    Canon s → Quiet s → s.pressOn d = true → s.nextJob d = (u, ws) → ws ≠ [] → notJob ws = false → ((i = .pressCompress d ∧ b =
    true) ∨ (i = .pressDecompress d ∧ b = false)) → j = wordBytes ws → Job.packs j = b → e = u.jobEnd d j → False) := by
  intro h
  refine h (.pressDecompress 0) 0 false sUnpack (sUnpack.nextJob (0 : Fin 2).val).1 (sUnpack.nextJob (0 : Fin 2).val).2 (wordBytes
    (sUnpack.nextJob (0 : Fin 2).val).2) _ ?_ ?_ ?_ (pair_split _) ?_ ?_ (.inr ⟨rfl, rfl⟩) rfl ?_ rfl
  all_goals first
    | decide +kernel | exact canon_of (by decide +kernel) | exact quiet_of (by decide +kernel)

theorem witness_stored_blocks_1 : ¬ (∀ (j : Job) (seg : List Byte) (space : Nat), Job.packs j = true → Job.wrap j = 0 →
    Job.level j = 0 → Job.last j = true → Job.srcLen j = seg.length → seg.length ≤ 65535 → seg.length + 5 ≤ space → False) := by
  intro h
  refine h (jobOf 1 5 0x10000000 0) [1, 2, 3, 4, 5] 10 ?_ ?_ ?_ ?_ ?_ ?_ ?_
  all_goals first
    | decide +kernel

theorem witness_stored_blocks_2 : ¬ (∀ (j : Job) (seg : List Byte) (space : Nat), Job.packs j = false → Job.wrap j = 0 →
    Job.last j = true → Job.ratio j = 0 → seg.length ≤ Job.outMax j → seg.length ≤ 65535 → seg.length ≤ space → False) := by
  intro h
  refine h (jobOf 2 10 0x10003000 5) [1, 2, 3, 4, 5] 5 ?_ ?_ ?_ ?_ ?_ ?_ ?_
  all_goals first
    | decide +kernel

def endOf (a : Nat) : PressEnd := ⟨a, true, 0x0B09, List.replicate 32 5⟩
def sEnd (a : Nat) : State := sPack.setPrs 0 ⟨some (endOf a), true⟩
theorem witness_press_results_1 : ¬ (∀ (d : Fin 2) (s : State) e, Canon s → Quiet s → s.package.held = false → s.dormant = false
    → (s.prs d).job = some e → e.block.length = 32 → s.pressRange d true e.addr 32 = true → (∀ i, i < 32 → s.offAt (e.addr + i)
    = false) → s.poisonedIn e.addr 32 = false → (∀ i, i < 32 → s.writable (e.addr + i) = true) → e.code ≤ 0x0BFF → False) := by
  intro h
  refine h 0 (sEnd 0x10004000) (endOf 0x10004000) ?_ ?_ ?_ ?_ ?_ ?_ ?_ ?_ ?_ ?_ ?_
  all_goals first
    | decide +kernel | exact canon_of (by decide +kernel) | exact quiet_of (by decide +kernel)

theorem witness_press_results_2 : ¬ (∀ (d : Fin 2) (s : State) e, Canon s → Quiet s → s.package.held = false → s.dormant = false
    → (s.prs d).job = some e → s.pressRange d true e.addr 32 = false → False) := by
  intro h
  refine h 0 (sEnd 0xF000000) (endOf 0xF000000) ?_ ?_ ?_ ?_ ?_ ?_
  all_goals first
    | decide +kernel | exact canon_of (by decide +kernel) | exact quiet_of (by decide +kernel)

/-- Probe 4 of die 0 set up for a source and an instance, with 3 segments of its region. -/
def sTrc (src inst : Nat) : State :=
  let s := ((((booted.put (TRC.CFG 0) F.TRC_CFG_EN 1).put (TRC.P_PCFG 0 4) F.TRC_P_PCFG_SRC src).put (TRC.P_PCFG 0 4) F.TRC_P_PCFG_INST inst).put
    (TRC.P_BASE 0 4) F.TRC_P_BASE_OFFS 16).put (TRC.P_SEG 0 4) F.TRC_P_SEG_NSEG 3
  let s := ((s.put (TRC.P_SEG 0 4) F.TRC_P_SEG_SEGLEN 2).put (TRC.P_CAPT 0 4) F.TRC_P_CAPT_PRE 5).put (TRC.P_TRIG 0 4) F.TRC_P_TRIG_FIELD 0x50
  (((s.wv (TRC.P_WRIDX 0 4) 55).wv (TRC.P_RDIDX 0 4) 54).write 0x18001003 [0xFF]).setTb 2 ⟨7, 5, 0⟩
theorem witness_arms_1 : ¬ (∀ (d : Fin 2) (p : Fin 16) (s : State), Canon s → Quiet s → Opens s (TRC.P_PCFG d p) → s.rb
    (TRC.P_PCFG d p) F.TRC_P_PCFG_EN = false → s.armCode d p = 0 → s.poison = [] → False) := by
  intro h
  refine h 0 4 (sTrc 4 0) ?_ ?_ ?_ ?_ ?_ ?_
  all_goals first
    | decide +kernel | exact opens_of (by decide +kernel) | exact canon_of (by decide +kernel)
    | exact quiet_of (by decide +kernel)

theorem witness_arms_2 : ¬ (∀ (d : Fin 2) (p : Fin 16) (s : State), Canon s → Quiet s → Opens s (TRC.P_PCFG d p) → s.rb
    (TRC.P_PCFG d p) F.TRC_P_PCFG_EN = false → s.armCode d p ≠ 0 → False) := by
  intro h
  refine h 0 4 (sTrc 3 0) ?_ ?_ ?_ ?_ ?_
  all_goals first
    | decide +kernel | exact opens_of (by decide +kernel) | exact canon_of (by decide +kernel)
    | exact quiet_of (by decide +kernel)

def armed4 : Probe := { Probe.init with armed := true, src := 4, isOpen := true, stamp := 7000000005 }
def sArmed (x : Probe) : State := (((sTrc 4 0).put (TRC.P_PCFG 0 4) F.TRC_P_PCFG_EN 1).wv (TRC.P_WRIDX 0 4) 0).setProbe 0 4 x
theorem witness_segments_1 : ¬ (∀ (d : Fin 2) (p : Fin 16) (s : State), Canon s → Quiet s → Opens s (TRC.P_PCFG d p) → s.rb
    (TRC.P_PCFG d p) F.TRC_P_PCFG_EN = true → False) := by
  intro h
  refine h 0 4 (sArmed armed4) ?_ ?_ ?_ ?_
  all_goals first
    | decide +kernel | exact opens_of (by decide +kernel) | exact canon_of (by decide +kernel)
    | exact quiet_of (by decide +kernel)

theorem witness_segments_2 : ¬ (∀ (d : Fin 2) (p : Fin 16) (s : State), Canon s → (s.probe d p).armed = true → (s.probe d
    p).isOpen = false → s.probeFull d p = false → s.dormant = false → False) := by
  intro h
  refine h 0 4 ((sArmed { armed4 with isOpen := false }).wv (TRC.P_RDIDX 0 4) 0) ?_ ?_ ?_ ?_ ?_
  all_goals first
    | decide +kernel | exact canon_of (by decide +kernel)

theorem witness_segments_3 : ¬ (∀ (d : Fin 2) (p : Fin 16) (s : State) x, Canon s → Quiet s → x = s.probe d p → x.armed = true →
    x.isOpen = true → x.trig = none → s.dormant = false → x.stamp + 1000000000 ≤ s.tb2nsOn d → False) := by
  intro h
  refine h 0 4 ((sArmed armed4).setTb 2 ⟨8, 5, 0⟩) armed4 ?_ ?_ ?_ ?_ ?_ ?_ ?_ ?_
  all_goals first
    | decide +kernel | exact canon_of (by decide +kernel) | exact quiet_of (by decide +kernel)

theorem witness_segments_4 : ¬ (∀ (d : Fin 2) (p : Fin 16) (v : BitVec 32) (s : State), Canon s → Opens s (TRC.P_RDIDX d p) →
    False) := by
  intro h
  refine h 0 4 0x12345678 (sArmed armed4) ?_ ?_
  all_goals first
    | decide +kernel | exact opens_of (by decide +kernel) | exact canon_of (by decide +kernel)

def sSkew : State :=
  (((booted.put (TDM.CTRL 3) F.TDM_CTRL_EN 1).put (TDM.CTRL 5) F.TDM_CTRL_EN 1).wv TRC.SKEWMASK0 0x2A).wv (TRC.RESID 7) 99
theorem witness_skew_measurements_1 : ¬ (∀ (v : BitVec 32) (s : State), Canon s → Opens s TRC.SKEWCMD → s.ready TRC.SKEW_STATUS
    = true → s.skewCode (v.toNat % 64) = 0 → False) := by
  intro h
  refine h 3 sSkew ?_ ?_ ?_ ?_
  all_goals first
    | decide +kernel | exact opens_of (by decide +kernel) | exact canon_of (by decide +kernel)

theorem witness_skew_measurements_2 : ¬ (∀ (v : BitVec 32) (s : State), Canon s → Quiet s → Opens s TRC.SKEWCMD → s.ready
    TRC.SKEW_STATUS = true → s.skewCode (v.toNat % 64) ≠ 0 → False) := by
  intro h
  refine h 9 sSkew ?_ ?_ ?_ ?_ ?_
  all_goals first
    | decide +kernel | exact opens_of (by decide +kernel) | exact canon_of (by decide +kernel)
    | exact quiet_of (by decide +kernel)

def skew3 : Skew := ⟨3, [(3, List.range 64), (5, (List.range 64).map (· + 3))]⟩
theorem witness_skew_measurements_3 : ¬ (∀ (s : State) k, Canon s → Quiet s → s.skew = some k → s.skewCode k.ref = 0 → 64 ≤
    (sget k.tags [] k.ref.val).length → False) := by
  intro h
  refine h ({ sSkew with skew := some skew3 }) skew3 ?_ ?_ ?_ ?_ ?_
  all_goals first
    | decide +kernel | exact canon_of (by decide +kernel) | exact quiet_of (by decide +kernel)


def pubKey : List Byte := beBytes 64 13089448629055772817220248564904180701610063500164701856080159003186069347420660512670629079932417128148908274006594153350686410416922999034041122020884206
def pubHash : List Byte := beBytes 32 81708426601779402229052054488005531297887407800004344248746401167487442518289
def imageSig : List Byte := beBytes 64 6838020791335080949199278115642350619739719392274873249257963409834514239795620555417867701529610237454128694180032615265733723689018672772848105737139855
/-- A signed boot image of 8 bytes, of SVN 2. -/
def imageB : List Byte :=
  leBytes 4 0x50524E31 ++ leBytes 4 (1 + 256 + 2 * 2 ^ 24) ++ leBytes 4 8 ++ List.replicate 20 0 ++ pubKey ++ sha256 [1, 2, 3, 4, 5, 6, 7, 8] ++
    imageSig ++ List.replicate 64 0 ++ [1, 2, 3, 4, 5, 6, 7, 8]
/-- A part out of reset with a key in slot 0 that may sign boot images and open debug. -/
def sKey : State := (State.reset.putBytes (SEC.HASH 0 0) pubHash).put SEC.OTPINFO F.SEC_OTPINFO_PERM 5
def sFlash : State := sKey.put HIF.STATUS F.HIF_STATUS_HOSTSEL 2
theorem witness_boots_1 : ¬ (∀ (a b : Option (List Byte)) (s : State), s.package.held = false → s.sec.boot = 0 → s.booted =
    false → s.bootPort ≠ none → False) := by
  intro h
  refine h none none sKey ?_ ?_ ?_ ?_
  all_goals first
    | decide +kernel

theorem witness_boots_2 : ¬ (∀ (a b : Option (List Byte)) (s : State), Canon s → Quiet s → s.package.held = false → s.sec.boot =
    0 → s.booted = false → False) := by
  intro h
  refine h none none sKey ?_ ?_ ?_ ?_ ?_
  all_goals first
    | decide +kernel | exact canon_of (by decide +kernel) | exact quiet_of (by decide +kernel)

theorem witness_boots_3 : ¬ (∀ (f : List Byte) (b : Option (List Byte)) (s u : State), Canon s → Quiet s → s.package.held =
    false → s.sec.boot = 0 → s.booted = false → s.bootPort = none → s.bootCopy (some f) = (u, 0) → False) := by
  intro h
  refine h imageB none sFlash (sFlash.bootCopy (some imageB)).1 ?_ ?_ ?_ ?_ ?_ ?_ (pair_code (by decide +kernel))
  all_goals first
    | decide +kernel | exact canon_of (by decide +kernel) | exact quiet_of (by decide +kernel)

theorem witness_boots_4 : ¬ (∀ (a b : Option (List Byte)) (s u v : State) (c : Nat), Canon s → Quiet s → s.package.held = false
    → s.sec.boot = 0 → s.booted = false → s.bootPort = none → (∃ e, s.bootCopy a = (u, e) ∧ e ≠ 0) → u.bootCopy b = (v, c) → c ≠
    0 → False) := by
  intro h
  refine h none (some [1, 2, 3]) sFlash sFlash (sFlash.bootCopy (some [1, 2, 3])).1 0x0D01 ?_ ?_ ?_ ?_ ?_ ?_ ⟨0x0D08, rfl, by
    decide⟩ (pair_code (by decide +kernel)) ?_
  all_goals first
    | decide +kernel | exact canon_of (by decide +kernel) | exact quiet_of (by decide +kernel)

def sLoad : State := { sKey.write 0x10000000 (imageB.take 100) with sec := { sKey.sec with boot := 1 } }
theorem witness_boots_5 : ¬ (∀ (s : State) (h : List Byte) (e : Envelope) (c : Nat), Canon s → Quiet s → Opens s SEC.BOOTCMD →
    s.booted = false → s.sec.boot = 1 → s.ready SEC.BSTATUS = true → h = s.bytes 0x10000000 256 → e = envelope h → c = (if
    s.poisonedIn 0x10000000 256 then 0x0D01 else if s.poisonedIn 0x10000100 e.plen then 0x0D07 else s.verify 1 h (s.bytes
    0x10000100 e.plen)) → False) := by
  intro h
  refine h sLoad _ _ _ ?_ ?_ ?_ ?_ ?_ ?_ rfl rfl rfl
  all_goals first
    | decide +kernel | exact opens_of (by decide +kernel) | exact canon_of (by decide +kernel)
    | exact quiet_of (by decide +kernel)

/-- The key slot 0 programmed in a part that has booted. -/
def sOtp (arg : Nat) : State :=
  (((booted.putBytes (SEC.HASH 0 0) pubHash).put SEC.OTPINFO F.SEC_OTPINFO_PERM 5).putBytes (SEC.OTPDATA 0)
    ((List.range 32).map (fun i => BitVec.ofNat 8 (i + 100)))).wv SEC.OTPARG arg
theorem witness_otp_commands_1 : ¬ (∀ (e : Instr × Nat) (s : State) (c : Nat), e ∈ otpOps → Canon s → Quiet s → Opens s
    SEC.OTPCMD → s.ready SEC.OTP_STATUS = true → c = s.otpCode e.2 (s.rv SEC.OTPARG) → c = 0 → False) := by
  intro h
  refine h (.progkey, 1) (sOtp (1 + 5 * 16)) 0 ?_ ?_ ?_ ?_ ?_ ?_ ?_
  all_goals first
    | decide +kernel | exact opens_of (by decide +kernel) | exact canon_of (by decide +kernel)
    | exact quiet_of (by decide +kernel)

theorem witness_otp_commands_1b : ¬ (∀ (e : Instr × Nat) (s : State) (c : Nat), e ∈ otpOps → Canon s → Quiet s → Opens s
    SEC.OTPCMD → s.ready SEC.OTP_STATUS = true → c = s.otpCode e.2 (s.rv SEC.OTPARG) → c ≠ 0 → False) := by
  intro h
  refine h (.progkey, 1) (sOtp 0) ((sOtp 0).otpCode 1 0) ?_ ?_ ?_ ?_ ?_ ?_ ?_
  all_goals first
    | decide +kernel | exact opens_of (by decide +kernel) | exact canon_of (by decide +kernel)
    | exact quiet_of (by decide +kernel)

def otpKey : OtpRun := ⟨1, BitVec.ofNat 32 (1 + 5 * 16), List.replicate 32 9⟩
def sOtpRun : State := { sOtp 81 with sec := { (sOtp 81).sec with otp := some otpKey } }
theorem witness_otp_ends_1 : ¬ (∀ (s : State) q arg, Canon s → Quiet s → s.sec.otp = some q → q.data.length = 32 → arg =
    q.arg.toNat → False) := by
  intro h
  refine h sOtpRun otpKey 81 ?_ ?_ ?_ ?_ ?_
  all_goals first
    | decide +kernel | exact canon_of (by decide +kernel) | exact quiet_of (by decide +kernel)

theorem witness_otp_ends_2 : ¬ (∀ (s : State) q, Canon s → Quiet s → s.sec.otp = some q → False) := by
  intro h
  refine h sOtpRun otpKey ?_ ?_ ?_
  all_goals first
    | decide +kernel | exact canon_of (by decide +kernel) | exact quiet_of (by decide +kernel)

theorem witness_measurements_1 : ¬ (∀ (r : BitVec 3) (s : State), Canon s → Opens s SEC.MREXT → s.ready SEC.MR_STATUS = true → 2
    ≤ r.toNat → False) := by
  intro h
  refine h 7 (booted.putBytes (SEC.MRVAL 0) [7, 8, 9]) ?_ ?_ ?_ ?_
  all_goals first
    | decide +kernel | exact opens_of (by decide +kernel) | exact canon_of (by decide +kernel)

theorem witness_measurements_2 : ¬ (∀ (r : BitVec 3) (s : State), Canon s → Opens s SEC.MREXT → s.ready SEC.MR_STATUS = true →
    r.toNat < 2 → False) := by
  intro h
  refine h 1 (booted.putBytes (SEC.MRVAL 0) [7, 8, 9]) ?_ ?_ ?_ ?_
  all_goals first
    | decide +kernel | exact opens_of (by decide +kernel) | exact canon_of (by decide +kernel)

def sQuote : State :=
  let s := ((booted.put SEC.OTPINFO F.SEC_OTPINFO_IDK 1).put SEC.QMASK F.SEC_QMASK_QMASK 3).wv SEC.QADDRLO 0x10000100
  { s with sec := { s.sec with idk := 12345 } }
theorem witness_measurements_3 : ¬ (∀ (s : State), Canon s → Opens s SEC.QCMD → s.ready SEC.QSTATUS = true → s.quoteCode = 0 →
    False) := by
  intro h
  refine h sQuote ?_ ?_ ?_ ?_
  all_goals first
    | decide +kernel | exact opens_of (by decide +kernel) | exact canon_of (by decide +kernel)

theorem witness_measurements_4 : ¬ (∀ (s : State), Canon s → Quiet s → Opens s SEC.QCMD → s.ready SEC.QSTATUS = true →
    s.quoteCode ≠ 0 → False) := by
  intro h
  refine h booted ?_ ?_ ?_ ?_ ?_
  all_goals first
    | decide +kernel | exact opens_of (by decide +kernel) | exact canon_of (by decide +kernel)
    | exact quiet_of (by decide +kernel)

def quoteQ : QuoteRun := ⟨[1, 2, 3], 0x10000100⟩
theorem witness_measurements_5 : ¬ (∀ (s : State) q, Canon s → Quiet s → s.sec.quote = some q → False) := by
  intro h
  refine h ({ sQuote with sec := { sQuote.sec with quote := some quoteQ } }) quoteQ ?_ ?_ ?_
  all_goals first
    | decide +kernel | exact canon_of (by decide +kernel) | exact quiet_of (by decide +kernel)

def sNoRng : State := { booted with sec := { booted.sec with trngBad := true } }
theorem witness_random_numbers_1 : ¬ (∀ (s : State), Canon s → Opens s SEC.RNGCMD → s.ready SEC.RNG_STATUS = true →
    s.sec.trngBad = false → False) := by
  intro h
  refine h booted ?_ ?_ ?_ ?_
  all_goals first
    | decide +kernel | exact opens_of (by decide +kernel) | exact canon_of (by decide +kernel)

theorem witness_random_numbers_2 : ¬ (∀ (s : State), Canon s → Opens s SEC.RNGCMD → s.ready SEC.RNG_STATUS = true →
    s.sec.trngBad = true → False) := by
  intro h
  refine h sNoRng ?_ ?_ ?_ ?_
  all_goals first
    | decide +kernel | exact opens_of (by decide +kernel) | exact canon_of (by decide +kernel)

theorem witness_random_numbers_3 : ¬ (∀ (s : State), Canon s → Quiet s → False) := by
  intro h
  refine h booted ?_ ?_
  all_goals first
    | decide +kernel | exact canon_of (by decide +kernel) | exact quiet_of (by decide +kernel)

theorem witness_debug_unlocks_1 : ¬ (∀ (s : State), Canon s → Opens s SEC.DBGCMD → s.ready SEC.DBG_STATUS = true → s.sec.trngBad
    = false → False) := by
  intro h
  refine h booted ?_ ?_ ?_ ?_
  all_goals first
    | decide +kernel | exact opens_of (by decide +kernel) | exact canon_of (by decide +kernel)

theorem witness_debug_unlocks_2 : ¬ (∀ (s : State), Canon s → Opens s SEC.DBGCMD → s.ready SEC.DBG_STATUS = true → s.sec.trngBad
    = true → False) := by
  intro h
  refine h sNoRng ?_ ?_ ?_ ?_
  all_goals first
    | decide +kernel | exact opens_of (by decide +kernel) | exact canon_of (by decide +kernel)

/-- A challenge answered for scopes 3 after 7 failures, with scope 4 open. -/
def sDbg0 : State :=
  (((((booted.putBytes (SEC.HASH 0 0) pubHash).put SEC.OTPINFO F.SEC_OTPINFO_PERM 5).putBytes (SEC.DBGPUB 0) pubKey).put SEC.DBGSCOPE
    F.SEC_DBGSCOPE_SCOPE 3).put SEC.DBGSCOPE F.SEC_DBGSCOPE_OPEN 4).putBytes (SEC.DBGSIG 0) (beBytes 64 4761992526320468079762811227415652285308056299258450402485935443364015599324759901351183557948533927716696910299710941457001567957734877381445292859167743)
def sDbg : State := { sDbg0 with sec := { sDbg0.sec with challenge := true, fails := 7 } }
theorem witness_debug_unlocks_3 : ¬ (∀ (s : State) o v, Canon s → Quiet s → Opens s SEC.DBGCMD → s.ready SEC.DBG_STATUS = true →
    s.unlockCode = 0 → o = s.rf SEC.DBGSCOPE F.SEC_DBGSCOPE_OPEN → v = s.rf SEC.DBGSCOPE F.SEC_DBGSCOPE_SCOPE → False) := by
  intro h
  refine h sDbg 4 3 ?_ ?_ ?_ ?_ ?_ ?_ ?_
  all_goals first
    | decide +kernel | exact opens_of (by decide +kernel) | exact canon_of (by decide +kernel)
    | exact quiet_of (by decide +kernel)

theorem witness_debug_unlocks_4 : ¬ (∀ (s : State), Canon s → Opens s SEC.DBGCMD → s.ready SEC.DBG_STATUS = true → s.unlockCode
    ≠ 0 → False) := by
  intro h
  refine h booted ?_ ?_ ?_ ?_
  all_goals first
    | decide +kernel | exact opens_of (by decide +kernel) | exact canon_of (by decide +kernel)

theorem witness_debug_unlocks_5 : ¬ (∀ (s : State), Canon s → Quiet s → Opens s SEC.DBGCMD → s.ready SEC.DBG_STATUS = true →
    False) := by
  intro h
  refine h sDbg ?_ ?_ ?_ ?_
  all_goals first
    | decide +kernel | exact opens_of (by decide +kernel) | exact canon_of (by decide +kernel)
    | exact quiet_of (by decide +kernel)

end Sys2Proof.Tests
end

section
/-!
SUPPORT. The arithmetic of the integer instructions (R96, R97, R111, R113): what the model's functions compute is what the
formulas of the statements say.
-/

namespace Sys2Proof

open Sys2Proof.Machine

/-! ## Saturation -/

theorem clampInt_eq_max_min {lo hi : Int} (h : lo ≤ hi) (v : Int) : clampInt lo hi v = max lo (min v hi) := by
  unfold clampInt
  split
  · omega
  · split <;> omega

/-- Saturation holds a value to the range of its width, and tells whether it left it (R96). -/
theorem satTo_eq (w : Nat) (v : Int) : satTo w v = (heldTo w v, decide (heldTo w v ≠ v)) := by
  have hpos : (0 : Int) < 2 ^ (w - 1) := by positivity
  have hclamp : clampInt (-(2 ^ (w - 1) : Nat)) ((2 ^ (w - 1) : Nat) - 1) v = heldTo w v := by
    push_cast
    exact clampInt_eq_max_min (by omega) v
  unfold satTo
  rw [hclamp]
  simp [bne, beq_eq_decide]

theorem sat32_eq_held32 (v : Int) : sat32 v = held32 v := by
  unfold sat32 held32 word
  rw [satTo_eq]

theorem shlSat_eq_heldShift (a : Word) (n : Nat) : shlSat a n = heldShift a n := by
  unfold shlSat heldShift
  rw [sat32_eq_held32]
  push_cast
  rfl

theorem dual_true_eq_held2 (f : Int → Int → Int) (a b : Word) :
    dual true f a b = held2 (f (hi16 a).toInt (hi16 b).toInt) (f (lo16 a).toInt (lo16 b).toInt) := by
  unfold dual held2 halves
  simp only [satTo_eq, if_true]

/-- Wrapping sums of halves are sums of 16-bit words. -/
theorem dual_false_add (a b : Word) :
    dual false (· + ·) a b = ((hi16 a + hi16 b) ++ (lo16 a + lo16 b), false) := by
  simp [dual, halves, BitVec.ofInt_add]

theorem dual_false_sub (a b : Word) :
    dual false (· - ·) a b = ((hi16 a - hi16 b) ++ (lo16 a - lo16 b), false) := by
  simp [dual, halves, Int.sub_eq_add_neg, BitVec.sub_eq_add_neg, BitVec.ofInt_add, BitVec.ofInt_neg]

/-! ## Shifts -/

/-- An arithmetic shift by 31 or more leaves the sign in every bit. -/
theorem getLsbD_sshiftRight_of_ge_31 (a : Word) {n i : Nat} (hn : 31 ≤ n) (hi : i < 32) :
    (a.sshiftRight n).getLsbD i = a.msb := by
  rw [BitVec.getLsbD_sshiftRight]
  by_cases hsum : n + i < 32
  · have htop : n + i = 31 := by omega
    simp [htop, hi, BitVec.msb_eq_getLsbD_last]
  · simp [hsum, hi]

theorem sshiftRight_min_31 (a : Word) (n : Nat) : a.sshiftRight (min n 31) = a.sshiftRight n := by
  rcases Nat.le_total n 31 with hn | hn
  · rw [Nat.min_eq_left hn]
  · rw [Nat.min_eq_right hn]
    refine BitVec.eq_of_getLsbD_eq fun i hi => ?_
    rw [getLsbD_sshiftRight_of_ge_31 a (Nat.le_refl 31) hi, getLsbD_sshiftRight_of_ge_31 a hn hi]

theorem shiftBy_eq_shifted (kind : Nat) (a : Word) (n : Nat) : shiftBy kind a n = shifted kind a n := by
  match kind with
  | 0 =>
    by_cases hn : n < 32
    · simp [shiftBy, shifted, hn]
    · simp [shiftBy, shifted, hn, BitVec.shiftLeft_eq_zero (Nat.le_of_not_lt hn)]
  | 1 =>
    by_cases hn : n < 32
    · simp [shiftBy, shifted, hn]
    · simp [shiftBy, shifted, hn, BitVec.ushiftRight_eq_zero (Nat.le_of_not_lt hn)]
  | 2 => simp [shiftBy, shifted, sshiftRight_min_31]
  | k + 3 => simp [shiftBy, shifted, shlSat_eq_heldShift]

/-! ## Minimum, maximum and absolute value -/

theorem ofInt_min_toInt (a b : Word) : BitVec.ofInt 32 (min a.toInt b.toInt) = if a.toInt ≤ b.toInt then a else b := by
  split
  · next h => rw [min_eq_left h, BitVec.ofInt_toInt]
  · next h => rw [min_eq_right (by omega), BitVec.ofInt_toInt]

theorem ofInt_max_toInt (a b : Word) : BitVec.ofInt 32 (max a.toInt b.toInt) = if a.toInt ≤ b.toInt then b else a := by
  split
  · next h => rw [max_eq_right h, BitVec.ofInt_toInt]
  · next h => rw [max_eq_left (by omega), BitVec.ofInt_toInt]

theorem ofNat_min_toNat (a b : Word) : BitVec.ofNat 32 (min a.toNat b.toNat) = if a.toNat ≤ b.toNat then a else b := by
  split
  · next h => rw [min_eq_left h, BitVec.ofNat_toNat, BitVec.setWidth_eq]
  · next h => rw [min_eq_right (by omega), BitVec.ofNat_toNat, BitVec.setWidth_eq]

theorem ofNat_max_toNat (a b : Word) : BitVec.ofNat 32 (max a.toNat b.toNat) = if a.toNat ≤ b.toNat then b else a := by
  split
  · next h => rw [max_eq_right h, BitVec.ofNat_toNat, BitVec.setWidth_eq]
  · next h => rw [max_eq_left (by omega), BitVec.ofNat_toNat, BitVec.setWidth_eq]

theorem word_natAbs_toInt (a : Word) : word a.toInt.natAbs = if a.toInt < 0 then -a else a := by
  unfold word
  split
  · next h => rw [Int.ofNat_natAbs_of_nonpos (by omega), BitVec.ofInt_neg, BitVec.ofInt_toInt]
  · next h => rw [Int.natAbs_of_nonneg (by omega), BitVec.ofInt_toInt]

/-! ## Counts of leading bits -/

/-- Where a predicate holds below k and fails at k, the longest first part of the range that satisfies it has length k. -/
theorem length_takeWhile_range {p : Nat → Bool} {n k : Nat} (hk : k ≤ n) (below : ∀ i < k, p i = true)
    (stop : k < n → p k = false) : ((List.range n).takeWhile p).length = k := by
  obtain ⟨m, rfl⟩ := Nat.exists_eq_add_of_le hk
  rw [List.range_add, List.takeWhile_append_of_pos (fun i hi => below i (List.mem_range.mp hi))]
  cases m with
  | zero => simp
  | succ m => simp [List.range_succ_eq_map, stop (by omega)]

/-- The bits of x below 2^n, read from bit n − 1 down, are zero up to the highest one. -/
theorem length_takeWhile_zero_bits {p : Nat → Bool} {n x : Nat} (hx : x < 2 ^ n)
    (hp : ∀ i < n, p i = !x.testBit (n - 1 - i)) :
    ((List.range n).takeWhile p).length = if x = 0 then n else n - 1 - x.log2 := by
  split
  · next h0 =>
    subst h0
    exact length_takeWhile_range (Nat.le_refl n) (fun i hi => by simp [hp i hi]) (fun h => absurd h (lt_irrefl n))
  · next h0 =>
    have hlog : x.log2 < n := (Nat.log2_lt h0).mpr hx
    refine length_takeWhile_range (by omega) (fun i hi => ?_) (fun _ => ?_)
    · have habove : x < 2 ^ (n - 1 - i) := (Nat.log2_lt h0).mp (by omega)
      rw [hp i (by omega), Nat.testBit_lt_two_pow habove, Bool.not_false]
    · have hat : n - 1 - (n - 1 - x.log2) = x.log2 := by omega
      rw [hp _ (by omega), hat, Nat.testBit_log2 h0, Bool.not_true]

theorem clz32_eq_leadingZeros (a : Word) : clz32 a = leadingZeros a := by
  have hlen := length_takeWhile_zero_bits (p := fun i => !bit a.toNat (31 - i)) a.isLt (fun _ _ => rfl)
  unfold clz32 leadingZeros
  rw [hlen]
  simp [← BitVec.toNat_inj]

/-- The count reads the low bits of its operand alone. -/
theorem normOf_mod {w : Nat} (hw : 0 < w) (v : Nat) : normOf w (v % 2 ^ w) = normOf w v := by
  have hbit : ∀ j < w, bit (v % 2 ^ w) j = bit v j := fun j hj => by
    simp [bit, Nat.testBit_mod_two_pow, hj]
  have hlow : ∀ i, bit (v % 2 ^ w) (w - 2 - i) = bit v (w - 2 - i) := fun i => hbit _ (by omega)
  unfold normOf
  simp only [Nat.mod_mod, hlow, hbit (w - 1) (by omega)]

/-- The complement of a negative value, or the value itself, gives the count of a number that is not 0. -/
theorem repeatedSigns_of_ne_zero {v : Int} {x : Nat} (w : Nat) (h0 : v ≠ 0)
    (hx : (if v < 0 then -v - 1 else v).toNat = x) :
    repeatedSigns w v = if x = 0 then w - 1 else w - 1 - 1 - x.log2 := by
  unfold repeatedSigns
  rw [if_neg h0, hx]
  rfl

/-- The sign bits that repeat are the leading zeros of the value, or of its complement where it is negative (R111). -/
theorem normOf_toNat {w : Nat} (hw : 0 < w) (a : BitVec w) : normOf w a.toNat = repeatedSigns w a.toInt := by
  have hlt := a.isLt
  have hpow : 2 ^ w = 2 * 2 ^ (w - 1) := by rw [← Nat.pow_succ', Nat.succ_eq_add_one, Nat.sub_add_cancel hw]
  have hsign : a.toNat.testBit (w - 1) = a.msb := (BitVec.msb_eq_getLsbD_last a).symm
  have hval := BitVec.toInt_eq_msb_cond a
  unfold normOf
  rw [Nat.mod_eq_of_lt hlt]
  simp only [bit, hsign]
  split
  · next h0 => simp [BitVec.toInt_eq_toNat_cond, h0, repeatedSigns]
  · next h0 =>
    cases hm : a.msb with
    | false =>
      have hhalf := BitVec.msb_eq_false_iff_two_mul_lt.mp hm
      rw [hm, if_neg Bool.false_ne_true] at hval
      rw [repeatedSigns_of_ne_zero (x := a.toNat) w (by omega) (by split <;> omega)]
      exact length_takeWhile_zero_bits (by omega) (fun i _ => by simp [Nat.sub_sub])
    | true =>
      have hhalf := BitVec.msb_eq_true_iff_two_mul_ge.mp hm
      rw [hm, if_pos rfl] at hval
      rw [repeatedSigns_of_ne_zero (x := 2 ^ w - (a.toNat + 1)) w (by omega) (by split <;> omega)]
      refine length_takeWhile_zero_bits (by omega) (fun i hi => ?_)
      simp [Nat.testBit_two_pow_sub_succ hlt, Nat.sub_sub, hw.ne']

theorem normOf_16_toNat (a : Word) : normOf 16 a.toNat = repeatedSigns 16 (lo16 a).toInt := by
  rw [← normOf_toNat (by decide), lo16, BitVec.toNat_setWidth, normOf_mod (by decide)]

/-! ## Rounding (R97) -/

/-- Rounding by cases on the remainder is the quotient of R97's formula: half up adds half the divisor before it divides,
convergent takes the even neighbour of a tie. -/
theorem roundShift_eq (mode : Nat) (v : Int) (k : Nat) :
    roundShift mode v k =
      (let m : Int := 2 ^ k
       if mode = 1 then v / m
       else if mode = 2 ∧ 2 * (v % m) = m then 2 * ((v / m + 1) / 2)
       else (2 * v + m) / (2 * m)) := by
  have hpos : (0 : Int) < 2 ^ k := by positivity
  have hodd : (2 : Int) ^ k = 1 ∨ (2 : Int) ^ k % 2 = 0 := by
    cases k with
    | zero => simp
    | succ k => exact .inr (by rw [pow_succ]; exact Int.mul_emod_left _ _)
  unfold roundShift
  push_cast
  generalize (2 : Int) ^ k = m at *
  have hv := Int.mul_ediv_add_emod v m
  have h0 := Int.emod_nonneg v hpos.ne'
  have hm := Int.emod_lt_of_pos v hpos
  have hup : (2 * v + m) / (2 * m) = if m ≤ 2 * (v % m) then v / m + 1 else v / m := by
    have hsum : 2 * v + m = 2 * m * (v / m) + (2 * (v % m) + m) := by linear_combination -2 * hv
    split
    · exact ((Int.ediv_emod_unique (r := 2 * (v % m) - m) (by omega)).mpr
        ⟨by linear_combination -hsum, by omega, by omega⟩).1
    · exact ((Int.ediv_emod_unique (r := 2 * (v % m) + m) (by omega)).mpr
        ⟨by linear_combination -hsum, by omega, by omega⟩).1
  rw [hup]
  generalize v / m = q at *
  generalize v % m = r at *
  split_ifs <;> omega

/-! ## Division (R113) -/

/-- A word with its lowest bit clear takes a 1 there by addition. -/
theorem or_one_of_even {n : Nat} (h : n % 2 = 0) : n ||| 1 = n + 1 := by
  have hhalf : 2 ^ 1 * (n / 2) = n := by omega
  have hadd := Nat.two_pow_add_eq_or_of_lt (i := 1) (b := 1) (by decide) (n / 2)
  rw [hhalf] at hadd
  exact hadd.symm

/-- Halves of a word joined and the lowest bit set, as a number. -/
theorem toNat_append_or_one (h l : BitVec 16) (hl : l.toNat % 2 = 0) :
    (h ++ (l ||| 1)).toNat = h.toNat * 65536 + l.toNat + 1 := by
  have hor : (l ||| 1).toNat = l.toNat + 1 := by rw [BitVec.toNat_or]; exact or_one_of_even hl
  rw [BitVec.toNat_append, ← Nat.shiftLeft_add_eq_or_of_lt (l ||| 1).isLt, hor, Nat.shiftLeft_eq]
  omega

/-- One step of division on numbers: the high half of the doubled word, less the divisor where that fits (R113). -/
def divideNat (u d : Nat) : Nat :=
  let t := 2 * u % 2 ^ 32
  if d ≤ t / 65536 then t - d * 65536 + 1 else t

theorem toNat_double (u : Word) : (u <<< 1).toNat = 2 * u.toNat % 2 ^ 32 := by
  rw [BitVec.toNat_shiftLeft, Nat.shiftLeft_eq, pow_one, Nat.mul_comm]

theorem toNat_divideStep (u s : Word) : (divideStep u s).toNat = divideNat u.toNat (s.toNat % 65536) := by
  have hdouble := toNat_double u
  have heven : (u <<< 1).toNat % 2 = 0 := by omega
  have hlt := (u <<< 1).isLt
  unfold divideStep divideNat
  rw [← hdouble]
  generalize u <<< 1 = t at *
  generalize s.toNat % 65536 = d at *
  dsimp only
  split
  · next hle =>
    have hlow : (t &&& 0xFFFF).toNat = t.toNat % 65536 := by
      rw [BitVec.toNat_and]
      exact Nat.and_two_pow_sub_one_eq_mod t.toNat 16
    have hjoin : (t.toNat / 65536 - d) * 65536 ||| t.toNat % 65536 = (t.toNat / 65536 - d) * 65536 + t.toNat % 65536 := by
      rw [Nat.mul_comm]
      exact (Nat.two_pow_add_eq_or_of_lt (i := 16) (Nat.mod_lt _ (by decide)) _).symm
    rw [BitVec.toNat_or, BitVec.toNat_or, hlow, BitVec.toNat_ofNat, Nat.mod_eq_of_lt (by omega), hjoin]
    exact (or_one_of_even (by omega)).trans (by omega)
  · rfl

theorem toNat_divStep (d s : Word) : (divStep d s).toNat = divideNat d.toNat (s.toNat % 65536) := by
  have hdouble := toNat_double d
  have heven : (d <<< 1).toNat % 2 = 0 := by omega
  have hlt := (d <<< 1).isLt
  unfold divStep divideNat halves
  rw [← hdouble]
  generalize d <<< 1 = t at *
  have hlo : (lo16 t).toNat = t.toNat % 65536 := by simp [lo16]
  have hlos : (lo16 s).toNat = s.toNat % 65536 := by simp [lo16]
  have hhi : (hi16 t).toNat = t.toNat / 65536 := by
    simp [hi16, Nat.shiftRight_eq_div_pow]
    omega
  dsimp only
  rw [hlos, hhi]
  split
  · next hle =>
    rw [toNat_append_or_one _ _ (by omega), BitVec.toNat_sub_of_le (by rw [BitVec.le_def]; omega)]
    omega
  · rfl

theorem divStep_eq_divideStep (d s : Word) : divStep d s = divideStep d s :=
  BitVec.eq_of_toNat_eq (by rw [toNat_divStep, toNat_divideStep])

/-- Doubling the dividend doubles the quotient and the remainder, and takes the divisor out where it then fits. -/
theorem double_div_mod {n d : Nat} (hd : 0 < d) :
    if d ≤ 2 * (n % d) then 2 * n / d = 2 * (n / d) + 1 ∧ 2 * n % d = 2 * (n % d) - d
    else 2 * n / d = 2 * (n / d) ∧ 2 * n % d = 2 * (n % d) := by
  have hn := Nat.div_add_mod n d
  have hr := Nat.mod_lt n hd
  split
  · refine (Nat.div_mod_unique hd).mpr ⟨?_, by omega⟩
    rw [Nat.mul_add, Nat.mul_left_comm]
    omega
  · refine (Nat.div_mod_unique hd).mpr ⟨?_, by omega⟩
    rw [Nat.mul_left_comm]
    omega

/-- A step takes a remainder and the quotient's bits so far to the next remainder and one bit more. -/
theorem divideNat_step {n d : Nat} (hd : 0 < d) (hmax : d ≤ 0x7FFF) (hq : n / d < 2 ^ 15) :
    divideNat (n % d * 65536 + n / d) d = 2 * n % d * 65536 + 2 * n / d := by
  have hr := Nat.mod_lt n hd
  have hdouble := double_div_mod (n := n) hd
  unfold divideNat
  generalize n % d = r at *
  generalize n / d = q at *
  generalize 2 * n % d = r' at *
  generalize 2 * n / d = q' at *
  have hfit : 2 * (r * 65536 + q) % 2 ^ 32 = 2 * r * 65536 + 2 * q := by omega
  have hhigh : (2 * r * 65536 + 2 * q) / 65536 = 2 * r := by omega
  rw [hfit]
  dsimp only
  rw [hhigh]
  split
  · next hle =>
    rw [if_pos hle] at hdouble
    omega
  · next hgt =>
    rw [if_neg hgt] at hdouble
    omega

/-- k steps of division of num · 2^16 have brought k bits of the quotient into the low half and left the remainder in the
high half. -/
theorem divideStep_iterate {num den : Nat} (hnum : num < den) (hden : den ≤ 0x7FFF) {k : Nat} (hk : k ≤ 15) :
    ((List.range k).foldl (fun u _ => divideStep u (BitVec.ofNat 32 den)) (BitVec.ofNat 32 (num * 65536))).toNat =
      2 ^ k * num % den * 65536 + 2 ^ k * num / den := by
  have hpos : 0 < den := by omega
  induction k with
  | zero =>
    simp [Nat.mod_eq_of_lt hnum, Nat.div_eq_of_lt hnum]
    omega
  | succ k ih =>
    have hlow : (BitVec.ofNat 32 den).toNat % 65536 = den := by simp; omega
    have hq : 2 ^ k * num / den < 2 ^ 15 := by
      have hpow : 2 ^ k < 2 ^ 15 := Nat.pow_lt_pow_right (by decide) (by omega)
      exact (Nat.div_lt_iff_lt_mul hpos).mpr (Nat.mul_lt_mul'' hpow hnum)
    rw [List.range_succ, List.foldl_append, List.foldl_cons, List.foldl_nil, toNat_divideStep, hlow, ih (by omega),
      divideNat_step hpos hden hq, Nat.pow_succ', Nat.mul_assoc]

theorem divideStep_quotient {num den : Nat} (hnum : num < den) (hden : den ≤ 0x7FFF) :
    ((List.range 15).foldl (fun u _ => divideStep u (BitVec.ofNat 32 den)) (BitVec.ofNat 32 (num * 65536))).toNat % 32768 =
      num * 32768 / den := by
  have hlt : num * 32768 / den < 32768 := (Nat.div_lt_iff_lt_mul (by omega)).mpr (by omega)
  have hfin := divideStep_iterate hnum hden (Nat.le_refl 15)
  rw [Nat.mul_comm (2 ^ 15)] at hfin
  rw [hfin]
  generalize num * 32768 / den = q at *
  omega

end Sys2Proof
end

section
/-!
PROOFS. The integer, logic and predicate instructions (R111 to R113) alone in their bundles.
-/

namespace Sys2Proof

open Sys2Proof.Machine

/-! ## Instructions that write a G register -/

theorem ran_congr {h : Head} {s u t : State} {f g : Core → Core} (ran : Ran h s u t f)
    (hfg : f (coreAt h s) = g (coreAt h s)) : Ran h s u t g :=
  ⟨hfg ▸ ran.core, ran.over_, ran.cycles, ran.others, ran.regs, ran.rest⟩

/-- An instruction issues as one that writes a G register and perhaps SV, with the value that v gives. -/
def IssuesG (i : Instr) (h : Head) (rd : Fin 32) (v : Core → Word × Bool) : Prop :=
  ∃ uses : List CReg, ∀ s, exec i s = .next (s.issue i h fun c => headG h c rd uses (v c))

theorem fit_headG {i : Instr} {h : Head} {s : State} (al : Alone i h s) (rd : Fin 32) (uses : List CReg)
    (r : Word × Bool) : Fit h s (headG h (coreAt h s) rd uses r) :=
  ⟨al.on, rfl, rfl, nofun, nofun, nofun⟩

/-- Such an instruction alone in its bundle leaves its value in RD. -/
theorem IssuesG.ran {i : Instr} {h : Head} {rd : Fin 32} {v : Core → Word × Bool} (hi : IssuesG i h rd v) {s : State}
    (inv : Canon s) (quiet : Quiet s) (al : Alone i h s) :
    ∃ t, exec i s = .next t ∧ RanHere h s t (fun c => (c.gets rd (v c)).pass) := by
  obtain ⟨uses, hexec⟩ := hi
  have ran := issue_plain (p := fun c => headG h c rd uses (v c)) al quiet inv (fit_headG al rd uses _) rfl nofun nofun
  exact ⟨_, hexec s, ran_congr ran (solo_headG al.flat al.high rd uses _)⟩

/-- An instruction that issues with the value of one formula issues with that of an equal one. -/
theorem IssuesG.of_eq {i : Instr} {h : Head} {rd : Fin 32} {v : Core → Word × Bool} (uses : List CReg)
    {f : Core → Word × Bool} (hexec : ∀ s, exec i s = .next (s.issue i h fun c => headG h c rd uses (f c)))
    (hv : ∀ c, f c = v c) : IssuesG i h rd v :=
  ⟨uses, fun s => by rw [hexec, funext hv]⟩

/-! ## Instructions that write a predicate -/

theorem fit_toPred {i : Instr} {h : Head} {s : State} (al : Alone i h s) (qd : Fin 8) (uses : List CReg) (b : Bool) :
    Fit h s (toPred h (coreAt h s) qd uses (some b)) :=
  ⟨al.on, rfl, rfl, nofun, nofun, nofun⟩

theorem write_q (c : Core) (qd : Fin 8) (b : Bool) : c.write (.q qd) (bit72 b) = { c with q := setPred c.q qd b } := by
  show (if qd = 0 then c else _) = _
  unfold setPred
  split
  · rfl
  · cases b <;> rfl

theorem solo_toPred {h : Head} {c : Core} (flat : c.depth = 0) (high : c.pc.toNat ≤ 0x5FFFC) (qd : Fin 8)
    (uses : List CReg) (b : Bool) :
    soloCore (toPred h c qd uses (some b)) [] [] none c = ({ c with q := setPred c.q qd b } : Core).pass := by
  have hstat : c.stat ||| 0 ||| 0 = c.stat := by simp
  unfold soloCore toPred headPend Core.pass
  simp only [Option.toList_none, List.map_nil, List.append_nil, List.flatMap_nil, List.any_nil, Bool.or_self,
    List.foldl_cons, List.foldl_nil, Option.getD_some, write_q, Bool.false_eq_true, if_false, hstat, ← pass_pc high]
  exact advance_flat (c := { c with q := setPred c.q qd b }) flat _ _

/-- An instruction issues as one that writes a predicate, where the condition that v gives is not reserved. -/
def IssuesQ (i : Instr) (h : Head) (qd : Fin 8) (v : Core → Option Bool) : Prop :=
  ∃ uses : List CReg, ∀ s, exec i s = .next (s.issue i h fun c => toPred h c qd uses (v c))

/-- Such an instruction alone in its bundle leaves its condition in QD. -/
theorem IssuesQ.ran {i : Instr} {h : Head} {qd : Fin 8} {v : Core → Option Bool} {b : Bool} (hi : IssuesQ i h qd v)
    {s : State} (inv : Canon s) (quiet : Quiet s) (al : Alone i h s) (hv : v (coreAt h s) = some b) :
    ∃ t, exec i s = .next t ∧ RanHere h s t (fun c => ({ c with q := setPred c.q qd b } : Core).pass) := by
  obtain ⟨uses, hexec⟩ := hi
  have hfit : Fit h s (toPred h (coreAt h s) qd uses (v (coreAt h s))) := hv ▸ fit_toPred al qd uses b
  have ran := issue_plain (p := fun c => toPred h c qd uses (v c)) al quiet inv hfit rfl nofun nofun
  refine ⟨_, hexec s, ran_congr ran ?_⟩
  rw [hv]
  exact solo_toPred al.flat al.high qd uses b

theorem issuesQ_of_predRow {i : Instr} {h : Head} {qd : Fin 8} {v : Core → Option Bool}
    (row : predRow i = some (h, qd, v)) : IssuesQ i h qd v := by
  cases i with
  | cmp h cond qd rs rt =>
    cases row
    exact ⟨[.g rs, .g rt], fun _ => rfl⟩
  | cmpi h cond qd rs imm =>
    cases row
    exact ⟨[.g rs], fun _ => rfl⟩
  | qop h func qd qa na qb nb =>
    cases row
    exact ⟨[], fun _ => rfl⟩
  | _ => cases row

/-! ## Every row of the integer and logic instructions (R111, R113) -/

theorem setWidth_lo16 (a : Word) : (lo16 a).setWidth 32 = BitVec.ofNat 32 (a.toNat % 65536) := by
  apply BitVec.eq_of_toNat_eq
  simp [lo16]

theorem add_signExtend (a : Word) (imm : BitVec 11) :
    a + imm.signExtend 32 = BitVec.ofInt 32 (a.toInt + imm.toInt) := by
  rw [BitVec.ofInt_add, BitVec.ofInt_toInt]
  rfl

/-- An instruction of the table issues as one that writes RD with the value of its row. -/
theorem issuesG_of_aluRow {i : Instr} {h : Head} {rd : Fin 32} {v : Core → Word × Bool}
    (row : aluRow i = some (h, rd, v)) : IssuesG i h rd v := by
  cases i with
  | add | sub | and | or | xor | andn | packll | packhh =>
    cases row
    exact .of_eq [.g _, .g _] (fun _ => rfl) fun _ => rfl
  | adds | subs =>
    cases row
    exact .of_eq [.g _, .g _] (fun _ => rfl) fun _ => sat32_eq_held32 _
  | add2 =>
    cases row
    exact .of_eq [.g _, .g _] (fun _ => rfl) fun _ => dual_false_add _ _
  | sub2 =>
    cases row
    exact .of_eq [.g _, .g _] (fun _ => rfl) fun _ => dual_false_sub _ _
  | add2s | sub2s =>
    cases row
    exact .of_eq [.g _, .g _] (fun _ => rfl) fun _ => dual_true_eq_held2 _ _ _
  | shl | shr | sra | shls =>
    cases row
    exact .of_eq [.g _, .g _] (fun _ => rfl) fun _ => shiftBy_eq_shifted _ _ _
  | min =>
    cases row
    exact .of_eq [.g _, .g _] (fun _ => rfl) fun _ => by dsimp only; rw [ofInt_min_toInt]
  | max =>
    cases row
    exact .of_eq [.g _, .g _] (fun _ => rfl) fun _ => by dsimp only; rw [ofInt_max_toInt]
  | minu =>
    cases row
    exact .of_eq [.g _, .g _] (fun _ => rfl) fun _ => by dsimp only; rw [ofNat_min_toNat]
  | maxu =>
    cases row
    exact .of_eq [.g _, .g _] (fun _ => rfl) fun _ => by dsimp only; rw [ofNat_max_toNat]
  | mov | sxh =>
    cases row
    exact .of_eq [.g _] (fun _ => rfl) fun _ => rfl
  | abs =>
    cases row
    exact .of_eq [.g _] (fun _ => rfl) fun _ => by dsimp only; rw [word_natAbs_toInt]
  | abss =>
    cases row
    exact .of_eq [.g _] (fun _ => rfl) fun _ => by dsimp only; rw [sat32_eq_held32, Int.natCast_natAbs]
  | neg =>
    cases row
    exact .of_eq [.g _] (fun _ => rfl) fun _ => by dsimp only; rw [← BitVec.zero_sub]; rfl
  | negs =>
    cases row
    exact .of_eq [.g _] (fun _ => rfl) fun _ => sat32_eq_held32 _
  | clz =>
    cases row
    exact .of_eq [.g _] (fun _ => rfl) fun _ => by dsimp only; rw [clz32_eq_leadingZeros]
  | norm =>
    cases row
    exact .of_eq [.g _] (fun _ => rfl) fun _ => by dsimp only; rw [normOf_toNat (by decide)]
  | norm16 =>
    cases row
    exact .of_eq [.g _] (fun _ => rfl) fun _ => by dsimp only; rw [normOf_16_toNat]
  | zxh =>
    cases row
    exact .of_eq [.g _] (fun _ => rfl) fun _ => by dsimp only; rw [setWidth_lo16]
  | sat16 =>
    cases row
    exact .of_eq [.g _] (fun _ => rfl) fun _ => by dsimp only; rw [satTo_eq]; rfl
  | addi =>
    cases row
    exact .of_eq [.g _] (fun _ => rfl) fun _ => by dsimp only; rw [add_signExtend]
  | andi | ori =>
    cases row
    exact .of_eq [.g _] (fun _ => rfl) fun _ => by dsimp only; rw [BitVec.ofNat_toNat]
  | shi =>
    cases row
    exact .of_eq [.g _] (fun _ => rfl) fun _ => shiftBy_eq_shifted _ _ _
  | movi | movih | rnd | divs =>
    cases row
    exact ⟨_, fun _ => rfl⟩
  | _ => cases row

/-- Settles O6: an instruction of the table issues as a write of RD, and that write alone in its bundle takes effect. -/
theorem integerInstructions : Obligations.IntegerInstructions := by
  intro i h rd v s row inv quiet al
  exact (issuesG_of_aluRow row).ran inv quiet al

theorem word_roundShift (stat : Word) (rndf : BitVec 2) (v : Int) (k : Nat) :
    word (roundShift (roundMode stat rndf) v k) = BitVec.ofInt 32 (
      let m : Int := 2 ^ k
      let mode := if rndf = 0 then bits stat.toNat 27 26 else rndf.toNat
      if mode = 1 then v / m
      else if mode = 2 ∧ 2 * (v % m) = m then 2 * ((v / m + 1) / 2)
      else (2 * v + m) / (2 * m)) := by
  rw [roundShift_eq]
  rfl

/-- Settles O7: RND and DIVS by their rows, whose formulas are R113's; the quotient by the remainder and the bits that k steps
leave. -/
theorem roundAndDivide : Obligations.RoundAndDivide := by
  refine ⟨fun h rd rs amt rndf s inv quiet al => ?_, fun h rd rs s inv quiet al => ?_, fun num den => divideStep_quotient⟩
  · obtain ⟨t, hexec, ran⟩ := integerInstructions (.rnd h rd rs amt rndf) h rd _ s rfl inv quiet al
    refine ⟨t, hexec, ran_congr ran ?_⟩
    rw [word_roundShift]
  · obtain ⟨t, hexec, ran⟩ := integerInstructions (.divs h rd rs) h rd _ s rfl inv quiet al
    refine ⟨t, hexec, ran_congr ran ?_⟩
    exact congrArg (fun w => (Machine.Core.gets (coreAt h s) rd (w, false)).pass) (divStep_eq_divideStep _ _)

/-- Settles O8: CMP, CMPI and QOP issue as a write of QD, and that write alone in its bundle takes effect. -/
theorem predicateInstructions : Obligations.PredicateInstructions := by
  intro i h qd v b s row inv quiet al hv
  exact (issuesQ_of_predRow row).ran inv quiet al hv

end Sys2Proof
end
